-- ==== Sys2Proof/Word.lean ====
section
/-! DEFINITION. Words of the LG6-M160: bytes, 32-bit words and 64-bit double words, and the plainest
arithmetic on natural numbers that every later file uses (spec/00_scope.md R3, R4). -/

namespace Sys2Proof

/-- One byte of memory (R4). -/
abbrev Byte := BitVec 8

/-- A 32-bit configuration or instruction word (R76). -/
abbrev Word := BitVec 32

/-- A 64-bit value: a token's DATA, a register, half of a page-table entry. -/
abbrev DWord := BitVec 64

end Sys2Proof
end

