-- ==== Sys2Proof/Machine/Integer.lean ====
section
/-! DEFINITION. Integer values and the results of the integer element operations
(spec/05_element_integer.md R99 to R112, spec/06_element_float_router.md R119).
A width is given as its number of bits. Every result is the w-bit pattern as a natural number. -/

namespace Sys2Proof.Machine

/-- Uv(x, w): the unsigned value of x[w-1:0] (R99). -/
def uv (w : Nat) (x : DWord) : Nat := x.toNat % 2 ^ w

/-- The signed reading of a w-bit pattern. -/
def signedOf (w n : Nat) : Int :=
  if n % 2 ^ w < 2 ^ (w - 1) then (n % 2 ^ w : Nat) else (n % 2 ^ w : Nat) - (2 ^ w : Nat)

/-- Sv(x, w): the signed value of x[w-1:0] (R99). -/
def sv (w : Nat) (x : DWord) : Int := signedOf w x.toNat

/-- Trunc(v, w): v modulo 2^w as a w-bit pattern (the helper table after R6). -/
def trunc (w : Nat) (v : Int) : Nat := (v % (2 ^ w : Nat)).toNat

/-- SatS(v, w) as a w-bit pattern. -/
def satS (w : Nat) (v : Int) : Nat :=
  if v < -(2 ^ (w - 1) : Nat) then 2 ^ (w - 1)
  else if v > (2 ^ (w - 1) : Nat) - 1 then 2 ^ (w - 1) - 1
  else trunc w v

/-- SatU(v, w) as a w-bit pattern. -/
def satU (w : Nat) (v : Int) : Nat :=
  if v < 0 then 0 else if v > (2 ^ w : Nat) - 1 then 2 ^ w - 1 else v.toNat

/-- Whether SatS clamps. -/
def satSClamps (w : Nat) (v : Int) : Bool :=
  decide (v < -(2 ^ (w - 1) : Nat)) || decide (v > (2 ^ (w - 1) : Nat) - 1)

/-- Whether SatU clamps. -/
def satUClamps (w : Nat) (v : Int) : Bool := decide (v < 0) || decide (v > (2 ^ w : Nat) - 1)

/-- SignExt of an n-bit pattern to w bits. -/
def signExt (n w x : Nat) : Nat := trunc w (signedOf n x)

/-- A result pattern as a token's DATA (R59: the bits above w are zero). -/
def dataOf (n : Nat) : DWord := BitVec.ofNat 64 n

/-- 1 or 0 as a 64-bit result (R107). -/
def boolData (c : Bool) : DWord := if c then 1 else 0

/-- True of R98: DATA[63:0] is not zero. -/
def isTrue (x : DWord) : Bool := x != 0

/-! ### R101: two-operand arithmetic -/

def addW (w : Nat) (a b : DWord) : Nat := trunc w (uv w a + uv w b)
def subW (w : Nat) (a b : DWord) : Nat := trunc w ((uv w a : Int) - uv w b)
def addsW (w : Nat) (a b : DWord) : Nat := satS w (sv w a + sv w b)
def addsuW (w : Nat) (a b : DWord) : Nat := satU w ((uv w a : Int) + uv w b)
def subsW (w : Nat) (a b : DWord) : Nat := satS w (sv w a - sv w b)
def subsuW (w : Nat) (a b : DWord) : Nat := satU w ((uv w a : Int) - uv w b)
def minW (w : Nat) (a b : DWord) : Nat := trunc w (if sv w a ≤ sv w b then sv w a else sv w b)
def maxW (w : Nat) (a b : DWord) : Nat := trunc w (if sv w a ≤ sv w b then sv w b else sv w a)
def minuW (w : Nat) (a b : DWord) : Nat := if uv w a ≤ uv w b then uv w a else uv w b
def maxuW (w : Nat) (a b : DWord) : Nat := if uv w a ≤ uv w b then uv w b else uv w a

/-! ### R102: immediate arithmetic -/

def addiW (w : Nat) (a : DWord) (imm : Int) : Nat := trunc w (uv w a + imm)
def rsbiW (w : Nat) (a : DWord) (imm : Int) : Nat := trunc w (imm - uv w a)
def addisW (w : Nat) (a : DWord) (imm : Int) : Nat := satS w (sv w a + imm)
def rsbisW (w : Nat) (a : DWord) (imm : Int) : Nat := satS w (imm - sv w a)

/-! ### R103: logic -/

def andW (w : Nat) (a b : DWord) : Nat := uv w (a &&& b)
def orW (w : Nat) (a b : DWord) : Nat := uv w (a ||| b)
def xorW (w : Nat) (a b : DWord) : Nat := uv w (a ^^^ b)
def andnW (w : Nat) (a b : DWord) : Nat := uv w (a &&& ~~~b)
def notW (w : Nat) (a : DWord) : Nat := uv w (~~~a)

/-! ### R104: shifts and rotation -/

def shlW (w n : Nat) (a : DWord) : Nat := if w ≤ n then 0 else (uv w a * 2 ^ n) % 2 ^ w
def shrW (w n : Nat) (a : DWord) : Nat := if w ≤ n then 0 else uv w a / 2 ^ n
def shraW (w n : Nat) (a : DWord) : Nat := trunc w (sv w a / (2 ^ (min n (w - 1)) : Nat))
def rotW (w n : Nat) (a : DWord) : Nat :=
  (uv w a * 2 ^ (n % w) + uv w a / 2 ^ (w - n % w)) % 2 ^ w

/-! ### R105: bit counts and reversal -/

/-- How many of the low w bits of n are one. -/
def popCount : Nat → Nat → Nat
  | 0, _ => 0
  | w + 1, n => n % 2 + popCount w (n / 2)

/-- The number of bits of n up to its highest one bit, looked for among the low w bits. -/
def bitLen : Nat → Nat → Nat
  | 0, _ => 0
  | w + 1, n => if n = 0 then 0 else 1 + bitLen w (n / 2)

/-- The low w bits of n in reverse order. -/
def reverseBits : Nat → Nat → Nat
  | 0, _ => 0
  | w + 1, n => (n % 2) * 2 ^ w + reverseBits w (n / 2)

def clzW (w : Nat) (a : DWord) : Nat := w - bitLen w (uv w a)
def popcW (w : Nat) (a : DWord) : Nat := popCount w (uv w a)
def brevW (w : Nat) (a : DWord) : Nat := reverseBits w (uv w a)

/-! ### R106: absolute value and negation -/

def absW (w : Nat) (a : DWord) : Nat := trunc w ((sv w a).natAbs : Int)
def negW (w : Nat) (a : DWord) : Nat := trunc w (-(uv w a : Int))
def abssW (w : Nat) (a : DWord) : Nat := satS w ((sv w a).natAbs : Int)
def negsW (w : Nat) (a : DWord) : Nat := satS w (-(sv w a))

/-! ### R110: bit fields -/

/-- The position p of a field specification: bits [5:0]. -/
def fieldPos (spec : DWord) : Nat := spec.toNat % 64

/-- The length n of a field specification: bits [14:8], a length above 64 read as 64. -/
def fieldLen (spec : DWord) : Nat := min (spec.toNat / 256 % 128) 64

/-- n' = min(n, w - p). -/
def fieldEff (w : Nat) (spec : DWord) : Nat := min (fieldLen spec) (w - fieldPos spec)

/-- Whether the field is empty: p at or above w, or n = 0. -/
def fieldEmpty (w : Nat) (spec : DWord) : Bool :=
  decide (w ≤ fieldPos spec) || decide (fieldLen spec = 0)

def extrW (w : Nat) (a spec : DWord) : Nat :=
  if fieldEmpty w spec then 0 else uv w a / 2 ^ fieldPos spec % 2 ^ fieldEff w spec

def extrsW (w : Nat) (a spec : DWord) : Nat :=
  if fieldEmpty w spec then 0
  else signExt (fieldEff w spec) w (uv w a / 2 ^ fieldPos spec % 2 ^ fieldEff w spec)

def insfW (w : Nat) (a b spec : DWord) : Nat :=
  if fieldEmpty w spec then uv w a
  else
    uv w a % 2 ^ fieldPos spec
      + (b.toNat % 2 ^ fieldEff w spec) * 2 ^ fieldPos spec
      + (uv w a / 2 ^ (fieldPos spec + fieldEff w spec)) * 2 ^ (fieldPos spec + fieldEff w spec)

/-! ### R111: address computation -/

def leaW (w scale : Nat) (a b : DWord) : Nat := trunc 64 ((a.toNat : Int) + sv w b * (2 ^ scale : Nat))

/-! ### R112: division and remainder -/

def divS (w : Nat) (a b : DWord) : Nat :=
  if sv w b = 0 then 2 ^ w - 1
  else if sv w a = -(2 ^ (w - 1) : Nat) ∧ sv w b = -1 then uv w a
  else trunc w (Int.tdiv (sv w a) (sv w b))

def remS (w : Nat) (a b : DWord) : Nat :=
  if sv w b = 0 then uv w a
  else if sv w a = -(2 ^ (w - 1) : Nat) ∧ sv w b = -1 then 0
  else trunc w (sv w a - Int.tdiv (sv w a) (sv w b) * sv w b)

def divU (w : Nat) (a b : DWord) : Nat := if uv w b = 0 then 2 ^ w - 1 else uv w a / uv w b

def remU (w : Nat) (a b : DWord) : Nat := if uv w b = 0 then uv w a else uv w a % uv w b

/-! ### R119: integer multiplication -/

def mulW (w : Nat) (a b : DWord) : Nat := (uv w a * uv w b) % 2 ^ w
def mulhW (w : Nat) (a b : DWord) : Nat := trunc w ((sv w a * sv w b) / (2 ^ w : Nat))
def mulhuW (w : Nat) (a b : DWord) : Nat := uv w a * uv w b / 2 ^ w

end Sys2Proof.Machine
end

