-- ==== Sys2Proof/Syntax.lean ====
section
/-! DEFINITION. The syntax of the LG6-M160: one constructor of Instr for each row of
spec/opcode_table.json. Fabric instructions carry the fields of their words (spec/04_encoding.md R80 to
R90); Xpyraro instructions their register fields (spec/21_control_cores.md R370); the event rows carry what
names the place or the outside cause of the step (spec/95_what_each_step_holds.md). -/

namespace Sys2Proof

/-- Operand widths: the W field 0b00 to 0b11 (R81). -/
inductive Width where
  | byte | half | word | dword
  deriving DecidableEq, Repr

/-- Predicate modes PM 0b00, 0b01, 0b10 (R48); 0b11 is refused. -/
inductive Pred where
  | always | ifTrue | ifFalse
  deriving DecidableEq, Repr

/-- The latches of a slot: POS 0b00 to 0b10 (R82). -/
inductive Pos where
  | l | r | p
  deriving DecidableEq, Repr

/-- A target field (R82). -/
inductive Target where
  | none
  | latch (chained : Bool) (pos : Pos) (slot : BitVec 6)
  | port (n : BitVec 4)
  deriving DecidableEq, Repr

/-- Rounding directions (R66), in the order of their codes. -/
inductive Dir where
  | rne | rtz | rup | rdn
  deriving DecidableEq, Repr

/-- The floating-point formats of the element slots (R66). -/
inductive FKind where
  | f32 | f16 | bf16
  deriving DecidableEq, Repr

/-- The W and X fields of a rounding floating-point opcode (R66): FP32 in any direction, FP16 and BF16 in
RNE or RTZ. -/
inductive FSel where
  | f32 (d : Dir)
  | f16 (rtz : Bool)
  | bf16 (rtz : Bool)
  deriving DecidableEq, Repr

/-- The narrow floating-point formats, codes 0x3 to 0x7 (R55). -/
inductive NarrowF where
  | e5m2 | e4m3 | e3m2 | e2m3 | e2m1
  deriving DecidableEq, Repr

/-- The narrow integer formats, codes 0x8 to 0xC (R55). -/
inductive NarrowI where
  | int16 | int8 | uint8 | int4 | uint4
  deriving DecidableEq, Repr

/-- The destinations of CVT.N, codes 0x3 to 0xC (R121). -/
inductive Narrow where
  | f (n : NarrowF)
  | i (n : NarrowI)
  deriving DecidableEq, Repr

/-- The sources of KREAD (R335). -/
inductive KSrc where
  | k (c : BitVec 3)
  | kpack | iter | pass
  deriving DecidableEq, Repr

/-- The registers of SYS.RD and SYS.WR (R364). -/
inductive SysReg where
  | tfst | chst | ovrc | defc
  | meStatus (m : BitVec 2)
  | meConfig (m : BitVec 2)
  | subc | gcyc | ctnst
  | crec (n : BitVec 3)
  deriving DecidableEq, Repr

/-- Voltage classes, coded as CLASS in R77 (R20). -/
inductive VClass where
  | summer | spring | autumn | winter
  deriving DecidableEq, Repr

/-- What the ECC of an access finds (R213, R214, R358): an outside cause, not chosen by the machine. -/
inductive Ecc where
  | clean | corrected | uncorrectable
  deriving DecidableEq, Repr, Inhabited

/-- The actions of module reset and bring-up (R386, R387, R389), each with what comes from outside: the
outcome of a training, the firmware in the boot store with its signature, the cores' listings, the fused keys. -/
inductive BringUp where
  | reset
  | fuse (slot : Nat) (key : Nat)
  | firmware (image sig : List Byte)
  | ghl (boundary : Nat) (ok : Bool)
  | stack (h : Nat) (ok : Bool)
  | sync (ok : Bool)
  | release (q core : Nat) (words : List Word)
  | ports
  | running
  deriving DecidableEq, Repr

/-- The update an atomic access of a peer asks for (R236, R237, R301). -/
inductive InOp where
  | add | fadd | min | minU | max | maxU | and | or | xor | swap | cas
  deriving DecidableEq, Repr

/-- An access that arrives from a peer (R301): its kind, physical address, size in bytes, data, and whether the data is
poisoned. An atomic acts on a word of 4 or 8 bytes with the value v, CAS with p as the value it expects; a reduction differs from it
in its answer alone. -/
inductive Inbound where
  | read (pa n : Nat)
  | write (pa n v : Nat) (psn : Bool)
  | atomic (pa : Nat) (o : InOp) (dword : Bool) (v p : DWord)
  deriving DecidableEq, Repr

/-- What a peer reports of an access it has performed (R300): the value read, and bit by bit which of its bytes come from poisoned
sectors (R230). -/
structure Report where
  value : Nat
  bad : Nat
  deriving DecidableEq, Repr

/-- The instructions and events: one constructor for each row of spec/opcode_table.json. -/
inductive Instr where
  /-- ADD (R101). -/
  | add (w : Width) (p : Pred) (t1 t0 : Target)
  /-- SUB (R101). -/
  | sub (w : Width) (p : Pred) (t1 t0 : Target)
  /-- ADDS (R101). -/
  | adds (w : Width) (p : Pred) (t1 t0 : Target)
  /-- ADDS_U (R101). -/
  | addsU (w : Width) (p : Pred) (t1 t0 : Target)
  /-- SUBS (R101). -/
  | subs (w : Width) (p : Pred) (t1 t0 : Target)
  /-- SUBS_U (R101). -/
  | subsU (w : Width) (p : Pred) (t1 t0 : Target)
  /-- ADDI (R102). -/
  | addi (w : Width) (p : Pred) (i : BitVec 9) (t0 : Target)
  /-- RSBI (R102). -/
  | rsbi (w : Width) (p : Pred) (i : BitVec 9) (t0 : Target)
  /-- AND (R103). -/
  | and (w : Width) (p : Pred) (t1 t0 : Target)
  /-- OR (R103). -/
  | or (w : Width) (p : Pred) (t1 t0 : Target)
  /-- XOR (R103). -/
  | xor (w : Width) (p : Pred) (t1 t0 : Target)
  /-- ANDN (R103). -/
  | andn (w : Width) (p : Pred) (t1 t0 : Target)
  /-- NOT (R103). -/
  | not (w : Width) (p : Pred) (t1 t0 : Target)
  /-- SHL (R104). -/
  | shl (w : Width) (p : Pred) (t1 t0 : Target)
  /-- SHR (R104). -/
  | shr (w : Width) (p : Pred) (t1 t0 : Target)
  /-- SHR_A (R104). -/
  | shrA (w : Width) (p : Pred) (t1 t0 : Target)
  /-- ROT (R104). -/
  | rot (w : Width) (p : Pred) (t1 t0 : Target)
  /-- SHLI (R104). -/
  | shli (w : Width) (p : Pred) (i : BitVec 9) (t0 : Target)
  /-- SHRI (R104). -/
  | shri (w : Width) (p : Pred) (i : BitVec 9) (t0 : Target)
  /-- SHRI_A (R104). -/
  | shriA (w : Width) (p : Pred) (i : BitVec 9) (t0 : Target)
  /-- CLZ (R105). -/
  | clz (w : Width) (p : Pred) (t1 t0 : Target)
  /-- POPC (R105). -/
  | popc (w : Width) (p : Pred) (t1 t0 : Target)
  /-- BREV (R105). -/
  | brev (w : Width) (p : Pred) (t1 t0 : Target)
  /-- MIN (R101). -/
  | min (w : Width) (p : Pred) (t1 t0 : Target)
  /-- MIN_U (R101). -/
  | minU (w : Width) (p : Pred) (t1 t0 : Target)
  /-- MAX (R101). -/
  | max (w : Width) (p : Pred) (t1 t0 : Target)
  /-- MAX_U (R101). -/
  | maxU (w : Width) (p : Pred) (t1 t0 : Target)
  /-- ABS (R106). -/
  | abs (w : Width) (p : Pred) (t1 t0 : Target)
  /-- NEG (R106). -/
  | neg (w : Width) (p : Pred) (t1 t0 : Target)
  /-- CMP_EQ (R107). -/
  | cmpEq (w : Width) (p : Pred) (t1 t0 : Target)
  /-- CMP_NE (R107). -/
  | cmpNe (w : Width) (p : Pred) (t1 t0 : Target)
  /-- CMP_LT (R107). -/
  | cmpLt (w : Width) (p : Pred) (t1 t0 : Target)
  /-- CMP_LE (R107). -/
  | cmpLe (w : Width) (p : Pred) (t1 t0 : Target)
  /-- CMP_LTU (R107). -/
  | cmpLtu (w : Width) (p : Pred) (t1 t0 : Target)
  /-- CMP_LEU (R107). -/
  | cmpLeu (w : Width) (p : Pred) (t1 t0 : Target)
  /-- CMPI_EQ (R107). -/
  | cmpiEq (w : Width) (p : Pred) (i : BitVec 9) (t0 : Target)
  /-- CMPI_NE (R107). -/
  | cmpiNe (w : Width) (p : Pred) (i : BitVec 9) (t0 : Target)
  /-- CMPI_LT (R107). -/
  | cmpiLt (w : Width) (p : Pred) (i : BitVec 9) (t0 : Target)
  /-- CMPI_LE (R107). -/
  | cmpiLe (w : Width) (p : Pred) (i : BitVec 9) (t0 : Target)
  /-- CMPI_GT (R107). -/
  | cmpiGt (w : Width) (p : Pred) (i : BitVec 9) (t0 : Target)
  /-- CMPI_GE (R107). -/
  | cmpiGe (w : Width) (p : Pred) (i : BitVec 9) (t0 : Target)
  /-- CMPI_LTU (R107). -/
  | cmpiLtu (w : Width) (p : Pred) (i : BitVec 9) (t0 : Target)
  /-- CMPI_LEU (R107). -/
  | cmpiLeu (w : Width) (p : Pred) (i : BitVec 9) (t0 : Target)
  /-- CMPI_GTU (R107). -/
  | cmpiGtu (w : Width) (p : Pred) (i : BitVec 9) (t0 : Target)
  /-- CMPI_GEU (R107). -/
  | cmpiGeu (w : Width) (p : Pred) (i : BitVec 9) (t0 : Target)
  /-- TEST (R107). -/
  | test (w : Width) (p : Pred) (t1 t0 : Target)
  /-- TEST_Z (R107). -/
  | testZ (w : Width) (p : Pred) (t1 t0 : Target)
  /-- SEL (R108). -/
  | sel (w : Width) (t1 t0 : Target)
  /-- MOV (R108). -/
  | mov (w : Width) (p : Pred) (t1 t0 : Target)
  /-- GENS (R109). -/
  | gens (i : BitVec 15) (t0 : Target)
  /-- GENU (R109). -/
  | genu (i : BitVec 15) (t0 : Target)
  /-- APPH (R109). -/
  | apph (i : BitVec 15) (t0 : Target)
  /-- EXTR (R110). -/
  | extr (w : Width) (p : Pred) (t1 t0 : Target)
  /-- EXTR_S (R110). -/
  | extrS (w : Width) (p : Pred) (t1 t0 : Target)
  /-- INSF (R110). -/
  | insf (w : Width) (t1 t0 : Target)
  /-- LEA (R111). -/
  | lea (w : Width) (p : Pred) (x : BitVec 2) (t1 t0 : Target)
  /-- ADDI_S (R102). -/
  | addiS (w : Width) (p : Pred) (i : BitVec 9) (t0 : Target)
  /-- RSBI_S (R102). -/
  | rsbiS (w : Width) (p : Pred) (i : BitVec 9) (t0 : Target)
  /-- ABS_S (R106). -/
  | absS (w : Width) (p : Pred) (t1 t0 : Target)
  /-- NEG_S (R106). -/
  | negS (w : Width) (p : Pred) (t1 t0 : Target)
  /-- KSET (R336). -/
  | kset (c : BitVec 3) (t1 t0 : Target)
  /-- KNEXT (R336). -/
  | knext (c : BitVec 3) (t1 t0 : Target)
  /-- KLAST (R336). -/
  | klast (c : BitVec 3) (t1 t0 : Target)
  /-- KREAD (R336). -/
  | kread (s : KSrc) (t1 t0 : Target)
  /-- FADD (R115). -/
  | fadd (f : FSel) (p : Pred) (t1 t0 : Target)
  /-- FSUB (R115). -/
  | fsub (f : FSel) (p : Pred) (t1 t0 : Target)
  /-- FMUL (R115). -/
  | fmul (f : FSel) (p : Pred) (t1 t0 : Target)
  /-- FMIN (R116). -/
  | fmin (f : FKind) (p : Pred) (t1 t0 : Target)
  /-- FMAX (R116). -/
  | fmax (f : FKind) (p : Pred) (t1 t0 : Target)
  /-- FABS (R116). -/
  | fabs (f : FKind) (p : Pred) (t1 t0 : Target)
  /-- FNEG (R116). -/
  | fneg (f : FKind) (p : Pred) (t1 t0 : Target)
  /-- FCMP_EQ (R117). -/
  | fcmpEq (f : FKind) (p : Pred) (t1 t0 : Target)
  /-- FCMP_NE (R117). -/
  | fcmpNe (f : FKind) (p : Pred) (t1 t0 : Target)
  /-- FCMP_LT (R117). -/
  | fcmpLt (f : FKind) (p : Pred) (t1 t0 : Target)
  /-- FCMP_LE (R117). -/
  | fcmpLe (f : FKind) (p : Pred) (t1 t0 : Target)
  /-- FCMP_UN (R117). -/
  | fcmpUn (f : FKind) (p : Pred) (t1 t0 : Target)
  /-- FRND (R118). -/
  | frnd (f : FSel) (p : Pred) (t1 t0 : Target)
  /-- CVT_IF_SW (R120). -/
  | cvtIfSw (f : FSel) (p : Pred) (t1 t0 : Target)
  /-- CVT_IF_SD (R120). -/
  | cvtIfSd (f : FSel) (p : Pred) (t1 t0 : Target)
  /-- CVT_IF_UW (R120). -/
  | cvtIfUw (f : FSel) (p : Pred) (t1 t0 : Target)
  /-- CVT_IF_UD (R120). -/
  | cvtIfUd (f : FSel) (p : Pred) (t1 t0 : Target)
  /-- CVT_FI_SW (R120). -/
  | cvtFiSw (f : FSel) (p : Pred) (t1 t0 : Target)
  /-- CVT_FI_SD (R120). -/
  | cvtFiSd (f : FSel) (p : Pred) (t1 t0 : Target)
  /-- CVT_FI_UW (R120). -/
  | cvtFiUw (f : FSel) (p : Pred) (t1 t0 : Target)
  /-- CVT_FI_UD (R120). -/
  | cvtFiUd (f : FSel) (p : Pred) (t1 t0 : Target)
  /-- CVT_FF_F32 (R120). -/
  | cvtFfF32 (f : FSel) (p : Pred) (t1 t0 : Target)
  /-- CVT_FF_F16 (R120). -/
  | cvtFfF16 (f : FSel) (p : Pred) (t1 t0 : Target)
  /-- CVT_FF_BF16 (R120). -/
  | cvtFfBf16 (f : FSel) (p : Pred) (t1 t0 : Target)
  /-- CVT_N (R121). -/
  | cvtN (s : FKind) (d : Narrow) (t1 t0 : Target)
  /-- CVT_N_W (R121). -/
  | cvtNW (s : NarrowF) (t1 t0 : Target)
  /-- CVT_N_I (R121). -/
  | cvtNI (d : NarrowI) (t1 t0 : Target)
  /-- MUL (R119). -/
  | mul (w : Width) (p : Pred) (t1 t0 : Target)
  /-- MULH (R119). -/
  | mulh (w : Width) (p : Pred) (t1 t0 : Target)
  /-- MULH_U (R119). -/
  | mulhU (w : Width) (p : Pred) (t1 t0 : Target)
  /-- FACC (R122). -/
  | facc (f : FSel) (t1 t0 : Target)
  /-- IACC (R122). -/
  | iacc (w : Width) (s : Bool) (t1 t0 : Target)
  /-- STEER (R126). -/
  | steer (t1 t0 : Target)
  /-- MERGE (R126). -/
  | merge (t1 t0 : Target)
  /-- MERGE_RR (R126). -/
  | mergeRr (t1 t0 : Target)
  /-- CARRY (R126). -/
  | carry (t1 t0 : Target)
  /-- CARRY_I (R126). -/
  | carryI (i : BitVec 9) (t0 : Target)
  /-- INVAR (R126). -/
  | invar (t1 t0 : Target)
  /-- GATE (R126). -/
  | gate (t1 t0 : Target)
  /-- SINK_A (R126). -/
  | sinkA (t1 t0 : Target)
  /-- ORDJ (R126). -/
  | ordj (t1 t0 : Target)
  /-- EOS (R123). -/
  | eos (p : Pred) (t1 t0 : Target)
  /-- EOS_I (R123). -/
  | eosI (p : Pred) (i : BitVec 9) (t0 : Target)
  /-- EOT (R123). -/
  | eot (p : Pred) (t1 t0 : Target)
  /-- EOT_I (R123). -/
  | eotI (p : Pred) (i : BitVec 9) (t0 : Target)
  /-- MARK (R123). -/
  | mark (p : Pred) (t1 t0 : Target)
  /-- MARK_I (R123). -/
  | markI (p : Pred) (i : BitVec 9) (t0 : Target)
  /-- DIV (R112). -/
  | div (w : Width) (p : Pred) (t1 t0 : Target)
  /-- DIV_U (R112). -/
  | divU (w : Width) (p : Pred) (t1 t0 : Target)
  /-- REM (R112). -/
  | rem (w : Width) (p : Pred) (t1 t0 : Target)
  /-- REM_U (R112). -/
  | remU (w : Width) (p : Pred) (t1 t0 : Target)
  /-- FDIV (R115). -/
  | fdiv (f : FSel) (p : Pred) (t1 t0 : Target)
  /-- FSQRT (R115). -/
  | fsqrt (f : FSel) (p : Pred) (t1 t0 : Target)
  /-- CTN_OPEN (R360). -/
  | ctnOpen (t1 t0 : Target)
  /-- CTN_CLOSE (R360). -/
  | ctnClose (t1 t0 : Target)
  /-- TRAP (R362). -/
  | trap (p : Pred) (i : BitVec 9) (t0 : Target)
  /-- TRAP_V (R362). -/
  | trapV (p : Pred) (t1 t0 : Target)
  /-- HALT (R363). -/
  | halt (g : Bool)
  /-- SYS_RD (R364). -/
  | sysRd (r : SysReg) (t1 t0 : Target)
  /-- SYS_WR (R364). -/
  | sysWr (r : SysReg) (t1 t0 : Target)
  /-- SYS_RD_A (R365). -/
  | sysRdA (d : Bool) (p : Pred) (t1 t0 : Target)
  /-- SYS_WR_A (R365). -/
  | sysWrA (d : Bool) (p : Pred) (t1 t0 : Target)
  /-- LD (R231). -/
  | ld (w : Width) (p : Pred) (e s : Bool) (t1 t0 : Target)
  /-- LDB (R232). -/
  | ldb (p : Pred) (e s : Bool) (t1 t0 : Target)
  /-- ST (R233). -/
  | st (w : Width) (p : Pred) (t1 t0 : Target)
  /-- STB (R234). -/
  | stb (t1 t0 : Target)
  /-- PLD (R244). -/
  | pld (d : Bool) (p : Pred) (t1 t0 : Target)
  /-- PST (R245). -/
  | pst (d : Bool) (t1 t0 : Target)
  /-- STEP (R246). -/
  | step (s : BitVec 6) (t1 t0 : Target)
  /-- ACQ_X (R240). -/
  | acqX (p : Pred) (g : BitVec 8) (t0 : Target)
  /-- ACQ_S (R240). -/
  | acqS (p : Pred) (g : BitVec 8) (t0 : Target)
  /-- REL (R241). -/
  | rel (p : Pred) (g : BitVec 8) (t0 : Target)
  /-- FENCE_F (R243). -/
  | fenceF (t1 t0 : Target)
  /-- FENCE_D (R243). -/
  | fenceD (t1 t0 : Target)
  /-- FENCE_P (R243). -/
  | fenceP (t1 t0 : Target)
  /-- FENCE_S (R243). -/
  | fenceS (t1 t0 : Target)
  /-- AMO_ADD (R236). -/
  | amoAdd (d : Bool) (p : Pred) (t1 t0 : Target)
  /-- AMO_FADD (R236). -/
  | amoFadd (p : Pred) (t1 t0 : Target)
  /-- AMO_MIN (R236). -/
  | amoMin (d : Bool) (p : Pred) (u : Bool) (t1 t0 : Target)
  /-- AMO_MAX (R236). -/
  | amoMax (d : Bool) (p : Pred) (u : Bool) (t1 t0 : Target)
  /-- AMO_AND (R236). -/
  | amoAnd (d : Bool) (p : Pred) (t1 t0 : Target)
  /-- AMO_OR (R236). -/
  | amoOr (d : Bool) (p : Pred) (t1 t0 : Target)
  /-- AMO_XOR (R236). -/
  | amoXor (d : Bool) (p : Pred) (t1 t0 : Target)
  /-- AMO_SWAP (R236). -/
  | amoSwap (d : Bool) (p : Pred) (t1 t0 : Target)
  /-- AMO_CAS (R236). -/
  | amoCas (d : Bool) (t1 t0 : Target)
  /-- RED_ADD (R237). -/
  | redAdd (d : Bool) (p : Pred) (t1 t0 : Target)
  /-- RED_FADD (R237). -/
  | redFadd (p : Pred) (t1 t0 : Target)
  /-- RED_MIN (R237). -/
  | redMin (d : Bool) (p : Pred) (u : Bool) (t1 t0 : Target)
  /-- RED_MAX (R237). -/
  | redMax (d : Bool) (p : Pred) (u : Bool) (t1 t0 : Target)
  /-- RED_AND (R237). -/
  | redAnd (d : Bool) (p : Pred) (t1 t0 : Target)
  /-- RED_OR (R237). -/
  | redOr (d : Bool) (p : Pred) (t1 t0 : Target)
  /-- PREF (R247). -/
  | pref (p : Pred) (e l : Bool)
  /-- RETAIN (R248). -/
  | retain (t1 t0 : Target)
  /-- UNPIN (R248). -/
  | unpin (t1 t0 : Target)
  /-- FLUSH (R249). -/
  | flush (p : Pred) (d : Bool) (t1 t0 : Target)
  /-- MX_CFG (R260). -/
  | mxCfg (m : BitVec 4) (t1 t0 : Target)
  /-- MX_GATH (R261). -/
  | mxGath (t1 t0 : Target)
  /-- MX_BB (R262). -/
  | mxBb (m : BitVec 4) (t1 t0 : Target)
  /-- MX_MMA (R263). -/
  | mxMma (m : BitVec 4) (t1 t0 : Target)
  /-- MX_ZERO (R264). -/
  | mxZero (m : BitVec 4) (t1 t0 : Target)
  /-- MX_EPI (R266). -/
  | mxEpi (d : Bool) (m : BitVec 2) (t1 t0 : Target)
  /-- MX_CPY (R265). -/
  | mxCpy (d : Bool) (m : BitVec 2) (t1 t0 : Target)
  /-- CPY_HEAD (R271). -/
  | cpyHead (c : BitVec 2) (t1 t0 : Target)
  /-- CPY_STAT (R272). -/
  | cpyStat (d : Bool) (m : BitVec 2) (t1 t0 : Target)
  /-- WLK_CFG (R275). -/
  | wlkCfg (t1 t0 : Target)
  /-- WLK_GO (R276). -/
  | wlkGo (e : Bool) (t1 t0 : Target)
  /-- QFENCE (R277). -/
  | qfence (p : Pred) (t1 t0 : Target)
  /-- BUF_WAIT (R192). -/
  | bufWait (d : Bool) (m : BitVec 2) (t1 t0 : Target)
  /-- BUF_REL (R192). -/
  | bufRel (t1 t0 : Target)
  /-- BUF_STAT (R192). -/
  | bufStat (t1 t0 : Target)
  /-- SPAWN (R324). -/
  | spawn (s : BitVec 6) (t1 t0 : Target)
  /-- SLEN (R139). -/
  | slen (l : BitVec 3) (t1 t0 : Target)
  /-- SLD (R141). -/
  | sld (z : BitVec 5) (t1 t0 : Target)
  /-- SST (R141). -/
  | sst (z : BitVec 5) (t1 t0 : Target)
  /-- SGEN (R140). -/
  | sgen (z : BitVec 5) (t1 t0 : Target)
  /-- SAND (R142). -/
  | sand (zd za zb : BitVec 5) (t0 : Target)
  /-- SOR (R142). -/
  | sor (zd za zb : BitVec 5) (t0 : Target)
  /-- SXOR (R142). -/
  | sxor (zd za zb : BitVec 5) (t0 : Target)
  /-- SNOT (R142). -/
  | snot (zd za : BitVec 5) (t0 : Target)
  /-- SMUX (R142). -/
  | smux (zd za zb : BitVec 5) (t0 : Target)
  /-- SMIN (R142). -/
  | smin (zd za zb : BitVec 5) (t0 : Target)
  /-- SMAX (R142). -/
  | smax (zd za zb : BitVec 5) (t0 : Target)
  /-- SCNT (R144). -/
  | scnt (z : BitVec 5) (t1 t0 : Target)
  /-- SCNT_A (R144). -/
  | scntA (z : BitVec 5) (t1 t0 : Target)
  /-- SCVT (R144). -/
  | scvt (z : BitVec 5) (t1 t0 : Target)
  /-- SREGEN (R143). -/
  | sregen (zd zs : BitVec 5) (g : BitVec 4) (t0 : Target)
  /-- SMOV (R142). -/
  | smov (zd za : BitVec 5) (t0 : Target)
  /-- XLNCH (R372). -/
  | xlnch (rd rs1 rs2 : BitVec 5)
  /-- XKSCAN (R373). -/
  | xkscan (rd rs1 : BitVec 5)
  /-- XQPRI (R373). -/
  | xqpri (rd rs1 rs2 : BitVec 5)
  /-- XQSTAT (R373). -/
  | xqstat (rd rs1 : BitVec 5)
  /-- XFLT_POP (R374). -/
  | xfltPop (rd rs1 : BitVec 5)
  /-- XFLT_RES (R375). -/
  | xfltRes (rd rs1 rs2 : BitVec 5)
  /-- XJNL_W (R373). -/
  | xjnlW (rd rs1 : BitVec 5)
  /-- XHBT (R377). -/
  | xhbt (rs1 : BitVec 5)
  /-- XTAKE (R378). -/
  | xtake (rd : BitVec 5)
  /-- XPART_QSC (R379). -/
  | xpartQsc (rd rs1 : BitVec 5)
  /-- XPART_IL (R380). -/
  | xpartIl (rd rs1 rs2 : BitVec 5)
  /-- XPART_BND (R380). -/
  | xpartBnd (rd rs1 rs2 : BitVec 5)
  /-- XPART_SD (R381). -/
  | xpartSd (rd rs1 : BitVec 5)
  /-- XPART_COMMIT (R382). -/
  | xpartCommit (rd rs1 : BitVec 5)
  /-- XSIG_VER (R384). -/
  | xsigVer (rd rs1 : BitVec 5)
  /-- XRD_CNT (R385). -/
  | xrdCnt (rd rs1 : BitVec 5)
  /-- CONTROL_CORE_ACCESS (R294). -/
  | controlCoreAccess (c : Nat) (e : Ecc)
  /-- REGISTER_WRITE (R26). -/
  | registerWrite (pa n : Nat) (v : DWord)
  /-- LQC_WRITE (R312). -/
  | lqcWrite (q n : Nat) (v : DWord)
  /-- CRP_WRITE (R312). -/
  | crpWrite (q : Nat) (v : DWord)
  /-- JNP_WRITE (R312). -/
  | jnpWrite (q : Nat) (v : DWord)
  /-- RETW_CONTROL_WRITE (R211). -/
  | retwControlWrite (d k : Nat) (v : DWord)
  /-- LAYC_GO (R215). -/
  | laycGo (d : Nat) (v : DWord)
  /-- RELAYOUT_COMPLETE (R215). -/
  | relayoutComplete (d : Nat)
  /-- MODULE_RESET (R386). -/
  | moduleReset (a : BringUp)
  /-- UE_LINK_TRAINING (R383). -/
  | ueLinkTraining (d k : Nat) (lanes : BitVec 8)
  /-- VOLTAGE_CLASS_CHANGE (R20). -/
  | voltageClassChange (f : Nat) (c : VClass)
  /-- ARBITER_PASS (R319). -/
  | arbiterPass (q : Nat)
  /-- SPAWN_NODE_PUSH (R34). -/
  | spawnNodePush (g n : Nat)
  /-- NODE_DONE (R29). -/
  | nodeDone (g n : Nat)
  /-- SECTION_LOAD (R399). -/
  | sectionLoad (g n : Nat)
  /-- ENTRY_TOKEN_DELIVERY (R50). -/
  | entryTokenDelivery (g n ep : Nat)
  /-- SECTION_DONE (R36). -/
  | sectionDone (g n : Nat)
  /-- DEFERRED_START (R159). -/
  | deferredStart (x : Nat)
  /-- OVERRUN_CAPTURE (R161). -/
  | overrunCapture (x : Nat)
  /-- RESULT_DELIVERY (R49). -/
  | resultDelivery (x : Nat)
  /-- CHECKER_MISMATCH (R357). -/
  | checkerMismatch (x : Nat) (again : Bool)
  /-- TRANSLATION_WALK (R170). -/
  | translationWalk (x : Nat)
  /-- MEMORY_ACCESS_PERFORMED (R227). -/
  | memoryAccessPerformed (x k : Nat) (e : Ecc)
  /-- LEAK_TICK (R342). -/
  | leakTick (d k : Nat)
  /-- GUARD_GRANT (R239). -/
  | guardGrant (g n : Nat)
  /-- STEP_SWAP (R221). -/
  | stepSwap (g n : Nat)
  /-- ENGINE_COMMAND_PERFORMED (R253). -/
  | engineCommandPerformed (f q k : Nat)
  /-- MSU_COMMAND_PERFORMED (R135). -/
  | msuCommandPerformed (f : Nat)
  /-- SLD_SECOND_PLACE (R136). -/
  | sldSecondPlace (f k : Nat)
  /-- COPY_RECORD (R269). -/
  | copyRecord (f k : Nat)
  /-- WATCHDOG (R52). -/
  | watchdog (g n : Nat)
  /-- TLIM_EXPIRY (R181). -/
  | tlimExpiry (g n : Nat)
  /-- COMPLETION_POST (R329). -/
  | completionPost (q : Nat)
  /-- REMOTE_RESPONSE (R300). -/
  | remoteResponse (k err : Nat) (v : Report)
  /-- INBOUND_REMOTE_ACCESS (R301). -/
  | inboundRemoteAccess (d k : Nat) (a : Inbound)
  /-- CONTROL_CORE_INSTRUCTION (R367). -/
  | controlCoreInstruction (c : Nat) (e : Ecc)
  /-- GHL_FLIT_RETRY (R341). -/
  | ghlFlitRetry (d k : Nat)
  /-- UNCORRECTABLE_CODEWORD (R383). -/
  | uncorrectableCodeword (d k : Nat)
  /-- SINK (R126). -/
  | sink
  /-- NOP (R363). -/
  | nop
  /-- GCYC_SYNC_FLIT (R387). -/
  | gcycSyncFlit
  /-- HEARTBEAT_LAPSE (R377). -/
  | heartbeatLapse
  /-- REMOTE_TIMEOUT (R300). -/
  | remoteTimeout
  deriving DecidableEq, Repr

/-- The bits of a width (R81). -/
def Width.bits : Width → Nat
  | .byte => 8
  | .half => 16
  | .word => 32
  | .dword => 64

/-- W 0b10 or 0b11 of the opcodes that take only these. -/
def wordOrDword (d : Bool) : Width := if d then .dword else .word

/-- The bits of a narrow integer format (R58). -/
def NarrowI.bits : NarrowI → Nat
  | .int16 => 16
  | .int8 => 8
  | .uint8 => 8
  | .int4 => 4
  | .uint4 => 4

/-- Whether a narrow integer format is signed (R58). -/
def NarrowI.signed : NarrowI → Bool
  | .int16 => true
  | .int8 => true
  | .uint8 => false
  | .int4 => true
  | .uint4 => false

/-- The format of a rounding opcode. -/
def FSel.kind : FSel → FKind
  | .f32 _ => .f32
  | .f16 _ => .f16
  | .bf16 _ => .bf16

/-- The direction of a rounding opcode. -/
def FSel.dir : FSel → Dir
  | .f32 d => d
  | .f16 z => if z then .rtz else .rne
  | .bf16 z => if z then .rtz else .rne

end Sys2Proof
end

