-- ==== Sys2Proof/WellFormed.lean ====
section
/-! DEFINITION. Well-formed instructions: the field values an instruction's own chapter assigns
(spec/04_encoding.md R81, R92 and the load checks R113, R128, R145, R193, R251, R278, R366). A value outside
them is refused at load with BAD-FORM. Checks that need the slot, the tile or its edges (SLOT-KIND, R84) are
made by the section load (Sys2Proof/Machine/LoadCheck.lean). -/

namespace Sys2Proof

/-- A shift immediate is below the width (R104). -/
def shiftOk (w : Width) (i : BitVec 9) : Bool := decide (i.toNat < w.bits)

/-- SYS.WR takes only the registers R364 lets it write. -/
def SysReg.writable : SysReg → Bool
  | .tfst => true
  | .chst => true
  | .ovrc => true
  | .defc => true
  | .meStatus _ => true
  | .meConfig _ => false
  | .subc => true
  | .gcyc => false
  | .ctnst => false
  | .crec _ => false

/-- The well-formedness of an instruction: every check that its word alone decides. -/
def wellFormed : Instr → Bool
  | .shli w _ i _ => shiftOk w i
  | .shri w _ i _ => shiftOk w i
  | .shriA w _ i _ => shiftOk w i
  | .ld w _ _ s _ _ => !(decide (w = .dword) && s)
  | .steer t1 t0 => decide (t1 ≠ .none) && decide (t0 ≠ .none)
  | .sysWr r _ _ => r.writable
  | .mxCfg m _ _ => decide (m ≠ 0)
  | .mxBb m _ _ => decide (m ≠ 0)
  | .mxMma m _ _ => decide (m ≠ 0)
  | .mxZero m _ _ => decide (m ≠ 0)
  | .bufWait tk c _ _ => !tk || decide (c = 2)
  | .slen l _ _ => decide (l.toNat ≤ 5)
  | _ => true

end Sys2Proof
end

