-- ==== Sys2Proof/Decode.lean ====
section
/-! DEFINITION. Decoding and encoding (spec/04_encoding.md R80 to R85, spec/21_control_cores.md R370).
A fabric word is [31:24] OP, [23:18] M (W, PM and X; or SEL), [17:9] T1 or IMM9, [8:0] T0. Decoding is total:
a word is the empty word, an instruction, or refused with BAD-OPCODE or BAD-FORM. -/

namespace Sys2Proof

/-- Why a word is not an instruction (R78, R85, R92). -/
inductive Reject where
  | emptyWord
  | badOpcode
  | badForm
  deriving DecidableEq, Repr

/-! ### Fields -/

/-- The width field. -/
def widthOf (b : BitVec 2) : Width :=
  if b = 0 then .byte else if b = 1 then .half else if b = 2 then .word else .dword

def widthBits : Width → BitVec 2
  | .byte => 0
  | .half => 1
  | .word => 2
  | .dword => 3

/-- The predicate mode field; 0b11 is refused (R81). -/
def predOf (b : BitVec 2) : Option Pred :=
  if b = 0 then some .always else if b = 1 then some .ifTrue else if b = 2 then some .ifFalse else none

def predBits : Pred → BitVec 2
  | .always => 0
  | .ifTrue => 1
  | .ifFalse => 2

def dirOf (b : BitVec 2) : Dir :=
  if b = 0 then .rne else if b = 1 then .rtz else if b = 2 then .rup else .rdn

def dirBits : Dir → BitVec 2
  | .rne => 0
  | .rtz => 1
  | .rup => 2
  | .rdn => 3

/-- The W and X fields of a rounding floating-point opcode (R66). -/
def fselOf (w x : BitVec 2) : Option FSel :=
  if w = 2 then some (.f32 (dirOf x))
  else if w = 1 then
    if x = 0 then some (.f16 false) else if x = 2 then some (.f16 true)
    else if x = 1 then some (.bf16 false) else some (.bf16 true)
  else none

def fselBits : FSel → BitVec 2 × BitVec 2
  | .f32 d => (2, dirBits d)
  | .f16 z => (1, if z then 2 else 0)
  | .bf16 z => (1, if z then 3 else 1)

/-- The W and X fields of a floating-point opcode without direction (R116). -/
def fkindOf (w x : BitVec 2) : Option FKind :=
  if w = 2 ∧ x = 0 then some .f32
  else if w = 1 ∧ x = 0 then some .f16
  else if w = 1 ∧ x = 1 then some .bf16
  else none

def fkindBits : FKind → BitVec 2 × BitVec 2
  | .f32 => (2, 0)
  | .f16 => (1, 0)
  | .bf16 => (1, 1)

/-- The source field of CVT.N (R121). -/
def nsrcOf (b : BitVec 2) : Option FKind :=
  if b = 0 then some .f32 else if b = 1 then some .f16 else if b = 2 then some .bf16 else none

def nsrcBits : FKind → BitVec 2
  | .f32 => 0
  | .f16 => 1
  | .bf16 => 2

/-- Format codes 0x3 to 0x7 (R55). -/
def narrowFOf (b : BitVec 4) : Option NarrowF :=
  if b = 3 then some .e5m2 else if b = 4 then some .e4m3 else if b = 5 then some .e3m2
  else if b = 6 then some .e2m3 else if b = 7 then some .e2m1 else none

def narrowFBits : NarrowF → BitVec 4
  | .e5m2 => 3
  | .e4m3 => 4
  | .e3m2 => 5
  | .e2m3 => 6
  | .e2m1 => 7

/-- Format codes 0x8 to 0xC (R55). -/
def narrowIOf (b : BitVec 4) : Option NarrowI :=
  if b = 8 then some .int16 else if b = 9 then some .int8 else if b = 10 then some .uint8
  else if b = 11 then some .int4 else if b = 12 then some .uint4 else none

def narrowIBits : NarrowI → BitVec 4
  | .int16 => 8
  | .int8 => 9
  | .uint8 => 10
  | .int4 => 11
  | .uint4 => 12

def narrowOf (b : BitVec 4) : Option Narrow :=
  match narrowFOf b with
  | some n => some (.f n)
  | none => (narrowIOf b).map .i

def narrowBits : Narrow → BitVec 4
  | .f n => narrowFBits n
  | .i n => narrowIBits n

/-- KREAD's source field (R335). -/
def ksrcOf (b : BitVec 4) : Option KSrc :=
  if b.toNat < 8 then some (.k (b.extractLsb' 0 3))
  else if b = 8 then some .kpack else if b = 9 then some .iter else if b = 10 then some .pass else none

def ksrcBits : KSrc → BitVec 4
  | .k c => 0#1 ++ c
  | .kpack => 8
  | .iter => 9
  | .pass => 10

/-- The SEL of SYS.RD and SYS.WR (R364). -/
def sysRegOf (b : BitVec 6) : Option SysReg :=
  if b = 0 then some .tfst else if b = 1 then some .chst else if b = 2 then some .ovrc
  else if b = 3 then some .defc
  else if b.extractLsb' 2 4 = 1 then some (.meStatus (b.extractLsb' 0 2))
  else if b.extractLsb' 2 4 = 2 then some (.meConfig (b.extractLsb' 0 2))
  else if b = 12 then some .subc else if b = 13 then some .gcyc else if b = 14 then some .ctnst
  else if b.extractLsb' 3 3 = 2 then some (.crec (b.extractLsb' 0 3))
  else none

def sysRegBits : SysReg → BitVec 6
  | .tfst => 0
  | .chst => 1
  | .ovrc => 2
  | .defc => 3
  | .meStatus m => 1#4 ++ m
  | .meConfig m => 2#4 ++ m
  | .subc => 12
  | .gcyc => 13
  | .ctnst => 14
  | .crec n => 2#3 ++ n

/-- A target field; the values R82 does not list are refused. -/
def targetOf (b : BitVec 9) : Option Target :=
  if b = 0x0FF then some .none
  else
    let pos := b.extractLsb' 6 2
    let c := b.getLsbD 8
    if pos = 3 then
      if c || decide (b.extractLsb' 0 2 ≠ 0) then none else some (.port (b.extractLsb' 2 4))
    else some (.latch c (if pos = 0 then .l else if pos = 1 then .r else .p) (b.extractLsb' 0 6))

def posBits : Pos → BitVec 2
  | .l => 0
  | .r => 1
  | .p => 2

def targetBits : Target → BitVec 9
  | .none => 0x0FF
  | .latch c pos n => BitVec.ofBool c ++ posBits pos ++ n
  | .port n => 3#3 ++ n ++ 0#2

/-! ### The four formats as one: OP, M, T1, T0 -/

/-- A fabric word from its fields (R80). -/
def packWord (op : BitVec 8) (m : BitVec 6) (b a : BitVec 9) : Word := op ++ m ++ b ++ a

def opField (v : Word) : BitVec 8 := v.extractLsb' 24 8
def mField (v : Word) : BitVec 6 := v.extractLsb' 18 6
def bField (v : Word) : BitVec 9 := v.extractLsb' 9 9
def aField (v : Word) : BitVec 9 := v.extractLsb' 0 9

/-- W, PM and X out of M. -/
def mW (m : BitVec 6) : BitVec 2 := m.extractLsb' 4 2
def mP (m : BitVec 6) : BitVec 2 := m.extractLsb' 2 2
def mX (m : BitVec 6) : BitVec 2 := m.extractLsb' 0 2

/-- Both targets. -/
def two (b a : BitVec 9) (k : Target → Target → Instr) : Option Instr :=
  match targetOf b, targetOf a with
  | some t1, some t0 => some (k t1 t0)
  | _, _ => none

/-- T0 alone. -/
def one (a : BitVec 9) (k : Target → Instr) : Option Instr := (targetOf a).map k

/-! ### One reader per operand shape -/

def pT (m : BitVec 6) (b a : BitVec 9) (k : Width → Pred → Target → Target → Instr) : Option Instr :=
  if mX m = 0 then (predOf (mP m)).bind fun p => two b a (k (widthOf (mW m)) p) else none

def pI (m : BitVec 6) (b a : BitVec 9) (k : Width → Pred → BitVec 9 → Target → Instr) : Option Instr :=
  if mX m = 0 then (predOf (mP m)).bind fun p => one a (k (widthOf (mW m)) p b) else none

def pW (m : BitVec 6) (b a : BitVec 9) (k : Width → Target → Target → Instr) : Option Instr :=
  if mX m = 0 ∧ mP m = 0 then two b a (k (widthOf (mW m))) else none

def pG (m : BitVec 6) (b a : BitVec 9) (k : BitVec 15 → Target → Instr) : Option Instr :=
  one a (k (m ++ b))

def pLea (m : BitVec 6) (b a : BitVec 9) (k : Width → Pred → BitVec 2 → Target → Target → Instr) :
    Option Instr :=
  (predOf (mP m)).bind fun p => two b a (k (widthOf (mW m)) p (mX m))

def pF (m : BitVec 6) (b a : BitVec 9) (k : FSel → Pred → Target → Target → Instr) : Option Instr :=
  (fselOf (mW m) (mX m)).bind fun f => (predOf (mP m)).bind fun p => two b a (k f p)

def pF0 (m : BitVec 6) (b a : BitVec 9) (k : FKind → Pred → Target → Target → Instr) : Option Instr :=
  (fkindOf (mW m) (mX m)).bind fun f => (predOf (mP m)).bind fun p => two b a (k f p)

def pK (m : BitVec 6) (b a : BitVec 9) (k : BitVec 3 → Target → Target → Instr) : Option Instr :=
  if m.extractLsb' 3 3 = 0 then two b a (k (m.extractLsb' 0 3)) else none

def pKR (m : BitVec 6) (b a : BitVec 9) (k : KSrc → Target → Target → Instr) : Option Instr :=
  if mW m = 0 then (ksrcOf (m.extractLsb' 0 4)).bind fun s => two b a (k s) else none

def pN (m : BitVec 6) (b a : BitVec 9) (k : FKind → Narrow → Target → Target → Instr) : Option Instr :=
  (nsrcOf (mW m)).bind fun s => (narrowOf (m.extractLsb' 0 4)).bind fun d => two b a (k s d)

def pNW (m : BitVec 6) (b a : BitVec 9) (k : NarrowF → Target → Target → Instr) : Option Instr :=
  if mW m = 0 then (narrowFOf (m.extractLsb' 0 4)).bind fun s => two b a (k s) else none

def pNI (m : BitVec 6) (b a : BitVec 9) (k : NarrowI → Target → Target → Instr) : Option Instr :=
  if mW m = 0 then (narrowIOf (m.extractLsb' 0 4)).bind fun s => two b a (k s) else none

def pFA (m : BitVec 6) (b a : BitVec 9) (k : FSel → Target → Target → Instr) : Option Instr :=
  if mP m = 0 then (fselOf (mW m) (mX m)).bind fun f => two b a (k f) else none

def pIA (m : BitVec 6) (b a : BitVec 9) (k : Width → Bool → Target → Target → Instr) : Option Instr :=
  if m.extractLsb' 1 3 = 0 then two b a (k (widthOf (mW m)) (m.getLsbD 0)) else none

def pR (m : BitVec 6) (b a : BitVec 9) (k : Target → Target → Instr) : Option Instr :=
  if m = 0 then two b a k else none

def pRI (m : BitVec 6) (b a : BitVec 9) (k : BitVec 9 → Target → Instr) : Option Instr :=
  if m = 0 then one a (k b) else none

def pZ (m : BitVec 6) (b a bReq : BitVec 9) (k : Instr) : Option Instr :=
  if m = 0 ∧ b = bReq ∧ a = 0x0FF then some k else none

def pP (m : BitVec 6) (b a : BitVec 9) (k : Pred → Target → Target → Instr) : Option Instr :=
  if mW m = 0 ∧ mX m = 0 then (predOf (mP m)).bind fun p => two b a (k p) else none

def pP2 (m : BitVec 6) (b a : BitVec 9) (k : Pred → Target → Target → Instr) : Option Instr :=
  if mW m = 2 ∧ mX m = 0 then (predOf (mP m)).bind fun p => two b a (k p) else none

def pPI (m : BitVec 6) (b a : BitVec 9) (k : Pred → BitVec 9 → Target → Instr) : Option Instr :=
  if mW m = 0 ∧ mX m = 0 then (predOf (mP m)).bind fun p => one a (k p b) else none

def pHlt (m : BitVec 6) (b a : BitVec 9) (k : Bool → Instr) : Option Instr :=
  if m.extractLsb' 1 5 = 0 ∧ b = 0x0FF ∧ a = 0x0FF then some (k (m.getLsbD 0)) else none

def pSys (m : BitVec 6) (b a : BitVec 9) (k : SysReg → Target → Target → Instr) : Option Instr :=
  (sysRegOf m).bind fun r => two b a (k r)

def pB6 (m : BitVec 6) (b a : BitVec 9) (k : BitVec 6 → Target → Target → Instr) : Option Instr :=
  two b a (k m)

def pD (m : BitVec 6) (b a : BitVec 9) (k : Bool → Pred → Target → Target → Instr) : Option Instr :=
  if m.getLsbD 5 ∧ mX m = 0 then (predOf (mP m)).bind fun p => two b a (k (m.getLsbD 4) p) else none

def pLd (m : BitVec 6) (b a : BitVec 9) (k : Width → Pred → Bool → Bool → Target → Target → Instr) :
    Option Instr :=
  (predOf (mP m)).bind fun p => two b a (k (widthOf (mW m)) p (m.getLsbD 1) (m.getLsbD 0))

def pLdb (m : BitVec 6) (b a : BitVec 9) (k : Pred → Bool → Bool → Target → Target → Instr) :
    Option Instr :=
  if mW m = 0 then (predOf (mP m)).bind fun p => two b a (k p (m.getLsbD 1) (m.getLsbD 0)) else none

def pDn (m : BitVec 6) (b a : BitVec 9) (k : Bool → Target → Target → Instr) : Option Instr :=
  if m.getLsbD 5 ∧ m.extractLsb' 0 4 = 0 then two b a (k (m.getLsbD 4)) else none

def pAcq (m : BitVec 6) (b a : BitVec 9) (k : Pred → BitVec 8 → Target → Instr) : Option Instr :=
  if mW m = 0 ∧ mX m = 0 ∧ b.getLsbD 8 = false then
    (predOf (mP m)).bind fun p => one a (k p (b.extractLsb' 0 8))
  else none

def pAcqS (m : BitVec 6) (b a : BitVec 9) (k : Pred → BitVec 8 → Target → Instr) : Option Instr :=
  if mW m = 0 ∧ mX m = 1 ∧ b.getLsbD 8 = false then
    (predOf (mP m)).bind fun p => one a (k p (b.extractLsb' 0 8))
  else none

def pDu (m : BitVec 6) (b a : BitVec 9) (k : Bool → Pred → Bool → Target → Target → Instr) :
    Option Instr :=
  if m.getLsbD 5 ∧ m.getLsbD 1 = false then
    (predOf (mP m)).bind fun p => two b a (k (m.getLsbD 4) p (m.getLsbD 0))
  else none

def pPf (m : BitVec 6) (b a : BitVec 9) (k : Pred → Bool → Bool → Instr) : Option Instr :=
  if mW m = 0 ∧ b = 0x0FF ∧ a = 0x0FF then
    (predOf (mP m)).bind fun p => some (k p (m.getLsbD 1) (m.getLsbD 0))
  else none

def pFl (m : BitVec 6) (b a : BitVec 9) (k : Pred → Bool → Target → Target → Instr) : Option Instr :=
  if mW m = 0 ∧ m.getLsbD 1 = false then (predOf (mP m)).bind fun p => two b a (k p (m.getLsbD 0))
  else none

def pM4 (m : BitVec 6) (b a : BitVec 9) (k : BitVec 4 → Target → Target → Instr) : Option Instr :=
  if mW m = 0 then two b a (k (m.extractLsb' 0 4)) else none

def pE3 (m : BitVec 6) (b a : BitVec 9) (k : Bool → BitVec 2 → Target → Target → Instr) : Option Instr :=
  if m.extractLsb' 3 3 = 0 then two b a (k (m.getLsbD 2) (mX m)) else none

def pB2 (m : BitVec 6) (b a : BitVec 9) (k : BitVec 2 → Target → Target → Instr) : Option Instr :=
  if m.extractLsb' 2 4 = 0 then two b a (k (mX m)) else none

def pB1 (m : BitVec 6) (b a : BitVec 9) (k : Bool → Target → Target → Instr) : Option Instr :=
  if m.extractLsb' 1 5 = 0 then two b a (k (m.getLsbD 0)) else none

def pB3 (m : BitVec 6) (b a : BitVec 9) (k : BitVec 3 → Target → Target → Instr) : Option Instr :=
  if m.extractLsb' 3 3 = 0 then two b a (k (m.extractLsb' 0 3)) else none

def pB5 (m : BitVec 6) (b a : BitVec 9) (k : BitVec 5 → Target → Target → Instr) : Option Instr :=
  if m.getLsbD 5 = false then two b a (k (m.extractLsb' 0 5)) else none

def pZ3 (m : BitVec 6) (b a : BitVec 9) (k : BitVec 5 → BitVec 5 → BitVec 5 → Target → Instr) :
    Option Instr :=
  one a (k ((m ++ b).extractLsb' 10 5) ((m ++ b).extractLsb' 5 5) ((m ++ b).extractLsb' 0 5))

def pZ2 (m : BitVec 6) (b a : BitVec 9) (k : BitVec 5 → BitVec 5 → Target → Instr) : Option Instr :=
  if (m ++ b).extractLsb' 0 5 = 0 then
    one a (k ((m ++ b).extractLsb' 10 5) ((m ++ b).extractLsb' 5 5))
  else none

def pZg (m : BitVec 6) (b a : BitVec 9) (k : BitVec 5 → BitVec 5 → BitVec 4 → Target → Instr) :
    Option Instr :=
  if b.getLsbD 0 = false then
    one a (k ((m ++ b).extractLsb' 10 5) ((m ++ b).extractLsb' 5 5) ((m ++ b).extractLsb' 1 4))
  else none

/-! ### One writer per operand shape -/

def mOf (w p x : BitVec 2) : BitVec 6 := w ++ p ++ x

def eM (op : BitVec 8) (m : BitVec 6) (t1 t0 : Target) : Word :=
  packWord op m (targetBits t1) (targetBits t0)

def eT (op : BitVec 8) (w : Width) (p : Pred) (t1 t0 : Target) : Word :=
  eM op (mOf (widthBits w) (predBits p) 0) t1 t0
def eI (op : BitVec 8) (w : Width) (p : Pred) (i : BitVec 9) (t0 : Target) : Word :=
  packWord op (mOf (widthBits w) (predBits p) 0) i (targetBits t0)
def eW (op : BitVec 8) (w : Width) (t1 t0 : Target) : Word := eM op (mOf (widthBits w) 0 0) t1 t0
def eG (op : BitVec 8) (i : BitVec 15) (t0 : Target) : Word :=
  packWord op (i.extractLsb' 9 6) (i.extractLsb' 0 9) (targetBits t0)
def eLea (op : BitVec 8) (w : Width) (p : Pred) (x : BitVec 2) (t1 t0 : Target) : Word :=
  eM op (mOf (widthBits w) (predBits p) x) t1 t0
def eF (op : BitVec 8) (f : FSel) (p : Pred) (t1 t0 : Target) : Word :=
  eM op (mOf (fselBits f).1 (predBits p) (fselBits f).2) t1 t0
def eF0 (op : BitVec 8) (f : FKind) (p : Pred) (t1 t0 : Target) : Word :=
  eM op (mOf (fkindBits f).1 (predBits p) (fkindBits f).2) t1 t0
def eK (op : BitVec 8) (c : BitVec 3) (t1 t0 : Target) : Word := eM op (0#3 ++ c) t1 t0
def eKR (op : BitVec 8) (s : KSrc) (t1 t0 : Target) : Word := eM op (0#2 ++ ksrcBits s) t1 t0
def eN (op : BitVec 8) (s : FKind) (d : Narrow) (t1 t0 : Target) : Word :=
  eM op (nsrcBits s ++ narrowBits d) t1 t0
def eNW (op : BitVec 8) (s : NarrowF) (t1 t0 : Target) : Word := eM op (0#2 ++ narrowFBits s) t1 t0
def eNI (op : BitVec 8) (s : NarrowI) (t1 t0 : Target) : Word := eM op (0#2 ++ narrowIBits s) t1 t0
def eFA (op : BitVec 8) (f : FSel) (t1 t0 : Target) : Word :=
  eM op (mOf (fselBits f).1 0 (fselBits f).2) t1 t0
def eIA (op : BitVec 8) (w : Width) (s : Bool) (t1 t0 : Target) : Word :=
  eM op (widthBits w ++ 0#3 ++ BitVec.ofBool s) t1 t0
def eR (op : BitVec 8) (t1 t0 : Target) : Word := eM op 0 t1 t0
def eRI (op : BitVec 8) (i : BitVec 9) (t0 : Target) : Word := packWord op 0 i (targetBits t0)
def eZ (op : BitVec 8) (b : BitVec 9) : Word := packWord op 0 b 0x0FF
def eP (op : BitVec 8) (p : Pred) (t1 t0 : Target) : Word := eM op (mOf 0 (predBits p) 0) t1 t0
def eP2 (op : BitVec 8) (p : Pred) (t1 t0 : Target) : Word := eM op (mOf 2 (predBits p) 0) t1 t0
def ePI (op : BitVec 8) (p : Pred) (i : BitVec 9) (t0 : Target) : Word :=
  packWord op (mOf 0 (predBits p) 0) i (targetBits t0)
def eHlt (op : BitVec 8) (g : Bool) : Word := packWord op (0#5 ++ BitVec.ofBool g) 0x0FF 0x0FF
def eSys (op : BitVec 8) (r : SysReg) (t1 t0 : Target) : Word := eM op (sysRegBits r) t1 t0
def eB6 (op : BitVec 8) (s : BitVec 6) (t1 t0 : Target) : Word := eM op s t1 t0
def eD (op : BitVec 8) (d : Bool) (p : Pred) (t1 t0 : Target) : Word :=
  eM op (1#1 ++ BitVec.ofBool d ++ predBits p ++ 0#2) t1 t0
def eLd (op : BitVec 8) (w : Width) (p : Pred) (e s : Bool) (t1 t0 : Target) : Word :=
  eM op (mOf (widthBits w) (predBits p) (BitVec.ofBool e ++ BitVec.ofBool s)) t1 t0
def eLdb (op : BitVec 8) (p : Pred) (e s : Bool) (t1 t0 : Target) : Word :=
  eM op (mOf 0 (predBits p) (BitVec.ofBool e ++ BitVec.ofBool s)) t1 t0
def eDn (op : BitVec 8) (d : Bool) (t1 t0 : Target) : Word := eM op (1#1 ++ BitVec.ofBool d ++ 0#4) t1 t0
def eAcq (op : BitVec 8) (p : Pred) (g : BitVec 8) (t0 : Target) : Word :=
  packWord op (mOf 0 (predBits p) 0) (0#1 ++ g) (targetBits t0)
def eAcqS (op : BitVec 8) (p : Pred) (g : BitVec 8) (t0 : Target) : Word :=
  packWord op (mOf 0 (predBits p) 1) (0#1 ++ g) (targetBits t0)
def eDu (op : BitVec 8) (d : Bool) (p : Pred) (u : Bool) (t1 t0 : Target) : Word :=
  eM op (1#1 ++ BitVec.ofBool d ++ predBits p ++ 0#1 ++ BitVec.ofBool u) t1 t0
def ePf (op : BitVec 8) (p : Pred) (e l : Bool) : Word :=
  packWord op (mOf 0 (predBits p) (BitVec.ofBool e ++ BitVec.ofBool l)) 0x0FF 0x0FF
def eFl (op : BitVec 8) (p : Pred) (d : Bool) (t1 t0 : Target) : Word :=
  eM op (mOf 0 (predBits p) (0#1 ++ BitVec.ofBool d)) t1 t0
def eM4 (op : BitVec 8) (m : BitVec 4) (t1 t0 : Target) : Word := eM op (0#2 ++ m) t1 t0
def eE3 (op : BitVec 8) (d : Bool) (m : BitVec 2) (t1 t0 : Target) : Word :=
  eM op (0#3 ++ BitVec.ofBool d ++ m) t1 t0
def eB2 (op : BitVec 8) (c : BitVec 2) (t1 t0 : Target) : Word := eM op (0#4 ++ c) t1 t0
def eB1 (op : BitVec 8) (e : Bool) (t1 t0 : Target) : Word := eM op (0#5 ++ BitVec.ofBool e) t1 t0
def eB3 (op : BitVec 8) (l : BitVec 3) (t1 t0 : Target) : Word := eM op (0#3 ++ l) t1 t0
def eB5 (op : BitVec 8) (z : BitVec 5) (t1 t0 : Target) : Word := eM op (0#1 ++ z) t1 t0
def eZ3 (op : BitVec 8) (zd za zb : BitVec 5) (t0 : Target) : Word := eG op (zd ++ za ++ zb) t0
def eZ2 (op : BitVec 8) (zd za : BitVec 5) (t0 : Target) : Word := eG op (zd ++ za ++ 0#5) t0
def eZg (op : BitVec 8) (zd zs : BitVec 5) (g : BitVec 4) (t0 : Target) : Word :=
  eG op (zd ++ zs ++ g ++ 0#1) t0

/-! ### The opcode map (R85) -/

/-- The instruction of a word's fields, before the checks of WellFormed. -/
def parseFields (op : Nat) (m : BitVec 6) (b a : BitVec 9) : Option Instr :=
  match op with
  | 0x00 => pT m b a .add
  | 0x01 => pT m b a .sub
  | 0x02 => pT m b a .adds
  | 0x03 => pT m b a .addsU
  | 0x04 => pT m b a .subs
  | 0x05 => pT m b a .subsU
  | 0x06 => pI m b a .addi
  | 0x07 => pI m b a .rsbi
  | 0x08 => pT m b a .and
  | 0x09 => pT m b a .or
  | 0x0A => pT m b a .xor
  | 0x0B => pT m b a .andn
  | 0x0C => pT m b a .not
  | 0x0D => pT m b a .shl
  | 0x0E => pT m b a .shr
  | 0x0F => pT m b a .shrA
  | 0x10 => pT m b a .rot
  | 0x11 => pI m b a .shli
  | 0x12 => pI m b a .shri
  | 0x13 => pI m b a .shriA
  | 0x14 => pT m b a .clz
  | 0x15 => pT m b a .popc
  | 0x16 => pT m b a .brev
  | 0x17 => pT m b a .min
  | 0x18 => pT m b a .minU
  | 0x19 => pT m b a .max
  | 0x1A => pT m b a .maxU
  | 0x1B => pT m b a .abs
  | 0x1C => pT m b a .neg
  | 0x1D => pT m b a .cmpEq
  | 0x1E => pT m b a .cmpNe
  | 0x1F => pT m b a .cmpLt
  | 0x20 => pT m b a .cmpLe
  | 0x21 => pT m b a .cmpLtu
  | 0x22 => pT m b a .cmpLeu
  | 0x23 => pI m b a .cmpiEq
  | 0x24 => pI m b a .cmpiNe
  | 0x25 => pI m b a .cmpiLt
  | 0x26 => pI m b a .cmpiLe
  | 0x27 => pI m b a .cmpiGt
  | 0x28 => pI m b a .cmpiGe
  | 0x29 => pI m b a .cmpiLtu
  | 0x2A => pI m b a .cmpiLeu
  | 0x2B => pI m b a .cmpiGtu
  | 0x2C => pI m b a .cmpiGeu
  | 0x2D => pT m b a .test
  | 0x2E => pT m b a .testZ
  | 0x2F => pW m b a .sel
  | 0x30 => pT m b a .mov
  | 0x31 => pG m b a .gens
  | 0x32 => pG m b a .genu
  | 0x33 => pG m b a .apph
  | 0x34 => pT m b a .extr
  | 0x35 => pT m b a .extrS
  | 0x36 => pW m b a .insf
  | 0x37 => pLea m b a .lea
  | 0x38 => pI m b a .addiS
  | 0x39 => pI m b a .rsbiS
  | 0x3A => pT m b a .absS
  | 0x3B => pT m b a .negS
  | 0x3C => pK m b a .kset
  | 0x3D => pK m b a .knext
  | 0x3E => pK m b a .klast
  | 0x3F => pKR m b a .kread
  | 0x40 => pF m b a .fadd
  | 0x41 => pF m b a .fsub
  | 0x42 => pF m b a .fmul
  | 0x43 => pF0 m b a .fmin
  | 0x44 => pF0 m b a .fmax
  | 0x45 => pF0 m b a .fabs
  | 0x46 => pF0 m b a .fneg
  | 0x47 => pF0 m b a .fcmpEq
  | 0x48 => pF0 m b a .fcmpNe
  | 0x49 => pF0 m b a .fcmpLt
  | 0x4A => pF0 m b a .fcmpLe
  | 0x4B => pF0 m b a .fcmpUn
  | 0x4C => pF m b a .frnd
  | 0x4D => pF m b a .cvtIfSw
  | 0x4E => pF m b a .cvtIfSd
  | 0x4F => pF m b a .cvtIfUw
  | 0x50 => pF m b a .cvtIfUd
  | 0x51 => pF m b a .cvtFiSw
  | 0x52 => pF m b a .cvtFiSd
  | 0x53 => pF m b a .cvtFiUw
  | 0x54 => pF m b a .cvtFiUd
  | 0x55 => pF m b a .cvtFfF32
  | 0x56 => pF m b a .cvtFfF16
  | 0x57 => pF m b a .cvtFfBf16
  | 0x58 => pN m b a .cvtN
  | 0x59 => pNW m b a .cvtNW
  | 0x5A => pNI m b a .cvtNI
  | 0x5B => pT m b a .mul
  | 0x5C => pT m b a .mulh
  | 0x5D => pT m b a .mulhU
  | 0x5E => pFA m b a .facc
  | 0x5F => pIA m b a .iacc
  | 0x60 => pR m b a .steer
  | 0x61 => pR m b a .merge
  | 0x62 => pR m b a .mergeRr
  | 0x63 => pR m b a .carry
  | 0x64 => pRI m b a .carryI
  | 0x65 => pR m b a .invar
  | 0x66 => pR m b a .gate
  | 0x67 => pZ m b a 0x0FF .sink
  | 0x68 => pR m b a .sinkA
  | 0x69 => pR m b a .ordj
  | 0x6A => pP m b a .eos
  | 0x6B => pPI m b a .eosI
  | 0x6C => pP m b a .eot
  | 0x6D => pPI m b a .eotI
  | 0x6E => pP m b a .mark
  | 0x6F => pPI m b a .markI
  | 0x70 => pT m b a .div
  | 0x71 => pT m b a .divU
  | 0x72 => pT m b a .rem
  | 0x73 => pT m b a .remU
  | 0x74 => pF m b a .fdiv
  | 0x75 => pF m b a .fsqrt
  | 0x76 => pR m b a .ctnOpen
  | 0x77 => pR m b a .ctnClose
  | 0x78 => pPI m b a .trap
  | 0x79 => pP m b a .trapV
  | 0x7A => pHlt m b a .halt
  | 0x7B => pZ m b a 0x000 .nop
  | 0x7C => pSys m b a .sysRd
  | 0x7D => pSys m b a .sysWr
  | 0x7E => pD m b a .sysRdA
  | 0x7F => pD m b a .sysWrA
  | 0x80 => pLd m b a .ld
  | 0x81 => pLdb m b a .ldb
  | 0x82 => pT m b a .st
  | 0x83 => pR m b a .stb
  | 0x84 => pD m b a .pld
  | 0x85 => pDn m b a .pst
  | 0x86 => pB6 m b a .step
  | 0x87 => (pAcq m b a .acqX).or (pAcqS m b a .acqS)
  | 0x88 => pAcq m b a .rel
  | 0x89 => pR m b a .fenceF
  | 0x8A => pR m b a .fenceD
  | 0x8B => pR m b a .fenceP
  | 0x8C => pR m b a .fenceS
  | 0x8D => pD m b a .amoAdd
  | 0x8E => pP2 m b a .amoFadd
  | 0x8F => pDu m b a .amoMin
  | 0x90 => pDu m b a .amoMax
  | 0x91 => pD m b a .amoAnd
  | 0x92 => pD m b a .amoOr
  | 0x93 => pD m b a .amoXor
  | 0x94 => pD m b a .amoSwap
  | 0x95 => pDn m b a .amoCas
  | 0x96 => pD m b a .redAdd
  | 0x97 => pP2 m b a .redFadd
  | 0x98 => pDu m b a .redMin
  | 0x99 => pDu m b a .redMax
  | 0x9A => pD m b a .redAnd
  | 0x9B => pD m b a .redOr
  | 0x9C => pPf m b a .pref
  | 0x9D => pR m b a .retain
  | 0x9E => pR m b a .unpin
  | 0x9F => pFl m b a .flush
  | 0xA0 => pM4 m b a .mxCfg
  | 0xA1 => pR m b a .mxGath
  | 0xA2 => pM4 m b a .mxBb
  | 0xA3 => pM4 m b a .mxMma
  | 0xA4 => pM4 m b a .mxZero
  | 0xA5 => pE3 m b a .mxEpi
  | 0xA6 => pE3 m b a .mxCpy
  | 0xA7 => pB2 m b a .cpyHead
  | 0xA8 => pE3 m b a .cpyStat
  | 0xA9 => pR m b a .wlkCfg
  | 0xAA => pB1 m b a .wlkGo
  | 0xAB => pP m b a .qfence
  | 0xAC => pE3 m b a .bufWait
  | 0xAD => pR m b a .bufRel
  | 0xAE => pR m b a .bufStat
  | 0xAF => pB6 m b a .spawn
  | 0xB0 => pB3 m b a .slen
  | 0xB1 => pB5 m b a .sld
  | 0xB2 => pB5 m b a .sst
  | 0xB3 => pB5 m b a .sgen
  | 0xB4 => pZ3 m b a .sand
  | 0xB5 => pZ3 m b a .sor
  | 0xB6 => pZ3 m b a .sxor
  | 0xB7 => pZ2 m b a .snot
  | 0xB8 => pZ3 m b a .smux
  | 0xB9 => pZ3 m b a .smin
  | 0xBA => pZ3 m b a .smax
  | 0xBB => pB5 m b a .scnt
  | 0xBC => pB5 m b a .scntA
  | 0xBD => pB5 m b a .scvt
  | 0xBE => pZg m b a .sregen
  | 0xBF => pZ2 m b a .smov
  | _ => none

/-- A fabric word (R78, R85, R92): the empty word, an instruction, or its refusal. -/
def decodeFabric (v : Word) : Except Reject Instr :=
  if v = 0 then .error .emptyWord
  else if 0xC0 ≤ (opField v).toNat then .error .badOpcode
  else
    match parseFields (opField v).toNat (mField v) (bField v) (aField v) with
    | some i => if wellFormed i then .ok i else .error .badForm
    | none => .error .badForm

/-! ### Xpyraro (R370) -/

/-- An R-type word with funct7 zero. -/
def packX (op : BitVec 7) (f3 : BitVec 3) (rd rs1 rs2 : BitVec 5) : Word :=
  0#7 ++ rs2 ++ rs1 ++ f3 ++ rd ++ op

def xRd (v : Word) : BitVec 5 := v.extractLsb' 7 5
def xRs1 (v : Word) : BitVec 5 := v.extractLsb' 15 5
def xRs2 (v : Word) : BitVec 5 := v.extractLsb' 20 5

def xX3 (v : Word) (k : BitVec 5 → BitVec 5 → BitVec 5 → Instr) : Option Instr :=
  some (k (xRd v) (xRs1 v) (xRs2 v))
def xX2 (v : Word) (k : BitVec 5 → BitVec 5 → Instr) : Option Instr :=
  if xRs2 v = 0 then some (k (xRd v) (xRs1 v)) else none
def xX1 (v : Word) (k : BitVec 5 → Instr) : Option Instr :=
  if xRs2 v = 0 ∧ xRd v = 0 then some (k (xRs1 v)) else none
def xX0 (v : Word) (k : BitVec 5 → Instr) : Option Instr :=
  if xRs2 v = 0 ∧ xRs1 v = 0 then some (k (xRd v)) else none

def xEncX3 (op : BitVec 7) (f3 : BitVec 3) (rd rs1 rs2 : BitVec 5) : Word := packX op f3 rd rs1 rs2
def xEncX2 (op : BitVec 7) (f3 : BitVec 3) (rd rs1 : BitVec 5) : Word := packX op f3 rd rs1 0
def xEncX1 (op : BitVec 7) (f3 : BitVec 3) (rs1 : BitVec 5) : Word := packX op f3 0 rs1 0
def xEncX0 (op : BitVec 7) (f3 : BitVec 3) (rd : BitVec 5) : Word := packX op f3 rd 0 0

/-- Whether a core word has one of the two custom major opcodes. -/
def isXpyraro (v : Word) : Bool :=
  decide (v.extractLsb' 0 7 = 0x0B#7) || decide (v.extractLsb' 0 7 = 0x2B#7)

/-- The Xpyraro instruction of a core word; none where R370 raises illegal instruction. -/
def decodeXpyraro (v : Word) : Option Instr :=
  if v.extractLsb' 25 7 ≠ 0 then none
  else
    match (v.extractLsb' 0 7).toNat, (v.extractLsb' 12 3).toNat with
    | 11, 0 => xX3 v .xlnch
    | 11, 1 => xX2 v .xkscan
    | 11, 2 => xX3 v .xqpri
    | 11, 3 => xX2 v .xqstat
    | 11, 4 => xX2 v .xfltPop
    | 11, 5 => xX3 v .xfltRes
    | 11, 6 => xX2 v .xjnlW
    | 11, 7 => xX1 v .xhbt
    | 43, 0 => xX0 v .xtake
    | 43, 1 => xX2 v .xpartQsc
    | 43, 2 => xX3 v .xpartIl
    | 43, 3 => xX3 v .xpartBnd
    | 43, 4 => xX2 v .xpartSd
    | 43, 5 => xX2 v .xpartCommit
    | 43, 6 => xX2 v .xsigVer
    | 43, 7 => xX2 v .xrdCnt
    | _, _ => none

/-- The word of an instruction, from the same tables (R85, R370); an event row has no word. -/
def encode : Instr → Option Word
  | .add w p t1 t0 => some (eT 0x00 w p t1 t0)
  | .sub w p t1 t0 => some (eT 0x01 w p t1 t0)
  | .adds w p t1 t0 => some (eT 0x02 w p t1 t0)
  | .addsU w p t1 t0 => some (eT 0x03 w p t1 t0)
  | .subs w p t1 t0 => some (eT 0x04 w p t1 t0)
  | .subsU w p t1 t0 => some (eT 0x05 w p t1 t0)
  | .addi w p i t0 => some (eI 0x06 w p i t0)
  | .rsbi w p i t0 => some (eI 0x07 w p i t0)
  | .and w p t1 t0 => some (eT 0x08 w p t1 t0)
  | .or w p t1 t0 => some (eT 0x09 w p t1 t0)
  | .xor w p t1 t0 => some (eT 0x0A w p t1 t0)
  | .andn w p t1 t0 => some (eT 0x0B w p t1 t0)
  | .not w p t1 t0 => some (eT 0x0C w p t1 t0)
  | .shl w p t1 t0 => some (eT 0x0D w p t1 t0)
  | .shr w p t1 t0 => some (eT 0x0E w p t1 t0)
  | .shrA w p t1 t0 => some (eT 0x0F w p t1 t0)
  | .rot w p t1 t0 => some (eT 0x10 w p t1 t0)
  | .shli w p i t0 => some (eI 0x11 w p i t0)
  | .shri w p i t0 => some (eI 0x12 w p i t0)
  | .shriA w p i t0 => some (eI 0x13 w p i t0)
  | .clz w p t1 t0 => some (eT 0x14 w p t1 t0)
  | .popc w p t1 t0 => some (eT 0x15 w p t1 t0)
  | .brev w p t1 t0 => some (eT 0x16 w p t1 t0)
  | .min w p t1 t0 => some (eT 0x17 w p t1 t0)
  | .minU w p t1 t0 => some (eT 0x18 w p t1 t0)
  | .max w p t1 t0 => some (eT 0x19 w p t1 t0)
  | .maxU w p t1 t0 => some (eT 0x1A w p t1 t0)
  | .abs w p t1 t0 => some (eT 0x1B w p t1 t0)
  | .neg w p t1 t0 => some (eT 0x1C w p t1 t0)
  | .cmpEq w p t1 t0 => some (eT 0x1D w p t1 t0)
  | .cmpNe w p t1 t0 => some (eT 0x1E w p t1 t0)
  | .cmpLt w p t1 t0 => some (eT 0x1F w p t1 t0)
  | .cmpLe w p t1 t0 => some (eT 0x20 w p t1 t0)
  | .cmpLtu w p t1 t0 => some (eT 0x21 w p t1 t0)
  | .cmpLeu w p t1 t0 => some (eT 0x22 w p t1 t0)
  | .cmpiEq w p i t0 => some (eI 0x23 w p i t0)
  | .cmpiNe w p i t0 => some (eI 0x24 w p i t0)
  | .cmpiLt w p i t0 => some (eI 0x25 w p i t0)
  | .cmpiLe w p i t0 => some (eI 0x26 w p i t0)
  | .cmpiGt w p i t0 => some (eI 0x27 w p i t0)
  | .cmpiGe w p i t0 => some (eI 0x28 w p i t0)
  | .cmpiLtu w p i t0 => some (eI 0x29 w p i t0)
  | .cmpiLeu w p i t0 => some (eI 0x2A w p i t0)
  | .cmpiGtu w p i t0 => some (eI 0x2B w p i t0)
  | .cmpiGeu w p i t0 => some (eI 0x2C w p i t0)
  | .test w p t1 t0 => some (eT 0x2D w p t1 t0)
  | .testZ w p t1 t0 => some (eT 0x2E w p t1 t0)
  | .sel w t1 t0 => some (eW 0x2F w t1 t0)
  | .mov w p t1 t0 => some (eT 0x30 w p t1 t0)
  | .gens i t0 => some (eG 0x31 i t0)
  | .genu i t0 => some (eG 0x32 i t0)
  | .apph i t0 => some (eG 0x33 i t0)
  | .extr w p t1 t0 => some (eT 0x34 w p t1 t0)
  | .extrS w p t1 t0 => some (eT 0x35 w p t1 t0)
  | .insf w t1 t0 => some (eW 0x36 w t1 t0)
  | .lea w p x t1 t0 => some (eLea 0x37 w p x t1 t0)
  | .addiS w p i t0 => some (eI 0x38 w p i t0)
  | .rsbiS w p i t0 => some (eI 0x39 w p i t0)
  | .absS w p t1 t0 => some (eT 0x3A w p t1 t0)
  | .negS w p t1 t0 => some (eT 0x3B w p t1 t0)
  | .kset c t1 t0 => some (eK 0x3C c t1 t0)
  | .knext c t1 t0 => some (eK 0x3D c t1 t0)
  | .klast c t1 t0 => some (eK 0x3E c t1 t0)
  | .kread s t1 t0 => some (eKR 0x3F s t1 t0)
  | .fadd f p t1 t0 => some (eF 0x40 f p t1 t0)
  | .fsub f p t1 t0 => some (eF 0x41 f p t1 t0)
  | .fmul f p t1 t0 => some (eF 0x42 f p t1 t0)
  | .fmin f p t1 t0 => some (eF0 0x43 f p t1 t0)
  | .fmax f p t1 t0 => some (eF0 0x44 f p t1 t0)
  | .fabs f p t1 t0 => some (eF0 0x45 f p t1 t0)
  | .fneg f p t1 t0 => some (eF0 0x46 f p t1 t0)
  | .fcmpEq f p t1 t0 => some (eF0 0x47 f p t1 t0)
  | .fcmpNe f p t1 t0 => some (eF0 0x48 f p t1 t0)
  | .fcmpLt f p t1 t0 => some (eF0 0x49 f p t1 t0)
  | .fcmpLe f p t1 t0 => some (eF0 0x4A f p t1 t0)
  | .fcmpUn f p t1 t0 => some (eF0 0x4B f p t1 t0)
  | .frnd f p t1 t0 => some (eF 0x4C f p t1 t0)
  | .cvtIfSw f p t1 t0 => some (eF 0x4D f p t1 t0)
  | .cvtIfSd f p t1 t0 => some (eF 0x4E f p t1 t0)
  | .cvtIfUw f p t1 t0 => some (eF 0x4F f p t1 t0)
  | .cvtIfUd f p t1 t0 => some (eF 0x50 f p t1 t0)
  | .cvtFiSw f p t1 t0 => some (eF 0x51 f p t1 t0)
  | .cvtFiSd f p t1 t0 => some (eF 0x52 f p t1 t0)
  | .cvtFiUw f p t1 t0 => some (eF 0x53 f p t1 t0)
  | .cvtFiUd f p t1 t0 => some (eF 0x54 f p t1 t0)
  | .cvtFfF32 f p t1 t0 => some (eF 0x55 f p t1 t0)
  | .cvtFfF16 f p t1 t0 => some (eF 0x56 f p t1 t0)
  | .cvtFfBf16 f p t1 t0 => some (eF 0x57 f p t1 t0)
  | .cvtN s d t1 t0 => some (eN 0x58 s d t1 t0)
  | .cvtNW s t1 t0 => some (eNW 0x59 s t1 t0)
  | .cvtNI d t1 t0 => some (eNI 0x5A d t1 t0)
  | .mul w p t1 t0 => some (eT 0x5B w p t1 t0)
  | .mulh w p t1 t0 => some (eT 0x5C w p t1 t0)
  | .mulhU w p t1 t0 => some (eT 0x5D w p t1 t0)
  | .facc f t1 t0 => some (eFA 0x5E f t1 t0)
  | .iacc w s t1 t0 => some (eIA 0x5F w s t1 t0)
  | .steer t1 t0 => some (eR 0x60 t1 t0)
  | .merge t1 t0 => some (eR 0x61 t1 t0)
  | .mergeRr t1 t0 => some (eR 0x62 t1 t0)
  | .carry t1 t0 => some (eR 0x63 t1 t0)
  | .carryI i t0 => some (eRI 0x64 i t0)
  | .invar t1 t0 => some (eR 0x65 t1 t0)
  | .gate t1 t0 => some (eR 0x66 t1 t0)
  | .sink => some (eZ 0x67 0x0FF)
  | .sinkA t1 t0 => some (eR 0x68 t1 t0)
  | .ordj t1 t0 => some (eR 0x69 t1 t0)
  | .eos p t1 t0 => some (eP 0x6A p t1 t0)
  | .eosI p i t0 => some (ePI 0x6B p i t0)
  | .eot p t1 t0 => some (eP 0x6C p t1 t0)
  | .eotI p i t0 => some (ePI 0x6D p i t0)
  | .mark p t1 t0 => some (eP 0x6E p t1 t0)
  | .markI p i t0 => some (ePI 0x6F p i t0)
  | .div w p t1 t0 => some (eT 0x70 w p t1 t0)
  | .divU w p t1 t0 => some (eT 0x71 w p t1 t0)
  | .rem w p t1 t0 => some (eT 0x72 w p t1 t0)
  | .remU w p t1 t0 => some (eT 0x73 w p t1 t0)
  | .fdiv f p t1 t0 => some (eF 0x74 f p t1 t0)
  | .fsqrt f p t1 t0 => some (eF 0x75 f p t1 t0)
  | .ctnOpen t1 t0 => some (eR 0x76 t1 t0)
  | .ctnClose t1 t0 => some (eR 0x77 t1 t0)
  | .trap p i t0 => some (ePI 0x78 p i t0)
  | .trapV p t1 t0 => some (eP 0x79 p t1 t0)
  | .halt g => some (eHlt 0x7A g)
  | .nop => some (eZ 0x7B 0x000)
  | .sysRd r t1 t0 => some (eSys 0x7C r t1 t0)
  | .sysWr r t1 t0 => some (eSys 0x7D r t1 t0)
  | .sysRdA d p t1 t0 => some (eD 0x7E d p t1 t0)
  | .sysWrA d p t1 t0 => some (eD 0x7F d p t1 t0)
  | .ld w p e s t1 t0 => some (eLd 0x80 w p e s t1 t0)
  | .ldb p e s t1 t0 => some (eLdb 0x81 p e s t1 t0)
  | .st w p t1 t0 => some (eT 0x82 w p t1 t0)
  | .stb t1 t0 => some (eR 0x83 t1 t0)
  | .pld d p t1 t0 => some (eD 0x84 d p t1 t0)
  | .pst d t1 t0 => some (eDn 0x85 d t1 t0)
  | .step s t1 t0 => some (eB6 0x86 s t1 t0)
  | .acqX p g t0 => some (eAcq 0x87 p g t0)
  | .acqS p g t0 => some (eAcqS 0x87 p g t0)
  | .rel p g t0 => some (eAcq 0x88 p g t0)
  | .fenceF t1 t0 => some (eR 0x89 t1 t0)
  | .fenceD t1 t0 => some (eR 0x8A t1 t0)
  | .fenceP t1 t0 => some (eR 0x8B t1 t0)
  | .fenceS t1 t0 => some (eR 0x8C t1 t0)
  | .amoAdd d p t1 t0 => some (eD 0x8D d p t1 t0)
  | .amoFadd p t1 t0 => some (eP2 0x8E p t1 t0)
  | .amoMin d p u t1 t0 => some (eDu 0x8F d p u t1 t0)
  | .amoMax d p u t1 t0 => some (eDu 0x90 d p u t1 t0)
  | .amoAnd d p t1 t0 => some (eD 0x91 d p t1 t0)
  | .amoOr d p t1 t0 => some (eD 0x92 d p t1 t0)
  | .amoXor d p t1 t0 => some (eD 0x93 d p t1 t0)
  | .amoSwap d p t1 t0 => some (eD 0x94 d p t1 t0)
  | .amoCas d t1 t0 => some (eDn 0x95 d t1 t0)
  | .redAdd d p t1 t0 => some (eD 0x96 d p t1 t0)
  | .redFadd p t1 t0 => some (eP2 0x97 p t1 t0)
  | .redMin d p u t1 t0 => some (eDu 0x98 d p u t1 t0)
  | .redMax d p u t1 t0 => some (eDu 0x99 d p u t1 t0)
  | .redAnd d p t1 t0 => some (eD 0x9A d p t1 t0)
  | .redOr d p t1 t0 => some (eD 0x9B d p t1 t0)
  | .pref p e l => some (ePf 0x9C p e l)
  | .retain t1 t0 => some (eR 0x9D t1 t0)
  | .unpin t1 t0 => some (eR 0x9E t1 t0)
  | .flush p d t1 t0 => some (eFl 0x9F p d t1 t0)
  | .mxCfg m t1 t0 => some (eM4 0xA0 m t1 t0)
  | .mxGath t1 t0 => some (eR 0xA1 t1 t0)
  | .mxBb m t1 t0 => some (eM4 0xA2 m t1 t0)
  | .mxMma m t1 t0 => some (eM4 0xA3 m t1 t0)
  | .mxZero m t1 t0 => some (eM4 0xA4 m t1 t0)
  | .mxEpi d m t1 t0 => some (eE3 0xA5 d m t1 t0)
  | .mxCpy d m t1 t0 => some (eE3 0xA6 d m t1 t0)
  | .cpyHead c t1 t0 => some (eB2 0xA7 c t1 t0)
  | .cpyStat d m t1 t0 => some (eE3 0xA8 d m t1 t0)
  | .wlkCfg t1 t0 => some (eR 0xA9 t1 t0)
  | .wlkGo e t1 t0 => some (eB1 0xAA e t1 t0)
  | .qfence p t1 t0 => some (eP 0xAB p t1 t0)
  | .bufWait d m t1 t0 => some (eE3 0xAC d m t1 t0)
  | .bufRel t1 t0 => some (eR 0xAD t1 t0)
  | .bufStat t1 t0 => some (eR 0xAE t1 t0)
  | .spawn s t1 t0 => some (eB6 0xAF s t1 t0)
  | .slen l t1 t0 => some (eB3 0xB0 l t1 t0)
  | .sld z t1 t0 => some (eB5 0xB1 z t1 t0)
  | .sst z t1 t0 => some (eB5 0xB2 z t1 t0)
  | .sgen z t1 t0 => some (eB5 0xB3 z t1 t0)
  | .sand zd za zb t0 => some (eZ3 0xB4 zd za zb t0)
  | .sor zd za zb t0 => some (eZ3 0xB5 zd za zb t0)
  | .sxor zd za zb t0 => some (eZ3 0xB6 zd za zb t0)
  | .snot zd za t0 => some (eZ2 0xB7 zd za t0)
  | .smux zd za zb t0 => some (eZ3 0xB8 zd za zb t0)
  | .smin zd za zb t0 => some (eZ3 0xB9 zd za zb t0)
  | .smax zd za zb t0 => some (eZ3 0xBA zd za zb t0)
  | .scnt z t1 t0 => some (eB5 0xBB z t1 t0)
  | .scntA z t1 t0 => some (eB5 0xBC z t1 t0)
  | .scvt z t1 t0 => some (eB5 0xBD z t1 t0)
  | .sregen zd zs g t0 => some (eZg 0xBE zd zs g t0)
  | .smov zd za t0 => some (eZ2 0xBF zd za t0)
  | .xlnch rd rs1 rs2 => some (xEncX3 0x0B 0 rd rs1 rs2)
  | .xkscan rd rs1 => some (xEncX2 0x0B 1 rd rs1)
  | .xqpri rd rs1 rs2 => some (xEncX3 0x0B 2 rd rs1 rs2)
  | .xqstat rd rs1 => some (xEncX2 0x0B 3 rd rs1)
  | .xfltPop rd rs1 => some (xEncX2 0x0B 4 rd rs1)
  | .xfltRes rd rs1 rs2 => some (xEncX3 0x0B 5 rd rs1 rs2)
  | .xjnlW rd rs1 => some (xEncX2 0x0B 6 rd rs1)
  | .xhbt rs1 => some (xEncX1 0x0B 7 rs1)
  | .xtake rd => some (xEncX0 0x2B 0 rd)
  | .xpartQsc rd rs1 => some (xEncX2 0x2B 1 rd rs1)
  | .xpartIl rd rs1 rs2 => some (xEncX3 0x2B 2 rd rs1 rs2)
  | .xpartBnd rd rs1 rs2 => some (xEncX3 0x2B 3 rd rs1 rs2)
  | .xpartSd rd rs1 => some (xEncX2 0x2B 4 rd rs1)
  | .xpartCommit rd rs1 => some (xEncX2 0x2B 5 rd rs1)
  | .xsigVer rd rs1 => some (xEncX2 0x2B 6 rd rs1)
  | .xrdCnt rd rs1 => some (xEncX2 0x2B 7 rd rs1)
  | _ => none

/-- The instruction of a word taken by itself: Xpyraro words first, then the fabric's. The two kinds of word
lie in different stores (a core's instruction memory, a tile's configuration), so the machine never has to
choose between them; only this table view does. -/
def decodeTable (v : Word) : Option Instr :=
  match (if isXpyraro v then decodeXpyraro v else none) with
  | some i => some i
  | none =>
    match decodeFabric v with
    | .ok i => some i
    | .error _ => none

/-- The host's view of the decoder: nbits as the opcode table numbers them; every row with an encoding has
32 bits, and bits above nbits are 0. -/
def decodeTableWord (nbits v : Nat) : Option Instr :=
  decodeTable (BitVec.ofNat 32 (v % 2 ^ min nbits 32))

end Sys2Proof
end

