-- ==== Sys2Proof/Config.lean ====
section
/-! DEFINITION. What the spec leaves open and one machine leaves to its surroundings: free values without a
body (notes/assumptions 1, 8, 12, 14, 15, 17), and the fixed figures of the part (spec/01_organisation.md R12 to R25). -/

namespace Sys2Proof

/-- A bit of a stored DRAM granule (R213): of a data byte of the granule, of the check symbols of one of its codes (a check
bit of a SEC-DED code, a check byte of an RS code), or of its metadata. -/
inductive Flip where
  | data (byte bit : Nat)
  | check (code sym bit : Nat)
  | flag (bit : Nat)
  deriving DecidableEq, Repr, Inhabited

/-- One turn of the machine: what may happen next. Turns are taken one after another; every order of turns is a
possible run (notes/assumptions/1.md). -/
inductive Turn where
  /-- The element of a slot fires, if it is enabled (R47). The number is 64 x tile + slot. -/
  | fire (x : Nat)
  /-- A control core takes its next instruction, or its interrupt; what the ECC finds in the fetched word, and in the
  data of a load: outside causes (notes/assumptions/12.md). -/
  | core (c : Nat) (word data : Ecc)
  /-- The arithmetic clock advances to the next cycle, once nothing enabled is left in this one (R51). -/
  | clock
  /-- A command or buffer request waiting on a field's command bus reaches its unit (R252). -/
  | arrive (f : Nat) (k : Nat)
  /-- A stored bit flips: of the DRAM granule that holds a location (R213); or a word of a tile store, or a sector in a
  second-level cache, comes to hold an error, which its check corrects or not (R341, R358). Outside causes
  (notes/assumptions/12.md). -/
  | upset (loc : Nat) (b : Flip)
  | upsetWord (pa : Nat) (hard : Bool)
  /-- The port of slot x asks ahead of need for the PTE of the page it comes to when its tile's counters hold these values
  (R177). -/
  | predict (x : Nat) (vs : List Word)
  /-- A read of the stream registers, an accumulator store or the cache of a field corrects an error (R341). An outside cause
  (notes/assumptions/12.md). -/
  | corrected (f : Nat)
  /-- One of the event rows of the opcode table takes place. -/
  | event (i : Instr)
  deriving DecidableEq, Repr, Inhabited

/-- The free choice of the n-th turn: the order of steps the spec does not promise (R53, R281, R292), and what
arrives from outside (notes/assumptions/1.md). -/
opaque Config.schedule : Nat → Turn

/-- The way a field cache takes for a new line (R205: the choice of victim is not promised). -/
opaque Config.cacheVictim : Nat → Nat

/-- What the image declares of a buffer handle, by the address of the graph's record 0, the field's index in the
rectangle and the handle: SIZE, BASE, TIED, CPORT, CTILE, FANIN as bits [127:0] of R189, and the tile and port
its EOT arrives at. The spec gives no record for it (notes/assumptions/15.md). -/
opaque Config.handleDecl : Nat → Nat → Nat → Option (BitVec 128 × Nat × Nat)

/-- The way a TLB slice takes for a new entry (R176: the choice of victim is not promised). -/
opaque Config.tlbVictim : Nat → Nat

/-- The bank, 0 to 15 of its sub-channel, that holds a DRAM location: the spec places granules on sub-channels
(R216) and leaves the bank open (notes/assumptions/8.md). -/
opaque Config.dramBank : Nat → Nat

/-- A byte a peer returns to an engine or a control core, by turn and physical address: the peer is outside the
machine (notes/assumptions/17.md). -/
opaque Config.remoteByte : Nat → Nat → Byte

/-- Whether a byte a peer returns to an engine or a control core comes from a poisoned sector, by turn and physical address
(notes/assumptions/17.md). -/
opaque Config.remotePoison : Nat → Nat → Bool

/-- The error that a peer reports in a turn for a remote access of an engine, a sequencer or a control core; 0 where no report has
come yet, none where the access has been performed (notes/assumptions/17.md). -/
opaque Config.remoteError : Nat → Option Nat

/-- The number from which the search for a free FID starts, by the identifier of the record: R346 asks only that a FID is unique
among the records that await resolution (notes/assumptions/23.md). -/
opaque Config.freeFid : Nat → Nat

/-- What the decoder makes of a pattern of errors in one code beyond what it is sure to detect, by the errors: none where
it reports the pattern uncorrectable, else the errors that stay in what it delivers as good (R213: it may be miscorrected,
notes/assumptions/12.md). -/
opaque Config.decodeBeyond : List Flip → Option (List Flip)

/-- What the base die's ECC finds in a granule it converts, by turn and address of the granule (R215: an outside cause,
notes/assumptions/12.md). -/
opaque Config.relayoutEcc : Nat → Nat → Ecc

/-- A byte of a checkpoint area after a drain, by turn and physical address: the area's layout is not architected
(R183, notes/assumptions/14.md). -/
opaque Config.checkpointByte : Nat → Nat → Byte

namespace Config

def dies : Nat := 8
def fieldsPerDie : Nat := 320
def tilesPerField : Nat := 64
def tilesPerDie : Nat := 20480

/-- Cycles in one microsecond at 2.1 GHz (R20). -/
def usCycles : Nat := 2100

/-- Cycles a token or flit takes for each die boundary (R13). -/
def hopCycles : Nat := 40

/-- The byte an unlisted address reads as (notes/assumptions/2.md). -/
def fillByte : Byte := 0

end Config
end Sys2Proof
end

