-- ==== Sys2Proof/Machine/Map.lean ====
section
/-! DEFINITION. Sparse tables: lists of (key, value) with strictly rising keys, in which an entry equal to the
table's default is not listed, so that equal tables are equal data. -/

namespace Sys2Proof.Machine

/-- A sparse table with values of type α. -/
abbrev SMap (α : Type) := List (Nat × α)

namespace SMap

variable {α : Type}

/-- The value listed at a key. -/
def find : SMap α → Nat → Option α
  | [], _ => none
  | (k, v) :: m, n => if n = k then some v else find m n

/-- The value at a key, the default where none is listed. -/
def get (m : SMap α) (d : α) (n : Nat) : α := (find m n).getD d

/-- The table with the key unlisted. -/
def erase (m : SMap α) (n : Nat) : SMap α := m.filter fun e => decide (e.1 ≠ n)

/-- The table with the value listed at the key. -/
def insert : SMap α → Nat → α → SMap α
  | [], n, x => [(n, x)]
  | (k, v) :: m, n, x =>
    if n < k then (n, x) :: (k, v) :: m else if n = k then (n, x) :: m else (k, v) :: insert m n x

/-- Write a value: an entry equal to the default is unlisted. -/
def put [DecidableEq α] (m : SMap α) (d : α) (n : Nat) (x : α) : SMap α :=
  if x = d then erase m n else insert m n x

/-- The keys rise strictly, and all lie above a bound. -/
def sortedFrom : Nat → SMap α → Bool
  | _, [] => true
  | b, (k, _) :: m => decide (b ≤ k) && sortedFrom (k + 1) m

/-- The canonical form: keys strictly rising, no entry equal to the default. -/
def wf [DecidableEq α] (d : α) (m : SMap α) : Bool :=
  sortedFrom 0 m && m.all fun e => decide (e.2 ≠ d)

end SMap

/-- Replace the n-th element of a list. -/
def setAt {α : Type} : List α → Nat → α → List α
  | [], _, _ => []
  | _ :: xs, 0, y => y :: xs
  | x :: xs, n + 1, y => x :: setAt xs n y

end Sys2Proof.Machine
end

