-- ==== Sys2Proof/Machine/State.lean ====
section
/-! DEFINITION. The state of the LG6-M160: everything the spec names, as plain data. Tables with many places
(tiles, slots, fields) are sparse: a place that is not listed is in its reset state. INVENTORY.md lists every
item with its rule and reset value. Numbering: tile T = 20480 x die + 64 x f + j; field F = 320 x die + f;
slot X = 64 x T + slot; latch = 3 x X + (0 L, 1 R, 2 P); quarter 0 to 3; core 2 x quarter + (0 SC, 1 SB), 8 MGC. -/

namespace Sys2Proof.Machine

/-- Token kinds (R42). -/
inductive Kind where
  | data | eos | eot | ord
  deriving DecidableEq, Repr

/-- A token of 67 bits (R42). -/
structure Token where
  kind : Kind
  data : DWord
  psn : Bool
  deriving DecidableEq, Repr

/-- A token in a link, with the first cycle its consumer may read it; du is the delay unit at which a chained
value arrives in that cycle, 0 for a registered or held one (R147, R148, R160). -/
structure Entry where
  tok : Token
  cyc : Nat
  du : Nat
  deriving DecidableEq, Repr

/-- A link with its latch position at the head, and the places reserved by operations in progress (R44, R49). -/
structure Link where
  q : List Entry
  resv : Nat
  deriving DecidableEq, Repr

/-- A chained loop counter (R333). -/
structure KCtr where
  val : Word
  lim : Word
  chain : Bool
  pmask : Byte
  deriving DecidableEq, Repr

/-- A translation held by a latch or a TLB slice: the virtual page and its PTE (R168, R176, R177). -/
structure Trans where
  vpn : Nat
  pte : BitVec 128
  deriving DecidableEq, Repr

/-- Permissions an access requires (R172): read, write (which needs D), atomic, engine. -/
structure Need where
  rd : Bool
  wr : Bool
  am : Bool
  en : Bool
  deriving DecidableEq, Repr

/-- A run-ahead request of the latch of a tile's port: the first byte of the part it asks for, and the permissions (R177). -/
structure Ahead where
  tile : Nat
  port : Nat
  va : Nat
  need : Need
  deriving DecidableEq, Repr

/-- A miss that a TLB slice has in hand (R176): its page, the sources whose accesses wait for it, and what was asked ahead of need
(R177). -/
structure Miss where
  vpn : Nat
  asks : List Nat
  ahead : List Ahead
  deriving DecidableEq, Repr

/-- A tile: its configuration and its registers (R76, R70, R163, R333, R338, R339). -/
structure TileSt where
  cfg : List Word
  /-- Chained edges relaxed at section start, by consumer latch 3 x slot + position (R157). -/
  relaxed : List Nat
  tfst : Word
  /-- Flags captured in this cycle: they reach TFST at its closing edge (R71). -/
  fresh : Word
  chst : DWord
  ovrc : Word
  defc : Word
  /-- Deferrals of this cycle, and overruns captured in it with their slot and record: counted at its closing
  edge, after any SYS.WR (R164, R339). -/
  defNow : Nat
  ovrNow : List (Nat × DWord)
  ks : List KCtr
  armed : Word
  iter : Word
  /-- A firing of the tile is in progress (R41). -/
  begun : Bool
  /-- Every port rate of the firing in progress had been met when an earlier cycle closed: results captured from
  then on are discarded (R97). -/
  met : Bool
  /-- Per port, what this firing has consumed of its rate, and produced (R40). -/
  inCnt : SMap Nat
  outCnt : SMap Nat
  /-- The graph and node whose section holds the tile. -/
  owner : Option (Nat × Nat)
  /-- Translation latches of P0 to P7 (R177). -/
  xlat : SMap (List Trans)
  deriving DecidableEq, Repr

/-- A router operator's hold value (R127): phase 0 is INIT, EMPTY or turn L; psn is the poison of the tokens SINK.A has
counted, and in an operator with a control input the mark of a resolution that skips the one at its head (R349). -/
structure Hold where
  phase : Nat
  tok : Option Token
  count : DWord
  psn : Bool
  deriving DecidableEq, Repr

/-- Why a result stands in the result latch (R97, R161, R165, R357). -/
inductive ResKind where
  | cycles      -- a multi-cycle operation in progress
  | late        -- an overrun, captured one cycle late
  | strict      -- an overrun of a STRICT block, held
  | recheck     -- a checker repeat, captured one cycle late
  | pipeErr     -- PIPE-ERR, held
  | acc         -- the open sum of FACC or IACC
  deriving DecidableEq, Repr

/-- A result latch with its token, targets, the cycle its capture is due, and the flags it raises then. -/
structure Result where
  kind : ResKind
  tok : Token
  tgts : List Target
  due : Nat
  flags : Word
  /-- The detail for CHST: start DU, completion DU, run class (R163). -/
  start : Nat
  done : Nat
  run : Nat
  /-- VAL of K0 to K3 at the firing, for a record that the capture raises (R346). -/
  ks : List Word
  deriving DecidableEq, Repr

/-- What a withheld record stands for, and so what its resolution acts on (R349). -/
inductive FSrc where
  | none
  | firing (x : Nat)
  | access (x k : Nat)
  | command (f q k : Nat)
  | held (x : Nat)
  | cond (g n : Nat)
  | spawn (g n : Nat)
  | watchdog (g n : Nat)
  deriving DecidableEq, Repr

/-- One part of a split access (R228): bytes [off, off + len) of the access, where they lie, what its page says,
whether it has been performed, what it read, and which bytes of the access it read from poisoned sectors (R230). -/
structure Part where
  off : Nat
  len : Nat
  va : Nat
  pa : Nat
  gran : Nat
  et : Bool
  remote : Bool
  sent : Bool
  done : Bool
  bytes : List Byte
  bad : List Nat
  deriving DecidableEq, Repr

/-- An access fired through a stream port and not yet performed (R226). -/
structure Access where
  id : Nat
  i : Instr
  va : DWord
  data : DWord
  p : DWord
  psn : Bool
  /-- STB's and SST's bytes. -/
  block : List Byte
  /-- VAL of K0 to K3 when it was fired (R180). -/
  ks : List Word
  firedAt : Nat
  /-- Its slot withholds on it: it is not performed until its record is resolved (R179). -/
  held : Bool
  /-- Its parts once translated; none before. -/
  parts : Option (List Part)
  deriving DecidableEq, Repr

/-- One firing's tokens in a slot's emission order (R226, R253): ready once what it reports is performed. -/
structure OutE where
  id : Nat
  toks : List Token
  tgts : List Target
  ready : Bool
  /-- A burst: the slot does not fire again until it has left (R232, R266). -/
  lock : Bool
  /-- The tile's firing that produced it has completed: its tokens are discarded and counted (R41). -/
  stale : Bool
  deriving DecidableEq, Repr

/-- A slot (R95, R97, R127, R179). -/
structure SlotSt where
  /-- The first cycle in which the slot may fire again (R49). -/
  busy : Nat
  /-- The last cycle it fired in, plus one; 0 for none. -/
  fired : Nat
  result : Option Result
  hold : Hold
  /-- The rid of the record on which the slot withholds. -/
  wh : Option Nat
  outs : List OutE
  accs : List Access
  /-- Commands, reads and writes sent and not yet performed: their identifiers (R253, R359). -/
  cmds : List Nat
  /-- Beats or index tokens already consumed by a burst in progress (R234, R261). -/
  burst : List DWord
  burstPsn : Bool
  /-- The identifier that the burst's access or command takes: it dates from the first beat (R243, R277). -/
  burstId : Option Nat
  /-- The cycle at which a deferred element starts (R159). -/
  deferred : Option Nat
  /-- The last cycle, plus one, in which the element started on a held value: its producers may fire in it (R160). -/
  dstart : Nat
  /-- A checker mismatch awaits the next firing; true: the repeat mismatches too (R357). -/
  mismatch : Option Bool
  deriving DecidableEq, Repr

/-- A command on the field command bus or in a queue (R252, R134). -/
structure Cmd where
  id : Nat
  x : Nat
  i : Instr
  l : DWord
  r : DWord
  p : DWord
  /-- MX.GATH's eight index tokens. -/
  idx : List DWord
  /-- A poisoned index token of MX.GATH after the first. -/
  psn : Bool
  /-- VAL of K0 to K3 when it was fired (R346). -/
  ks : List Word
  /-- The cycle it was fired, then the cycle it reached its unit. -/
  firedAt : Nat
  /-- The queues it still has to be performed in, and those it has been performed in. -/
  todo : List Nat
  started : Bool
  /-- SLD between its two places: the length code it read (R136). -/
  zlen : BitVec 3
  /-- The parts of MX.CPY performed so far, with what was read from the tile store (R265). -/
  parts : SMap (List Byte)
  /-- Withheld on this record. -/
  wh : Option Nat
  deriving DecidableEq, Repr

/-- A stream register (R129): sixteen lanes, mask, length tag. -/
structure ZReg where
  lanes : List Nat
  mask : BitVec 16
  tag : BitVec 3
  deriving DecidableEq, Repr

/-- A panel of B held with an ME's queue (R262): its format code, 32 columns, and the tile whose MX.BB filled it. -/
structure Panel where
  fmt : Nat
  cols : List Nat
  tile : Nat
  deriving DecidableEq, Repr

/-- A matrix engine (R257, R258). -/
structure MeSt where
  cfg : DWord
  status : Word
  /-- Flags set in this cycle: they reach the status at its closing edge (R258). -/
  fresh : Word
  panel : Option Panel
  mismatch : Option Bool
  deriving DecidableEq, Repr

/-- The gather unit's operand latch, when full (R261). -/
structure OpLatch where
  fmt : Nat
  rows : List Nat
  deriving DecidableEq, Repr

/-- A copy channel's head and status (R270): REC, STATE, CAUSE, RECS. -/
structure ChanSt where
  rcd : DWord
  st : BitVec 2
  cause : BitVec 3
  recs : BitVec 16
  /-- The record read before a wait of the chain, with what it holds of poison: it is not read again (R269). -/
  read : Option (List Byte)
  deriving DecidableEq, Repr

/-- A buffer handle's entry of R189, and the tile and port its EOT arrives at. -/
structure BufSt where
  entry : BitVec 128
  declared : Bool
  atile : Nat
  aport : Nat
  deriving DecidableEq, Repr

/-- A byte of a field-cache line whose VAL is 1: its value and its DRT (R205). -/
structure CByte where
  v : Byte
  drt : Bool
  deriving DecidableEq, Repr

/-- A field-cache line: the physical address of its first byte, its bytes with VAL = 1 by offset, and the TNT
bits of its sectors (R205). -/
structure CLine where
  base : Nat
  bytes : SMap CByte
  tnt : List Nat
  deriving DecidableEq, Repr

/-- Reduction operations (R207). -/
inductive RedOp where
  | add | fadd | min | minU | max | maxU | and | or
  deriving DecidableEq, Repr

/-- The update of an AMO (R236). -/
inductive AmoOp where
  | red (o : RedOp)
  | xor | swap | cas
  deriving DecidableEq, Repr

/-- An entry of the reduction combining buffer (R207). -/
structure RcbEntry where
  pa : Nat
  op : RedOp
  dword : Bool
  value : DWord
  psn : Bool
  deriving DecidableEq, Repr

/-- CTNST's fields but TENT, which is the number of tentative sectors of the field cache (R352). -/
structure CtnSt where
  handler : BitVec 16
  opened : Bool
  early : Bool
  owner : Nat
  deriving DecidableEq, Repr

/-- A field's units (R17). -/
structure FieldSt where
  vclass : VClass
  zregs : SMap ZReg
  zlen : BitVec 3
  mes : SMap MeSt
  oplatch : Option OpLatch
  chans : SMap ChanSt
  bufs : SMap BufSt
  /-- EOS tokens that left a tile's port in this cycle: they free tied buffers at its closing edge (R190, R191). -/
  eosNow : List (Nat × Nat)
  regions : SMap (BitVec 128)
  cache : SMap CLine
  rcb : List RcbEntry
  ctn : CtnSt
  subc : Word
  bus : List Cmd
  queues : SMap (List Cmd)
  /-- SLDs between their two places (R136). -/
  slds : List Cmd
  tlb : SMap Trans
  /-- The pages whose misses this slice has in hand, in arrival order: the first 512 are being walked (R176). -/
  walks : List Miss
  /-- The field's leaky bucket (R341). -/
  fill : Nat
  deriving DecidableEq, Repr

/-- A line of the second-level cache: way, physical address of its first byte, valid and dirty sectors (R209). -/
structure L2Line where
  way : Nat
  base : Nat
  valid : List Nat
  dirty : List Nat
  deriving DecidableEq, Repr

/-- A retention window (R210, R344). -/
structure RetwSt where
  base : BitVec 36
  limit : BitVec 36
  en : Bool
  ways : Nat
  eways : Nat
  hits : BitVec 48
  miss : BitVec 48
  ovfl : BitVec 48
  /-- Events counted in this cycle: a write of the counter adds them (R344). -/
  freshHits : Nat
  freshMiss : Nat
  freshOvfl : Nat
  deriving DecidableEq, Repr

/-- LAYC (R215). -/
structure LaycSt where
  busy : Bool
  err : Bool
  gran : BitVec 2
  ppn : BitVec 27
  deriving DecidableEq, Repr

/-- Leaky-bucket settings (R341). -/
structure LeakCfg where
  mark : Nat
  leak : Nat
  deriving DecidableEq, Repr

/-- An Ultra Ethernet port's registers (R383). -/
structure UeSt where
  en : Bool
  fep : Word
  up : Bool
  lanes : Byte
  fecu : Word
  deriving DecidableEq, Repr

/-- A performance counter (R345), and the events counted in this cycle (a write adds them, R344). -/
structure PmcSt where
  evt : BitVec 4
  cnt : DWord
  fresh : Nat
  deriving DecidableEq, Repr

/-- A die (R12, R209 to R215, R341 to R345, R383). -/
structure DieSt where
  gcyc : DWord
  synced : Bool
  /-- The cycle at which the synchronisation flit reaches the die, once sent (R387). -/
  flitAt : Option Nat
  /-- Each set's lines, most recently used first. -/
  l2 : SMap (List L2Line)
  retw : SMap RetwSt
  layc : LaycSt
  leak : SMap LeakCfg
  /-- The cycle, plus one, of the last leak tick of each kind. -/
  ticked : SMap Nat
  pmc : SMap PmcSt
  ue : SMap UeSt
  /-- DRAM bank buckets, and GHL lane buckets (R341). -/
  dramFill : SMap Nat
  ghlFill : SMap Nat
  deriving DecidableEq, Repr

/-- Ring pointers CRP and JNP (R312). -/
structure RingSt where
  en : Bool
  head : BitVec 12
  tail : BitVec 12
  nent : BitVec 12
  deriving DecidableEq, Repr

/-- A launch queue's registers LQB, LQC, LQP (R312) and the push stamps of its records by entry (R315). -/
structure LqSt where
  base : BitVec 41
  en : Bool
  hpri : BitVec 4
  nent : BitVec 12
  blk : Bool
  byp : Nat
  tail : BitVec 12
  head : BitVec 12
  stamps : SMap (BitVec 96)
  deriving DecidableEq, Repr

/-- A fault record (R346), with the model's own rid, source, graph, and times of its raising and posting. -/
structure FRec where
  rid : Nat
  stamp : BitVec 96
  code : Nat
  acc : Nat
  kind : Nat
  esc : Bool
  void : Bool
  unit : Nat
  slot : Nat
  tile : Nat
  die : Nat
  field : Nat
  blkid : BitVec 16
  fid : Nat
  qtr : Nat
  lq : Nat
  va : DWord
  ks : List Word
  detail : DWord
  tag : Word
  src : FSrc
  graph : Nat
  raisedAt : Nat
  postedAt : Nat
  /-- TLIM in force when it was posted (R181). -/
  tlim : Nat
  deriving DecidableEq, Repr

/-- A completion waiting to be posted (R328, R329), and the graph it releases: the field whose sequencer stamps it, the cycle in
which it arose, its stamp once it has one, and whether an acknowledgement has released it from a held heartbeat (R377). -/
structure Compl where
  home : Nat
  since : Nat
  stamp : Option (BitVec 96)
  freed : Bool
  qtr : Nat
  lq : Nat
  status : Nat
  rlx : Nat
  stray : Nat
  tag : Word
  result : Option Token
  kills : Nat
  area : DWord
  pstamp : BitVec 96
  graph : Option Nat
  deriving DecidableEq, Repr

/-- A resolution of a record in this cycle (R349): what withholds is retried or skipped as the cycle ends, unless its graph is
killed in the cycle (R351); the core that resolved it and the register that takes the answer. -/
structure Resolution where
  entry : FRec
  skip : Bool
  core : Nat
  rd : BitVec 5
  deriving DecidableEq, Repr

/-- A pre-empted graph's record, waiting to be placed again (R327). -/
structure Restart where
  qtr : Nat
  lq : Nat
  rcd : List Byte
  stamp : BitVec 96
  byp : Nat
  blk : Bool
  kills : Nat
  deriving DecidableEq, Repr

/-- A candidate of a pass: the head of a queue, or a restart candidate (R318). -/
structure Cand where
  qtr : Nat
  lq : Nat
  rcd : List Byte
  stamp : BitVec 96
  prio : Nat
  blk : Bool
  restart : Bool
  kills : Nat
  deriving DecidableEq, Repr

/-- What admission learns from the image: its LENGTH, whether every block is IDEM, and the graph's region table (R322, R326). -/
structure Admission where
  len : Nat
  idem : Bool
  regions : SMap (BitVec 128)
  deriving DecidableEq, Repr

/-- A placement that waits for the cycle after the kills that make room for it (R326, R327): the candidate, what admission
learned, its origin, and the graphs killed. -/
structure Placing where
  cand : Cand
  adm : Admission
  origin : Nat × Nat
  dead : List Nat
  /-- The cycle after the kills. -/
  due : Nat
  deriving DecidableEq, Repr

/-- HBTC (R376) and the cycle of the last heartbeat restart. -/
structure HbSt where
  lapse : Bool
  owner : Bool
  hold : Bool
  qsc : Bool
  period : Nat
  last : Nat
  deriving DecidableEq, Repr

/-- A peer's registers PEERA.p and PEERB.p (R297). -/
structure PeerSt where
  en : Bool
  mode : BitVec 2
  port : BitVec 4
  fep : Word
  base : BitVec 36
  deriving DecidableEq, Repr

/-- REMCTL (R298). -/
structure RemSt where
  rto : Nat
  en : Bool
  rpeer : BitVec 4
  deriving DecidableEq, Repr

/-- The active or staged values of a quarter's ILV and BND registers (R197, R199). -/
structure PartReg where
  ilv : BitVec 3
  opens : BitVec 4
  lead : Bool
  part : BitVec 3
  root : BitVec 31
  rootV : Bool
  deriving DecidableEq, Repr

/-- A quarter's registers and queues (R14, R312, R331, R369, R376). -/
structure QuarterSt where
  kmapa : BitVec 45
  crb : BitVec 42
  crp : RingSt
  jnb : BitVec 42
  jnp : RingSt
  lqs : SMap LqSt
  bypb : Nat
  tlim : Nat
  wdog : Nat
  fbuf : List FRec
  held : List FRec
  /-- Records popped: those awaiting resolution, and those whose time limit expired (R375). -/
  popped : List FRec
  /-- The FID of the last record resolved of each source that withheld: a RETRY that faults again posts another (R349). -/
  retried : List (FSrc × Nat)
  ovf : Bool
  hb : HbSt
  cintPend : BitVec 5
  cintIe : BitVec 5
  peers : SMap PeerSt
  rem : RemSt
  active : PartReg
  staged : Option DWord × Option DWord × Option DWord
  restarts : List Restart
  compl : List Compl
  /-- An arbiter pass of the partition this quarter leads is due from this cycle (R319). -/
  pass : Option Nat
  /-- A pass that has pre-empted places its candidate when the rectangles are released (R327). -/
  placing : Option Placing
  deriving DecidableEq, Repr

/-- A request waiting for a guard (R239): slot, firing, shared, cycle. -/
structure GuardReq where
  x : Nat
  id : Nat
  shared : Bool
  cyc : Nat
  deriving DecidableEq, Repr

/-- A guard (R238): the exclusive holder, the shared holders, the waiting requests. -/
structure Guard where
  excl : Option Nat
  shared : List Nat
  queue : List GuardReq
  deriving DecidableEq, Repr

/-- A STEP that has arrived (R221): rank, slot, firing, cycle. -/
structure Arrival where
  rank : Nat
  x : Nat
  id : Nat
  cyc : Nat
  deriving DecidableEq, Repr

/-- A step group (R221). -/
structure Group where
  stepn : Word
  arrived : List Arrival
  next : List Arrival
  deriving DecidableEq, Repr

/-- A section's run (R36 to R39): loaded, its tiles in map order, result so far, entry tokens still to deliver
(entry port, latch, token), and the last cycle with progress (R52). -/
structure Section where
  loaded : Bool
  tiles : List Nat
  result : Option Token
  resultPort : Option (Nat × Nat)
  entries : List (Nat × Nat × Token)
  entryPorts : List (Nat × Nat)
  progress : Nat
  /-- The watchdog period in force since then, in µs; 0 for none (R359). -/
  period : Nat
  /-- Ended by containment: a handler's child runs (R354). -/
  aborted : Bool
  /-- The handler's child is done: the LEAF's result token. -/
  handled : Option Token
  /-- The watchdog has a record outstanding. -/
  barked : Bool
  deriving DecidableEq, Repr

/-- What a controller node in progress does (R29): permit, its record is still to be read (R196); a SEQ keeps its
child, repetition, the last child's token, and whether that child is of a kind that has one (R31); a PIPE the
iterations started and done of each stage (R32). -/
inductive NodeSt where
  | permit
  | seq (child rep : Nat) (prev : Option Token) (has : Bool)
  | pipe (started done : List Nat)
  | strm (left : Nat)
  | cond (pred : Token)
  | spawn
  | handler
  | leaf (sec : Section)
  deriving DecidableEq, Repr

/-- A controller node in progress: its parent, its place among the parent's children, its record's index, its
record's bytes as read at the permit (R196), the iteration of the innermost PIPE, its state, and its done token
once it has one. -/
structure Node where
  id : Nat
  parent : Option Nat
  pos : Nat
  idx : Nat
  rcd : List Byte
  iter : Nat
  st : NodeSt
  done : Bool
  result : Option Token
  deriving DecidableEq, Repr

/-- A contained error of this cycle, to be acted on at the cycle's closing edge (R354): the field and the owning tile of
its region, its leaf, the HANDLER's record index, the record's stamp and rid. -/
structure CtnErr where
  tile : Nat
  leaf : Nat
  idx : Nat
  stamp : BitVec 96
  rid : Nat
  deriving DecidableEq, Repr

/-- A contained error acted on, or waiting for the one before it (R354): the aborted leaf, the HANDLER's record index,
the fault record, whether the handler's child runs. -/
structure HandlerRun where
  leaf : Nat
  idx : Nat
  stamp : BitVec 96
  crec : List Byte
  started : Bool
  deriving DecidableEq, Repr

/-- An admitted graph (R319): its record and stamp, its rectangle, its nodes, guards, step groups,
contained errors, and its completion counters. -/
structure GraphSt where
  id : Nat
  qtr : Nat
  lq : Nat
  rcd : List Byte
  stamp : BitVec 96
  lead : Nat
  col : Nat
  row : Nat
  /-- LENGTH of its image as admission read it (R400). -/
  imgLen : Nat
  idem : Bool
  nodes : List Node
  guards : SMap Guard
  groups : SMap Group
  /-- One handler runs at a time; the others wait in stamp order (R354). -/
  handlers : List HandlerRun
  /-- Contained errors raised in this cycle (R354). -/
  errs : List CtnErr
  stray : Nat
  rlx : Nat
  kills : Nat
  /-- Ended: no permit is given and no element fires; the completion waits (R329, R363). -/
  ended : Bool
  deriving DecidableEq, Repr

/-- A control core (R367): registers, CSRs, instruction memory, reservation. -/
structure CoreSt where
  xs : SMap DWord
  pc : DWord
  mstatus : DWord
  mie : DWord
  mtvec : DWord
  mscratch : DWord
  mepc : DWord
  mcause : DWord
  mtval : DWord
  mcycle : DWord
  minstret : DWord
  imem : List Host.Cell
  /-- Words with an uncorrectable error, by address (R368). -/
  imemBad : List Nat
  resv : Option Nat
  released : Bool
  /-- Stopped after a cause-24 trap until module reset (R377). -/
  stopped : Bool
  deriving DecidableEq, Repr

/-- What a request to a peer asks for (R297, R383): a read of n bytes, a write of bytes, an atomic update of a word of n
bytes with its value and, for CAS, the one it expects. -/
inductive Ask where
  | read (n : Nat)
  | write (bs : List Byte) (psn : Bool)
  | atomic (o : AmoOp) (n v p : Nat)
  deriving DecidableEq, Repr

/-- A request to a peer (R297 to R299): the Ultra Ethernet port that carries it, the peer's endpoint and delivery mode, the
physical address at the peer, and what it asks for. -/
structure Sent where
  port : Nat
  fep : Word
  mode : BitVec 2
  pa : Nat
  ask : Ask
  deriving DecidableEq, Repr

/-- A remote access of a slot in flight (R300): the slot's access part, its request, whether the port carried it, and the
cycle at which RTO ends. -/
structure RemoteAcc where
  id : Nat
  x : Nat
  acc : Nat
  part : Nat
  lead : Nat
  peer : Nat
  req : Sent
  carried : Bool
  deadline : Nat
  deriving DecidableEq, Repr

/-- A remote access of an engine, a sequencer or a control core that its peer has not reported yet: the source and the command,
node or section at work, the address, and the cycle at which RTO ends (R300, R383). -/
structure Awaited where
  src : Nat
  job : Nat
  va : Nat
  deadline : Nat
  deriving DecidableEq, Repr

/-- A walk context (R273): its configuration, and the command that runs a walk on it. -/
structure WalkSt where
  cfg : DWord
  run : Option Nat
  deriving DecidableEq, Repr

/-- What a checkpoint area holds (R183), kept whole, by the location of the area's first byte: the layout is not architected
(notes/assumptions/14.md). -/
structure Saved where
  area : Nat
  graph : GraphSt
  /-- The fields of its rectangle, row by row. -/
  rect : List Nat
  tiles : SMap TileSt
  slots : SMap SlotSt
  links : SMap Link
  fields : SMap FieldSt
  mem : List Host.Cell
  deriving DecidableEq, Repr

/-- Faults: the machine itself never stops; every fault of the spec is a record, a trap or a completion status. -/
inductive Fault where
  /-- Raised by no meaning: kept so that the type has a member. Safe. -/
  | unreachable
  deriving DecidableEq, Repr

/-- Refusals: what the model gives no meaning to. -/
inductive Refusal where
  /-- The arm of exec for an instruction without a meaning. Safe. -/
  | notModelled (mnemonic : String)
  deriving DecidableEq, Repr

/-- A place at which the spec orders what happens in one cycle (R135, R204, R279, R290, R291, R296, R315, R349). -/
inductive Point where
  /-- A bank of a tile store. -/
  | bank (t b : Nat)
  /-- A field's cache and combining buffer. -/
  | cache (f : Nat)
  /-- The home second-level cache of a die. -/
  | home (d : Nat)
  /-- A launch queue. -/
  | queue (q n : Nat)
  /-- A source of stamped events, by its identifier. -/
  | source (id : Nat)
  /-- A lead quarter's fault buffer: the check of a quiesce, removals, then new records. -/
  | faults (q : Nat)
  /-- A partition, by its lead quarter: the check of a quiesce, then passes and releases. -/
  | partition (q : Nat)
  /-- A lead quarter's completion ring, by stamp. -/
  | ring (q : Nat)
  /-- The resolutions of a fault record, in the order of the cores. -/
  | record (rid : Nat)
  deriving DecidableEq, Repr

/-- The machine. -/
structure State where
  /-- The model's own: turns taken, turns due next, the model's cycle, the slot and the core a meaning works at,
  the next identifier (notes/assumptions/1.md). -/
  turns : Nat
  agenda : List Turn
  now : Nat
  foc : Nat
  core : Nat
  nextId : Nat
  /-- The model's own: the identifier of the source at work (R295); what has taken place in this cycle at each point
  of order, with the key it ranks by; whether the turn at work comes too late for the order of its cycle, and so waits
  for the next (notes/assumptions/43.md). -/
  src : Nat
  /-- The model's own: the command, node or section that the source at work reads for (R300). -/
  job : Nat
  order : List (Point × Nat)
  late : Bool
  /-- DRAM (by stack location), tile stores and accumulator stores, as one sparse byte memory. -/
  mem : List Host.Cell
  /-- DRAM sectors marked poisoned, by location of their first byte (R213). -/
  poison : List Nat
  /-- Bits of stored DRAM granules that have flipped since they were written, by location of the granule (R213). -/
  flips : SMap (List Flip)
  /-- What DRAM holds beneath a sector that the home second-level cache holds otherwise, by location: bytes and poison (R209,
  R214). -/
  under : SMap (List Byte × Bool)
  /-- Words of 8 bytes of tile stores in which the array's check finds an error: whether it is uncorrectable (R341, R358). -/
  soft : SMap Bool
  /-- Layout tags of DRAM pages, by location / 2^21 (R215). -/
  tags : SMap Nat
  tiles : SMap TileSt
  slots : SMap SlotSt
  links : SMap Link
  fields : SMap FieldSt
  dies : SMap DieSt
  quarters : SMap QuarterSt
  graphs : List GraphSt
  cores : SMap CoreSt
  remotes : List RemoteAcc
  awaits : List Awaited
  /-- The model's own: the request last handed to a port for a peer (R297). -/
  sent : Option Sent
  walks : SMap WalkSt
  /-- Records that wait for a later cycle, since their source has one stamped event a cycle (R296): a quarter of the partition,
  the source, the record without its stamp. -/
  pending : List (Nat × Nat × FRec)
  /-- The resolutions of this cycle, which take effect as it ends (R349, R351). -/
  resolves : List Resolution
  saved : List Saved
  bootst : DWord
  keys : SMap Nat
  deriving DecidableEq, Repr

/-! ### Reset values -/

def Link.empty : Link := { q := [], resv := 0 }
def KCtr.reset : KCtr := { val := 0, lim := 0, chain := false, pmask := 0 }
def TileSt.reset : TileSt :=
  { cfg := [], relaxed := [], tfst := 0, fresh := 0, chst := 0, ovrc := 0, defc := 0,
    defNow := 0, ovrNow := [], ks := List.replicate 8 KCtr.reset,
    armed := 0, iter := 0, begun := false, met := false, inCnt := [], outCnt := [], owner := none, xlat := [] }
def Hold.start : Hold := { phase := 0, tok := none, count := 0, psn := false }
def SlotSt.reset : SlotSt :=
  { busy := 0, fired := 0, result := none, hold := Hold.start, wh := none, outs := [], accs := [], cmds := [],
    burst := [], burstPsn := false, burstId := none, deferred := none, dstart := 0, mismatch := none }
def ZReg.reset : ZReg := { lanes := List.replicate 16 0, mask := 0, tag := 0 }
def MeSt.reset : MeSt := { cfg := 0, status := 0, fresh := 0, panel := none, mismatch := none }
def ChanSt.reset : ChanSt := { rcd := 0, st := 0, cause := 0, recs := 0, read := none }
def BufSt.reset : BufSt := { entry := 0, declared := false, atile := 0, aport := 0 }
def CtnSt.reset : CtnSt := { handler := 0, opened := false, early := false, owner := 0 }
def FieldSt.reset : FieldSt :=
  { vclass := .spring, zregs := [], zlen := 0, mes := [], oplatch := none, chans := [], bufs := [], eosNow := [],
    regions := [], cache := [], rcb := [], ctn := CtnSt.reset, subc := 0, bus := [], queues := [], slds := [],
    tlb := [], walks := [], fill := 0 }
def RetwSt.reset : RetwSt :=
  { base := 0, limit := 0, en := false, ways := 0, eways := 0, hits := 0, miss := 0, ovfl := 0,
    freshHits := 0, freshMiss := 0, freshOvfl := 0 }
def LaycSt.reset : LaycSt := { busy := false, err := false, gran := 0, ppn := 0 }
def LeakCfg.reset : LeakCfg := { mark := 16, leak := 2100000 }
def UeSt.reset : UeSt := { en := false, fep := 0, up := false, lanes := 0, fecu := 0 }
def PmcSt.reset : PmcSt := { evt := 0, cnt := 0, fresh := 0 }
def DieSt.reset : DieSt :=
  { gcyc := 0, synced := false, flitAt := none, l2 := [], retw := [], layc := LaycSt.reset, leak := [],
    ticked := [], pmc := [], ue := [], dramFill := [], ghlFill := [] }
def RingSt.reset : RingSt := { en := false, head := 0, tail := 0, nent := 0 }
def LqSt.reset : LqSt :=
  { base := 0, en := false, hpri := 0, nent := 0, blk := false, byp := 0, tail := 0, head := 0, stamps := [] }
def HbSt.reset : HbSt :=
  { lapse := false, owner := false, hold := false, qsc := false, period := 1000, last := 0 }
def PeerSt.reset : PeerSt := { en := false, mode := 0, port := 0, fep := 0, base := 0 }
def RemSt.reset : RemSt := { rto := 1000, en := false, rpeer := 0 }

/-- Quarter q's registers after reset: its own partition (R14, R197, R199). -/
def PartReg.reset (q : Nat) : PartReg :=
  { ilv := 0, opens := 0, lead := true, part := BitVec.ofNat 3 q, root := 0, rootV := false }

def QuarterSt.reset (q : Nat) : QuarterSt :=
  { kmapa := 0, crb := 0, crp := RingSt.reset, jnb := 0, jnp := RingSt.reset, lqs := [], bypb := 4, tlim := 500,
    wdog := 10000, fbuf := [], held := [], popped := [], retried := [], ovf := false, hb := HbSt.reset, cintPend := 0,
    cintIe := 0, peers := [], rem := RemSt.reset, active := PartReg.reset q, staged := (none, none, none),
    restarts := [], compl := [], pass := none, placing := none }
def Guard.free : Guard := { excl := none, shared := [], queue := [] }
def Group.reset : Group := { stepn := 0, arrived := [], next := [] }
def CoreSt.reset : CoreSt :=
  { xs := [], pc := 0, mstatus := 0x1800, mie := 0, mtvec := 0, mscratch := 0, mepc := 0, mcause := 0,
    mtval := 0, mcycle := 0, minstret := 0, imem := [], imemBad := [], resv := none, released := false,
    stopped := false }
def WalkSt.reset : WalkSt := { cfg := 0, run := none }

/-- The machine right after module reset (R386): only the MGC runs, nothing is loaded, memory lists nothing. -/
def State.reset : State :=
  { turns := 0, agenda := [], now := 0, foc := 0, core := 0, nextId := 1, src := 0, job := 0, order := [],
    late := false, mem := [], poison := [], flips := [], under := [], soft := [], tags := [],
    tiles := [], slots := [], links := [], fields := [], dies := [], quarters := [], graphs := [], cores := [],
    remotes := [], awaits := [], sent := none, walks := [], pending := [], resolves := [], saved := [], bootst := 0, keys := [] }

end Sys2Proof.Machine
end

