-- ==== Sys2Proof/Machine/Ops.lean ====
section
/-! DEFINITION. The named operations over the state: tables, memory bytes, places and partitions, stamps, fault
records (taking an exception of the fabric), kills, control-core traps and the return from one. -/

namespace Sys2Proof.Machine

/-- What a meaning answers. -/
abbrev Out := Host.Outcome State Fault Refusal

/-! ### Tables of the state -/

def State.tile (s : State) (t : Nat) : TileSt := SMap.get s.tiles TileSt.reset t
def State.setTile (s : State) (t : Nat) (v : TileSt) : State :=
  { s with tiles := SMap.put s.tiles TileSt.reset t v }
def State.slot (s : State) (x : Nat) : SlotSt := SMap.get s.slots SlotSt.reset x
def State.setSlot (s : State) (x : Nat) (v : SlotSt) : State :=
  { s with slots := SMap.put s.slots SlotSt.reset x v }
def State.link (s : State) (l : Nat) : Link := SMap.get s.links Link.empty l
def State.setLink (s : State) (l : Nat) (v : Link) : State :=
  { s with links := SMap.put s.links Link.empty l v }
def State.field (s : State) (f : Nat) : FieldSt := SMap.get s.fields FieldSt.reset f
def State.setField (s : State) (f : Nat) (v : FieldSt) : State :=
  { s with fields := SMap.put s.fields FieldSt.reset f v }
def State.die (s : State) (d : Nat) : DieSt := SMap.get s.dies DieSt.reset d
def State.setDie (s : State) (d : Nat) (v : DieSt) : State :=
  { s with dies := SMap.put s.dies DieSt.reset d v }
def State.quarter (s : State) (q : Nat) : QuarterSt := SMap.get s.quarters (QuarterSt.reset q) q
def State.setQuarter (s : State) (q : Nat) (v : QuarterSt) : State :=
  { s with quarters := SMap.put s.quarters (QuarterSt.reset q) q v }
def State.coreSt (s : State) (c : Nat) : CoreSt := SMap.get s.cores CoreSt.reset c
def State.setCore (s : State) (c : Nat) (v : CoreSt) : State :=
  { s with cores := SMap.put s.cores CoreSt.reset c v }
def State.walk (s : State) (k : Nat) : WalkSt := SMap.get s.walks WalkSt.reset k
def State.setWalk (s : State) (k : Nat) (v : WalkSt) : State :=
  { s with walks := SMap.put s.walks WalkSt.reset k v }

/-- An admitted graph by its identifier. -/
def State.graph? (s : State) (g : Nat) : Option GraphSt := s.graphs.find? fun a => a.id == g
def State.setGraph (s : State) (v : GraphSt) : State :=
  { s with graphs := s.graphs.map fun a => if a.id = v.id then v else a }

/-- Change one admitted graph. -/
def State.modGraph (s : State) (g : Nat) (f : GraphSt → GraphSt) : State :=
  { s with graphs := s.graphs.map fun a => if a.id = g then f a else a }

/-- Change a list element by element over the state. -/
def foldState {α : Type} (f : State → α → State) (s : State) : List α → State
  | [] => s
  | a :: as => foldState f (f s a) as

/-- A list of numbers in ascending order. -/
def ascending (ns : List Nat) : List Nat := ns.foldr insert []
where
  insert (n : Nat) : List Nat → List Nat
    | [] => [n]
    | a :: as => if n ≤ a then n :: a :: as else a :: insert n as

/-! ### Places (R12, R14, R16) -/

def slotNo (x : Nat) : Nat := x % 64
def tileOf (x : Nat) : Nat := x / 64
def fieldOfTile (t : Nat) : Nat := t / 64
def jOfTile (t : Nat) : Nat := t % 64
def dieOfTile (t : Nat) : Nat := t / 20480
def dieOfField (f : Nat) : Nat := f / 320
def quarterOfDie (d : Nat) : Nat := d / 2
def fieldOf (x : Nat) : Nat := fieldOfTile (tileOf x)
def posNo : Pos → Nat
  | .l => 0
  | .r => 1
  | .p => 2

/-- The number of a slot's latch. -/
def latchNo (x : Nat) (p : Pos) : Nat := 3 * x + posNo p

/-- The field at a module column and row, if there is one. -/
def fieldAt (col row : Nat) : Option Nat :=
  if col < 64 ∧ row < 40 then some (320 * (4 * (row / 20) + col / 16) + 16 * (row % 20) + col % 16) else none

/-- A field's module column and row. -/
def colOfField (f : Nat) : Nat := 16 * (f / 320 % 4) + f % 320 % 16
def rowOfField (f : Nat) : Nat := 20 * (f / 1280) + f % 320 / 16

/-- The partition of each quarter, its origin and extent (R14, R15). -/
def partOf (s : State) (q : Nat) : Nat := (s.quarter q).active.part.toNat
def partCol (p : Nat) : Nat := if p = 1 ∨ p = 3 then 32 else 0
def partRow (p : Nat) : Nat := if p = 2 ∨ p = 3 ∨ p = 5 then 20 else 0
def partCols (p : Nat) : Nat := if p < 4 then 32 else 64
def partRows (p : Nat) : Nat := if p = 6 then 40 else 20

/-- Partitions share a quarter only with themselves: whether two quarters are one partition. -/
def samePart (s : State) (q r : Nat) : Bool := decide (partOf s q = partOf s r)

/-- The quarters of q's partition. -/
def partQuarters (s : State) (q : Nat) : List Nat := [0, 1, 2, 3].filter fun r => samePart s q r

/-- The lead quarter of q's partition: its first quarter (R199). -/
def leadOf (s : State) (q : Nat) : Nat := ((partQuarters s q).head?).getD q

/-! ### Bytes and numbers (R4) -/

/-- The little-endian number of a list of bytes. -/
def leNat : List Byte → Nat
  | [] => 0
  | b :: bs => b.toNat + 256 * leNat bs

/-- The n low bytes of a number, little-endian. -/
def leBytes : Nat → Nat → List Byte
  | 0, _ => []
  | n + 1, v => BitVec.ofNat 8 v :: leBytes n (v / 256)

/-- Bits [lo + len - 1 : lo] of a number. -/
def bitsOf (v lo len : Nat) : Nat := v / 2 ^ lo % 2 ^ len

/-- One bit of a number. -/
def bitOf (v i : Nat) : Bool := decide (v / 2 ^ i % 2 = 1)

/-- A truth value as 0 or 1. -/
def b2n (c : Bool) : Nat := if c then 1 else 0

/-! ### Memory (one sparse byte list) -/

namespace Memory

/-- The canonical form: addresses strictly rising, no entry equal to what an unlisted address reads as. -/
def wf (m : List Host.Cell) : Bool := SMap.wf Config.fillByte m

/-- One byte. -/
def get (m : List Host.Cell) (a : Nat) : Byte := SMap.get m Config.fillByte a

/-- Write one byte. -/
def put (m : List Host.Cell) (a : Nat) (b : Byte) : List Host.Cell := SMap.put m Config.fillByte a b

/-- n bytes from a. -/
def read (m : List Host.Cell) (a : Nat) : Nat → List Byte
  | 0 => []
  | n + 1 => get m a :: read m (a + 1) n

/-- Write a list of bytes from a. -/
def write (m : List Host.Cell) (a : Nat) : List Byte → List Host.Cell
  | [] => m
  | b :: bs => write (put m a b) (a + 1) bs

end Memory

/-- Read and write the machine's memory by location. -/
def State.byte (s : State) (a : Nat) : Byte := Memory.get s.mem a
def State.bytes (s : State) (a n : Nat) : List Byte := Memory.read s.mem a n
def State.setBytes (s : State) (a : Nat) (bs : List Byte) : State := { s with mem := Memory.write s.mem a bs }

/-! ### Physical addresses and locations (R22 to R25, R198) -/

def dramEnd : Nat := 0x018000000000
def blockSize : Nat := 0x006000000000
def stackSize : Nat := 0x001800000000
def tileBase : Nat := 0x100000000000
def tileEnd : Nat := 0x101400000000
def accBase : Nat := 0x180000000000
def accEnd : Nat := 0x1800A0000000
def remoteBase : Nat := 0x7E0000000000
def regBase : Nat := 0x7F0000000000
def regEnd : Nat := 0x800000000000
def pageSize : Nat := 0x200000

def isDram (pa : Nat) : Bool := decide (pa < dramEnd)
def isTileStore (pa : Nat) : Bool := decide (tileBase ≤ pa) && decide (pa < tileEnd)

/-- The tile whose store holds a tile-store address (R24). -/
def tileOfPa (pa : Nat) : Nat := (pa - tileBase) / 0x80000

/-- The first byte of a tile's store. -/
def tileStore (t : Nat) : Nat := tileBase + t * 0x80000

/-- The first byte of an ME's accumulator store: field F, engine m (R25). -/
def accStore (f m : Nat) : Nat := accBase + (f / 320) * 0x14000000 + (f % 320) * 0x100000 + m * 0x40000

/-- The quarter whose block or tile stores hold a DRAM or tile-store address. -/
def quarterOfPa (pa : Nat) : Nat :=
  if isDram pa then pa / blockSize else quarterOfDie (dieOfTile (tileOfPa pa))

/-- The stack and the offset in it of a DRAM address, by the WAYS and HASH of its partition's lead (R198). -/
def stackOf (s : State) (pa : Nat) : Nat × Nat :=
  let q := pa / blockSize
  let ilv := (s.quarter (leadOf s q)).active.ilv.toNat
  let w := ilv % 4
  let n := if w = 0 then 4 else if w = 1 then 8 else 16
  let q0 := if w = 0 then q else if w = 1 then q / 2 * 2 else 0
  let o := pa - q0 * blockSize
  let p := o / pageSize
  let k := (if ilv / 4 = 1 then Nat.xor (Nat.xor p (p / 16)) (p / 256) else p) % n
  (4 * q0 + k, p / n * pageSize + o % pageSize)

/-- The key under which a byte of a physical address is held: DRAM by its stack location, the rest as it is. -/
def locOf (s : State) (pa : Nat) : Nat :=
  if isDram pa then (stackOf s pa).1 * stackSize + (stackOf s pa).2 else pa

/-- The home die of a DRAM or tile-store address (R23, R24). -/
def homeDie (s : State) (pa : Nat) : Nat :=
  if isDram pa then (stackOf s pa).1 / 2 else dieOfTile (tileOfPa pa)

/-- The die of a source identifier. -/
def dieOfSource (src : Nat) : Nat := src / 2 ^ 25 % 8

/-- Bytes at the home of a physical address. A multi-byte access lies in one page, whose bytes are adjacent. -/
def State.home (s : State) (pa n : Nat) : List Byte := s.bytes (locOf s pa) n
def State.setHome (s : State) (pa : Nat) (bs : List Byte) : State := s.setBytes (locOf s pa) bs

/-- The sector of 48 bytes, from its page's base, that holds a location: its first byte (R202, R203). -/
def sectorOf (loc : Nat) : Nat := loc / pageSize * pageSize + loc % pageSize / 48 * 48

/-- The granule that holds a location, by its page's layout tag: its first byte and its length (R202, R213). -/
def granuleOf (s : State) (loc : Nat) : Nat × Nat :=
  let p := loc / pageSize * pageSize
  let o := loc % pageSize
  let u := if SMap.get s.tags 0 (loc / pageSize) = 0 then 48 else if SMap.get s.tags 0 (loc / pageSize) = 1 then 192 else 768
  (p + o / u * u, Nat.min u (pageSize - o / u * u))

/-- The bits of a granule's metadata that are copies of the poison flag of its k-th sector (R213). -/
def flagCopies (tag k : Nat) : List Nat :=
  if tag = 0 then List.range 16 else if tag = 1 then (List.range 4).map fun c => 4 * c + k
  else (List.range 4).map fun c => 16 * c + k

/-- Whether a sector, by the location of its first byte, is poisoned: half of the copies of its flag are 1, flipped copies
among them (R213). -/
def sectorPoisoned (s : State) (sec : Nat) : Bool :=
  let g := (granuleOf s sec).1
  let fl := SMap.get s.flips [] g
  let copies := flagCopies (SMap.get s.tags 0 (sec / pageSize)) ((sec - g) / 48)
  let off := (copies.filter fun b => fl.contains (.flag b)).length
  let ones := if s.poison.contains sec then copies.length - off else off
  decide (copies.length ≤ 2 * ones)

/-! ### Lines, sectors and bursts, counted from the page's base (R202, R203) -/

def ppnOf (pa : Nat) : Nat := pa / pageSize
def lineInPage (pa : Nat) : Nat := pa % pageSize / 192
/-- The global line number g. -/
def lineNo (pa : Nat) : Nat := 10923 * ppnOf pa + lineInPage pa
/-- The first byte and the length of the line that holds an address. -/
def lineBase (pa : Nat) : Nat := ppnOf pa * pageSize + lineInPage pa * 192
def lineLen (pa : Nat) : Nat := Nat.min 192 (pageSize - lineInPage pa * 192)
/-- The sector of its line that holds an address. -/
def sectorInLine (pa : Nat) : Nat := pa % pageSize % 192 / 48
/-- The physical address of a sector's first byte, and its length. -/
def sectorBase (pa : Nat) : Nat := ppnOf pa * pageSize + pa % pageSize / 48 * 48
def sectorLen (pa : Nat) : Nat := Nat.min 48 (pageSize - pa % pageSize / 48 * 48)

/-- Whether the home second-level cache holds sectors of a line. -/
def l2Has (s : State) (base : Nat) (secs : List Nat) : Bool :=
  (SMap.get (s.die (homeDie s base)).l2 [] (lineNo base % 65536)).any fun l => l.base == base && secs.all fun k => l.valid.contains k

/-- Whether the home second-level cache holds the sector of a DRAM address: what DRAM stores of it is then not what is read. -/
def l2Holds (s : State) (pa : Nat) : Bool := l2Has s (lineBase pa) [sectorInLine pa]

/-- Whether any byte of [pa, pa + n) lies in a poisoned DRAM sector: as the home second-level cache holds it, else as it is
stored. -/
def State.poisoned (s : State) (pa n : Nat) : Bool :=
  let a := locOf s pa
  isDram pa && !(s.poison.isEmpty && s.flips.isEmpty) && ((List.range (n / 48 + 2)).map fun i => sectorOf (a + 48 * i)).any fun p =>
    decide (p < a + n) && (if l2Holds s (pa + p - a) then s.poison.contains p else sectorPoisoned s p)

/-- Mark a sector poisoned, or clean. -/
def State.setPoison (s : State) (sector : Nat) (p : Bool) : State :=
  if p then { s with poison := if s.poison.contains sector then s.poison else sector :: s.poison }
  else { s with poison := s.poison.filter fun a => a != sector }

/-! ### Stamps (R295) -/

/-- A source identifier of a control core. -/
def isCoreSource (src : Nat) : Bool := decide (src / 2 ^ 28 = 3)

/-- Note that what is at work takes place at a point of order with a key; it comes too late if what has taken place there in
this cycle ranks above it (R204, R279, R291; notes/assumptions/43.md). -/
def markAt (s : State) (p : Point) (key : Nat) : State :=
  if s.order.any fun e => decide (e.1 = p) && decide (key < e.2) then { s with late := true }
  else { s with order := (p, key) :: s.order }

/-- Note a stamped event of a source: it has at most one in a cycle (R296), and the control cores act in the order of their
source identifiers (R349; notes/assumptions/43.md). -/
def markStamp (s : State) (src : Nat) : State :=
  if s.order.any fun e => match e.1 with
    | .source a => decide (a = src) || (isCoreSource a && isCoreSource src && decide (src < a))
    | _ => false
  then { s with late := true }
  else { s with order := (.source src, src) :: s.order }

/-- Whether a source has recorded a stamped event in this cycle. -/
def stamped (s : State) (src : Nat) : Bool := s.order.any fun e => decide (e.1 = .source src)

def sourceId (kind die field tile unit : Nat) : BitVec 32 :=
  BitVec.ofNat 32 (kind * 2 ^ 28 + die % 8 * 2 ^ 25 + field % 512 * 2 ^ 16 + tile % 64 * 2 ^ 10 + unit % 64 * 2 ^ 4)

def stampAt (s : State) (die : Nat) (src : BitVec 32) : BitVec 96 := (s.die die).gcyc ++ src

/-- The source identifiers of a slot, of a queue of a field's engines, of the graph sequencer in a field, of a field's cache with
its combining buffer, of an Ultra Ethernet port. -/
def slotSource (x : Nat) : BitVec 32 :=
  let t := tileOf x
  sourceId 0 (dieOfTile t) (fieldOfTile t % 320) (jOfTile t) (slotNo x)
def engineSource (f q : Nat) : BitVec 32 := sourceId 1 (dieOfField f) (f % 320) 0 q
def seqSource (f : Nat) : BitVec 32 := sourceId 2 (dieOfField f) (f % 320) 0 0
def cacheSource (f : Nat) : BitVec 32 := sourceId 6 (dieOfField f) (f % 320) 0 0
def portSource (u : Nat) : BitVec 32 := sourceId 4 (u / 2) 0 0 (u % 2)

/-- The source at work: what it asks of a home or a tile store is ordered by its identifier. -/
def State.by (s : State) (src : BitVec 32) : State := { s with src := src.toNat }

/-- What the cache of field f asks of the homes (R291, R295): its fills, its write-backs, its combining buffer's entries. -/
def asCache (s : State) (f : Nat) (go : State → State) : State := { go (s.by (cacheSource f)) with src := s.src }

/-- The source identifier in a stamp. -/
def stampSource (v : BitVec 96) : Nat := v.toNat % 2 ^ 32

/-- Stamp of an event of a slot, of a graph sequencer in field f, and of a core. -/
def slotStamp (s : State) (x : Nat) : BitVec 96 := stampAt s (dieOfTile (tileOf x)) (slotSource x)
def seqStamp (s : State) (f : Nat) : BitVec 96 := stampAt s (dieOfField f) (seqSource f)
def engineStamp (s : State) (f q : Nat) : BitVec 96 := stampAt s (dieOfField f) (engineSource f q)

/-- Cores: 2 x quarter + (0 SC, 1 SB), 8 MGC. SC on the lower-numbered die, SB on the higher (R12). -/
def coreDie (c : Nat) : Nat := if c = 8 then 0 else c
def coreSource (c : Nat) : BitVec 32 :=
  sourceId 3 (coreDie c) 0 0 (if c = 8 then 2 else c % 2)
def coreStamp (s : State) (c : Nat) : BitVec 96 := stampAt s (coreDie c) (coreSource c)

/-! ### Counters -/

/-- Count n events of kind e in a die's performance counters (R345). -/
def pmcCount (s : State) (d e n : Nat) : State :=
  let die := s.die d
  s.setDie d { die with
    pmc := die.pmc.map fun c =>
      if c.2.evt.toNat = e then (c.1, { c.2 with cnt := c.2.cnt + BitVec.ofNat 64 n, fresh := c.2.fresh + n }) else c }

/-- The dies that send a flit on its way from die a to die b, each over one boundary: along the row, then along the column
(R13). -/
def ghlRoute (a b : Nat) : List Nat :=
  let across := if a % 4 ≤ b % 4 then (List.range (b % 4 - a % 4)).map fun i => a + i
    else (List.range (a % 4 - b % 4)).map fun i => a - i
  if a / 4 = b / 4 then across else across ++ [a / 4 * 4 + b % 4]

/-- Traffic of n flits from die a to die b counts at every die that sends it on, the dies between among them (DESIGN CHOICE,
notes/assumptions/51.md). -/
def crossFlits (s : State) (a b n : Nat) : State := foldState (fun s d => pmcCount s d 4 n) s (ghlRoute a b)

/-- The 256-bit flits of a message of n bytes beside its address (DESIGN CHOICE, notes/assumptions/51.md). -/
def flitsOf (n : Nat) : Nat := 1 + (n + 31) / 32

/-- Flits of a request of the source at work to a die, with up bytes of data, and of its answer, with down bytes (R345). DESIGN
CHOICE (notes/assumptions/51.md): each die that sends a flit over one of the boundaries it crosses counts it, the die that
receives it in the end does not. -/
def countFlits (s : State) (home up down : Nat) : State :=
  crossFlits (crossFlits s (dieOfSource s.src) home (flitsOf up)) home (dieOfSource s.src) (flitsOf down)

/-- Add one to a saturating 16-bit or 8-bit count of a completion record. -/
def satInc (n lim k : Nat) : Nat := if n + k ≤ lim then n + k else lim

/-! ### Graphs' rectangles -/

/-- COLS and ROWS of a launch record (R314). -/
def recCols (r : List Byte) : Nat := leNat ((r.drop 16).take 1)
def recRows (r : List Byte) : Nat := leNat ((r.drop 17).take 1)
def recPrio (r : List Byte) : Nat := leNat ((r.drop 18).take 1) % 16
def recNarg (r : List Byte) : Nat := leNat ((r.drop 18).take 2) / 16 % 32
def recPre (r : List Byte) : Bool := bitOf (leNat ((r.drop 16).take 4)) 25
def recRes (r : List Byte) : Bool := bitOf (leNat ((r.drop 16).take 4)) 26
def recTag (r : List Byte) : Nat := leNat ((r.drop 20).take 4)
def recGraph (r : List Byte) : Nat := leNat (r.take 8)
def recImage (r : List Byte) : Nat := leNat ((r.drop 8).take 8)
def recCkpt (r : List Byte) : Nat := leNat ((r.drop 24).take 8)
def recArg (r : List Byte) (i : Nat) : Nat := leNat ((r.drop (32 + 8 * i)).take 8)

/-- The module column and row of a graph's origin. -/
def graphCol (s : State) (g : GraphSt) : Nat := partCol (partOf s g.lead) + g.col
def graphRow (s : State) (g : GraphSt) : Nat := partRow (partOf s g.lead) + g.row

/-- The i-th field of a graph's rectangle, row by row. -/
def graphField (s : State) (g : GraphSt) (i : Nat) : Option Nat :=
  let w := recCols g.rcd
  fieldAt (graphCol s g + i % w) (graphRow s g + i / w)

/-- The fields of a graph's rectangle. -/
def graphFields (s : State) (g : GraphSt) : List Nat :=
  (List.range (recCols g.rcd * recRows g.rcd)).filterMap fun i => graphField s g i

/-- The home field: lowest column, lowest row (R28). -/
def graphHome (s : State) (g : GraphSt) : Nat := (graphField s g 0).getD 0

/-- Whether a field lies in a graph's rectangle. -/
def inGraph (s : State) (g : GraphSt) (f : Nat) : Bool :=
  decide (graphCol s g ≤ colOfField f) && decide (colOfField f < graphCol s g + recCols g.rcd) &&
    decide (graphRow s g ≤ rowOfField f) && decide (rowOfField f < graphRow s g + recRows g.rcd)

/-- The admitted graph whose rectangle holds a field. -/
def graphOfField (s : State) (f : Nat) : Option GraphSt := s.graphs.find? fun g => inGraph s g f

/-- The section of a leaf node. -/
def nodeSection (n : Node) : Option Section :=
  match n.st with
  | .leaf c => some c
  | _ => none

def GraphSt.node? (g : GraphSt) (n : Nat) : Option Node := g.nodes.find? fun a => a.id == n

/-- Change one node of a graph. -/
def GraphSt.modNode (g : GraphSt) (n : Nat) (f : Node → Node) : GraphSt :=
  { g with nodes := g.nodes.map fun a => if a.id = n then f a else a }

/-- Change the section of a leaf. -/
def Node.modSection (n : Node) (f : Section → Section) : Node :=
  match n.st with
  | .leaf c => { n with st := .leaf (f c) }
  | _ => n

def State.modSection (s : State) (g n : Nat) (f : Section → Section) : State :=
  s.modGraph g fun a => a.modNode n fun b => b.modSection f

/-- Note progress of the section that holds a tile (R52). -/
def noteProgress (s : State) (t : Nat) : State :=
  let period := (s.quarter (leadOf s (quarterOfDie (dieOfTile t)))).wdog
  match (s.tile t).owner with
  | some (g, n) => s.modSection g n fun c => { c with progress := s.now, period := period }
  | none => s

/-! ### Control-core interrupts and fault records -/

/-- Set a pending bit of CINT of a quarter: 0 KICK, 1 CPL, 2 FLT, 3 LAPSE, 4 PRED (R369). -/
def raiseCint (s : State) (q bit : Nat) : State :=
  let v := s.quarter q
  s.setQuarter q { v with cintPend := v.cintPend ||| BitVec.ofNat 5 (2 ^ bit) }

/-- Codes of R347. -/
def codeBadOpcode : Nat := 0x01
def codeBadForm : Nat := 0x02
def codeSlotKind : Nat := 0x03
def codeZeroLoop : Nat := 0x04
def codeLinkDepth : Nat := 0x05
def codeRateDep : Nat := 0x06
def codeChainLate : Nat := 0x07
def codeUnsupported : Nat := 0x08
def codeBadGraph : Nat := 0x09
def codeVaInvalid : Nat := 0x10
def codePageAbsent : Nat := 0x11
def codePteBad : Nat := 0x12
def codePaInvalid : Nat := 0x13
def codeGranBad : Nat := 0x14
def codeAccessDenied : Nat := 0x15
def codeRemoteFail : Nat := 0x16
def codeMisalign : Nat := 0x20
def codeRegionSplit : Nat := 0x21
def codeGuardNotHeld : Nat := 0x22
def codeGuardHeld : Nat := 0x23
def codePlaneHome : Nat := 0x24
def codePlaneCollide : Nat := 0x25
def codeBlockLen : Nat := 0x26
def codeBufBad : Nat := 0x27
def codeBufState : Nat := 0x28
def codeQueueOff : Nat := 0x29
def codeStreamSkew : Nat := 0x30
def codeOverrun : Nat := 0x31
def codeCorrelated : Nat := 0x32
def codeStreamLen : Nat := 0x33
def codeFmtMix : Nat := 0x34
def codeEngCfg : Nat := 0x35
def codeEngRange : Nat := 0x36
def codeMxOrder : Nat := 0x37
def codeXferBad : Nat := 0x38
def codeCtrCfg : Nat := 0x39
def codeTrap : Nat := 0x3A
def codeCtnState : Nat := 0x3B
def codePoison : Nat := 0x40
def codePipeErr : Nat := 0x41
def codeWatchdog : Nat := 0x42
def codePredFail : Nat := 0x50

/-- A code of a translation fault or REMOTE-FAIL (R350). -/
def isTransCode (c : Nat) : Bool := decide (0x10 ≤ c) && decide (c ≤ 0x16)

/-- A code that a containment region contains (R354). -/
def isContainedCode (c : Nat) : Bool :=
  (decide (0x20 ≤ c) && decide (c ≤ 0x3B)) || decide (c = 0x40) || decide (c = 0x41)

/-- A record with nothing in it. -/
def FRec.blank : FRec :=
  { rid := 0, stamp := 0, code := 0, acc := 0, kind := 0, esc := false, void := false, unit := 0xF, slot := 0x3F,
    tile := 0, die := 0, field := 0, blkid := 0, fid := 0, qtr := 0, lq := 0, va := 0, ks := [], detail := 0,
    tag := 0, src := .none, graph := 0, raisedAt := 0, postedAt := 0, tlim := 0 }

/-- The 64 bytes of a record (R346). -/
def FRec.toBytes (r : FRec) : List Byte :=
  leBytes 12 r.stamp.toNat
    ++ leBytes 4 (r.code * 2 ^ 24 + r.acc * 2 ^ 20 + r.kind * 2 ^ 18 + b2n r.esc * 2 ^ 17 + b2n r.void * 2 ^ 16
        + r.unit * 2 ^ 12 + r.slot * 2 ^ 6 + r.tile)
    ++ leBytes 4 (r.die * 2 ^ 29 + r.field * 2 ^ 20 + r.blkid.toNat)
    ++ leBytes 4 (r.fid * 2 ^ 16 + r.qtr * 2 ^ 6 + r.lq)
    ++ leBytes 8 (r.va.toNat % 2 ^ 48)
    ++ leBytes 4 ((r.ks[0]?).getD 0).toNat ++ leBytes 4 ((r.ks[1]?).getD 0).toNat
    ++ leBytes 4 ((r.ks[2]?).getD 0).toNat ++ leBytes 4 ((r.ks[3]?).getD 0).toNat
    ++ leBytes 8 r.detail.toNat ++ leBytes 4 r.tag.toNat ++ leBytes 4 0

/-- The records of a quarter's fault buffer that await resolution, posted, held or popped. -/
def QuarterSt.records (v : QuarterSt) : List FRec := v.fbuf ++ v.held ++ v.popped

/-- The first identifier from n on that no record in the list holds, among k + 1. -/
def freshFid : Nat → Nat → List FRec → Nat
  | 0, n, _ => n
  | k + 1, n, rs => if rs.any (fun r => r.fid == n) then freshFid k ((n + 1) % 65536) rs else n

/-- The FID of a record that a source posts: a free one, the search for which starts at a free value, and another than that of the
record of the source which a RETRY resolved last (R346, R349; notes/assumptions/23.md). -/
def nextFid (v : QuarterSt) (id : Nat) (src : FSrc) : Nat :=
  let a := freshFid v.records.length (Config.freeFid id % 65536) v.records
  if v.retried.any fun e => decide (e = (src, a)) then freshFid v.records.length ((a + 1) % 65536) v.records else a

/-- Insert a record by ascending stamp. -/
def insertRec (r : FRec) : List FRec → List FRec
  | [] => [r]
  | a :: as => if r.stamp.toNat < a.stamp.toNat then r :: a :: as else a :: insertRec r as

/-- Whether a record of FBUF was raised and posted in this cycle. -/
def newRec (now : Nat) (r : FRec) : Bool := decide (r.postedAt = now) && decide (r.raisedAt = now)

/-- Insert a new record behind those of earlier cycles and those re-posted in this one, among the new ones by stamp (R331). -/
def insertNew (now : Nat) (r : FRec) (rs : List FRec) : List FRec :=
  rs.filter (fun a => !newRec now a) ++ insertRec r (rs.filter (newRec now))

/-- A record as it is posted: the next identifier, a free FID, the cycle and the limit in force. -/
def postedRec (s : State) (lead : Nat) (r : FRec) : FRec :=
  let v := s.quarter lead
  { r with rid := s.nextId, fid := nextFid v s.nextId r.src, raisedAt := s.now, postedAt := s.now,
           tlim := v.tlim }

/-- A record enters FBUF: CINT.FLT, and CINT.PRED for a PRED-FAIL (R369). -/
def enterFbuf (s : State) (lead : Nat) (r : FRec) : State :=
  let s := raiseCint s lead 2
  if r.code = codePredFail then raiseCint s lead 4 else s

/-- Post a fault record to the FBUF of a lead quarter, or hold it when FBUF is full (R330, R331). This is how the
fabric takes an exception: the record keeps what a control core needs, and the source withholds on its rid. Of the records
of one cycle those of the lowest stamps are posted: one that no longer fits gives way and is held. -/
def postRec (s : State) (lead : Nat) (r : FRec) : State :=
  let r := postedRec s lead r
  let v := s.quarter lead
  let s := markStamp (markAt { s with nextId := s.nextId + 1 } (.faults lead) 2) (stampSource r.stamp)
  let fbuf := insertNew s.now r v.fbuf
  match fbuf.drop 1024 with
  | [] => enterFbuf (s.setQuarter lead { v with fbuf := fbuf }) lead r
  | a :: _ =>
    let s := s.setQuarter lead { v with fbuf := fbuf.take 1024, held := insertRec a v.held, ovf := true }
    if a.rid = r.rid then s else enterFbuf s lead r

/-- Re-post held faults while FBUF has room, lowest stamp first (R331). -/
def repost (s : State) (lead : Nat) : State :=
  let v := s.quarter lead
  match v.held with
  | r :: rs =>
    if v.fbuf.length < 1024 then
      enterFbuf
        (s.setQuarter lead { v with fbuf := v.fbuf ++ [{ r with postedAt := s.now, tlim := v.tlim }], held := rs }) lead r
    else s
  | [] => s

/-- Whether a withheld record stands unresolved: in FBUF, held or popped, and not VOID. -/
def outstandingRec (r : FRec) : Bool := !r.void && decide (r.kind = 0)

/-- Whether a record is VOID because its time limit expired: the drain sets its limit to 0 (R182), and a late resolution
answers 2 (R375). -/
def lateRec (r : FRec) : Bool := r.void && decide (r.kind = 0) && isTransCode r.code && decide (r.tlim = 0)

/-- Change every record of a partition: posted, held, or popped and still kept. -/
def mapRecs (s : State) (lead : Nat) (f : FRec → FRec) : State :=
  let v := s.quarter lead
  s.setQuarter lead { v with
    fbuf := v.fbuf.map f, held := v.held.map f
    popped := (v.popped.map f).filter fun r => outstandingRec r || lateRec r }

/-- The common fields of a record raised in a tile (R346): place, BLKID, queue, TAG, K0 to K3, stamp. -/
def tileRec (s : State) (t : Nat) (g : GraphSt) : FRec :=
  let ti := s.tile t
  { FRec.blank with
    tile := jOfTile t, die := dieOfTile t, field := fieldOfTile t % 320,
    blkid := ((ti.cfg.head?).getD 0).extractLsb' 0 16, qtr := g.qtr, lq := g.lq,
    ks := (ti.ks.take 4).map KCtr.val, tag := BitVec.ofNat 32 (recTag g.rcd), graph := g.id }

/-- The common fields of a record of the graph sequencer: the home field, TILE 0, BLKID 0 (R348). -/
def seqRec (s : State) (g : GraphSt) : FRec :=
  let f := graphHome s g
  { FRec.blank with
    die := dieOfField f, field := f % 320, qtr := g.qtr, lq := g.lq, tag := BitVec.ofNat 32 (recTag g.rcd),
    stamp := seqStamp s f, graph := g.id }

/-! ### Containment, kills and completions -/

/-- Discard a field's tentative sectors: VAL, DRT and TNT become 0 (R208). -/
def discardTentative (f : FieldSt) : FieldSt :=
  { f with cache := f.cache.map fun e =>
      (e.1, { e.2 with bytes := e.2.bytes.filter (fun b => !(e.2.tnt.contains (b.1 / 48))), tnt := [] }) }

/-- Commit a field's tentative sectors: TNT becomes 0, the bytes stay dirty (R208). -/
def commitTentative (f : FieldSt) : FieldSt :=
  { f with cache := f.cache.map fun e => (e.1, { e.2 with tnt := [] }) }

/-- The number of tentative sectors: TENT of CTNST (R352). -/
def tentCount (f : FieldSt) : Nat := f.cache.foldl (fun n e => n + e.2.tnt.length) 0

/-- A completion for a launch record (R328), by the arbiter of a lead quarter, whose place is the lower die's field 0 (R348). -/
def mkCompl (s : State) (lead qtr lq : Nat) (rcd : List Byte) (pstamp : BitVec 96) (status : Nat) : Compl :=
  { home := 640 * lead, since := s.now, stamp := none, freed := false, qtr := qtr, lq := lq, status := status, rlx := 0
    stray := 0, tag := BitVec.ofNat 32 (recTag rcd), result := none, kills := 0, area := 0, pstamp := pstamp
    graph := none }

/-- A completion of an admitted graph, by the sequencer of its home field. -/
def graphCompl (s : State) (g : GraphSt) (status : Nat) (result : Option Token) (area : DWord) : Compl :=
  { mkCompl s g.lead g.qtr g.lq g.rcd g.stamp status with
    home := graphHome s g, rlx := g.rlx, stray := g.stray, kills := g.kills, result := result, area := area
    graph := some g.id }

/-- Queue a completion for posting (R329). -/
def queueCompl (s : State) (lead : Nat) (c : Compl) : State :=
  let v := s.quarter lead
  s.setQuarter lead { v with compl := v.compl ++ [c] }

/-- End a graph: no permit is given and no element fires; its completion waits for its issued work (R363, R329). -/
def endGraph (s : State) (g : GraphSt) (status : Nat) (result : Option Token) (area : DWord) : State :=
  queueCompl (s.modGraph g.id fun a => { a with ended := true }) g.lead (graphCompl s g status result area)

/-- What a kill leaves of a field's units: commands, waiting requests and tentative sectors are discarded
(R138, R255, R327, R351). -/
def killField (f : FieldSt) : FieldSt :=
  let f := if f.ctn.opened && !f.ctn.early then discardTentative f else f
  { f with bus := [], queues := [], slds := [], ctn := CtnSt.reset, oplatch := none,
           chans := f.chans.map fun c => (c.1, { c.2 with st := 0, read := none }),
           mes := f.mes.map fun m => (m.1, { m.2 with panel := none }) }

/-- What is discarded when a graph leaves its rectangle (R327): latches, links, hold values, accesses, commands, waiting
requests, nodes and holds. -/
def clearGraph (s : State) (g : GraphSt) : State :=
  let fs := graphFields s g
  let inT (t : Nat) : Bool := fs.contains (fieldOfTile t)
  let ids := fs.flatMap fun f =>
    (s.field f).bus.map Cmd.id ++ (s.field f).queues.flatMap fun q => q.2.map Cmd.id
  let s := { s with
    slots := s.slots.filter fun e => !inT (tileOf e.1)
    links := s.links.filter fun e => !inT (tileOf (e.1 / 3))
    remotes := s.remotes.filter fun r => !inT (tileOf r.x)
    walks := s.walks.map fun w =>
      match w.2.run with
      | some c => if ids.contains c then (w.1, { w.2 with run := none }) else w
      | none => w
    tiles := s.tiles.map fun e =>
      if inT e.1 then
        (e.1, { e.2 with armed := 0, begun := false, met := false, inCnt := [], outCnt := [], owner := none, xlat := [] })
      else e }
  let s := foldState (fun s f => s.setField f (killField (s.field f))) s fs
  s.modGraph g.id fun a => { a with nodes := [], guards := [], groups := [], handlers := [], errs := [], ended := true }

/-- The discards of a kill: every record of the graph becomes VOID too (R351). -/
def killDiscards (s : State) (g : GraphSt) : State :=
  mapRecs (clearGraph s g) g.lead fun r => if r.graph = g.id then { r with void := true } else r

/-- Kill a graph with a completion status: BAD-LAUNCH 1, BAD-GRAPH 3, TIMEOUT 4, KILLED 6 (R351). A completion of the
graph that still waits to be posted gives way to it. -/
def killGraph (s : State) (gid status : Nat) : State :=
  match s.graph? gid with
  | none => s
  | some g =>
    let s' := killDiscards s g
    let v := s'.quarter g.lead
    let s' := s'.setQuarter g.lead { v with compl := v.compl.filter fun c => decide (c.graph ≠ some gid) }
    queueCompl s' g.lead (graphCompl s g status none 0)

/-- Want an arbiter pass in q's partition from the next cycle (R319). -/
def wantPass (s : State) (q : Nat) : State :=
  let l := leadOf s q
  let v := s.quarter l
  s.setQuarter l { v with pass := some ((v.pass).getD (s.now + 1)) }

/-- The accesses of a slot that an abort leaves to be performed: where the slot withholds on one, the others that were
translated before; else all (R226, R354). -/
def abortAccs (v : SlotSt) : List Access :=
  if v.accs.any (·.held) then v.accs.filter fun a => decide (a.parts ≠ none) && !a.held else v.accs

/-- A copy channel whose CPY.HEAD stopped on a fault and has left its queue is idle: the commands behind it proceed (R271). -/
def idleChans (f : FieldSt) : FieldSt :=
  { f with chans := f.chans.map fun c =>
      if c.2.st = 3 ∧ !((SMap.get f.queues [] (5 + c.1))[0]?.any fun a => a.wh.isSome) then (c.1, { c.2 with st := 0, read := none })
      else c }

/-- Withheld commands of a list of tiles leave their queues and the bus: their firings are abandoned, and those behind them
go on (R354, R363). -/
def dropWithheld (inT : Nat → Bool) (f : FieldSt) : FieldSt :=
  let go (c : Cmd) : Bool := !(inT (tileOf c.x) && c.wh.isSome)
  idleChans { f with bus := f.bus.filter go, queues := f.queues.map fun e => (e.1, e.2.filter go), slds := f.slds.filter go }

/-- The commands of some tiles in a field that withhold. -/
def withheldCmds (inT : Nat → Bool) (f : FieldSt) : List Nat :=
  ((f.bus ++ f.queues.flatMap (·.2) ++ f.slds).filter fun c => inT (tileOf c.x) && c.wh.isSome).map Cmd.id

/-- Abandon what withholds in the rectangle of a graph that has halted: firings, accesses and commands; their records become VOID
(R363). -/
def abandonWithheld (s : State) (g : GraphSt) : State :=
  let inT (t : Nat) : Bool := (graphFields s g).contains (fieldOfTile t)
  let gone := s.fields.flatMap fun e => withheldCmds inT e.2
  let s := { s with
    slots := s.slots.map fun e =>
      if inT (tileOf e.1) && e.2.wh.isSome then
        (e.1, { e.2 with wh := none, result := none, accs := abortAccs e.2, cmds := e.2.cmds.filter fun c => !gone.contains c })
      else e
    fields := s.fields.map fun e => (e.1, dropWithheld inT e.2) }
  mapRecs s g.lead fun r => if r.graph = g.id && outstandingRec r then { r with void := true } else r

/-- The records of a graph that is being drained, those of translation faults apart, become VOID (R350). -/
def voidDrained (s : State) (g : GraphSt) : State :=
  mapRecs s g.lead fun r =>
    if r.graph = g.id && outstandingRec r && !isTransCode r.code then { r with void := true } else r

/-- Abort the section that holds a tile: its elements stop, latches, links and hold values are discarded without
STRAY, issued accesses and commands go on, holds are released, its other records become VOID (R354). Requests for guards and
STEPs that wait are dropped with what they would have emitted. -/
def abortSection (s : State) (g : GraphSt) (n : Node) (keepRid : Nat) : State :=
  match nodeSection n with
  | none => s
  | some c =>
    let inT (t : Nat) : Bool := c.tiles.contains t
    let wid := (s.slots.filter fun e => inT (tileOf e.1)).filterMap fun e => e.2.wh
    let gone := s.fields.flatMap fun e => withheldCmds inT e.2
    let s := { s with
      slots := (s.slots.map fun e =>
        if inT (tileOf e.1) then
          (e.1, { SlotSt.reset with
            accs := (abortAccs e.2).filter fun a => decide (a.parts ≠ some []), cmds := e.2.cmds.filter fun c => !gone.contains c })
        else e).filter fun e => decide (e.2 ≠ SlotSt.reset)
      fields := s.fields.map fun e => (e.1, dropWithheld inT e.2)
      links := s.links.filter fun e => !inT (tileOf (e.1 / 3))
      tiles := s.tiles.map fun e =>
        if inT e.1 then (e.1, { e.2 with armed := 0, begun := false, met := false, inCnt := [], outCnt := [] }) else e }
    let s := mapRecs s g.lead fun r =>
      if (wid.contains r.rid || decide (r.src = .watchdog g.id n.id)) && decide (r.rid ≠ keepRid) then
        { r with void := true } else r
    s.modGraph g.id fun a =>
      { (a.modNode n.id fun b => b.modSection fun c => { c with aborted := true }) with
        guards := a.guards.map fun e =>
          (e.1, { e.2 with
            excl := match e.2.excl with
              | some t => if inT t then none else some t
              | none => none
            shared := e.2.shared.filter fun t => !inT t
            queue := e.2.queue.filter fun r => !inT (tileOf r.x) })
        groups := a.groups.map fun e =>
          (e.1, { e.2 with
            arrived := e.2.arrived.filter fun r => !inT (tileOf r.x)
            next := e.2.next.filter fun r => !inT (tileOf r.x) }) }

/-- Insert a contained error by stamp, behind the one whose handler runs (R354). -/
def insertRun (r : HandlerRun) : List HandlerRun → List HandlerRun
  | [] => [r]
  | a :: as => if !a.started && decide (r.stamp.toNat < a.stamp.toNat) then r :: a :: as else a :: insertRun r as

/-- Insert a contained error by stamp. -/
def insertErr (e : CtnErr) : List CtnErr → List CtnErr
  | [] => [e]
  | a :: as => if e.stamp.toNat < a.stamp.toNat then e :: a :: as else a :: insertErr e as

/-- Raise a fault of an element, an access or a command of tile t: contained (R354), escalated (R355) or withheld
(R349). The caller makes the source withhold on the identifier the record takes, which is nextId; the source must
see that it still exists. A contained error is acted on when its cycle closes. -/
def raiseFault (s : State) (t : Nat) (r : FRec) : State :=
  match (s.tile t).owner with
  | none => s
  | some (gid, nid) =>
    match s.graph? gid with
    | none => s
    | some g =>
      let c := (s.field (fieldOfTile t)).ctn
      if c.opened && decide (c.owner = jOfTile t) && isContainedCode r.code then
        if c.early then
          killGraph (postRec s g.lead { r with esc := true }) gid 6
        else
          let err : CtnErr := { tile := t, leaf := nid, idx := c.handler.toNat, stamp := r.stamp, rid := s.nextId }
          (postRec s g.lead { r with kind := 3 }).modGraph gid fun a => { a with errs := insertErr err a.errs }
      else postRec s g.lead r

/-- Act on a contained error (R354): the tentative sectors are discarded, the region closes, the record stands as CREC, the
section is aborted, its handler waits for its turn. -/
def actOnErr (s : State) (gid : Nat) (e : CtnErr) : State :=
  match s.graph? gid with
  | none => s
  | some g =>
    let f := fieldOfTile e.tile
    let s := if (s.field f).ctn.opened && decide ((s.field f).ctn.owner = jOfTile e.tile) then
        s.setField f { discardTentative (s.field f) with ctn := CtnSt.reset } else s
    let crec := (((s.quarter g.lead).records.find? fun a => a.rid == e.rid).map FRec.toBytes).getD []
    let run : HandlerRun := { leaf := e.leaf, idx := e.idx, stamp := e.stamp, crec := crec, started := false }
    let s := s.modGraph gid fun a => { a with handlers := insertRun run a.handlers }
    match g.node? e.leaf with
    | some n => abortSection s g n e.rid
    | none => s

/-- The contained errors of a cycle in one graph: in each section the one of the lowest stamp is acted on, the others become
VOID (R354). -/
def containErrs (s : State) (g : GraphSt) : State :=
  let first := g.errs.filter fun e => !(g.errs.any fun a => decide (a.leaf = e.leaf) && decide (a.stamp.toNat < e.stamp.toNat))
  let s := mapRecs s g.lead fun r =>
    if g.errs.any (fun e => decide (e.rid = r.rid)) && !(first.any fun e => decide (e.rid = r.rid)) then { r with void := true }
    else r
  foldState (fun s e => actOnErr s g.id e) (s.modGraph g.id fun a => { a with errs := [] }) first

/-- Whether a contained error has been raised in this cycle in the region of field f: until the cycle ends, and the sequencer acts
on it, the region is neither committed nor closed (R354). -/
def struck (s : State) (f : Nat) : Bool := s.graphs.any fun g => g.errs.any fun e => decide (fieldOfTile e.tile = f)

/-! ### Leaky buckets (R341, R342) -/

/-- The settings of a die's bucket kind: 0 DRAM, 1 GHL, 2 field. -/
def leakOf (s : State) (d k : Nat) : LeakCfg := SMap.get (s.die d).leak LeakCfg.reset k

/-- The source of a PRED-FAIL: the base die of the stack that holds the bank, the field's cache, or for a lane of a GHL
interface, for which R295 lists no kind of its own, the base die of the die's first stack (notes/assumptions/37.md). -/
def predSource (d kind index : Nat) : BitVec 32 :=
  if kind = 2 then sourceId 6 d index 0 0 else sourceId 5 d 0 0 (2 * d + if kind = 0 then index / 1024 else 0)

/-- Post a record of a source to the partition of quarter q in this cycle, or in a later one where the source has recorded an
event in this one (R296). -/
def postSoon (s : State) (q src : Nat) (r : FRec) : State :=
  if stamped s src then { s with pending := s.pending ++ [(q, src, r)] }
  else postRec s (leadOf s q) { r with stamp := stampAt s (dieOfSource src) (BitVec.ofNat 32 src) }

/-- The records that waited for this cycle. -/
def postPending (s : State) : State := foldState (fun s p => postSoon s p.1 p.2.1 p.2.2) { s with pending := [] } s.pending

/-- Post a PRED-FAIL event record: it goes to the partition whose quarter holds the die (R342, R348). -/
def predFail (s : State) (d kind index fill : Nat) : State :=
  postSoon s (quarterOfDie d) (predSource d kind index).toNat
    { FRec.blank with
      code := codePredFail, kind := 1, die := d, field := if kind = 2 then index else 0
      detail := BitVec.ofNat 64 (kind * 2 ^ 62 + fill * 2 ^ 16 + index) }

/-- Add one event to a bucket: the fill saturates, and PRED-FAIL is raised as it rises to MARK. -/
def bucketAdd (s : State) (d kind index : Nat) : State :=
  let die := s.die d
  let fill := if kind = 0 then SMap.get die.dramFill 0 index
    else if kind = 1 then SMap.get die.ghlFill 0 index else (s.field (320 * d + index)).fill
  let fill' := satInc fill 0xFFFF 1
  let s := if kind = 0 then s.setDie d { die with dramFill := SMap.put die.dramFill 0 index fill' }
    else if kind = 1 then s.setDie d { die with ghlFill := SMap.put die.ghlFill 0 index fill' }
    else s.setField (320 * d + index) { s.field (320 * d + index) with fill := fill' }
  let s := pmcCount s d 8 1
  let mark := (leakOf s d kind).mark
  if fill < mark ∧ mark ≤ fill' then predFail s d kind index fill' else s

/-! ### Control-core traps and the return from one (R368; the RISC-V privileged architecture, machine mode) -/

/-- Take a trap: mepc, mcause and mtval, MIE saved in MPIE and cleared, MPP machine mode, the pc at mtvec. -/
def coreTrap (v : CoreSt) (interrupt : Bool) (cause : Nat) (tval : DWord) : CoreSt :=
  let base := v.mtvec &&& ~~~3#64
  { v with
    mepc := v.pc
    mcause := BitVec.ofNat 64 (cause + if interrupt then 2 ^ 63 else 0)
    mtval := tval
    mstatus := (if v.mstatus.getLsbD 3 then v.mstatus ||| 0x80#64 else v.mstatus &&& ~~~0x80#64) &&& ~~~0x8#64
      ||| 0x1800#64
    pc := if interrupt && v.mtvec.getLsbD 0 then base + BitVec.ofNat 64 (4 * cause) else base  }

/-- MRET: MIE from MPIE, MPIE set, the pc at mepc; MPP stays machine mode, the only mode. -/
def coreReturn (v : CoreSt) : CoreSt :=
  { v with
    mstatus := (if v.mstatus.getLsbD 7 then v.mstatus ||| 0x8#64 else v.mstatus &&& ~~~0x8#64) ||| 0x1880#64
    pc := v.mepc }

/-- A trap of core c. -/
def takeTrap (s : State) (c cause : Nat) (tval : DWord) : State :=
  s.setCore c (coreTrap (s.coreSt c) false cause tval)

/-- Registers x1 to x31; x0 reads zero and discards writes. -/
def CoreSt.reg (v : CoreSt) (r : BitVec 5) : DWord := if r = 0 then 0 else SMap.get v.xs 0 r.toNat
def CoreSt.setReg (v : CoreSt) (r : BitVec 5) (x : DWord) : CoreSt :=
  if r = 0 then v else { v with xs := SMap.put v.xs 0 r.toNat x }

end Sys2Proof.Machine
end

