-- ==== Sys2Proof/Machine/Operands.lean ====
section
/-! DEFINITION. Operand forms: what an instruction's word names (targets, predicate, latches), the tile's
configuration read as slots, ports and depths (R76 to R90), and the tokens a slot may read, consume and emit
(R40, R44 to R49, R96). -/

namespace Sys2Proof.Machine

/-- The targets an instruction's word names: T0, then T1 (R80, R82). -/
def targetsOf : Instr → List Target
  | .add _ _ t1 t0 => [t0, t1]
  | .sub _ _ t1 t0 => [t0, t1]
  | .adds _ _ t1 t0 => [t0, t1]
  | .addsU _ _ t1 t0 => [t0, t1]
  | .subs _ _ t1 t0 => [t0, t1]
  | .subsU _ _ t1 t0 => [t0, t1]
  | .addi _ _ _ t0 => [t0]
  | .rsbi _ _ _ t0 => [t0]
  | .and _ _ t1 t0 => [t0, t1]
  | .or _ _ t1 t0 => [t0, t1]
  | .xor _ _ t1 t0 => [t0, t1]
  | .andn _ _ t1 t0 => [t0, t1]
  | .not _ _ t1 t0 => [t0, t1]
  | .shl _ _ t1 t0 => [t0, t1]
  | .shr _ _ t1 t0 => [t0, t1]
  | .shrA _ _ t1 t0 => [t0, t1]
  | .rot _ _ t1 t0 => [t0, t1]
  | .shli _ _ _ t0 => [t0]
  | .shri _ _ _ t0 => [t0]
  | .shriA _ _ _ t0 => [t0]
  | .clz _ _ t1 t0 => [t0, t1]
  | .popc _ _ t1 t0 => [t0, t1]
  | .brev _ _ t1 t0 => [t0, t1]
  | .min _ _ t1 t0 => [t0, t1]
  | .minU _ _ t1 t0 => [t0, t1]
  | .max _ _ t1 t0 => [t0, t1]
  | .maxU _ _ t1 t0 => [t0, t1]
  | .abs _ _ t1 t0 => [t0, t1]
  | .neg _ _ t1 t0 => [t0, t1]
  | .cmpEq _ _ t1 t0 => [t0, t1]
  | .cmpNe _ _ t1 t0 => [t0, t1]
  | .cmpLt _ _ t1 t0 => [t0, t1]
  | .cmpLe _ _ t1 t0 => [t0, t1]
  | .cmpLtu _ _ t1 t0 => [t0, t1]
  | .cmpLeu _ _ t1 t0 => [t0, t1]
  | .cmpiEq _ _ _ t0 => [t0]
  | .cmpiNe _ _ _ t0 => [t0]
  | .cmpiLt _ _ _ t0 => [t0]
  | .cmpiLe _ _ _ t0 => [t0]
  | .cmpiGt _ _ _ t0 => [t0]
  | .cmpiGe _ _ _ t0 => [t0]
  | .cmpiLtu _ _ _ t0 => [t0]
  | .cmpiLeu _ _ _ t0 => [t0]
  | .cmpiGtu _ _ _ t0 => [t0]
  | .cmpiGeu _ _ _ t0 => [t0]
  | .test _ _ t1 t0 => [t0, t1]
  | .testZ _ _ t1 t0 => [t0, t1]
  | .sel _ t1 t0 => [t0, t1]
  | .mov _ _ t1 t0 => [t0, t1]
  | .gens _ t0 => [t0]
  | .genu _ t0 => [t0]
  | .apph _ t0 => [t0]
  | .extr _ _ t1 t0 => [t0, t1]
  | .extrS _ _ t1 t0 => [t0, t1]
  | .insf _ t1 t0 => [t0, t1]
  | .lea _ _ _ t1 t0 => [t0, t1]
  | .addiS _ _ _ t0 => [t0]
  | .rsbiS _ _ _ t0 => [t0]
  | .absS _ _ t1 t0 => [t0, t1]
  | .negS _ _ t1 t0 => [t0, t1]
  | .kset _ t1 t0 => [t0, t1]
  | .knext _ t1 t0 => [t0, t1]
  | .klast _ t1 t0 => [t0, t1]
  | .kread _ t1 t0 => [t0, t1]
  | .fadd _ _ t1 t0 => [t0, t1]
  | .fsub _ _ t1 t0 => [t0, t1]
  | .fmul _ _ t1 t0 => [t0, t1]
  | .fmin _ _ t1 t0 => [t0, t1]
  | .fmax _ _ t1 t0 => [t0, t1]
  | .fabs _ _ t1 t0 => [t0, t1]
  | .fneg _ _ t1 t0 => [t0, t1]
  | .fcmpEq _ _ t1 t0 => [t0, t1]
  | .fcmpNe _ _ t1 t0 => [t0, t1]
  | .fcmpLt _ _ t1 t0 => [t0, t1]
  | .fcmpLe _ _ t1 t0 => [t0, t1]
  | .fcmpUn _ _ t1 t0 => [t0, t1]
  | .frnd _ _ t1 t0 => [t0, t1]
  | .cvtIfSw _ _ t1 t0 => [t0, t1]
  | .cvtIfSd _ _ t1 t0 => [t0, t1]
  | .cvtIfUw _ _ t1 t0 => [t0, t1]
  | .cvtIfUd _ _ t1 t0 => [t0, t1]
  | .cvtFiSw _ _ t1 t0 => [t0, t1]
  | .cvtFiSd _ _ t1 t0 => [t0, t1]
  | .cvtFiUw _ _ t1 t0 => [t0, t1]
  | .cvtFiUd _ _ t1 t0 => [t0, t1]
  | .cvtFfF32 _ _ t1 t0 => [t0, t1]
  | .cvtFfF16 _ _ t1 t0 => [t0, t1]
  | .cvtFfBf16 _ _ t1 t0 => [t0, t1]
  | .cvtN _ _ t1 t0 => [t0, t1]
  | .cvtNW _ t1 t0 => [t0, t1]
  | .cvtNI _ t1 t0 => [t0, t1]
  | .mul _ _ t1 t0 => [t0, t1]
  | .mulh _ _ t1 t0 => [t0, t1]
  | .mulhU _ _ t1 t0 => [t0, t1]
  | .facc _ t1 t0 => [t0, t1]
  | .iacc _ _ t1 t0 => [t0, t1]
  | .steer t1 t0 => [t0, t1]
  | .merge t1 t0 => [t0, t1]
  | .mergeRr t1 t0 => [t0, t1]
  | .carry t1 t0 => [t0, t1]
  | .carryI _ t0 => [t0]
  | .invar t1 t0 => [t0, t1]
  | .gate t1 t0 => [t0, t1]
  | .sinkA t1 t0 => [t0, t1]
  | .ordj t1 t0 => [t0, t1]
  | .eos _ t1 t0 => [t0, t1]
  | .eosI _ _ t0 => [t0]
  | .eot _ t1 t0 => [t0, t1]
  | .eotI _ _ t0 => [t0]
  | .mark _ t1 t0 => [t0, t1]
  | .markI _ _ t0 => [t0]
  | .div _ _ t1 t0 => [t0, t1]
  | .divU _ _ t1 t0 => [t0, t1]
  | .rem _ _ t1 t0 => [t0, t1]
  | .remU _ _ t1 t0 => [t0, t1]
  | .fdiv _ _ t1 t0 => [t0, t1]
  | .fsqrt _ _ t1 t0 => [t0, t1]
  | .ctnOpen t1 t0 => [t0, t1]
  | .ctnClose t1 t0 => [t0, t1]
  | .trap _ _ t0 => [t0]
  | .trapV _ t1 t0 => [t0, t1]
  | .sysRd _ t1 t0 => [t0, t1]
  | .sysWr _ t1 t0 => [t0, t1]
  | .sysRdA _ _ t1 t0 => [t0, t1]
  | .sysWrA _ _ t1 t0 => [t0, t1]
  | .ld _ _ _ _ t1 t0 => [t0, t1]
  | .ldb _ _ _ t1 t0 => [t0, t1]
  | .st _ _ t1 t0 => [t0, t1]
  | .stb t1 t0 => [t0, t1]
  | .pld _ _ t1 t0 => [t0, t1]
  | .pst _ t1 t0 => [t0, t1]
  | .step _ t1 t0 => [t0, t1]
  | .acqX _ _ t0 => [t0]
  | .acqS _ _ t0 => [t0]
  | .rel _ _ t0 => [t0]
  | .fenceF t1 t0 => [t0, t1]
  | .fenceD t1 t0 => [t0, t1]
  | .fenceP t1 t0 => [t0, t1]
  | .fenceS t1 t0 => [t0, t1]
  | .amoAdd _ _ t1 t0 => [t0, t1]
  | .amoFadd _ t1 t0 => [t0, t1]
  | .amoMin _ _ _ t1 t0 => [t0, t1]
  | .amoMax _ _ _ t1 t0 => [t0, t1]
  | .amoAnd _ _ t1 t0 => [t0, t1]
  | .amoOr _ _ t1 t0 => [t0, t1]
  | .amoXor _ _ t1 t0 => [t0, t1]
  | .amoSwap _ _ t1 t0 => [t0, t1]
  | .amoCas _ t1 t0 => [t0, t1]
  | .redAdd _ _ t1 t0 => [t0, t1]
  | .redFadd _ t1 t0 => [t0, t1]
  | .redMin _ _ _ t1 t0 => [t0, t1]
  | .redMax _ _ _ t1 t0 => [t0, t1]
  | .redAnd _ _ t1 t0 => [t0, t1]
  | .redOr _ _ t1 t0 => [t0, t1]
  | .retain t1 t0 => [t0, t1]
  | .unpin t1 t0 => [t0, t1]
  | .flush _ _ t1 t0 => [t0, t1]
  | .mxCfg _ t1 t0 => [t0, t1]
  | .mxGath t1 t0 => [t0, t1]
  | .mxBb _ t1 t0 => [t0, t1]
  | .mxMma _ t1 t0 => [t0, t1]
  | .mxZero _ t1 t0 => [t0, t1]
  | .mxEpi _ _ t1 t0 => [t0, t1]
  | .mxCpy _ _ t1 t0 => [t0, t1]
  | .cpyHead _ t1 t0 => [t0, t1]
  | .cpyStat _ _ t1 t0 => [t0, t1]
  | .wlkCfg t1 t0 => [t0, t1]
  | .wlkGo _ t1 t0 => [t0, t1]
  | .qfence _ t1 t0 => [t0, t1]
  | .bufWait _ _ t1 t0 => [t0, t1]
  | .bufRel t1 t0 => [t0, t1]
  | .bufStat t1 t0 => [t0, t1]
  | .spawn _ t1 t0 => [t0, t1]
  | .slen _ t1 t0 => [t0, t1]
  | .sld _ t1 t0 => [t0, t1]
  | .sst _ t1 t0 => [t0, t1]
  | .sgen _ t1 t0 => [t0, t1]
  | .sand _ _ _ t0 => [t0]
  | .sor _ _ _ t0 => [t0]
  | .sxor _ _ _ t0 => [t0]
  | .snot _ _ t0 => [t0]
  | .smux _ _ _ t0 => [t0]
  | .smin _ _ _ t0 => [t0]
  | .smax _ _ _ t0 => [t0]
  | .scnt _ t1 t0 => [t0, t1]
  | .scntA _ t1 t0 => [t0, t1]
  | .scvt _ t1 t0 => [t0, t1]
  | .sregen _ _ _ t0 => [t0]
  | .smov _ _ t0 => [t0]
  | _ => []

/-- The predicate mode of an instruction (R48). -/
def predicateOf : Instr → Pred
  | .add _ p _ _ => p
  | .sub _ p _ _ => p
  | .adds _ p _ _ => p
  | .addsU _ p _ _ => p
  | .subs _ p _ _ => p
  | .subsU _ p _ _ => p
  | .addi _ p _ _ => p
  | .rsbi _ p _ _ => p
  | .and _ p _ _ => p
  | .or _ p _ _ => p
  | .xor _ p _ _ => p
  | .andn _ p _ _ => p
  | .not _ p _ _ => p
  | .shl _ p _ _ => p
  | .shr _ p _ _ => p
  | .shrA _ p _ _ => p
  | .rot _ p _ _ => p
  | .shli _ p _ _ => p
  | .shri _ p _ _ => p
  | .shriA _ p _ _ => p
  | .clz _ p _ _ => p
  | .popc _ p _ _ => p
  | .brev _ p _ _ => p
  | .min _ p _ _ => p
  | .minU _ p _ _ => p
  | .max _ p _ _ => p
  | .maxU _ p _ _ => p
  | .abs _ p _ _ => p
  | .neg _ p _ _ => p
  | .cmpEq _ p _ _ => p
  | .cmpNe _ p _ _ => p
  | .cmpLt _ p _ _ => p
  | .cmpLe _ p _ _ => p
  | .cmpLtu _ p _ _ => p
  | .cmpLeu _ p _ _ => p
  | .cmpiEq _ p _ _ => p
  | .cmpiNe _ p _ _ => p
  | .cmpiLt _ p _ _ => p
  | .cmpiLe _ p _ _ => p
  | .cmpiGt _ p _ _ => p
  | .cmpiGe _ p _ _ => p
  | .cmpiLtu _ p _ _ => p
  | .cmpiLeu _ p _ _ => p
  | .cmpiGtu _ p _ _ => p
  | .cmpiGeu _ p _ _ => p
  | .test _ p _ _ => p
  | .testZ _ p _ _ => p
  | .mov _ p _ _ => p
  | .extr _ p _ _ => p
  | .extrS _ p _ _ => p
  | .lea _ p _ _ _ => p
  | .addiS _ p _ _ => p
  | .rsbiS _ p _ _ => p
  | .absS _ p _ _ => p
  | .negS _ p _ _ => p
  | .fadd _ p _ _ => p
  | .fsub _ p _ _ => p
  | .fmul _ p _ _ => p
  | .fmin _ p _ _ => p
  | .fmax _ p _ _ => p
  | .fabs _ p _ _ => p
  | .fneg _ p _ _ => p
  | .fcmpEq _ p _ _ => p
  | .fcmpNe _ p _ _ => p
  | .fcmpLt _ p _ _ => p
  | .fcmpLe _ p _ _ => p
  | .fcmpUn _ p _ _ => p
  | .frnd _ p _ _ => p
  | .cvtIfSw _ p _ _ => p
  | .cvtIfSd _ p _ _ => p
  | .cvtIfUw _ p _ _ => p
  | .cvtIfUd _ p _ _ => p
  | .cvtFiSw _ p _ _ => p
  | .cvtFiSd _ p _ _ => p
  | .cvtFiUw _ p _ _ => p
  | .cvtFiUd _ p _ _ => p
  | .cvtFfF32 _ p _ _ => p
  | .cvtFfF16 _ p _ _ => p
  | .cvtFfBf16 _ p _ _ => p
  | .mul _ p _ _ => p
  | .mulh _ p _ _ => p
  | .mulhU _ p _ _ => p
  | .eos p _ _ => p
  | .eosI p _ _ => p
  | .eot p _ _ => p
  | .eotI p _ _ => p
  | .mark p _ _ => p
  | .markI p _ _ => p
  | .div _ p _ _ => p
  | .divU _ p _ _ => p
  | .rem _ p _ _ => p
  | .remU _ p _ _ => p
  | .fdiv _ p _ _ => p
  | .fsqrt _ p _ _ => p
  | .trap p _ _ => p
  | .trapV p _ _ => p
  | .sysRdA _ p _ _ => p
  | .sysWrA _ p _ _ => p
  | .ld _ p _ _ _ _ => p
  | .ldb p _ _ _ _ => p
  | .st _ p _ _ => p
  | .pld _ p _ _ => p
  | .acqX p _ _ => p
  | .acqS p _ _ => p
  | .rel p _ _ => p
  | .amoAdd _ p _ _ => p
  | .amoFadd p _ _ => p
  | .amoMin _ p _ _ _ => p
  | .amoMax _ p _ _ _ => p
  | .amoAnd _ p _ _ => p
  | .amoOr _ p _ _ => p
  | .amoXor _ p _ _ => p
  | .amoSwap _ p _ _ => p
  | .redAdd _ p _ _ => p
  | .redFadd p _ _ => p
  | .redMin _ p _ _ _ => p
  | .redMax _ p _ _ _ => p
  | .redAnd _ p _ _ => p
  | .redOr _ p _ _ => p
  | .pref p _ _ => p
  | .flush p _ _ _ => p
  | .qfence p _ _ => p
  | _ => .always

/-- The latches an opcode's entry names, without the predicate. -/
def operandsOf : Instr → List Pos
  | .add _ _ _ _ => [.l, .r]
  | .sub _ _ _ _ => [.l, .r]
  | .adds _ _ _ _ => [.l, .r]
  | .addsU _ _ _ _ => [.l, .r]
  | .subs _ _ _ _ => [.l, .r]
  | .subsU _ _ _ _ => [.l, .r]
  | .addi _ _ _ _ => [.l]
  | .rsbi _ _ _ _ => [.l]
  | .and _ _ _ _ => [.l, .r]
  | .or _ _ _ _ => [.l, .r]
  | .xor _ _ _ _ => [.l, .r]
  | .andn _ _ _ _ => [.l, .r]
  | .not _ _ _ _ => [.l]
  | .shl _ _ _ _ => [.l, .r]
  | .shr _ _ _ _ => [.l, .r]
  | .shrA _ _ _ _ => [.l, .r]
  | .rot _ _ _ _ => [.l, .r]
  | .shli _ _ _ _ => [.l]
  | .shri _ _ _ _ => [.l]
  | .shriA _ _ _ _ => [.l]
  | .clz _ _ _ _ => [.l]
  | .popc _ _ _ _ => [.l]
  | .brev _ _ _ _ => [.l]
  | .min _ _ _ _ => [.l, .r]
  | .minU _ _ _ _ => [.l, .r]
  | .max _ _ _ _ => [.l, .r]
  | .maxU _ _ _ _ => [.l, .r]
  | .abs _ _ _ _ => [.l]
  | .neg _ _ _ _ => [.l]
  | .cmpEq _ _ _ _ => [.l, .r]
  | .cmpNe _ _ _ _ => [.l, .r]
  | .cmpLt _ _ _ _ => [.l, .r]
  | .cmpLe _ _ _ _ => [.l, .r]
  | .cmpLtu _ _ _ _ => [.l, .r]
  | .cmpLeu _ _ _ _ => [.l, .r]
  | .cmpiEq _ _ _ _ => [.l]
  | .cmpiNe _ _ _ _ => [.l]
  | .cmpiLt _ _ _ _ => [.l]
  | .cmpiLe _ _ _ _ => [.l]
  | .cmpiGt _ _ _ _ => [.l]
  | .cmpiGe _ _ _ _ => [.l]
  | .cmpiLtu _ _ _ _ => [.l]
  | .cmpiLeu _ _ _ _ => [.l]
  | .cmpiGtu _ _ _ _ => [.l]
  | .cmpiGeu _ _ _ _ => [.l]
  | .test _ _ _ _ => [.l, .r]
  | .testZ _ _ _ _ => [.l, .r]
  | .sel _ _ _ => [.l, .r, .p]
  | .mov _ _ _ _ => [.l]
  | .gens _ _ => [.l]
  | .genu _ _ => [.l]
  | .apph _ _ => [.l]
  | .extr _ _ _ _ => [.l, .r]
  | .extrS _ _ _ _ => [.l, .r]
  | .insf _ _ _ => [.l, .r, .p]
  | .lea _ _ _ _ _ => [.l, .r]
  | .addiS _ _ _ _ => [.l]
  | .rsbiS _ _ _ _ => [.l]
  | .absS _ _ _ _ => [.l]
  | .negS _ _ _ _ => [.l]
  | .kset _ _ _ => [.l]
  | .knext _ _ _ => [.l]
  | .klast _ _ _ => [.l]
  | .kread _ _ _ => [.l]
  | .fadd _ _ _ _ => [.l, .r]
  | .fsub _ _ _ _ => [.l, .r]
  | .fmul _ _ _ _ => [.l, .r]
  | .fmin _ _ _ _ => [.l, .r]
  | .fmax _ _ _ _ => [.l, .r]
  | .fabs _ _ _ _ => [.l]
  | .fneg _ _ _ _ => [.l]
  | .fcmpEq _ _ _ _ => [.l, .r]
  | .fcmpNe _ _ _ _ => [.l, .r]
  | .fcmpLt _ _ _ _ => [.l, .r]
  | .fcmpLe _ _ _ _ => [.l, .r]
  | .fcmpUn _ _ _ _ => [.l, .r]
  | .frnd _ _ _ _ => [.l]
  | .cvtIfSw _ _ _ _ => [.l]
  | .cvtIfSd _ _ _ _ => [.l]
  | .cvtIfUw _ _ _ _ => [.l]
  | .cvtIfUd _ _ _ _ => [.l]
  | .cvtFiSw _ _ _ _ => [.l]
  | .cvtFiSd _ _ _ _ => [.l]
  | .cvtFiUw _ _ _ _ => [.l]
  | .cvtFiUd _ _ _ _ => [.l]
  | .cvtFfF32 _ _ _ _ => [.l]
  | .cvtFfF16 _ _ _ _ => [.l]
  | .cvtFfBf16 _ _ _ _ => [.l]
  | .cvtN _ _ _ _ => [.l]
  | .cvtNW _ _ _ => [.l]
  | .cvtNI _ _ _ => [.l]
  | .mul _ _ _ _ => [.l, .r]
  | .mulh _ _ _ _ => [.l, .r]
  | .mulhU _ _ _ _ => [.l, .r]
  | .facc _ _ _ => [.l]
  | .iacc _ _ _ _ => [.l]
  | .steer _ _ => [.l, .p]
  | .merge _ _ => [.l, .r, .p]
  | .mergeRr _ _ => [.l, .r]
  | .carry _ _ => [.l, .r, .p]
  | .carryI _ _ => [.r, .p]
  | .invar _ _ => [.l, .p]
  | .gate _ _ => [.l, .p]
  | .sink => [.l]
  | .sinkA _ _ => [.l]
  | .ordj _ _ => [.l, .r]
  | .eos _ _ _ => [.l]
  | .eosI _ _ _ => [.l]
  | .eot _ _ _ => [.l]
  | .eotI _ _ _ => [.l]
  | .mark _ _ _ => [.l]
  | .markI _ _ _ => [.l]
  | .div _ _ _ _ => [.l, .r]
  | .divU _ _ _ _ => [.l, .r]
  | .rem _ _ _ _ => [.l, .r]
  | .remU _ _ _ _ => [.l, .r]
  | .fdiv _ _ _ _ => [.l, .r]
  | .fsqrt _ _ _ _ => [.l]
  | .ctnOpen _ _ => [.l]
  | .ctnClose _ _ => [.l]
  | .trap _ _ _ => [.l]
  | .trapV _ _ _ => [.l]
  | .halt _ => [.l]
  | .nop => []
  | .sysRd _ _ _ => [.l]
  | .sysWr _ _ _ => [.l]
  | .sysRdA _ _ _ _ => [.l]
  | .sysWrA _ _ _ _ => [.l, .r]
  | .ld _ _ _ _ _ _ => [.l]
  | .ldb _ _ _ _ _ => [.l, .r]
  | .st _ _ _ _ => [.l, .r]
  | .stb _ _ => [.l, .r, .p]
  | .pld _ _ _ _ => [.l]
  | .pst _ _ _ => [.l, .r, .p]
  | .step _ _ _ => [.l]
  | .acqX _ _ _ => [.l]
  | .acqS _ _ _ => [.l]
  | .rel _ _ _ => [.l]
  | .fenceF _ _ => [.l]
  | .fenceD _ _ => [.l]
  | .fenceP _ _ => [.l]
  | .fenceS _ _ => [.l]
  | .amoAdd _ _ _ _ => [.l, .r]
  | .amoFadd _ _ _ => [.l, .r]
  | .amoMin _ _ _ _ _ => [.l, .r]
  | .amoMax _ _ _ _ _ => [.l, .r]
  | .amoAnd _ _ _ _ => [.l, .r]
  | .amoOr _ _ _ _ => [.l, .r]
  | .amoXor _ _ _ _ => [.l, .r]
  | .amoSwap _ _ _ _ => [.l, .r]
  | .amoCas _ _ _ => [.l, .r, .p]
  | .redAdd _ _ _ _ => [.l, .r]
  | .redFadd _ _ _ => [.l, .r]
  | .redMin _ _ _ _ _ => [.l, .r]
  | .redMax _ _ _ _ _ => [.l, .r]
  | .redAnd _ _ _ _ => [.l, .r]
  | .redOr _ _ _ _ => [.l, .r]
  | .pref _ _ _ => [.l]
  | .retain _ _ => [.l, .r]
  | .unpin _ _ => [.l, .r]
  | .flush _ _ _ _ => [.l]
  | .mxCfg _ _ _ => [.l]
  | .mxGath _ _ => [.l, .r]
  | .mxBb _ _ _ => [.l]
  | .mxMma _ _ _ => [.l]
  | .mxZero _ _ _ => [.l]
  | .mxEpi d _ _ _ => if d then [.l, .r] else [.l]
  | .mxCpy _ _ _ _ => [.l, .r]
  | .cpyHead _ _ _ => [.l]
  | .cpyStat _ _ _ _ => [.l]
  | .wlkCfg _ _ => [.l, .r]
  | .wlkGo _ _ _ => [.l, .r, .p]
  | .qfence _ _ _ => [.l]
  | .bufWait _ _ _ _ => [.l]
  | .bufRel _ _ => [.l]
  | .bufStat _ _ => [.l]
  | .spawn _ _ _ => [.l]
  | .slen _ _ _ => [.l]
  | .sld _ _ _ => [.l, .r]
  | .sst _ _ _ => [.l]
  | .sgen _ _ _ => [.l, .r]
  | .sand _ _ _ _ => [.l]
  | .sor _ _ _ _ => [.l]
  | .sxor _ _ _ _ => [.l]
  | .snot _ _ _ => [.l]
  | .smux _ _ _ _ => [.l]
  | .smin _ _ _ _ => [.l]
  | .smax _ _ _ _ => [.l]
  | .scnt _ _ _ => [.l]
  | .scntA _ _ _ => [.l]
  | .scvt _ _ _ => [.l]
  | .sregen _ _ _ _ => [.l]
  | .smov _ _ _ => [.l]
  | _ => []

/-- Every latch the instruction reads (R84, R124). -/
def latchesRead (i : Instr) : List Pos :=
  operandsOf i ++ (if predicateOf i = .always then [] else [.p])

/-- The operators whose current case may leave an input unread (R126). -/
def readsSome : Instr → Bool
  | .steer _ _ => true
  | .merge _ _ => true
  | .mergeRr _ _ => true
  | .carry _ _ => true
  | .carryI _ _ => true
  | .invar _ _ => true
  | .gate _ _ => true
  | _ => false

/-! ### The tile's configuration (R76 to R90) -/

def hdrNins (h : Word) : Nat := bitsOf h.toNat 26 6
def hdrType (h : Word) : Nat := bitsOf h.toNat 24 2
def hdrClass (h : Word) : Nat := bitsOf h.toNat 22 2
def hdrEager (h : Word) : Bool := bitOf h.toNat 21
def hdrStrict (h : Word) : Bool := bitOf h.toNat 20
def hdrIdem (h : Word) : Bool := bitOf h.toNat 19
def hdrDrain (h : Word) : Bool := bitOf h.toNat 18

/-- The header of a configuration; an empty one is all zeros. -/
def cfgHeader (cfg : List Word) : Word := (cfg[0]?).getD 0

/-- The instruction word of slot n: the empty word beyond NINS (R78). -/
def cfgSlot (cfg : List Word) (n : Nat) : Word :=
  if n ≤ hdrNins (cfgHeader cfg) then (cfg[n + 1]?).getD 0 else 0

/-- Port word k (R88); UNUSED where there is no configuration. -/
def cfgPort (cfg : List Word) (k : Nat) : Word := (cfg[hdrNins (cfgHeader cfg) + 2 + k]?).getD 0xFF

/-- The depth words (R90). -/
def cfgDepths (cfg : List Word) : List Word := cfg.drop (hdrNins (cfgHeader cfg) + 19)

def portDir (v : Word) : Nat := bitsOf v.toNat 30 2
def portStream (v : Word) : Bool := bitOf v.toNat 29
def portRate (v : Word) : Nat := bitsOf v.toNat 25 4
def portDepth (v : Word) : Nat := bitsOf v.toNat 21 4
def portDest (v : Word) : Nat := bitsOf v.toNat 0 9

/-- The link slot count an IN port word gives: 0 stands for 2 (R88). -/
def portSlots (v : Word) : Nat := if portDepth v = 0 then 2 else portDepth v

/-- A latch target field as 64 x position + slot. -/
def latchField (p : Pos) (n : Nat) : Nat := 64 * posNo p + n

/-- The instruction a slot of a configuration holds. -/
def cfgInstr (cfg : List Word) (n : Nat) : Option Instr :=
  let v := cfgSlot cfg n
  if v = 0 then none
  else
    match decodeFabric v with
    | .ok i => some i
    | .error _ => none

/-- The instruction of slot x. -/
def slotInstr (s : State) (x : Nat) : Option Instr := cfgInstr (s.tile (tileOf x)).cfg (slotNo x)

/-- The IN port that feeds a latch, among ports k to 15. -/
def portFrom (cfg : List Word) (latch : Nat) : Nat → Nat → Option Nat
  | 0, _ => none
  | n + 1, k =>
    let v := cfgPort cfg k
    if portDir v = 1 ∧ portDest v = latch then some k else portFrom cfg latch n (k + 1)

def portOfLatch (cfg : List Word) (latch : Nat) : Option Nat := portFrom cfg latch 16 0

/-- The slots of a configuration that target a latch, each with whether the edge is chained as encoded. -/
def feedersOf (cfg : List Word) (p : Pos) (n : Nat) : List (Nat × Bool) :=
  (List.range 64).flatMap fun m =>
    match cfgInstr cfg m with
    | none => []
    | some i => (targetsOf i).filterMap fun t =>
      match t with
      | .latch c q k => if q = p ∧ k.toNat = n then some (m, c) else none
      | _ => none

/-- The slot count of a registered edge: its depth word's, or 1 (R90). -/
def edgeSlots (cfg : List Word) (latch : Nat) : Nat :=
  match (cfgDepths cfg).find? fun v => decide (bitsOf v.toNat 0 9 = latch) with
  | some v => bitsOf v.toNat 9 4
  | none => 1

/-- Whether the edge into a latch of a tile is chained in force: encoded so and not relaxed (R157). -/
def chainedNow (ti : TileSt) (c : Bool) (p : Pos) (n : Nat) : Bool := c && !ti.relaxed.contains (3 * n + posNo p)

/-! ### The tile grid (R16, R89) -/

/-- Module column and row of a tile. -/
def tileCol (t : Nat) : Nat := 8 * colOfField (fieldOfTile t) + jOfTile t % 8
def tileRow (t : Nat) : Nat := 8 * rowOfField (fieldOfTile t) + jOfTile t / 8

/-- The tile at a module column and row. -/
def tileAt (col row : Nat) : Option Nat :=
  (fieldAt (col / 8) (row / 8)).map fun f => 64 * f + 8 * (row % 8) + col % 8

/-- The tile and port that port k of tile t faces (R89). -/
def facing (t k : Nat) : Option (Nat × Nat) :=
  let c := tileCol t
  let r := tileRow t
  if k < 4 then if r = 0 then none else (tileAt c (r - 1)).map fun u => (u, k + 8)
  else if k < 8 then (tileAt (c + 1) r).map fun u => (u, k + 8)
  else if k < 12 then (tileAt c (r + 1)).map fun u => (u, k - 8)
  else if c = 0 then none else (tileAt (c - 1) r).map fun u => (u, k - 8)

/-- The section a tile belongs to. -/
def ownerSection (s : State) (t : Nat) : Option Section :=
  match (s.tile t).owner with
  | none => none
  | some (g, n) =>
    match s.graph? g with
    | none => none
    | some a => (a.node? n).bind nodeSection

/-- Whether port k of tile t is its section's result port (R39). -/
def isResultPort (s : State) (t k : Nat) : Bool :=
  match ownerSection s t with
  | some c => decide (c.resultPort = some (t, k))
  | none => false

/-- Whether port k of tile t is an entry port or the result port of its section (R309). -/
def facesSequencer (s : State) (t k : Nat) : Bool :=
  match ownerSection s t with
  | some c => decide (c.resultPort = some (t, k)) || c.entryPorts.contains (t, k)
  | none => false

/-- The consumer latch of a router link: the facing tile's latch and its slot count. The facing tile belongs to a
section of the same graph, and its port faces a tile (R89, R309). -/
def portLink (s : State) (t k : Nat) : Option (Nat × Nat) :=
  match facing t k with
  | none => none
  | some (u, j) =>
    let v := cfgPort (s.tile u).cfg j
    if portDir v = 1 ∧ (s.tile u).owner.map (·.1) = (s.tile t).owner.map (·.1) ∧ !facesSequencer s u j then some (192 * u + 3 * (portDest v % 64) + portDest v / 64, portSlots v) else none

/-! ### Reading, consuming and emitting tokens -/

/-- Whether the IN port that feeds a latch still offers part of its rate (R40). -/
def portOffers (ti : TileSt) (p : Pos) (n : Nat) : Bool :=
  match portOfLatch ti.cfg (latchField p n) with
  | none => true
  | some k => decide (SMap.get ti.inCnt 0 k < portRate (cfgPort ti.cfg k))

/-- The token at a latch of slot x that its consumer may read now. -/
def headAt (s : State) (x : Nat) (p : Pos) : Option Entry :=
  match (s.link (latchNo x p)).q with
  | [] => none
  | e :: _ => if e.cyc ≤ s.now ∧ portOffers (s.tile (tileOf x)) p (slotNo x) then some e else none

/-- Whether the counted kind of a port's mode is this token's (R40). -/
def countsFor (v : Word) (k : Kind) : Bool :=
  if portStream v then decide (k = .eos) else decide (k = .data)

/-- Consume the token at a latch, counting it towards its IN port's rate. -/
def consume (s : State) (x : Nat) (p : Pos) : State :=
  let l := latchNo x p
  match (s.link l).q with
  | [] => s
  | e :: es =>
    let s := s.setLink l { s.link l with q := es }
    let t := tileOf x
    let ti := s.tile t
    match portOfLatch ti.cfg (latchField p (slotNo x)) with
    | none => s
    | some k =>
      if countsFor (cfgPort ti.cfg k) e.tok.kind then
        s.setTile t { ti with inCnt := SMap.put ti.inCnt 0 k (SMap.get ti.inCnt 0 k + 1) }
      else s

/-- Consume from several latches. -/
def consumeAll (s : State) (x : Nat) : List Pos → State
  | [] => s
  | p :: ps => consumeAll (consume s x p) x ps

/-- Whether slot x may fire: not occupied, not withheld, not yet fired in this cycle, nothing in its way. -/
def slotIdle (s : State) (x : Nat) : Bool :=
  let v := s.slot x
  decide (v.busy ≤ s.now) && decide (v.fired ≠ s.now + 1) && decide (v.wh = none) && decide (v.deferred = none) &&
    !(v.outs.any fun o => o.lock) &&
    (match v.result with
     | none => true
     | some r => decide (r.kind = .acc))

/-- Room in a link of n slots. -/
def linkRoom (s : State) (l n : Nat) : Bool :=
  decide ((s.link l).q.length + (s.link l).resv < n)

/-- Whether a target of slot x has a free slot now (R47): a chained edge has none of its own, so its flow-through latch must
be empty, and a step lets x fire only where the consumer takes the value in the same cycle (R44, R160; Turn.lean). -/
def targetFree (s : State) (x : Nat) (g : Target) : Bool :=
  let t := tileOf x
  let ti := s.tile t
  match g with
  | .none => true
  | .port k =>
    isResultPort s t k.toNat ||
      (match portLink s t k.toNat with
       | none => false
       | some (l, n) => linkRoom s l n)
  | .latch c p m =>
    let l := 192 * t + 3 * m.toNat + posNo p
    if chainedNow ti c p m.toNat then linkRoom s l 1
    else linkRoom s l (edgeSlots ti.cfg (latchField p m.toNat))

def targetsFree (s : State) (x : Nat) (gs : List Target) : Bool := gs.all fun g => targetFree s x g

/-- The die boundaries between two dies: along the row, then along the column (R13). -/
def dieHops (a b : Nat) : Nat :=
  (if a % 4 ≤ b % 4 then b % 4 - a % 4 else a % 4 - b % 4) + (if a / 4 = b / 4 then 0 else 1)

/-- Put a token at the end of a link; take one reserved place away where asked. -/
def pushLink (s : State) (l : Nat) (e : Entry) (reserved : Bool) : State :=
  let k := s.link l
  s.setLink l { q := k.q ++ [e], resv := if reserved then k.resv - 1 else k.resv }

/-- Whether an EOS on port k of tile j frees a buffer (R190). -/
def bufFreedBy (b : BufSt) (j k : Nat) : Bool :=
  let v := b.entry.toNat
  b.declared && bitOf v 21 && decide (bitsOf v 17 4 = k) && decide (bitsOf v 11 6 = j)

/-- An EOS leaves port k of tile t: where a buffer is tied to it, the edge that closes the cycle frees it (R191). -/
def bufferEos (s : State) (t k : Nat) : State :=
  let f := fieldOfTile t
  let fs := s.field f
  if fs.bufs.any fun b => bufFreedBy b.2 (jOfTile t) k then
    s.setField f { fs with eosNow := fs.eosNow ++ [(jOfTile t, k)] }
  else s

/-- Emit one token to one target: cyc is the first cycle a registered, router or held reader may take it; a
chained reader takes it in cycle ccyc at delay unit du (R46, R148, R161). -/
def emitTo (s : State) (x : Nat) (tok : Token) (cyc ccyc du : Nat) (reserved : Bool) (g : Target) : State :=
  let t := tileOf x
  let ti := s.tile t
  match g with
  | .none => s
  | .latch c p m =>
    let l := 192 * t + 3 * m.toNat + posNo p
    if chainedNow ti c p m.toNat then pushLink s l { tok := tok, cyc := ccyc, du := du } reserved
    else pushLink s l { tok := tok, cyc := cyc, du := 0 } reserved
  | .port k =>
    let k := k.toNat
    let s :=
      if countsFor (cfgPort ti.cfg k) tok.kind then
        s.setTile t { ti with outCnt := SMap.put ti.outCnt 0 k (SMap.get ti.outCnt 0 k + 1) }
      else s
    let s := if tok.kind = .eos then bufferEos s t k else s
    if isResultPort s t k then
      match ti.owner with
      | some (g, n) =>
        if tok.kind = .data then s.modSection g n fun c => { c with result := some tok } else s
      | none => s
    else
      match portLink s t k with
      | none => s
      | some (l, _) =>
        let h := dieHops (dieOfTile t) (dieOfTile (l / 192))
        let s := crossFlits s (dieOfTile t) (dieOfTile (l / 192)) 1
        pushLink s l { tok := tok, cyc := cyc + Config.hopCycles * h, du := 0 } reserved

def emitAll (s : State) (x : Nat) (tok : Token) (cyc ccyc du : Nat) (reserved : Bool) (gs : List Target) : State :=
  foldState (fun s g => emitTo s x tok cyc ccyc du reserved g) s gs

/-- The link a target of slot x leads to. -/
def targetLink (s : State) (x : Nat) (g : Target) : Option Nat :=
  match g with
  | .none => none
  | .latch _ p m => some (192 * tileOf x + 3 * m.toNat + posNo p)
  | .port k => if isResultPort s (tileOf x) k.toNat then none else (portLink s (tileOf x) k.toNat).map (·.1)

/-- Reserve one slot on each target (R49), or give the reserved slots back. -/
def reserveAll (s : State) (x : Nat) (gs : List Target) (back : Bool) : State :=
  foldState (fun s g =>
    match targetLink s x g with
    | none => s
    | some l =>
      let k := s.link l
      s.setLink l { k with resv := if back then k.resv - 1 else k.resv + 1 }) s gs

end Sys2Proof.Machine
end

