-- ==== Sys2Proof/Machine/Delay.lean ====
section
/-! DEFINITION. The delay tables (spec/08_delay_tables.md R147 to R155): carry runs, the early, late and actual
delay of each opcode with DU columns, and the cycle counts. -/

namespace Sys2Proof.Machine

/-- The class codes of R77: 0 SUMMER, 1 SPRING, 2 AUTUMN, 3 WINTER. -/
def classCode : VClass → Nat
  | .summer => 0
  | .spring => 1
  | .autumn => 2
  | .winter => 3

/-- A delay or count by width: B, H, W, D. -/
def byWidth (w : Width) (b h n d : Nat) : Nat :=
  match w with
  | .byte => b
  | .half => h
  | .word => n
  | .dword => d

/-- A delay or count by format: F32, else F16 and BF16. -/
def byKind (f : FKind) (single other : Nat) : Nat :=
  match f with
  | .f32 => single
  | _ => other

/-- The longest carry run of x + y over bits i to i + n - 1; run is the length of the run in progress, none when
no carry is in progress (R149). -/
def longestRun : Nat → Nat → Nat → Option Nat → Nat → Nat
  | 0, _, _, _, best => best
  | n + 1, x, y, run, best =>
    let g := decide (x % 2 = 1) && decide (y % 2 = 1)
    let p := decide (x % 2 ≠ y % 2)
    let run' := if g then some 1 else if p then run.map (· + 1) else none
    longestRun n (x / 2) (y / 2) run' (Nat.max best (run'.getD 0))

def carryRun (w x y : Nat) (cin : Bool) : Nat := longestRun w x y (if cin then some 0 else none) 0

/-- The run class: 0 up to 4, 1 up to 8, 2 up to 16, 3 up to 32, 4 up to 64. -/
def runClass (n : Nat) : Nat := if n ≤ 4 then 0 else if n ≤ 8 then 1 else if n ≤ 16 then 2 else if n ≤ 32 then 3 else 4

/-- The delays of R151 by class, saturation and run class. -/
def addDelays (cls : Nat) (sat : Bool) : List Nat :=
  match cls, sat with
  | 0, false => [2, 3, 4, 7, 9]
  | 0, true => [3, 4, 5, 8, 10]
  | 1, false => [2, 3, 5, 8, 11]
  | 1, true => [3, 4, 6, 9, 12]
  | 2, false => [3, 4, 7, 10, 14]
  | 2, true => [4, 5, 8, 12, 15]
  | _, false => [4, 5, 8, 13, 18]
  | _, true => [5, 7, 10, 15, 20]

/-- A SPRING delay in another class (R153). -/
def scaleDelay (cls n : Nat) : Nat :=
  if cls = 0 then (4 * n + 4) / 5 else if cls = 1 then n else if cls = 2 then (5 * n + 3) / 4 else (8 * n + 4) / 5

/-- A SPRING cycle count in another class (R154). -/
def scaleCycles (cls n : Nat) : Nat :=
  if n = 1 ∨ cls ≤ 1 then n else if cls = 2 then (5 * n + 3) / 4 else (8 * n + 4) / 5

/-- The width, whether saturating, and the operands and carry-in of the addition that times a data-dependent
opcode (R150). -/
def timedAdd (i : Instr) (a b : DWord) : Option (Width × Bool × Nat × Nat × Bool) :=
  match i with
  | .add w _ _ _ => some (w, false, uv w.bits a, uv w.bits b, false)
  | .adds w _ _ _ => some (w, true, uv w.bits a, uv w.bits b, false)
  | .addsU w _ _ _ => some (w, true, uv w.bits a, uv w.bits b, false)
  | .addi w _ i _ => some (w, false, uv w.bits a, trunc w.bits i.toInt, false)
  | .addiS w _ i _ => some (w, true, uv w.bits a, trunc w.bits i.toInt, false)
  | .sub w _ _ _ => some (w, false, uv w.bits a, uv w.bits (~~~b), true)
  | .subs w _ _ _ => some (w, true, uv w.bits a, uv w.bits (~~~b), true)
  | .subsU w _ _ _ => some (w, true, uv w.bits a, uv w.bits (~~~b), true)
  | .rsbi w _ i _ => some (w, false, trunc w.bits i.toInt, uv w.bits (~~~a), true)
  | .rsbiS w _ i _ => some (w, true, trunc w.bits i.toInt, uv w.bits (~~~a), true)
  | .neg w _ _ _ => some (w, false, 0, uv w.bits (~~~a), true)
  | .negS w _ _ _ => some (w, true, 0, uv w.bits (~~~a), true)
  | .abs w _ _ _ =>
    if sv w.bits a < 0 then some (w, false, 0, uv w.bits (~~~a), true) else some (w, false, 0, uv w.bits a, false)
  | .absS w _ _ _ =>
    if sv w.bits a < 0 then some (w, true, 0, uv w.bits (~~~a), true) else some (w, true, 0, uv w.bits a, false)
  | .lea w _ x _ _ => some (.dword, false, a.toNat, trunc 64 (sv w.bits b * (2 ^ x.toNat : Nat)), false)
  | _ => none

/-- The SPRING delay of the other opcodes with DU columns (R152). -/
def springDelay : Instr → Option Nat
  | .mov _ _ _ _ => some 0
  | .gens _ _ => some 0
  | .genu _ _ => some 0
  | .and _ _ _ _ => some 1
  | .or _ _ _ _ => some 1
  | .xor _ _ _ _ => some 1
  | .andn _ _ _ _ => some 1
  | .not _ _ _ _ => some 1
  | .sel _ _ _ => some 1
  | .brev _ _ _ _ => some 1
  | .apph _ _ => some 1
  | .fabs _ _ _ _ => some 1
  | .fneg _ _ _ _ => some 1
  | .steer _ _ => some 1
  | .merge _ _ => some 1
  | .mergeRr _ _ => some 1
  | .carry _ _ => some 1
  | .carryI _ _ => some 1
  | .invar _ _ => some 1
  | .gate _ _ => some 1
  | .sink => some 1
  | .sinkA _ _ => some 1
  | .ordj _ _ => some 1
  | .eos _ _ _ => some 1
  | .eosI _ _ _ => some 1
  | .eot _ _ _ => some 1
  | .eotI _ _ _ => some 1
  | .mark _ _ _ => some 1
  | .markI _ _ _ => some 1
  | .test _ _ _ _ => some 2
  | .testZ _ _ _ _ => some 2
  | .cvtNI _ _ _ => some 2
  | .shl _ _ _ _ => some 3
  | .shr _ _ _ _ => some 3
  | .shrA _ _ _ _ => some 3
  | .rot _ _ _ _ => some 3
  | .shli _ _ _ _ => some 3
  | .shri _ _ _ _ => some 3
  | .shriA _ _ _ _ => some 3
  | .cvtNW _ _ _ => some 3
  | .cmpEq w _ _ _ => some (byWidth w 3 3 4 5)
  | .cmpNe w _ _ _ => some (byWidth w 3 3 4 5)
  | .cmpLt w _ _ _ => some (byWidth w 3 3 4 5)
  | .cmpLe w _ _ _ => some (byWidth w 3 3 4 5)
  | .cmpLtu w _ _ _ => some (byWidth w 3 3 4 5)
  | .cmpLeu w _ _ _ => some (byWidth w 3 3 4 5)
  | .cmpiEq w _ _ _ => some (byWidth w 3 3 4 5)
  | .cmpiNe w _ _ _ => some (byWidth w 3 3 4 5)
  | .cmpiLt w _ _ _ => some (byWidth w 3 3 4 5)
  | .cmpiLe w _ _ _ => some (byWidth w 3 3 4 5)
  | .cmpiGt w _ _ _ => some (byWidth w 3 3 4 5)
  | .cmpiGe w _ _ _ => some (byWidth w 3 3 4 5)
  | .cmpiLtu w _ _ _ => some (byWidth w 3 3 4 5)
  | .cmpiLeu w _ _ _ => some (byWidth w 3 3 4 5)
  | .cmpiGtu w _ _ _ => some (byWidth w 3 3 4 5)
  | .cmpiGeu w _ _ _ => some (byWidth w 3 3 4 5)
  | .min w _ _ _ => some (byWidth w 4 4 5 6)
  | .minU w _ _ _ => some (byWidth w 4 4 5 6)
  | .max w _ _ _ => some (byWidth w 4 4 5 6)
  | .maxU w _ _ _ => some (byWidth w 4 4 5 6)
  | .clz w _ _ _ => some (byWidth w 4 4 4 5)
  | .popc w _ _ _ => some (byWidth w 4 4 4 5)
  | .extr _ _ _ _ => some 4
  | .extrS _ _ _ _ => some 4
  | .insf _ _ _ => some 4
  | .fmin f _ _ _ => some (byKind f 4 3)
  | .fmax f _ _ _ => some (byKind f 4 3)
  | .fcmpEq f _ _ _ => some (byKind f 4 3)
  | .fcmpNe f _ _ _ => some (byKind f 4 3)
  | .fcmpLt f _ _ _ => some (byKind f 4 3)
  | .fcmpLe f _ _ _ => some (byKind f 4 3)
  | .fcmpUn f _ _ _ => some (byKind f 4 3)
  | .frnd f _ _ _ => some (byKind f.kind 8 6)
  | .cvtFfF32 _ _ _ _ => some 6
  | .cvtFfF16 _ _ _ _ => some 6
  | .cvtFfBf16 _ _ _ _ => some 6
  | .cvtN _ _ _ _ => some 6
  | .fadd f _ _ _ => some (byKind f.kind 11 8)
  | .fsub f _ _ _ => some (byKind f.kind 11 8)
  | .fmul f _ _ _ => some (byKind f.kind 13 9)
  | .mul w _ _ _ => if w = .dword then none else some (byWidth w 8 10 14 0)
  | .mulh w _ _ _ => if w = .dword then none else some (byWidth w 8 10 14 0)
  | .mulhU w _ _ _ => if w = .dword then none else some (byWidth w 8 10 14 0)
  | .cvtFiSw _ _ _ _ => some 9
  | .cvtFiUw _ _ _ _ => some 9
  | .cvtFiSd _ _ _ _ => some 11
  | .cvtFiUd _ _ _ _ => some 11
  | .cvtIfSw _ _ _ _ => some 10
  | .cvtIfUw _ _ _ _ => some 10
  | .cvtIfSd _ _ _ _ => some 12
  | .cvtIfUd _ _ _ _ => some 12
  | _ => none

/-- The SPRING cycle count of an operation that has one (R154). -/
def springCycles : Instr → Option Nat
  | .mul w _ _ _ => if w = .dword then some 2 else none
  | .mulh w _ _ _ => if w = .dword then some 2 else none
  | .mulhU w _ _ _ => if w = .dword then some 2 else none
  | .div w _ _ _ => some (byWidth w 6 8 12 20)
  | .divU w _ _ _ => some (byWidth w 6 8 12 20)
  | .rem w _ _ _ => some (byWidth w 6 8 12 20)
  | .remU w _ _ _ => some (byWidth w 6 8 12 20)
  | .fdiv f _ _ _ => some (byKind f.kind 10 6)
  | .fsqrt f _ _ _ => some (byKind f.kind 12 7)
  | .facc _ _ _ => some 1
  | .iacc _ _ _ _ => some 1
  | .kset _ _ _ => some 1
  | .knext _ _ _ => some 1
  | .klast _ _ _ => some 1
  | .kread _ _ _ => some 1
  | _ => none

/-- The late delay: the last reachable column of a data-dependent opcode, else its one delay; none where the
opcode has no DU columns. -/
def lateDelay (cls : Nat) (i : Instr) : Option Nat :=
  match timedAdd i 0 0 with
  | some (w, sat, _) => (addDelays cls sat)[byWidth w 1 2 3 4]?
  | none => (springDelay i).map (scaleDelay cls)

/-- The early delay: the early columns of R151, else the one delay. -/
def earlyDelay (cls : Nat) (i : Instr) : Nat :=
  match timedAdd i 0 0 with
  | some (w, sat, _) => ((addDelays cls sat)[byWidth w 0 1 1 1]?).getD 0
  | none => ((springDelay i).map (scaleDelay cls)).getD 0

/-- The actual delay on operands a and b, and its run class (0 where the opcode is not data-dependent). -/
def actualDelay (cls : Nat) (i : Instr) (a b : DWord) : Nat × Nat :=
  match timedAdd i a b with
  | some (w, sat, x, y, cin) =>
    let k := runClass (carryRun w.bits x y cin)
    (((addDelays cls sat)[k]?).getD 0, k)
  | none => (((springDelay i).map (scaleDelay cls)).getD 0, 0)

/-- The cycle count in a class (R154). -/
def cycleCount (cls : Nat) (i : Instr) : Option Nat := (springCycles i).map (scaleCycles cls)

/-- Operations a mod-3 residue checker (0) or parity prediction (1) covers (R356). -/
def checkKind (i : Instr) : Option Nat :=
  if (timedAdd i 0 0).isSome then some 0
  else
    match i with
    | .mul _ _ _ _ => some 0
    | .mulh _ _ _ _ => some 0
    | .mulhU _ _ _ _ => some 0
    | .fadd _ _ _ _ => some 0
    | .fsub _ _ _ _ => some 0
    | .fmul _ _ _ _ => some 0
    | .facc _ _ _ => some 0
    | .iacc _ _ _ _ => some 0
    | .mxMma _ _ _ => some 0
    | .shl _ _ _ _ => some 1
    | .shr _ _ _ _ => some 1
    | .shrA _ _ _ _ => some 1
    | .rot _ _ _ _ => some 1
    | .shli _ _ _ _ => some 1
    | .shri _ _ _ _ => some 1
    | .shriA _ _ _ _ => some 1
    | .clz _ _ _ _ => some 1
    | _ => none

end Sys2Proof.Machine
end

