-- ==== Sys2Proof/Machine/Flags.lean ====
section
/-! DEFINITION. The floating-point status flags of TFST and of an engine's status register
(spec/03_numbers.md R70, R71): their bits, and how flags raised together combine. -/

namespace Sys2Proof.Machine

/-- The flags one operation raises; the fields of TFST in their bit order (R70). -/
structure Flags where
  nx : Bool := false
  uf : Bool := false
  of : Bool := false
  dz : Bool := false
  nv : Bool := false
  sat : Bool := false
  deriving DecidableEq, Repr

/-- No flag raised. -/
def Flags.none : Flags := {}

/-- Flags set together are ORed (R71). -/
def Flags.or (a b : Flags) : Flags :=
  { nx := a.nx || b.nx, uf := a.uf || b.uf, of := a.of || b.of, dz := a.dz || b.dz, nv := a.nv || b.nv,
    sat := a.sat || b.sat }

/-- One flag's bit at its place. -/
def flagBit (c : Bool) (i : Nat) : Word := if c then BitVec.ofNat 32 (2 ^ i) else 0

/-- The flags as the word of R70: NX [0], UF [1], OF [2], DZ [3], NV [4], SAT [5]. -/
def Flags.toWord (f : Flags) : Word :=
  flagBit f.nx 0 ||| flagBit f.uf 1 ||| flagBit f.of 2 ||| flagBit f.dz 3 ||| flagBit f.nv 4
    ||| flagBit f.sat 5

/-- Raising flags in a sticky register (R71). -/
def raiseFlags (r : Word) (f : Flags) : Word := r ||| f.toWord

/-- A W1C write of the low six bits: each 1 bit clears its flag (R5, R70). -/
def clearFlags (r v : Word) : Word := r &&& ~~~(v &&& 0x3F)

end Sys2Proof.Machine
end

