-- ==== Sys2Proof/Machine/Float.lean ====
section
/-! DEFINITION. Floating-point formats, exact values, the one rounding of each operation, the conversions,
the BX blocks and the matrix K-step (spec/03_numbers.md R55 to R75, spec/06_element_float_router.md
R114 to R122). Values are exact: a sign, a natural mantissa and an integer exponent of two. -/

namespace Sys2Proof.Machine

/-- What the largest exponent of a format means (R56): an IEEE-like format, E4M3's single NaN, or none. -/
inductive Special where
  | ieee | e4m3 | none
  deriving DecidableEq, Repr

/-- A floating-point layout (R56): exponent bits, fraction bits, bias, and what its top exponent means. -/
structure FloatFmt where
  eBits : Nat
  fBits : Nat
  bias : Nat
  special : Special
  deriving DecidableEq, Repr

def fp32 : FloatFmt := { eBits := 8, fBits := 23, bias := 127, special := .ieee }
def fp16 : FloatFmt := { eBits := 5, fBits := 10, bias := 15, special := .ieee }
def bf16 : FloatFmt := { eBits := 8, fBits := 7, bias := 127, special := .ieee }
def e5m2 : FloatFmt := { eBits := 5, fBits := 2, bias := 15, special := .ieee }
def e4m3 : FloatFmt := { eBits := 4, fBits := 3, bias := 7, special := .e4m3 }
def e3m2 : FloatFmt := { eBits := 3, fBits := 2, bias := 3, special := .none }
def e2m3 : FloatFmt := { eBits := 2, fBits := 3, bias := 1, special := .none }
def e2m1 : FloatFmt := { eBits := 2, fBits := 1, bias := 1, special := .none }

/-- The width of a format in bits. -/
def FloatFmt.width (f : FloatFmt) : Nat := 1 + f.eBits + f.fBits

/-- The sign bit's weight. -/
def FloatFmt.signBit (f : FloatFmt) : Nat := 2 ^ (f.eBits + f.fBits)

/-- The pattern of the largest finite magnitude (R56). -/
def FloatFmt.maxBits (f : FloatFmt) : Nat :=
  match f.special with
  | .ieee => (2 ^ f.eBits - 1) * 2 ^ f.fBits - 1
  | .e4m3 => 0x7E
  | .none => 2 ^ (f.eBits + f.fBits) - 1

/-- The pattern of +infinity, in the formats that have one. -/
def FloatFmt.infBits (f : FloatFmt) : Nat := (2 ^ f.eBits - 1) * 2 ^ f.fBits

/-- The canonical NaN (R56); a format without NaN gives +0 (R69). -/
def FloatFmt.nanBits (f : FloatFmt) : Nat :=
  match f.special with
  | .ieee => f.infBits + 2 ^ (f.fBits - 1)
  | .e4m3 => 0x7F
  | .none => 0

/-- A decoded value: NaN (signalling or not), an infinity, or (-1)^neg * m * 2^e. -/
inductive FVal where
  | nan (signalling : Bool)
  | inf (neg : Bool)
  | fin (neg : Bool) (m : Nat) (e : Int)
  deriving DecidableEq, Repr

def FVal.isNan : FVal → Bool
  | .nan _ => true
  | _ => false

def FVal.isSNan : FVal → Bool
  | .nan s => s
  | _ => false

def FVal.isInf : FVal → Bool
  | .inf _ => true
  | _ => false

def FVal.isZero : FVal → Bool
  | .fin _ m _ => decide (m = 0)
  | _ => false

def FVal.neg : FVal → FVal
  | .nan s => .nan s
  | .inf n => .inf (!n)
  | .fin n m e => .fin (!n) m e

/-- The sign of a value that is not a NaN. -/
def FVal.isNeg : FVal → Bool
  | .nan _ => false
  | .inf n => n
  | .fin n _ _ => n

/-- The value of a pattern of format f (R56, R57). -/
def decodeF (f : FloatFmt) (bits : Nat) : FVal :=
  let frac := bits % 2 ^ f.fBits
  let ex := bits / 2 ^ f.fBits % 2 ^ f.eBits
  let sgn := decide (bits / f.signBit % 2 = 1)
  let top := 2 ^ f.eBits - 1
  let finite : FVal :=
    if ex = 0 then .fin sgn frac (1 - (f.bias : Int) - f.fBits)
    else .fin sgn (2 ^ f.fBits + frac) ((ex : Int) - f.bias - f.fBits)
  match f.special with
  | .ieee =>
    if ex = top then
      if frac = 0 then .inf sgn else .nan (decide (frac < 2 ^ (f.fBits - 1)))
    else finite
  | .e4m3 => if ex = top ∧ frac = 7 then .nan false else finite
  | .none => finite

/-- Round m / 2^k to a natural number in direction dir; the second part says whether it was inexact. -/
def roundShift (dir : Dir) (neg : Bool) (m k : Nat) : Nat × Bool :=
  let q := m / 2 ^ k
  let r := m % 2 ^ k
  let inexact := decide (r ≠ 0)
  let up : Bool :=
    match dir with
    | .rne => decide (2 * r > 2 ^ k) || (decide (2 * r = 2 ^ k) && decide (q % 2 = 1))
    | .rtz => false
    | .rup => inexact && !neg
    | .rdn => inexact && neg
  (if up && inexact then q + 1 else q, inexact)

/-- Round m * 2^e to a multiple of 2^q; the multiple and whether it was inexact. -/
def roundAt (dir : Dir) (neg : Bool) (m : Nat) (e q : Int) : Nat × Bool :=
  if q ≤ e then (m * 2 ^ (e - q).toNat, false) else roundShift dir neg m (q - e).toNat

/-- The number of bits of n, for the mantissas that arise here. -/
def natBits (n : Nat) : Nat := if n = 0 then 0 else n.log2 + 1

/-- A magnitude rounded to a format: its pattern without sign, and whether it overflowed, was tiny and
inexact, and was inexact (R65, R67). -/
structure Rounded where
  mag : Nat
  overflow : Bool
  uf : Bool
  nx : Bool
  deriving DecidableEq, Repr

/-- The one rounding of a non-zero exact magnitude m * 2^e (R65, R67). Tininess and overflow are judged
on the value rounded with an unbounded exponent range. -/
def roundMag (f : FloatFmt) (dir : Dir) (neg : Bool) (m : Nat) (e : Int) : Rounded :=
  let qMin : Int := 1 - (f.bias : Int) - f.fBits
  let qU : Int := (natBits m : Int) - 1 + e - f.fBits
  let u := roundAt dir neg m e qU
  let q : Int := if qU < qMin then qMin else qU
  let r := roundAt dir neg m e q
  let mag := (q - qMin).toNat * 2 ^ f.fBits + r.1
  -- u.1 is 2^fBits .. 2^(fBits+1); its exponent is qU, so it is tiny when below 2^fBits at qMin
  let tiny : Bool :=
    decide (qU < qMin) &&
      !(decide (qU = qMin - 1) && decide (u.1 = 2 ^ (f.fBits + 1)))
  { mag := mag, overflow := decide (mag > f.maxBits), uf := tiny && r.2, nx := r.2 }

/-- A signed pattern. -/
def withSign (f : FloatFmt) (neg : Bool) (mag : Nat) : Nat := if neg then f.signBit + mag else mag

/-- The value delivered on overflow in a format with infinities (R67). -/
def overflowMag (f : FloatFmt) (dir : Dir) (neg : Bool) : Nat :=
  match dir with
  | .rne => f.infBits
  | .rtz => f.maxBits
  | .rup => if neg then f.maxBits else f.infBits
  | .rdn => if neg then f.infBits else f.maxBits

/-- A result pattern with the flags it raises. -/
abbrev FRes := Nat × Flags

/-- The canonical NaN, with NV where the cause is an invalid operation. -/
def nanRes (f : FloatFmt) (nv : Bool) : FRes := (f.nanBits, { nv := nv })

/-- Round(v, f, dir) of a non-zero exact value (R65, R67). -/
def roundFin (f : FloatFmt) (dir : Dir) (neg : Bool) (m : Nat) (e : Int) : FRes :=
  let r := roundMag f dir neg m e
  if r.overflow then (withSign f neg (overflowMag f dir neg), { of := true, nx := true })
  else (withSign f neg r.mag, { uf := r.uf, nx := r.nx })

/-- Round(v, f, dir) of an exact value whose zero has the sign zneg. -/
def roundInt (f : FloatFmt) (dir : Dir) (zneg : Bool) (v : Int) (e : Int) : FRes :=
  if v = 0 then (withSign f zneg 0, Flags.none) else roundFin f dir (decide (v < 0)) v.natAbs e

/-- The signed integer mantissa of a finite value. -/
def signedMant (neg : Bool) (m : Nat) : Int := if neg then -(m : Int) else m

/-- The exact sum of two finite values: a signed mantissa and an exponent. -/
def addExact (v : Int) (e : Int) (w : Int) (g : Int) : Int × Int :=
  if e ≤ g then (v + w * (2 ^ (g - e).toNat : Nat), e) else (v * (2 ^ (e - g).toNat : Nat) + w, g)

/-- Round(a + b) with the special cases of R67 and R68. -/
def faddV (f : FloatFmt) (dir : Dir) (a b : FVal) : FRes :=
  match a, b with
  | .nan s, .nan t => nanRes f (s || t)
  | .nan s, _ => nanRes f s
  | _, .nan t => nanRes f t
  | .inf n, .inf k => if n = k then (withSign f n f.infBits, Flags.none) else nanRes f true
  | .inf n, .fin _ _ _ => (withSign f n f.infBits, Flags.none)
  | .fin _ _ _, .inf k => (withSign f k f.infBits, Flags.none)
  | .fin n m e, .fin k l g =>
    let s := addExact (signedMant n m) e (signedMant k l) g
    roundInt f dir (if m = 0 ∧ l = 0 ∧ n = k then n else decide (dir = .rdn)) s.1 s.2

/-- Round(a * b). -/
def fmulV (f : FloatFmt) (dir : Dir) (a b : FVal) : FRes :=
  match a, b with
  | .nan s, .nan t => nanRes f (s || t)
  | .nan s, _ => nanRes f s
  | _, .nan t => nanRes f t
  | .inf n, .inf k => (withSign f (n != k) f.infBits, Flags.none)
  | .inf n, .fin k l _ => if l = 0 then nanRes f true else (withSign f (n != k) f.infBits, Flags.none)
  | .fin n m _, .inf k => if m = 0 then nanRes f true else (withSign f (n != k) f.infBits, Flags.none)
  | .fin n m e, .fin k l g =>
    if m * l = 0 then (withSign f (n != k) 0, Flags.none) else roundFin f dir (n != k) (m * l) (e + g)

/-- The extra quotient bits of a division: enough that the remainder decides only as a sticky bit. -/
def divBits : Nat := 80

/-- Round(a / b). -/
def fdivV (f : FloatFmt) (dir : Dir) (a b : FVal) : FRes :=
  match a, b with
  | .nan s, .nan t => nanRes f (s || t)
  | .nan s, _ => nanRes f s
  | _, .nan t => nanRes f t
  | .inf _, .inf _ => nanRes f true
  | .inf n, .fin k _ _ => (withSign f (n != k) f.infBits, Flags.none)
  | .fin n _ _, .inf k => (withSign f (n != k) 0, Flags.none)
  | .fin n m e, .fin k l g =>
    if l = 0 then
      if m = 0 then nanRes f true else (withSign f (n != k) f.infBits, { dz := true })
    else if m = 0 then (withSign f (n != k) 0, Flags.none)
    else
      let num := m * 2 ^ divBits
      let q := 2 * (num / l) + (if num % l = 0 then 0 else 1)
      roundFin f dir (n != k) q (e - g - divBits - 1)

/-- The integer square root, decided bit by bit from bit k - 1. -/
def isqrt : Nat → Nat → Nat → Nat
  | 0, _, r => r
  | k + 1, x, r => if (r + 2 ^ k) * (r + 2 ^ k) ≤ x then isqrt k x (r + 2 ^ k) else isqrt k x r

/-- Round(sqrt a). -/
def fsqrtV (f : FloatFmt) (dir : Dir) (a : FVal) : FRes :=
  match a with
  | .nan s => nanRes f s
  | .inf n => if n then nanRes f true else (f.infBits, Flags.none)
  | .fin n m e =>
    if m = 0 then (withSign f n 0, Flags.none)
    else if n then nanRes f true
    else
      let odd := e % 2 = 1
      let x := (if odd then 2 * m else m) * 2 ^ divBits
      let g : Int := if odd then e - 1 else e
      let r := isqrt 64 x 0
      let q := 2 * r + (if r * r = x then 0 else 1)
      roundFin f dir false q (g / 2 - divBits / 2 - 1)

/-- The order key of a pattern that is not a NaN: -0 below +0 when strict, else equal to it. -/
def orderKey (f : FloatFmt) (strict : Bool) (bits : Nat) : Int :=
  let mag := bits % f.signBit
  if bits / f.signBit % 2 = 1 then (if strict then -(mag : Int) - 1 else -(mag : Int)) else mag

/-- FMIN (lesser) and FMAX of two patterns (R116). -/
def fminmax (f : FloatFmt) (isMax : Bool) (a b : Nat) : FRes :=
  let va := decodeF f a
  let vb := decodeF f b
  let fl : Flags := { nv := va.isSNan || vb.isSNan }
  if va.isNan && vb.isNan then (f.nanBits, fl)
  else if va.isNan then (b, fl)
  else if vb.isNan then (a, fl)
  else
    let aLess := decide (orderKey f true a ≤ orderKey f true b)
    (if aLess != isMax then a else b, fl)

/-- FABS and FNEG (R116): the sign bit cleared or inverted, a NaN made canonical. -/
def fsignOp (f : FloatFmt) (isNeg : Bool) (a : Nat) : FRes :=
  let va := decodeF f a
  if va.isNan then nanRes f va.isSNan
  else (if isNeg then (if a / f.signBit % 2 = 1 then a % f.signBit else f.signBit + a % f.signBit)
        else a % f.signBit, Flags.none)

/-- The comparisons of R117. -/
inductive FCmp where
  | eq | ne | lt | le | un
  deriving DecidableEq, Repr

/-- A comparison's truth and its flags (R117). -/
def fcmp (f : FloatFmt) (c : FCmp) (a b : Nat) : Bool × Flags :=
  let va := decodeF f a
  let vb := decodeF f b
  let anyNan := va.isNan || vb.isNan
  let sig : Flags := { nv := va.isSNan || vb.isSNan }
  let qui : Flags := { nv := anyNan }
  let ka := orderKey f false a
  let kb := orderKey f false b
  match c with
  | .eq => (!anyNan && decide (ka = kb), sig)
  | .ne => (anyNan || decide (ka ≠ kb), sig)
  | .lt => (!anyNan && decide (ka < kb), qui)
  | .le => (!anyNan && decide (ka ≤ kb), qui)
  | .un => (anyNan, sig)

/-- FRND: a value rounded to an integral value in its own format (R118). -/
def frnd (f : FloatFmt) (dir : Dir) (a : Nat) : FRes :=
  match decodeF f a with
  | .nan s => nanRes f s
  | .inf _ => (a, Flags.none)
  | .fin n m e =>
    if m = 0 then (a, Flags.none)
    else
      let r := roundAt dir n m e 0
      if r.1 = 0 then (withSign f n 0, { nx := r.2 })
      else ((roundFin f .rtz n r.1 0).1, { nx := r.2 })

/-! ### Conversions (R69, R120, R121) -/

/-- Integer to float (R69 row 1). -/
def cvtIF (f : FloatFmt) (dir : Dir) (v : Int) : FRes := roundInt f dir false v 0

/-- The clamp of an integer destination: SatS or SatU. -/
def satInt (signed : Bool) (w : Nat) (v : Int) : Nat := if signed then satS w v else satU w v

/-- Float to integer of width w (R69, R120). -/
def cvtFI (f : FloatFmt) (dir : Dir) (signed : Bool) (w : Nat) (a : Nat) : FRes :=
  match decodeF f a with
  | .nan _ => (0, { nv := true })
  | .inf n => (if n then (if signed then 2 ^ (w - 1) else 0)
               else (if signed then 2 ^ (w - 1) - 1 else 2 ^ w - 1), { nv := true })
  | .fin n m e =>
    let r := roundAt dir n m e 0
    let v := signedMant n r.1
    let clamps := if signed then satSClamps w v else satUClamps w v
    (satInt signed w v, if clamps then { nv := true, sat := true } else { nx := r.2 })

/-- Float to float among FP32, FP16 and BF16 (R69, R120). -/
def cvtFF (src dst : FloatFmt) (dir : Dir) (a : Nat) : FRes :=
  match decodeF src a with
  | .nan s => nanRes dst s
  | .inf n => (withSign dst n dst.infBits, Flags.none)
  | .fin n m e => if m = 0 then (withSign dst n 0, Flags.none) else roundFin dst dir n m e

/-- A wide float to a narrow float format, RNE (R69 rows 5 and 6). -/
def cvtNarrow (src dst : FloatFmt) (a : Nat) : FRes :=
  match decodeF src a with
  | .nan s => (dst.nanBits, { nv := match dst.special with | .none => true | _ => s })
  | .inf n =>
    match dst.special with
    | .ieee => (withSign dst n dst.infBits, Flags.none)
    | _ => (withSign dst n dst.maxBits, { sat := true, nx := true })
  | .fin n m e =>
    if m = 0 then (withSign dst n 0, Flags.none)
    else
      let r := roundMag dst .rne n m e
      if r.overflow then (withSign dst n dst.maxBits, { sat := true, nx := true })
      else (withSign dst n r.mag, { uf := r.uf, nx := r.nx })

/-- A narrow float to FP32, exact (R69, R121). -/
def cvtWiden (src : FloatFmt) (a : Nat) : FRes := cvtFF src fp32 .rne a

/-- INT32 to a narrow integer, saturating (R69, R121). -/
def cvtNI (signed : Bool) (w : Nat) (v : Int) : FRes :=
  (satInt signed w v, { sat := if signed then satSClamps w v else satUClamps w v })

/-! ### BX blocks (R61 to R64) -/

/-- A BX format by its element width n = 8, 6 or 4: the block's bytes (R61). -/
def bxBytes (n : Nat) : Nat := 2 + 4 * n

/-- The value of element i of a block of width n, from the block's bytes as one number (R61, R62). -/
def bxDecode (n : Nat) (block : Nat) (i : Nat) : FVal :=
  let m := n - 2
  let el := block / 2 ^ (16 + n * i) % 2 ^ n
  let ex := if el / 2 ^ (n - 1) = 0 then block % 256 else block / 256 % 256
  if ex = 255 then .nan false
  else .fin (decide (el / 2 ^ (n - 2) % 2 = 1)) (el % 2 ^ m) ((ex : Int) - 127 - m)

/-- floor(log2 |x|) + 1 of a non-zero finite value. -/
def bxExp (m : Nat) (e : Int) : Int := (natBits m : Int) + e

/-- One element of a block under exponents ea and eb: its pattern, whether it was inexact, whether it was
clamped (R63). -/
def bxElem (n : Nat) (ea eb : Nat) (x : FVal) : Nat × Bool × Bool :=
  let m := n - 2
  match x with
  | .fin neg k e =>
    let sel := decide (k ≠ 0) && decide (eb ≠ ea) && decide (bxExp k e ≤ (eb : Int) - 127)
    let ex : Int := (if sel then eb else ea : Nat)
    let r := roundAt .rne neg k e (ex - 127 - m)
    let c := min r.1 (2 ^ m - 1)
    ((if sel then 2 ^ (n - 1) else 0) + (if neg then 2 ^ (n - 2) else 0) + c,
      r.2 || decide (c ≠ r.1), decide (c ≠ r.1))
  | _ => (0, false, false)

/-- The exponents of the non-zero finite values. -/
def bxExps (xs : List FVal) : List Int :=
  xs.filterMap fun x =>
    match x with
    | .fin _ m e => if m = 0 then none else some (bxExp m e)
    | _ => none

/-- The largest of a list of integers, none when it is empty. -/
def maxInt? : List Int → Option Int
  | [] => none
  | x :: xs => some (xs.foldl (fun a b => if a < b then b else a) x)

/-- Elements placed one after another, n bits each. -/
def packBits (n : Nat) : List Nat → Nat
  | [] => 0
  | x :: xs => x % 2 ^ n + 2 ^ n * packBits n xs

/-- 32 values to one block as one number, with the flags (R63). -/
def bxEncode (n : Nat) (xs : List FVal) : Nat × Flags :=
  let m := n - 2
  if xs.any (fun x => x.isNan || x.isInf) then (0xFFFF, { nv := true })
  else
    let es := bxExps xs
    let ab : Nat × Nat :=
      match maxInt? es with
      | none => (0, 0)
      | some e =>
        let emax : Int := min e 127
        let ea : Nat := (emax + 127).toNat
        match maxInt? (es.filter fun x => decide (x ≤ emax - m)) with
        | none => (ea, ea)
        | some l => (ea, (l + 127).toNat)
    let els := xs.map (bxElem n ab.1 ab.2)
    (ab.1 + 256 * ab.2 + 65536 * packBits n (els.map (·.1)),
      { nx := els.any (·.2.1), sat := els.any (·.2.2) })

/-! ### The matrix K-step (R72 to R75) -/

/-- The exact product of two decoded values. -/
def mulExact (a b : FVal) : FVal :=
  match a, b with
  | .nan _, _ => .nan false
  | _, .nan _ => .nan false
  | .inf n, .inf k => .inf (n != k)
  | .inf n, .fin k l _ => if l = 0 then .nan false else .inf (n != k)
  | .fin n m _, .inf k => if m = 0 then .nan false else .inf (n != k)
  | .fin n m e, .fin k l g => .fin (n != k) (m * l) (e + g)

/-- The exact sum of the finite terms of a list. -/
def sumExact : List FVal → Int × Int
  | [] => (0, 0)
  | .fin n m e :: xs =>
    if m = 0 then sumExact xs
    else
      let s := sumExact xs
      if s.1 = 0 then (signedMant n m, e) else addExact (signedMant n m) e s.1 s.2
  | _ :: xs => sumExact xs

/-- Every term is -0. -/
def allNegZero (xs : List FVal) : Bool :=
  xs.all fun x =>
    match x with
    | .fin n m _ => n && decide (m = 0)
    | _ => false

/-- One K-step of the float-or-BX class over the accumulator and the products (R73): the FP32 pattern and
the flags for the engine's status. -/
def kStep (terms : List FVal) : FRes :=
  let pInf := terms.any fun x => decide (x = .inf false)
  let nInf := terms.any fun x => decide (x = .inf true)
  if terms.any FVal.isNan || (pInf && nInf) then (fp32.nanBits, { nv := true })
  else if pInf then (fp32.infBits, Flags.none)
  else if nInf then (withSign fp32 true fp32.infBits, Flags.none)
  else
    let s := sumExact terms
    if s.1 = 0 then (withSign fp32 (allNegZero terms) 0, Flags.none)
    else roundFin fp32 .rne (decide (s.1 < 0)) s.1.natAbs s.2

/-- One K-step of an integer pair (R74). -/
def kStepInt (acc : Nat) (products : List Int) : Nat := trunc 32 (signedOf 32 acc + products.foldl (· + ·) 0)

end Sys2Proof.Machine
end

