-- ==== Sys2Proof/Machine/Firing.lean ====
section
/-! DEFINITION. The firing of an element (R40, R41, R46 to R49, R97, R124, R125, R147 to R165, R357): what it plans
to do with the tokens it sees, its start and completion times, its capture, and the closing edge of a cycle. -/

namespace Sys2Proof.Machine

/-- What a firing does: the latches it consumes from, the token it emits and to which targets, the flags it sets,
whether it computed (and so is timed by its operands and checked) or only moved a marker. -/
structure Act where
  take : List Pos
  emit : Option Token
  outs : List Target
  flags : Flags
  computed : Bool
  marker : Bool
  deriving DecidableEq, Repr

/-- What an element does with the tokens it sees. -/
inductive Plan where
  | wait
  | fault (code : Nat) (detail : DWord)
  | act (a : Act)
  deriving DecidableEq, Repr

/-- A DATA token. -/
def dataTok (v : DWord) (psn : Bool) : Token := { kind := .data, data := v, psn := psn }

/-- An ORD token with DATA 0. -/
def ordTok (psn : Bool) : Token := { kind := .ord, data := 0, psn := psn }

/-- The tokens at several latches, if each holds one. -/
def readAll (s : State) (x : Nat) : List Pos → Option (List (Pos × Token))
  | [] => some []
  | p :: ps =>
    match headAt s x p, readAll s x ps with
    | some e, some r => some ((p, e.tok) :: r)
    | _, _ => none

/-- The token read from a latch. -/
def tokenAt (r : List (Pos × Token)) (p : Pos) : Token :=
  match r.find? fun a => decide (a.1 = p) with
  | some a => a.2
  | none => dataTok 0 false

/-- The OR of the tokens' poison bits. -/
def anyPsn (r : List (Pos × Token)) : Bool := r.any fun a => a.2.psn

/-- Whether the tile of slot x fires elements: its section runs, is not aborted, its pass count is not spent. -/
def tileRuns (s : State) (t : Nat) : Bool :=
  decide ((s.tile t).armed ≠ 0) &&
    (match (s.tile t).owner with
     | none => false
     | some (g, n) =>
       match s.graph? g with
       | none => false
       | some a => !a.ended && (match (a.node? n).bind nodeSection with
         | some c => c.loaded && !c.aborted
         | none => false))

/-- Whether slot x may fire in this cycle, tokens and targets apart. -/
def slotReady (s : State) (x : Nat) : Bool := tileRuns s (tileOf x) && slotIdle s x

/-- Cases 1 to 4 of R124: none where every input holds DATA. -/
def markerPlan (drain : Bool) (outs : List Target) (r : List (Pos × Token)) : Option Plan :=
  match r.find? fun a => decide (a.2.kind = .eot) || decide (a.2.kind = .ord) with
  | some a =>
    some (.act { take := [a.1], emit := some a.2, outs := outs, flags := Flags.none, computed := false, marker := true })
  | none =>
    if r.all fun a => decide (a.2.kind = .eos) then
      some (.act {
        take := r.map (·.1), emit := some { tokenAt r ((r.map (·.1)).headD .l) with psn := anyPsn r }, outs := outs,
        flags := Flags.none, computed := false, marker := true })
    else if r.any fun a => decide (a.2.kind = .eos) then
      if drain then
        some (.act {
          take := (r.filter fun a => decide (a.2.kind = .data)).map (·.1), emit := none, outs := outs,
          flags := Flags.none, computed := false, marker := true })
      else some (.fault codeStreamSkew 0)
    else none

/-- Whether a predicate mode suppresses the firing on this predicate (R48, R98). -/
def suppressed (p : Pred) (d : DWord) : Bool :=
  match p with
  | .always => false
  | .ifTrue => !isTrue d
  | .ifFalse => isTrue d

/-- DRAIN of the block of slot x. -/
def drainOf (s : State) (x : Nat) : Bool := hdrDrain (cfgHeader (s.tile (tileOf x)).cfg)

/-- The plan of an element of R124: markers by R124, the predicate by R48, then the instruction's own rule on the
data of L, R and P, which answers the token to emit and the flags. -/
def elementPlan (s : State) (i : Instr) (rule : List (Pos × Token) → Token × Flags) : Plan :=
  let x := s.foc
  match readAll s x (latchesRead i) with
  | none => .wait
  | some r =>
    match markerPlan (drainOf s x) (targetsOf i) r with
    | some p => p
    | none =>
      let pm := predicateOf i
      if pm ≠ .always ∧ (tokenAt r .p).psn then .fault codePoison 0
      else if suppressed pm (tokenAt r .p).data then
        .act { take := r.map (·.1), emit := none, outs := targetsOf i, flags := Flags.none, computed := false,
               marker := false }
      else
        let v := rule r
        .act { take := r.map (·.1), emit := some v.1, outs := targetsOf i, flags := v.2, computed := true,
               marker := false }

/-! ### Timing -/

/-- The start of a firing by R148 and whether any of its inputs is chained: DU 3 where an input is registered,
router or held, and the latest chained arrival. -/
def startOf (s : State) (x : Nat) (ps : List Pos) : Nat × Bool :=
  ps.foldl (fun a p =>
    match headAt s x p with
    | none => a
    | some e => if e.cyc = s.now ∧ e.du ≠ 0 then (Nat.max a.1 e.du, true) else (Nat.max a.1 3, a.2)) (0, false)

/-- The class in force for a slot (R156). -/
def classOf (s : State) (x : Nat) : Nat := classCode (s.field (fieldOf x)).vclass

/-- Raise a firing-time fault: nothing is consumed, the slot withholds on the record (R125, R179). -/
def firingFault (s : State) (x : Nat) (code acc unit : Nat) (va detail : DWord) : State :=
  let t := tileOf x
  match (s.tile t).owner.bind fun o => s.graph? o.1 with
  | none => s
  | some g =>
    let v := s.slot x
    let s' := s.setSlot x { v with wh := some s.nextId }
    raiseFault s' t { tileRec s t g with
      code := code, acc := acc, unit := unit, slot := slotNo x, va := va, detail := detail, stamp := slotStamp s x,
      src := .firing x }

/-- The model's note that slot x fired: the tile's firing has begun, the section progressed (R41, R52, R345). -/
def noteFiring (s : State) (x : Nat) : State :=
  let t := tileOf x
  let s := s.setTile t { s.tile t with begun := true }
  let s := noteProgress s t
  let s := pmcCount s (dieOfTile t) 1 1
  s.setSlot x { s.slot x with fired := s.now + 1 }

/-- Set flags in a tile's TFST, visible after this cycle (R71). -/
def captureFlags (s : State) (t : Nat) (fl : Word) : State :=
  if fl = 0 then s else s.setTile t { s.tile t with fresh := (s.tile t).fresh ||| fl }

/-- Hold a result in the result latch until a later capture, with its places on the targets reserved. -/
def holdResult (s : State) (x : Nat) (k : ResKind) (tok : Token) (a : Act) (due start done run busy : Nat) : State :=
  let s := reserveAll s x a.outs false
  s.setSlot x { s.slot x with
    busy := busy
    mismatch := none
    result := some { kind := k, tok := tok, tgts := a.outs, due := due, flags := a.flags.toWord, start := start,
                     done := done, run := run, ks := ((s.tile (tileOf x)).ks.take 4).map KCtr.val } }

/-- A result is captured into its targets; where every port rate of the tile's firing was met before, it is discarded
instead (R97, R41). DESIGN CHOICE (notes/assumptions/49.md): it adds nothing to STRAY, since it has become no token of a latch. -/
def captureTo (s : State) (x : Nat) (tok : Token) (cyc ccyc du : Nat) (reserved : Bool) (gs : List Target) : State :=
  if (s.tile (tileOf x)).met then if reserved then reserveAll s x gs true else s
  else emitAll s x tok cyc ccyc du reserved gs

/-- Capture the result of a firing that computed, or of one that moves a marker. -/
def captureAct (s : State) (x : Nat) (i : Instr) (a : Act) (start : Nat) (opA opB : DWord) : State :=
  let cls := classOf s x
  let late := lateDelay cls i
  let ac := actualDelay cls i opA opB
  let delay := if a.computed then ac.1 else if a.marker then Nat.min 1 (late.getD 1) else 0
  let done := start + delay
  match a.emit with
  | none => s
  | some tok =>
    let mis := if a.computed then (s.slot x).mismatch else none
    match mis, checkKind i with
    | some again, some _ =>
      let n := (cycleCount cls i).getD 1
      let t := tileOf x
      let s := bucketAdd s (dieOfTile t) 2 (fieldOfTile t % 320)
      holdResult s x (if again then .pipeErr else .recheck) tok a (s.now + n) start done ac.2 (s.now + n + 1)
    | _, _ =>
      match cycleCount cls i with
      | some n =>
        if a.computed && decide (1 < n) then
          holdResult s x .cycles tok a (s.now + n - 1) start done 0 (s.now + n)
        else
          captureTo (captureFlags s (tileOf x) a.flags.toWord) x tok (s.now + 1) (s.now + 1) 0 false a.outs
      | none =>
        if 31 < done ∧ a.computed then holdResult s x .late tok a (s.now + 1) start done ac.2 (s.now + 2)
        else captureTo (captureFlags s (tileOf x) a.flags.toWord) x tok (s.now + 1) s.now (done + 1) false a.outs

/-- Carry out a plan at slot s.foc: admission in an EAGER block, deferral, targets, consumption, capture. DESIGN CHOICE
(notes/assumptions/44.md): start and admission (R148) count a chained token on every input that the instruction reads in some
case, so also on one that the operator's case at hand leaves unread (R126). DESIGN CHOICE (notes/assumptions/44.md): a firing that
raises a fault of its tokens (case 4 of R124, POISON) raises it in the cycle in which they are there, without admission: it is
never deferred and DEFC does not count it, since R155 admits cases 1 to 3. -/
def performPlan (s : State) (i : Instr) (pl : Plan) : State :=
  let x := s.foc
  if !slotReady s x then s
  else
    match pl with
    | .wait => s
    | .fault code detail => firingFault s x code 0 0xF 0 detail
    | .act a =>
      let t := tileOf x
      let h := cfgHeader (s.tile t).cfg
      let st := startOf s x (latchesRead i)
      let start := if st.1 = 0 then 3 else st.1
      if a.emit.isSome && !targetsFree s x a.outs then s
      else if hdrEager h && st.2 && decide (31 < start + earlyDelay (classOf s x) i) then
        let s := s.setTile t { s.tile t with defNow := (s.tile t).defNow + 1 }
        s.setSlot x { s.slot x with deferred := some (s.now + 1) }
      else
        let opA := match headAt s x .l with
          | some e => e.tok.data
          | none => 0
        let opB := match headAt s x .r with
          | some e => e.tok.data
          | none => 0
        let s := noteFiring (consumeAll s x a.take) x
        captureAct s x i a start opA opB

/-- An element that follows R124 and its own rule on L, R and P. -/
def element (s : State) (i : Instr) (rule : List (Pos × Token) → Token × Flags) : Out :=
  .next (performPlan s i (elementPlan s i rule))

/-- An integer element: a w-bit result of L, R and P, with the PSN of R43 and no flag (R99). -/
def intElement (s : State) (i : Instr) (f : DWord → DWord → DWord → Nat) : Out :=
  element s i fun r =>
    (dataTok (dataOf (f (tokenAt r .l).data (tokenAt r .r).data (tokenAt r .p).data)) (anyPsn r), Flags.none)

/-- A floating-point element: the result pattern with its flags (R114). -/
def floatElement (s : State) (i : Instr) (f : Nat → Nat → FRes) : Out :=
  element s i fun r =>
    let v := f (tokenAt r .l).data.toNat (tokenAt r .r).data.toNat
    (dataTok (dataOf v.1) (anyPsn r), v.2)

/-! ### Captures and the closing edge of a cycle -/

/-- Deliver a held result to its targets: registered readers may take it from the next cycle, chained readers as a
held input (R49, R161). -/
def deliverResult (s : State) (x : Nat) : State :=
  match (s.slot x).result with
  | none => s
  | some r =>
    let s := captureFlags s (tileOf x) r.flags
    let s := captureTo s x r.tok (s.now + 1) (s.now + 1) 0 true r.tgts
    s.setSlot x { s.slot x with result := none }

/-- CHST's record of an overrun: without V, MULT and STR (R163). -/
def chstRecord (s : State) (x : Nat) (r : Result) : DWord :=
  let t := tileOf x
  let d := s.die (dieOfTile t)
  let g : DWord := if d.synced then d.gcyc - 1 else d.gcyc
  BitVec.ofNat 64 (g.toNat % 65536 * 2 ^ 48 + (cfgHeader (s.tile t).cfg).toNat % 65536 * 2 ^ 32 + slotNo x * 2 ^ 18
    + classOf s x * 2 ^ 16 + r.run * 2 ^ 13 + r.start % 32 * 2 ^ 8 + r.done % 64)

def chstV : DWord := 0x80000000
def chstMult : DWord := 0x40000000
def chstStr : DWord := 0x20000000

/-- Record the overruns of a cycle, lowest slot first (R164). -/
def recordOverruns (chst : DWord) : List (Nat × DWord) → DWord
  | [] => chst
  | (_, r) :: rs =>
    recordOverruns (if chst &&& chstV = 0 then r ||| chstV else chst ||| chstMult) rs

/-- Insert by slot. -/
def insertSlot (e : Nat × DWord) : List (Nat × DWord) → List (Nat × DWord)
  | [] => [e]
  | a :: as => if e.1 < a.1 then e :: a :: as else a :: insertSlot e as

/-- The tokens in latches fed by slots of a tile, and the links cleared: the firing context of R41. -/
def contextLinks (s : State) (t : Nat) : List (Nat × Nat) :=
  let cfg := (s.tile t).cfg
  (List.range 192).filterMap fun k =>
    let l := 192 * t + k
    let p : Pos := if k % 3 = 0 then .l else if k % 3 = 1 then .r else .p
    let n := (s.link l).q.length
    if n = 0 && decide ((s.link l).resv = 0) then none
    else if (portOfLatch cfg (latchField p (k / 3))).isSome then none else some (l, n)

/-- Add to STRAY of the graph that owns a tile (R38). -/
def addStray (s : State) (t k : Nat) : State :=
  match (s.tile t).owner with
  | none => s
  | some (g, _) => s.modGraph g fun a => { a with stray := satInc a.stray 0xFFFF k }

/-- Complete a tile's firing: the context is discarded, the pass count decreases (R41, R338). -/
def completeFiring (s : State) (t : Nat) : State :=
  let ctx := contextLinks s t
  let s := addStray s t (ctx.foldl (fun n e => n + e.2) 0)
  let s := foldState (fun s e => s.setLink e.1 Link.empty) s ctx
  let s := foldState (fun s k =>
    let x := 64 * t + k
    let v := s.slot x
    s.setSlot x { v with
      result := none, hold := Hold.start, deferred := none, burst := [], burstPsn := false, burstId := none,
      outs := v.outs.map fun o => { o with stale := true } }) s (List.range 64)
  let ti := s.tile t
  s.setTile t { ti with begun := false, met := false, inCnt := [], outCnt := [], armed := ti.armed - 1 }

/-- Whether every declared port has met its rate (R40). -/
def ratesMet (ti : TileSt) : Bool :=
  (List.range 16).all fun k =>
    let v := cfgPort ti.cfg k
    if portDir v = 1 then decide (portRate v ≤ SMap.get ti.inCnt 0 k)
    else if portDir v = 2 then decide (portRate v ≤ SMap.get ti.outCnt 0 k) else true

/-- Whether a slot keeps the tile's firing open: an uncaptured result, or a withheld record (R97, R179). -/
def slotHolds (v : SlotSt) : Bool :=
  v.wh.isSome || (match v.result with
    | none => false
    | some r => decide (r.kind ≠ .acc))

/-- The flags of the accumulations of a tile that a checker had repeated: they are captured at this edge (R357). -/
def captureRepeats (s : State) (t : Nat) : State :=
  let xs := (s.slots.filter fun e => decide (tileOf e.1 = t)).filterMap fun e =>
    match e.2.result with
    | some r => if r.kind = .acc ∧ r.flags ≠ 0 ∧ r.due ≤ s.now then some (e.1, r) else none
    | none => none
  foldState (fun s e =>
    let s := captureFlags s t e.2.flags
    s.setSlot e.1 { s.slot e.1 with result := some { e.2 with due := 0, flags := 0 } }) s xs

/-- The edge that closes a cycle in one tile: flags, deferrals and overruns of the cycle are counted, then a firing
whose rates are met completes, or waits for its last results, which are discarded when they come (R97). -/
def tileEdge (s : State) (t : Nat) : State :=
  let s := captureRepeats s t
  let ti := s.tile t
  let s := s.setTile t { ti with
    tfst := ti.tfst ||| ti.fresh, fresh := 0, defc := ti.defc + BitVec.ofNat 32 ti.defNow, defNow := 0,
    ovrc := ti.ovrc + BitVec.ofNat 32 ti.ovrNow.length, chst := recordOverruns ti.chst ti.ovrNow, ovrNow := [] }
  if ti.begun && ratesMet ti && decide (ti.armed ≠ 0) then
    if (List.range 64).any fun k => slotHolds (s.slot (64 * t + k)) then s.setTile t { s.tile t with met := true }
    else completeFiring s t
  else s

end Sys2Proof.Machine
end

