-- ==== Sys2Proof/Machine/Cache.lean ====
section
/-! DEFINITION. The memories below the ports: the field cache, the reduction combining buffer, the second-level
cache as a directory over the one home copy, poison and ECC (spec/11_memories.md R202 to R215). -/

namespace Sys2Proof.Machine

/-! ### Lines, sectors and bursts (R202, R203, R206) -/

/-- The unit a miss fetches, by the page's GRAN: its first byte and length (R206). -/
def granUnit (gran pa : Nat) : Nat × Nat :=
  if gran = 0 then (sectorBase pa, sectorLen pa)
  else if gran = 1 then (lineBase pa, lineLen pa)
  else
    let b := lineInPage pa / 4 * 4
    (ppnOf pa * pageSize + b * 192, Nat.min 768 (pageSize - b * 192))

/-- The layout tag of the page that holds an address (R215). -/
def pageTag (s : State) (pa : Nat) : Nat := SMap.get s.tags 0 (locOf s pa / pageSize)

/-- Whether a page is being re-laid out: accesses to it wait (R215). -/
def pageBusy (s : State) (pa : Nat) : Bool :=
  isDram pa && (let l := (s.die (homeDie s pa)).layc
                l.busy && decide (l.ppn.toNat = ppnOf pa))

/-! ### The home: one copy of each byte, with sector poison (R209, R214) -/

/-- The sectors that overlap [pa, pa + n), by their first byte. -/
def sectorsOf (pa n : Nat) : List Nat :=
  if n = 0 then []
  else
    let a := sectorBase pa
    ((List.range (n / 48 + 2)).map fun i => a + 48 * i).filter fun b => decide (b < pa + n) && decide (b % pageSize ≤ 2097120)

/-- Whether a write to the home hits a quarter's KICKMAP word: CINT.KICK (R369). -/
def noteKick (s : State) (pa n : Nat) : State :=
  foldState (fun s q =>
    let a := 8 * (s.quarter q).kmapa.toNat
    if a ≠ 0 ∧ pa < a + 8 ∧ a < pa + n then raiseCint s q 0 else s) s [0, 1, 2, 3]

/-- A write at the home ends other agents' reservations on the bytes written. -/
def breakReservations (s : State) (pa n : Nat) : State :=
  { s with cores := s.cores.map fun e =>
      match e.2.resv with
      | none => e
      | some a => if pa < a + 8 ∧ a < pa + n then (e.1, { e.2 with resv := none }) else e }

/-! ### Tile stores: banks and their checks (R204, R341, R358) -/

/-- The tile stores are reached by a read or a write: every bank of [pa, pa + n) serves the source at work in its order (R204);
what comes from another die crosses the links (R345). -/
def storeTouch (s : State) (pa n : Nat) (wr : Bool) : State :=
  let t := tileOfPa pa
  let s := countFlits s (dieOfTile t) (if wr then n else 0) (if wr then 0 else n)
  foldState (fun s i => markAt s (.bank t ((pa + 8 * i) / 8 % 16)) s.src) s (List.range (Nat.min 16 ((pa % 8 + n + 7) / 8)))

/-- The words with an error in [pa, pa + n). -/
def softWords (s : State) (pa n : Nat) : SMap Bool := s.soft.filter fun e => decide (e.1 < pa + n) && decide (pa < e.1 + 8)

/-- A read of [pa, pa + n) of a tile store finds an uncorrectable word. -/
def softBad (s : State) (pa n : Nat) : Bool := isTileStore pa && (softWords s pa n).any (·.2)

/-- A read of a tile store corrects the words it can, each counted in the bucket of the field (R341). -/
def softScrub (s : State) (pa n : Nat) : State :=
  if s.soft = [] then s
  else
    foldState (fun s e =>
      if e.2 then s
      else bucketAdd { s with soft := SMap.erase s.soft e.1 } (dieOfTile (tileOfPa pa)) 2 (fieldOfTile (tileOfPa pa) % 320))
      s (softWords s pa n)

/-- A write of whole words takes their errors away; of part of a word, where it can be corrected. -/
def softWrite (s : State) (pa n : Nat) : State :=
  if s.soft = [] then s
  else
    let s := softScrub s pa n
    { s with soft := s.soft.filter fun e => !(decide (pa ≤ e.1) && decide (e.1 + 8 ≤ pa + n)) }

/-- What DRAM holds of a sector stays, by its location, where the second-level cache above it comes to hold something else. -/
def keepUnder (s : State) (sec : Nat) : State :=
  if (SMap.find s.under sec).isSome then s
  else { s with under := SMap.insert s.under sec (s.bytes sec (Nat.min 48 (pageSize - sec % pageSize)), s.poison.contains sec) }

/-- A word of a tile store comes to hold an error; or a sector in the array of the home second-level cache does, which its
readers meet as poison where it is uncorrectable (R358; notes/assumptions/12.md). -/
def upsetStore (s : State) (pa : Nat) (hard : Bool) : State :=
  if isTileStore pa then { s with soft := SMap.insert s.soft (pa / 8 * 8) hard }
  else if isDram pa && hard && l2Holds s pa then (keepUnder s (sectorOf (locOf s pa))).setPoison (sectorOf (locOf s pa)) true
  else s

/-! ### The stored granules and their codes (R213, R214) -/

/-- The code of a granule that a flipped bit stands in: one per 12 data bytes of a sector, one for a line, byte i of a burst
in code i mod 4; none for a bit of the metadata. -/
def flipCode (tag : Nat) : Flip → Option Nat
  | .data b _ => some (if tag = 0 then b / 12 else if tag = 1 then 0 else b % 4)
  | .check c _ _ => some c
  | .flag _ => none

/-- The symbol of an RS code that a flipped bit spoils. -/
def flipSymbol : Flip → Nat
  | .data b _ => 2 * b
  | .check _ k _ => 2 * k + 1
  | .flag _ => 0

/-- What the decoder finds in one code. -/
inductive Verdict where
  | clean | corrected | uncorrectable
  /-- Taken for corrected with these errors left in it. -/
  | missed (left : List Flip)
  deriving DecidableEq, Repr

/-- Decode one code from its errors: SEC-DED corrects one bit and detects two, RS corrects eleven bytes; a pattern beyond
that is reported, or miscorrected (R213). -/
def decodeCode (tag : Nat) (es : List Flip) : Verdict :=
  let n := if tag = 0 then es.length else (es.map flipSymbol).dedup.length
  if n = 0 then .clean
  else if n ≤ (if tag = 0 then 1 else 11) then .corrected
  else if tag = 0 ∧ n = 2 then .uncorrectable
  else
    match Config.decodeBeyond es with
    | none => .uncorrectable
    | some left => .missed left

/-- The bucket of the bank that holds a DRAM location: stack in its die, sub-channel, bank (R216, R341). DESIGN CHOICE
(notes/assumptions/8.md): an error in a granule of several sub-channels, of LINE192 or WIDE768, counts at its lowest one. -/
def bankOf (s : State) (loc : Nat) : Nat :=
  let q := loc % stackSize / pageSize
  let o := loc % pageSize
  let sub := match SMap.get s.tags 0 (loc / pageSize) with
    | 0 => (o / 48 + q) % 64
    | 1 => 2 * ((o / 192 + q) % 32)
    | _ => 8 * ((o / 768 + q) % 8)
  loc / stackSize % 2 * 1024 + sub * 16 + Config.dramBank loc % 16

/-- The die that owns the stack of a DRAM location. -/
def dieOfLoc (loc : Nat) : Nat := loc / stackSize / 2

/-- The sectors of a granule, by the locations of their first bytes. -/
def granuleSectors (g : Nat × Nat) : List Nat := (List.range ((g.2 + 47) / 48)).map fun i => g.1 + 48 * i

/-- Whether a flip lies in code c of a granule, in a byte that the granule has. -/
def inCode (tag : Nat) (g : Nat × Nat) (c : Nat) (e : Flip) : Bool :=
  decide (flipCode tag e = some c) && (match e with
    | .data b k => decide (b < g.2) && decide (k < 8)
    | _ => true)

/-- Flip data bits of a stored granule. -/
def flipData (g : Nat) (s : State) : Flip → State
  | .data b k => s.setBytes (g + b) [s.byte (g + b) ^^^ BitVec.ofNat 8 (2 ^ k)]
  | _ => s

/-- Read and decode a stored granule: it is delivered and written back corrected, or its sectors become poisoned and its data
stays as it stands (R214). A code that is miscorrected changes no byte beside its own (R213). -/
def scrubGranule (s : State) (g : Nat × Nat) : State :=
  let es := SMap.get s.flips [] g.1
  let tag := SMap.get s.tags 0 (g.1 / pageSize)
  let codes := List.range (if tag = 1 then 1 else 4)
  let vs := codes.map fun c => decodeCode tag (es.filter fun e => flipCode tag e == some c)
  if vs.all fun v => decide (v = .clean) then s
  else if vs.contains .uncorrectable then
    let s := foldState (flipData g.1) { s with flips := SMap.erase s.flips g.1 } es
    foldState (fun s b => s.setPoison b true) s (granuleSectors g)
  else
    let left := (codes.zip vs).flatMap fun v => match v.2 with
      | .missed l => (l.filter (inCode tag g v.1)).dedup
      | _ => []
    let flags := es.filter fun e => (flipCode tag e).isNone
    let s := foldState (flipData g.1) { s with flips := SMap.put s.flips [] g.1 flags } left
    bucketAdd s (dieOfLoc g.1) 0 (bankOf s g.1)

/-- A sector that the second-level cache held leaves it: what DRAM holds stands again. -/
def uncover (s : State) (sec : Nat) : State :=
  match SMap.find s.under sec with
  | none => s
  | some u => ({ s with under := SMap.erase s.under sec }.setBytes sec u.1).setPoison sec u.2

/-- Something is done to a stored granule beneath the sectors that keep says are held above it, in the second-level cache or in the
write that follows: they stay as they are, and so does what DRAM holds of them (R209, R214). -/
def beneath (s : State) (g : Nat × Nat) (keep : Nat → Bool) (act : State → State) : State :=
  let held := ((granuleSectors g).filter keep).map fun b => (b, s.bytes b (Nat.min 48 (g.1 + g.2 - b)), s.poison.contains b)
  foldState (fun s o =>
    if s.bytes o.1 o.2.1.length = o.2.1 ∧ s.poison.contains o.1 = o.2.2 then s
    else ((keepUnder s o.1).setBytes o.1 o.2.1).setPoison o.1 o.2.2)
    (act (foldState (fun s o => uncover s o.1) s held)) held

/-- Decode a stored granule beneath the sectors that are kept (R214). -/
def decodeGranule (s : State) (g : Nat × Nat) (keep : Nat → Bool) : State :=
  if s.flips = [] then s else beneath s g keep fun s => scrubGranule s g

/-- A granule takes new codes and metadata, beneath the sectors that are kept: it is decoded first where not all of it is written
(R214). -/
def encodeGranule (s : State) (g : Nat × Nat) (written keep : Nat → Bool) : State :=
  if SMap.get s.flips [] g.1 = [] then s
  else
    beneath s g (fun b => written b || keep b) fun s =>
      let s := if (granuleSectors g).all written then s else scrubGranule s g
      let ps := (granuleSectors g).map fun b => (b, sectorPoisoned s b)
      foldState (fun s p => s.setPoison p.1 p.2) { s with flips := SMap.erase s.flips g.1 } ps

/-- The address in the page of pa of a location in the same page of a stack. -/
def paOfLoc (pa loc : Nat) : Nat := ppnOf pa * pageSize + loc % pageSize

/-- The poison of a sector as it is read out of DRAM goes with it: its flag takes the value that the copies give, and the copies
stay as they are stored (R213). -/
def settleFlag (s : State) (sec : Nat) : State :=
  if s.flips = [] then s
  else
    let bad := sectorPoisoned s sec
    if bad = s.poison.contains sec then s
    else
      let g := (granuleOf s sec).1
      let fl := SMap.get s.flips [] g
      let copies := (flagCopies (SMap.get s.tags 0 (sec / pageSize)) ((sec - g) / 48)).map Flip.flag
      let fl := (copies.filter fun e => !fl.contains e) ++ fl.filter fun e => !copies.contains e
      { s with flips := SMap.put s.flips [] g fl }.setPoison sec bad

/-- A sector is read out of DRAM into the home second-level cache, which keeps what it holds of the rest of the granule (R209,
R214). -/
def fetchSector (s : State) (pa : Nat) : State :=
  let loc := sectorOf (locOf s pa)
  settleFlag (decodeGranule s (granuleOf s loc) fun b => l2Holds s (paOfLoc pa b)) loc

/-- The granules that hold [loc, loc + n). -/
def granulesOf (s : State) (loc n : Nat) : List (Nat × Nat) :=
  (((List.range (n / 48 + 2)).map fun i => granuleOf s (loc + 48 * i)).filter fun g => decide (g.1 < loc + n)).dedup

/-- DRAM is written at [pa, pa + n), but for what the second-level cache holds: a granule written whole takes new codes, another is
decoded first; its metadata is written anew (R214). -/
def prepareWrite (s : State) (pa n : Nat) : State :=
  if s.flips = [] then s
  else
    let loc := locOf s pa
    let whole (b : Nat) : Bool := decide (loc ≤ b) && decide (b + Nat.min 48 (pageSize - b % pageSize) ≤ loc + n)
    foldState (fun s g => encodeGranule s g (fun b => whole b && !l2Holds s (paOfLoc pa b)) fun b => l2Holds s (paOfLoc pa b)) s
      (granulesOf s loc n)

/-- A stored bit flips (R213). A flip of what a granule does not hold changes nothing. -/
def upsetBit (s : State) (loc : Nat) (e : Flip) : State :=
  let g := granuleOf s loc
  let tag := SMap.get s.tags 0 (loc / pageSize)
  let codes := if tag = 1 then 1 else 4
  let ok : Bool := match e with
    | .data b k => decide (b < g.2) && decide (k < 8)
    | .check c k b => decide (c < codes) && (if tag = 0 then decide (k < 8) && decide (b = 0) else decide (k < 22) && decide (b < 8))
    | .flag b => decide (b < if tag = 2 then 64 else 16)
  let es := SMap.get s.flips [] g.1
  if decide (loc < 16 * stackSize) && ok then
    { s with flips := SMap.put s.flips [] g.1 (if es.contains e then es.erase e else e :: es) }
  else s

/-- Whether the home second-level cache holds every byte of [pa, pa + n). -/
def l2HoldsAll (s : State) (pa n : Nat) : Bool := isDram pa && (sectorsOf pa n).all fun b => l2Holds s b

/-- The sectors that the home second-level cache holds become dirty where they are written. -/
def l2Dirty (s : State) (pa n : Nat) : State :=
  let d := homeDie s pa
  let die := s.die d
  let mine (l : L2Line) : List Nat := ((sectorsOf pa n).filter fun b => decide (lineBase b = l.base)).map sectorInLine
  s.setDie d { die with l2 := ((sectorsOf pa n).map fun b => lineNo b % 65536).foldl (fun m k =>
    SMap.put m [] k ((SMap.get m [] k).map fun l => { l with dirty := (l.dirty ++ (mine l).filter l.valid.contains).dedup })) die.l2 }

/-- What a write at a home makes ready: the second-level cache takes it where it holds the bytes, and DRAM is written once the
line leaves; else DRAM, or the tile store, is written itself. -/
def homeReady (s : State) (pa n : Nat) : State :=
  if isDram pa then l2Dirty (if l2HoldsAll s pa n then s else prepareWrite s pa n) pa n else softWrite s pa n

/-- Write bytes at their home. Poisoned data marks its sectors, a clean write of all bytes of a sector clears the
sector's poison, a partial write leaves it (R214). -/
def homeWrite (s : State) (pa : Nat) (bs : List Byte) (psn : Bool) : State :=
  let n := bs.length
  let s := (homeReady s pa n).setHome pa bs
  let s :=
    if isDram pa then
      foldState (fun s b =>
        if psn then s.setPoison (locOf s b) true
        else if pa ≤ b ∧ b + sectorLen b ≤ pa + n then s.setPoison (locOf s b) false else s) s (sectorsOf pa n)
    else s
  noteKick (breakReservations s pa n) pa n

/-- An uncorrectable code found in a read of DRAM poisons the sectors of its granule, beneath what the second-level cache holds of
them: of the sector in SEC48, of the line in LINE192, of the burst in WIDE768; the poison is written into every copy in its
metadata (R214). -/
def poisonGranule (s : State) (pa : Nat) : State :=
  let g := granuleOf s (locOf s pa)
  let flags (e : Flip) : Bool := match e with
    | .flag _ => true
    | _ => false
  beneath s g (fun b => l2Holds s (paOfLoc pa b)) fun s =>
    foldState (fun s b => s.setPoison b true)
      { s with flips := SMap.put s.flips [] g.1 ((SMap.get s.flips [] g.1).filter fun e => !flags e) } (granuleSectors g)

/-- What the ECC finds in a read of DRAM beside what is stored: an outside cause (notes/assumptions/12.md). -/
def eccOutcome (s : State) (pa : Nat) (e : Ecc) : State :=
  match e with
  | .clean => s
  | .corrected => bucketAdd s (homeDie s pa) 0 (bankOf s (locOf s pa))
  | .uncorrectable => poisonGranule s pa

/-! ### The second-level cache's directory (R209 to R212) -/

/-- The lowest-numbered enabled window that holds an address (R210). -/
def windowOf (die : DieSt) (pa : Nat) : Option Nat :=
  (List.range 8).find? fun k =>
    let v := SMap.get die.retw RetwSt.reset k
    v.en && decide (v.base.toNat ≤ pa / 4096) && decide (pa / 4096 ≤ v.limit.toNat)

/-- EWAYS of every window, in order, from the ways still free (R211). -/
def effWays : List (Bool × Nat) → Nat → List Nat
  | [], _ => []
  | (en, k) :: r, free =>
    let e := if en then Nat.min k free else 0
    e :: effWays r (free - e)

/-- Recompute EWAYS at a write to a control register (R211). -/
def recomputeEways (die : DieSt) : DieSt :=
  let ws := (List.range 8).map fun k => SMap.get die.retw RetwSt.reset k
  let es := effWays (ws.map fun v => (v.en, v.ways)) 12
  { die with retw := (List.range 8).foldl (fun m k =>
      SMap.put m RetwSt.reset k { SMap.get m RetwSt.reset k with eways := (es[k]?).getD 0 }) die.retw }

/-- The first way of a window's reserved ways: windows take ways from 15 down (R211). -/
def windowTop (die : DieSt) (w : Nat) : Nat :=
  15 - ((List.range w).map fun k => (SMap.get die.retw RetwSt.reset k).eways).sum

/-- The ways of a window. -/
def windowWays (die : DieSt) (w : Nat) : List Nat :=
  (List.range (SMap.get die.retw RetwSt.reset w).eways).map fun i => windowTop die w - i

/-- Whether a way is reserved. -/
def wayReserved (die : DieSt) (way : Nat) : Bool := (List.range 8).any fun w => (windowWays die w).contains way

/-- Change one window. -/
def modWindow (die : DieSt) (w : Nat) (f : RetwSt → RetwSt) : DieSt :=
  { die with retw := SMap.put die.retw RetwSt.reset w (f (SMap.get die.retw RetwSt.reset w)) }

/-- Place a missing line: in a free reserved way of its window, or among the unreserved ways (R211, R212). DESIGN CHOICE
(notes/assumptions/54.md): a window that has no reserved way, or none that is free, is full: its line goes among the unreserved
ways and counts in OVFL. -/
def l2Place (die : DieSt) (lines : List L2Line) (pa : Nat) (valid dirty : List Nat) (evf : Bool) : DieSt × List L2Line :=
  let w := windowOf die pa
  let mk (way : Nat) : L2Line := { way := way, base := lineBase pa, valid := valid, dirty := dirty }
  let used := lines.map L2Line.way
  let free := match w with
    | none => none
    | some k => (windowWays die k).find? fun a => !used.contains a
  match free with
  | some way => (die, mk way :: lines)
  | none =>
    let die := match w with
      | none => die
      | some k => modWindow die k fun v => { v with ovfl := v.ovfl + 1, freshOvfl := v.freshOvfl + 1 }
    let plain := (List.range 16).filter fun a => !wayReserved die a
    let open_ := plain.find? fun a => !used.contains a
    let last := (lines.reverse.find? fun l => !wayReserved die l.way).map L2Line.way
    let way := (open_.orElse fun _ => last).getD 0
    let rest := lines.filter fun l => l.way ≠ way
    (die, if evf && w.isNone then rest ++ [mk way] else mk way :: rest)

/-- Every sector of the line at a base. -/
def lineSectors (base : Nat) : List Nat := (sectorsOf base (lineLen base)).map sectorInLine

/-- A line of the home second-level cache gives its dirty sectors to DRAM as it leaves: their granules take new codes, and what
the cache still holds of other lines of a granule stays as it holds it; of its clean sectors what DRAM holds stands again. A write
to a page that is being converted waits (R209, R214, R215; notes/assumptions/12.md). -/
def l2WriteBack (s : State) (l : L2Line) : State :=
  let sec (k : Nat) : Nat := sectorOf (locOf s (l.base + 48 * k))
  let mine := l.dirty.map sec
  let s := foldState uncover s ((l.valid.map sec).filter fun b => !mine.contains b)
  let keep (b : Nat) : Bool := decide (lineBase (paOfLoc l.base b) ≠ l.base) && l2Holds s (paOfLoc l.base b)
  let s := foldState (fun s g => encodeGranule s g mine.contains keep) s ((mine.map (granuleOf s)).dedup)
  { s with under := mine.foldl SMap.erase s.under, late := s.late || (decide (mine ≠ []) && pageBusy s l.base) }

/-- One line of the home second-level cache takes sectors, in its place or in one found for it, whose line leaves; use says
that the request asks for this line, which moves to the most recently used position (R209, R212). -/
def l2Line (s : State) (base : Nat) (valid dirty : List Nat) (evf use : Bool) : State :=
  let d := homeDie s base
  let set := lineNo base % 65536
  let lines := SMap.get (s.die d).l2 [] set
  match lines.find? fun l => l.base == base with
  | some l =>
    let l' := { l with valid := (l.valid ++ valid).dedup, dirty := (l.dirty ++ dirty).dedup }
    let rest := lines.filter fun a => a.base ≠ l.base
    let die := s.die d
    s.setDie d { die with l2 := SMap.put die.l2 [] set (if use then l' :: rest else lines.map fun a => if a.base = base then l' else a) }
  | none =>
    let kept := (l2Place (s.die d) lines base valid dirty evf).2
    let s := foldState l2WriteBack s (lines.filter fun l => !(kept.any fun m => m.base == l.base))
    let r := l2Place (s.die d) lines base valid dirty evf
    s.setDie d { r.1 with l2 := SMap.put r.1.l2 [] set r.2 }

/-- A request counts once, as a hit or a miss, for the window of the address it asks for; a miss is an event (R211, R344, R345). -/
def l2Count (s : State) (pa : Nat) (hit : Bool) : State :=
  let d := homeDie s pa
  let s := match windowOf (s.die d) pa with
    | none => s
    | some k => s.setDie d (modWindow (s.die d) k fun v =>
        if hit then { v with hits := v.hits + 1, freshHits := v.freshHits + 1 }
        else { v with miss := v.miss + 1, freshMiss := v.freshMiss + 1 })
  if hit then s else pmcCount s d 3 1

/-- The other lines of the burst that holds a line. -/
def burstLines (base : Nat) : List Nat :=
  let b := lineInPage base / 4 * 4
  (((List.range 4).map fun i => ppnOf base * pageSize + (b + i) * 192).filter fun a => decide (a < (ppnOf base + 1) * pageSize)).filter
    fun a => decide (a ≠ base)

/-- What a miss on lines and their sectors fetches, by the layout of the page: the sectors, the lines, the burst (R206, R209). -/
def l2Fetches (tag : Nat) (ls : List (Nat × List Nat)) : List (Nat × List Nat) :=
  if tag = 0 then ls
  else if tag = 1 then ls.map fun l => (l.1, lineSectors l.1)
  else ((ls.flatMap fun l => l.1 :: burstLines l.1).dedup).map fun b => (b, lineSectors b)

/-- One request, for address pa, at the home second-level cache: sectors of some lines of a granule, in the order of its sources
(R291). A miss fetches from DRAM what the granule of the page names and the cache does not hold, and each granule is decoded
(R209, R214). A request for a page that is being converted waits (R215). -/
def l2Request (s : State) (pa : Nat) (ls : List (Nat × List Nat)) (wr evf : Bool) : State :=
  if !isDram pa then s
  else
    let n := 48 * (ls.map fun l => l.2.length).sum
    let s := { s with late := s.late || pageBusy s pa }
    let s := countFlits (markAt s (.home (homeDie s pa)) s.src) (homeDie s pa) (if wr then n else 0) (if wr then 0 else n)
    let dirty (b : Nat) : List Nat := if wr then (ls.filter fun l => l.1 == b).flatMap (·.2) else []
    let hit := ls.all fun l => l2Has s l.1 l.2
    let fs := if hit then ls else l2Fetches (pageTag s pa) ls
    let missing := fs.flatMap fun l => (l.2.map fun k => l.1 + 48 * k).filter fun b => !l2Holds s b
    foldState (fun s l => l2Line s l.1 l.2 (dirty l.1) evf (ls.any fun m => m.1 == l.1))
      (foldState fetchSector (l2Count s pa hit) missing) fs

/-- A request for sectors of one line at the home second-level cache. -/
def l2Touch (s : State) (pa : Nat) (secs : List Nat) (wr evf : Bool) : State := l2Request s pa [(lineBase pa, secs)] wr evf

/-- A request for [pa, pa + n): the lines that hold it. -/
def l2Read (s : State) (pa n : Nat) (wr evf : Bool) : State :=
  foldState (fun s i =>
    let b := lineBase pa + 192 * i
    let lo := Nat.max b pa
    let hi := Nat.min (b + lineLen b) (pa + n)
    if lo < hi then l2Touch s lo ((sectorsOf lo (hi - lo)).map sectorInLine) wr evf else s) s (List.range (n / 192 + 2))

/-- Take a line out of the home second-level cache, its dirty sectors written back to DRAM. -/
def l2Drop (s : State) (pa : Nat) : State :=
  if !isDram pa then s
  else
    let d := homeDie s pa
    let set := lineNo pa % 65536
    let s := foldState l2WriteBack s ((SMap.get (s.die d).l2 [] set).filter fun l => l.base == lineBase pa)
    let die := s.die d
    s.setDie d { die with
      l2 := SMap.put die.l2 [] set ((SMap.get die.l2 [] set).filter fun l => l.base ≠ lineBase pa) }

/-- Whether a line stands in a reserved way of its home. -/
def l2Reserved (s : State) (pa : Nat) : Bool :=
  let die := s.die (homeDie s pa)
  isDram pa && (SMap.get die.l2 [] (lineNo pa % 65536)).any fun l => l.base == lineBase pa && wayReserved die l.way

/-! ### The field cache (R205, R206, R208) -/

/-- A cached byte. -/
def cachedByte (f : FieldSt) (pa : Nat) : Option CByte :=
  match SMap.find f.cache (lineNo pa) with
  | none => none
  | some l => SMap.find l.bytes (pa - lineBase pa)

/-- Write back bytes of one sector of a line: all of them at once where the whole sector goes, else byte by byte (R206, R214). -/
def writeBackSector (s : State) (base k : Nat) (bs : List (Nat × CByte)) : State :=
  let mine := bs.filter fun e => decide (e.1 / 48 = k)
  if mine ≠ [] ∧ mine.length = sectorLen (base + 48 * k) then homeWrite s (base + 48 * k) (mine.map fun e => e.2.v) false
  else foldState (fun s e => homeWrite s (base + e.1) [e.2.v] false) s mine

/-- Write back the dirty bytes of a line that satisfy a test, and clear their DRT; clear VAL too where asked. -/
def writeBackLine (s : State) (f g : Nat) (sel : Nat → Bool) (drop : Bool) : State :=
  let fs := s.field f
  match SMap.find fs.cache g with
  | none => s
  | some l =>
    let hit (e : Nat × CByte) : Bool := e.2.drt && !l.tnt.contains (e.1 / 48) && sel (l.base + e.1)
    let dirty := l.bytes.filter hit
    if dirty = [] then s
    else
      let secs := (dirty.map fun e => e.1 / 48).dedup
      let s := asCache s f fun s => l2Touch s l.base secs true false
      let s := foldState (fun s k => writeBackSector s l.base k dirty) s secs
      let bytes := if drop then l.bytes.filter fun e => !hit e
        else l.bytes.map fun e => if hit e then (e.1, { e.2 with drt := false }) else e
      let fs := s.field f
      s.setField f { fs with cache := SMap.insert fs.cache g { l with bytes := bytes } }

/-- Write back over every line of a field. -/
def writeBackAll (s : State) (f : Nat) (sel : Nat → Bool) (drop : Bool) : State :=
  foldState (fun s e => writeBackLine s f e.1 sel drop) s (s.field f).cache

/-- Clear VAL of the bytes that satisfy a test, tentative sectors excepted. -/
def clearVal (s : State) (f : Nat) (sel : Nat → Bool) : State :=
  let fs := s.field f
  s.setField f { fs with cache := fs.cache.map fun e =>
    (e.1, { e.2 with bytes := e.2.bytes.filter fun b => e.2.tnt.contains (b.1 / 48) || !sel (e.2.base + b.1) }) }

/-- Commit a field's open region early (R208): too late in a cycle in which its contained error has been raised (R354). -/
def earlyCommit (s : State) (f : Nat) : State :=
  let fs := commitTentative (s.field f)
  if struck s f then { s with late := true } else s.setField f { fs with ctn := { fs.ctn with early := true } }

/-- Make room for a line in its set of eight ways: a line without a tentative sector is written back and leaves; if
every way holds a tentative sector the region commits early first (R205, R208). An eviction comes before the loads and stores
of its cycle (R279). -/
def makeRoom (s : State) (f g : Nat) : State :=
  let inSet (m : SMap CLine) : SMap CLine := m.filter fun e => decide (e.1 % 1024 = g % 1024)
  let set := inSet (s.field f).cache
  if set.length < 8 then s
  else
    let s := if set.all fun e => decide (e.2.tnt ≠ []) then earlyCommit s f else s
    let cands := (inSet (s.field f).cache).filter fun e => decide (e.2.tnt = [])
    match cands[Config.cacheVictim s.turns % cands.length]? with
    | none => s
    | some v =>
      let s := writeBackLine (markAt s (.cache f) 0) f v.1 (fun _ => true) false
      let fs := s.field f
      s.setField f { fs with cache := SMap.erase fs.cache v.1 }

/-- The line that holds an address, allocated where it is missing. -/
def ensureLine (s : State) (f pa : Nat) : State :=
  match SMap.find (s.field f).cache (lineNo pa) with
  | some _ => s
  | none =>
    let s := makeRoom s f (lineNo pa)
    let fs := s.field f
    s.setField f { fs with cache := SMap.insert fs.cache (lineNo pa) { base := lineBase pa, bytes := [], tnt := [] } }

/-- Whether an entry of the combining buffer holds a word that overlaps [pa, pa + n). -/
def rcbOverlaps (pa n : Nat) (e : RcbEntry) : Bool :=
  decide (pa < e.pa + if e.dword then 8 else 4) && decide (e.pa < pa + n)

/-- One line's part of [a, a + n), fetched from the home, comes into the cache: the bytes it holds stay as they are, whether written in
the field or not (R206, R288); the bytes of a word in the combining buffer stay absent, so that a load fetches the word from
the home (R235); a poisoned sector is not cached, so that each load meets its poison (R230). -/
def fillLine (s : State) (f a n : Nat) : State :=
  let s := ensureLine s f a
  let fs := s.field f
  match SMap.find fs.cache (lineNo a) with
  | none => s
  | some l =>
    let bytes := (List.range n).foldl (fun m i =>
      let pa := a + i
      if s.poisoned pa 1 || (SMap.find m (pa - lineBase pa)).isSome || fs.rcb.any (rcbOverlaps pa 1) then m
      else SMap.insert m (pa - lineBase pa) { v := s.byte (locOf s pa), drt := false }) l.bytes
    s.setField f { fs with cache := SMap.insert fs.cache (lineNo a) { l with bytes := bytes } }

/-- A range cut into the parts of up to four lines: first byte and length. -/
def lineCuts (a n : Nat) : List (Nat × Nat) :=
  (List.range 4).filterMap fun i =>
    let b := lineBase a + 192 * i
    let lo := Nat.max b a
    let hi := Nat.min (b + lineLen b) (a + n)
    if lo < hi then some (lo, hi - lo) else none

/-- The unit of a miss, in the parts of its lines, and the one request to its home that fetches it (R206). -/
def unitCuts (gran pa : Nat) : List (Nat × Nat) := lineCuts (granUnit gran pa).1 (granUnit gran pa).2
def l2Unit (s : State) (gran pa : Nat) (evf : Bool) : State :=
  l2Request s pa ((unitCuts gran pa).map fun c => (lineBase c.1, (sectorsOf c.1 c.2).map sectorInLine)) false evf

/-- Fetch the unit of a miss into the field's cache (R206). -/
def fetchUnit (s : State) (f gran pa : Nat) (evf : Bool) : State :=
  foldState (fun s c => fillLine s f c.1 c.2) (asCache s f fun s => l2Unit s gran pa evf) (unitCuts gran pa)

/-! ### The reduction combining buffer (R207, R235, R237) -/

/-- One update of a word by a reduction or atomic operation, on w bits. -/
def redApply (op : RedOp) (w old v : Nat) : Nat :=
  match op with
  | .add => (old + v) % 2 ^ w
  | .fadd => (faddV fp32 .rne (decodeF fp32 old) (decodeF fp32 v)).1
  | .min => trunc w (if signedOf w old ≤ signedOf w v then signedOf w old else signedOf w v)
  | .max => trunc w (if signedOf w old ≤ signedOf w v then signedOf w v else signedOf w old)
  | .minU => Nat.min old v
  | .maxU => Nat.max old v
  | .and => Nat.land old v
  | .or => Nat.lor old v

/-- Perform one entry at its home (R207). -/
def performRcb (s : State) (e : RcbEntry) : State :=
  let n := if e.dword then 8 else 4
  let s := l2Touch s e.pa [sectorInLine e.pa] true false
  let old := leNat (s.home e.pa n)
  homeWrite s e.pa (leBytes n (redApply e.op (8 * n) old e.value.toNat)) e.psn

/-- Perform the entries of a field that satisfy a test, in their order. -/
def performRcbs (s : State) (f : Nat) (sel : RcbEntry → Bool) : State :=
  let fs := s.field f
  let s := s.setField f { fs with rcb := fs.rcb.filter fun e => !sel e }
  asCache s f fun s => foldState performRcb s (fs.rcb.filter sel)

/-- Before an AMO or RED of the field acts on a DRAM word: write back its sector if the word has DRT bytes, then
clear VAL of the word's bytes (R235). -/
def claimWord (s : State) (f pa n : Nat) : State :=
  let dirty := (List.range n).any fun i => match cachedByte (s.field f) (pa + i) with
    | some b => b.drt
    | none => false
  let s := if dirty then writeBackLine s f (lineNo pa) (fun a => decide (sectorBase a = sectorBase pa)) false else s
  let fs := s.field f
  match SMap.find fs.cache (lineNo pa) with
  | none => s
  | some l =>
    s.setField f { fs with cache := SMap.insert fs.cache (lineNo pa) { l with
      bytes := l.bytes.filter fun b => !(decide (pa ≤ lineBase pa + b.1) && decide (lineBase pa + b.1 < pa + n)) } }

/-- Whether the field's cache or combining buffer has to act at the home before an AMO of a DRAM word: those requests reach the
home in a cycle of their own, since the AMO's source ranks below the cache's (R235, R291). -/
def wordHeld (f : FieldSt) (pa n : Nat) : Bool :=
  f.rcb.any (rcbOverlaps pa n) || (List.range n).any fun i => ((cachedByte f (pa + i)).map (·.drt)).getD false

/-- Accept a RED to DRAM into the combining buffer (R207). -/
def acceptRed (s : State) (f pa : Nat) (op : RedOp) (dword : Bool) (v : DWord) (psn : Bool) : State :=
  let n := if dword then 8 else 4
  let s := claimWord s f pa n
  let s := performRcbs s f fun e => rcbOverlaps pa n e && !(e.pa == pa && decide (e.op = op) && e.dword == dword)
  let fs := s.field f
  if fs.rcb.any fun e => e.pa == pa then
    s.setField f { fs with rcb := fs.rcb.map fun e =>
      if e.pa = pa then
        { e with value := BitVec.ofNat 64 (redApply op (8 * n) e.value.toNat (v.toNat % 2 ^ (8 * n))), psn := e.psn || psn }
      else e }
  else
    let new : RcbEntry := { pa := pa, op := op, dword := dword, value := BitVec.ofNat 64 (v.toNat % 2 ^ (8 * n)), psn := psn }
    match fs.rcb with
    | o :: rest =>
      if fs.rcb.length < 64 then s.setField f { fs with rcb := fs.rcb ++ [new] }
      else asCache (s.setField f { fs with rcb := rest ++ [new] }) f fun s => performRcb s o
    | [] => s.setField f { fs with rcb := [new] }

/-! ### Loads and stores in the field cache -/

/-- Whether every byte of [pa, pa + n) is held. -/
def cacheHolds (f : FieldSt) (pa n : Nat) : Bool := (List.range n).all fun i => (cachedByte f (pa + i)).isSome

/-- Fetch what a load of [pa, pa + n), part of one DRAM line, misses: each sector that lacks a byte where the granule is the
sector, else the one granule that holds the line (R206). -/
def fetchMissing (s : State) (f pa n gran : Nat) (evf : Bool) (e : Ecc) : State :=
  let lacks (s : State) (b : Nat) : Bool :=
    let lo := Nat.max b pa
    !cacheHolds (s.field f) lo (Nat.min (b + sectorLen b) (pa + n) - lo)
  if gran = 0 then
    foldState (fun s b => if lacks s b then fetchUnit (eccOutcome s b e) f gran b evf else s) s (sectorsOf pa n)
  else fetchUnit (eccOutcome s pa e) f gran pa evf

/-- Poisoned sectors that a field's access has read as zeros count in SUBC (R340). -/
def countZeros (s : State) (f k : Nat) : State :=
  let fs := s.field f
  s.setField f { fs with subc := BitVec.ofNat 32 (satInc fs.subc.toNat 0xFFFFFFFF k) }

/-- Load n bytes of one DRAM line through the field cache: the state, the bytes, and which of them come from poisoned
sectors; a poisoned sector of an ET page reads as zeros and counts in SUBC (R206, R230, R235, R340, R358). -/
def cacheLoad (s : State) (f pa n gran : Nat) (et evf : Bool) (e : Ecc) : State × List Byte × List Nat :=
  let s := performRcbs s f (rcbOverlaps pa n)
  let s :=
    if cacheHolds (s.field f) pa n then s
    else pmcCount (fetchMissing s f pa n gran evf e) (dieOfField f) 2 1
  let fs := s.field f
  let bad := (List.range n).filter fun i => (cachedByte fs (pa + i)).isNone && s.poisoned (pa + i) 1
  let bytes := (List.range n).map fun i =>
    match cachedByte fs (pa + i) with
    | some b => b.v
    | none => if et && bad.contains i then 0 else s.byte (locOf s (pa + i))
  let k := ((bad.map fun i => sectorBase (pa + i)).dedup).length
  if k = 0 then (s, bytes, [])
  else if et then
    (countZeros s f k, bytes, [])
  else (s, bytes, bad)

/-- Mark a byte written in the field (VAL and DRT). -/
def cachePut (s : State) (f pa : Nat) (b : Byte) (tentative : Bool) : State :=
  let fs := s.field f
  match SMap.find fs.cache (lineNo pa) with
  | none => s
  | some l =>
    let sec := sectorInLine pa
    s.setField f { fs with cache := SMap.insert fs.cache (lineNo pa) { l with
      bytes := SMap.insert l.bytes (pa - lineBase pa) { v := b, drt := true }
      tnt := if tentative && !l.tnt.contains sec then sec :: l.tnt else l.tnt } }

/-- The tentative sectors a store of [pa, pa + n) would add. -/
def newTentative (f : FieldSt) (pa n : Nat) : Nat :=
  ((sectorsOf pa n).filter fun b => match SMap.find f.cache (lineNo b) with
    | some l => !l.tnt.contains (sectorInLine b)
    | none => true).length

/-- Store bytes of one DRAM line in the field cache. A poisoned store goes through to the home; a tentative store
marks its sectors, committing early when they would be too many (R206, R208, R230, R233, R353). DESIGN CHOICE
(notes/assumptions/55.md): a poisoned store goes through also inside an open region, where R233 would have it tentative. -/
def cacheStore (s : State) (f pa : Nat) (bs : List Byte) (psn tentative : Bool) : State :=
  let n := bs.length
  let s := performRcbs s f (rcbOverlaps pa n)
  if psn then
    let s := homeWrite (asCache s f fun s => l2Touch s pa ((sectorsOf pa n).map sectorInLine) true false) pa bs true
    let fs := s.field f
    match SMap.find fs.cache (lineNo pa) with
    | none => s
    | some l =>
      s.setField f { fs with cache := SMap.insert fs.cache (lineNo pa) { l with
        bytes := l.bytes.filter fun b => !(decide (pa ≤ lineBase pa + b.1) && decide (lineBase pa + b.1 < pa + n)) } }
  else
    let s := ensureLine s f pa
    let s := if tentative && decide (2048 < tentCount (s.field f) + newTentative (s.field f) pa n) then earlyCommit s f
      else s
    let t := tentative && !(s.field f).ctn.early
    foldState (fun s e => cachePut s f (pa + e.2) e.1 t) s bs.zipIdx

end Sys2Proof.Machine
end

