-- ==== Sys2Proof/Machine/Translate.lean ====
section
/-! DEFINITION. Translation (spec/10_translation_tables.md R168 to R178), the region table (R185, R187) and the
cutting of an access into parts (R228). -/

namespace Sys2Proof.Machine

/-! ### Page-table entries (R168, R169) -/

def pteV (p : BitVec 128) : Bool := bitOf p.toNat 0
def pteRd (p : BitVec 128) : Bool := bitOf p.toNat 1
def pteWr (p : BitVec 128) : Bool := bitOf p.toNat 2
def pteAm (p : BitVec 128) : Bool := bitOf p.toNat 3
def pteEn (p : BitVec 128) : Bool := bitOf p.toNat 4
def pteA (p : BitVec 128) : Bool := bitOf p.toNat 5
def pteD (p : BitVec 128) : Bool := bitOf p.toNat 6
def pteEt (p : BitVec 128) : Bool := bitOf p.toNat 7
def pteGran (p : BitVec 128) : Nat := bitsOf p.toNat 8 2
def ptePpn (p : BitVec 128) : Nat := bitsOf p.toNat 21 27
def pteRes (p : BitVec 128) (part : Nat) : Bool := bitOf p.toNat (64 + part)
def pteRem (p : BitVec 128) (part : Nat) : Bool := bitOf p.toNat (96 + part)
def pteReserved (p : BitVec 128) : Bool := decide (bitsOf p.toNat 48 16 ≠ 0) || decide (bitsOf p.toNat 10 11 ≠ 0)

/-- Whether a page lies in the tile stores, where GRAN, ET, RES and REM are ignored (R168). -/
def pteTile (p : BitVec 128) : Bool := isTileStore (ptePpn p * pageSize)

/-- Whether a part is resident: every part of a tile-store page is. -/
def partResident (p : BitVec 128) (part : Nat) : Bool := pteTile p || pteRes p part

def Need.none : Need := { rd := false, wr := false, am := false, en := false }
def Need.read : Need := { rd := true, wr := false, am := false, en := false }
def Need.write : Need := { rd := false, wr := true, am := false, en := false }
def Need.atomic : Need := { rd := true, wr := true, am := true, en := false }

/-- Whether a PTE grants what an access needs. -/
def grants (p : BitVec 128) (n : Need) : Bool :=
  (!n.rd || pteRd p) && (!n.wr || pteWr p) && (!n.am || pteAm p) && (!n.en || pteEn p)

/-- What a translation answers: it must wait, it faults with a code and an access kind (10 for the walk's own
reads, else the access's), or the PTE. -/
inductive Xl where
  | wait
  | fault (code : Nat) (walk : Bool)
  | ok (pte : BitVec 128)
  deriving DecidableEq, Repr

/-- Whether an address lies in the DRAM blocks of a lead's partition. -/
def inPartDram (s : State) (lead pa : Nat) : Bool := isDram pa && samePart s lead (pa / blockSize)

/-- Whether an address lies in the partition's DRAM blocks or the tile stores of its dies (R22, R23). -/
def inPart (s : State) (lead pa : Nat) : Bool :=
  inPartDram s lead pa || (isTileStore pa && samePart s lead (quarterOfPa pa))

/-- Sixteen bytes at a table entry. -/
def readEntry (s : State) (pa : Nat) : BitVec 128 := BitVec.ofNat 128 (leNat (s.home pa 16))

/-- The address of a level-1 entry and a level-2 entry. -/
def l1Addr (root va : Nat) : Nat := root * 0x20000 + 16 * bitsOf va 34 14
def l2Addr (l1 : BitVec 128) (va : Nat) : Nat := bitsOf l1.toNat 17 31 * 0x20000 + 16 * bitsOf va 21 13

/-- Whether a level-1 entry has a reserved bit set. -/
def l1Reserved (e : BitVec 128) : Bool := decide (bitsOf e.toNat 48 80 ≠ 0) || decide (bitsOf e.toNat 1 16 ≠ 0)

/-- Checks 4 to 9 of R170 on a PTE. -/
def checkPte (s : State) (lead va : Nat) (p : BitVec 128) (n : Need) : Option Nat :=
  let pa := ptePpn p * pageSize
  let part := bitsOf va 16 5
  if !pteV p then some codePageAbsent
  else if pteReserved p then some codePteBad
  else if !inPart s lead pa then some codePaInvalid
  else if isDram pa && (decide (pteGran p = 3) || decide (pteGran p ≠ pageTag s pa)) then some codeGranBad
  else if !grants p n then some codeAccessDenied
  else if !partResident p part && !pteRem p part then some codePageAbsent
  else none

/-- The address of the PTE of a page, with checks 1 to 3 of R170. -/
def pteAddr (s : State) (lead va : Nat) : Except Xl Nat :=
  let q := (s.quarter lead).active
  let root := q.root.toNat
  if 2 ^ 48 ≤ va then .error (.fault codeVaInvalid false)
  else if !q.rootV then .error (.fault codePageAbsent false)
  else if !inPartDram s lead (root * 0x20000) then .error (.fault codePteBad false)
  else
    let a := l1Addr root va
    if pageBusy s a then .error .wait
    else if s.poisoned a 16 then .error (.fault codePoison true)
    else
      let e := readEntry s a
      if !bitOf e.toNat 0 then .error (.fault codePageAbsent false)
      else if !inPartDram s lead (bitsOf e.toNat 17 31 * 0x20000) || l1Reserved e then .error (.fault codePteBad false)
      else
        let b := l2Addr e va
        if pageBusy s b then .error .wait
        else if s.poisoned b 16 then .error (.fault codePoison true) else .ok b

/-- The PTE of a page as the tables hold it now, for the places that map a virtual range silently. -/
def peekPte (s : State) (lead va : Nat) : Option (BitVec 128) :=
  match pteAddr s lead va with
  | .error _ => none
  | .ok b =>
    let p := readEntry s b
    if (checkPte s lead va p Need.none).isSome then none else some p

/-- The PTE of a page as the tables hold it, whether a walk could read it now or has to wait, or would stop on poison or on
GRAN: it names the bytes that the page maps to. -/
def tablePte (s : State) (lead va : Nat) : Option (BitVec 128) :=
  let q := (s.quarter lead).active
  if 2 ^ 48 ≤ va ∨ !q.rootV ∨ !inPartDram s lead (q.root.toNat * 0x20000) then none
  else
    let e := readEntry s (l1Addr q.root.toNat va)
    if !bitOf e.toNat 0 || !inPartDram s lead (bitsOf e.toNat 17 31 * 0x20000) || l1Reserved e then none
    else
      let p := readEntry s (l2Addr e va)
      if pteV p && !pteReserved p && inPart s lead (ptePpn p * pageSize) then some p else none

/-- The reads of a walk at the homes of its entries (R169, R291). -/
def walkReads (s : State) (lead va : Nat) : State :=
  let q := (s.quarter lead).active
  let a := l1Addr q.root.toNat va
  if 2 ^ 48 ≤ va ∨ !q.rootV ∨ !inPartDram s lead (q.root.toNat * 0x20000) ∨ pageBusy s a then s
  else
    let s := l2Touch s a [sectorInLine a] false false
    let e := readEntry s a
    let b := l2Addr e va
    if s.poisoned a 16 || !bitOf e.toNat 0 || !inPartDram s lead (bitsOf e.toNat 17 31 * 0x20000) || l1Reserved e ||
        pageBusy s b then s
    else l2Touch s b [sectorInLine b] false false

/-- A walk: the checks of R170; where it commits, A, and D for a write, are set by the compare-and-swap of R173, which in one
step always finds what the walk read. A walk that does not commit answers the PTE as it stands. -/
def walkTables (s : State) (lead va : Nat) (n : Need) (commit : Bool) : State × Xl :=
  let s := walkReads s lead va
  match pteAddr s lead va with
  | .error e => (s, e)
  | .ok b =>
    let p := readEntry s b
    match checkPte s lead va p n with
    | some c => (s, .fault c false)
    | none =>
      let p' := p ||| BitVec.ofNat 128 (if n.wr then 0x60 else 0x20)
      if !commit then (s, .ok p) else (if p' = p then s else homeWrite s b (leBytes 8 p'.toNat) false, .ok p')

/-! ### TLB slices and latches (R175 to R177) -/

def vpnOf (va : Nat) : Nat := va / pageSize

/-- The field whose slice owns a page. -/
def sliceOwner (s : State) (lead vpn : Nat) : Nat :=
  let p := partOf s lead
  let cols := partCols p
  let h := Nat.xor (vpn % 65536) (vpn / 65536 % 2048)
  let k := h * (cols * partRows p) / 65536
  (fieldAt (partCol p + k % cols) (partRow p + k / cols)).getD 0

/-- The set of a page in its slice. -/
def sliceSet (vpn : Nat) : Nat := Nat.xor (vpn / 65536 % 256) (vpn % 256)

/-- The entries of a set, by key 8 x set + way. -/
def sliceFind (f : FieldSt) (vpn : Nat) : Option (BitVec 128) :=
  (f.tlb.find? fun e => decide (e.1 / 8 = sliceSet vpn) && decide (e.2.vpn = vpn)).map fun e => e.2.pte

/-- Install a page in its slice. -/
def sliceInstall (s : State) (lead vpn : Nat) (p : BitVec 128) : State :=
  let o := sliceOwner s lead vpn
  let f := s.field o
  let set := sliceSet vpn
  let way := (List.range 8).find? fun w => match SMap.find f.tlb (8 * set + w) with
    | some e => decide (e.vpn = vpn)
    | none => false
  let open_ := (List.range 8).find? fun w => (SMap.find f.tlb (8 * set + w)).isNone
  let w := (way.orElse fun _ => open_).getD (Config.tlbVictim s.turns % 8)
  s.setField o { f with tlb := SMap.insert f.tlb (8 * set + w) { vpn := vpn, pte := p } }

/-- Whether a held translation serves an access: permissions, D for a write, and a part that is here or remote. -/
def serves (p : BitVec 128) (va : Nat) (n : Need) : Bool :=
  let part := bitsOf va 16 5
  grants p n && (!n.wr || pteD p) && (partResident p part || pteRem p part)

/-- Put a translation in a port's latch as the page in use, at the head of its list; the run-ahead PTEs behind it, at most
two, stay (R177). -/
def latchInstall (s : State) (latch : Option (Nat × Nat)) (vpn : Nat) (p : BitVec 128) : State :=
  match latch with
  | none => s
  | some (t, k) =>
    let ti := s.tile t
    let ahead := (((SMap.get ti.xlat [] k).drop 1).filter fun e => decide (e.vpn ≠ vpn)).take 2
    s.setTile t { ti with xlat := SMap.insert ti.xlat k ({ vpn := vpn, pte := p } :: ahead) }

/-- Whether the slice of field o has a miss of a page in hand. -/
def hasMiss (s : State) (o vpn : Nat) : Bool := (s.field o).walks.any fun m => m.vpn == vpn

/-- The misses that the slice of field o has in hand once one of a page, changed by f, has joined those of the same page or the
end of the queue (R176). -/
def missesWith (s : State) (o vpn : Nat) (f : Miss → Miss) : List Miss :=
  let ws := (s.field o).walks
  if hasMiss s o vpn then ws.map fun m => if m.vpn = vpn then f m else m
  else ws ++ [f { vpn := vpn, asks := [], ahead := [] }]

/-- A page is asked for at a slice for the first time: an event where it misses (R345). -/
def noteMiss (s : State) (o vpn : Nat) : State := if hasMiss s o vpn then s else pmcCount s (dieOfField o) 6 1

/-- A request for a translation goes to the slice of field o, and the answer comes back, as tokens (R176, R345). -/
def sliceAsk (s : State) (f o : Nat) : State :=
  crossFlits (crossFlits s (dieOfField f) (dieOfField o) 1) (dieOfField o) (dieOfField f) 1

/-! ### Requests ahead of need (R177, R178) -/

/-- Whether a latch that holds these translations takes a run-ahead one: it holds at most two beside the one in use, and none
that serves already; one of the same page gives way. -/
def takesAhead (held : List Trans) (a : Ahead) : Bool :=
  decide (held ≠ []) && decide (a.va < 2 ^ 48) && !(held.any fun e => decide (e.vpn = vpnOf a.va) && serves e.pte a.va a.need) &&
    (decide (held.length < 3) || held.any fun e => decide (e.vpn = vpnOf a.va))

/-- A run-ahead PTE joins a latch, in the place of one of the same page. -/
def latchAdd (s : State) (a : Ahead) (p : BitVec 128) : State :=
  let held := SMap.get (s.tile a.tile).xlat [] a.port
  let new : Trans := { vpn := vpnOf a.va, pte := p }
  s.setTile a.tile { s.tile a.tile with
    xlat := SMap.insert (s.tile a.tile).xlat a.port
      (if held.any fun e => decide (e.vpn = new.vpn) then held.map fun e => if e.vpn = new.vpn then new else e else held ++ [new]) }

/-- What a PTE gives a latch that asked ahead: it is taken where it serves the part and the permissions without a change of A or D,
which are set for accesses performed alone (R178). -/
def answerAhead (s : State) (a : Ahead) (p : BitVec 128) : State :=
  if serves p a.va a.need && pteA p && takesAhead (SMap.get (s.tile a.tile).xlat [] a.port) a then latchAdd s a p else s

/-- A run-ahead request that misses at the slice of field o joins or queues as a miss (R176). -/
def askAhead (s : State) (o : Nat) (a : Ahead) : State :=
  let vpn := vpnOf a.va
  let ws := missesWith s o vpn fun m => { m with ahead := if m.ahead.contains a then m.ahead else m.ahead ++ [a] }
  let s := noteMiss (if hasMiss s o vpn then s else sliceAsk s (fieldOfTile a.tile) o) o vpn
  s.setField o { s.field o with walks := ws }

/-- A run-ahead request of a latch (R177, R178). -/
def runAhead (s : State) (a : Ahead) : State :=
  let o := sliceOwner s (leadOf s (quarterOfDie (dieOfField (fieldOfTile a.tile)))) (vpnOf a.va)
  if !takesAhead (SMap.get (s.tile a.tile).xlat [] a.port) a then s
  else
    match (sliceFind (s.field o) (vpnOf a.va)).filter fun p => serves p a.va a.need with
    | some p => answerAhead (sliceAsk s (fieldOfTile a.tile) o) a p
    | none => askAhead s o a

/-- One request that waits ahead of need for a walk gets what the walk read: a page that would fault for it is dropped; one that
needs no change is installed, and its latch takes it (R173, R178). -/
def walkedAhead (lead : Nat) (s : State) (a : Ahead) : State :=
  match pteAddr s lead a.va with
  | .error _ => s
  | .ok b =>
    let p := readEntry s b
    if (checkPte s lead a.va p a.need).isNone && serves p a.va a.need && pteA p then
      answerAhead (sliceInstall s lead (vpnOf a.va) p) a p
    else s

/-- The walk of a page ends: its miss leaves the slice of field o, and what was asked ahead is answered (R176). -/
def closeMiss (s : State) (lead o vpn : Nat) : State :=
  let f := s.field o
  let done := f.walks.filter fun m => decide (m.vpn = vpn)
  foldState (walkedAhead lead) (s.setField o { f with walks := f.walks.filter fun m => decide (m.vpn ≠ vpn) }) (done.flatMap Miss.ahead)

/-- A miss of a page at its slice (R176): up to 512 walks run at once, others wait in arrival order; one that has to wait for
its table stays in hand. -/
def walkMiss (s : State) (lead va : Nat) (n : Need) (commit : Bool) : State × Xl :=
  let vpn := vpnOf va
  let o := sliceOwner s lead vpn
  let ws := missesWith s o vpn fun m => { m with asks := if m.asks.contains s.src then m.asks else m.asks ++ [s.src] }
  let s := noteMiss s o vpn
  let keep (s : State) : State := s.setField o { s.field o with walks := ws }
  if 512 ≤ (ws.map Miss.vpn).idxOf vpn then (keep s, .wait)
  else
    match walkTables s lead va n commit with
    | (s, .wait) => (keep s, .wait)
    | (s, x) => (closeMiss s lead o vpn, x)

/-- Translate one page for field f: by the port's latch, by the owning slice, or by a new walk (R170, R173, R176,
R177). A fault installs nothing, nor does a translation that does not commit. DESIGN CHOICE (notes/assumptions/55.md): what an
access names beyond the last virtual address is VA-INVALID, and the record's VA is that address cut to 48 bits, 0. -/
def translate (s : State) (f : Nat) (latch : Option (Nat × Nat)) (va : Nat) (n : Need) (commit : Bool) : State × Xl :=
  let lead := leadOf s (quarterOfDie (dieOfField f))
  let vpn := vpnOf va
  let held : Option (BitVec 128) := match latch with
    | none => none
    | some (t, k) => ((SMap.get (s.tile t).xlat [] k).find? fun e => decide (e.vpn = vpn)).map Trans.pte
  let use (s : State) (p : BitVec 128) : State := if commit then latchInstall s latch vpn p else s
  if 2 ^ 48 ≤ va then (s, .fault codeVaInvalid false)
  else
    match held.filter fun p => serves p va n with
    | some p => (use s p, .ok p)
    | none =>
      let o := sliceOwner s lead vpn
      match (sliceFind (s.field o) vpn).filter fun p => serves p va n with
      | some p => (use (sliceAsk s f o) p, .ok p)
      | none =>
        match walkMiss (if hasMiss s o vpn then s else sliceAsk s f o) lead va n commit with
        | (s, .ok p) => (use (if commit then sliceInstall s lead vpn p else s) p, .ok p)
        | (s, x) => (s, x)

/-! ### The region table (R185, R187) -/

def regBaseVa (e : BitVec 128) : Nat := bitsOf e.toNat 86 42 * 64
def regSize (e : BitVec 128) : Nat := bitsOf e.toNat 54 32 * 64
def regKind (e : BitVec 128) : Nat := bitsOf e.toNat 52 2
def regGuard (e : BitVec 128) : Nat := bitsOf e.toNat 44 8
def regSg (e : BitVec 128) : Nat := bitsOf e.toNat 38 6
def regRule (e : BitVec 128) : Nat := bitsOf e.toNat 35 3
def regWs (e : BitVec 128) : Bool := bitOf e.toNat 34
def regClear (e : BitVec 128) : Bool := bitOf e.toNat 33
def regNmem (e : BitVec 128) : Nat := bitsOf e.toNat 25 8
def regValid (e : BitVec 128) : Bool := decide (regKind e = 1) || decide (regKind e = 2)

/-- The valid regions that overlap [va, va + n). -/
def regionsAt (f : FieldSt) (va n : Nat) : List (BitVec 128) :=
  (f.regions.map (·.2)).filter fun e =>
    regValid e && decide (va < regBaseVa e + regSize e) && decide (regBaseVa e < va + n)

/-- The region that governs an access: none where plain, an error where it is split (R187). -/
def governs (f : FieldSt) (va n : Nat) : Except Unit (Option (BitVec 128)) :=
  match regionsAt f va n with
  | [] => .ok none
  | [e] => if regBaseVa e ≤ va ∧ va + n ≤ regBaseVa e + regSize e then .ok (some e) else .error ()
  | _ => .error ()

/-- The physical pieces (address, length) of a virtual range, part by part, where the PTEs found for it hold the part here. -/
def piecesBy (ptes : Nat → List (BitVec 128)) (va n : Nat) : List (Nat × Nat) :=
  (List.range (n / 0x10000 + 2)).flatMap fun i =>
    let lo := Nat.max va ((va / 0x10000 + i) * 0x10000)
    let hi := Nat.min (va + n) ((va / 0x10000 + i + 1) * 0x10000)
    if lo < hi then
      (((ptes lo).filter fun p => partResident p (bitsOf lo 16 5)).map fun p =>
        (ptePpn p * pageSize + lo % pageSize, hi - lo)).dedup
    else []

/-- The PTEs by which a page is translated in a lead's partition: that of the tables, and those installed earlier that a slice or
a latch still holds, which stay usable (R177, R215). -/
def mappings (s : State) (lead va : Nat) : List (BitVec 128) :=
  let vpn := vpnOf va
  (tablePte s lead va).toList ++ (sliceFind (s.field (sliceOwner s lead vpn)) vpn).toList ++
    (s.tiles.filter fun e => decide (leadOf s (quarterOfDie (dieOfTile e.1)) = lead)).flatMap fun e =>
      e.2.xlat.flatMap fun l => (l.2.filter fun r => decide (r.vpn = vpn)).map Trans.pte

/-- The physical pieces of a virtual range, by every translation of it that is in use. -/
def rangePieces (s : State) (lead va n : Nat) : List (Nat × Nat) := piecesBy (mappings s lead) va n

/-- The physical pieces of a virtual range as a new walk finds them. -/
def walkedPieces (s : State) (lead va n : Nat) : List (Nat × Nat) := piecesBy (fun a => (peekPte s lead a).toList) va n

/-- The physical pieces of a field's regions that satisfy a test. -/
def regionPieces (s : State) (f : Nat) (sel : BitVec 128 → Bool) : List (Nat × Nat) :=
  (((s.field f).regions.map (·.2)).filter sel).flatMap fun e =>
    rangePieces s (leadOf s (quarterOfDie (dieOfField f))) (regBaseVa e) (regSize e)

/-- Whether a physical address lies in one of the pieces. -/
def inPieces (ps : List (Nat × Nat)) (pa : Nat) : Bool := ps.any fun p => decide (p.1 ≤ pa) && decide (pa < p.1 + p.2)

/-- The pieces of the regions bound to a guard. -/
def guardPieces (s : State) (f g : Nat) : List (Nat × Nat) :=
  regionPieces s f fun e => decide (regKind e = 1) && decide (regGuard e = g)

/-! ### Plane shadows (R219) -/

/-- Whether a tile's type is MT. -/
def isMt (s : State) (t : Nat) : Bool := decide (hdrType (cfgHeader (s.tile t).cfg) = 2)

/-- Whether a tile store holds a byte of a PLANE region of an admitted graph at offsets below 0x20000. -/
def hostsPlane (s : State) (t : Nat) : Bool :=
  s.graphs.any fun g =>
    (regionPieces s (graphHome s g) fun e => decide (regKind e = 2)).any fun p =>
      decide (p.1 < tileStore t + 0x20000) && decide (tileStore t < p.1 + p.2)

/-- Whether a byte range touches a plane shadow. -/
def inShadow (s : State) (pa n : Nat) : Bool :=
  isTileStore pa &&
    (let t := tileOfPa pa
     let o := pa - tileStore t
     decide (o < 0x50000) && decide (0x20000 < o + n) && isMt s t && hostsPlane s t)

/-! ### Cutting an access into parts (R171, R228) -/

/-- Cut [va, va + n) where the unit u of page offsets ends: the pieces as (offset, length). -/
def cutAt (u va : Nat) : Nat → Nat → Nat → List (Nat × Nat)
  | 0, _, _ => []
  | fuel + 1, off, n =>
    if n = 0 then []
    else
      let a := va + off
      let o := a % pageSize
      let stop := Nat.min (a - o + (o / u + 1) * u) (a - o + pageSize)
      let k := Nat.min n (stop - a)
      if k = 0 then [] else (off, k) :: cutAt u va fuel (off + k) (n - k)

/-- A translated run of an access: offset, length, PTE, whether it is remote. -/
abbrev Run := Nat × Nat × BitVec 128 × Bool

/-- Join runs of one page and one status. -/
def joinRuns (va : Nat) : List Run → List Run
  | [] => []
  | [r] => [r]
  | (o, n, p, m) :: rest =>
    match joinRuns va rest with
    | (o', n', p', m') :: more =>
      if m = m' ∧ p = p' ∧ (va + o) / pageSize = (va + o') / pageSize then (o, n + n', p, m) :: more
      else (o, n, p, m) :: (o', n', p', m') :: more
    | [] => [(o, n, p, m)]

/-- The parts of a run: DRAM lines, or 64-byte blocks of a tile store. -/
def runParts (va : Nat) (r : Run) : List Part :=
  let (o, n, p, m) := r
  (cutAt (if pteTile p then 64 else 192) va (n + 1) o n).map fun c =>
    { off := c.1, len := c.2, va := va + c.1, pa := ptePpn p * pageSize + (va + c.1) % pageSize, gran := pteGran p,
      et := pteEt p && !pteTile p, remote := m, sent := false, done := false, bytes := [], bad := [] }

/-- Translate every 64 KiB part an access touches, in order; the first fault names its first byte. -/
def translateRuns (s : State) (f : Nat) (latch : Option (Nat × Nat)) (va : Nat) (n : Need) (commit : Bool) :
    List (Nat × Nat) → State × Except (Option (Nat × Bool × Nat)) (List Run)
  | [] => (s, .ok [])
  | (o, k) :: rest =>
    match translate s f latch (va + o) n commit with
    | (s, .wait) => (s, .error none)
    | (s, .fault c w) => (s, .error (some (c, w, va + o)))
    | (s, .ok p) =>
      match translateRuns s f latch va n commit rest with
      | (s, .error e) => (s, .error e)
      | (s, .ok rs) => (s, .ok ((o, k, p, !partResident p (bitsOf (va + o) 16 5)) :: rs))

end Sys2Proof.Machine
end

