-- ==== Sys2Proof/Machine/Access.lean ====
section
/-! DEFINITION. The accesses of the stream ports: firing (R225, R226), translation of a slot's accesses in order,
region checks (R229), performance of their parts (R227 to R237, R244 to R249), emission in firing order. -/

namespace Sys2Proof.Machine

/-! ### What an instruction asks of memory -/

/-- The memory operations of opcodes 0x80 to 0x9F. -/
inductive MemOp where
  | ld (bytes : Nat) (signed evf : Bool)
  | ldb (eos evf : Bool)
  | st (bytes : Nat)
  | stb
  | pld (bytes : Nat)
  | pst (bytes : Nat)
  | step (sg : Nat)
  | acq (g : Nat) (shared : Bool)
  | rel (g : Nat)
  | fence (publish plane : Bool)
  | amo (o : AmoOp) (bytes : Nat)
  | red (o : RedOp) (bytes : Nat)
  | pref (l2 evf : Bool)
  | retain
  | unpin
  | flush (dram : Bool)
  | sld
  | sst
  deriving DecidableEq, Repr

def wordBytes (d : Bool) : Nat := if d then 8 else 4

/-- The memory operation of an instruction. -/
def memOp : Instr → Option MemOp
  | .ld w _ e s _ _ => some (.ld (w.bits / 8) s e)
  | .ldb _ e s _ _ => some (.ldb s e)
  | .st w _ _ _ => some (.st (w.bits / 8))
  | .stb _ _ => some .stb
  | .pld d _ _ _ => some (.pld (wordBytes d))
  | .pst d _ _ => some (.pst (wordBytes d))
  | .step s _ _ => some (.step s.toNat)
  | .acqX _ g _ => some (.acq g.toNat false)
  | .acqS _ g _ => some (.acq g.toNat true)
  | .rel _ g _ => some (.rel g.toNat)
  | .fenceF _ _ => some (.fence false false)
  | .fenceD _ _ => some (.fence true false)
  | .fenceP _ _ => some (.fence false true)
  | .fenceS _ _ => some (.fence true false)
  | .amoAdd d _ _ _ => some (.amo (.red .add) (wordBytes d))
  | .amoFadd _ _ _ => some (.amo (.red .fadd) 4)
  | .amoMin d _ u _ _ => some (.amo (.red (if u then .minU else .min)) (wordBytes d))
  | .amoMax d _ u _ _ => some (.amo (.red (if u then .maxU else .max)) (wordBytes d))
  | .amoAnd d _ _ _ => some (.amo (.red .and) (wordBytes d))
  | .amoOr d _ _ _ => some (.amo (.red .or) (wordBytes d))
  | .amoXor d _ _ _ => some (.amo .xor (wordBytes d))
  | .amoSwap d _ _ _ => some (.amo .swap (wordBytes d))
  | .amoCas d _ _ => some (.amo .cas (wordBytes d))
  | .redAdd d _ _ _ => some (.red .add (wordBytes d))
  | .redFadd _ _ _ => some (.red .fadd 4)
  | .redMin d _ u _ _ => some (.red (if u then .minU else .min) (wordBytes d))
  | .redMax d _ u _ _ => some (.red (if u then .maxU else .max) (wordBytes d))
  | .redAnd d _ _ _ => some (.red .and (wordBytes d))
  | .redOr d _ _ _ => some (.red .or (wordBytes d))
  | .pref _ e l => some (.pref l e)
  | .retain _ _ => some .retain
  | .unpin _ _ => some .unpin
  | .flush _ d _ _ => some (.flush d)
  | .sld _ _ _ => some .sld
  | .sst _ _ _ => some .sst
  | _ => none

/-- The ACC code of a record (R346): 1 load, 2 store, 3 atomic, 4 reduction, 5 plane, 6 stream register. -/
def MemOp.acc : MemOp → Nat
  | .ld _ _ _ | .ldb _ _ | .pref _ _ | .retain | .unpin => 1
  | .st _ | .stb | .flush _ => 2
  | .amo _ _ => 3
  | .red _ _ => 4
  | .pld _ | .pst _ | .step _ => 5
  | .sld | .sst => 6
  | .acq _ _ | .rel _ | .fence _ _ => 0

/-- The permissions of R172. FLUSH faults as a store does (R249). DESIGN CHOICE (notes/assumptions/45.md): FLUSH, and an AMO.CAS
that writes nothing, count as a write that sets D (R173). -/
def MemOp.need : MemOp → Need
  | .st _ | .stb | .pst _ | .flush _ | .sst => Need.write
  | .amo _ _ | .red _ _ => Need.atomic
  | _ => Need.read

/-- Loads, stores, and AMO as both (R280). -/
def MemOp.isLoad : MemOp → Bool
  | .ld _ _ _ | .ldb _ _ | .pld _ | .sld | .amo _ _ => true
  | _ => false
def MemOp.isStore : MemOp → Bool
  | .st _ | .stb | .pst _ | .red _ _ | .flush _ | .sst | .amo _ _ => true
  | _ => false

/-- The bytes an access names. -/
def MemOp.len (o : MemOp) (a : Access) : Nat :=
  match o with
  | .ld n _ _ | .st n | .pld n | .pst n | .amo _ n | .red _ n => n
  | .ldb _ _ => a.data.toNat % 8192
  | .stb | .sst => a.block.length
  | .sld => a.p.toNat
  | .pref _ _ | .flush _ => 1
  | .step _ | .acq _ _ | .rel _ | .fence _ _ | .retain | .unpin => 0

/-- Whether an operation must be naturally aligned (R228). -/
def MemOp.aligned : MemOp → Bool
  | .pld _ | .pst _ | .amo _ _ | .red _ _ => true
  | _ => false

/-- The stream port of a slot: %56 + k is port k (R87). -/
def portOfSlot (x : Nat) : Nat := slotNo x - 56

/-! ### Emission in firing order (R226) -/

/-- The head of a slot's emission order leaves, one token at a time: a ready entry emits its next token when every
target has room; a stale one is discarded into STRAY. A slot that withholds emits nothing (R179), nor does one whose tile has
met its rates: its tokens wait for the firing to complete (R41). -/
def emitOut (s : State) (x : Nat) : State :=
  let v := s.slot x
  match v.outs with
  | [] => s
  | o :: rest =>
    if !o.ready then s
    else if o.stale then addStray (s.setSlot x { v with outs := rest }) (tileOf x) o.toks.length
    else if v.wh.isSome || (s.tile (tileOf x)).met then s
    else
      match o.toks with
      | [] => s.setSlot x { v with outs := rest }
      | tok :: toks =>
        if targetsFree s x o.tgts then
          let s := s.setSlot x { v with outs := if toks = [] then rest else { o with toks := toks } :: rest }
          emitAll s x tok (s.now + 1) (s.now + 1) 0 false o.tgts
        else s

/-- Note the tokens of a firing: they may leave once those before them have. -/
def readyOut (s : State) (x id : Nat) (toks : List Token) : State :=
  let v := s.slot x
  emitOut (s.setSlot x { v with outs := v.outs.map fun o => if o.id = id then { o with toks := toks, ready := true } else o }) x

/-- Queue a firing's tokens, known or to come. -/
def queueOut (s : State) (x : Nat) (o : OutE) : State :=
  let v := s.slot x
  s.setSlot x { v with outs := v.outs ++ [o] }

/-- An access has been performed: it leaves the slot, its tokens are ready (R226). -/
def finishAccess (s : State) (x id : Nat) (toks : List Token) : State :=
  let v := s.slot x
  let s := s.setSlot x { v with accs := v.accs.filter fun a => a.id ≠ id, cmds := v.cmds.filter fun c => c ≠ id }
  readyOut (noteProgress s (tileOf x)) x id toks

/-! ### Firing (R225) -/

/-- What a memory firing does with the tokens it sees: wait, fault, or fire. -/
inductive MemPlan where
  | wait
  | fault (code : Nat)
  /-- Forward a marker from a latch. -/
  | forward (p : Pos) (tok : Token)
  /-- Consume and make no access: a false predicate, or DRAIN (R48, R124). -/
  | drop (ps : List Pos)
  | go (r : List (Pos × Token))
  deriving DecidableEq, Repr

/-- Operations that count as accesses for a fence: those that reach memory. -/
def MemOp.isAccess : MemOp → Bool
  | .step _ | .acq _ _ | .rel _ | .fence _ _ => false
  | _ => true

/-- Whether L is an address, not a trigger or a rank: only a poisoned address raises POISON (R43, R225). -/
def takesAddress (i : Instr) : Bool :=
  match memOp i with
  | some o => o.isAccess
  | none => false

/-- The markers, the predicate and the poison of the address, in the order of R225. DESIGN CHOICE (notes/assumptions/55.md): a
firing that its predicate suppresses does not use its address, so that a poisoned one raises nothing (R43). -/
def memPlan (s : State) (x : Nat) (i : Instr) : MemPlan :=
  match headAt s x .l with
  | none => .wait
  | some l =>
    if l.tok.kind ≠ .data then .forward .l l.tok
    else
      match readAll s x (latchesRead i) with
      | none => .wait
      | some r =>
        match (r.filter fun a => decide (a.1 ≠ .l)).find? fun a => decide (a.2.kind = .eot) || decide (a.2.kind = .ord) with
        | some a => .forward a.1 a.2
        | none =>
          if r.any fun a => decide (a.2.kind = .eos) then
            if drainOf s x then .drop ((r.filter fun a => decide (a.2.kind = .data)).map (·.1)) else .fault codeStreamSkew
          else
            let pm := predicateOf i
            if pm ≠ .always ∧ (tokenAt r .p).psn then .fault codePoison
            else if suppressed pm (tokenAt r .p).data then .drop (r.map (·.1))
            else if (tokenAt r .l).psn ∧ takesAddress i then .fault codePoison
            else .go r

/-- A new access of slot x. -/
def mkAccess (s : State) (x : Nat) (i : Instr) (r : List (Pos × Token)) (parts : Option (List Part)) : Access :=
  { id := s.nextId, i := i, va := (tokenAt r .l).data, data := (tokenAt r .r).data, p := (tokenAt r .p).data,
    psn := (tokenAt r .r).psn, block := [], ks := ((s.tile (tileOf x)).ks.take 4).map KCtr.val, firedAt := s.now,
    held := false, parts := parts }

/-- Add an access, and its place in the emission order. -/
def addAccess (s : State) (x : Nat) (a : Access) (i : Instr) (lock : Bool) : State :=
  let s := { s with nextId := s.nextId + 1 }
  let v := s.slot x
  let s := s.setSlot x { v with accs := v.accs ++ [a] }
  queueOut s x { id := a.id, toks := [], tgts := targetsOf i, ready := false, lock := lock, stale := false }

/-- A part that stands for an action below the port, without bytes of its own. -/
def actionPart : Part :=
  { off := 0, len := 0, va := 0, pa := 0, gran := 0, et := false, remote := false, sent := false, done := false,
    bytes := [], bad := [] }

/-- Whether a memory slot may fire: tokens and plan apart (R226, R232). -/
def portReady (s : State) (x : Nat) : Bool :=
  slotReady s x && decide ((s.slot x).accs.length < 64) && !((s.slot x).outs.any fun o => o.lock)

/-- The VA of a record the data of a firing raises: L's address, or zero where L holds none, as of a STEP, an ACQ or a REL
(R346). -/
def faultVa (i : Instr) (r : List (Pos × Token)) : DWord :=
  match memOp i with
  | some (.step _) | some (.acq _ _) | some (.rel _) | some (.fence _ _) | none => 0
  | _ => BitVec.ofNat 64 ((tokenAt r .l).data.toNat % 2 ^ 48)

/-- A memory firing: check says the fault the data itself raises, go what firing does beside consuming. -/
def memFire (s : State) (i : Instr) (check : List (Pos × Token) → Option Nat)
    (go : State → List (Pos × Token) → State) : Out :=
  let x := s.foc
  let port := portOfSlot x
  let acc := ((memOp i).map MemOp.acc).getD 0
  if !portReady s x then .next s
  else
    .next <| match memPlan s x i with
    | .wait => s
    | .fault c => firingFault s x c acc port 0 0
    | .forward p tok =>
      let s := noteFiring (consume s x p) x
      let id := s.nextId
      emitOut (queueOut { s with nextId := s.nextId + 1 } x
        { id := id, toks := [tok], tgts := targetsOf i, ready := true, lock := false, stale := false }) x
    | .drop ps => noteFiring (consumeAll s x ps) x
    | .go r =>
      match check r with
      | some c => firingFault s x c acc port (faultVa i r) 0
      | none => go (noteFiring (consumeAll s x (r.map (·.1))) x) r

/-- An access that is translated later and performed part by part. -/
def fireAccess (s : State) (i : Instr) (lock : Bool) (check : List (Pos × Token) → Option Nat) : Out :=
  memFire s i check fun t r => addAccess t t.foc (mkAccess t t.foc i r none) i lock

/-- The alignment of R228. -/
def misaligned (n : Nat) (r : List (Pos × Token)) : Bool := decide ((tokenAt r .l).data.toNat % n ≠ 0)

/-! ### Checks made once every part is translated (R218, R229, R230, R298, R299) -/

/-- The peer of a partition's remote parts, if it may be addressed (R298). -/
def remotePeer (s : State) (lead : Nat) : Option PeerSt :=
  let q := s.quarter lead
  let p := SMap.get q.peers PeerSt.reset q.rem.rpeer.toNat
  if q.rem.en && p.en then some p else none

/-- The peer that REMCTL names. -/
def namedPeer (s : State) (lead : Nat) : PeerSt :=
  SMap.get (s.quarter lead).peers PeerSt.reset (s.quarter lead).rem.rpeer.toNat

/-- Whether the tile holds a guard exclusively. -/
def holdsExcl (s : State) (t g : Nat) : Bool :=
  match (s.tile t).owner.bind fun o => s.graph? o.1 with
  | none => false
  | some a => decide ((SMap.get a.guards Guard.free g).excl = some t)

/-- Whether a tile holds a guard in either mode. -/
def holdsGuard (s : State) (t g : Nat) : Bool :=
  holdsExcl s t g ||
    (match (s.tile t).owner.bind fun o => s.graph? o.1 with
     | none => false
     | some a => (SMap.get a.guards Guard.free g).shared.contains t)

/-- The remote check of one part: its fault, if any. -/
def remoteFault (s : State) (lead : Nat) (o : MemOp) (p : Part) : Option (Nat × Nat) :=
  if !p.remote then none
  else
    match remotePeer s lead with
    | none => some (codePaInvalid, p.va)
    | some r => if r.mode = 2 ∧ o.isStore then some (codeAccessDenied, p.va) else none

/-- The fault of a plane access on its region and place (R218, R244, R245). -/
def planeFault (s : State) (o : MemOp) (a : Access) (reg : Option (BitVec 128)) (ps : List Part) : Option Nat :=
  match reg with
  | none => some codePlaneHome
  | some e =>
    if regKind e ≠ 2 then some codePlaneHome
    else
      match ps with
      | [p] =>
        let t := tileOfPa p.pa
        if p.remote || !isTileStore p.pa || !isMt s t || decide (0x20000 ≤ p.pa - tileStore t) then some codePlaneHome
        else if regWs e ≠ decide (o.len a = 8) then some codePlaneHome
        else if (match o with
          | .pst _ => decide (regNmem e < a.p.toNat % 256)
          | _ => false) then some codePlaneHome
        else none
      | _ => some codePlaneHome

/-- The region check and the poison of a store or atomic (R229, R230). -/
def placeFault (s : State) (t : Nat) (o : MemOp) (a : Access) (reg : Option (BitVec 128)) (ps : List Part) : Option Nat :=
  match o with
  | .pld _ | .pst _ => planeFault s o a reg ps
  | _ =>
    let kind := (reg.map regKind).getD 0
    if kind = 2 then some codePlaneHome
    else if decide (kind = 1) && o.isStore && (match o with
        | .flush _ => false
        | _ => true) && !holdsExcl s t ((reg.map regGuard).getD 0) then some codeGuardNotHeld
    else if ps.any fun p => !p.remote && inShadow s p.pa p.len then some codePlaneHome
    else if a.psn && (match o with
        | .st _ | .stb | .sst => ps.any fun p => !p.remote && isTileStore p.pa
        | _ => false) then some codePoison
    else none

/-- The outcome of translating an access. -/
inductive AccXl where
  | wait
  | fault (code acc va : Nat)
  | ok (ps : List Part)
  deriving DecidableEq, Repr

/-- The pages of an access of slot x, translated 64 KiB part by part. -/
def accessRuns (s : State) (x : Nat) (o : MemOp) (a : Access) (commit : Bool) :
    State × Except (Option (Nat × Bool × Nat)) (List Run) :=
  let n := o.len a
  translateRuns s (fieldOf x) (some (tileOf x, portOfSlot x)) a.va.toNat o.need commit
    (cutAt 0x10000 a.va.toNat (n + 1) 0 n)

/-- Translate an access of slot x whole: every 64 KiB part it touches, then the remote, region and place checks. Only an access
that passes them all sets A and D and has its PTEs installed (R178). DESIGN CHOICE (notes/assumptions/56.md): the remote check
comes first, so that a PLD or PST of a remote part whose peer is off or in mode RUDI raises PA-INVALID or ACCESS-DENIED, not
PLANE-HOME. -/
def translateAccess (s : State) (x : Nat) (o : MemOp) (a : Access) : State × AccXl :=
  let t := tileOf x
  let f := fieldOf x
  let lead := leadOf s (quarterOfDie (dieOfField f))
  let va := a.va.toNat
  match accessRuns s x o a false with
  | (s, .error none) => (s, .wait)
  | (s, .error (some (c, w, b))) => (s, .fault c (if w then 10 else o.acc) b)
  | (u, .ok rs) =>
    let ps := (joinRuns va rs).flatMap (runParts va)
    match ps.findSome? (remoteFault s lead o) with
    | some (c, b) => (u, .fault c 9 b)
    | none =>
      match governs (s.field f) va (o.len a) with
      | .error _ => (u, .fault codeRegionSplit o.acc va)
      | .ok reg =>
        match placeFault s t o a reg ps with
        | some c => (u, .fault c o.acc va)
        | none => ((accessRuns s x o a true).1, .ok ps)

/-- Drop an access without performing it, with the command it belongs to. -/
def dropAccess (s : State) (x id : Nat) : State :=
  let v := s.slot x
  let s := s.setSlot x { v with accs := v.accs.filter fun a => a.id ≠ id, cmds := v.cmds.filter fun c => c ≠ id }
  let f := s.field (fieldOf x)
  s.setField (fieldOf x) { f with slds := f.slds.filter fun c => c.id ≠ id }

/-- A fault of access id of slot x: the slot withholds on it, nothing of the access is performed (R179, R180). -/
def accessFault (s : State) (x : Nat) (a : Access) (code acc va : Nat) (detail : DWord) : State :=
  let t := tileOf x
  match (s.tile t).owner.bind fun o => s.graph? o.1 with
  | none => s
  | some g =>
    let v := s.slot x
    let rid := s.nextId
    let accs := v.accs.map fun b => if b.id = a.id then { b with held := true } else b
    let s' := raiseFault (s.setSlot x { v with wh := some rid, accs := accs }) t { tileRec s t g with
      code := code, acc := acc, unit := portOfSlot x, slot := slotNo x, va := BitVec.ofNat 64 (va % 2 ^ 48),
      ks := a.ks, detail := detail, stamp := slotStamp s x, src := .access x a.id }
    if (s'.slot x).wh = some rid then s' else dropAccess s' x a.id

/-- The identifier of a burst of slot x: it dates from the first beat, for a fence fired meanwhile (R243, R277). -/
def burstBegin (s : State) (x : Nat) : State :=
  let v := s.slot x
  if v.burstId.isSome then s else { s with nextId := s.nextId + 1 }.setSlot x { v with burstId := some s.nextId }

/-- The beats and the identifier of a burst are gone. -/
def burstEnd (s : State) (x : Nat) : State :=
  s.setSlot x { s.slot x with burst := [], burstPsn := false, burstId := none }

/-- Replace an access of a slot. -/
def setAccess (s : State) (x : Nat) (a : Access) : State :=
  let v := s.slot x
  s.setSlot x { v with accs := v.accs.map fun b => if b.id = a.id then a else b }

/-- Translate the oldest access of slot x that has not been (R226). A PREF that fails is dropped (R170, R247);
RETAIN and UNPIN check only the address itself, and take their pages one by one as they act (R248). Behind an access on which
the slot withholds none is issued (R179); one fired before a firing on which it withholds is, but a fault of it waits, since a
slot withholds on one record (notes/assumptions/46.md). -/
def walkSlot (s : State) (x : Nat) : State :=
  let s := s.by (slotSource x)
  if (s.slot x).accs.any (·.held) then s
  else
    match (s.slot x).accs.find? fun a => a.parts.isNone with
    | none => s
    | some a =>
      match memOp a.i with
      | none => s
      | some o =>
        match o with
        | .retain | .unpin =>
          if 2 ^ 48 ≤ a.va.toNat then
            if (s.slot x).wh.isSome then s else accessFault s x a codeVaInvalid o.acc a.va.toNat 0
          else setAccess s x { a with parts := some [actionPart] }
        | _ =>
          match translateAccess s x o a with
          | (s, .wait) => s
          | (s, .fault c acc va) =>
            match o with
            | .pref _ _ => finishAccess s x a.id []
            | _ => if (s.slot x).wh.isSome then s else accessFault s x a c acc va 0
          | (s, .ok ps) => setAccess s x { a with parts := some ps }

/-! ### Walks that no access ends (R176 to R178) -/

/-- Whether access a of a slot still asks for a page: it is not translated, or it takes its pages as it acts. -/
def asksPage (a : Access) (vpn : Nat) : Bool :=
  match memOp a.i with
  | none => false
  | some o =>
    let n := if o = .retain ∨ o = .unpin then a.data.toNat % 2 ^ 32 else o.len a
    (a.parts.isNone || o == .retain || o == .unpin) && decide (vpnOf a.va.toNat ≤ vpn) && decide (pageSize * vpn < a.va.toNat + n)

/-- Whether a source still waits for a walk of a page: a slot by an access of its own, or a SPAWN; an engine, or a sequencer, while its
field, or a graph or a pass, has work that may wait for one. -/
def asksStill (s : State) (vpn src : Nat) : Bool :=
  let f := 320 * (src / 2 ^ 25 % 8) + src / 2 ^ 16 % 512
  let x := 64 * (64 * f + src / 2 ^ 10 % 64) + src / 16 % 64
  let spawns : Bool := match slotInstr s x with
    | some (.spawn _ _ _) => decide ((s.tile (tileOf x)).armed ≠ 0)
    | _ => false
  if src / 2 ^ 28 = 0 then spawns || (s.slot x).accs.any fun a => asksPage a vpn
  else if src / 2 ^ 28 = 1 then
    let v := s.field f
    decide (v.slds ≠ []) || (v.queues.any fun e => decide (e.2 ≠ [])) || v.chans.any fun e => decide (e.2.st ≠ 0)
  else decide (s.graphs ≠ []) || [0, 1, 2, 3].any fun q => (s.quarter q).pass.isSome || (s.quarter q).placing.isSome

/-- A walk that no access waits for ends at the edge, as a request of the port that asked ahead, where that does not come too late for
the order at the homes (R291); where nothing waits for it at all it is dropped (R178). -/
def endWalk (o : Nat) (s : State) (m : Miss) : State :=
  let lead := leadOf s (quarterOfDie (dieOfField o))
  match m.ahead with
  | [] => closeMiss s lead o m.vpn
  | a :: _ =>
    match walkTables (s.by (slotSource (64 * a.tile + 56 + a.port))) lead (pageSize * m.vpn) Need.none false with
    | (_, .wait) => s
    | (t, _) => if t.late then s else { closeMiss t lead o m.vpn with src := s.src }

/-- The edge in the slice of field o: accesses that are gone no longer ask; of the walks that run, up to 512, those end that no
access waits for, and the others go on. -/
def walksEdge (s : State) (o : Nat) : State :=
  let f := s.field o
  if f.walks = [] then s
  else
    let s := s.setField o { f with walks := f.walks.map fun m => { m with asks := m.asks.filter (asksStill s m.vpn) } }
    foldState (endWalk o) s (((s.field o).walks.take 512).filter fun m => decide (m.asks = []))

/-! ### Order among the accesses of one agent (R280, R299) -/

/-- Whether two parts share a byte. -/
def partsOverlap (p q : Part) : Bool :=
  p.remote == q.remote && decide (p.pa < q.pa + q.len) && decide (q.pa < p.pa + p.len)

/-- Whether part p of an earlier access has to be performed, or sent, before part q of a later one of the agent: by R280; two
remote parts by their peer's mode, ROD in firing order, RUD where their bytes overlap, RUDI in any order (R299). -/
def partsOrdered (mode : BitVec 2) (oa ob : MemOp) (p q : Part) : Bool :=
  let ma := oa.isLoad || oa.isStore
  let mb := ob.isLoad || ob.isStore
  if p.remote && q.remote then
    ma && mb && !p.sent && (if mode = 0 then true else if mode = 1 then partsOverlap p q else false)
  else (ob.isStore && ma) || (ob.isLoad && ma && partsOverlap p q)

/-- Whether an earlier access still stands in the way of a part of a later one. -/
def standsBefore (mode : BitVec 2) (oa : MemOp) (a : Access) (ob : MemOp) (q : Part) : Bool :=
  match a.parts with
  | none => true
  | some ps => ps.any fun p => !p.done && partsOrdered mode oa ob p q

/-- The delivery mode of the peer that holds the remote parts of a field's partition. -/
def remoteMode (s : State) (f : Nat) : BitVec 2 :=
  ((remotePeer s (leadOf s (quarterOfDie (dieOfField f)))).map PeerSt.mode).getD 0

/-- Whether the remote parts of a store no longer stand in the way of a resident one: they have been sent, and those of an SST
reported, so that a fault leaves nothing stored, and a kill all of an SST or nothing (R8, R138). -/
def remotesSent (b : Access) (ob : MemOp) (q : Part) : Bool :=
  q.remote || !ob.isStore || (b.parts.getD []).all fun p => !p.remote || p.done || (p.sent && decide (ob ≠ .sst))

/-- The group of a plane access of slot x. -/
def groupOf (s : State) (x : Nat) (va : Nat) : Option Nat :=
  (regionsAt (s.field (fieldOf x)) va 1).head?.map regSg

/-- Whether a tile is a member of a step group: a slot of it issues STEP for the group (R220). -/
def isMember (s : State) (t n : Nat) : Bool :=
  (List.range 8).any fun k => decide ((slotInstr s (64 * t + 56 + k)).bind memOp = some (.step n))

/-- Whether a PST of another port of a member has to be performed before part q of PST b of slot x: those of one member to one
word go in its program order, in which they fired (R220). -/
def pstBefore (s : State) (x : Nat) (b : Access) (q : Part) : Bool :=
  ((groupOf s x b.va.toNat).map (isMember s (tileOf x))).getD false &&
    (List.range 8).any fun k =>
      (s.slot (64 * tileOf x + 56 + k)).accs.any fun a => decide (a.id < b.id) && (match memOp a.i with
        | some (.pst _) => (a.parts.map fun ps => ps.any fun p => !p.done && partsOverlap p q).getD true
        | _ => false)

/-- Whether part q of access b of slot x may be performed now. -/
def mayPerform (s : State) (x : Nat) (b : Access) (ob : MemOp) (q : Part) : Bool :=
  remotesSent b ob q &&
    ((s.slot x).accs.all fun a =>
      decide (b.id ≤ a.id) ||
        (match memOp a.i with
         | none => true
         | some oa => !standsBefore (remoteMode s (fieldOf x)) oa a ob q)) &&
    !(match ob with
      | .pst _ => pstBefore s x b q
      | _ => false)

/-- Whether a commands' access of a tile fired before is still to be performed: SLD and SST (R243). -/
def msuAccess : Instr → Bool
  | .sld _ _ _ => true
  | .sst _ _ _ => true
  | _ => false

/-- Whether slot x has a block store in progress that it fired before id: its firing dates from its first beat (R234). -/
def earlierBurst (s : State) (x id : Nat) : Bool :=
  (match (s.slot x).burstId with
   | some b => decide (b < id)
   | none => false) && decide ((slotInstr s x).bind memOp = some .stb)

/-- Whether the tile has accesses of a kind fired before id that are still to be performed: through its ports, and by its SLD
and SST commands. -/
def earlierAccess (s : State) (t id : Nat) (sel : MemOp → Bool) (msu : Bool) : Bool :=
  ((List.range 8).any fun k =>
    ((s.slot (64 * t + 56 + k)).accs.any fun a => decide (a.id < id) && (match memOp a.i with
      | none => false
      | some o => sel o)) || (sel .stb && earlierBurst s (64 * t + 56 + k) id))
  || (msu && (let f := s.field (fieldOfTile t)
              (f.bus ++ f.queues.flatMap (·.2) ++ f.slds).any fun c =>
                decide (tileOf c.x = t) && decide (c.id < id) && msuAccess c.i && ((memOp c.i).map sel).getD false))

def MemOp.isPlane : MemOp → Bool
  | .pld _ | .pst _ => true
  | _ => false

/-! ### Containment at a store (R353) -/

/-- Whether the tile of slot x owns the field's open region and it has not committed early. -/
def inRegion (s : State) (x : Nat) : Bool :=
  let c := (s.field (fieldOf x)).ctn
  c.opened && !c.early && decide (c.owner = jOfTile (tileOf x))

/-- The early commit of an AMO, RED, PST or FLUSH, or of a store outside DRAM, by the owner (R353). -/
def commitIfOwner (s : State) (x : Nat) : State := if inRegion s x then earlyCommit s (fieldOf x) else s

/-- Whether a sector of [pa, pa + n) is tentative in a field's cache. -/
def holdsTentative (f : FieldSt) (pa n : Nat) : Bool :=
  (sectorsOf pa n).any fun b => match SMap.find f.cache (lineNo b) with
    | some l => l.tnt.contains (sectorInLine b)
    | none => false

/-- Whether a store, an AMO or a RED of [pa, pa + n) meets a tentative sector of another tile's region, and so waits
(R353; notes/assumptions/40.md). -/
def meetsTentative (s : State) (x pa n : Nat) : Bool := !inRegion s x && holdsTentative (s.field (fieldOf x)) pa n

/-! ### Plane words (R219, R220) -/

/-- The place of RK of a plane word; WR stands one byte above it. -/
def rankPlace (pa : Nat) : Nat :=
  let t := tileOfPa pa
  tileStore t + 0x40000 + 2 * ((pa - tileStore t) / 4)

/-- The value N takes by the region's rule, or none under FAULT, when the word has been written in this step. -/
def planeRule (rule w rk k n v : Nat) : Option (Nat × Nat) :=
  match rule with
  | 0 => some (if rk ≤ k then (v, k) else (n, rk))
  | 1 => some ((n + v) % 2 ^ w, rk)
  | 2 => some (redApply .min w n v, rk)
  | 3 => some (redApply .minU w n v, rk)
  | 4 => some (redApply .max w n v, rk)
  | 5 => some (redApply .maxU w n v, rk)
  | _ => none

/-- Settle a PST of rank k and value v: none where rule FAULT collides. -/
def settle (s : State) (pa bytes rule k v : Nat) : Option State :=
  let rp := rankPlace pa
  let written := bitOf (s.byte (rp + 1)).toNat 0
  let put (n rk : Nat) : State :=
    (s.setBytes (pa + 0x20000) (leBytes bytes n)).setBytes rp [BitVec.ofNat 8 rk, 1]
  if !written then some (put v k)
  else (planeRule rule (8 * bytes) (s.byte rp).toNat k (leNat (s.bytes (pa + 0x20000) bytes)) v).map fun r => put r.1 r.2

/-- The plane word's change at a swap (R221). -/
def swapWord (clear : Bool) (bytes : Nat) (s : State) (pa : Nat) : State :=
  let rp := rankPlace pa
  let s :=
    if bitOf (s.byte (rp + 1)).toNat 0 then homeWrite s pa (s.bytes (pa + 0x20000) bytes) false
    else if clear then homeWrite s pa (leBytes bytes 0) false else s
  s.setBytes rp [0, 0]

/-- Whether a plane access waits for the swap of a STEP its tile fired before it (R221). -/
def waitsForSwap (s : State) (x : Nat) (a : Access) : Bool :=
  match (s.tile (tileOf x)).owner.bind fun o => s.graph? o.1, groupOf s x a.va.toNat with
  | some g, some n =>
    let gr := SMap.get g.groups Group.reset n
    (gr.arrived ++ gr.next).any fun r => decide (tileOf r.x = tileOf x) && decide (r.cyc < a.firedAt)
  | _, _ => false

/-! ### Performing a part -/

/-- The new value of an AMO's word, none where no write is made (R236). -/
def amoNew (o : AmoOp) (w old v p : Nat) : Option Nat :=
  match o with
  | .red r => some (redApply r w old v)
  | .xor => some (Nat.xor old v)
  | .swap => some v
  | .cas => if old = p % 2 ^ w then some v else none

/-- What performing a part answers: it waits, it faults, or the state with the bytes it read and which of them come from
poisoned sectors. -/
inductive Perf where
  | wait
  | fault (s : State) (code : Nat)
  /-- What comes before it has been done; the part itself is still to be performed. -/
  | more (s : State)
  | ok (s : State) (bytes : List Byte) (bad : List Nat)
  deriving DecidableEq, Repr

/-- The data bytes of a store. -/
def storeBytes (o : MemOp) (a : Access) : List Byte :=
  match o with
  | .st n => leBytes n a.data.toNat
  | _ => a.block

/-- A corrected error in a tile store or a field cache counts in the bucket of its field (R341). -/
def bucketOfField (s : State) (f : Nat) (e : Ecc) : State :=
  if e = .corrected then bucketAdd s (dieOfField f) 2 (f % 320) else s

/-- A corrected error in a tile store counts in the bucket of its field (R341). -/
def eccStore (s : State) (pa : Nat) (e : Ecc) : State :=
  if e = .corrected then bucketAdd s (dieOfTile (tileOfPa pa)) 2 (fieldOfTile (tileOfPa pa) % 320) else s

/-- A read of n bytes of a tile store for slot x: its banks in their order, what its check corrects, and whether a word is
uncorrectable (R204, R341, R358). -/
def storeRead (s : State) (pa n : Nat) (e : Ecc) : State × Bool :=
  let s := eccStore (softScrub (storeTouch s pa n false) pa n) pa e
  (s, softBad s pa n || decide (e = .uncorrectable))

/-- The read of an aligned word at its point of performance: the home in DRAM, or the tile store; and whether it is poisoned. -/
def amoRead (s : State) (p : Part) (bytes : Nat) (wr : Bool) (e : Ecc) : State × Bool :=
  if isDram p.pa then
    let s := l2Touch (eccOutcome s p.pa e) p.pa [sectorInLine p.pa] wr false
    (s, s.poisoned p.pa bytes)
  else storeRead s p.pa bytes e

/-- What the field of an AMO's slot still holds of a DRAM word goes to the home first (R235). -/
def amoClaim (s : State) (f pa bytes : Nat) : State :=
  if isDram pa then performRcbs (claimWord s f pa bytes) f (rcbOverlaps pa bytes) else s

/-- A read-modify-write of an aligned word. A poisoned word is found before anything is written or committed (R230). What the field
holds of the word goes home in a turn before; the region of its owner commits early for it only where the word's sector is
tentative, else as the AMO is performed (R235, R353). -/
def performAmo (s : State) (x : Nat) (o : AmoOp) (bytes : Nat) (a : Access) (p : Part) (e : Ecc) : Perf :=
  let f := fieldOf x
  match amoRead (amoClaim (commitIfOwner s x) f p.pa bytes) p bytes true e with
  | (_, true) => .fault (amoRead s p bytes false e).1 codePoison
  | (u, false) =>
    if isDram p.pa && wordHeld (s.field f) p.pa bytes then
      .more (amoClaim (if holdsTentative (s.field f) p.pa bytes then commitIfOwner s x else s) f p.pa bytes)
    else
    let s := u
    let old := s.home p.pa bytes
    match amoNew o (8 * bytes) (leNat old) (a.data.toNat % 2 ^ (8 * bytes)) a.p.toNat with
    | none => .ok s old []
    | some v => .ok (homeWrite s p.pa (leBytes bytes v) false) old []

/-- A load of a part from the field's cache: the bytes, and the places in the access of those that come from poisoned
sectors. -/
def loadCached (s : State) (x : Nat) (p : Part) (evf : Bool) (e : Ecc) : State × List Byte × List Nat :=
  let f := fieldOf x
  let s := if cacheHolds (s.field f) p.pa p.len then bucketOfField s f e else s
  let r := cacheLoad s f p.pa p.len p.gran p.et evf e
  (r.1, r.2.1, r.2.2.map fun i => p.off + i)

/-- A load of a part of a tile store: an uncorrectable word poisons what is read of it. -/
def loadStore (s : State) (p : Part) (e : Ecc) : State × List Byte × List Nat :=
  let r := storeRead s p.pa p.len e
  let hit (i : Nat) : Bool := decide (e = .uncorrectable) || softBad r.1 (p.pa + i) 1
  (r.1, s.home p.pa p.len, ((List.range p.len).filter hit).map fun i => p.off + i)

/-- PREF into the field's cache: a miss fetches the granule (R247). -/
def prefetch (s : State) (f : Nat) (p : Part) (evf : Bool) (e : Ecc) : State :=
  let u := granUnit p.gran p.pa
  if cacheHolds (s.field f) u.1 u.2 then bucketOfField s f e
  else pmcCount (fetchUnit (eccOutcome s p.pa e) f p.gran p.pa evf) (dieOfField f) 2 1

/-- FLUSH (R249). -/
def flushLine (s : State) (f pa : Nat) (home : Bool) : State :=
  let inLine (b : Nat) : Bool := decide (lineBase b = lineBase pa)
  let s := clearVal (writeBackLine (markAt s (.cache f) 0) f (lineNo pa) inLine true) f inLine
  if home then l2Drop (asCache s f fun s => markAt s (.home (homeDie s pa)) s.src) pa else s

/-- What slot x does in its field's cache comes behind the write-backs and invalidations of the cycle, in the order of tiles and
ports (R279). -/
def markPort (s : State) (x : Nat) : State := markAt s (.cache (fieldOf x)) (1 + 8 * jOfTile (tileOf x) + portOfSlot x)

/-- Perform a resident part of an access with an address. -/
def performHere (s : State) (x : Nat) (o : MemOp) (a : Access) (p : Part) (e : Ecc) : Perf :=
  let f := fieldOf x
  let dram := isDram p.pa
  if pageBusy s p.pa then .wait
  else
    match o with
    | .ld _ _ evf | .ldb _ evf =>
      let r := if dram then loadCached s x p evf e else loadStore s p e
      .ok (if dram then markPort r.1 x else r.1) r.2.1 r.2.2
    | .sld =>
      let r := if dram then loadCached s x p false e else loadStore s p e
      let s := if dram then markPort r.1 x else r.1
      if r.2.2 = [] then .ok s r.2.1 [] else .fault s codePoison
    | .st _ | .stb | .sst =>
      let bs := ((storeBytes o a).drop p.off).take p.len
      if dram then
        if meetsTentative s x p.pa p.len then .wait
        else
          let s := cacheStore s f p.pa bs a.psn (inRegion s x)
          .ok (if o = .sst then s else markPort s x) [] []
      else .ok (homeWrite (commitIfOwner (storeTouch s p.pa p.len true) x) p.pa bs false) [] []
    | .amo op n =>
      if dram && meetsTentative s x p.pa n then .wait else performAmo (if dram then markPort s x else s) x op n a p e
    | .red op n =>
      let v := BitVec.ofNat 64 (a.data.toNat % 2 ^ (8 * n))
      if dram then
        if meetsTentative s x p.pa n then .wait
        else .ok (markPort (acceptRed (commitIfOwner s x) f p.pa op (decide (n = 8)) v a.psn) x) [] []
      else
        match storeRead s p.pa n e with
        | (s, true) => .fault s codePoison
        | (s, false) =>
          let s := commitIfOwner s x
          .ok (homeWrite s p.pa (leBytes n (redApply op (8 * n) (leNat (s.home p.pa n)) v.toNat)) false) [] []
    | .pld n => if waitsForSwap s x a then .wait else .ok (storeRead s p.pa n e).1 (s.home p.pa n) []
    | .pst n =>
      if waitsForSwap s x a then .wait
      else
        let rule := ((regionsAt (s.field f) a.va.toNat 1).head?.map regRule).getD 0
        match settle (commitIfOwner (storeRead s p.pa n e).1 x) p.pa n rule (a.p.toNat % 256) (a.data.toNat % 2 ^ (8 * n)) with
        | some s => .ok s [] []
        | none => .fault s codePlaneCollide
    | .pref l2 evf =>
      if !dram then .ok s [] []
      else if l2 then .ok (l2Unit (eccOutcome s p.pa e) p.gran p.pa evf) [] []
      else .ok (markPort (prefetch s f p evf e) x) [] []
    | .flush d =>
      let s := commitIfOwner s x
      .ok (if dram then flushLine s f p.pa d else s) [] []
    | .step _ | .acq _ _ | .rel _ | .fence _ _ | .retain | .unpin => .ok s [] []

/-- The tokens a finished access emits. DESIGN CHOICE (notes/assumptions/56.md): the ORD of an STB has PSN 0 also where a beat or
the length was poisoned. -/
def accessTokens (o : MemOp) (a : Access) (ps : List Part) : List Token :=
  let bytes := ps.flatMap (·.bytes)
  match o with
  | .ld n signed _ =>
    let v := leNat bytes
    [dataTok (dataOf (if signed then signExt (8 * n) 64 v else v)) (ps.any fun p => decide (p.bad ≠ []))]
  | .ldb eos _ =>
    let n := o.len a
    ((List.range ((n + 7) / 8)).map fun k =>
      dataTok (dataOf (leNat ((bytes.drop (8 * k)).take 8)))
        (a.psn || ps.any fun p => p.bad.any fun b => decide (b / 8 = k)))
      ++ (if eos then [{ kind := .eos, data := dataOf n, psn := a.psn }] else [])
  | .amo _ _ | .pld _ => [dataTok (dataOf (leNat bytes)) false]
  /- SST's token is set by its own command: the tag and mask it read stand in the access (R134). -/
  | .sst => [dataTok a.p false]
  | .pref _ _ => []
  | _ => [ordTok false]

/-- Write back and invalidate for FENCE.D and FENCE.S: every entry of the combining buffer, and every dirty byte that
lies in no GUARD region and is not tentative (R243). -/
def publish (s : State) (f : Nat) : State :=
  let s := performRcbs (markAt s (.cache f) 0) f fun _ => true
  let ps := regionPieces s f fun e => decide (regKind e = 1)
  writeBackAll s f (fun pa => !inPieces ps pa) true

/-- The cache action of a granted ACQ (R240). -/
def acquireCache (s : State) (f g : Nat) : State :=
  let ps := guardPieces s f g
  clearVal (writeBackAll (markAt s (.cache f) 0) f (inPieces ps) true) f (inPieces ps)

/-- The publication of a REL (R241). -/
def releaseCache (s : State) (f g : Nat) : State :=
  let ps := guardPieces s f g
  let s := performRcbs (markAt s (.cache f) 0) f fun e => inPieces ps e.pa
  writeBackAll s f (inPieces ps) false

/-- Take away a tile's hold of a guard. -/
def dropHold (g : Guard) (t : Nat) : Guard :=
  { g with excl := if g.excl = some t then none else g.excl, shared := g.shared.filter fun u => u ≠ t }

/-- Publish under a guard, and take the tile's hold of it away (R241). -/
def releaseHold (s : State) (gid t n : Nat) : State :=
  (releaseCache s (fieldOfTile t) n).modGraph gid fun a =>
    { a with guards := SMap.put a.guards Guard.free n (dropHold (SMap.get a.guards Guard.free n) t) }

/-- Whether [va, va + n) meets a region bound to guard g in the table of field f. -/
def meetsBound (s : State) (f g va n : Nat) : Bool :=
  (regionsAt (s.field f) va n).any fun e => decide (regKind e = 1) && decide (regGuard e = g)

/-- Whether the tile has fired a load of bytes of a region bound to guard g, or a store to them that has passed the check of its
hold, and it is still to be performed: a REL waits for it, since it belongs to the hold (R229, R285; notes/assumptions/47.md). An
SLD counts from its firing on, with the longest length it can have. -/
def boundLoadPending (s : State) (t g : Nat) : Bool :=
  let f := fieldOfTile t
  let fs := s.field f
  ((List.range 8).any fun k =>
    (s.slot (64 * t + 56 + k)).accs.any fun a => match memOp a.i with
      | none => false
      | some o => (o.isLoad || (o.isStore && a.parts.isSome)) && meetsBound s f g a.va.toNat (o.len a)) ||
    (fs.bus ++ SMap.get fs.queues [] 10).any fun c =>
      decide (tileOf c.x = t) && decide (memOp c.i = some .sld) && meetsBound s f g (c.l.toNat % 2 ^ 48) 4096

/-- What the walk over the pages that RETAIN or UNPIN names finds: a page to wait for, a fault at an address, or the lines. -/
inductive Named where
  | wait
  | fault (code va : Nat)
  | lines (bs : List Nat)
  deriving DecidableEq, Repr

/-- The lines of [va, va + n), part by part of 64 KiB, by the latch of the port (R19, R87): a page that is absent, remote, in a tile
store or lacks RD names none; where it commits, A is set for the others alone (R178, R248). -/
def namedLines (s : State) (x : Nat) (commit : Bool) : List (Nat × Nat) → State × Named
  | [] => (s, .lines [])
  | (va, n) :: rest =>
    let latch := some (tileOf x, portOfSlot x)
    match translate s (fieldOf x) latch va Need.read false with
    | (s, .wait) => (s, .wait)
    | (s, .fault c _) =>
      if c = codePageAbsent ∨ c = codeAccessDenied then namedLines s x commit rest else (s, .fault c va)
    | (u, .ok p) =>
      if !partResident p (bitsOf va 16 5) || pteTile p then namedLines u x commit rest
      else
        match namedLines (if commit then (translate s (fieldOf x) latch va Need.read true).1 else u) x commit rest with
        | (s, .lines bs) =>
          (s, .lines ((((cutAt 192 va (n + 1) 0 n).map fun k => lineBase (ptePpn p * pageSize + (va + k.1) % pageSize)) ++ bs).dedup))
        | r => r

/-- [va, va + n) below 2^48 in parts of 64 KiB. DESIGN CHOICE (notes/assumptions/55.md): what RETAIN or UNPIN names beyond the last
virtual address names no line and raises nothing. -/
def namedParts (va n : Nat) : List (Nat × Nat) :=
  (cutAt 0x10000 va (n / 0x10000 + 2) 0 (Nat.min n (2 ^ 48 - va))).map fun c => (va + c.1, c.2)

/-- RETAIN and UNPIN: the state and the count they emit (R248). RETAIN asks for every named line whole: one that is present stays
where it is (R209, R211). -/
def retainLines (s : State) (lines : List Nat) : State × Nat :=
  let s := foldState (fun s b => l2Touch s b (lineSectors b) false false) s lines
  (s, (lines.filter fun b => l2Reserved s b).length)

def unpinLines (s : State) (lines : List Nat) : State × Nat :=
  let held := lines.filter fun b => l2Reserved s b
  (foldState (fun s b => l2Drop (markAt s (.home (homeDie s b)) s.src) b) s held, held.length)

/-- What an action below the port answers. -/
inductive Acted where
  | wait (s : State)
  | fault (s : State) (code va : Nat)
  | ok (s : State) (toks : List Token)
  deriving DecidableEq, Repr

/-- Act on the lines that RETAIN or UNPIN of slot x names: A is set once every page is translated (R178), and no page of them is
being converted (R215). -/
def actOnLines (s : State) (x : Nat) (a : Access) (act : State → List Nat → State × Nat) : Acted :=
  let ps := namedParts a.va.toNat (a.data.toNat % 2 ^ 32)
  match namedLines s x false ps with
  | (s, .wait) => .wait s
  | (s, .fault c va) => .fault s c va
  | (_, .lines bs) =>
    if bs.any (pageBusy s) then .wait s
    else
      let r := act (namedLines s x true ps).1 bs
      .ok r.1 [dataTok (dataOf r.2) false]

/-- An action below the port: a fence, a REL, RETAIN or UNPIN. -/
def performAction (s : State) (x : Nat) (o : MemOp) (a : Access) : Acted :=
  let t := tileOf x
  match o with
  | .fence pub plane =>
    if earlierAccess s t a.id (if plane then MemOp.isPlane else MemOp.isAccess) (!plane) then .wait s
    else .ok (if pub then publish s (fieldOf x) else s) [ordTok false]
  | .rel g =>
    match (s.tile t).owner with
    | none => .ok s [ordTok false]
    | some (gid, _) => if boundLoadPending s t g then .wait s else .ok (releaseHold s gid t g) [ordTok false]
  | .retain => actOnLines s x a retainLines
  | .unpin => actOnLines s x a unpinLines
  | _ => .wait s

/-- The parts of a slot still to be performed or sent, as (access, part index), in firing order; not those of an access on which
the slot withholds (R179). -/
def pendingParts (v : SlotSt) : List (Access × Nat) :=
  v.accs.flatMap fun a =>
    match a.parts with
    | none => []
    | some ps => if a.held then [] else (ps.zipIdx.filter fun p => !p.1.done && !p.1.sent).map fun p => (a, p.2)

/-- Note what a part did; the access is finished when every part is (R226). -/
def partDone (s : State) (x : Nat) (a : Access) (k : Nat) (bytes : List Byte) (bad : List Nat) : State :=
  match a.parts, memOp a.i with
  | some ps, some o =>
    match ps[k]? with
    | none => s
    | some p =>
      let ps := setAt ps k { p with done := true, bytes := bytes, bad := bad }
      if ps.all (·.done) && decide (o ≠ .sld) then finishAccess s x a.id (accessTokens o a ps)
      else setAccess s x { a with parts := some ps }
  | _, _ => s

/-! ### Requests to peers (R297 to R300, R383) -/

/-- The Ultra Ethernet port that index k of a partition names, as 2 x die + port (R297). -/
def portOfIndex (s : State) (lead k : Nat) : Option Nat :=
  ((partQuarters s lead).flatMap fun q => (List.range 4).map fun i => 4 * q + i)[k]?

/-- Whether a port carries traffic (R383). -/
def portUp (s : State) (u : Nat) : Bool :=
  let v := SMap.get (s.die (u / 2)).ue UeSt.reset (u % 2)
  v.en && v.up

/-- Whether a port answers for peer p of a partition. -/
def peerUp (s : State) (lead : Nat) (p : PeerSt) : Bool :=
  match portOfIndex s lead p.port.toNat with
  | none => false
  | some u => portUp s u

/-- The request for an address at a peer. -/
def requestTo (s : State) (lead : Nat) (p : PeerSt) (pa : Nat) (ask : Ask) : Sent :=
  { port := (portOfIndex s lead p.port.toNat).getD 0, fep := p.fep, mode := p.mode, pa := pa, ask := ask }

/-- What a peer makes of a request of an engine, a sequencer or a control core. -/
inductive Answer where
  | wait
  | done
  | failed (err : Nat)
  deriving DecidableEq, Repr

/-- The source at work asks a peer, whose request names address va. A port that is not up answers nothing; a report may come with
any turn; an error that is reported fails the access at once, and one that no report has come for within RTO fails with code 0
(R300, R383; notes/assumptions/17.md). The request is sent once. -/
def askRemote (s : State) (lead : Nat) (p : PeerSt) (va : Nat) (req : Sent) : State × Answer :=
  let mine (e : Awaited) : Bool := e.src == s.src && e.job == s.job
  let old := s.awaits.find? fun e => mine e && e.va == va
  let rest := s.awaits.filter fun e => !mine e
  let s := if old.isSome then s else { s with sent := some req }
  match (if peerUp s lead p then Config.remoteError s.turns else some 0) with
  | none => ({ s with awaits := rest }, .done)
  | some (e + 1) => ({ s with awaits := rest }, .failed (e + 1))
  | some 0 =>
    let due := (old.map Awaited.deadline).getD (s.now + (s.quarter lead).rem.rto * Config.usCycles)
    if old.isSome && decide (due ≤ s.now) then ({ s with awaits := rest }, .failed 0)
    else ({ s with awaits := { src := s.src, job := s.job, va := va, deadline := due } :: rest }, .wait)

/-- A command or a node for which the machine is s has to wait, having come to u: what it has asked for stands, its misses at the
slices and its request to a peer; what it has read is read again (R176, R300). -/
def stillAsks (f : Nat) (s u : State) : State :=
  foldState (fun s e =>
    let old := (s.field e.1).walks
    let new := e.2.walks.filter fun m => !hasMiss s e.1 m.vpn
    let s := foldState (fun s m => noteMiss (sliceAsk s f e.1) e.1 m.vpn) s new
    s.setField e.1 { s.field e.1 with
      walks := (old.map fun m => (e.2.walks.find? fun n => n.vpn == m.vpn).getD m) ++ new })
    { s with awaits := u.awaits, sent := u.sent } u.fields

/-- The source at work reads for a command, a node or a section. -/
def State.task (s : State) (job : Nat) : State := { s with job := job }

/-- What part p of an access asks of the peer. -/
def askOf (o : MemOp) (a : Access) (p : Part) : Ask :=
  match o with
  | .amo op n => .atomic op n (a.data.toNat % 2 ^ (8 * n)) a.p.toNat
  | .red op n => .atomic (.red op) n (a.data.toNat % 2 ^ (8 * n)) 0
  | .st _ | .stb | .sst => .write (((storeBytes o a).drop p.off).take p.len) a.psn
  | _ => .read p.len

/-- Send a remote part to its peer (R299, R300). -/
def sendRemote (s : State) (x : Nat) (o : MemOp) (a : Access) (k : Nat) : State :=
  let lead := leadOf s (quarterOfDie (dieOfField (fieldOf x)))
  let r := (s.quarter lead).rem
  let peer := namedPeer s lead
  match a.parts with
  | some ps =>
    match ps[k]? with
    | none => s
    | some p =>
      let s := setAccess s x { a with parts := some (setAt ps k { p with sent := true }) }
      let req := requestTo s lead peer p.pa (askOf o a p)
      { s with
        nextId := s.nextId + 1
        sent := some req
        remotes := s.remotes ++ [{
          id := s.nextId, x := x, acc := a.id, part := k, lead := lead, peer := r.rpeer.toNat, req := req,
          carried := peerUp s lead peer, deadline := s.now + r.rto * Config.usCycles }] }
  | none => s

/-- Perform part j of an access of slot x, or send it: the state, where it may be performed now and meets no fault. The peer is
checked for the first part of the access alone, since none of a faulting access is performed (R8, R298, R299). -/
def actOnPart (s : State) (x : Nat) (o : MemOp) (a : Access) (j : Nat) (p : Part) (e : Ecc) : Perf :=
  if !mayPerform s x a o p then .wait
  else if p.remote then
    match o with
    | .flush _ => .ok (partDone (commitIfOwner s x) x a j [] []) [] []
    | .pref _ _ => .ok (partDone s x a j [] []) [] []
    | _ =>
      match (if (a.parts.getD []).any fun p => p.sent || p.done then none
        else remoteFault s (leadOf s (quarterOfDie (dieOfField (fieldOf x)))) o p) with
      | some (c, _) => .fault s c
      | none => .ok (sendRemote (if o.isStore then commitIfOwner s x else s) x o a j) [] []
  else
    match performHere s x o a p e with
    | .ok s bytes bad => .ok (partDone s x a j bytes bad) bytes bad
    | r => r

/-- The parts of access id of a slot that are still to be performed or sent, the remote ones first. -/
def blockParts (v : SlotSt) (id : Nat) : List (Access × Nat × Part) :=
  let ps := (pendingParts v).filterMap fun q => if q.1.id = id then (q.1.parts.bind fun ps => ps[q.2]?).map fun p => (q.1, q.2, p) else none
  ps.filter (fun q => q.2.2.remote) ++ ps.filter fun q => !q.2.2.remote

/-- Perform an SST: its remote parts are sent, then, once their peer has reported, its resident ones are performed at once, so
that it stores all of its bytes or none (R138). What it does in the field's cache has one place in the order of the cycle, behind
the evictions that its lines need (R279). -/
def performBlock (s : State) (x : Nat) (o : MemOp) (id : Nat) (e : Ecc) : Nat → Perf
  | 0 => .ok s [] []
  | n + 1 =>
    match blockParts (s.slot x) id with
    | [] => .ok (markPort s x) [] []
    | (a, j, p) :: _ =>
      if !p.remote && (a.parts.getD []).any fun q => q.sent && !q.done then .ok s [] []
      else
        match actOnPart s x o a j p e with
        | .ok s _ _ => performBlock s x o id e n
        | r => r

/-- Perform the k-th part of slot x that is still to be performed. A fault of it waits while the slot withholds. -/
def performPart (s : State) (x k : Nat) (e : Ecc) : State :=
  let s := s.by (slotSource x)
  match (pendingParts (s.slot x))[k]? with
  | none => s
  | some (a, j) =>
    match memOp a.i, a.parts.bind fun ps => ps[j]? with
    | some o, some p =>
      if p.len = 0 then
        match performAction s x o a with
        | .wait s => s
        | .fault s' c va => if (s.slot x).wh.isSome then s else accessFault s' x a c o.acc va 0
        | .ok s toks => finishAccess s x a.id toks
      else
        match (if o = .sst then performBlock s x o a.id e ((a.parts.getD []).length + 1) else actOnPart s x o a j p e) with
        | .wait => s
        | .fault s' c => if (s.slot x).wh.isSome then s else accessFault s' x a c (if p.remote then 9 else o.acc) p.va 0
        | .more s | .ok s _ _ => s
    | _, _ => s

/-! ### Guards (R238 to R242) -/

/-- Insert a request behind those that arrived before it: by cycle, then die, field, tile and slot. -/
def insertReq (r : GuardReq) : List GuardReq → List GuardReq
  | [] => [r]
  | a :: as => if r.cyc < a.cyc ∨ (r.cyc = a.cyc ∧ r.x < a.x) then r :: a :: as else a :: insertReq r as

/-- Whether a tile awaits a guard. -/
def awaitsGuard (g : Guard) (t : Nat) : Bool := g.queue.any fun r => decide (tileOf r.x = t)

/-- The requests at the head that are granted now: one exclusive, or a run of shared ones. A cycle's requests are queued in
their order when it ends, so one is granted in a later cycle. -/
def grantable (now : Nat) (g : Guard) : List GuardReq :=
  match g.queue.takeWhile fun r => decide (r.cyc < now) with
  | [] => []
  | r :: rs =>
    if r.shared then if g.excl.isSome then [] else r :: rs.takeWhile fun a => a.shared
    else if g.excl.isNone && decide (g.shared = []) then [r] else []

/-- Release every hold of a tile as by REL (R242). -/
def releaseHolds (s : State) (gid t : Nat) : State :=
  match s.graph? gid with
  | none => s
  | some g =>
    foldState (fun s e =>
      if e.2.excl = some t ∨ e.2.shared.contains t then
        releaseHold s gid t e.1
      else s) s g.guards

/-! ### Step groups (R221) -/

/-- The ranks of a list of arrivals, without repeats. -/
def ranksOf (as : List Arrival) : List Nat := (as.map (·.rank)).dedup

/-- The plane regions of a group, from a field of the graph. -/
def groupRegions (s : State) (g : GraphSt) (n : Nat) : List (BitVec 128) :=
  ((s.field (graphHome s g)).regions.map (·.2)).filter fun e => decide (regKind e = 2) && decide (regSg e = n)

/-- Whether a PST of tile t, fired in cycle c or earlier for group n, is still to be performed. -/
def pstPending (s : State) (t c n : Nat) : Bool :=
  (List.range 8).any fun k =>
    (s.slot (64 * t + 56 + k)).accs.any fun a => decide (a.firedAt ≤ c) && (match memOp a.i with
      | some (.pst _) => decide (groupOf s (64 * t + 56 + k) a.va.toNat = some n)
      | _ => false)

/-- Arrivals of the next step move up, the first of each rank. -/
def promote : List Arrival → List Arrival → List Arrival → List Arrival × List Arrival
  | [], arr, rest => (arr, rest)
  | a :: as, arr, rest =>
    if arr.any fun b => b.rank == a.rank then promote as arr (rest ++ [a]) else promote as (arr ++ [a]) rest

/-- Whether a step group swaps now. -/
def swapReady (s : State) (g : GraphSt) (n : Nat) : Bool :=
  let gr := SMap.get g.groups Group.reset n
  match groupRegions s g n with
  | [] => false
  | e :: _ =>
    decide (regNmem e + 1 ≤ (ranksOf gr.arrived).length) &&
      gr.arrived.all fun r => !pstPending s (tileOf r.x) r.cyc n

/-- Swap every word of one region. -/
def swapRegion (s : State) (lead : Nat) (e : BitVec 128) : State :=
  let n := if regWs e then 8 else 4
  foldState (fun s p =>
    foldState (swapWord (regClear e) n) s
      (((List.range (p.2 / n)).map fun i => p.1 + n * i).filter fun pa =>
        isTileStore pa && isMt s (tileOfPa pa) && decide (pa - tileStore (tileOfPa pa) < 0x20000)))
    s (rangePieces s lead (regBaseVa e) (regSize e))

end Sys2Proof.Machine
end

