-- ==== Sys2Proof/Machine/Commands.lean ====
section
/-! DEFINITION. Commands of the X slots to the units of a field (spec/13_engines.md R252 to R255,
spec/07_stream_registers.md R134, R135): firing, the field command bus, the queues, completion and faults. -/

namespace Sys2Proof.Machine

/-- The plan of a command: the markers of R253, then poison of any operand where the instruction minds it. -/
def cmdPlan (s : State) (x : Nat) (i : Instr) (minds : Bool) : MemPlan :=
  match memPlan s x i with
  | .go r => if minds && (operandsOf i).any fun p => (tokenAt r p).psn then .fault codePoison else .go r
  | p => p

/-- Queue q of a field. -/
def cmdQueue (s : State) (f q : Nat) : List Cmd := SMap.get (s.field f).queues [] q

/-- Whether a command of slot x waits on the bus for a full queue (R252). -/
def waitsForQueue (s : State) (x : Nat) : Bool :=
  (s.field (fieldOf x)).bus.any fun c =>
    c.x == x && c.todo.any fun q => decide (32 ≤ (cmdQueue s (fieldOf x) q).length)

/-- Whether a command slot may fire: at most 8 commands outstanding, none of them before a full queue, no burst of its
own in the way (R252, R253). -/
def cmdReady (s : State) (x : Nat) : Bool :=
  slotReady s x && decide ((s.slot x).cmds.length < 8) && !((s.slot x).outs.any fun o => o.lock) && !waitsForQueue s x

/-- Forward a marker in firing order. -/
def forwardMarker (s : State) (x : Nat) (i : Instr) (p : Pos) (tok : Token) : State :=
  let s := noteFiring (consume s x p) x
  let id := s.nextId
  emitOut (queueOut { s with nextId := s.nextId + 1 } x
    { id := id, toks := [tok], tgts := targetsOf i, ready := true, lock := false, stale := false }) x

/-- Open a firing's place under an identifier: it is outstanding until performed, and has its place in the emission order. -/
def openAs (s : State) (x : Nat) (i : Instr) (lock : Bool) (id : Nat) : State :=
  let v := s.slot x
  queueOut (s.setSlot x { v with cmds := v.cmds ++ [id] }) x
    { id := id, toks := [], tgts := targetsOf i, ready := false, lock := lock, stale := false }

/-- Open a firing's place under the next identifier. -/
def openCmd (s : State) (x : Nat) (i : Instr) (lock : Bool) : State :=
  openAs { s with nextId := s.nextId + 1 } x i lock s.nextId

/-- A command has been performed: its tokens are ready (R253). -/
def finishCmd (s : State) (x id : Nat) (toks : List Token) : State :=
  let v := s.slot x
  readyOut (noteProgress (s.setSlot x { v with cmds := v.cmds.filter fun c => c ≠ id }) (tileOf x)) x id toks

/-- A command's firing: unit is the queue its records name (R254), room whether it waits for a free slot at its targets
(R134); check says the fault of the data itself, with its VA and DETAIL; go what it does beside consuming. -/
def cmdFire (s : State) (i : Instr) (unit : Nat) (room minds : Bool) (check : List (Pos × Token) → Option (Nat × DWord × DWord))
    (go : State → List (Pos × Token) → State) : Out :=
  let x := s.foc
  if !cmdReady s x then .next s
  else
    .next <| match cmdPlan s x i minds with
    | .wait => s
    | .fault c => firingFault s x c 0 unit 0 0
    | .forward p tok => if room && !targetsFree s x (targetsOf i) then s else forwardMarker s x i p tok
    | .drop ps => noteFiring (consumeAll s x ps) x
    | .go r =>
      match check r with
      | some (c, va, d) => firingFault s x c 0 unit va d
      | none =>
        if room && !targetsFree s x (targetsOf i) then s else go (noteFiring (consumeAll s x (r.map (·.1))) x) r

/-- No fault of the data itself. -/
def noFault : List (Pos × Token) → Option (Nat × DWord × DWord) := fun _ => none

/-- The command record of a firing; its identifier is the one openCmd takes. -/
def mkCmd (s : State) (x : Nat) (i : Instr) (r : List (Pos × Token)) (todo : List Nat) : Cmd :=
  { id := s.nextId, x := x, i := i, l := (tokenAt r .l).data, r := (tokenAt r .r).data, p := (tokenAt r .p).data,
    idx := [], psn := false, ks := ((s.tile (tileOf x)).ks.take 4).map KCtr.val, firedAt := s.now, todo := todo,
    started := false, zlen := 0, parts := [], wh := none }

/-- Put a command on its field's command bus. -/
def toBus (s : State) (c : Cmd) : State :=
  let f := fieldOf c.x
  s.setField f { s.field f with bus := (s.field f).bus ++ [c] }

/-- Send one command to the queues it names; no queue for a buffer request or a containment command. -/
def sendCmd (i : Instr) (todo : List Nat) (lock : Bool) (s : State) (r : List (Pos × Token)) : State :=
  let x := s.foc
  toBus (openCmd s x i lock) (mkCmd s x i r todo)

/-- A command's firing for the queues it names: a record of its operands names the first of them, or no unit where it goes
to no queue; a command of the MSU fires under R47 whole, with room at its targets (R134). -/
def fireCmd (s : State) (i : Instr) (todo : List Nat) (lock : Bool) : Out :=
  cmdFire s i (todo.headD 0xF) (todo == [10]) true noFault (sendCmd i todo lock)

/-! ### Queues (R252, R135) -/

def setQueue (s : State) (f q : Nat) (cs : List Cmd) : State :=
  s.setField f { s.field f with queues := SMap.put (s.field f).queues [] q cs }

/-- Where a command enters: behind those that reached the unit before it, or in this cycle from a lower tile or slot. -/
def insertCmd (c : Cmd) : List Cmd → List Cmd
  | [] => [c]
  | a :: as => if a.firedAt = c.firedAt ∧ c.x < a.x ∧ !a.started then c :: a :: as else a :: insertCmd c as

/-- The k-th command on the bus of field f reaches its queues, if each has room and no command of its slot is
before it (R135, R252). -/
def arriveQueues (s : State) (f k : Nat) : State :=
  let fs := s.field f
  match fs.bus[k]? with
  | none => s
  | some c =>
    if (fs.bus.take k).any (fun a => a.x == c.x) || c.todo.any fun q => decide (32 ≤ (cmdQueue s f q).length) then s
    else
      let s := s.setField f { fs with bus := fs.bus.eraseIdx k }
      foldState (fun s q => setQueue s f q (insertCmd { c with firedAt := s.now } (cmdQueue s f q))) s c.todo

/-- Take a command out of every queue of its field. -/
def dropCmd (s : State) (f id : Nat) : State :=
  let fs := s.field f
  s.setField f { fs with
    bus := fs.bus.filter fun c => c.id ≠ id
    queues := (fs.queues.map fun e => (e.1, e.2.filter fun c => c.id ≠ id)).filter fun e => decide (e.2 ≠ []) }

/-- Change a command wherever it stands. -/
def modCmd (s : State) (f id : Nat) (g : Cmd → Cmd) : State :=
  let fs := s.field f
  let h (c : Cmd) : Cmd := if c.id = id then g c else c
  s.setField f { fs with
    bus := fs.bus.map h, queues := fs.queues.map fun e => (e.1, e.2.map h), slds := fs.slds.map h }

/-- A command performed in queue q: it leaves that queue; it is finished when no queue is left (R253). -/
def performedIn (s : State) (f q : Nat) (c : Cmd) (toks : List Token) : State :=
  let s := setQueue s f q ((cmdQueue s f q).filter fun a => a.id ≠ c.id)
  let rest := c.todo.filter fun a => a ≠ q
  if rest = [] then finishCmd s c.x c.id toks else modCmd s f c.id fun a => { a with todo := rest }

/-- A command performed in every queue it stands in at once. -/
def performedAll (s : State) (f : Nat) (c : Cmd) (toks : List Token) : State := finishCmd (dropCmd s f c.id) c.x c.id toks

/-- A fault of a command in queue q (11 for a request on the bus): it stays where it is and its slot withholds
(R254); a fault that is contained or escalates takes it away. -/
def cmdFault (s : State) (f q : Nat) (c : Cmd) (code acc va : Nat) (detail : DWord) : State :=
  let t := tileOf c.x
  match (s.tile t).owner.bind fun o => s.graph? o.1 with
  | none => dropCmd s f c.id
  | some g =>
    let rid := s.nextId
    let v := s.slot c.x
    let s' := raiseFault (s.setSlot c.x { v with wh := some rid }) t { tileRec s t g with
      code := code, acc := acc, unit := if q < 11 then q else 0xF, slot := slotNo c.x,
      va := BitVec.ofNat 64 (va % 2 ^ 48), ks := c.ks, detail := detail,
      stamp := if q < 10 then engineStamp s f q else slotStamp s c.x, src := .command f q c.id }
    if (s'.slot c.x).wh = some rid then modCmd s' f c.id fun a => { a with wh := some rid }
    else
      let s' := dropCmd s' f c.id
      s'.setSlot c.x { s'.slot c.x with cmds := (s'.slot c.x).cmds.filter fun a => a ≠ c.id }

/-- What performing a command answers. -/
inductive CmdRes where
  /-- Not now. -/
  | wait
  /-- A fault: code, access kind, faulting VA, DETAIL. -/
  | fault (s : State) (code acc va : Nat) (detail : DWord)
  /-- Performed in part (R265). -/
  | more (s : State)
  /-- Performed, with the tokens it emits. -/
  | ok (s : State) (toks : List Token)
  deriving DecidableEq, Repr

end Sys2Proof.Machine
end

