-- ==== Sys2Proof/Machine/EngineReads.lean ====
section
/-! DEFINITION. Reads of the engines on behalf of a tile (spec/13_engines.md R256, R269, R276), and the buffer table
(spec/10_translation_tables.md R189 to R191). -/

namespace Sys2Proof.Machine

/-! ### Engine reads -/

/-- What an engine's read answers. -/
inductive EngRead where
  | wait
  | fault (code acc va : Nat) (detail : DWord)
  | ok (bytes : List Byte)
  deriving DecidableEq, Repr

/-- POISON names the first byte of [va, va + n) that faulted (R180). -/
def poisonAt (va n : Nat) (bad : Nat → Bool) : EngRead :=
  .fault codePoison 7 (va + ((List.range n).find? bad).getD 0) 0

/-- Read n bytes of a peer for an engine (R297, R300). What the peer reports as poisoned is read as zeros where asked, each sector
counted (R340, R358). -/
def engRemote (s : State) (f va a n : Nat) (zeros : Bool) : State × EngRead :=
  let lead := leadOf s (quarterOfDie (dieOfField f))
  match remotePeer s lead with
  | none => (s, .fault codePaInvalid 9 va 0)
  | some p =>
    match askRemote s lead p va (requestTo s lead p a (.read n)) with
    | (s, .wait) => (s, .wait)
    | (s, .failed e) => (s, .fault codeRemoteFail 9 va (BitVec.ofNat 64 e))
    | (s, .done) =>
      let bad := (List.range n).filter fun i => Config.remotePoison s.turns (a + i)
      if bad = [] then (s, .ok ((List.range n).map fun i => Config.remoteByte s.turns (a + i)))
      else if zeros then
        (countZeros s f ((bad.map fun i => sectorBase (a + i)).dedup).length,
         .ok ((List.range n).map fun i => if bad.contains i then 0 else Config.remoteByte s.turns (a + i)))
      else (s, poisonAt va n bad.contains)

/-- Read one translated run at its home (R256, R358): poison raises POISON, or reads as zeros where the copy
channels meet an ET page; a remote run is read from the peer. -/
def engRun (s : State) (f va : Nat) (zeros : Bool) (r : Run) : State × EngRead :=
  let (o, n, p, remote) := r
  let a := ptePpn p * pageSize + (va + o) % pageSize
  if remote then engRemote s f (va + o) a n (zeros && pteEt p)
  else if pageBusy s a then (s, .wait)
  else if inShadow s a n then
    (s, .fault codePlaneHome 7 (va + o + ((List.range n).find? fun i => inShadow s (a + i) 1).getD 0) 0)
  else if isTileStore a then
    match storeRead s a n .clean with
    | (s, true) => (s, poisonAt (va + o) n fun i => softBad s (a + i) 1)
    | (s, false) => (s, .ok (s.home a n))
  else
    let s := l2Read s a n false false
    let bad := (sectorsOf a n).filter fun b => s.poisoned b 1
    if bad = [] then (s, .ok (s.home a n))
    else if zeros && pteEt p then
      (countZeros s f bad.length,
       .ok ((List.range n).map fun i => if s.poisoned (a + i) 1 then 0 else s.byte (locOf s (a + i))))
    else (s, poisonAt (va + o) n fun i => s.poisoned (a + i) 1)

/-- Read the runs of an access in order. -/
def engRuns (s : State) (f va : Nat) (zeros : Bool) : List Run → State × EngRead
  | [] => (s, .ok [])
  | r :: rs =>
    match engRun s f va zeros r with
    | (s, .ok bs) =>
      match engRuns s f va zeros rs with
      | (s, .ok cs) => (s, .ok (bs ++ cs))
      | (s, e) => (s, e)
    | (s, e) => (s, e)

/-- The fault of a remote run of an engine: the peer may not be addressed, or a record it would update lies at a peer that takes
loads only (R298, R299). -/
def engRemoteFault (s : State) (f va : Nat) (need : Need) (r : Run) : Option (Nat × Nat) :=
  if !r.2.2.2 then none
  else
    match remotePeer s (leadOf s (quarterOfDie (dieOfField f))) with
    | none => some (codePaInvalid, va + r.1)
    | some p => if p.mode = 2 ∧ need.wr then some (codeAccessDenied, va + r.1) else none

/-- The checks of an engine's access of n bytes for tile t: translation with EN, the remote part's peer, the region table. A record
that the engine will write needs the guard held exclusively (R305). Nothing is set in a PTE. -/
def engCheck (s : State) (f t va n : Nat) (need : Need) (guarded : Bool) : State × Except EngRead (List Run) :=
  let acc := if need.wr then 8 else 7
  match translateRuns s f none va need false (cutAt 0x10000 va (n + 1) 0 n) with
  | (s, .error none) => (s, .error .wait)
  | (s, .error (some (c, w, b))) => (s, .error (.fault c (if w then 10 else acc) b 0))
  | (s, .ok rs) =>
    match rs.findSome? (engRemoteFault s f va need) with
    | some (c, b) => (s, .error (.fault c 9 b 0))
    | none =>
      match governs (s.field f) va n with
      | .error _ => (s, .error (.fault codeRegionSplit acc va 0))
      | .ok reg =>
        let kind := (reg.map regKind).getD 0
        if kind = 2 then (s, .error (.fault codePlaneHome acc va 0))
        else if guarded && decide (kind = 1) && !holdsExcl s t ((reg.map regGuard).getD 0) then
          (s, .error (.fault codeGuardNotHeld acc va 0))
        else (s, .ok (joinRuns va rs))

/-- Read n bytes for an engine command of tile t, once every check is passed (R178, R256). -/
def engRead (s : State) (f t va n : Nat) (need : Need) (zeros : Bool) : State × EngRead :=
  match engCheck s f t va n need false with
  | (s, .error e) => (s, e)
  | (_, .ok rs) => engRuns (translateRuns s f none va need true (cutAt 0x10000 va (n + 1) 0 n)).1 f va zeros rs

/-- The permissions of an engine's read, and of a record it will update. -/
def Need.engine : Need := { rd := true, wr := false, am := false, en := true }
def Need.record : Need := { rd := true, wr := true, am := false, en := true }

/-! ### Buffers (R189 to R191, R223) -/

def BufSt.st (b : BufSt) : Nat := bitsOf b.entry.toNat 0 2
def BufSt.eotc (b : BufSt) : Nat := bitsOf b.entry.toNat 2 5
def BufSt.fanin (b : BufSt) : Nat := bitsOf b.entry.toNat 7 4
def BufSt.bytes (b : BufSt) : Nat := bitsOf b.entry.toNat 32 32
def BufSt.size (b : BufSt) : Nat := bitsOf b.entry.toNat 96 32

/-- The place of a buffer of field f: the physical address of its first byte. -/
def BufSt.base (b : BufSt) (f : Nat) : Nat := tileStore (64 * f + bitsOf b.entry.toNat 83 6) + bitsOf b.entry.toNat 64 19

/-- A handle with new STATE, EOTC and BYTES. -/
def BufSt.setState (b : BufSt) (st eotc bytes : Nat) : BufSt :=
  let keep := b.entry &&& ~~~(BitVec.ofNat 128 (0xFFFFFFFF * 2 ^ 32 + 0x7F))
  { b with entry := keep ||| BitVec.ofNat 128 (bytes % 2 ^ 32 * 2 ^ 32 + eotc % 32 * 4 + st % 4) }

def State.buf (s : State) (f h : Nat) : BufSt := SMap.get (s.field f).bufs BufSt.reset h
def State.setBuf (s : State) (f h : Nat) (b : BufSt) : State :=
  s.setField f { s.field f with bufs := SMap.put (s.field f).bufs BufSt.reset h b }

/-- Whether a transfer to a handle must wait: FULL or DRAINING (R190). -/
def BufSt.busy (b : BufSt) : Bool := decide (2 ≤ b.st)

/-- A transfer of n bytes has been posted with its EOT (R190). -/
def BufSt.post (b : BufSt) (n : Nat) : BufSt :=
  let e := if b.st = 0 then 1 else b.eotc + 1
  b.setState (if e = b.fanin + 1 then 2 else 1) e ((if b.st = 0 then 0 else b.bytes) + n)

/-- The latch the EOT of a handle arrives at, as over a router link of two slots (R269). -/
def eotLatch (s : State) (f : Nat) (b : BufSt) : Option Nat :=
  let t := 64 * f + b.atile % 64
  let v := cfgPort (s.tile t).cfg b.aport
  if portDir v = 1 then some (192 * t + 3 * (portDest v % 64) + portDest v / 64) else none

/-- Whether the EOT of a handle finds room. -/
def eotRoom (s : State) (f : Nat) (b : BufSt) : Bool :=
  match eotLatch s f b with
  | none => true
  | some l => linkRoom s l 2

/-- Post a transfer: the handle changes and its EOT arrives (R223). -/
def postTransfer (s : State) (f h n : Nat) : State :=
  let b := s.buf f h
  let s := s.setBuf f h (b.post n)
  match eotLatch s f b with
  | none => s
  | some l => pushLink s l { tok := { kind := .eot, data := BitVec.ofNat 64 n, psn := false }, cyc := s.now + 1, du := 0 } false

/-- The EOS tokens of the cycle free the buffers tied to their ports (R190). -/
def releaseBuffers (f : FieldSt) : FieldSt :=
  { f with
    eosNow := []
    bufs := f.bufs.map fun e =>
      if (f.eosNow.any fun p => bufFreedBy e.2 p.1 p.2) && e.2.busy then (e.1, e.2.setState 0 0 0) else e }

/-- The entry's low half: what the buffer instructions emit. -/
def BufSt.low (b : BufSt) : DWord := b.entry.extractLsb' 0 64

/-- Perform one buffer request that has reached the field (R192, R193). -/
def bufPerform (s : State) (f : Nat) (c : Cmd) : State :=
  let h := c.l.toNat % 256
  let b := s.buf f h
  let bad (code : Nat) : State := if (s.slot c.x).wh.isSome then s else cmdFault s f 11 c code 0 0 (dataOf h)
  if c.wh.isSome then s
  else if !b.declared then bad codeBufBad
  else
    match c.i with
    | .bufWait take st _ _ =>
      if b.st = st.toNat then
        performedAll (if take then s.setBuf f h (b.setState 3 b.eotc b.bytes) else s) f c [dataTok b.low false]
      else s
    | .bufRel _ _ =>
      if b.st = 1 then bad codeBufState
      else
        let b' := if b.busy then b.setState 0 0 0 else b
        performedAll (s.setBuf f h b') f c [dataTok b'.low false]
    | _ => performedAll s f c [dataTok b.low false]

/-- The order of buffer requests within a cycle: releases, then waits, each by tile and slot (R191). DESIGN CHOICE
(notes/assumptions/52.md): requests that arrived in an earlier cycle and still wait come before those, and BUF.STAT, which R191
does not list, reads the handle last. -/
def bufRank (c : Cmd) : Nat × Nat × Nat :=
  (match c.i with
   | .bufRel _ _ => 0
   | .bufWait _ _ _ _ => 1
   | _ => 2, c.firedAt, c.x)

def bufBefore (a b : Cmd) : Bool :=
  let p := bufRank a
  let q := bufRank b
  decide (p.1 < q.1) || (decide (p.1 = q.1) && (decide (p.2.1 < q.2.1) || (decide (p.2.1 = q.2.1) && decide (p.2.2 < q.2.2))))

def insertBuf (c : Cmd) : List Cmd → List Cmd
  | [] => [c]
  | a :: as => if bufBefore c a then c :: a :: as else a :: insertBuf c as

def isBufReq (i : Instr) : Bool :=
  match i with
  | .bufWait _ _ _ _ => true
  | .bufRel _ _ => true
  | .bufStat _ _ => true
  | _ => false

/-- The closing edge of a cycle in a field's buffer table: the EOS releases, then the requests (R191). -/
def bufferEdge (s : State) (f : Nat) : State :=
  let s := s.setField f (releaseBuffers (s.field f))
  let cs := ((s.field f).bus.filter fun c => c.started && isBufReq c.i).foldl (fun l c => insertBuf c l) []
  foldState (fun s c => bufPerform s f c) s cs

/-! ### Buffer instructions (R192): each is a request on the field command bus -/

/-- BUF.WAIT (R192): its slot does not fire while it waits. -/
def execBufWait (d : Bool) (m : BitVec 2) (t1 t0 : Target) (s : State) : Out :=
  if (s.slot s.foc).cmds ≠ [] then .next s else fireCmd s (.bufWait d m t1 t0) [] false

/-- BUF.REL (R192). -/
def execBufRel (t1 t0 : Target) (s : State) : Out := fireCmd s (.bufRel t1 t0) [] false

/-- BUF.STAT (R192). -/
def execBufStat (t1 t0 : Target) (s : State) : Out := fireCmd s (.bufStat t1 t0) [] false

end Sys2Proof.Machine
end

