-- ==== Sys2Proof/Machine/EngineOps.lean ====
section
/-! DEFINITION. The engine commands 0xA0 to 0xAB: matrix engines, gather unit, copy channels, walk engines and QFENCE
(spec/13_engines.md R257 to R277), with their performance events. -/

namespace Sys2Proof.Machine

/-! ### Formats in the stores (R55, R259) -/

/-- RB of a format code: the bytes of 32 consecutive elements (R259). -/
def runBytes (fmt : Nat) : Nat := (([128, 64, 64, 32, 32, 24, 24, 16, 64, 32, 32, 16, 16, 34, 26, 18] : List Nat)[fmt]?).getD 0

/-- Whether a format code is of the integer class (R72). -/
def intClass (fmt : Nat) : Bool := decide (8 ≤ fmt) && decide (fmt ≤ 12)

/-- The floating-point formats by code, 0x0 to 0x7. -/
def floatOf (fmt : Nat) : FloatFmt := (([fp32, fp16, bf16, e5m2, e4m3, e3m2, e2m3, e2m1] : List FloatFmt)[fmt]?).getD fp32

/-- The width and the sign of an integer format code, 0x8 to 0xC (R58). -/
def intOf (fmt : Nat) : Nat × Bool :=
  (([(16, true), (8, true), (8, false), (4, true), (4, false)] : List (Nat × Bool))[fmt - 8]?).getD (16, true)

/-- The width of a block format's elements, codes 0xD to 0xF. -/
def bxOf (fmt : Nat) : Nat := if fmt = 13 then 8 else if fmt = 14 then 6 else 4

/-- Element k of a K-run of the float-or-BX class. -/
def runFloat (fmt run k : Nat) : FVal :=
  if 13 ≤ fmt then bxDecode (bxOf fmt) run k
  else
    let f := floatOf fmt
    decodeF f (bitsOf run (f.width * k) f.width)

/-- Element k of an integer K-run. -/
def runInt (fmt run k : Nat) : Int :=
  let w := intOf fmt
  let v := bitsOf run (w.1 * k) w.1
  if w.2 then signedOf w.1 v else v

/-! ### Matrix engines -/

def FieldSt.me (f : FieldSt) (m : Nat) : MeSt := SMap.get f.mes MeSt.reset m
def FieldSt.setMe (f : FieldSt) (m : Nat) (v : MeSt) : FieldSt := { f with mes := SMap.put f.mes MeSt.reset m v }

/-- AFMT, BFMT, OFMT, ACT and SCALE of a configuration (R257). -/
def cfgA (c : DWord) : Nat := bitsOf c.toNat 0 4
def cfgB (c : DWord) : Nat := bitsOf c.toNat 4 4
def cfgO (c : DWord) : Nat := bitsOf c.toNat 8 4
def cfgAct (c : DWord) : Nat := bitsOf c.toNat 12 3
def cfgScale (c : DWord) : Nat := bitsOf c.toNat 32 32

/-- The MEs of a mask. -/
def maskMes (m : BitVec 4) : List Nat := (List.range 4).filter fun k => m.getLsbD k

/-- The queues an instruction's command enters (R252). -/
def queuesOf : Instr → List Nat
  | .mxCfg m _ _ => maskMes m
  | .mxBb m _ _ => maskMes m
  | .mxMma m _ _ => maskMes m
  | .mxZero m _ _ => maskMes m
  | .mxGath _ _ => [4]
  | .mxEpi _ m _ _ => [m.toNat]
  | .mxCpy _ m _ _ => [m.toNat]
  | .cpyHead c _ _ => [5 + c.toNat]
  | .wlkCfg _ _ => [9]
  | .wlkGo _ _ _ => [9]
  | .slen _ _ _ => [10]
  | .sld _ _ _ => [10]
  | .sst _ _ _ => [10]
  | .sgen _ _ _ => [10]
  | .sand _ _ _ _ => [10]
  | .sor _ _ _ _ => [10]
  | .sxor _ _ _ _ => [10]
  | .snot _ _ _ => [10]
  | .smux _ _ _ _ => [10]
  | .smin _ _ _ _ => [10]
  | .smax _ _ _ _ => [10]
  | .scnt _ _ _ => [10]
  | .scntA _ _ _ => [10]
  | .scvt _ _ _ => [10]
  | .sregen _ _ _ _ => [10]
  | .smov _ _ _ => [10]
  | _ => []

/-- A completion token of value n. -/
def engToken (n : Nat) : List Token := [dataTok (dataOf n) false]

/-- Set status flags of an ME: they reach the register at the edge that closes the cycle (R258). -/
def meFlags (s : State) (f m : Nat) (fl : Flags) : State :=
  let v := (s.field f).me m
  s.setField f ((s.field f).setMe m { v with fresh := v.fresh ||| fl.toWord })

/-- The value at an accumulator's place, and a row's places (R25, R217). -/
def accRead (s : State) (f m row j : Nat) : Nat := leNat (s.bytes (accStore f m + 128 * row + 4 * j) 4)
def accRowWrite (s : State) (f m row : Nat) (vs : List Nat) : State :=
  s.setBytes (accStore f m + 128 * row) (vs.flatMap fun v => leBytes 4 v)

/-- MX.CFG's check: its fault and the configuration it would write (R260). -/
def cfgCheck (c : DWord) : Option Nat :=
  if bitsOf c.toNat 15 17 ≠ 0 ∨ 1 < cfgAct c then some codeEngCfg
  else if intClass (cfgA c) ≠ intClass (cfgB c) then some codeFmtMix else none

/-- MX.CFG in ME m. -/
def mxCfgIn (s : State) (f m : Nat) (c : Cmd) : CmdRes :=
  match cfgCheck c.l with
  | some code => .fault s code 0 0 (dataOf (c.l.toNat % 2 ^ 32))
  | none => .ok (s.setField f ((s.field f).setMe m { (s.field f).me m with cfg := c.l })) (engToken 0)

/-- The place of an index of MX.GATH: tile and offset, none for 0xFFFF (R261). -/
def gathPlace (d x : Nat) : Option (Nat × Nat) :=
  if x = 0xFFFF then none
  else
    let nt := bitsOf d 25 6 + 1
    some (bitsOf d 19 6 + x % nt, bitsOf d 0 19 + x / nt * bitsOf d 32 16)

/-- MX.GATH (R261). -/
def mxGathIn (s : State) (f : Nat) (c : Cmd) : CmdRes :=
  let d := c.r.toNat
  let fmt := bitsOf d 48 4
  let n := runBytes fmt
  let xs := (List.range 32).map fun t => bitsOf ((c.idx[t / 4]?).getD 0).toNat (16 * (t % 4)) 16
  let ps := xs.map (gathPlace d)
  if c.psn then .fault s codePoison 0 0 0
  else if bitOf d 31 ∨ bitsOf d 52 12 ≠ 0 then .fault s codeEngCfg 0 0 0
  else if (s.field f).oplatch.isSome then .wait
  else
    let out (p : Option (Nat × Nat)) : Bool := match p with
      | none => false
      | some (j, o) => decide (63 < j) || decide (0x80000 < o + n)
    match (ps.zipIdx.find? fun p => out p.1).map (·.2) with
    | some t => .fault s codeEngRange 7 0 (dataOf t)
    | none =>
      let at_ (p : Nat × Nat) : Nat := tileStore (64 * f + p.1) + p.2
      if ps.any fun p => (p.map fun q => inShadow s (at_ q) n).getD false then .fault s codePlaneHome 7 0 0
      else
        let r := ps.foldl (fun (acc : State × Bool) p => match p with
          | none => acc
          | some q =>
            let r := storeRead acc.1 (at_ q) n .clean
            (r.1, acc.2 || r.2)) (s, false)
        let s := r.1
        let rows := ps.map fun p => (p.map fun q => leNat (s.bytes (at_ q) n)).getD 0
        if r.2 then .fault s codePoison 7 0 0
        else .ok (s.setField f { s.field f with oplatch := some { fmt := fmt, rows := rows } })
          (engToken (ps.filter Option.isSome).length)

/-- MX.BB in every named ME at once (R262). -/
def mxBbAll (s : State) (f : Nat) (ms : List Nat) (c : Cmd) : CmdRes :=
  let d := c.l.toNat
  let t := 64 * f + bitsOf d 19 6
  let first (m : Nat) : Nat := bitsOf d 0 19 + m * bitsOf d 32 16
  let rb (m : Nat) : Nat := runBytes (cfgB ((s.field f).me m).cfg)
  if bitsOf d 25 7 ≠ 0 ∨ bitsOf d 48 16 ≠ 0 then .fault s codeEngCfg 0 0 0
  else
    match ms.find? fun m => decide (0x80000 < first m + 32 * rb m) with
    | some m => .fault s codeEngRange 7 0 (dataOf m)
    | none =>
      if ms.any fun m => inShadow s (tileStore t + first m) (32 * rb m) then .fault s codePlaneHome 7 0 0
      else
        let s := foldState (fun s m => (storeRead s (tileStore t + first m) (32 * rb m) .clean).1) s ms
        if ms.any fun m => softBad s (tileStore t + first m) (32 * rb m) then .fault s codePoison 7 0 0
        else .ok (foldState (fun s m =>
          let cols := (List.range 32).map fun k => leNat (s.bytes (tileStore t + first m + k * rb m) (rb m))
          let v := (s.field f).me m
          s.setField f ((s.field f).setMe m { v with panel := some { fmt := cfgB v.cfg, cols := cols, tile := tileOf c.x } })) s ms)
          (engToken 0)

/-- One accumulator element's K-step (R73, R74). -/
def kElement (fa fb acc a b : Nat) : FRes :=
  if intClass fa then
    (kStepInt acc ((List.range 32).map fun k => runInt fa a k * runInt fb b k), Flags.none)
  else kStep (decodeF fp32 acc :: (List.range 32).map fun k => mulExact (runFloat fa a k) (runFloat fb b k))

/-- One row of MX.MMA in ME m: the new row and its flags. -/
def mmaRow (s : State) (f m row fa fb a : Nat) (cols : List Nat) : List Nat × Flags :=
  let rs := (List.range 32).map fun j => kElement fa fb (accRead s f m row j) a ((cols[j]?).getD 0)
  (rs.map (·.1), rs.foldl (fun fl r => fl.or r.2) Flags.none)

/-- MX.MMA in one ME. -/
def mmaIn (s : State) (f m row0 : Nat) (lat : OpLatch) (p : Panel) : State :=
  foldState (fun s i =>
    let r := mmaRow s f m (row0 + i) lat.fmt p.fmt ((lat.rows[i]?).getD 0) p.cols
    meFlags (accRowWrite s f m (row0 + i) r.1) f m r.2) s (List.range 32)

/-- The first check of MX.MMA that fails: code and detail (R263). -/
def mmaCheck (fs : FieldSt) (ms : List Nat) (row0 : Nat) (lat : OpLatch) : Option (Nat × Nat) :=
  let lacking := ms.filter fun m => (fs.me m).panel.isNone
  if 2047 < row0 + 31 then some (codeEngRange, row0)
  else if lacking ≠ [] then some (codeMxOrder, (lacking.map fun m => 2 ^ m).sum)
  else
    match ms.find? fun m => decide (lat.fmt ≠ cfgA (fs.me m).cfg) with
    | some m => some (codeFmtMix, m)
    | none =>
      (ms.find? fun m => decide (((fs.me m).panel.map Panel.fmt).getD 0 ≠ cfgB (fs.me m).cfg)).map fun m =>
        (codeFmtMix, 0x100 + m)

/-- A mismatch of a K-step (R357): the repeat is used, or PIPE-ERR is raised. -/
def mmaMismatch (s : State) (f : Nat) (ms : List Nat) : State × Bool :=
  let hit := ms.filter fun m => ((s.field f).me m).mismatch.isSome
  let again := ms.any fun m => decide (((s.field f).me m).mismatch = some true)
  let s := foldState (fun s m =>
    let s := bucketAdd s (dieOfField f) 2 (f % 320)
    s.setField f ((s.field f).setMe m { (s.field f).me m with mismatch := none })) s hit
  (s, again)

/-- MX.MMA in every named ME at once, once the operand latch is full (R263). -/
def mxMmaAll (s : State) (f : Nat) (ms : List Nat) (c : Cmd) : CmdRes :=
  let row0 := c.l.toNat % 2048
  match (s.field f).oplatch with
  | none => .wait
  | some lat =>
    match mmaCheck (s.field f) ms row0 lat with
    | some (code, d) => .fault s code 0 0 (dataOf d)
    | none =>
      match mmaMismatch s f ms with
      | (s, true) => .fault s codePipeErr 0 0 0
      | (s, false) =>
        let s := foldState (fun s m =>
          match ((s.field f).me m).panel with
          | none => s
          | some p =>
            let s := mmaIn s f m row0 lat p
            s.setField f ((s.field f).setMe m { (s.field f).me m with panel := none })) s ms
        .ok (pmcCount (s.setField f { s.field f with oplatch := none }) (dieOfField f) 5 1) (engToken 0)

/-- Rows n and row0 of a control token (R264, R265). -/
def ctlRow (l : DWord) : Nat := bitsOf l.toNat 0 11
def ctlRows (l : DWord) : Nat := bitsOf l.toNat 11 11 + 1

/-- MX.ZERO in ME m (R264). -/
def mxZeroIn (s : State) (f m : Nat) (c : Cmd) : CmdRes :=
  if 2048 < ctlRow c.l + ctlRows c.l then .fault s codeEngRange 0 0 (dataOf (ctlRow c.l))
  else .ok (s.setBytes (accStore f m + 128 * ctlRow c.l) (List.replicate (128 * ctlRows c.l) 0)) (engToken 0)

/-- The first byte in the tile store that an MX.CPY names. -/
def cpyStore (f : Nat) (c : Cmd) : Nat := tileStore (64 * f + bitsOf c.r.toNat 19 6) + bitsOf c.r.toNat 0 19

/-- The parts of an MX.CPY, as (offset, length): each row divided at the 64-byte blocks it crosses (R265). -/
def cpyParts (f : Nat) (c : Cmd) : List (Nat × Nat) :=
  (List.range (ctlRows c.l)).flatMap fun i =>
    (cutAt 64 (cpyStore f c + 128 * i) 4 0 128).map fun p => (128 * i + p.1, p.2)

/-- The checks of an MX.CPY, made before anything is written. -/
def cpyCheck (s : State) (f : Nat) (fromTs : Bool) (c : Cmd) : Option (Nat × Nat) :=
  let off := bitsOf c.r.toNat 0 19
  let n := ctlRows c.l
  if 2048 < ctlRow c.l + n ∨ 0x80000 < off + 128 * n then some (codeEngRange, 0)
  else if off % 4 ≠ 0 then some (codeMisalign, 0)
  else if inShadow s (cpyStore f c) (128 * n) then some (codePlaneHome, if fromTs then 7 else 8)
  else none

/-- Write the rows of an MX.CPY from a tile store: each is one access of the accumulator (R265). -/
def cpyRows (b n : Nat) (got : SMap (List Byte)) (s : State) : State :=
  foldState (fun s i =>
    s.setBytes (b + 128 * i) ((got.filter fun e => decide (e.1 / 128 = i)).flatMap (·.2))) s (List.range n)

/-- One part of an MX.CPY: the tile store's part is one access. The accumulator's rows are written once every part has been read,
since a part that meets poison leaves the command unperformed (R8, R254). -/
def cpyPart (s : State) (f m : Nat) (fromTs : Bool) (c : Cmd) (p : Nat × Nat) : CmdRes :=
  let a := cpyStore f c + p.1
  let b := accStore f m + 128 * ctlRow c.l
  let go (s : State) (bs : List Byte) : CmdRes :=
    let got := SMap.insert c.parts p.1 bs
    if got.length = (cpyParts f c).length then
      .ok (if fromTs then cpyRows b (ctlRows c.l) got s else s) (engToken (ctlRows c.l))
    else .more (modCmd s f c.id fun d => { d with started := true, parts := got })
  if fromTs then
    match storeRead s a p.2 .clean with
    | (s, true) => .fault s codePoison 7 0 0
    | (s, false) => go s (s.bytes a p.2)
  else go (homeWrite (storeTouch s a p.2 true) a (s.bytes (b + p.1) p.2) false) []

/-- MX.CPY (R265): its parts are performed one by one, in any order; the k-th of those left. -/
def mxCpyIn (s : State) (f m k : Nat) (fromTs : Bool) (c : Cmd) : CmdRes :=
  match (if c.started then none else cpyCheck s f fromTs c) with
  | some (code, acc) => .fault s code acc 0 0
  | none =>
    match ((cpyParts f c).filter fun p => (SMap.find c.parts p.1).isNone)[k]? with
    | none => .wait
    | some p => cpyPart s f m fromTs c p

/-! ### The epilogue (R266) -/

/-- The exact sum of two decoded values; a zero sum is -0 only where both are. -/
def addExactF (a b : FVal) : FVal :=
  match a, b with
  | .nan _, _ => .nan false
  | _, .nan _ => .nan false
  | .inf n, .inf k => if n = k then .inf n else .nan false
  | .inf n, .fin _ _ _ => .inf n
  | .fin _ _ _, .inf k => .inf k
  | .fin n m e, .fin k l g =>
    if m = 0 ∧ l = 0 then .fin (n && k) 0 0
    else if m = 0 then .fin k l g
    else if l = 0 then .fin n m e
    else
      let r := addExact (signedMant n m) e (signedMant k l) g
      .fin (decide (r.1 < 0)) r.1.natAbs r.2

/-- An accumulator value: FP32, or INT32 in the integer class. -/
def accValue (int : Bool) (bits : Nat) : FVal :=
  if int then
    let v := signedOf 32 bits
    .fin (decide (v < 0)) v.natAbs 0
  else decodeF fp32 bits

/-- One value of the epilogue before its conversion: ((v + b) x s) rounded once, then the activation. -/
def epiValue (int relu : Bool) (scale acc : Nat) (bias : Option Nat) : FRes :=
  let b : FVal := match bias with
    | none => .fin false 0 0
    | some x => accValue int x
  let sc := decodeF fp32 (if scale = 0 then 0x3F800000 else scale)
  let r : FRes := match mulExact (addExactF (accValue int acc) b) sc with
    | .nan _ => (fp32.nanBits, { nv := true })
    | .inf n => (withSign fp32 n fp32.infBits, Flags.none)
    | .fin n m e => if m = 0 then (withSign fp32 n 0, Flags.none) else roundFin fp32 .rne n m e
  let t := decodeF fp32 r.1
  if relu && !t.isNan && t.isNeg then (0, r.2) else r

/-- A row of 32 FP32 values in OFMT: its bytes as one number, and the flags (R63, R69). -/
def epiConvert (fmt : Nat) (ts : List Nat) : Nat × Flags :=
  if 13 ≤ fmt then bxEncode (bxOf fmt) (ts.map (decodeF fp32))
  else
    let rs : List FRes := ts.map fun t =>
      if fmt = 0 then (t, Flags.none)
      else if fmt < 3 then cvtFF fp32 (floatOf fmt) .rne t
      else if fmt < 8 then cvtNarrow fp32 (floatOf fmt) t
      else cvtFI fp32 .rne (intOf fmt).2 (intOf fmt).1 t
    let w := if fmt < 8 then (floatOf fmt).width else (intOf fmt).1
    (packBits w (rs.map (·.1)), rs.foldl (fun fl r => fl.or r.2) Flags.none)

/-- One epilogue row of ME m: its bytes and flags. -/
def epiRow (s : State) (f m row : Nat) (bias : Option Nat) : List Byte × Flags :=
  let c := ((s.field f).me m).cfg
  let ts := (List.range 32).map fun j =>
    epiValue (intClass (cfgA c)) (decide (cfgAct c = 1)) (cfgScale c) (accRead s f m row j)
      (bias.map fun b => accRead s f m b j)
  let r := epiConvert (cfgO c) (ts.map (·.1))
  (leBytes (runBytes (cfgO c)) r.1, (ts.foldl (fun fl t => fl.or t.2) Flags.none).or r.2)

/-- Bytes as DATA tokens, eight to a token, the last padded with zeros (R60). -/
def byteTokens (bs : List Byte) : List Token :=
  (List.range ((bs.length + 7) / 8)).map fun k => dataTok (dataOf (leNat ((bs.drop (8 * k)).take 8))) false

/-- MX.EPI (R266). -/
def mxEpiIn (s : State) (f m : Nat) (toBuf : Bool) (c : Cmd) : CmdRes :=
  let l := c.l.toNat
  let row0 := bitsOf l 0 11
  let n := bitsOf l 11 5 + 1
  let bias := if bitOf l 16 then some (bitsOf l 17 11) else none
  let rb := runBytes (cfgO ((s.field f).me m).cfg)
  let h := c.r.toNat % 256
  let b := s.buf f h
  if 2048 < row0 + n then .fault s codeEngRange 0 0 0
  else if toBuf && !b.declared then .fault s codeBufBad 0 0 0
  else if toBuf && (b.busy || !eotRoom s f b) then .wait
  else
    let fill := if b.st = 0 then 0 else b.bytes
    if toBuf && decide (b.size < fill + n * rb) then .fault s codeEngRange 0 0 0
    else
      let rows := (List.range n).map fun i => epiRow s f m (row0 + i) bias
      let fl := rows.foldl (fun fl r => fl.or r.2) Flags.none
      if toBuf then
        let a := b.base f + fill
        if inShadow s a (n * rb) then .fault s codePlaneHome 8 0 0
        else
          let s := homeWrite (storeTouch (meFlags s f m fl) a (n * rb) true) a (rows.flatMap (·.1)) false
          .ok (postTransfer s f h (n * rb)) (engToken (n * rb))
      else
        .ok (meFlags s f m fl) ((rows.flatMap fun r => byteTokens r.1)
          ++ if bitOf l 28 then [{ kind := .eos, data := dataOf (n * rb), psn := false }] else [])

/-! ### Copy channels (R267 to R272) -/

def FieldSt.chan (f : FieldSt) (k : Nat) : ChanSt := SMap.get f.chans ChanSt.reset k
def State.setChan (s : State) (f k : Nat) (v : ChanSt) : State :=
  s.setField f { s.field f with chans := SMap.put (s.field f).chans ChanSt.reset k v }

/-- The status register of a channel, and its head register (R270). -/
def ChanSt.status (c : ChanSt) : Nat := c.st.toNat * 2 ^ 30 + c.cause.toNat * 2 ^ 27 + c.recs.toNat

/-- A fault stops the channel in state FAULT with its cause; the CPY.HEAD withholds, and a retry reads the record again
(R254, R269, R271). Where the fault takes the command away the channel is idle. -/
def chanFault (s : State) (f k : Nat) (c : Cmd) (code acc va : Nat) (cause : BitVec 3) (detail : DWord) : State :=
  if (s.slot c.x).wh.isSome then s
  else
    let s := cmdFault (s.setChan f k { (s.field f).chan k with st := 3, cause := cause, read := none }) f (5 + k) c code acc va detail
    s.setField f (idleChans (s.field f))

/-- CPY.HEAD is performed when its channel is idle: it starts the chain (R271). A VA with bits above 47 stops the channel at the
first record, which cannot be translated (R170); a retry starts anew (notes/assumptions/44.md). -/
def cpyHeadStart (s : State) (f k : Nat) (c : Cmd) : State :=
  if c.l.toNat % 64 ≠ 0 then cmdFault s f (5 + k) c codeMisalign 7 c.l.toNat 0
  else
    let s := s.setChan f k { rcd := dataOf (c.l.toNat % 2 ^ 48), st := 1, cause := 0, recs := 0, read := none }
    if 2 ^ 48 ≤ c.l.toNat then chanFault s f k c codeVaInvalid 7 c.l.toNat 5 c.l
    else modCmd s f c.id fun a => { a with started := true }

/-- The chain stops: the channel is idle and the CPY.HEAD is performed (R271). -/
def chanStop (s : State) (f k : Nat) (c : Cmd) (cause : BitVec 3) : State :=
  let v := { (s.field f).chan k with st := 0, cause := cause, read := none }
  performedAll (s.setChan f k v) f c (engToken v.status)

/-- A signed 32-bit field. -/
def s32 (v : Nat) : Int := signedOf 32 v

/-- Word i of a record. -/
def recWord (bs : List Byte) (i : Nat) : Nat := leNat ((bs.drop (8 * i)).take 8)

/-- Whether a transfer record has a zero field that is not zero (R267, R268). -/
def xferReserved (w : Nat → Nat) : Bool :=
  decide (bitsOf (w 0) 48 16 ≠ 0) || decide (bitsOf (w 0) 1 5 ≠ 0) || decide (bitsOf (w 1) 48 16 ≠ 0) ||
    decide (bitsOf (w 5) 48 16 ≠ 0) || decide (bitsOf (w 5) 10 6 ≠ 0) || decide (bitsOf (w 7) 9 7 ≠ 0)

/-- The bytes of one tile: the source elements in bounds and FILL elsewhere, element by element; the second part says
how far it came before a fault or a wait (R269). -/
def xferBytes (s : State) (f t : Nat) (w : Nat → Nat) : List Nat → List Byte → State × List Byte × Option EngRead
  | [], acc => (s, acc, none)
  | e :: es, acc =>
    let tc := bitsOf (w 4) 16 16
    let sz := 2 ^ bitsOf (w 5) 8 2
    let r := s32 (bitsOf (w 3) 0 32) + (e / tc : Nat)
    let c := s32 (bitsOf (w 3) 32 32) + (e % tc : Nat)
    if 0 ≤ r ∧ r < (bitsOf (w 2) 0 32 : Nat) ∧ 0 ≤ c ∧ c < (bitsOf (w 2) 32 32 : Nat) then
      match engRead s f t (bitsOf (w 1) 0 48 + r.toNat * bitsOf (w 4) 32 32 + c.toNat * sz) sz Need.engine true with
      | (s, .ok bs) => xferBytes s f t w es (acc ++ bs)
      | (s, x) => (s, acc, some x)
    else xferBytes s f t w es (acc ++ leBytes sz (w 6))

/-- A record with OWN = 1 and a writable page: check it and carry it out (R268, R269). -/
def carryOut (s : State) (f k : Nat) (c : Cmd) (va : Nat) (bs : List Byte) : State :=
  let t := tileOf c.x
  let w := recWord bs
  let low := dataOf (va % 2 ^ 32)
  let tc := bitsOf (w 4) 16 16
  let td := bitsOf (w 4) 0 16
  let sz := 2 ^ bitsOf (w 5) 8 2
  let h := bitsOf (w 5) 0 8
  let doff := bitsOf (w 5) 16 32
  let b := s.buf f h
  let n := tc * td * sz
  if 1 < bitsOf (w 7) 0 8 ∧ bitOf (w 7) 8 then chanFault s f k c codeUnsupported 7 va 3 low
  else if xferReserved w || decide (tc = 0) || decide (td = 0) then chanFault s f k c codeXferBad 7 va 4 low
  else if !b.declared then chanFault s f k c codeBufBad 7 va 5 (dataOf va)
  else if b.size < doff + n then chanFault s f k c codeXferBad 7 va 4 low
  else if b.busy || !eotRoom s f b then s.setChan f k { (s.field f).chan k with st := 2, read := some bs }
  else if inShadow s (b.base f + doff) n then chanFault s f k c codePlaneHome 8 va 5 (dataOf va)
  else
    match xferBytes s f t w (List.range (tc * td)) [] with
    | (u, _, some .wait) => (stillAsks f s u).setChan f k { (s.field f).chan k with st := 1, read := some bs }
    | (s, out, some (.fault code acc fva d)) =>
      chanFault (bufWrite s (b.base f + doff) out) f k c code acc fva 5 (if code = codeRemoteFail then d else dataOf fva)
    | (t, out, _) =>
      match disown t f va (w 0) with
      | (u, some .wait) => (stillAsks f s u).setChan f k { (s.field f).chan k with st := 1, read := some bs }
      | (s', some (.fault code acc fva d)) =>
        chanFault (bufWrite s' (b.base f + doff) out) f k c code acc fva 5 (if code = codeRemoteFail then d else dataOf fva)
      | (s, _) =>
        let s := postTransfer (bufWrite s (b.base f + doff) out) f h n
        let v := (s.field f).chan k
        let next := bitsOf (w 0) 6 42 * 64
        let v := { v with st := 1, recs := v.recs + 1, read := none }
        if next = 0 then chanStop (s.setChan f k v) f k c 1
        else noteProgress (s.setChan f k { v with rcd := dataOf next }) (tileOf c.x)
where
  /-- The bytes of a tile in the buffer. -/
  bufWrite (s : State) (a : Nat) (out : List Byte) : State :=
    if out = [] then s else homeWrite (storeTouch s a out.length true) a out false
  /-- Word 0 of the record with OWN clear, as one access at its home or its peer; none where it is done. -/
  disown (s : State) (f va w0 : Nat) : State × Option EngRead :=
    match translate s f none va Need.record true with
    | (s, .wait) => (s, some .wait)
    | (s, .fault code w) => (s, some (.fault code (if w then 10 else 8) va 0))
    | (s, .ok p) =>
      let pa := ptePpn p * pageSize + va % pageSize
      let bs := leBytes 8 (w0 - 1)
      if partResident p (bitsOf va 16 5) then
        if pageBusy s pa then (s, some .wait)
        else if isTileStore pa then (homeWrite (storeTouch s pa 8 true) pa bs false, none)
        else (homeWrite (l2Touch s pa [sectorInLine pa] true false) pa bs false, none)
      else
        let lead := leadOf s (quarterOfDie (dieOfField f))
        match remotePeer s lead with
        | none => (s, some (.fault codePaInvalid 9 va 0))
        | some q =>
          match askRemote s lead q va (requestTo s lead q pa (.write bs false)) with
          | (s, .wait) => (s, some .wait)
          | (s, .failed e) => (s, some (.fault codeRemoteFail 9 va (BitVec.ofNat 64 e)))
          | (s, .done) => (s, none)

/-- COPY_RECORD (R269): the channel reads its record as one access; software's record stops it; a record to be
carried out must be on a page it may update. -/
def copyRecordStep (s : State) (f k : Nat) : State :=
  match (cmdQueue s f (5 + k))[0]? with
  | none => s
  | some c =>
    let v := (s.field f).chan k
    if !c.started || c.wh.isSome || decide (v.st = 0) || decide (v.st = 3) then s
    else
      let t := tileOf c.x
      let s := s.task c.id
      let va := v.rcd.toNat
      let bad (s : State) (code acc fva : Nat) (d : DWord) : State :=
        chanFault s f k c code acc fva 5 (if code = codeRemoteFail then d else dataOf fva)
      match v.read with
      | some bs => carryOut s f k c va bs
      | none =>
        match engRead s f t va 64 Need.engine true with
        | (u, .wait) => stillAsks f s u
        | (u, .fault code acc fva d) => bad u code acc fva d
        | (u, .ok bs) =>
          if !bitOf (recWord bs 0) 0 then chanStop u f k c 2
          else
            match engCheck u f t va 64 Need.record true with
            | (v, .error (.fault code acc fva d)) => bad v code acc fva d
            | (v, .ok _) => carryOut v f k c va bs
            | (v, .error _) => stillAsks f s v

/-! ### Walk engines (R273 to R276) -/

/-- Mix(seed, step) (R274). -/
def walkMix (seed step : Nat) : Nat :=
  let m := 2 ^ 64
  let x := (seed + (step + 1) * 0x9E3779B97F4A7C15) % m
  let x := Nat.xor x (x / 2 ^ 30) * 0xBF58476D1CE4E5B9 % m
  let x := Nat.xor x (x / 2 ^ 27) * 0x94D049BB133111EB % m
  Nat.xor x (x / 2 ^ 31)

/-- The context a token names, if its stack lies in the partition of field f: 4096 x H + index. -/
def walkContext (s : State) (f : Nat) (v : DWord) : Option Nat :=
  let h := bitsOf v.toNat 12 4
  if samePart s (quarterOfDie (dieOfField f)) (h / 4) then some (h * 4096 + bitsOf v.toNat 0 12) else none

/-- WLK.CFG (R275). -/
def wlkCfgIn (s : State) (f : Nat) (c : Cmd) : CmdRes :=
  match walkContext s f c.r with
  | none => .fault s codeEngRange 0 0 0
  | some k =>
    if bitsOf c.l.toNat 48 16 ≠ 0 ∨ bitsOf c.l.toNat 1 5 ≠ 0 then .fault s codeEngCfg 0 0 0
    else if (s.walk k).run.isSome then .wait
    else .ok (s.setWalk k { s.walk k with cfg := c.l }) (engToken 0)

/-- WLK.GO starts: its context is taken (R276). -/
def wlkStart (s : State) (f : Nat) (c : Cmd) : State :=
  match walkContext s f c.p with
  | none => if (s.slot c.x).wh.isSome then s else cmdFault s f 9 c codeEngRange 0 0 0
  | some k =>
    if (s.walk k).run.isSome then s
    else
      let s := s.setWalk k { s.walk k with run := some c.id }
      pmcCount (modCmd s f c.id fun a => { a with started := true }) (k / 8192) 7 1

/-- The arrays of a descriptor: OFFS, NBRS, NV, OW. -/
abbrev WalkDesc := Nat × Nat × Nat × Bool

/-- Read a number of an array for a walk. -/
def walkRead (s : State) (f t base n i : Nat) : State × Except EngRead Nat :=
  match engRead s f t ((base + n * i) % 2 ^ 64) n Need.engine false with
  | (s, .ok bs) => (s, .ok (leNat bs))
  | (s, x) => (s, .error x)

/-- The hops of a walk from vertex v: the outputs after it. -/
def walkHops (s : State) (f t seed : Nat) (d : WalkDesc) : Nat → Nat → Nat → State × Except EngRead (List Nat)
  | 0, _, _ => (s, .ok [])
  | hops + 1, step, v =>
    let (offs, nbrs, nv, ow) := d
    let w := if ow then 8 else 4
    match walkRead s f t offs w v with
    | (s, .error e) => (s, .error e)
    | (s, .ok lo) =>
      match walkRead s f t offs w (v + 1) with
      | (s, .error e) => (s, .error e)
      | (s, .ok hi) =>
        if hi < lo then (s, .error (.fault codeEngRange 0 0 0))
        else if hi = lo then (s, .ok (List.replicate (hops + 1) 0xFFFFFFFF))
        else
          match walkRead s f t nbrs 4 (lo + walkMix seed step % (hi - lo)) with
          | (s, .error e) => (s, .error e)
          | (s, .ok u) =>
            if nv ≤ u then (s, .error (.fault codeEngRange 0 0 0))
            else
              match walkHops s f t seed d hops (step + 1) u with
              | (s, .error e) => (s, .error e)
              | (s, .ok out) => (s, .ok (u :: out))

/-- A walk whole: the descriptor, the start, the hops (R276). -/
def walkRun (s : State) (f k : Nat) (c : Cmd) : State × Except EngRead (List Nat) :=
  let t := tileOf c.x
  let cfg := (s.walk k).cfg.toNat
  if !bitOf cfg 0 then (s, .error (.fault codeEngCfg 0 0 0))
  else
    match engRead s f t (bitsOf cfg 6 42 * 64) 64 Need.engine false with
    | (s, .ok bs) =>
      let nv := bitsOf (recWord bs 2) 0 32
      let v := c.l.toNat
      if bitsOf (recWord bs 2) 33 31 ≠ 0 ∨ (bs.drop 24).any (fun b => decide (b ≠ 0)) then
        (s, .error (.fault codeEngCfg 0 0 0))
      else if nv ≤ v then (s, .error (.fault codeEngRange 0 0 0))
      else
        match walkHops s f t c.r.toNat (recWord bs 0, recWord bs 1, nv, bitOf (recWord bs 2) 32) (bitsOf c.p.toNat 16 8) 0 v with
        | (s, .ok out) => (s, .ok (v :: out))
        | (s, .error e) => (s, .error e)
    | (s, e) => (s, .error e)

/-- A started WLK.GO is performed: its burst, or its fault, which frees the context (R276). -/
def wlkPerform (s : State) (f : Nat) (eos : Bool) (c : Cmd) : State :=
  match walkContext s f c.p with
  | none => s
  | some k =>
    match walkRun (s.task c.id) f k c with
    | (u, .error .wait) => stillAsks f (s.task c.id) u
    | (s', .error (.fault code acc va d)) =>
      if (s.slot c.x).wh.isSome then s
      else
        let s' := s'.setWalk k { s'.walk k with run := none }
        cmdFault (modCmd s' f c.id fun a => { a with started := false }) f 9 { c with started := false } code acc va d
    | (s', .error (.ok _)) => s'
    | (s', .ok out) =>
      let s' := s'.setWalk k { s'.walk k with run := none }
      performedAll s' f c ((out.map fun v => dataTok (dataOf v) false)
        ++ if eos then [{ kind := .eos, data := dataOf out.length, psn := false }] else [])

/-! ### Performance (R252, R253) -/

/-- Carry out what a command answered in one queue, or in all of them at once. -/
def applyRes (s : State) (f q : Nat) (c : Cmd) (all : Bool) : CmdRes → State
  | .wait => s
  | .more s' => s'
  | .fault s' code acc va d => if (s.slot c.x).wh.isSome then s else cmdFault s' f q c code acc va d
  | .ok s' toks => if all then performedAll s' f c toks else performedIn s' f q c toks

/-- Whether a command stands at the head of every queue it names, and reached them in an earlier cycle. -/
def headsAll (s : State) (f : Nat) (c : Cmd) (qs : List Nat) : Bool :=
  qs.all fun q => decide (((cmdQueue s f q)[0]?).map Cmd.id = some c.id)

/-- Perform the k-th command of queue q of field f: the head, but for WQ, whose commands run concurrently. -/
def enginePerform (s : State) (f q k : Nat) : State :=
  let s := s.by (engineSource f q)
  match cpyHead s f q with
  | some (d, c) => if c.wh.isSome || decide (s.now ≤ c.firedAt) then s else applyRes s f q c true (mxCpyIn s f q k d c)
  | none =>
  match (cmdQueue s f q)[k]? with
  | none => s
  | some c =>
    if c.wh.isSome || decide (s.now ≤ c.firedAt) then s
    else if q = 9 then
      let before := (cmdQueue s f q).take k
      match c.i with
      | .wlkGo eos _ _ =>
        if c.started then wlkPerform s f eos c
        else if before.all (·.started) then wlkStart s f c else s
      | _ => if before.all (·.started) then applyRes s f q c true (wlkCfgIn s f c) else s
    else if k ≠ 0 then s
    else
      match c.i with
      | .mxCfg _ _ _ => applyRes s f q c false (mxCfgIn s f q c)
      | .mxZero _ _ _ => applyRes s f q c false (mxZeroIn s f q c)
      | .mxBb m _ _ => if headsAll s f c (maskMes m) then applyRes s f q c true (mxBbAll s f (maskMes m) c) else s
      | .mxMma m _ _ => if headsAll s f c (maskMes m) then applyRes s f q c true (mxMmaAll s f (maskMes m) c) else s
      | .mxEpi d _ _ _ => applyRes s f q c true (mxEpiIn s f q d c)
      | .mxGath _ _ => applyRes s f q c true (mxGathIn s f c)
      | .cpyHead _ _ _ =>
        if c.started || (s.slot c.x).wh.isSome || decide (2 ≤ ((s.field f).chan (q - 5)).st.toNat) then s
        else cpyHeadStart s f (q - 5) c
      | _ => s
where
  /-- An MX.CPY at the head of an ME's queue. -/
  cpyHead (s : State) (f q : Nat) : Option (Bool × Cmd) :=
    match (cmdQueue s f q)[0]? with
    | none => none
    | some c =>
      match c.i with
      | .mxCpy d _ _ _ => some (d, c)
      | _ => none

/-- ENGINE_COMMAND_PERFORMED (R253). -/
def execEngineCommandPerformed (f q k : Nat) (s : State) : Out := .next (enginePerform s f q k)

/-- COPY_RECORD (R269). -/
def execCopyRecord (f k : Nat) (s : State) : Out := .next (copyRecordStep (s.by (engineSource f (5 + k))) f k)

/-- Whether slot x has an MX.GATH in its burst that it fired before id (R261, R277). -/
def gathBurst (s : State) (x id : Nat) : Bool :=
  (match (s.slot x).burstId with
   | some b => decide (b < id)
   | none => false) && (match slotInstr s x with
    | some (.mxGath _ _) => true
    | _ => false)

/-- Whether the commands a QFENCE waits for are performed: those its tile fired before it into a named queue (R277). -/
def qfenceClear (s : State) (f : Nat) (c : Cmd) : Bool :=
  let named (a : Cmd) : Bool := decide (a.id < c.id) && decide (tileOf a.x = tileOf c.x) &&
    (queuesOf a.i).any fun q => bitOf c.l.toNat q
  let fs := s.field f
  !((fs.bus ++ fs.queues.flatMap (·.2) ++ fs.slds).any named) &&
    !(bitOf c.l.toNat 4 && (List.range 8).any fun k => gathBurst s (64 * tileOf c.x + 56 + k) c.id) &&
    !(bitOf c.l.toNat 10 && (List.range 8).any fun k =>
      (s.slot (64 * tileOf c.x + 56 + k)).accs.any fun a => decide (a.id < c.id) && msuAccess a.i)

/-! ### Firings -/

/-- MX.CFG (R260). -/
def execMxCfg (m : BitVec 4) (t1 t0 : Target) (s : State) : Out := fireCmd s (.mxCfg m t1 t0) (maskMes m) false
/-- MX.BB (R262). -/
def execMxBb (m : BitVec 4) (t1 t0 : Target) (s : State) : Out := fireCmd s (.mxBb m t1 t0) (maskMes m) false
/-- MX.MMA (R263). -/
def execMxMma (m : BitVec 4) (t1 t0 : Target) (s : State) : Out := fireCmd s (.mxMma m t1 t0) (maskMes m) false
/-- MX.ZERO (R264). -/
def execMxZero (m : BitVec 4) (t1 t0 : Target) (s : State) : Out := fireCmd s (.mxZero m t1 t0) (maskMes m) false
/-- MX.EPI (R266): to tokens, the slot does not fire again until the last has left. -/
def execMxEpi (d : Bool) (m : BitVec 2) (t1 t0 : Target) (s : State) : Out := fireCmd s (.mxEpi d m t1 t0) [m.toNat] (!d)
/-- MX.CPY (R265). -/
def execMxCpy (d : Bool) (m : BitVec 2) (t1 t0 : Target) (s : State) : Out := fireCmd s (.mxCpy d m t1 t0) [m.toNat] false
/-- CPY.HEAD (R271). -/
def execCpyHead (c : BitVec 2) (t1 t0 : Target) (s : State) : Out := fireCmd s (.cpyHead c t1 t0) [5 + c.toNat] false
/-- CPY.STAT (R272): not queued. -/
def execCpyStat (d : Bool) (m : BitVec 2) (t1 t0 : Target) (s : State) : Out := fireCmd s (.cpyStat d m t1 t0) [] false
/-- WLK.CFG (R275). -/
def execWlkCfg (t1 t0 : Target) (s : State) : Out := fireCmd s (.wlkCfg t1 t0) [9] false
/-- WLK.GO (R276). -/
def execWlkGo (e : Bool) (t1 t0 : Target) (s : State) : Out := fireCmd s (.wlkGo e t1 t0) [9] false
/-- QFENCE (R277). -/
def execQfence (p : Pred) (t1 t0 : Target) (s : State) : Out := fireCmd s (.qfence p t1 t0) [] false

/-- MX.GATH's next index token (R261): the command takes the descriptor with the eighth. -/
def gathBeat (s : State) (x : Nat) (i : Instr) (l r : Token) : State :=
  let s := burstBegin (consume s x .l) x
  let v := s.slot x
  let beats := v.burst ++ [l.data]
  let psn := v.burstPsn || l.psn
  if beats.length < 8 then noteFiring (s.setSlot x { v with burst := beats, burstPsn := psn }) x
  else
    let s := noteFiring (consume (burstEnd s x) x .r) x
    let id := v.burstId.getD s.nextId
    toBus (openAs s x i false id) { mkCmd s x i [(.l, l), (.r, r)] [4] with id := id, idx := beats, psn := psn }

/-- MX.GATH's firing: a first token with its descriptor, or a further one; a marker after the first is STREAM-SKEW and
the indices taken are discarded. -/
def gathStep (s : State) (x : Nat) (i : Instr) : State :=
  if (s.slot x).burst = [] then
    match cmdPlan s x i true with
    | .wait => s
    | .fault c => firingFault s x c 0 4 0 0
    | .forward p tok => forwardMarker s x i p tok
    | .drop ps => noteFiring (consumeAll s x ps) x
    | .go r => gathBeat s x i (tokenAt r .l) (tokenAt r .r)
  else
    match headAt s x .l, headAt s x .r with
    | some l, some r =>
      if l.tok.kind = .data then gathBeat s x i l.tok r.tok
      else firingFault (burstEnd s x) x codeStreamSkew 0 4 0 0
    | _, _ => s

/-- MX.GATH (R261). -/
def execMxGath (t1 t0 : Target) (s : State) : Out :=
  .next (if cmdReady s s.foc then gathStep s s.foc (.mxGath t1 t0) else s)

end Sys2Proof.Machine
end

