-- ==== Sys2Proof/Machine/Registers.lean ====
section
/-! DEFINITION. Register space (spec/01_organisation.md R26, spec/18_queues.md R312, spec/19_counters.md R341 to R345,
spec/10_translation_tables.md R181, R197 to R200, spec/11_memories.md R210, R215, spec/15_ordering_far.md R297, R298,
spec/20_faults.md R359, spec/21_control_cores.md R369, R376, R383, R386): which addresses a user may reach, what each
register reads as, and what a write does. -/

namespace Sys2Proof.Machine

/-! ### Fields of the registers -/

def RingSt.read (r : RingSt) : DWord :=
  BitVec.ofNat 64 (b2n r.en * 2 ^ 63 + r.head.toNat * 2 ^ 32 + r.tail.toNat * 2 ^ 16 + r.nent.toNat)

/-- Places of a ring: entries used, of NENT + 1 (R313). -/
def ringUsed (head tail nent : BitVec 12) : Nat := (tail.toNat + (nent.toNat + 1) - head.toNat) % (nent.toNat + 1)

/-- A write of CRP or JNP (R312): enabling empties the ring; a HEAD beyond TAIL makes the write have no effect. -/
def RingSt.write (r : RingSt) (v : DWord) : RingSt :=
  let en := v.getLsbD 63
  let head : BitVec 12 := v.extractLsb' 32 12
  let nent := if r.en then r.nent else v.extractLsb' 0 12
  if en && !r.en then { en := true, head := 0, tail := 0, nent := nent }
  else if r.nent.toNat < head.toNat ∨ ringUsed r.head r.tail r.nent < ringUsed r.head head r.nent then r
  else { r with en := en, head := head, nent := nent }

def LqSt.readC (l : LqSt) : DWord := BitVec.ofNat 64 (b2n l.en * 2 ^ 31 + l.hpri.toNat * 2 ^ 16 + l.nent.toNat)
def LqSt.readP (l : LqSt) : DWord :=
  BitVec.ofNat 64 (b2n l.blk * 2 ^ 35 + l.byp % 16 * 2 ^ 31 + l.tail.toNat * 2 ^ 16 + l.head.toNat)

/-- A write of LQC (R312): enabling empties the queue; NENT stands while EN is 1. HPRI, BYP and BLK of the empty queue are 0
(DESIGN CHOICE, notes/assumptions/30.md). -/
def LqSt.writeC (l : LqSt) (v : DWord) : LqSt :=
  let en := v.getLsbD 31
  let nent := if l.en then l.nent else v.extractLsb' 0 12
  if en && !l.en then { l with en := true, nent := nent, head := 0, tail := 0, hpri := 0, blk := false, byp := 0, stamps := [] }
  else { l with en := en, nent := nent }

def PeerSt.readA (p : PeerSt) : DWord :=
  BitVec.ofNat 64 (b2n p.en * 2 ^ 63 + p.mode.toNat * 2 ^ 61 + p.port.toNat * 2 ^ 48 + p.fep.toNat)

/-- A write of PEERA (R297): MODE 0b11 leaves the field; an index beyond the partition's ports clears EN. -/
def PeerSt.writeA (p : PeerSt) (ports : Nat) (v : DWord) : PeerSt :=
  let mode : BitVec 2 := v.extractLsb' 61 2
  let port : BitVec 4 := v.extractLsb' 48 4
  { p with
    en := v.getLsbD 63 && decide (port.toNat < ports), mode := if mode = 3 then p.mode else mode, port := port,
    fep := v.extractLsb' 0 32 }

def RemSt.read (r : RemSt) : DWord := BitVec.ofNat 64 (r.rto % 65536 * 2 ^ 16 + b2n r.en * 2 ^ 4 + r.rpeer.toNat)
def RemSt.write (v : DWord) : RemSt :=
  let rto := bitsOf v.toNat 16 16
  { rto := if rto = 0 then 1 else rto, en := v.getLsbD 4, rpeer := v.extractLsb' 0 4 }

/-- FBSTAT (R331). -/
def QuarterSt.fbstat (v : QuarterSt) : DWord :=
  BitVec.ofNat 64 (b2n v.ovf * 2 ^ 31 + Nat.min v.held.length 0xFFFFF * 2 ^ 11 + v.fbuf.length)

def HbSt.read (h : HbSt) : DWord :=
  BitVec.ofNat 64 (b2n h.lapse * 2 ^ 63 + b2n h.owner * 2 ^ 62 + b2n h.hold * 2 ^ 61 + b2n h.qsc * 2 ^ 60
    + h.period % 2 ^ 32)

def PartReg.readIlv (p : PartReg) : DWord := BitVec.ofNat 64 p.ilv.toNat
def PartReg.readBnd0 (p : PartReg) : DWord := BitVec.ofNat 64 (p.opens.toNat * 16 + b2n p.lead * 8 + p.part.toNat)
def PartReg.readBnd1 (p : PartReg) : DWord := BitVec.ofNat 64 (p.root.toNat * 2 ^ 17 + b2n p.rootV)

def LaycSt.read (l : LaycSt) (cur : Nat) : DWord :=
  BitVec.ofNat 64 (b2n l.busy * 2 ^ 63 + b2n l.err * 2 ^ 62 + cur % 4 * 2 ^ 56 + l.gran.toNat * 2 ^ 48
    + l.ppn.toNat * 2 ^ 21)

def LeakCfg.read (l : LeakCfg) : DWord := BitVec.ofNat 64 (l.mark % 65536 * 2 ^ 32 + l.leak % 2 ^ 32)
def LeakCfg.write (v : DWord) : LeakCfg :=
  let m := bitsOf v.toNat 32 16
  { mark := if m = 0 then 1 else m, leak := bitsOf v.toNat 0 32 }

def UeSt.readC (u : UeSt) : DWord := BitVec.ofNat 64 (b2n u.en * 2 ^ 63 + u.fep.toNat)
def UeSt.readS (u : UeSt) : DWord := BitVec.ofNat 64 (b2n u.up * 2 ^ 63 + u.lanes.toNat * 2 ^ 48 + u.fecu.toNat)
def UeSt.writeC (u : UeSt) (v : DWord) : UeSt :=
  { u with en := v.getLsbD 63, fep := if u.en then u.fep else v.extractLsb' 0 32 }

/-- CINT (R369). -/
def QuarterSt.cint (v : QuarterSt) : DWord := BitVec.ofNat 64 (v.cintIe.toNat * 2 ^ 32 + v.cintPend.toNat)

/-! ### Places of register space -/

/-- What a register-space address, aligned to 8, names. -/
inductive RegName where
  | gcyc (d : Nat)
  | retw (d k r : Nat)
  | cacheCtr (d k r : Nat)
  | pmc (d k : Nat)
  | pmcSel (d k : Nat)
  | imem (c o : Nat)
  | layc (d : Nat)
  | leak (d k : Nat)
  | uec (d k : Nat)
  | ues (d k : Nat)
  | kmapa (q : Nat)
  | tlim (q : Nat)
  | bypb (q : Nat)
  | wdog (q : Nat)
  | fbstat (q : Nat)
  | crb (q : Nat)
  | crp (q : Nat)
  | jnb (q : Nat)
  | jnp (q : Nat)
  | peera (q p : Nat)
  | peerb (q p : Nat)
  | remctl (q : Nat)
  | hbtc (q : Nat)
  | cint (q : Nat)
  | lqb (q n : Nat)
  | lqc (q n : Nat)
  | lqp (q n : Nat)
  | bootst
  | ilv (q : Nat)
  | bnd (n : Nat)
  | unassigned
  deriving DecidableEq, Repr

/-- A register of a die unit. Instruction memory of core 0 lies on the even dies, of core 1 on the odd ones, of core 2
on D0 (R12, R367). -/
def dieReg (d o : Nat) : RegName :=
  if o = 0x100 then .gcyc d
  else if 0x100000 ≤ o ∧ o < 0x100100 then
    (let r := o % 0x20
     if r < 0x18 then .retw d ((o - 0x100000) / 0x20) (r / 8) else .unassigned)
  else if 0x110000 ≤ o ∧ o < 0x110100 then
    (let r := o % 0x20
     if r < 0x18 then .cacheCtr d ((o - 0x110000) / 0x20) (r / 8) else .unassigned)
  else if 0x120000 ≤ o ∧ o < 0x120080 then
    (if o % 0x10 = 0 then .pmc d ((o - 0x120000) / 0x10) else .pmcSel d ((o - 0x120000) / 0x10))
  else if 0x200000 ≤ o ∧ o < 0x2C0000 then
    (let k := (o - 0x200000) / 0x40000
     let a := (o - 0x200000) % 0x40000
     if k = 2 then (if d = 0 then .imem 8 a else .unassigned) else if d % 2 = k then .imem d a else .unassigned)
  else if o = 0x300000 then .layc d
  else if o = 0x400000 then .leak d 0
  else if o = 0x400008 then .leak d 1
  else if o = 0x400010 then .leak d 2
  else if o = 0x500000 then .uec d 0
  else if o = 0x500008 then .ues d 0
  else if o = 0x500100 then .uec d 1
  else if o = 0x500108 then .ues d 1
  else .unassigned

/-- A register of a quarter unit. -/
def quarterReg (q o : Nat) : RegName :=
  if o = 0x100 then .kmapa q
  else if o = 0x200 then .tlim q
  else if o = 0x208 then .bypb q
  else if o = 0x210 then .wdog q
  else if o = 0x300 then .fbstat q
  else if o = 0x320 then .crb q
  else if o = 0x328 then .crp q
  else if o = 0x340 then .jnb q
  else if o = 0x348 then .jnp q
  else if 0x400 ≤ o ∧ o < 0x500 then (if o % 16 = 0 then .peera q ((o - 0x400) / 16) else .peerb q ((o - 0x400) / 16))
  else if o = 0x500 then .remctl q
  else if o = 0x600 then .hbtc q
  else if o = 0x608 then .cint q
  else if 0x1000 ≤ o ∧ o < 0x1800 then
    (let r := o % 0x20
     let n := (o - 0x1000) / 0x20
     if r = 0 then .lqb q n else if r = 8 then .lqc q n else if r = 0x10 then .lqp q n else .unassigned)
  else .unassigned

/-- A register of the module unit. -/
def moduleReg (o : Nat) : RegName :=
  if o = 0 then .bootst
  else if 0x1000 ≤ o ∧ o < 0x1020 then .ilv ((o - 0x1000) / 8)
  else if 0x1100 ≤ o ∧ o < 0x1140 then .bnd ((o - 0x1100) / 8)
  else .unassigned

/-- The unit selector of a register-space address (R26). -/
def regUnit (pa : Nat) : Nat := pa / 2 ^ 32 % 256

/-- The register at an address aligned to 8. -/
def regAt (pa : Nat) : RegName :=
  let u := regUnit pa
  let o := pa % 2 ^ 32
  if u < 8 then dieReg u o else if 0x10 ≤ u ∧ u < 0x14 then quarterReg (u - 0x10) o
  else if u = 0x20 then moduleReg o else .unassigned

/-- Registers kept in the lead quarter of a partition only (R312, R181, R297, R298, R331, R359): elsewhere they read
as zero and ignore writes. -/
def leadOnly : RegName → Option Nat
  | .tlim q => some q
  | .bypb q => some q
  | .wdog q => some q
  | .fbstat q => some q
  | .crb q => some q
  | .crp q => some q
  | .peera q _ => some q
  | .peerb q _ => some q
  | .remctl q => some q
  | _ => none

/-- Registers of 32 bits: the other half of their eight bytes is unassigned. -/
def reg32 : RegName → Bool
  | .tlim _ => true
  | .bypb _ => true
  | .wdog _ => true
  | .fbstat _ => true
  | _ => false

/-- Whether register space at pa is closed to a user (R26): die and quarter units of another partition, and the module
unit but for the MGC (no quarter) and the scheduler core of A where ABCD is formed. -/
def regClosed (s : State) (q : Option Nat) (moduleOk : Bool) (pa : Nat) : Bool :=
  let u := regUnit pa
  match q with
  | none => false
  | some r =>
    if u < 8 then !samePart s r (u / 2) else if 0x10 ≤ u ∧ u < 0x14 then !samePart s r (u - 0x10)
    else if u = 0x20 then !moduleOk else false

/-! ### Reading -/

/-- The tag of LAYC's page. -/
def laycTag (s : State) (l : LaycSt) : Nat :=
  let pa := l.ppn.toNat * pageSize
  if isDram pa then pageTag s pa else 0

/-- What a register reads as. -/
def regValue (s : State) : RegName → DWord
  | .gcyc d => (s.die d).gcyc
  | .retw d k r =>
    let w := SMap.get (s.die d).retw RetwSt.reset k
    if r = 0 then BitVec.ofNat 64 (w.base.toNat * 4096)
    else if r = 1 then BitVec.ofNat 64 (w.limit.toNat * 4096)
    else BitVec.ofNat 64 (w.eways % 16 * 256 + b2n w.en * 16 + w.ways % 16)
  | .cacheCtr d k r =>
    let w := SMap.get (s.die d).retw RetwSt.reset k
    (if r = 0 then w.hits else if r = 1 then w.miss else w.ovfl).setWidth 64
  | .pmc d k => (SMap.get (s.die d).pmc PmcSt.reset k).cnt
  | .pmcSel d k => (SMap.get (s.die d).pmc PmcSt.reset k).evt.setWidth 64
  | .imem c o => BitVec.ofNat 64 (leNat (Memory.read (s.coreSt c).imem o 8))
  | .layc d => (s.die d).layc.read (laycTag s (s.die d).layc)
  | .leak d k => (leakOf s d k).read
  | .uec d k => (SMap.get (s.die d).ue UeSt.reset k).readC
  | .ues d k => (SMap.get (s.die d).ue UeSt.reset k).readS
  | .kmapa q => BitVec.ofNat 64 (8 * (s.quarter q).kmapa.toNat)
  | .tlim q => BitVec.ofNat 64 (s.quarter q).tlim
  | .bypb q => BitVec.ofNat 64 (s.quarter q).bypb
  | .wdog q => BitVec.ofNat 64 (s.quarter q).wdog
  | .fbstat q => (s.quarter q).fbstat
  | .crb q => BitVec.ofNat 64 (64 * (s.quarter q).crb.toNat)
  | .crp q => (s.quarter q).crp.read
  | .jnb q => BitVec.ofNat 64 (64 * (s.quarter q).jnb.toNat)
  | .jnp q => (s.quarter q).jnp.read
  | .peera q p => (SMap.get (s.quarter q).peers PeerSt.reset p).readA
  | .peerb q p => BitVec.ofNat 64 (4096 * (SMap.get (s.quarter q).peers PeerSt.reset p).base.toNat)
  | .remctl q => (s.quarter q).rem.read
  | .hbtc q => (s.quarter q).hb.read
  | .cint q => (s.quarter q).cint
  | .lqb q n => BitVec.ofNat 64 (128 * (SMap.get (s.quarter q).lqs LqSt.reset n).base.toNat)
  | .lqc q n => (SMap.get (s.quarter q).lqs LqSt.reset n).readC
  | .lqp q n => (SMap.get (s.quarter q).lqs LqSt.reset n).readP
  | .bootst => s.bootst
  | .ilv q => (s.quarter q).active.readIlv
  | .bnd n => if n % 2 = 0 then (s.quarter (n / 2)).active.readBnd0 else (s.quarter (n / 2)).active.readBnd1
  | .unassigned => 0

/-- A register as its address reads: zero outside a lead quarter where R312 says so. -/
def regRead (s : State) (a : RegName) : DWord :=
  match leadOnly a with
  | some q => if leadOf s q = q then regValue s a else 0
  | none => regValue s a

/-- A naturally aligned read of 4 or 8 bytes. -/
def regLoad (s : State) (pa n : Nat) : DWord :=
  let v := regRead s (regAt (pa / 8 * 8))
  if n = 8 then v else if pa % 8 = 0 then v &&& 0xFFFFFFFF#64 else v >>> 32

/-! ### Writing -/

/-- The W1C bits of a register: a write of the other half leaves them as they are. -/
def w1cMask : RegName → DWord
  | .cint _ => 0x1F
  | .fbstat _ => 0x80000000
  | _ => 0

/-- The events a counter has counted in this cycle: they are added to what is written (R344). -/
def freshCount (s : State) : RegName → Nat
  | .cacheCtr d k r =>
    let w := SMap.get (s.die d).retw RetwSt.reset k
    if r = 0 then w.freshHits else if r = 1 then w.freshMiss else w.freshOvfl
  | .pmc d k => (SMap.get (s.die d).pmc PmcSt.reset k).fresh
  | _ => 0

/-- The 64-bit value of a write of n bytes at pa (R26): the other half of the register stands as it was before the cycle's
events. -/
def regForm (s : State) (pa n : Nat) (v : DWord) : DWord :=
  let a := regAt (pa / 8 * 8)
  let old := (regRead s a - BitVec.ofNat 64 (freshCount s a)) &&& ~~~(w1cMask a)
  if n = 8 then v
  else if pa % 8 = 0 then (old &&& 0xFFFFFFFF00000000#64) ||| (v &&& 0xFFFFFFFF#64)
  else (old &&& 0xFFFFFFFF#64) ||| (v <<< 32)

/-- Change a quarter's registers. -/
def modQuarter (s : State) (q : Nat) (f : QuarterSt → QuarterSt) : State := s.setQuarter q (f (s.quarter q))

/-- The heartbeat of quarter q lapses (R377). -/
def lapse (s : State) (q : Nat) : State :=
  raiseCint (modQuarter s q fun a => { a with hb := { a.hb with lapse := true, hold := true } }) q 3

/-- Change a die's registers. -/
def modDie (s : State) (d : Nat) (f : DieSt → DieSt) : State := s.setDie d (f (s.die d))

/-- A write of LQC.n (R312): the enabling of a queue wants a pass (R319). -/
def lqcPut (s : State) (q n : Nat) (v : DWord) : State :=
  let old := SMap.get (s.quarter q).lqs LqSt.reset n
  let s := modQuarter s q fun a => { a with lqs := SMap.put a.lqs LqSt.reset n (old.writeC v) }
  if v.getLsbD 31 && !old.en then wantPass s q else s

/-- A write of a retention window's control register (R210, R211). -/
def retwControlPut (s : State) (d k : Nat) (v : DWord) : State :=
  let ways := bitsOf v.toNat 0 4
  modDie s d fun die => recomputeEways
    (modWindow die k fun w => { w with en := v.getLsbD 4, ways := Nat.min ways 12 })

/-- A write of LAYC that starts a re-layout or is refused (R215). -/
def laycStart (s : State) (d : Nat) (v : DWord) : State :=
  let l := (s.die d).layc
  if l.busy then s
  else
    let gran : BitVec 2 := v.extractLsb' 48 2
    let ppn : BitVec 27 := v.extractLsb' 21 27
    let pa := ppn.toNat * pageSize
    let ok := decide (gran ≠ 3) && isDram pa && decide (homeDie s pa = d)
    modDie s d fun die => { die with layc := { busy := ok, err := !ok, gran := gran, ppn := ppn } }

/-- The ports of q's partition: four to a quarter (R14). -/
def partPorts (s : State) (q : Nat) : Nat := 4 * (partQuarters s q).length

/-- The effect of a 64-bit write on a register other than the four that are events of their own. -/
def regPut (s : State) (v : DWord) : RegName → State
  | .retw d k r =>
    let b : BitVec 36 := v.extractLsb' 12 36
    if r = 0 then modDie s d fun die => modWindow die k fun w => { w with base := b }
    else if r = 1 then modDie s d fun die => modWindow die k fun w => { w with limit := b }
    else retwControlPut s d k v
  | .cacheCtr d k r =>
    let c : BitVec 48 := v.extractLsb' 0 48
    modDie s d fun die => modWindow die k fun w =>
      if r = 0 then { w with hits := c + BitVec.ofNat 48 w.freshHits }
      else if r = 1 then { w with miss := c + BitVec.ofNat 48 w.freshMiss }
      else { w with ovfl := c + BitVec.ofNat 48 w.freshOvfl }
  | .pmc d k => modDie s d fun die =>
    let p := SMap.get die.pmc PmcSt.reset k
    { die with pmc := SMap.put die.pmc PmcSt.reset k { p with cnt := v + BitVec.ofNat 64 p.fresh } }
  | .pmcSel d k => modDie s d fun die =>
    let p := SMap.get die.pmc PmcSt.reset k
    { die with pmc := SMap.put die.pmc PmcSt.reset k { p with evt := v.extractLsb' 0 4 } }
  | .imem c o =>
    let m := s.coreSt c
    s.setCore c { m with
      imem := Memory.write m.imem o (leBytes 8 v.toNat), imemBad := m.imemBad.filter fun a => a / 8 ≠ o / 8 }
  | .layc d =>
    if (s.die d).layc.busy then s
    else modDie s d fun die =>
      { die with layc := { die.layc with gran := v.extractLsb' 48 2, ppn := v.extractLsb' 21 27 } }
  | .leak d k => modDie s d fun die => { die with leak := SMap.put die.leak LeakCfg.reset k (LeakCfg.write v) }
  | .uec d k => modDie s d fun die =>
    { die with ue := SMap.put die.ue UeSt.reset k ((SMap.get die.ue UeSt.reset k).writeC v) }
  | .kmapa q => modQuarter s q fun a => { a with kmapa := v.extractLsb' 3 45 }
  | .tlim q =>
    let t := bitsOf v.toNat 0 17
    modQuarter s q fun a => { a with tlim := if t < 10 then 10 else Nat.min t 100000 }
  | .bypb q => wantPass (modQuarter s q fun a => { a with bypb := bitsOf v.toNat 0 4 }) q
  | .wdog q =>
    let p := bitsOf v.toNat 0 24
    modQuarter s q fun a => { a with wdog := if p = 0 then 0 else Nat.max p 100 }
  | .fbstat q => modQuarter s q fun a =>
    if v.getLsbD 31 && !(a.held.any fun r => decide (r.postedAt = s.now)) then { a with ovf := false } else a
  | .crb q => modQuarter s q fun a => if a.crp.en then a else { a with crb := v.extractLsb' 6 42 }
  | .crp q => modQuarter s q fun a => { a with crp := a.crp.write v }
  | .jnb q => modQuarter s q fun a => if a.jnp.en then a else { a with jnb := v.extractLsb' 6 42 }
  | .jnp q => modQuarter s q fun a => { a with jnp := a.jnp.write v }
  | .peera q p => modQuarter s q fun a =>
    { a with peers := SMap.put a.peers PeerSt.reset p ((SMap.get a.peers PeerSt.reset p).writeA (partPorts s q) v) }
  | .peerb q p => modQuarter s q fun a =>
    let r := SMap.get a.peers PeerSt.reset p
    { a with peers := SMap.put a.peers PeerSt.reset p { r with base := v.extractLsb' 12 36 } }
  | .remctl q => modQuarter s q fun a => { a with rem := RemSt.write v }
  | .hbtc q => modQuarter s q fun a => { a with hb := { a.hb with period := Nat.max (bitsOf v.toNat 0 32) 10 } }
  | .cint q => modQuarter s q fun a =>
    { a with cintIe := v.extractLsb' 32 5, cintPend := a.cintPend &&& ~~~(v.extractLsb' 0 5) }
  | .lqb q n => modQuarter s q fun a =>
    let l := SMap.get a.lqs LqSt.reset n
    if l.en then a else { a with lqs := SMap.put a.lqs LqSt.reset n { l with base := v.extractLsb' 7 41 } }
  | .lqc q n => lqcPut s q n v
  | _ => s

/-- Put a turn before the others due. -/
def State.due (s : State) (i : Instr) : State := { s with agenda := .event i :: s.agenda }

/-- A write of n bytes at pa in register space. The registers whose writes are rows of the opcode table take them as
their next turn. -/
def regStore (s : State) (pa n : Nat) (v : DWord) : State :=
  let a := regAt (pa / 8 * 8)
  let w := regForm s pa n v
  if reg32 a && decide (n = 4) && decide (pa % 8 = 4) then s
  else if (match leadOnly a with
    | some q => decide (leadOf s q ≠ q)
    | none => false) then s
  else
    match a with
    | .lqc q k => s.due (.lqcWrite q k w)
    | .crp q => s.due (.crpWrite q w)
    | .jnp q => s.due (.jnpWrite q w)
    | .retw d k r => if r = 2 then s.due (.retwControlWrite d k w) else regPut s w a
    | .layc d => if w.getLsbD 0 then s.due (.laycGo d w) else regPut s w a
    | _ => regPut s w a

/-! ### The rows of the opcode table -/

/-- REGISTER_WRITE (R26). -/
def execRegisterWrite (pa n : Nat) (v : DWord) (s : State) : Out := .next (regStore s pa n v)

/-- LQC_WRITE (R312). -/
def execLqcWrite (q n : Nat) (v : DWord) (s : State) : Out := .next (lqcPut s q n v)

/-- CRP_WRITE (R312). -/
def execCrpWrite (q : Nat) (v : DWord) (s : State) : Out := .next (regPut s v (.crp q))

/-- JNP_WRITE (R312). -/
def execJnpWrite (q : Nat) (v : DWord) (s : State) : Out := .next (regPut s v (.jnp q))

/-- RETW_CONTROL_WRITE (R211). -/
def execRetwControlWrite (d k : Nat) (v : DWord) (s : State) : Out := .next (retwControlPut s d k v)

/-- LAYC_GO (R215). -/
def execLaycGo (d : Nat) (v : DWord) (s : State) : Out := .next (laycStart s d v)

/-- The granules of a page in a layout, by address. -/
def pageGranules (gran pa : Nat) : List Nat :=
  let n := if gran = 0 then 48 else if gran = 1 then 192 else 768
  (List.range ((pageSize + n - 1) / n)).map fun i => pa + n * i

/-- RELAYOUT_COMPLETE (R215): each granule is read and decoded in the old layout and written in the new one, whose codes are new;
the tag takes GRAN, BUSY clears. -/
def execRelayoutComplete (d : Nat) (s : State) : Out :=
  let l := (s.die d).layc
  .next <|
    if !l.busy then s
    else
      let pa := l.ppn.toNat * pageSize
      let s := foldState (fun s a => eccOutcome s a (Config.relayoutEcc s.turns a)) s (pageGranules (pageTag s pa) pa)
      let s := foldState (fun s g => encodeGranule s g (fun _ => false) fun b => l2Holds s (paOfLoc pa b)) s (granulesOf s (locOf s pa) pageSize)
      let s := { s with tags := SMap.put s.tags 0 (locOf s pa / pageSize) l.gran.toNat }
      modDie s d fun die => { die with layc := { die.layc with busy := false } }

end Sys2Proof.Machine
end

