-- ==== Sys2Proof/Machine/Queues.lean ====
section
/-! DEFINITION. Launch queues (spec/18_queues.md R313 to R315, R318): their entries in memory, pushes, heads; and the
reading of a stored record by SPAWN and by a SPAWN node (R324, R34). -/

namespace Sys2Proof.Machine

/-- Queue n of quarter q. -/
def State.lq (s : State) (q n : Nat) : LqSt := SMap.get (s.quarter q).lqs LqSt.reset n
def State.setLq (s : State) (q n : Nat) (l : LqSt) : State :=
  modQuarter s q fun a => { a with lqs := SMap.put a.lqs LqSt.reset n l }

/-- The physical address of entry i, and of the kick entry (R313). -/
def LqSt.entry (l : LqSt) (i : Nat) : Nat := 128 * l.base.toNat + 128 * i
def LqSt.kick (l : LqSt) : Nat := l.entry (l.nent.toNat + 1)

/-- Entries between HEAD and TAIL. -/
def LqSt.used (l : LqSt) : Nat := ringUsed l.head l.tail l.nent

/-- The entries a record takes (R314). -/
def recEntries (rcd : List Byte) : Nat := if 12 < recNarg rcd then 2 else 1

/-- An index in a ring of NENT + 1 entries. -/
def ringNext (nent : BitVec 12) (i : BitVec 12) (k : Nat) : BitVec 12 :=
  BitVec.ofNat 12 ((i.toNat + k) % (nent.toNat + 1))

/-- Whether a queue has room for k more entries: it is full when a push would fill every entry (R313). -/
def LqSt.room (l : LqSt) (k : Nat) : Bool := decide (l.used + k ≤ l.nent.toNat)

/-- A record becomes the head: HPRI takes its PRIO, BYP and BLK are cleared (R318). -/
def LqSt.newHead (l : LqSt) (prio : Nat) : LqSt := { l with hpri := BitVec.ofNat 4 prio, byp := 0, blk := false }

/-! ### Queues, rings, journals and the KICKMAP word in memory -/

/-- Whether [pa, pa + n) lies in the memory of quarter q's partition, off the plane shadows. What a BASE or KMAPA names
elsewhere is not reached: it reads as zeros, and a write of it has no effect (DESIGN CHOICE, notes/assumptions/30.md; R2, R23,
R25). -/
def ownMemory (s : State) (q pa n : Nat) : Bool :=
  inPart s (leadOf s q) pa && inPart s (leadOf s q) (pa + n - 1) && !inShadow s pa n

/-- Reach n bytes at their home, in one page, in the order of its sources: the state, and whether a read finds poison or an
error that cannot be corrected (R291, R204, R358). A tile store that is only written is not read. -/
def homeTouch (s : State) (pa n : Nat) (wr : Bool) : State × Bool :=
  if isDram pa then
    (let s := l2Read s pa n wr false
     (s, s.poisoned pa n))
  else if wr then (storeTouch s pa n true, false)
  else storeRead s pa n .clean

/-- Read n bytes at their home, in one page: the state, the bytes, and whether they are bad. -/
def readOwn (s : State) (q pa n : Nat) : State × List Byte × Bool :=
  if ownMemory s q pa n then
    (let r := homeTouch s pa n false
     (r.1, r.1.home pa n, r.2))
  else (s, List.replicate n 0, false)

/-- Write bytes at their home, in one page. -/
def writeHome (s : State) (pa : Nat) (bs : List Byte) : State :=
  homeWrite (homeTouch s pa bs.length true).1 pa bs false

/-- Write an entry of a queue, ring or journal of quarter q. -/
def writeEntry (s : State) (q pa : Nat) (bs : List Byte) : State :=
  if ownMemory s q pa bs.length then writeHome s pa bs else s

/-- Push a record into queue n of quarter q, which has room: the pushes of one cycle enter in the order of their stamps (R315). -/
def lqPush (s : State) (q n : Nat) (rcd : List Byte) (stamp : BitVec 96) : State :=
  let l := s.lq q n
  let k := recEntries rcd
  let s := markAt s (.queue q n) stamp.toNat
  let s := writeEntry s q (l.entry l.tail.toNat) (rcd.take 128)
  let s := if k = 2 then writeEntry s q (l.entry (ringNext l.nent l.tail 1).toNat) ((rcd.drop 128).take 128) else s
  let l := s.lq q n
  let l' := { (if l.used = 0 then l.newHead (recPrio rcd) else l) with
    tail := ringNext l.nent l.tail k, stamps := SMap.put l.stamps 0 l.tail.toNat stamp }
  wantPass (s.setLq q n l') q

/-- Whether a page that holds the head record of a queue is being converted: its reading waits (R215). -/
def lqBusy (s : State) (l : LqSt) : Bool :=
  pageBusy s (l.entry l.head.toNat) || pageBusy s (l.entry (ringNext l.nent l.head 1).toNat)

/-- The head record of a queue of quarter q, with its continuation, read at its home (R313, R314). -/
def lqHead (s : State) (q : Nat) (l : LqSt) : State × List Byte :=
  let (s, a, _) := readOwn s q (l.entry l.head.toNat) 128
  if 12 < recNarg a then
    (let (s, b, _) := readOwn s q (l.entry (ringNext l.nent l.head 1).toNat) 128
     (s, a ++ b))
  else (s, a)

/-- Remove the head of a queue, a record of k entries: the next record becomes the head. With none left HPRI, BYP and BLK are 0
(DESIGN CHOICE, notes/assumptions/30.md). -/
def lqPop (s : State) (q n k : Nat) : State :=
  let l := s.lq q n
  let l' := { l with head := ringNext l.nent l.head k, stamps := SMap.put l.stamps 0 l.head.toNat 0 }
  if l'.used = 0 then s.setLq q n (l'.newHead 0)
  else
    let (s, a, _) := readOwn s q (l'.entry l'.head.toNat) 128
    s.setLq q n (l'.newHead (recPrio a))

/-- RD alone: what reading a stored record needs (R324). -/
def Need.stored : Need := Need.read

/-- Read a stored record, with its continuation, as an engine read of tile t (R324). -/
def readStored (s : State) (f t va : Nat) : State × EngRead :=
  match engRead s f t va 128 Need.stored false with
  | (s, .ok a) =>
    if 12 < recNarg a then
      match engRead s f t (va + 128) 128 Need.stored false with
      | (s, .ok b) => (s, .ok (a ++ b))
      | (s, e) => (s, e)
    else (s, .ok a)
  | (s, e) => (s, e)

end Sys2Proof.Machine
end

