-- ==== Sys2Proof/Machine/GraphReads.lean ====
section
/-! DEFINITION. What the arbiter and the graph sequencer read from memory (spec/24_images.md R392 to R400, R413,
spec/10_translation_tables.md R194 to R196): reads at the home through the partition's translation, images, section
maps, configuration records and kernel graph records. -/

namespace Sys2Proof.Machine

/-! ### Reading -/

/-- Why a read or a load stops: not now; a fault or poison at a virtual address (R413); a breach with its DETAIL
(R348); a tile's failure: tile, slot, code, DETAIL, BLKID (R91); a completion status (R322); UNSUPPORTED (R398). -/
inductive LoadErr where
  | wait
  | read (va : Nat)
  | graph (detail : Nat)
  | tile (t slot code detail blkid : Nat)
  | status (n : Nat)
  | unsupported (detail : Nat)
  deriving DecidableEq, Repr

/-- A reading computation: it changes the machine (A bits, cache directories) and answers, or stops. -/
abbrev Rd (α : Type) := ExceptT LoadErr (StateM State) α

/-- Run a reading computation. -/
def runRd {α : Type} (m : Rd α) (s : State) : Except LoadErr α × State := m.run s

/-- Stop. -/
def stop {α : Type} (e : LoadErr) : Rd α := throw e

/-- Read n bytes at va at their home, through the translation of the partition that holds field f, as the sequencer there or
the arbiter does; A is set once every page is translated (R178, R413). -/
def seqReadAt (s : State) (f va n : Nat) : State × EngRead :=
  let s := s.by (seqSource f)
  let cuts := cutAt 0x10000 va (n + 1) 0 n
  match translateRuns s f none va Need.read false cuts with
  | (s, .error none) => (s, .wait)
  | (s, .error (some (c, w, b))) => (s, .fault c (if w then 10 else 0) b 0)
  | (_, .ok rs) => engRuns (translateRuns s f none va Need.read true cuts).1 f va false rs

def seqRead (f va n : Nat) : Rd (List Byte) :=
  ExceptT.mk fun s =>
    match seqReadAt s f va n with
    | (s, .ok bs) => (.ok bs, s)
    | (s, .wait) => (.error .wait, s)
    | (s, .fault _ _ b _) => (.error (.read b), s)

/-- A check. -/
def check (c : Bool) (e : LoadErr) : Rd Unit := if c then pure () else stop e

/-! ### Bytes of records -/

/-- n bytes of a record from offset o, as a number. -/
def num (bs : List Byte) (o n : Nat) : Nat := leNat ((bs.drop o).take n)

/-- Whether n bytes from offset o are zero. -/
def zeros (bs : List Byte) (o n : Nat) : Bool := decide (num bs o n = 0)

/-! ### CRC-32C (R393) -/

/-- Eight steps of the reflected Castagnoli polynomial. -/
def crcSteps : Nat → Word → Word
  | 0, c => c
  | n + 1, c => crcSteps n (if c.getLsbD 0 then (c >>> 1) ^^^ 0x82F63B78#32 else c >>> 1)

def crcBytes : Word → List Byte → Word
  | c, [] => c
  | c, b :: bs => crcBytes (crcSteps 8 (c ^^^ b.setWidth 32)) bs

def crc32c (bs : List Byte) : Word := crcBytes 0xFFFFFFFF#32 bs ^^^ 0xFFFFFFFF#32

/-! ### Kernel graph records (R194, R195) -/

def kgKind (r : List Byte) : Nat := num r 0 8 % 8
def kgNch (r : List Byte) : Nat := num r 0 8 / 16 % 16
def kgCount (r : List Byte) : Nat := num r 2 4
def kgArg (r : List Byte) : Nat := num r 8 8
def kgChild (r : List Byte) (i : Nat) : Nat := num r (16 + 2 * i) 2
def kgExt0 (r : List Byte) : Nat := num r 48 8
def kgExt1 (r : List Byte) : Nat := num r 56 8

/-- Children of a record; none for SPAWN and LEAF. -/
def kgChildren (r : List Byte) : List Nat :=
  if kgKind r = 4 ∨ kgKind r = 6 then [] else (List.range (kgNch r + 1)).map (kgChild r)

/-- Depth of the edge below stage j of a PIPE, j = 1 to NCH (R32). -/
def kgDepth (r : List Byte) (j : Nat) : Nat :=
  let d := bitsOf (kgArg r) (4 * j - 4) 4
  if d = 0 then 2 else d

/-- A LEAF's result port: field index in the rectangle, tile, port. -/
def kgResult (r : List Byte) : Option (Nat × Nat × Nat) :=
  let e := kgExt1 r
  if bitOf e 0 then some (bitsOf e 11 16, bitsOf e 5 6, bitsOf e 1 4) else none

/-- Whether a node of this kind may return a result token (R29, R31). -/
def kgHasResult (r : List Byte) : Bool :=
  decide (kgKind r = 0) || decide (kgKind r = 3) || (decide (kgKind r = 6) && (kgResult r).isSome)

/-- R194 of a record: KIND, NCH, COUNT, children and reserved bits. -/
def kg194 (r : List Byte) : Bool :=
  let k := kgKind r
  let n := kgNch r
  let w := num r 0 8
  let used := if k = 4 ∨ k = 6 then 0 else n + 1
  decide (k < 7) && !bitOf w 3 && decide (bitsOf w 8 8 = 0) && decide (bitsOf w 48 16 = 0) &&
    (match k with
     | 0 => decide (kgCount r < 65536)
     | 1 => true
     | 6 => decide (n = 0)
     | 4 => decide (n = 0) && decide (kgCount r = 0)
     | _ => decide (kgCount r = 0)) &&
    (List.range 16).all fun i =>
      let c := kgChild r i
      if i < used then decide (1 ≤ c ∧ c ≤ 65533) || (decide (k = 3) && decide (65534 ≤ c)) else decide (c = 0)

/-- R195 of a record in a rectangle of the given fields: NCH, ARG and EXT by kind. DESIGN CHOICE (notes/assumptions/53.md): a
SPAWN's ARG with bits [63:48] set names no virtual address, and refuses the record. -/
def kg195 (fields : Nat) (r : List Byte) : Bool :=
  let k := kgKind r
  let n := kgNch r
  (match k with
   | 1 => decide (1 ≤ n)
   | 2 => decide (1 ≤ n)
   | 3 => decide (n = 1)
   | 5 => decide (n = 0)
   | _ => true) &&
  (match k with
   | 1 => decide (kgArg r < 2 ^ (4 * n))
   | 4 => decide (kgArg r % 128 = 0) && decide (kgArg r < 2 ^ 48)
   | 6 => true
   | _ => decide (kgArg r = 0)) &&
  (match k with
   | 4 => decide (kgExt0 r < 64) && decide (kgExt1 r = 0)
   | 6 => decide (kgExt1 r < 2 ^ 27) &&
     (match kgResult r with
      | some (f, _, _) => decide (f < fields)
      | none => true)
   | _ => decide (kgExt0 r = 0) && decide (kgExt1 r = 0))

/-- R194 and R195 of a record. -/
def kgOk (fields : Nat) (r : List Byte) : Bool := kg194 r && kg195 fields r

/-- Read record idx of a graph (R196). -/
def readKg (f base idx : Nat) : Rd (List Byte) := seqRead f (base + 64 * idx) 64

/-! ### Images (R392, R394, R395) -/

/-- A directory entry: TYPE, MUST, OFFSET, SLEN, CRC. -/
structure DirEnt where
  type : Nat
  must : Bool
  off : Nat
  len : Nat
  crc : Nat
  deriving DecidableEq, Repr

/-- Check 1 of R398: the header; the number of directory entries and LENGTH. -/
def readHeader (f img : Nat) : Rd (Nat × Nat) := do
  let h ← seqRead f img 64
  let nsec := num h 8 4
  let len := num h 16 8
  check (decide (num h 0 4 = 0x314B4854) && decide (num h 4 2 = 1) && decide (1 ≤ nsec ∧ nsec ≤ 64) &&
    zeros h 12 4 && zeros h 24 40 && decide (64 + 32 * nsec ≤ len)) (.status 3)
  pure (nsec, len)

def parseEnt (b : List Byte) : DirEnt :=
  { type := num b 0 4, must := bitOf (num b 4 4) 0, off := num b 8 8, len := num b 16 8, crc := num b 24 4 }

/-- One entry's own rules (R392). -/
def entOk (len : Nat) (b : List Byte) : Bool :=
  let e := parseEnt b
  decide (num b 4 4 < 2) && zeros b 28 4 && decide (e.off % (if e.type = 4 then 64 else 8) = 0) &&
    decide (e.off + e.len ≤ len) && (e.type != 7 || decide (e.crc = 0)) && !(e.type == 8 && e.must)

/-- The rules between entries: a type once, no two sections overlap, SIGNATURE last. An empty section overlaps nothing. -/
def dirOk (len : Nat) (es : List DirEnt) : Bool :=
  decide ((es.map DirEnt.type).Nodup) &&
    decide (es.Pairwise fun a b => a.len = 0 ∨ b.len = 0 ∨ a.off + a.len ≤ b.off ∨ b.off + b.len ≤ a.off) &&
    es.all fun e => e.type != 7 || (decide (e.off + e.len = len) && es.all fun a => decide (a.off ≤ e.off))

/-- Checks 1 and 2 of R398: the directory, and LENGTH. -/
def readDir (f img : Nat) : Rd (List DirEnt × Nat) := do
  let (nsec, len) ← readHeader f img
  let d ← seqRead f (img + 64) (32 * nsec)
  let bs := (List.range nsec).map fun i => (d.drop (32 * i)).take 32
  check (bs.all (entOk len) && dirOk len (bs.map parseEnt)) (.status 3)
  pure (bs.map parseEnt, len)

def findEnt (es : List DirEnt) (t : Nat) : Option DirEnt := es.find? fun e => e.type == t

/-- Check 4 of R398 for one section: its bytes, whose CRC must match. -/
def readCrc (f img : Nat) (e : Option DirEnt) : Rd (List Byte) :=
  match e with
  | none => pure []
  | some e => do
    let b ← seqRead f (img + e.off) e.len
    check (decide ((crc32c b).toNat = e.crc)) (.status 3)
    pure b

/-- Whether a note is understood: TOOL always, TARGET with the 8 bytes of this part's code (R397). -/
def noteKnown (b : List Byte) : Bool :=
  decide (num b 0 4 = 2) || (decide (num b 0 4 = 1) && decide (num b 8 8 = 8) && decide (num b 16 8 = 0x160))

/-- Check 5 of R398: the notes (R397). A note whose head or payload runs beyond the section fails the image
(notes/assumptions/29.md). -/
def checkNotes : Nat → List Byte → Rd Unit
  | 0, _ => pure ()
  | fuel + 1, b =>
    if b = [] then pure ()
    else do
      let n := num b 8 8
      check (decide (16 ≤ b.length) && decide (16 + n ≤ b.length)) (.status 3)
      check (noteKnown b || !bitOf (num b 4 4) 0) (.unsupported (2 ^ 32 + num b 0 4))
      checkNotes fuel (b.drop (16 + (n + 7) / 8 * 8))

/-- One more than the highest entry port named in the section maps of ROUTES (R322, R395). -/
def highestEp : Nat → List Byte → Nat
  | 0, _ => 0
  | fuel + 1, b =>
    if b.length < 16 then 0
    else
      let nt := num b 0 4
      let ne := num b 4 4
      if b.length < 16 + 16 * nt + 8 * ne then 0
      else
        let eps := (List.range ne).map fun k => num b (16 + 16 * nt + 8 * k) 1 + 1
        Nat.max (eps.foldl Nat.max 0) (highestEp fuel (b.drop (16 + 16 * nt + 8 * ne)))

/-- Whether every block of BLOCKS declares IDEM (R326). -/
def allIdem (f base : Nat) : Nat → Nat → Nat → Rd Bool
  | 0, _, _ => pure true
  | fuel + 1, o, stopAt =>
    if stopAt < o + 20 then pure true
    else do
      let h ← seqRead f (base + o) 20
      let rest ← allIdem f base fuel (o + 16 + (num h 0 4 + 7) / 8 * 8) stopAt
      pure (bitOf (num h 16 4) 19 && rest)

/-! ### Region records (R185, R186, R394) -/

/-- A region entry without a reserved or refused value. -/
def regionOk (e : BitVec 128) : Bool :=
  let v := e.toNat
  let k := regKind e
  decide (bitsOf v 0 25 = 0) &&
    (if k = 0 then decide (v = 0)
     else if k = 1 then
      decide (regSize e ≠ 0) && decide (bitsOf v 25 19 = 0)
     else if k = 2 then
      decide (regSize e ≠ 0) && decide (bitsOf v 44 8 = 0) && decide (regRule e < 7) &&
        decide (regSize e % (if regWs e then 8 else 4) = 0)
     else false) &&
    decide (k = 0 ∨ regBaseVa e + regSize e ≤ 2 ^ 48)

/-- Two valid entries overlap, or are planes of one step group with different NMEM. -/
def regionsClash (a b : BitVec 128) : Bool :=
  regValid a && regValid b &&
    ((decide (regBaseVa a < regBaseVa b + regSize b) && decide (regBaseVa b < regBaseVa a + regSize a)) ||
      (decide (regKind a = 2) && decide (regKind b = 2) && decide (regSg a = regSg b) && decide (regNmem a ≠ regNmem b)))

/-- Whether no two of a list clash. -/
def noClash : List (BitVec 128) → Bool
  | [] => true
  | a :: as => as.all (fun b => !regionsClash a b) && noClash as

/-- The region table of the graph whose record 0 lies at image offset go (R394), or BAD-REGION (R186). -/
def regionTable (go len : Nat) (b : List Byte) : Rd (SMap (BitVec 128)) := do
  check (decide (b.length % 24 = 0)) (.status 2)
  let recs := (List.range (b.length / 24)).map fun i => (b.drop (24 * i)).take 24
  let mine := recs.filter fun r => decide (go < len) && decide (go % 64 = 0) && decide (num r 2 6 = go / 64)
  let es := mine.map fun r => (num r 0 1, BitVec.ofNat 128 (num r 8 16))
  check (mine.all (fun r => zeros r 1 1) && decide ((es.map (·.1)).Nodup) && es.all (fun e => regionOk e.2) &&
    noClash (es.map (·.2))) (.status 2)
  pure (es.foldl (fun m e => SMap.put m 0 e.1 e.2) [])

/-! ### Section maps and configuration records (R394, R395, R396, R399) -/

/-- A section map: tile entries (COL, ROW, J, offset) and entry ports (EPn, tile entry, port). -/
structure SecMap where
  tiles : List (Nat × Nat × Nat × Nat)
  eps : List (Nat × Nat × Nat)
  deriving DecidableEq, Repr

/-- DETAIL of a breach of R396: bit 32, the entry and the LEAF's index (R348). -/
def mapDetail (entry leaf : Nat) : LoadErr := .graph (2 ^ 32 + entry * 2 ^ 16 + leaf)

/-- The first entry of a list that fails a check. -/
def firstBad {α : Type} (ok : α → Bool) : Nat → List α → Option Nat
  | _, [] => none
  | i, a :: as => if ok a then firstBad ok (i + 1) as else some i

/-- Read and check a section map at an image offset, for the LEAF of record index leaf. Nothing beyond the image's LENGTH is
read: a map that reaches beyond it fails as its head does (R400, notes/assumptions/29.md). -/
def readMap (f img len off leaf : Nat) : Rd SecMap := do
  check (decide (off + 16 ≤ len)) (mapDetail 0xFFFF leaf)
  let h ← seqRead f (img + off) 16
  let nt := num h 0 4
  let ne := num h 4 4
  check (decide (1 ≤ nt ∧ nt ≤ 20480) && decide (ne ≤ 16) && zeros h 8 8 && decide (off + 16 + 16 * nt + 8 * ne ≤ len))
    (mapDetail 0xFFFF leaf)
  let b ← seqRead f (img + off + 16) (16 * nt + 8 * ne)
  let ts := (List.range nt).map fun i => (b.drop (16 * i)).take 16
  let es := (List.range ne).map fun i => (b.drop (16 * nt + 8 * i)).take 8
  match firstBad (fun e => zeros e 3 5) 0 ts with
  | some i => stop (mapDetail i leaf)
  | none =>
    check (es.all (fun e => decide (num e 0 1 < 16) && decide (num e 1 2 < nt) && decide (num e 3 1 < 16) && zeros e 4 4)
      && decide ((es.map fun e => num e 0 1).Nodup)) (mapDetail 0xFFFE leaf)
    pure { tiles := ts.map fun e => (num e 0 1, num e 1 1, num e 2 1, num e 8 8),
           eps := es.map fun e => (num e 0 1, num e 1 2, num e 3 1) }

/-- Read a configuration record: its CRC, then its length in words (R399, R76). The tile is that of the record. Nothing beyond
the image's LENGTH is read: a record that reaches beyond it fails as one whose CRC does not match (R400,
notes/assumptions/29.md). -/
def readConfig (f img len off t : Nat) : Rd (List Word) := do
  let beyond : LoadErr := .tile t 0x3F codeBadForm (2 ^ 32) 0
  check (decide (off + 16 ≤ len)) beyond
  let h ← seqRead f (img + off) 16
  let n := num h 0 4
  check (decide (off + 16 + n ≤ len)) beyond
  let b ← seqRead f (img + off + 16) n
  let blk := num b 0 2
  check (decide ((crc32c b).toNat = num h 4 4)) (.tile t 0x3F codeBadForm (2 ^ 32) blk)
  check (decide (n % 4 = 0)) (.tile t 0x3F codeBadForm 0 blk)
  pure ((List.range (n / 4)).map fun i => BitVec.ofNat 32 (num b (4 * i) 4))

end Sys2Proof.Machine
end

