-- ==== Sys2Proof/Machine/LoadCheck.lean ====
section
/-! DEFINITION. The load checks of one tile's configuration (spec/04_encoding.md R76 to R92, R44) and the SAFE-mode
relaxation of chained edges (spec/08_delay_tables.md R157, R158), in the order of R91. -/

namespace Sys2Proof.Machine

/-- What a refused word reports: slot (0x3F for none), code and DETAIL. -/
abbrev TileErr := Nat × Nat × Nat

/-- The first failure of a list of checks. -/
def firstErr : List (Option TileErr) → Option TileErr
  | [] => none
  | some e :: _ => some e
  | none :: es => firstErr es

/-! ### Words (R76 to R78, R85, R86, R88, R90) -/

/-- The length check and the count of depth words (R76). DESIGN CHOICE (notes/assumptions/48.md): a failure names slot 0x3F and
DETAIL 0. -/
def lengthErr (cfg : List Word) : Option TileErr :=
  let n := hdrNins (cfgHeader cfg)
  let d := ((cfg[n + 18]?).getD 0).toNat % 128
  if cfg.length = n + 19 + d then none else some (0x3F, codeBadForm, 0)

/-- The header (R77): bits [17:16]. -/
def headerErr (cfg : List Word) : Option TileErr :=
  if bitsOf (cfgHeader cfg).toNat 16 2 = 0 then none else some (0x3F, codeBadForm, 0)

/-- Whether an opcode lies in the slots of its kind (R85). -/
def slotKindOk (op n : Nat) : Bool :=
  if op < 0x40 ∨ (0x60 ≤ op ∧ op < 0x70) then decide (n < 40)
  else if op < 0x60 then decide (40 ≤ n) && decide (n < 56)
  else decide (56 ≤ n)

/-- Whether a tile type allows an opcode (R86). -/
def typeOk (op type : Nat) : Bool :=
  if op = 0x5E ∨ op = 0x5F then decide (type = 3)
  else if (0x80 ≤ op ∧ op < 0xA0) ∨ op = 0xB1 ∨ op = 0xB2 then decide (type = 1)
  else true

/-- Whether a word is a router operator (R86). -/
def isRouterWord (v : Word) : Bool := decide (0x60 ≤ v.toNat / 2 ^ 24) && decide (v.toNat / 2 ^ 24 < 0x70)

/-- The instruction word of slot n (R91: BAD-OPCODE, then BAD-FORM, then SLOT-KIND). -/
def slotErr (cfg : List Word) (n : Nat) : Option TileErr :=
  let v := cfgSlot cfg n
  match decodeFabric v with
  | .error .emptyWord => none
  | .error .badOpcode => some (n, codeBadOpcode, 0)
  | .error .badForm => some (n, codeBadForm, 0)
  | .ok _ =>
    let op := v.toNat / 2 ^ 24
    let before := ((List.range n).filter fun m => isRouterWord (cfgSlot cfg m)).length
    if slotKindOk op n && typeOk op (hdrType (cfgHeader cfg)) && !(isRouterWord v && decide (16 ≤ before)) then none
    else some (n, codeSlotKind, 0)

/-- Port word k: DIR, MODE, RATE, DEPTH, bits [20:9], DEST (R88). -/
def portErr (cfg : List Word) (k : Nat) : Option TileErr :=
  let i := hdrNins (cfgHeader cfg) + 2 + k
  let v := cfgPort cfg k
  let dir := portDir v
  let bad : Option TileErr := some (0x3F, codeBadForm, i)
  if dir = 3 then bad
  else if dir = 0 then (if v = 0xFF then none else bad)
  else if portRate v = 0 then bad
  else if dir = 1 ∧ portDepth v = 1 then some (0x3F, codeLinkDepth, i)
  else if dir = 2 ∧ portDepth v ≠ 0 then bad
  else if bitsOf v.toNat 9 12 ≠ 0 then bad
  else if (if dir = 1 then 192 ≤ portDest v else portDest v ≠ 0xFF) then bad
  else none

/-- The edges of a tile's words: producer, whether chained, consumer latch as 3 x slot + position. -/
def cfgEdges (cfg : List Word) : List (Nat × Bool × Nat) :=
  (List.range 64).flatMap fun m =>
    match cfgInstr cfg m with
    | none => []
    | some i => (targetsOf i).filterMap fun t =>
      match t with
      | .latch c p n => some (m, c, 3 * n.toNat + posNo p)
      | _ => none

/-- The latches bound to IN ports, as 3 x slot + position. -/
def portLatches (cfg : List Word) : List Nat :=
  (List.range 16).filterMap fun k =>
    let v := cfgPort cfg k
    if portDir v = 1 then some (3 * (portDest v % 64) + portDest v / 64) else none

/-- Depth word i of a list, after those before it (R90). DESIGN CHOICE (notes/assumptions/48.md): of a word with several
failures, bits that must be zero or a latch that is none are reported before LINK-DEPTH. -/
def depthErr (cfg : List Word) (edges : List (Nat × Bool × Nat)) (before : List Word) (i : Nat) (v : Word) :
    Option TileErr :=
  let at_ := hdrNins (cfgHeader cfg) + 19 + i
  let l := bitsOf v.toNat 0 9
  let latch := 3 * (l % 64) + l / 64
  let fed := edges.filter fun e => decide (e.2.2 = latch)
  if bitsOf v.toNat 13 19 ≠ 0 ∨ 192 ≤ l then some (0x3F, codeBadForm, at_)
  else if bitsOf v.toNat 9 4 = 0 ∨ before.any (fun a => decide (bitsOf a.toNat 0 9 = l)) ∨ fed = [] ∨
      fed.any (fun e => e.2.1) ∨ (portLatches cfg).contains latch then some (0x3F, codeLinkDepth, at_)
  else none

def depthErrs (cfg : List Word) (edges : List (Nat × Bool × Nat)) : List Word → Nat → List Word → Option TileErr
  | _, _, [] => none
  | before, i, v :: vs =>
    match depthErr cfg edges before i v with
    | some e => some e
    | none => depthErrs cfg edges (before ++ [v]) (i + 1) vs

/-- The depth count word, then the depth words (R76, R90). -/
def depthsErr (cfg : List Word) (edges : List (Nat × Bool × Nat)) : Option TileErr :=
  let n := hdrNins (cfgHeader cfg)
  if 64 < ((cfg[n + 18]?).getD 0).toNat then some (0x3F, codeBadForm, n + 18)
  else depthErrs cfg edges [] 0 (cfgDepths cfg)

/-! ### Edges (R84) -/

/-- Whether a latch belongs to a slot that holds something and reads it. -/
def latchRead (cfg : List Word) (n : Nat) (p : Pos) : Bool :=
  match cfgInstr cfg n with
  | none => false
  | some i => (latchesRead i).contains p

/-- Whether a target is one its tile has. -/
def targetOk (cfg : List Word) : Target → Bool
  | .none => true
  | .latch _ p n => latchRead cfg n.toNat p
  | .port k => decide (portDir (cfgPort cfg k.toNat) = 2)

/-- Whether two targets name the same latch or port. -/
def sameTarget : Target → Target → Bool
  | .latch _ p n, .latch _ q m => decide (p = q) && decide (n = m)
  | .port a, .port b => decide (a = b)
  | _, _ => false

/-- The targets of a slot: T0, then T1 (R91). DESIGN CHOICE (notes/assumptions/48.md): equal targets are reported at T1, DETAIL
1. -/
def targetsErr (cfg : List Word) (n : Nat) : Option TileErr :=
  match (cfgInstr cfg n).map targetsOf with
  | some [a] => if targetOk cfg a then none else some (n, codeBadForm, 0)
  | some [a, b] =>
    if !targetOk cfg a then some (n, codeBadForm, 0)
    else if !targetOk cfg b || sameTarget a b then some (n, codeBadForm, 1) else none
  | _ => none

/-- The position a number stands for. -/
def posOf (k : Nat) : Pos := if k = 0 then .l else if k = 1 then .r else .p

/-- The destination of an IN port. -/
def destErr (cfg : List Word) (k : Nat) : Option TileErr :=
  let v := cfgPort cfg k
  if portDir v = 1 && !latchRead cfg (portDest v % 64) (posOf (portDest v / 64)) then
    some (0x3F, codeBadForm, hdrNins (cfgHeader cfg) + 2 + k)
  else none

/-- The slots that target a port. -/
def portNamers (cfg : List Word) (k : Nat) : List Nat :=
  (List.range 64).flatMap fun n =>
    match cfgInstr cfg n with
    | none => []
    | some i => (targetsOf i).filterMap fun t =>
      match t with
      | .port j => if j.toNat = k then some n else none
      | _ => none

/-- An output port named by more than one target. -/
def outPortErr (cfg : List Word) (k : Nat) : Option TileErr :=
  match portNamers cfg k with
  | n :: _ :: _ => some (n, codeBadForm, 0)
  | _ => none

/-- The latches of a consumer: each has exactly one producer. -/
def producersErr (cfg : List Word) (edges : List (Nat × Bool × Nat)) (n : Nat) : Option TileErr :=
  match cfgInstr cfg n with
  | none => none
  | some i =>
    let bad (p : Pos) : Option TileErr :=
      let l := 3 * n + posNo p
      let k := (edges.filter fun e => decide (e.2.2 = l)).length + ((portLatches cfg).filter fun a => decide (a = l)).length
      if (latchesRead i).contains p && decide (k ≠ 1) then some (n, codeBadForm, posNo p) else none
    firstErr [bad .l, bad .r, bad .p]

/-- Whether the operation of a slot has DU columns (R151, R152). -/
def hasDu (cfg : List Word) (n : Nat) : Bool :=
  match cfgInstr cfg n with
  | none => false
  | some i => (lateDelay 0 i).isSome

/-- A chained edge into a slot that joins operations without DU columns. -/
def chainErr (cfg : List Word) (edges : List (Nat × Bool × Nat)) (n : Nat) : Option TileErr :=
  if edges.any fun e => e.2.1 && decide (e.2.2 / 3 = n) && !(hasDu cfg n && hasDu cfg e.1) then some (n, codeBadForm, 0)
  else none

/-! ### Chains (R44, R157, R158) -/

/-- The slots reached from a list of slots over chained edges. -/
def chainReach (edges : List (Nat × Bool × Nat)) : Nat → List Nat → List Nat
  | 0, seen => seen
  | fuel + 1, seen =>
    let more := (edges.filter fun e => e.2.1 && seen.contains e.1).map fun e => e.2.2 / 3
    chainReach edges fuel (seen ++ more).dedup

/-- A slot on a cycle of chained edges. -/
def onLoop (edges : List (Nat × Bool × Nat)) (n : Nat) : Bool :=
  (chainReach edges 64 ((edges.filter fun e => e.2.1 && decide (e.1 = n)).map fun e => e.2.2 / 3)).contains n

/-- A chained edge dealt with: producer, consumer latch as 3 x slot + position, the DU at which its value arrives at the
latest, and whether it stays chained. -/
structure CutEdge where
  src : Nat
  latch : Nat
  arrives : Nat
  kept : Bool
  deriving DecidableEq, Repr

/-- The late delay of the operation of slot n. -/
def lateOf (cls : Nat) (cfg : List Word) (n : Nat) : Nat := ((cfgInstr cfg n).bind (lateDelay cls)).getD 0

/-- The latest completion of slot n over the inputs that stay chained; another input is there from DU 3 on (R148, R157). -/
def latestDone (cls : Nat) (cfg : List Word) (cut : List CutEdge) (n : Nat) : Nat :=
  let ins := cut.filter fun e => decide (e.latch / 3 = n) && e.kept
  let reads := ((cfgInstr cfg n).map fun i => (latchesRead i).length).getD 0
  (ins.map CutEdge.arrives).foldl Nat.max (if ins.length < reads then 3 else 0) + lateOf cls cfg n

/-- Deal with one edge, all edges into its producer having been dealt with: it is converted where the consumer could complete
after DU 31 (R157). -/
def cutEdge (cls : Nat) (cfg : List Word) (cut : List CutEdge) (e : Nat × Nat) : CutEdge :=
  let at_ := latestDone cls cfg cut e.1 + 1
  { src := e.1, latch := e.2, arrives := at_, kept := decide (at_ + lateOf cls cfg (e.2 / 3) ≤ 31) }

/-- Deal with the edges in topological order: of those whose producer has no edge left to deal with, the first of the list. -/
def cutEdges (cls : Nat) (cfg : List Word) : Nat → List (Nat × Nat) → List CutEdge → List CutEdge
  | 0, _, cut => cut
  | fuel + 1, todo, cut =>
    match todo.find? fun e => todo.all fun a => decide (a.2 / 3 ≠ e.1) with
    | none => cut
    | some e => cutEdges cls cfg fuel (todo.erase e) (cut ++ [cutEdge cls cfg cut e])

/-- The chained edges of a tile by consumer slot, then producer slot (R157). -/
def chainedEdges (cfg : List Word) : List (Nat × Nat) :=
  (((cfgEdges cfg).filter fun e => e.2.1).map fun e => (e.1, e.2.2)).mergeSort fun a b =>
    decide (a.2 / 3 < b.2 / 3) || (decide (a.2 / 3 = b.2 / 3) && (decide (a.1 < b.1) || (decide (a.1 = b.1) && decide (a.2 ≤ b.2))))

/-- The consumer latches of the chained edges that a SAFE block relaxes where the field's class is cls, in the order of R157. -/
def relaxedEdges (cls : Nat) (cfg : List Word) : List Nat :=
  let h := cfgHeader cfg
  if hdrEager h then []
  else
    let es := chainedEdges cfg
    ((cutEdges (Nat.max cls (hdrClass h)) cfg es.length es []).filter fun e => !e.kept).map CutEdge.latch

/-- CHAIN-LATE (R158). -/
def chainLateErr (cls : Nat) (cfg : List Word) : Option TileErr :=
  if hdrStrict (cfgHeader cfg) then
    match relaxedEdges cls cfg with
    | l :: _ => some (l / 3, codeChainLate, 0)
    | [] => none
  else none

/-- Every check of one tile's configuration, in the order of R91; cls is the field's class. -/
def tileErr (cls : Nat) (cfg : List Word) : Option TileErr :=
  let edges := cfgEdges cfg
  let first (f : Nat → Option TileErr) (n : Nat) : Option TileErr := (List.range n).findSome? f
  match firstErr [lengthErr cfg, headerErr cfg, first (slotErr cfg) 64, first (portErr cfg) 16, depthsErr cfg edges] with
  | some e => some e
  | none =>
    firstErr [first (targetsErr cfg) 64, first (destErr cfg) 16, first (outPortErr cfg) 16, first (producersErr cfg edges) 64,
      first (chainErr cfg edges) 64,
      first (fun n => if onLoop edges n then some (n, codeZeroLoop, 0) else none) 64, chainLateErr cls cfg]

/-- Whether a tile fires no element: its words are empty and its ports UNUSED (R307). -/
def storeHost (cfg : List Word) : Bool :=
  ((List.range 64).all fun n => decide (cfgSlot cfg n = 0)) && (List.range 16).all fun k => decide (portDir (cfgPort cfg k) = 0)

end Sys2Proof.Machine
end

