-- ==== Sys2Proof/Machine/SectionLoad.lean ====
section
/-! DEFINITION. Loading a section (spec/02_execution.md R33, R36, R50, R54, spec/04_encoding.md R89, R91,
spec/24_images.md R396, R399, spec/01_organisation.md R16): reading its map and configurations, the checks that span
tiles, and the commit in one step. -/

namespace Sys2Proof.Machine

/-- A tile of a section as its image gives it: tile, configuration, passes times enclosing PIPE counts, ports that face
the sequencer, and those among them that are entry ports. -/
structure TileLoad where
  t : Nat
  cfg : List Word
  passes : Nat
  faces : List Nat
  eps : List Nat
  deriving DecidableEq, Repr

/-- A section read from the image: its tiles in the order of R91, its result port, its entry ports. -/
structure SecLoad where
  tiles : List TileLoad
  result : Option (Nat × Nat)
  eps : List (Nat × Nat × Nat)
  deriving DecidableEq, Repr

/-! ### Relocation (R396) -/

/-- The tile a map entry names in a graph's rectangle. -/
def mapTile (s : State) (g : GraphSt) (e : Nat × Nat × Nat × Nat) : Option Nat :=
  let (col, row, j, _) := e
  if col < recCols g.rcd ∧ row < recRows g.rcd ∧ j < 64 then
    (fieldAt (graphCol s g + col) (graphRow s g + row)).map fun f => 64 * f + j
  else none

/-- The tiles of a map with their configuration offsets, or the first entry that fails. -/
def relocate (s : State) (g : GraphSt) : Nat → List Nat → List (Nat × Nat × Nat × Nat) → Except Nat (List (Nat × Nat))
  | _, _, [] => .ok []
  | i, seen, e :: es =>
    match mapTile s g e with
    | none => .error i
    | some t =>
      if seen.contains t then .error i
      else
        match relocate s g (i + 1) (t :: seen) es with
        | .error k => .error k
        | .ok r => .ok ((t, e.2.2.2) :: r)

/-- The tile and port a LEAF's result port names. -/
def resultPlace (s : State) (g : GraphSt) (rcd : List Byte) : Option (Nat × Nat) :=
  match kgResult rcd with
  | none => none
  | some (i, j, p) => (graphField s g i).map fun f => (64 * f + j, p)

/-- The entry ports of tile t. -/
def entriesOf (t : Nat) (ts : List (Nat × Nat)) (m : SecMap) : List Nat :=
  m.eps.filterMap fun e => if (ts[e.2.1]?).map (·.1) = some t then some e.2.2 else none

/-- The ports of tile t that face the sequencer. -/
def facesOf (t : Nat) (ts : List (Nat × Nat)) (m : SecMap) (res : Option (Nat × Nat)) : List Nat :=
  entriesOf t ts m
    ++ (match res with
        | some (u, p) => if u = t then [p] else []
        | none => [])

/-! ### Sections able to be active at the same moment (R33, R89) -/

/-- The nodes above a node, innermost first, each with the place of the child below it; a handler's run ends the
list. -/
def ancestors (g : GraphSt) : Nat → Node → List (Node × Nat)
  | 0, _ => []
  | fuel + 1, n =>
    match n.parent.bind fun p => g.node? p with
    | none => []
    | some p => if p.st = .handler then [] else (p, n.pos) :: ancestors g fuel p

/-- The product of the PIPE counts above a node (R54). -/
def pipeMult (as : List (Node × Nat)) : Nat :=
  as.foldl (fun m a => if kgKind a.1.rcd = 1 then m * kgCount a.1.rcd else m) 1

/-- The children of a record other than one, by index. -/
def otherKids (rcd : List Byte) (pos : Nat) : List Nat :=
  ((kgChildren rcd).zipIdx.filter fun c => c.2 ≠ pos).map (·.1)

/-- The STRM children beside the ancestors of a node, with the PIPE counts above them. -/
def strmSiblings : List (Node × Nat) → List (Nat × Nat)
  | [] => []
  | a :: as =>
    (if kgKind a.1.rcd = 2 then (otherKids a.1.rcd a.2).map fun c => (c, pipeMult as) else []) ++ strmSiblings as

/-- The PIPE stages beside the ancestors of a node that may run together with it (R32). -/
def pipeSiblings : List (Node × Nat) → List Nat
  | [] => []
  | a :: as =>
    (if kgKind a.1.rcd = 1 ∧ 1 < kgCount a.1.rcd then
      ((kgChildren a.1.rcd).zipIdx.filter fun c =>
        decide (c.2 + 1 < a.2 ∨ a.2 + 1 < c.2) || (decide (c.2 + 1 = a.2) && decide (1 < kgDepth a.1.rcd a.2))
          || (decide (a.2 + 1 = c.2) && decide (1 < kgDepth a.1.rcd c.2))).map (·.1)
    else []) ++ pipeSiblings as

/-- What a computation answers, or a default where a check of it fails; a wait stays a wait, a read that meets a fault or poison
stops all (R413). -/
def orElseRd {α : Type} (m : Rd α) (d : α) : Rd α :=
  ExceptT.mk fun s =>
    match m.run s with
    | (.error .wait, s) => (.error .wait, s)
    | (.error (.read va), s) => (.error (.read va), s)
    | (.error _, s) => (.ok d, s)
    | (.ok a, s) => (.ok a, s)

/-- The tiles of the section map of one LEAF record. DESIGN CHOICE (notes/assumptions/48.md): a section whose map or
configuration breaks a rule holds no tile here; it is refused at its own load. -/
def peekLeaf (g : GraphSt) (rcd : List Byte) (mult : Nat) (withCfg : Bool) : Rd (List TileLoad) := do
  let s ← get
  let f := graphHome s g
  let m ← readMap f (recImage g.rcd) g.imgLen (kgArg rcd) 0
  match relocate s g 0 [] m.tiles with
  | .error _ => pure []
  | .ok ts =>
    let res := resultPlace s g rcd
    ts.mapM fun e => do
      let cfg ← if withCfg then readConfig f (recImage g.rcd) g.imgLen e.2 e.1 else pure []
      pure { t := e.1, cfg := cfg, passes := kgCount rcd * mult, faces := facesOf e.1 ts m res, eps := entriesOf e.1 ts m }

/-- The tiles of every LEAF that can run under a list of records with their PIPE factors, a HANDLER's child among them (R35):
nothing runs under a PIPE or in a LEAF of count 0. DESIGN CHOICE (notes/assumptions/48.md): a record that breaks R194 holds no LEAF here. -/
def leavesUnder (g : GraphSt) (withCfg : Bool) : Nat → List (Nat × Nat) → Rd (List TileLoad)
  | 0, _ => pure []
  | _ + 1, [] => pure []
  | fuel + 1, (idx, mult) :: todo => do
    let s ← get
    let r ← orElseRd (readKg (graphHome s g) (recGraph g.rcd) idx) []
    if r = [] ∨ !kg194 r then leavesUnder g withCfg fuel todo
    else
      let k := kgKind r
      if k = 6 then
        let own ← if kgCount r = 0 then pure [] else orElseRd (peekLeaf g r mult withCfg) []
        let rest ← leavesUnder g withCfg fuel todo
        pure (own ++ rest)
      else if k = 4 ∨ (k = 1 ∧ kgCount r = 0) then leavesUnder g withCfg fuel todo
      else
        let m := if k = 1 then mult * kgCount r else mult
        leavesUnder g withCfg fuel (((kgChildren r).filter fun c => decide (c < 65534)).map (fun c => (c, m)) ++ todo)

/-- Records looked at below one node. -/
def treeFuel : Nat := 65536

/-- Whether record h stands among a list of records or below one of them. -/
def reaches (g : GraphSt) (h : Nat) : Nat → List Nat → Rd Bool
  | 0, _ => pure false
  | _ + 1, [] => pure false
  | fuel + 1, idx :: todo =>
    if idx = h then pure true
    else do
      let s ← get
      let r ← orElseRd (readKg (graphHome s g) (recGraph g.rcd) idx) []
      reaches g h fuel (if r = [] ∨ kg194 r = false then todo else kgChildren r ++ todo)

/-- The handler's run a node belongs to, if any: the aborted leaf it serves. -/
def handlerAbove (g : GraphSt) : Nat → Node → Option (Nat × Node)
  | 0, _ => none
  | fuel + 1, n =>
    match n.parent.bind fun p => g.node? p with
    | none => none
    | some p => if p.st = .handler then (p.parent.map fun l => (l, p)) else handlerAbove g fuel p

/-- The first child of a node whose record is, or stands above, record h. -/
def childWith (g : GraphSt) (h : Nat) (p : Node) : Nat → List Nat → Rd (List (Node × Nat))
  | _, [] => pure []
  | j, c :: cs => do
    let inside ← reaches g h treeFuel [c]
    if inside then pure [(p, j)] else childWith g h p (j + 1) cs

/-- The nodes that run while a node does, innermost first, each with the place of the child that runs below it; and those that
enclose the node's record, each with the place of the child that holds it. They differ in a handler's run, which takes place
beside the sections of the aborted leaf's siblings, but whose record stands where its HANDLER does (R33, R35). -/
def surrounding (g : GraphSt) : Nat → Node → Rd (List (Node × Nat) × List (Node × Nat))
  | 0, _ => pure ([], [])
  | fuel + 1, n => do
    let as := ancestors g g.nodes.length n
    match (handlerAbove g g.nodes.length n).bind fun e => (g.node? e.1).map fun leaf => (leaf, e.2) with
    | none => pure (as, as)
    | some (leaf, h) =>
      let r ← surrounding g fuel leaf
      let own ← r.1.mapM fun e => childWith g h.idx e.1 0 (kgChildren e.1.rcd)
      pure (as ++ r.1, as ++ own.flatten)

/-! ### Checks that span tiles (R16, R89, R54) -/

/-- Whether a step between two fields stays in the graph's rectangle and, across quarters, passes open edges; side 0 to
3 is north, east, south, west. -/
def edgeOpen (s : State) (g : GraphSt) (f h side : Nat) : Bool :=
  let q := quarterOfDie (dieOfField f)
  let r := quarterOfDie (dieOfField h)
  inGraph s g h &&
    (decide (q = r) ||
      ((s.quarter q).active.opens.getLsbD (3 - side) && (s.quarter r).active.opens.getLsbD (3 - (side + 2) % 4)))

/-- The tile and port that port k of tile t faces, in a section of the list. DESIGN CHOICE (notes/assumptions/48.md): where
several sections under the STRM siblings hold the tile, the first in the order of the walk is the one paired. -/
def faced (s : State) (g : GraphSt) (near : List TileLoad) (t k : Nat) : Option (TileLoad × Nat) :=
  match facing t k with
  | none => none
  | some (u, j) =>
    if edgeOpen s g (fieldOfTile t) (fieldOfTile u) (k / 4) then (near.find? fun a => decide (a.t = u)).map fun a => (a, j)
    else none

/-- Port k of a tile in one of the three passes: 0 no neighbour, 1 pairing, 2 balance. -/
def spanOk (s : State) (g : GraphSt) (near : List TileLoad) (res : Option (Nat × Nat)) (pass : Nat) (a : TileLoad)
    (k : Nat) : Bool :=
  let v := cfgPort a.cfg k
  if a.faces.contains k then
    decide (pass ≠ 1) ||
      ((decide (res ≠ some (a.t, k)) || decide (portDir v = 2)) && (!a.eps.contains k || decide (portDir v = 1)))
  else if portDir v = 0 then true
  else
    match faced s g near a.t k with
    | none => decide (pass ≠ 0)
    | some (b, j) =>
      let w := cfgPort b.cfg j
      if b.faces.contains j then true
      else if pass = 1 then decide (portDir v + portDir w = 3) && decide (portDir w ≠ 0)
      else if pass = 2 then
        decide (portStream v = portStream w) && decide (a.passes * portRate v = b.passes * portRate w)
      else true

/-- Whether port k of a tile faces a declared port of a tile in a list of sections: a link would join them (R33). -/
def linkedTo (s : State) (g : GraphSt) (far : List TileLoad) (a : TileLoad) (k : Nat) : Bool :=
  match faced s g far a.t k with
  | some (b, j) => decide (portDir (cfgPort b.cfg j) ≠ 0) && !b.faces.contains j
  | none => false

/-- The first failure that spans tiles, in the order of R91. A port without a neighbour that faces a declared port of a section
able to run at the same moment, but under no common STRM, is a link that R33 refuses. -/
def spanErr (s : State) (g : GraphSt) (leaf : Nat) (own near far : List TileLoad) (res : Option (Nat × Nat)) : Option LoadErr :=
  ([0, 1, 2] : List Nat).findSome? fun pass =>
    own.findSome? fun a =>
      (List.range 16).findSome? fun k =>
        if spanOk s g near res pass a k then none
        else if decide (pass = 0) && linkedTo s g far a k then some (.graph leaf)
        else some (.tile a.t 0x3F codeRateDep (hdrNins (cfgHeader a.cfg) + 2 + k) (bitsOf (cfgHeader a.cfg).toNat 0 16))

/-- The tiles of the sections of a graph that run now, but for a node's own, as they are configured. -/
def runningTiles (s : State) (g : GraphSt) (n : Node) : List TileLoad :=
  g.nodes.flatMap fun b =>
    match nodeSection b with
    | none => []
    | some c =>
      if b.id = n.id ∨ c.loaded = false then []
      else c.tiles.map fun t =>
        let at' (ps : List (Nat × Nat)) : List Nat := ps.filterMap fun p => if p.1 = t then some p.2 else none
        { t := t, cfg := (s.tile t).cfg, passes := 0, faces := at' (c.entryPorts ++ c.resultPort.toList), eps := at' c.entryPorts }

/-! ### The load (R399) -/

/-- Insert a tile in the order of R91. -/
def insertTile (e : Nat × Nat) : List (Nat × Nat) → List (Nat × Nat)
  | [] => [e]
  | a :: as => if e.1 < a.1 then e :: a :: as else a :: insertTile e as

/-- Read and check the configuration of one tile. -/
def loadTile (f img len passes : Nat) (faces eps : Nat → List Nat) (e : Nat × Nat) : Rd TileLoad := do
  let cfg ← readConfig f img len e.2 e.1
  let s ← get
  match tileErr (classCode (s.field (fieldOfTile e.1)).vclass) cfg with
  | some (slot, code, detail) => stop (.tile e.1 slot code detail (bitsOf (cfgHeader cfg).toNat 0 16))
  | none => pure { t := e.1, cfg := cfg, passes := passes, faces := faces e.1, eps := eps e.1 }

/-- The index a shared tile is reported at: the LEAF's, or the HANDLER's where its child shares a tile with the section
it serves (R33, R35). -/
def clashIdx (s : State) (g : GraphSt) (n : Node) (ts : List Nat) : Nat :=
  match handlerAbove g 64 n with
  | some (l, h) => if ts.any fun t => decide ((s.tile t).owner = some (g.id, l)) then h.idx else n.idx
  | none => n.idx

/-- Read and check the section of a LEAF. -/
def readSection (g : GraphSt) (n : Node) : Rd SecLoad := do
  let s ← get
  let f := graphHome s g
  let img := recImage g.rcd
  let m ← readMap f img g.imgLen (kgArg n.rcd) n.idx
  match relocate s g 0 [] m.tiles with
  | .error i => stop (mapDetail i n.idx)
  | .ok ts =>
    let res := resultPlace s g n.rcd
    check (match kgResult n.rcd with
      | none => true
      | some _ => match res with
        | none => false
        | some (u, _) => ts.any fun e => e.1 == u) (mapDetail 0xFFFE n.idx)
    let (beside, around) ← surrounding g g.nodes.length n
    let owned := ts.any fun e => (s.tile e.1).owner.isSome
    check (!owned) (.graph (clashIdx s g n (ts.map (·.1))))
    let sibs := strmSiblings around
    let near ← leavesUnder g true treeFuel sibs
    let far ← leavesUnder g true treeFuel
      (((strmSiblings beside).filter fun c => !sibs.contains c) ++ (pipeSiblings beside).map fun c => (c, 1))
    check (!((near ++ far).any fun b => ts.any fun e => e.1 == b.t)) (.graph n.idx)
    let passes := kgCount n.rcd * pipeMult around
    let own ← (ts.foldl (fun l e => insertTile e l) []).mapM
      (loadTile f img g.imgLen passes (fun t => facesOf t ts m res) fun t => entriesOf t ts m)
    let s ← get
    match spanErr s g n.idx own (own ++ near) (far ++ runningTiles s g n) res with
    | some e => stop e
    | none =>
      pure { tiles := own, result := res, eps := m.eps.filterMap fun e => (ts[e.2.1]?).map fun t => (e.1, t.1, e.2.2) }

/-- Put a tile into the start state of a section (R36, R157, R307, R338). -/
def commitTile (g : GraphSt) (n : Node) (s : State) (a : TileLoad) : State :=
  let relaxed := relaxedEdges (classCode (s.field (fieldOfTile a.t)).vclass) a.cfg
  let ti := s.tile a.t
  let s := s.setTile a.t { ti with
    cfg := a.cfg, relaxed := relaxed, tfst := 0, fresh := 0, ks := List.replicate 8 KCtr.reset
    armed := if storeHost a.cfg then 0 else BitVec.ofNat 32 (kgCount n.rcd)
    iter := BitVec.ofNat 32 n.iter, begun := false, met := false, inCnt := [], outCnt := [], owner := some (g.id, n.id)
    xlat := [] }
  let s := { s with
    links := s.links.filter fun e => decide (e.1 / 192 ≠ a.t)
    slots := s.slots.filter fun e => decide (e.1 / 64 ≠ a.t) }
  s.modGraph g.id fun b => { b with rlx := satInc b.rlx 0xFFFF relaxed.length }

/-- The entry tokens of an entry port: its argument word, and on a STREAM port an EOS (R50). -/
def entryTokens (g : GraphSt) (cfg : List Word) (ep t k : Nat) : List (Nat × Nat × Token) :=
  let v := cfgPort cfg k
  let latch := 192 * t + 3 * (portDest v % 64) + portDest v / 64
  (ep, latch, { kind := .data, data := dataOf (recArg g.rcd ep), psn := false })
    :: if portStream v then [(ep, latch, { kind := .eos, data := 0, psn := false })] else []

/-- Commit a section: every configuration becomes live at once, then the start state (R36, R399). -/
def commitSection (s : State) (g : GraphSt) (n : Node) (p : SecLoad) : State :=
  let s := foldState (commitTile g n) s p.tiles
  let entries := p.eps.flatMap fun e =>
    entryTokens g (((p.tiles.find? fun a => decide (a.t = e.2.1)).map TileLoad.cfg).getD []) e.1 e.2.1 e.2.2
  s.modSection g.id n.id fun c => { c with
    loaded := true, tiles := p.tiles.map TileLoad.t, result := none, resultPort := p.result
    entries := entries, entryPorts := p.eps.map fun e => (e.2.1, e.2.2)
    progress := s.now, period := (s.quarter g.lead).wdog, barked := false }

/-! ### Refusals (R91, R348, R413) -/

/-- The load record of a refusal, and the kill with status BAD-GRAPH. -/
def refuse (s : State) (g : GraphSt) (e : LoadErr) : State :=
  let base := { seqRec s g with code := codeBadGraph, kind := 2 }
  match e with
  | .wait => s
  | .read va => killGraph (postRec s g.lead { base with va := dataOf (va % 2 ^ 48), detail := dataOf (2 ^ 35) }) g.id 3
  | .graph d => killGraph (postRec s g.lead { base with detail := dataOf d }) g.id 3
  | .tile t slot code detail blkid =>
    killGraph (postRec s g.lead { base with
      code := code, slot := slot, tile := jOfTile t, die := dieOfTile t, field := fieldOfTile t % 320
      blkid := BitVec.ofNat 16 blkid, detail := dataOf detail }) g.id 3
  | .status n => killGraph s g.id n
  | .unsupported d => killGraph (postRec s g.lead { base with code := codeUnsupported, detail := dataOf d }) g.id 3

/-- SECTION_LOAD (R36, R399). -/
def execSectionLoad (g n : Nat) (s : State) : Out :=
  .next <| match s.graph? g with
  | none => s
  | some a =>
    match a.node? n with
    | none => s
    | some nd =>
      match nodeSection nd with
      | none => s
      | some c =>
        if a.ended || c.loaded || nd.done then s
        else
          let s := s.task n
          match runRd (readSection a nd) s with
          | (.ok p, s) => commitSection s a nd p
          | (.error .wait, u) => stillAsks (graphHome s a) s u
          | (.error e, s) => refuse s a e

/-- ENTRY_TOKEN_DELIVERY (R50): the next token of an entry port, once its link of two slots has room. -/
def execEntryTokenDelivery (g n ep : Nat) (s : State) : Out :=
  .next <| match (s.graph? g).bind fun a => if a.ended then none else (a.node? n).bind nodeSection with
  | none => s
  | some c =>
    match c.entries.find? fun e => e.1 == ep with
    | none => s
    | some (_, latch, tok) =>
      if c.aborted || !linkRoom s latch 2 then s
      else
        let s := pushLink s latch { tok := tok, cyc := s.now + 1, du := 0 } false
        s.modSection g n fun c => { c with entries := dropFirst ep c.entries }
where
  /-- A list without the first token of an entry port. -/
  dropFirst (ep : Nat) : List (Nat × Nat × Token) → List (Nat × Nat × Token)
    | [] => []
    | e :: es => if e.1 = ep then es else e :: dropFirst ep es

end Sys2Proof.Machine
end

