-- ==== Sys2Proof/Machine/SystemOps.lean ====
section
/-! DEFINITION. The meanings of the system instructions 0x76 to 0x7F (spec/20_faults.md R352 to R355, R360 to R366) and
of SPAWN (spec/18_queues.md R324, R325). -/

namespace Sys2Proof.Machine

/-! ### Containment (R352, R353, R360, R361) -/

/-- Whether tile t owns the open region of its field. -/
def ownsRegion (s : State) (t : Nat) : Bool :=
  let c := (s.field (fieldOfTile t)).ctn
  c.opened && decide (c.owner = jOfTile t)

/-- The tiles of the section that holds tile t. -/
def sectionTiles (s : State) (t : Nat) : List Nat :=
  match (s.tile t).owner with
  | none => []
  | some (g, n) => ((((s.graph? g).bind fun a => a.node? n).bind nodeSection).map Section.tiles).getD []

/-- What CTN.OPEN in tile t finds of record h of its graph: whether it is a HANDLER, as the sequencer reads it (R196). One whose
child shares a tile with the section that holds t is refused (R35; notes/assumptions/49.md: the name is known when the region opens). -/
def handlerRecord (g : GraphSt) (t h : Nat) : Rd Bool := do
  let s ← get
  let r ← readKg (graphHome s g) (recGraph g.rcd) h
  if kgKind r ≠ 5 then pure false
  else
    let ts ← leavesUnder g false treeFuel [(kgChild r 0, 1)]
    check (!(ts.any fun b => (sectionTiles s t).contains b.t)) (.graph h)
    pure true

/-- CTN.OPEN (R360): the record it names must be a HANDLER; it then waits on the field command bus, and its slot does not
fire again until its region is open (R361). -/
def execCtnOpen (t1 t0 : Target) (s : State) : Out :=
  let i : Instr := .ctnOpen t1 t0
  let x := s.foc
  let t := tileOf x
  let name (r : List (Pos × Token)) : Nat := (tokenAt r .l).data.toNat % 65536
  if !cmdReady s x || decide ((s.slot x).cmds ≠ []) then .next s
  else
    match cmdPlan s x i true, (s.tile t).owner.bind fun o => s.graph? o.1 with
    | .go _, none => .next s
    | .go r, some g =>
      let s := s.task (((s.tile t).owner.map (·.2)).getD 0)
      match runRd (handlerRecord g t (name r)) s with
      | (.error .wait, u) => .next (stillAsks (graphHome s g) s u)
      | (.error e, s') => .next (refuse s' g e)
      | (.ok isHandler, s') =>
        cmdFire s' i 0xF false true
          (fun r => if !isHandler || ownsRegion s' t then some (codeCtnState, 0, dataOf (name r)) else none)
          (sendCmd i [] false)
    | _, _ => cmdFire s i 0xF false true noFault (sendCmd i [] false)

/-- CTN.CLOSE (R360). -/
def execCtnClose (t1 t0 : Target) (s : State) : Out :=
  let i : Instr := .ctnClose t1 t0
  cmdFire s i 0xF false true (fun _ => if ownsRegion s (tileOf s.foc) then none else some (codeCtnState, 0, 0)) (sendCmd i [] false)

/-- The order of waiting CTN.OPENs: by arrival, then tile and slot (R360). -/
def openBefore (a b : Cmd) : Bool := decide (a.firedAt < b.firedAt) || (decide (a.firedAt = b.firedAt) && decide (a.x < b.x))

def isOpen : Instr → Bool
  | .ctnOpen _ _ => true
  | _ => false

/-- A CTN.OPEN that waits opens its region, once it is first in order, the field's region is free, and every access its
tile fired before it is performed (R360). A tile whose own region has opened meanwhile raises CTN-STATE. -/
def openPerform (s : State) (f : Nat) (c : Cmd) : State :=
  let fs := s.field f
  let t := tileOf c.x
  let first := !(fs.bus.any fun a => isOpen a.i && a.wh.isNone && decide (a.id ≠ c.id) && openBefore a c)
  if c.wh.isSome || (s.slot c.x).wh.isSome || !first then s
  else if ownsRegion s t then cmdFault s f 11 c codeCtnState 0 0 (dataOf (c.l.toNat % 65536))
  else if fs.ctn.opened || earlierAccess s t c.id MemOp.isAccess true then s
  else
    performedAll (s.setField f { fs with
      ctn := { handler := BitVec.ofNat 16 c.l.toNat, opened := true, early := false, owner := jOfTile t } }) f c [ordTok false]

/-- Close a field's region as by CTN.CLOSE: its tentative sectors are committed (R355, R360). -/
def closeRegion (s : State) (f : Nat) : State :=
  s.setField f { commitTentative (s.field f) with ctn := CtnSt.reset }

/-- A CTN.CLOSE that waits closes the region once every store its tile fired before it is performed (R360). -/
def closePerform (s : State) (f : Nat) (c : Cmd) : State :=
  let t := tileOf c.x
  if c.wh.isSome || earlierAccess s t c.id MemOp.isStore true || (ownsRegion s t && struck s f) then s
  else performedAll (if ownsRegion s t then closeRegion s f else s) f c [ordTok false]

/-! ### TRAP, HALT, NOP (R362, R363) -/

/-- TRAP (R362): nothing is consumed; the resolution completes the firing. -/
def execTrap (p : Pred) (i : BitVec 9) (t0 : Target) (s : State) : Out :=
  cmdFire s (.trap p i t0) 0xF false true (fun _ => some (codeTrap, 0, dataOf i.toNat)) (fun s _ => s)

/-- TRAP.V (R362). -/
def execTrapV (p : Pred) (t1 t0 : Target) (s : State) : Out :=
  cmdFire s (.trapV p t1 t0) 0xF false true (fun r => some (codeTrap, 0, (tokenAt r .l).data)) (fun s _ => s)

/-- Emit tokens in the slot's order; it does not fire again until they have left. -/
def emitSkip (s : State) (x : Nat) (i : Instr) (toks : List Token) : State :=
  if toks = [] then s
  else
    let id := s.nextId
    emitOut (queueOut { s with nextId := s.nextId + 1 } x
      { id := id, toks := toks, tgts := targetsOf i, ready := true, lock := true, stale := false }) x

def isTrap : Instr → Bool
  | .trap _ _ _ | .trapV _ _ _ => true
  | _ => false

/-- A TRAP that stopped on its own record completes: its inputs are consumed, L's token is emitted unchanged (R362). -/
def completeTrap (s : State) (x : Nat) (i : Instr) : State :=
  let l := headAt s x .l
  let s := noteFiring (consumeAll s x (latchesRead i)) x
  emitSkip s x i ((l.map fun e => [e.tok]).getD [])

/-- HALT GRAPH (R363): the graph stops, withheld firings, accesses and commands are abandoned and their records become VOID, what
is issued goes on. Its regions are committed and its holds released before its completion is posted, with L's token as the
result; a contained error of this cycle is still acted on (R354). -/
def haltGraph (s : State) (g : GraphSt) (tok : Token) : State :=
  endGraph ((abandonWithheld s g).modGraph g.id fun a => { a with nodes := [], handlers := [] }) g 0 (some tok) 0

/-- HALT (R363): TILE completes the tile's firing and ends its pass count; GRAPH ends the graph. -/
def execHalt (g : Bool) (s : State) : Out :=
  cmdFire s (.halt g) 0xF false false noFault fun s r =>
    let t := tileOf s.foc
    if g then
      match (s.tile t).owner.bind fun o => s.graph? o.1 with
      | none => s
      | some gr => if gr.ended then s else haltGraph s gr (tokenAt r .l)
    else
      let s := completeFiring s t
      s.setTile t { s.tile t with armed := 0 }

/-- NOP (R363): it holds its slot and never fires. -/
def execNop (s : State) : Out := .next s

/-! ### SYS.RD, SYS.WR (R364) -/

/-- CTNST (R352). -/
def ctnStatus (f : FieldSt) : DWord :=
  BitVec.ofNat 64 (f.ctn.handler.toNat * 2 ^ 48 + b2n f.ctn.opened * 2 ^ 47 + b2n f.ctn.early * 2 ^ 46
    + f.ctn.owner % 64 * 2 ^ 40 + tentCount f % 4096)

/-- CREC of the graph that owns a tile: the record of the running handler, or zero (R364). -/
def crecOf (s : State) (t : Nat) : List Byte :=
  match (s.tile t).owner.bind fun o => s.graph? o.1 with
  | none => []
  | some g =>
    match g.handlers with
    | h :: _ => if h.started then h.crec else []
    | [] => []

/-- What SYS.RD reads in tile t. -/
def sysRead (s : State) (t : Nat) : SysReg → DWord
  | .tfst => (s.tile t).tfst.setWidth 64
  | .chst => (s.tile t).chst
  | .ovrc => (s.tile t).ovrc.setWidth 64
  | .defc => (s.tile t).defc.setWidth 64
  | .meStatus m => ((s.field (fieldOfTile t)).me m.toNat).status.setWidth 64
  | .meConfig m => ((s.field (fieldOfTile t)).me m.toNat).cfg
  | .subc => (s.field (fieldOfTile t)).subc.setWidth 64
  | .gcyc => (s.die (dieOfTile t)).gcyc
  | .ctnst => ctnStatus (s.field (fieldOfTile t))
  | .crec n => BitVec.ofNat 64 (num (crecOf s t) (8 * n.toNat) 8)

/-- What SYS.WR writes in tile t, under the Access codes of the register. -/
def sysWrite (s : State) (t : Nat) (v : DWord) : SysReg → State
  | .tfst => s.setTile t { s.tile t with tfst := clearFlags (s.tile t).tfst (v.setWidth 32) }
  | .chst => if v.getLsbD 31 then s.setTile t { s.tile t with chst := 0 } else s
  | .ovrc => s.setTile t { s.tile t with ovrc := v.setWidth 32 }
  | .defc => s.setTile t { s.tile t with defc := v.setWidth 32 }
  | .meStatus m =>
    let f := fieldOfTile t
    let e := (s.field f).me m.toNat
    s.setField f ((s.field f).setMe m.toNat { e with status := clearFlags e.status (v.setWidth 32) })
  | .subc => s.setField (fieldOfTile t) { s.field (fieldOfTile t) with subc := v.setWidth 32 }
  | _ => s

/-- A firing performed at once: its token takes its place in the emission order. -/
def emitNow (s : State) (i : Instr) (tok : Token) : State :=
  let id := s.nextId
  finishCmd (openCmd s s.foc i false) s.foc id [tok]

/-- SYS.RD (R364). -/
def execSysRd (r : SysReg) (t1 t0 : Target) (s : State) : Out :=
  let i : Instr := .sysRd r t1 t0
  cmdFire s i 0xF false true noFault fun s _ => emitNow s i (dataTok (sysRead s (tileOf s.foc) r) false)

/-- SYS.WR (R364). -/
def execSysWr (r : SysReg) (t1 t0 : Target) (s : State) : Out :=
  let i : Instr := .sysWr r t1 t0
  cmdFire s i 0xF false true noFault fun s k => emitNow (sysWrite s (tileOf s.foc) (tokenAt k .l).data r) i (ordTok false)

/-! ### SYS.RD.A, SYS.WR.A (R365) -/

/-- The fault of an access to register space from slot x: VA-INVALID, then PA-INVALID, then MISALIGN. -/
def regFault (s : State) (x n : Nat) (l : DWord) : Option (Nat × DWord × DWord) :=
  let pa := l.toNat % 2 ^ 48
  let va := dataOf pa
  if 2 ^ 48 ≤ l.toNat then some (codeVaInvalid, va, 0)
  else if pa < regBase ∨ regEnd ≤ pa ∨ regClosed s (some (quarterOfDie (dieOfTile (tileOf x)))) false pa then
    some (codePaInvalid, va, 0)
  else if pa % n ≠ 0 then some (codeMisalign, va, 0)
  else none

/-- SYS.RD.A (R365). -/
def execSysRdA (d : Bool) (p : Pred) (t1 t0 : Target) (s : State) : Out :=
  let i : Instr := .sysRdA d p t1 t0
  let n := wordBytes d
  cmdFire s i 0xF false true (fun r => regFault s s.foc n (tokenAt r .l).data) fun s r =>
    emitNow s i (dataTok (regLoad s ((tokenAt r .l).data.toNat % 2 ^ 48) n) false)

/-- SYS.WR.A (R365): the write is the next turn. -/
def execSysWrA (d : Bool) (p : Pred) (t1 t0 : Target) (s : State) : Out :=
  let i : Instr := .sysWrA d p t1 t0
  let n := wordBytes d
  cmdFire s i 0xF false true (fun r => regFault s s.foc n (tokenAt r .l).data) fun s r =>
    let v := (tokenAt r .r).data
    (emitNow s i (ordTok false)).due
      (.registerWrite ((tokenAt r .l).data.toNat % 2 ^ 48) n (if d then v else v &&& 0xFFFFFFFF#64))

/-! ### SPAWN (R324, R325) -/

/-- SPAWN's firing once its tokens are there: the checks, the read, the push. -/
def spawnGo (s : State) (i : Instr) (n : Nat) (r : List (Pos × Token)) : State :=
  let x := s.foc
  let t := tileOf x
  let va := (tokenAt r .l).data.toNat
  let s := (s.by (slotSource x)).task (((s.tile t).owner.map (·.2)).getD 0)
  match (s.tile t).owner.bind fun o => s.graph? o.1 with
  | none => s
  | some g =>
    let q := quarterOfDie (dieOfField (graphHome s g))
    if va % 128 ≠ 0 then firingFault s x codeMisalign 7 0xF (dataOf (va % 2 ^ 48)) 0
    else if !(s.lq q n).en then firingFault s x codeQueueOff 0 0xF 0 (dataOf n)
    else
      match readStored s (fieldOf x) t va with
      | (u, .wait) => stillAsks (fieldOf x) s u
      | (s, .fault code acc fva d) => firingFault s x code acc 0xF (dataOf (fva % 2 ^ 48)) d
      | (s', .ok rcd) =>
        let l := s'.lq q n
        if !l.room (recEntries rcd) then s
        else
          let s := markStamp (noteFiring (consumeAll s' x (r.map (·.1))) x) (slotSource x).toNat
          emitNow (lqPush s q n rcd (slotStamp s x)) i (dataTok (dataOf l.tail.toNat) false)

/-- SPAWN (R324). -/
def execSpawn (n : BitVec 6) (t1 t0 : Target) (s : State) : Out :=
  let i : Instr := .spawn n t1 t0
  let x := s.foc
  if !cmdReady s x then .next s
  else
    .next <| match cmdPlan s x i true with
    | .wait => s
    | .fault c => firingFault s x c 0 0xF 0 0
    | .forward p tok => forwardMarker s x i p tok
    | .drop ps => noteFiring (consumeAll s x ps) x
    | .go r => spawnGo s i n.toNat r

end Sys2Proof.Machine
end

