-- ==== Sys2Proof/Machine/Sequencer.lean ====
section
/-! DEFINITION. The graph sequencer (spec/02_execution.md R28 to R39, R52): permits, the walk of the controller tree,
done tokens, SPAWN nodes, the end of sections, handlers (R354), the watchdog (R359) and the fault time limit (R181,
R182). -/

namespace Sys2Proof.Machine

/-! ### Nodes -/

/-- A section not yet loaded. -/
def Section.start : Section :=
  { loaded := false, tiles := [], result := none, resultPort := none, entries := [], entryPorts := [], progress := 0,
    period := 0, aborted := false, handled := none, barked := false }

/-- A node that has received its permit; its record is read next (R196). -/
def newNode (id : Nat) (parent : Option Nat) (pos idx iter : Nat) : Node :=
  { id := id, parent := parent, pos := pos, idx := idx, rcd := [], iter := iter, st := .permit, done := false,
    result := none }

/-- Give a permit. -/
def permit (s : State) (gid : Nat) (parent : Option Nat) (pos idx iter : Nat) : State :=
  let s' := s.modGraph gid fun a => { a with nodes := a.nodes ++ [newNode s.nextId parent pos idx iter] }
  { s' with nextId := s.nextId + 1 }

/-- Change one node of a graph. -/
def State.modNode (s : State) (gid n : Nat) (f : Node → Node) : State := s.modGraph gid fun a => a.modNode n f

/-- A node returns its done token. -/
def finishNode (s : State) (gid n : Nat) (result : Option Token) : State :=
  s.modNode gid n fun b => { b with done := true, result := result }

/-- A node whose done token has been taken leaves. -/
def dropNode (s : State) (gid n : Nat) : State :=
  s.modGraph gid fun a => { a with nodes := a.nodes.filter fun b => b.id ≠ n }

/-- Permits of a PIPE that R32 allows now. -/
def pipeIssue (s : State) (gid n : Nat) (rcd : List Byte) (started done : List Nat) : State :=
  let k := kgNch rcd + 1
  let st (j : Nat) : Nat := (started[j]?).getD 0
  let dn (j : Nat) : Nat := (done[j]?).getD 0
  let may (j : Nat) : Bool :=
    let i := st j + 1
    decide (i ≤ kgCount rcd) && decide (i ≤ dn j + 1) && (decide (j = 0) || decide (i ≤ dn (j - 1))) &&
      (decide (k ≤ j + 1) || decide (i ≤ dn (j + 1) + kgDepth rcd (j + 1)))
  let now := (List.range k).filter may
  let s := s.modNode gid n fun b => { b with
    st := .pipe ((List.range k).map fun j => if may j then st j + 1 else st j) done }
  foldState (fun s j => permit s gid (some n) j (kgChild rcd j) (st j)) s now

/-- POISON of a COND's predicate (R31). -/
def condPoison (s : State) (a : GraphSt) (nd : Node) : State :=
  postRec s a.lead { seqRec s a with code := codePoison, src := .cond a.id nd.id }

/-- A COND acts on its predicate (R31). -/
def condChoose (s : State) (a : GraphSt) (nd : Node) (pred : Token) : State :=
  let s := s.modNode a.id nd.id fun b => { b with st := .cond pred }
  if pred.psn then condPoison s a nd
  else
    let c := kgChild nd.rcd (if pred.data = 0 then 0 else 1)
    if c = 0xFFFE then finishNode s a.id nd.id none
    else if c = 0xFFFF then
      match nd.parent with
      | none => finishNode s a.id nd.id (some pred)
      | some p => finishNode (dropNode s a.id nd.id) a.id p (some pred)
    else permit s a.id (some nd.id) 0 c nd.iter

/-- The predicate of a COND, or none where R31 refuses it: its parent is a SEQ, whose child before it is of a kind that
has a result token. -/
def condPred (a : GraphSt) (nd : Node) : Option Token :=
  match nd.parent.bind fun p => a.node? p with
  | none => none
  | some p =>
    match p.st with
    | .seq _ _ prev has => if nd.pos = 0 ∨ !has then none else some (prev.getD (dataTok 0 false))
    | _ => none

/-- A node starts with its record (R29 to R36). -/
def startNode (s : State) (a : GraphSt) (nd : Node) (rcd : List Byte) : State :=
  let put (st : NodeSt) : State := s.modNode a.id nd.id fun b => { b with rcd := rcd, st := st }
  let nd := { nd with rcd := rcd }
  let kid (s : State) (j iter : Nat) : State := permit s a.id (some nd.id) j (kgChild rcd j) iter
  match kgKind rcd with
  | 0 => kid (put (.seq 0 0 none false)) 0 nd.iter
  | 1 =>
    let zs := List.replicate (kgNch rcd + 1) 0
    let s := put (.pipe zs zs)
    if kgCount rcd = 0 then finishNode s a.id nd.id none else pipeIssue s a.id nd.id rcd zs zs
  | 2 => foldState (fun s j => kid s j nd.iter) (put (.strm (kgNch rcd + 1))) (List.range (kgNch rcd + 1))
  | 3 =>
    match condPred a nd with
    | none => refuse s a (.graph nd.idx)
    | some p => condChoose (put (.cond p)) a nd p
  | 4 => put .spawn
  | 5 => finishNode (put (.cond (dataTok 0 false))) a.id nd.id none
  | _ =>
    if kgCount rcd = 0 then
      finishNode (put (.leaf Section.start)) a.id nd.id (if (kgResult rcd).isSome then some (dataTok 0 false) else none)
    else put (.leaf Section.start)

/-- Read the record of a node that has its permit, and start it (R196). -/
def readNode (s : State) (a : GraphSt) (nd : Node) : State :=
  let s := s.task nd.id
  match runRd (readKg (graphHome s a) (recGraph a.rcd) nd.idx) s with
  | (.error .wait, u) => stillAsks (graphHome s a) s u
  | (.error e, s) => refuse s a e
  | (.ok r, s) =>
    if kgOk (recCols a.rcd * recRows a.rcd) r then startNode s a nd r else refuse s a (.graph nd.idx)

/-- The parent acts on a child's done token. -/
def parentActs (s : State) (a : GraphSt) (nd : Node) : State :=
  let s' := dropNode s a.id nd.id
  match nd.parent with
  | none => endGraph s' a 0 nd.result 0
  | some pid =>
    match a.node? pid with
    | none => s'
    | some p =>
      match p.st with
      | .seq child rep _ _ =>
        let has := kgHasResult nd.rcd
        if child < kgNch p.rcd then
          permit (s'.modNode a.id pid fun b => { b with st := .seq (child + 1) rep nd.result has }) a.id (some pid)
            (child + 1) (kgChild p.rcd (child + 1)) p.iter
        else if rep + 1 = kgCount p.rcd then finishNode s' a.id pid nd.result
        else
          permit (s'.modNode a.id pid fun b => { b with st := .seq 0 (rep + 1) nd.result has }) a.id (some pid) 0
            (kgChild p.rcd 0) p.iter
      | .pipe started done =>
        let done := setAt done nd.pos ((done[nd.pos]?).getD 0 + 1)
        if (done[kgNch p.rcd]?).getD 0 = kgCount p.rcd then finishNode s' a.id pid none
        else pipeIssue s' a.id pid p.rcd started done
      | .strm left =>
        if left ≤ 1 then finishNode s' a.id pid none
        else s'.modNode a.id pid fun b => { b with st := .strm (left - 1) }
      | .cond _ => finishNode s' a.id pid nd.result
      | .handler =>
        let r := nd.result.getD (dataTok 0 false)
        let s' := dropNode s' a.id pid
        let s' := match p.parent with
          | none => s'
          | some l => s'.modSection a.id l fun c => { c with handled := some r }
        s'.modGraph a.id fun b => { b with handlers := b.handlers.drop 1 }
      | _ => s'

/-- The PIPE records above a node, innermost first, each with the iteration that the node runs in. -/
def pipesAbove (g : GraphSt) : Nat → Node → List (List Byte × Nat)
  | 0, _ => []
  | fuel + 1, n =>
    match n.parent.bind fun p => g.node? p with
    | none => []
    | some p => if kgKind p.rcd = 1 then (p.rcd, n.iter) :: pipesAbove g fuel p else pipesAbove g fuel p

/-- The iteration of the innermost PIPE of a list that holds record h, or 0 (R338). -/
def iterIn (g : GraphSt) (h : Nat) : List (List Byte × Nat) → Rd Nat
  | [] => pure 0
  | p :: ps => do
    let inside ← reaches g h treeFuel (kgChildren p.1)
    if inside then pure p.2 else iterIn g h ps

/-- The HANDLER record of a contained error, and the PIPE iteration its child runs with: that of the innermost PIPE which
encloses the HANDLER and runs now (R196, R338; notes/assumptions/49.md). -/
def readHandler (g : GraphSt) (leaf : Node) (h : Nat) : Rd (List Byte × Nat) := do
  let s ← get
  let r ← readKg (graphHome s g) (recGraph g.rcd) h
  check (kgOk (recCols g.rcd * recRows g.rcd) r && decide (kgKind r = 5)) (.graph h)
  let it ← iterIn g h (pipesAbove g g.nodes.length leaf)
  pure (r, it)

/-- The first contained error of a graph starts its handler, once none runs (R354). -/
def startHandler (s : State) (a : GraphSt) (nd : Node) : State :=
  match a.handlers with
  | [] => s
  | h :: hs =>
    if h.started ∨ h.leaf ≠ nd.id then s
    else
      let s := s.task nd.id
      match runRd (readHandler a nd h.idx) s with
      | (.error .wait, u) => stillAsks (graphHome s a) s u
      | (.error e, s) => refuse s a e
      | (.ok (r, it), s) =>
        let hid := s.nextId
        let node := { newNode hid (some nd.id) 0 h.idx it with rcd := r, st := .handler }
        let s := { s with nextId := hid + 1 }
        let s := s.modGraph a.id fun b => { b with
          handlers := { h with started := true } :: hs, nodes := b.nodes ++ [node] }
        permit s a.id (some hid) 0 (kgChild r 0) it

/-- NODE_DONE (R29): the sequencer's next act at a node: it reads and starts a node with a permit, acts for the parent on
a done token, or starts the handler of an aborted section. -/
def execNodeDone (g n : Nat) (s : State) : Out :=
  .next <| match s.graph? g with
  | none => s
  | some a =>
    if a.ended then s
    else
      match a.node? n with
      | none => s
      | some nd =>
        if nd.done then parentActs s a nd
        else
          match nd.st with
          | .permit => readNode s a nd
          | .leaf c => if c.aborted then startHandler s a nd else s
          | _ => s

/-! ### SPAWN nodes (R34) -/

/-- Whether a record of a node stands unresolved. -/
def nodeRecord (s : State) (a : GraphSt) (src : FSrc) : Bool :=
  (s.quarter a.lead).records.any fun r => outstandingRec r && decide (r.src = src)

/-- SPAWN_NODE_PUSH (R34, R315). -/
def execSpawnNodePush (g n : Nat) (s : State) : Out :=
  .next <| match s.graph? g with
  | none => s
  | some a =>
    match a.node? n with
    | none => s
    | some nd =>
      if a.ended || nd.done || decide (nd.st ≠ .spawn) || nodeRecord s a (.spawn g n) then s
      else
        let f := graphHome s a
        let s := (s.by (seqSource f)).task n
        let q := quarterOfDie (dieOfField f)
        let k := kgExt0 nd.rcd % 64
        match readStored s f (64 * f) (kgArg nd.rcd) with
        | (u, .wait) => stillAsks f s u
        | (s, .fault code _ va d) =>
          postRec s a.lead { seqRec s a with
            code := code, acc := 7, va := dataOf (va % 2 ^ 48), detail := d, src := .spawn g n }
        | (s', .ok rcd) =>
          if !(s'.lq q k).en then killGraph s' g 1
          else if !(s'.lq q k).room (recEntries rcd) then s
          else finishNode (lqPush (markStamp s' (seqSource f).toNat) q k rcd (seqStamp s' f)) g n none

/-! ### The end of a section (R36 to R39, R242, R354, R355) -/

/-- Whether a slot has something outstanding: a fault record, an access, a command. -/
def slotOutstanding (v : SlotSt) : Bool := v.wh.isSome || decide (v.accs ≠ []) || decide (v.cmds ≠ [])

/-- Whether any slot of a list of tiles has something outstanding. -/
def tilesOutstanding (s : State) (ts : List Nat) : Bool :=
  s.slots.any fun e => ts.contains (tileOf e.1) && slotOutstanding e.2

/-- Leave a tile at the end of its section: links, slots and ownership go; the tokens discarded are counted. DESIGN CHOICE
(notes/assumptions/49.md): those on a link from a STRM sibling that still runs are among them, and so are those on the link from
the sequencer to an entry port (R38). -/
def leaveTiles (s : State) (ts : List Nat) : State × Nat :=
  let inT (t : Nat) : Bool := ts.contains t
  let links := s.links.filter fun e => inT (e.1 / 192)
  let slots := s.slots.filter fun e => inT (tileOf e.1)
  let k := links.foldl (fun n e => n + e.2.q.length) 0
    + slots.foldl (fun n e => n + e.2.outs.foldl (fun m o => m + o.toks.length) 0) 0
  ({ s with
    links := s.links.filter fun e => !inT (e.1 / 192)
    slots := s.slots.filter fun e => !inT (tileOf e.1)
    tiles := (s.tiles.map fun e => if inT e.1 then (e.1, { e.2 with owner := none, xlat := [] }) else e).filter fun e =>
      decide (e.2 ≠ TileSt.reset) }, k)

/-- Panels of B that tiles have filled and no MX.MMA has consumed are discarded at the end of their section (R262). -/
def dropPanels (s : State) (ts : List Nat) : State :=
  { s with fields := s.fields.map fun e =>
      (e.1, { e.2 with mes := e.2.mes.map fun m =>
        (m.1, { m.2 with panel := m.2.panel.filter fun p => !ts.contains p.tile }) }) }

/-- Records of a watchdog on a section that ends become VOID. -/
def voidWatchdog (s : State) (a : GraphSt) (n : Nat) : State :=
  mapRecs s a.lead fun r => if r.src = .watchdog a.id n then { r with void := true } else r

/-- The regions that tiles own are committed as their section becomes done (R355). -/
def closeRegions (s : State) (ts : List Nat) : State :=
  foldState (fun s t => if ownsRegion s t then closeRegion s (fieldOfTile t) else s) s ts

/-- A section that has run is left: holds are released as by REL, an open region is committed, panels are
discarded, STRAY counted. -/
def endSection (s : State) (a : GraphSt) (n : Nat) (c : Section) : State :=
  let s := closeRegions (foldState (fun s t => releaseHolds s a.id t) s (ascending c.tiles)) c.tiles
  let r := leaveTiles (dropPanels s c.tiles) c.tiles
  let s := r.1.modGraph a.id fun b => { b with stray := satInc b.stray 0xFFFF r.2 }
  voidWatchdog s a n

/-- SECTION_DONE (R36). -/
def execSectionDone (g n : Nat) (s : State) : Out :=
  .next <| match s.graph? g with
  | none => s
  | some a =>
    match a.node? n with
    | none => s
    | some nd =>
      match nodeSection nd with
      | none => s
      | some c =>
        if a.ended || nd.done || !c.loaded || tilesOutstanding s c.tiles then s
        else if c.aborted then
          match c.handled with
          | none => s
          | some r =>
            finishNode (voidWatchdog (leaveTiles (dropPanels (closeRegions s c.tiles) c.tiles) c.tiles).1 a n) g n (some r)
        else if c.tiles.any fun t => decide ((s.tile t).armed ≠ 0) then s
        else
          finishNode (endSection (s.by (cacheSource (graphHome s a))) a n c) g n
            (if c.resultPort.isSome then some (c.result.getD (dataTok 0 false)) else none)

/-! ### The watchdog (R52, R359) -/

/-- Whether a section has an outstanding fault record. -/
def sectionFaulted (s : State) (c : Section) : Bool :=
  s.slots.any fun e => c.tiles.contains (tileOf e.1) && e.2.wh.isSome

/-- WATCHDOG (R52, R359). -/
def execWatchdog (g n : Nat) (s : State) : Out :=
  .next <| match s.graph? g with
  | none => s
  | some a =>
    match (a.node? n).bind fun nd => (nodeSection nd).map fun c => (nd, c) with
    | none => s
    | some (nd, c) =>
      if a.ended || nd.done || !c.loaded || c.aborted || c.barked || decide (c.period = 0) ||
          decide (s.now < c.progress + c.period * Config.usCycles) || sectionFaulted s c then s
      else
        let t := c.tiles.headD 0
        let s := postRec s a.lead { tileRec s t a with
          code := codeWatchdog, slot := 0x3F, unit := 0xF, detail := dataOf nd.idx, stamp := seqStamp s (graphHome s a)
          src := .watchdog g n }
        s.modSection g n fun c => { c with barked := true }

/-! ### The fault time limit (R181, R182) -/

/-- The tile a record names. -/
def FRec.tileNo (r : FRec) : Nat := 64 * (320 * r.die + r.field) + r.tile

/-- Whether a record is an outstanding translation fault of a section's elements that has been posted. -/
def timedRec (g : Nat) (c : Section) (r : FRec) : Bool :=
  outstandingRec r && isTransCode r.code && decide (r.graph = g) && c.tiles.contains r.tileNo &&
    (match r.src with
     | .firing _ | .access _ _ | .command _ _ _ => true
     | _ => false)

/-- The cycle in which the limit of a section expires: from the posting of its oldest outstanding record. -/
def sectionDeadline (s : State) (lead g : Nat) (c : Section) : Option Nat :=
  let v := s.quarter lead
  match (v.fbuf ++ v.popped).filter (timedRec g c) with
  | [] => none
  | r :: rs =>
    let o := rs.foldl (fun a b => if b.postedAt < a.postedAt then b else a) r
    some (o.postedAt + o.tlim * Config.usCycles)

/-- The bytes of a checkpoint area: 36,992 KiB per field (R183). -/
def areaLen (s : State) (g : GraphSt) : Nat := 0x2420000 * (graphFields s g).length

/-- The location of a checkpoint area's first byte in a lead's partition: it is aligned to 4 KiB and its page is here (R183). -/
def areaPlace (s : State) (lead area : Nat) : Option Nat :=
  if area % 4096 ≠ 0 then none
  else
    match peekPte s lead area with
    | none => none
    | some p => if partResident p (bitsOf area 16 5) then some (locOf s (ptePpn p * pageSize + area % pageSize)) else none

/-- Whether n bytes from va are here and writable, 64 KiB by 64 KiB, and lie in no plane shadow (R219). -/
def writableAt (s : State) (lead va n : Nat) : Bool :=
  (List.range (n / 0x10000 + 1)).all fun i =>
    let a := va / 0x10000 * 0x10000 + 0x10000 * i
    decide (va + n ≤ a) || (match peekPte s lead a with
      | none => false
      | some p => pteWr p && partResident p (bitsOf a 16 5) && !inShadow s (ptePpn p * pageSize + a % pageSize) 0x10000)

/-- Whether a graph can be saved at an area (R182, R183). One that is misaligned or cannot be written is no area, and the graph is
killed as without one (DESIGN CHOICE, notes/assumptions/14.md). -/
def areaOk (s : State) (g : GraphSt) (area : Nat) : Bool :=
  decide (area ≠ 0) && (areaPlace s g.lead area).isSome && writableAt s g.lead area (areaLen s g)

/-- The drain of a graph (R182): no permit is given and no element fires from now on; its translation records have
expired, its other withheld records become VOID (R350). The completion follows once what was issued is performed. -/
def drain (s : State) (a : GraphSt) (area : Nat) : State :=
  let ok := areaOk s a area
  let s := mapRecs s a.lead fun r =>
    if r.graph = a.id && outstandingRec r then
      if isTransCode r.code then { r with tlim := 0, postedAt := Nat.min r.postedAt s.now } else { r with void := true }
    else r
  endGraph s a (if ok then 5 else 4) none (if ok then dataOf area else 0)

/-- TLIM_EXPIRY (R181, R182). -/
def execTlimExpiry (g n : Nat) (s : State) : Out :=
  .next <| match s.graph? g with
  | none => s
  | some a =>
    match (a.node? n).bind fun nd => (nodeSection nd).map fun c => (nd, c) with
    | none => s
    | some (nd, c) =>
      match sectionDeadline s a.lead g c with
      | none => s
      | some d => if a.ended || decide (s.now < d) then s else drain s a (kgExt0 nd.rcd)

end Sys2Proof.Machine
end

