-- ==== Sys2Proof/Machine/Checkpoint.lean ====
section
/-! DEFINITION. Checkpoints (spec/10_translation_tables.md R182, R183, R350, spec/11_memories.md R217): what a drained
graph leaves in its area, and its restoration in a rectangle of the same shape. The area's layout is not architected: its
bytes are free, and what they stand for is kept whole, by the area's location (notes/assumptions/14.md). -/

namespace Sys2Proof.Machine

/-! ### Places carried from one rectangle to another -/

/-- Old and new fields of a rectangle, index by index. -/
abbrev Moves := List (Nat × Nat)

def moveField (m : Moves) (f : Nat) : Nat :=
  match m.find? fun e => e.1 == f with
  | some e => e.2
  | none => f
def moveTile (m : Moves) (t : Nat) : Nat := 64 * moveField m (t / 64) + t % 64
def moveSlot (m : Moves) (x : Nat) : Nat := 64 * moveTile m (x / 64) + x % 64
def moveLatch (m : Moves) (l : Nat) : Nat := 3 * moveSlot m (l / 3) + l % 3

/-- The field of an accumulator-store address. -/
def fieldOfAcc (a : Nat) : Nat := 320 * ((a - accBase) / 0x14000000) + (a - accBase) % 0x14000000 / 0x100000

/-- The field whose tile stores or accumulator stores hold an address. -/
def fieldOfStore (a : Nat) : Option Nat :=
  if isTileStore a then some (fieldOfTile (tileOfPa a))
  else if accBase ≤ a ∧ a < accEnd then some (fieldOfAcc a) else none

/-- An address of those stores in the new rectangle. -/
def moveByte (m : Moves) (a : Nat) : Nat :=
  if isTileStore a then tileStore (moveTile m (tileOfPa a)) + (a - tileBase) % 0x80000
  else accStore (moveField m (fieldOfAcc a)) 0 + (a - accBase) % 0x100000

/-- A sparse table carried over: its keys moved, its values changed. -/
def moveMap {α : Type} (key : Nat → Nat) (val : α → α) (m : SMap α) : SMap α :=
  m.foldl (fun a e => SMap.insert a (key e.1) (val e.2)) []

/-! ### Saving (R182, R183) -/

/-- Whether an address lies in the stores of a list of fields. -/
def inStores (fs : List Nat) (a : Nat) : Bool :=
  match fieldOfStore a with
  | some f => fs.contains f
  | none => false

/-- What a checkpoint area holds of a graph. -/
def savedOf (s : State) (g : GraphSt) (area : Nat) : Saved :=
  let fs := graphFields s g
  { area := area, graph := g, rect := fs,
    tiles := s.tiles.filter fun e => fs.contains (e.1 / 64),
    slots := s.slots.filter fun e => fs.contains (e.1 / 4096),
    links := s.links.filter fun e => fs.contains (e.1 / 12288),
    fields := s.fields.filter fun e => fs.contains e.1,
    mem := s.mem.filter fun c => inStores fs c.1 }

/-- Write back the reductions and dirty lines of a rectangle (R182). -/
def writeBackRect (s : State) (fs : List Nat) : State :=
  foldState (fun s f => writeBackAll (performRcbs s f fun _ => true) f (fun _ => true) false) s (ascending fs)

/-- Every bank of the tile stores of some fields is read or written whole (R204). -/
def touchStores (s : State) (fs : List Nat) (wr : Bool) : State :=
  foldState (fun s f => foldState (fun s j => storeTouch s (tileStore (64 * f + j)) 0x80000 wr) s (List.range 64)) s fs

/-- The drain's writes to the area: free bytes at every byte of it that is mapped to DRAM or a tile store. -/
def writeArea (s : State) (g : GraphSt) (area : Nat) : State :=
  foldState (fun s p =>
    if isDram p.1 || isTileStore p.1 then
      homeWrite (if isDram p.1 then l2Read s p.1 p.2 true false else storeTouch s p.1 p.2 true) p.1 ((List.range p.2).map fun k => Config.checkpointByte s.turns (p.1 + k)) false
    else s) (s.by (seqSource (graphHome s g))) (walkedPieces s g.lead area (areaLen s g))

/-- Write the checkpoint area: what the graph leaves is kept by the area's place, and the area's bytes are written. -/
def saveArea (s : State) (g : GraphSt) (area : Nat) : State :=
  match areaPlace s g.lead area with
  | none => s
  | some a =>
    let s := touchStores (s.by (seqSource (graphHome s g))) (graphFields s g) false
    writeArea { s with saved := savedOf s g a :: s.saved.filter fun v => v.area ≠ a } g area

/-! ### Restoring (R183, R350) -/

/-- An access with an address is translated anew; a request or a fence keeps its place. -/
def restoreAccess (a : Access) : Access :=
  { a with held := false, parts := match a.parts with
      | some ps => if ps.any fun p => decide (p.len ≠ 0) then none else some ps
      | none => none }

/-- A held result is retried: an overrun is delivered, a repeat that failed is made again. -/
def restoreResult (now : Nat) (r : Result) : Result :=
  match r.kind with
  | .strict => { r with kind := .cycles, due := now }
  | .pipeErr => { r with kind := .recheck, due := now }
  | _ => r

def restoreSlot (now : Nat) (v : SlotSt) : SlotSt :=
  { v with wh := none, accs := v.accs.map restoreAccess, result := v.result.map (restoreResult now) }

/-- A command that was withheld runs again from its start: of an MX.CPY no part is performed (R349). -/
def retryCmd (c : Cmd) : Cmd :=
  match c.i with
  | .mxCpy _ _ _ _ => { c with wh := none, started := false, parts := [] }
  | _ => { c with wh := none }

/-- A command comes back into its queue. -/
def restoreCmd (m : Moves) (c : Cmd) : Cmd := { (if c.wh.isSome then retryCmd c else c) with x := moveSlot m c.x }

/-- A channel that stopped on a fault starts its record again (R269). -/
def restoreChan (c : ChanSt) : ChanSt := if c.st = 3 then { c with st := 1, read := none } else c

/-- A field's units: its saved state over the caches, the class and the bucket of the field it comes to. -/
def restoreField (m : Moves) (here saved : FieldSt) : FieldSt :=
  { saved with
    vclass := here.vclass, cache := here.cache, rcb := here.rcb, tlb := here.tlb, walks := here.walks, fill := here.fill
    eosNow := []
    chans := saved.chans.map fun c => (c.1, restoreChan c.2)
    bus := saved.bus.map (restoreCmd m), queues := saved.queues.map fun q => (q.1, q.2.map (restoreCmd m))
    slds := saved.slds.map (restoreCmd m)
    mes := saved.mes.map fun e =>
      (e.1, { e.2 with panel := e.2.panel.map fun p => { p with tile := moveTile m p.tile } }) }

/-- The tentative sectors of a line come back into a field's cache, with the bytes written in them; every other byte that the cache
holds of the line stays, since it may be newer (R183, R284, R288). What the field itself has written or combined in those sectors
goes home first. DEDUCED (notes/assumptions/14.md): a byte of a tentative sector that the graph has not written comes anew from the
cache or the home. -/
def restoreLine (f : Nat) (s : State) (e : Nat × CLine) : State :=
  let mine (a : Nat) : Bool := e.2.tnt.contains ((a - e.2.base) / 48)
  let s := performRcbs s f fun r => decide (lineNo r.pa = e.1) && mine r.pa
  let s := ensureLine (writeBackLine s f e.1 mine false) f e.2.base
  let fs := s.field f
  match SMap.find fs.cache e.1 with
  | none => s
  | some l =>
    let back := e.2.bytes.filter fun b => e.2.tnt.contains (b.1 / 48) && b.2.drt
    let l := { l with bytes := back.foldl (fun m b => SMap.insert m b.1 b.2) l.bytes, tnt := (l.tnt ++ e.2.tnt).dedup }
    s.setField f { fs with cache := SMap.insert fs.cache e.1 l }

def restoreSection (m : Moves) (now : Nat) (c : Section) : Section :=
  { c with
    tiles := c.tiles.map (moveTile m)
    resultPort := c.resultPort.map fun p => (moveTile m p.1, p.2)
    entries := c.entries.map fun e => (e.1, moveLatch m e.2.1, e.2.2)
    entryPorts := c.entryPorts.map fun e => (moveTile m e.1, e.2)
    progress := now, barked := false }

def restoreNode (m : Moves) (now : Nat) (n : Node) : Node := n.modSection (restoreSection m now)

def restoreGuard (m : Moves) (g : Guard) : Guard :=
  { excl := g.excl.map (moveTile m), shared := g.shared.map (moveTile m)
    queue := g.queue.map fun r => { r with x := moveSlot m r.x } }

def restoreGroup (m : Moves) (g : Group) : Group :=
  { g with
    arrived := g.arrived.map fun a => { a with x := moveSlot m a.x }
    next := g.next.map fun a => { a with x := moveSlot m a.x } }

/-- The nodes, guards, groups and counts of a resumed graph. -/
def restoreGraph (m : Moves) (now : Nat) (saved here : GraphSt) : GraphSt :=
  { here with
    nodes := saved.nodes.map (restoreNode m now)
    guards := saved.guards.map fun e => (e.1, restoreGuard m e.2)
    groups := saved.groups.map fun e => (e.1, restoreGroup m e.2)
    handlers := saved.handlers, stray := saved.stray, rlx := saved.rlx }

/-- COND nodes that wait on a poisoned predicate test it again (R349). -/
def retestConds (s : State) (gid : Nat) : State :=
  match s.graph? gid with
  | none => s
  | some a =>
    foldState (fun s nd =>
      match nd.st with
      | .cond pred =>
        if pred.psn && !nd.done && !(a.nodes.any fun b => decide (b.parent = some nd.id)) then condPoison s a nd else s
      | _ => s) s a.nodes

/-- The chain check is made for a tile that is resumed as at a section start, with the class of the field it comes to; no
relaxation is taken back, and what is added counts in RLX, of a STRICT block too, which a section load would refuse (R156 to R158;
DESIGN CHOICE, notes/assumptions/14.md). -/
def recheckTile (g : GraphSt) (t : Nat) (s : State) : State :=
  let ti := s.tile t
  let more := (relaxedEdges (classCode (s.field (fieldOfTile t)).vclass) ti.cfg).filter fun l => !ti.relaxed.contains l
  if ti.owner.isNone || more = [] then s
  else
    (s.setTile t { ti with relaxed := ti.relaxed ++ more }).modGraph g.id fun b =>
      { b with rlx := satInc b.rlx 0xFFFF more.length }

/-- TRAPs that were withheld at the drain complete, as their retry does (R349, R350, R362): nothing else of their firing raises a
fault. -/
def resumeTraps (m : Moves) (old : SMap SlotSt) (s : State) : State :=
  foldState (fun s e =>
    let x := moveSlot m e.1
    match slotInstr s x with
    | none => s
    | some i =>
      if isTrap i then
        match cmdPlan s x i true with
        | .go _ => completeTrap s x i
        | _ => s
      else s) s (old.filter fun e => e.2.wh.isSome)

/-- Restore a saved graph into the rectangle of an admitted one. -/
def restoreArea (s : State) (g : GraphSt) (v : Saved) : State :=
  let new := graphFields s g
  let m := v.rect.zip new
  let mine (f : Nat) : Bool := new.contains f
  let s := touchStores (s.by (seqSource (graphHome s g))) new true
  let owner (t : TileSt) : TileSt := { t with
    owner := t.owner.map fun o => if o.1 = v.graph.id then (g.id, o.2) else o
    xlat := [] }
  let s := { s with
    tiles := (moveMap (moveTile m) owner v.tiles).foldl (fun a e => SMap.insert a e.1 e.2)
      (s.tiles.filter fun e => !mine (e.1 / 64))
    slots := (moveMap (moveSlot m) (restoreSlot s.now) v.slots).foldl (fun a e => SMap.insert a e.1 e.2)
      (s.slots.filter fun e => !mine (e.1 / 4096))
    links := (moveMap (moveLatch m) id v.links).foldl (fun a e => SMap.insert a e.1 e.2)
      (s.links.filter fun e => !mine (e.1 / 12288))
    mem := v.mem.foldl (fun a c => Memory.put a (moveByte m c.1) c.2) (s.mem.filter fun c => !inStores new c.1) }
  let s := foldState (fun s e =>
    let f := moveField m e.1
    let s := s.setField f (restoreField m (s.field f) e.2)
    foldState (restoreLine f) s (e.2.cache.filter fun l => decide (l.2.tnt ≠ []))) s v.fields
  let s := s.modGraph g.id (restoreGraph m s.now v.graph)
  resumeTraps m v.slots (retestConds (foldState (fun s e => recheckTile g (moveTile m e.1) s) s v.tiles) g.id)

end Sys2Proof.Machine
end

