-- ==== Sys2Proof/Machine/MemoryOps.lean ====
section
/-! DEFINITION. The meanings of the memory instructions, opcodes 0x80 to 0x9F (spec/12_memory_instructions.md), and
of the events of translation, performance, guards, step groups and remote accesses. -/

namespace Sys2Proof.Machine

/-- No fault of the data itself. -/
def noCheck : List (Pos × Token) → Option Nat := fun _ => none

/-- LDB and STB lengths of 0 or above 4,096 raise BLOCK-LEN (R232, R234). -/
def lenCheck (n : Nat) : Option Nat := if n = 0 ∨ 4096 < n then some codeBlockLen else none

/-- Natural alignment, then poisoned data operands (R228, R230). DESIGN CHOICE (notes/assumptions/55.md): a poisoned operand of an
AMO, RED or PST is found as it fires, before its address is translated; that of a store to a tile store after the region check. -/
def atomCheck (bytes : Nat) (r : List (Pos × Token)) : Option Nat :=
  if misaligned bytes r then some codeMisalign
  else if (tokenAt r .r).psn || (tokenAt r .p).psn then some codePoison else none

/-- LD (R231). -/
def execLd (w : Width) (p : Pred) (e sx : Bool) (t1 t0 : Target) (s : State) : Out :=
  fireAccess s (.ld w p e sx t1 t0) false noCheck

/-- LDB (R232). -/
def execLdb (p : Pred) (e sx : Bool) (t1 t0 : Target) (s : State) : Out :=
  fireAccess s (.ldb p e sx t1 t0) true fun r => lenCheck ((tokenAt r .r).data.toNat % 8192)

/-- ST (R233). -/
def execSt (w : Width) (p : Pred) (t1 t0 : Target) (s : State) : Out :=
  fireAccess s (.st w p t1 t0) false noCheck

/-! STB (R234) takes one beat a cycle; L and P go with the last. -/

/-- The bytes of a block from its beats. -/
def blockBytes (n : Nat) (beats : List DWord) : List Byte := (beats.flatMap fun d => leBytes 8 d.toNat).take n

/-- Take the beat at R's head; with the last beat, consume L and P and issue the access, fired since the first beat. -/
def stbBeat (s : State) (x : Nat) (i : Instr) (l p : Token) (r : Token) : State :=
  let n := p.data.toNat % 8192
  let s := burstBegin (consume s x .r) x
  let v := s.slot x
  let beats := v.burst ++ [r.data]
  let psn := v.burstPsn || r.psn
  if beats.length < (n + 7) / 8 then
    noteFiring (s.setSlot x { v with burst := beats, burstPsn := psn }) x
  else
    let s := noteFiring (consumeAll (burstEnd s x) x [.l, .p]) x
    let a := mkAccess s x i [(.l, l), (.p, p)] none
    addAccess s x { a with id := v.burstId.getD a.id, block := blockBytes n beats, psn := psn } i false

/-- A fault of STB discards the beats already consumed. -/
def stbFault (s : State) (x : Nat) (code : Nat) (va : DWord) : State :=
  firingFault (burstEnd s x) x code 2 (portOfSlot x) va 0

/-- STB's firing, or its next beat. DESIGN CHOICE (notes/assumptions/56.md): a bad length on P together with a marker on R raises
BLOCK-LEN. -/
def stbStep (s : State) (x : Nat) (i : Instr) : State :=
  match memPlanStb s x i with
  | .wait => s
  | .fault c => stbFault s x c 0
  | .forward p tok =>
    let s := noteFiring (consume s x p) x
    let id := s.nextId
    emitOut (queueOut { s with nextId := s.nextId + 1 } x
      { id := id, toks := [tok], tgts := targetsOf i, ready := true, lock := false, stale := false }) x
  | .drop ps => noteFiring (consumeAll s x ps) x
  | .go r =>
    let va := BitVec.ofNat 64 ((tokenAt r .l).data.toNat % 2 ^ 48)
    match lenCheck ((tokenAt r .p).data.toNat % 8192) with
    | some c => stbFault s x c va
    | none =>
      if (tokenAt r .r).kind ≠ .data then stbFault s x codeStreamSkew va
      else stbBeat s x i (tokenAt r .l) (tokenAt r .p) (tokenAt r .r)
where
  /-- The markers of L and P and the poison of the address; R's markers are STB's own (R234). -/
  memPlanStb (s : State) (x : Nat) (i : Instr) : MemPlan :=
    match headAt s x .l with
    | none => .wait
    | some l =>
      if l.tok.kind ≠ .data then .forward .l l.tok
      else
        match readAll s x (latchesRead i) with
        | none => .wait
        | some r =>
          let p := tokenAt r .p
          if p.kind = .eot ∨ p.kind = .ord then .forward .p p
          else if p.kind = .eos then
            if drainOf s x then .drop ((r.filter fun a => decide (a.2.kind = .data)).map (·.1)) else .fault codeStreamSkew
          else if l.tok.psn then .fault codePoison
          else .go r

/-- STB (R234). -/
def execStb (t1 t0 : Target) (s : State) : Out :=
  .next (if portReady s s.foc then stbStep s s.foc (.stb t1 t0) else s)

/-- PLD (R244). -/
def execPld (d : Bool) (p : Pred) (t1 t0 : Target) (s : State) : Out :=
  fireAccess s (.pld d p t1 t0) false fun r => if misaligned (wordBytes d) r then some codeMisalign else none

/-- PST (R245). -/
def execPst (d : Bool) (t1 t0 : Target) (s : State) : Out :=
  fireAccess s (.pst d t1 t0) false (atomCheck (wordBytes d))

/-! ### STEP, ACQ, REL and the fences -/

/-- The graph that owns the tile of a slot. -/
def slotGraph (s : State) (x : Nat) : Option GraphSt := (s.tile (tileOf x)).owner.bind fun o => s.graph? o.1

/-- Whether a piece of a plane region lies where plane words may: in the tile store of an MT tile, at offsets below 0x20000
(R218). -/
def planePlace (s : State) (p : Nat × Nat) : Bool :=
  isTileStore p.1 && isMt s (tileOfPa p.1) && decide (p.1 + p.2 - tileStore (tileOfPa p.1) ≤ 0x20000)

/-- The pieces of a region, tile store by tile store. -/
def planePieces (s : State) (lead : Nat) (e : BitVec 128) : List (Nat × Nat) :=
  (rangePieces s lead (regBaseVa e) (regSize e)).flatMap fun p =>
    (cutAt 0x80000 p.1 (p.2 / 0x80000 + 2) 0 p.2).map fun c => (p.1 + c.1, c.2)

/-- The fault of a STEP: no plane region of its group, a rank above NMEM, or a plane word out of its place (R218, R246). -/
def stepCheck (s : State) (x sg rank : Nat) : Option Nat :=
  match slotGraph s x with
  | none => some codePlaneHome
  | some g =>
    match groupRegions s g sg with
    | [] => some codePlaneHome
    | e :: es =>
      if regNmem e < rank || !((e :: es).all fun r => (planePieces s g.lead r).all (planePlace s)) then some codePlaneHome
      else none

/-- A STEP arrives at its group: a rank that has arrived counts for the next step (R221). DESIGN CHOICE (notes/assumptions/56.md): it
reaches the group's state in the very step in which it fires, since the spec gives it no latency (R221, R246). -/
def arriveStep (s : State) (x id sg rank : Nat) : State :=
  match slotGraph s x with
  | none => s
  | some g =>
    s.modGraph g.id fun a =>
      let gr := SMap.get a.groups Group.reset sg
      let r : Arrival := { rank := rank, x := x, id := id, cyc := s.now }
      let gr' : Group := if gr.arrived.any fun b => b.rank == rank then { gr with next := gr.next ++ [r] }
        else { gr with arrived := gr.arrived ++ [r] }
      { a with groups := SMap.put a.groups Group.reset sg gr' }

/-- STEP (R246). -/
def execStep (sg : BitVec 6) (t1 t0 : Target) (s : State) : Out :=
  let i : Instr := .step sg t1 t0
  memFire s i (fun r => stepCheck s s.foc sg.toNat ((tokenAt r .l).data.toNat % 256)) fun t r =>
    let a := mkAccess t t.foc i r (some [])
    arriveStep (addAccess t t.foc a i false) t.foc a.id sg.toNat ((tokenAt r .l).data.toNat % 256)

/-- The fault of an ACQ: the tile holds or awaits the guard (R240). -/
def acqCheck (s : State) (x g : Nat) : Option Nat :=
  match slotGraph s x with
  | none => none
  | some a =>
    if holdsGuard s (tileOf x) g || awaitsGuard (SMap.get a.guards Guard.free g) (tileOf x) then some codeGuardHeld
    else none

/-- Whether a request of slot x for a guard waits: the slot does not fire again until it is granted (R239). -/
def requestWaits (s : State) (x g : Nat) : Bool :=
  match slotGraph s x with
  | none => false
  | some a => (SMap.get a.guards Guard.free g).queue.any fun r => r.x == x

/-- Queue a request for a guard (R239, R240). DESIGN CHOICE (notes/assumptions/56.md): it arrives at the sequencer in the cycle in
which it fires. -/
def fireAcquire (s : State) (i : Instr) (g : Nat) (shared : Bool) : Out :=
  if requestWaits s s.foc g then .next s
  else memFire s i (fun _ => acqCheck s s.foc g) fun t r =>
    let x := t.foc
    let a := mkAccess t x i r (some [])
    let t := addAccess t x a i false
    match slotGraph t x with
    | none => t
    | some gr =>
      t.modGraph gr.id fun b =>
        let gu := SMap.get b.guards Guard.free g
        let q := insertReq { x := x, id := a.id, shared := shared, cyc := t.now } gu.queue
        { b with guards := SMap.put b.guards Guard.free g { gu with queue := q } }

/-- ACQ.X (R240). -/
def execAcqX (p : Pred) (g : BitVec 8) (t0 : Target) (s : State) : Out := fireAcquire s (.acqX p g t0) g.toNat false

/-- ACQ.S (R240). -/
def execAcqS (p : Pred) (g : BitVec 8) (t0 : Target) (s : State) : Out := fireAcquire s (.acqS p g t0) g.toNat true

/-- A firing whose access is an action below the port. -/
def fireAction (s : State) (i : Instr) (check : List (Pos × Token) → Option Nat) : Out :=
  memFire s i check fun t r => addAccess t t.foc (mkAccess t t.foc i r (some [actionPart])) i false

/-- REL (R241): its action publishes, releases the hold, and then the ORD leaves. -/
def execRel (p : Pred) (g : BitVec 8) (t0 : Target) (s : State) : Out :=
  fireAction s (.rel p g t0) fun _ => if holdsGuard s (tileOf s.foc) g.toNat then none else some codeGuardNotHeld

/-- A fence is an action that waits for the tile's earlier accesses (R243). -/
def fireFence (s : State) (i : Instr) : Out := fireAction s i noCheck

/-- FENCE.F (R243). -/
def execFenceF (t1 t0 : Target) (s : State) : Out := fireFence s (.fenceF t1 t0)
/-- FENCE.D (R243). -/
def execFenceD (t1 t0 : Target) (s : State) : Out := fireFence s (.fenceD t1 t0)
/-- FENCE.P (R243). -/
def execFenceP (t1 t0 : Target) (s : State) : Out := fireFence s (.fenceP t1 t0)
/-- FENCE.S (R243): a remote access is performed once its peer has reported, so it waits as FENCE.D does (R300). -/
def execFenceS (t1 t0 : Target) (s : State) : Out := fireFence s (.fenceS t1 t0)

/-! ### Atomics and reductions (R236, R237) -/

/-- An AMO or RED on words of the given bytes. -/
def fireAtomic (s : State) (i : Instr) (bytes : Nat) : Out := fireAccess s i false (atomCheck bytes)

/-- AMO.ADD (R236). -/
def execAmoAdd (d : Bool) (p : Pred) (t1 t0 : Target) (s : State) : Out := fireAtomic s (.amoAdd d p t1 t0) (wordBytes d)
/-- AMO.FADD (R236). -/
def execAmoFadd (p : Pred) (t1 t0 : Target) (s : State) : Out := fireAtomic s (.amoFadd p t1 t0) 4
/-- AMO.MIN (R236). -/
def execAmoMin (d : Bool) (p : Pred) (u : Bool) (t1 t0 : Target) (s : State) : Out :=
  fireAtomic s (.amoMin d p u t1 t0) (wordBytes d)
/-- AMO.MAX (R236). -/
def execAmoMax (d : Bool) (p : Pred) (u : Bool) (t1 t0 : Target) (s : State) : Out :=
  fireAtomic s (.amoMax d p u t1 t0) (wordBytes d)
/-- AMO.AND (R236). -/
def execAmoAnd (d : Bool) (p : Pred) (t1 t0 : Target) (s : State) : Out := fireAtomic s (.amoAnd d p t1 t0) (wordBytes d)
/-- AMO.OR (R236). -/
def execAmoOr (d : Bool) (p : Pred) (t1 t0 : Target) (s : State) : Out := fireAtomic s (.amoOr d p t1 t0) (wordBytes d)
/-- AMO.XOR (R236). -/
def execAmoXor (d : Bool) (p : Pred) (t1 t0 : Target) (s : State) : Out := fireAtomic s (.amoXor d p t1 t0) (wordBytes d)
/-- AMO.SWAP (R236). -/
def execAmoSwap (d : Bool) (p : Pred) (t1 t0 : Target) (s : State) : Out :=
  fireAtomic s (.amoSwap d p t1 t0) (wordBytes d)
/-- AMO.CAS (R236): P is the expected value. -/
def execAmoCas (d : Bool) (t1 t0 : Target) (s : State) : Out := fireAtomic s (.amoCas d t1 t0) (wordBytes d)
/-- RED.ADD (R237). -/
def execRedAdd (d : Bool) (p : Pred) (t1 t0 : Target) (s : State) : Out := fireAtomic s (.redAdd d p t1 t0) (wordBytes d)
/-- RED.FADD (R237). -/
def execRedFadd (p : Pred) (t1 t0 : Target) (s : State) : Out := fireAtomic s (.redFadd p t1 t0) 4
/-- RED.MIN (R237). -/
def execRedMin (d : Bool) (p : Pred) (u : Bool) (t1 t0 : Target) (s : State) : Out :=
  fireAtomic s (.redMin d p u t1 t0) (wordBytes d)
/-- RED.MAX (R237). -/
def execRedMax (d : Bool) (p : Pred) (u : Bool) (t1 t0 : Target) (s : State) : Out :=
  fireAtomic s (.redMax d p u t1 t0) (wordBytes d)
/-- RED.AND (R237). -/
def execRedAnd (d : Bool) (p : Pred) (t1 t0 : Target) (s : State) : Out := fireAtomic s (.redAnd d p t1 t0) (wordBytes d)
/-- RED.OR (R237). -/
def execRedOr (d : Bool) (p : Pred) (t1 t0 : Target) (s : State) : Out := fireAtomic s (.redOr d p t1 t0) (wordBytes d)

/-! ### Cache instructions (R247 to R249) -/

/-- PREF (R247). -/
def execPref (p : Pred) (e l : Bool) (s : State) : Out := fireAccess s (.pref p e l) false noCheck
/-- RETAIN (R248). -/
def execRetain (t1 t0 : Target) (s : State) : Out := fireAccess s (.retain t1 t0) false noCheck
/-- UNPIN (R248). -/
def execUnpin (t1 t0 : Target) (s : State) : Out := fireAccess s (.unpin t1 t0) false noCheck
/-- FLUSH (R249). -/
def execFlush (p : Pred) (d : Bool) (t1 t0 : Target) (s : State) : Out := fireAccess s (.flush p d t1 t0) false noCheck

/-! ### Events -/

/-- TRANSLATION_WALK (R170, R226): the oldest access of slot x not yet translated. -/
def execTranslationWalk (x : Nat) (s : State) : Out := .next (walkSlot s x)

/-- MEMORY_ACCESS_PERFORMED (R227): the k-th part of slot x still to be performed. -/
def execMemoryAccessPerformed (x k : Nat) (e : Ecc) (s : State) : Out := .next (performPart s x k e)

/-- One granted request: the hold, the cache action of R240, the ORD. -/
def grantOne (gid n : Nat) (s : State) (r : GuardReq) : State :=
  let t := tileOf r.x
  let s := s.modGraph gid fun a =>
    let gu := SMap.get a.guards Guard.free n
    { a with guards := SMap.put a.guards Guard.free n { gu with
        excl := if r.shared then gu.excl else some t
        shared := if r.shared then gu.shared ++ [t] else gu.shared
        queue := gu.queue.filter fun q => q.id ≠ r.id } }
  finishAccess (acquireCache (s.by (slotSource r.x)) (fieldOfTile t) n) r.x r.id [ordTok false]

/-- Insert a request by the place of its slot. -/
def insertPlace (r : GuardReq) : List GuardReq → List GuardReq
  | [] => [r]
  | a :: as => if r.x < a.x then r :: a :: as else a :: insertPlace r as

/-- GUARD_GRANT (R239): guard n of graph g grants what it may; the caches of the fields act at the homes in the order of their
sources (R291). -/
def execGuardGrant (g n : Nat) (s : State) : Out :=
  match s.graph? g with
  | none => .next s
  | some a => .next (foldState (grantOne g n) s ((grantable s.now (SMap.get a.guards Guard.free n)).foldr insertPlace []))

/-- STEP_SWAP (R221, R222): group n of graph g swaps, once every rank has arrived and every PST before is performed. DESIGN CHOICE
(notes/assumptions/56.md): it swaps at all MTs in one step, where R222 lets a non-member see the swap of one MT before that of
another. -/
def execStepSwap (g n : Nat) (s : State) : Out :=
  match s.graph? g with
  | none => .next s
  | some a =>
    if !swapReady s a n then .next s
    else
      let gr := SMap.get a.groups Group.reset n
      let s := foldState (fun s e => swapRegion s a.lead e) s (groupRegions s a n)
      let m := promote gr.next [] []
      let stepn := gr.stepn + 1
      let s := s.modGraph g fun b => { b with
        groups := SMap.put b.groups Group.reset n { stepn := stepn, arrived := m.1, next := m.2 } }
      .next (foldState (fun s r => finishAccess s r.x r.id [dataTok (dataOf stepn.toNat) false]) s gr.arrived)

/-- A remote access whose report has come, or whose time is up, leaves the list. -/
def dropRemote (s : State) (id : Nat) : State := { s with remotes := s.remotes.filter fun r => r.id ≠ id }

/-- REMOTE-FAIL of a remote access: DETAIL is the transport's error code, 0 for a timeout (R300). -/
def remoteFail (s : State) (r : RemoteAcc) (err : Nat) : State :=
  match (s.slot r.x).accs.find? fun a => a.id == r.acc with
  | none => dropRemote s r.id
  | some a =>
    if (s.slot r.x).wh.isSome then s
    else
      let va := ((a.parts.bind fun ps => ps[r.part]?).map Part.va).getD a.va.toNat
      accessFault (dropRemote s r.id) r.x a codeRemoteFail 9 va (BitVec.ofNat 64 err)

/-- What a report without an error does for part p of an access: the value read, with the bytes bad of it from poisoned
sectors. Poison is delivered to a load; on an ET page it is read as zeros, each sector counted in SUBC; otherwise it is a
POISON of the access, which at the peer has had no effect (R230, R358). -/
def remoteDone (s : State) (r : RemoteAcc) (o : MemOp) (a : Access) (p : Part) (v : Nat) (bad : List Nat) : State :=
  let u := dropRemote s r.id
  let reads : Bool := o.isLoad || (match o with
    | .red _ _ => true
    | _ => false)
  if decide (bad = []) || !reads then partDone u r.x a r.part (leBytes p.len v) []
  else
    let loads : Bool := match o with
      | .ld _ _ _ | .ldb _ _ => true
      | _ => false
    if p.et && (loads || decide (o = .sld)) then
      let k := ((bad.map fun i => sectorBase (p.pa + i)).dedup).length
      let bytes := (leBytes p.len v).zipIdx.map fun b => if bad.contains b.2 then 0 else b.1
      partDone (countZeros u (fieldOf r.x) k) r.x a r.part bytes []
    else if loads then partDone u r.x a r.part (leBytes p.len v) (bad.map fun i => p.off + i)
    else if (s.slot r.x).wh.isSome then s else accessFault u r.x a codePoison o.acc p.va 0

/-- REMOTE_RESPONSE (R300): the peer reports that access k has been performed, with the value read and, bit by bit, which of
its bytes come from poisoned sectors; or an error. A port that is not up brings no report (R383). -/
def execRemoteResponse (k err : Nat) (v : Report) (s : State) : Out :=
  .next <| match s.remotes.find? fun r => r.id == k with
  | none => s
  | some r =>
    if !r.carried || !portUp s r.req.port then s
    else if err ≠ 0 then remoteFail s r err
    else
      match (s.slot r.x).accs.find? fun a => a.id == r.acc with
      | none => dropRemote s k
      | some a =>
        match memOp a.i, a.parts.bind fun ps => ps[r.part]? with
        | some o, some p => remoteDone s r o a p v.value ((List.range p.len).filter (bitOf v.bad))
        | _, _ => dropRemote s k

/-- REMOTE_TIMEOUT (R300): no report has arrived within RTO for an access whose slot does not withhold already. -/
def execRemoteTimeout (s : State) : Out :=
  .next <| match s.remotes.find? fun r => decide (r.deadline ≤ s.now) && (s.slot r.x).wh.isNone with
  | none => s
  | some r => remoteFail s r 0

end Sys2Proof.Machine
end

