-- ==== Sys2Proof/Machine/MsuOps.lean ====
section
/-! DEFINITION. The Midsummer unit: stream registers, base generators, the MSU commands 0xB0 to 0xBF and their
performance (spec/07_stream_registers.md R129 to R145). -/

namespace Sys2Proof.Machine

/-! ### Lengths and generators (R130 to R132) -/

/-- n = log2 of the length a code names. -/
def lenLog (c : BitVec 3) : Nat := 4 + 2 * c.toNat

/-- The length a code names. -/
def lenOf (c : BitVec 3) : Nat := 2 ^ lenLog c

/-- The rotation s(g, n), one row for each length code, generators g0 to g15. -/
def genRotations : List (List Nat) :=
  [[0, 1, 2, 3, 0, 1, 2, 3, 0, 1, 2, 3, 0, 1, 2, 3],
   [0, 1, 2, 3, 4, 5, 1, 2, 3, 4, 5, 0, 2, 3, 4, 5],
   [0, 3, 5, 7, 1, 2, 4, 6, 1, 3, 5, 7, 2, 4, 6, 0],
   [0, 3, 7, 1, 5, 9, 2, 4, 6, 8, 5, 8, 9, 1, 3, 7],
   [0, 5, 7, 11, 2, 9, 4, 1, 3, 6, 8, 10, 1, 3, 6, 11],
   [0, 5, 9, 3, 11, 1, 13, 7, 2, 10, 6, 12, 4, 8, 0, 13]]

def genRotation (g : Nat) (c : BitVec 3) : Nat := (((genRotations[c.toNat]?).getD [])[g]?).getD 0

/-- Rotate an n-bit value left. -/
def rotL (n k r : Nat) : Nat := k * 2 ^ r % 2 ^ n + k / 2 ^ (n - r)

/-- The permutation T(g, n, k) (R131). -/
def genPerm (g : Nat) (c : BitVec 3) (k : Nat) : Nat := reverseBits (lenLog c) (rotL (lenLog c) k (genRotation g c))

/-- A lane with th ones: bit k is 1 where T(g, n, k) lies below th (R140, R143). -/
def genLane (g : Nat) (c : BitVec 3) (th : Nat) : Nat :=
  ((List.range (lenOf c)).filter fun k => decide (genPerm g c k < th)).foldl (fun v k => v + 2 ^ k) 0

/-- The ones of a lane. -/
def laneOnes (c : BitVec 3) (v : Nat) : Nat := popCount (lenOf c) v

/-! ### Registers -/

def FieldSt.zreg (f : FieldSt) (z : BitVec 5) : ZReg := SMap.get f.zregs ZReg.reset z.toNat
def FieldSt.setZ (f : FieldSt) (z : BitVec 5) (v : ZReg) : FieldSt :=
  { f with zregs := SMap.put f.zregs ZReg.reset z.toNat v }

/-- The completion token of R134. -/
def zToken (tag : BitVec 3) (mask : BitVec 16) : Token := dataTok (dataOf (tag.toNat * 65536 + mask.toNat)) false

/-- The memory image of a register (R141): lane i occupies L/8 bytes. -/
def zImage (z : ZReg) : List Byte := z.lanes.flatMap fun v => leBytes (lenOf z.tag / 8) v

/-- A register from its memory image. -/
def zFromImage (c : BitVec 3) (mask : BitVec 16) (bs : List Byte) : ZReg :=
  { lanes := (List.range 16).map fun i => leNat ((bs.drop (i * (lenOf c / 8))).take (lenOf c / 8)), mask := mask, tag := c }

/-! ### Bit-combining instructions (R133, R142) -/

/-- The first two tags that differ, in source order. -/
def tagClash : List ZReg → Option (BitVec 3 × BitVec 3)
  | [] => none
  | a :: as => (as.find? fun b => decide (b.tag ≠ a.tag)).map fun b => (a.tag, b.tag)

/-- STREAM-LEN's detail word. -/
def lenDetail (a b : BitVec 3) : DWord := dataOf (a.toNat * 65536 + b.toNat)

/-- CORRELATED's detail word. -/
def maskDetail (a b : BitVec 16) : DWord := dataOf (a.toNat * 65536 + b.toNat)

/-- Combine the lanes of registers of one tag. -/
def zip3 (f : Nat → Nat → Nat → Nat) (s a b : ZReg) : List Nat :=
  (List.range 16).map fun i => f ((s.lanes[i]?).getD 0) ((a.lanes[i]?).getD 0) ((b.lanes[i]?).getD 0)

/-- What a register command does: a fault with its detail, or the field with a register written, and its token. -/
abbrev ZRes := Except (Nat × DWord) (FieldSt × Token)

/-- Write a register and answer its completion token. -/
def zWrite (f : FieldSt) (zd : BitVec 5) (v : ZReg) : ZRes := .ok (f.setZ zd v, zToken v.tag v.mask)

/-- SAND, SOR, SXOR, SMIN, SMAX: the tag check, then the mask check: disjoint masks or equal ones. -/
def combine2 (f : FieldSt) (zd za zb : BitVec 5) (disjoint : Bool) (op : Nat → Nat → Nat) : ZRes :=
  let a := f.zreg za
  let b := f.zreg zb
  match tagClash [a, b] with
  | some c => .error (codeStreamLen, lenDetail c.1 c.2)
  | none =>
    if (if disjoint then decide (a.mask &&& b.mask ≠ 0) else decide (a.mask ≠ b.mask)) then
      .error (codeCorrelated, maskDetail a.mask b.mask)
    else zWrite f zd { lanes := zip3 (fun _ => op) a a b, mask := if disjoint then a.mask ||| b.mask else a.mask, tag := a.tag }

/-- SMUX: Zd is also the select. -/
def combineMux (f : FieldSt) (zd za zb : BitVec 5) : ZRes :=
  let m := f.zreg zd
  let a := f.zreg za
  let b := f.zreg zb
  match tagClash [m, a, b] with
  | some c => .error (codeStreamLen, lenDetail c.1 c.2)
  | none =>
    if m.mask &&& (a.mask ||| b.mask) ≠ 0 then .error (codeCorrelated, maskDetail m.mask (a.mask ||| b.mask))
    else
      let pick (s x y : Nat) : Nat := Nat.lor (Nat.land s x) (Nat.land (Nat.xor s (2 ^ lenOf m.tag - 1)) y)
      zWrite f zd { lanes := zip3 pick m a b, mask := m.mask ||| a.mask ||| b.mask, tag := m.tag }

/-- SNOT and SMOV. -/
def copyZ (f : FieldSt) (zd za : BitVec 5) (inv : Bool) : ZRes :=
  let a := f.zreg za
  zWrite f zd { a with lanes := if inv then a.lanes.map fun v => Nat.xor v (2 ^ lenOf a.tag - 1) else a.lanes }

/-- SGEN (R140). -/
def genZ (f : FieldSt) (zd : BitVec 5) (vals ctl : DWord) : ZRes :=
  let c := f.zlen
  let g := ctl.toNat % 16
  let q := ctl.toNat / 16 % 4
  let d := f.zreg zd
  if q ≠ 0 ∧ d.tag ≠ c then .error (codeStreamLen, lenDetail d.tag c)
  else
    let lane (i : Nat) : Nat := genLane g c (bitsOf vals.toNat (16 * i) 16 * 2 ^ lenLog c / 65536)
    let lanes := (List.range 16).map fun k =>
      if k / 4 = q then lane (k % 4) else if q = 0 then 0 else (d.lanes[k]?).getD 0
    let one : BitVec 16 := BitVec.ofNat 16 (2 ^ g)
    zWrite f zd { lanes := lanes, mask := if q = 0 then one else d.mask ||| one, tag := c }

/-- SREGEN (R143). -/
def regenZ (f : FieldSt) (zd zs : BitVec 5) (g : BitVec 4) : ZRes :=
  let z := f.zreg zs
  zWrite f zd { lanes := z.lanes.map fun v => genLane g.toNat z.tag (laneOnes z.tag v),
                mask := BitVec.ofNat 16 (2 ^ g.toNat), tag := z.tag }

/-- The counts of a register's lanes. -/
def zCounts (z : ZReg) : List Nat := z.lanes.map (laneOnes z.tag)

/-- Four 16-bit values of lane group q as one double word. -/
def pack4 (vs : List Nat) (q : Nat) : DWord :=
  dataOf (((List.range 4).map fun j => ((vs[4 * q + j]?).getD 0) % 65536 * 2 ^ (16 * j)).sum)

/-- SCNT, SCNT.A and SCVT (R144). -/
def countZ (f : FieldSt) (zs : BitVec 5) (ctl : DWord) : DWord := pack4 (zCounts (f.zreg zs)) (ctl.toNat % 4)
def countAllZ (f : FieldSt) (zs : BitVec 5) : DWord := dataOf (zCounts (f.zreg zs)).sum
def fractionZ (f : FieldSt) (zs : BitVec 5) (ctl : DWord) : DWord :=
  let z := f.zreg zs
  pack4 ((zCounts z).map fun c => Nat.min (c * 65536 / lenOf z.tag) 65535) (ctl.toNat % 4)

/-- What a command other than SLD and SST does to its field when it is performed (R135). -/
def msuEffect (f : FieldSt) (c : Cmd) : ZRes :=
  match c.i with
  | .slen l _ _ => .ok ({ f with zlen := l }, zToken l 0)
  | .sgen z _ _ => genZ f z c.l c.r
  | .sand zd za zb _ => combine2 f zd za zb true Nat.land
  | .sor zd za zb _ => combine2 f zd za zb true Nat.lor
  | .sxor zd za zb _ => combine2 f zd za zb false Nat.xor
  | .smin zd za zb _ => combine2 f zd za zb false Nat.land
  | .smax zd za zb _ => combine2 f zd za zb false Nat.lor
  | .smux zd za zb _ => combineMux f zd za zb
  | .snot zd za _ => copyZ f zd za true
  | .smov zd za _ => copyZ f zd za false
  | .sregen zd zs g _ => regenZ f zd zs g
  | .scnt z _ _ => .ok (f, dataTok (countZ f z c.l) false)
  | .scntA z _ _ => .ok (f, dataTok (countAllZ f z) false)
  | .scvt z _ _ => .ok (f, dataTok (fractionZ f z c.l) false)
  | _ => .ok (f, dataTok 0 false)

/-! ### Performance (R135, R136) -/

/-- Whether performing a command would raise a fault of R137. -/
def msuFaults (f : FieldSt) (c : Cmd) : Bool :=
  match c.i with
  | .sld _ _ _ => decide (c.l.toNat % 2 ^ 48 % 32 ≠ 0)
  | .sst _ _ _ => decide (c.l.toNat % 2 ^ 48 % 32 ≠ 0)
  | _ => match msuEffect f c with
    | .error _ => true
    | .ok _ => false

/-- The oldest eligible command of SQ: none of its slot withheld or between its two places before it, and it has
stood there since an earlier cycle. Where its slot already withholds on another record, a command that would raise one of
its own waits for that resolution, and those of other slots pass it. -/
def eligible (s : State) (f : Nat) : List Nat → List Cmd → Option Cmd
  | _, [] => none
  | held, c :: cs =>
    let stuck := c.wh.isSome || held.contains c.x || ((s.field f).slds.any fun a => a.x == c.x) ||
      ((s.slot c.x).wh.isSome && msuFaults (s.field f) c)
    if stuck || decide (s.now ≤ c.firedAt) then eligible s f (c.x :: held) cs else some c

/-- The access an SLD or SST makes through its port (R136, R141). Its address is DATA[47:0] of L (R141). DESIGN CHOICE
(notes/assumptions/56.md): bits 63:48 of L are ignored, where R170 could have them raise VA-INVALID. -/
def msuPort (s : State) (c : Cmd) (len token : Nat) (block : List Byte) : State :=
  let v := s.slot c.x
  s.setSlot c.x { v with accs := v.accs ++ [{
    id := c.id, i := c.i, va := BitVec.ofNat 64 (c.l.toNat % 2 ^ 48), data := c.r,
    p := dataOf (if block = [] then len else token), psn := false, block := block, ks := c.ks, firedAt := s.now,
    held := false, parts := none }] }

/-- Take a command out of SQ. -/
def leaveSq (s : State) (f : Nat) (c : Cmd) : State := setQueue s f 10 ((cmdQueue s f 10).filter fun a => a.id ≠ c.id)

/-- Perform the oldest eligible command of field f's MSU queue; for SLD and SST, take its place and issue the access. -/
def msuPerform (s : State) (f : Nat) : State :=
  match eligible s f [] (cmdQueue s f 10) with
  | none => s
  | some c =>
    let fs := s.field f
    let va := c.l.toNat % 2 ^ 48
    let bad (code va : Nat) (d : DWord) : State := cmdFault s f 10 c code (if va = 0 then 0 else 6) va d
    match c.i with
    | .sld _ _ _ =>
      if va % 32 ≠ 0 then bad codeMisalign va (dataOf va)
      else
        let s := leaveSq s f c
        let s := s.setField f { s.field f with slds := (s.field f).slds ++ [{ c with zlen := fs.zlen, started := true }] }
        msuPort s c (2 * lenOf fs.zlen) 0 []
    | .sst z _ _ =>
      if va % 32 ≠ 0 then bad codeMisalign va (dataOf va)
      else
        let r := fs.zreg z
        msuPort (leaveSq s f c) c 0 (r.tag.toNat * 65536 + r.mask.toNat) (zImage r)
    | _ =>
      match msuEffect fs c with
      | .error (code, d) => bad code 0 d
      | .ok (fs', tok) => finishCmd (leaveSq (s.setField f fs') f c) c.x c.id [tok]

/-- The k-th SLD between its places takes its second: its data has returned, Zd is written (R136, R141). -/
def sldSecond (s : State) (f k : Nat) : State :=
  match (s.field f).slds[k]? with
  | none => s
  | some c =>
    match (s.slot c.x).accs.find? fun a => a.id == c.id, c.i with
    | some a, .sld z _ _ =>
      match a.parts with
      | none => s
      | some ps =>
        if !ps.all (·.done) then s
        else
          let r := zFromImage c.zlen (BitVec.ofNat 16 c.r.toNat) (ps.flatMap (·.bytes))
          let fs := (s.field f).setZ z r
          let s := s.setField f { fs with slds := fs.slds.eraseIdx k }
          finishAccess s c.x c.id [zToken r.tag r.mask]
    | _, _ => s.setField f { s.field f with slds := (s.field f).slds.eraseIdx k }

/-- MSU_COMMAND_PERFORMED (R135). -/
def execMsuCommandPerformed (f : Nat) (s : State) : Out := .next (msuPerform s f)

/-- SLD_SECOND_PLACE (R136). -/
def execSldSecondPlace (f k : Nat) (s : State) : Out := .next (sldSecond s f k)

/-! ### Firings (R134): each sends one command to SQ, queue 10 -/

/-- SLEN (R139). -/
def execSlen (l : BitVec 3) (t1 t0 : Target) (s : State) : Out := fireCmd s (.slen l t1 t0) [10] false
/-- SLD (R141). -/
def execSld (z : BitVec 5) (t1 t0 : Target) (s : State) : Out := fireCmd s (.sld z t1 t0) [10] false
/-- SST (R141). -/
def execSst (z : BitVec 5) (t1 t0 : Target) (s : State) : Out := fireCmd s (.sst z t1 t0) [10] false
/-- SGEN (R140). -/
def execSgen (z : BitVec 5) (t1 t0 : Target) (s : State) : Out := fireCmd s (.sgen z t1 t0) [10] false
/-- SAND (R142). -/
def execSand (zd za zb : BitVec 5) (t0 : Target) (s : State) : Out := fireCmd s (.sand zd za zb t0) [10] false
/-- SOR (R142). -/
def execSor (zd za zb : BitVec 5) (t0 : Target) (s : State) : Out := fireCmd s (.sor zd za zb t0) [10] false
/-- SXOR (R142). -/
def execSxor (zd za zb : BitVec 5) (t0 : Target) (s : State) : Out := fireCmd s (.sxor zd za zb t0) [10] false
/-- SNOT (R142). -/
def execSnot (zd za : BitVec 5) (t0 : Target) (s : State) : Out := fireCmd s (.snot zd za t0) [10] false
/-- SMUX (R142). -/
def execSmux (zd za zb : BitVec 5) (t0 : Target) (s : State) : Out := fireCmd s (.smux zd za zb t0) [10] false
/-- SMIN (R142). -/
def execSmin (zd za zb : BitVec 5) (t0 : Target) (s : State) : Out := fireCmd s (.smin zd za zb t0) [10] false
/-- SMAX (R142). -/
def execSmax (zd za zb : BitVec 5) (t0 : Target) (s : State) : Out := fireCmd s (.smax zd za zb t0) [10] false
/-- SMOV (R142). -/
def execSmov (zd za : BitVec 5) (t0 : Target) (s : State) : Out := fireCmd s (.smov zd za t0) [10] false
/-- SREGEN (R143). -/
def execSregen (zd zs : BitVec 5) (g : BitVec 4) (t0 : Target) (s : State) : Out := fireCmd s (.sregen zd zs g t0) [10] false
/-- SCNT (R144). -/
def execScnt (z : BitVec 5) (t1 t0 : Target) (s : State) : Out := fireCmd s (.scnt z t1 t0) [10] false
/-- SCNT.A (R144). -/
def execScntA (z : BitVec 5) (t1 t0 : Target) (s : State) : Out := fireCmd s (.scntA z t1 t0) [10] false
/-- SCVT (R144). -/
def execScvt (z : BitVec 5) (t1 t0 : Target) (s : State) : Out := fireCmd s (.scvt z t1 t0) [10] false

end Sys2Proof.Machine
end

