-- ==== Sys2Proof/Machine/Issued.lean ====
section
/-! DEFINITION. Work that has been issued and is still to be performed (spec/10_translation_tables.md R182,
spec/20_faults.md R363, spec/18_queues.md R329): requests reaching their unit over the field command bus, and whether
anything issued by a graph can still be performed. -/

namespace Sys2Proof.Machine

/-- The k-th request on the command bus of field f reaches its unit: a queued command enters its queues (R252); a
buffer request waits for the closing edge (R191), behind those of its slot; CPY.STAT, QFENCE, CTN.OPEN and CTN.CLOSE are
performed in a later cycle than they fired (R272, R277, R360). -/
def arriveAt (s : State) (f k : Nat) : State :=
  match (s.field f).bus[k]? with
  | none => s
  | some c =>
    if c.wh.isSome then s
    else if c.todo ≠ [] then arriveQueues s f k
    else if isBufReq c.i then
      if c.started || ((s.field f).bus.take k).any fun a => a.x == c.x && isBufReq a.i && !a.started then s
      else modCmd s f c.id fun a => { a with started := true, firedAt := s.now }
    else if s.now ≤ c.firedAt then s
    else
      match c.i with
      | .ctnOpen _ _ => openPerform s f c
      | .ctnClose _ _ => closePerform s f c
      | .cpyStat head m _ _ =>
        let v := (s.field f).chan m.toNat
        performedAll s f c [dataTok (if head then v.rcd else dataOf v.status) false]
      | .qfence _ _ _ => if qfenceClear s f c then performedAll s f c [ordTok false] else s
      | _ => s

/-- The commands of a field that are still to be performed, and its channels. -/
structure FieldWork where
  bus : List Cmd
  queues : SMap (List Cmd)
  slds : List Cmd
  chans : SMap ChanSt
  deriving DecidableEq, Repr

/-- What issued work of a graph changes when it is performed. -/
structure Work where
  slots : SMap SlotSt
  fields : List FieldWork
  guards : SMap Guard
  groups : SMap Group
  deriving DecidableEq, Repr

def fieldWork (f : FieldSt) : FieldWork := { bus := f.bus, queues := f.queues, slds := f.slds, chans := f.chans }

def workOf (s : State) (g : GraphSt) : Work :=
  let a := (s.graph? g.id).getD g
  { slots := s.slots, fields := (graphFields s g).map fun f => fieldWork (s.field f), guards := a.guards,
    groups := a.groups }

/-- The acts by which issued work of one field is performed. -/
def fieldActs (s : State) (f : Nat) : List (State → State) :=
  let fs := s.field f
  let mine := s.slots.filter fun e => decide (fieldOf e.1 = f)
  ((List.range fs.bus.length).map fun k s => arriveAt s f k)
    ++ (fs.queues.flatMap fun e => (List.range e.2.length).map fun k s => enginePerform s f e.1 k)
    ++ [fun s => msuPerform s f, fun s => bufferEdge s f]
    ++ ((List.range fs.slds.length).map fun k s => sldSecond s f k)
    ++ ((List.range 4).map fun k s => copyRecordStep s f k)
    ++ mine.flatMap fun e =>
      (fun s => walkSlot s e.1) :: (List.range (pendingParts e.2).length).map fun k s => performPart s e.1 k .clean

/-- The acts that serve a graph's guards and step groups. -/
def graphActs (g : GraphSt) : List (State → State) :=
  (g.guards.map fun e s => outState s (execGuardGrant g.id e.1 s)) ++ g.groups.map fun e s => outState s (execStepSwap g.id e.1 s)
where
  /-- The state a meaning answers. -/
  outState (s : State) : Out → State
    | .next t => t
    | .fault _ => s
    | .refused _ => s

/-- Whether a command of a field reached its unit in this cycle and so is performed in a later one. -/
def freshCmd (s : State) (f : Nat) : Bool :=
  let fs := s.field f
  (fs.bus ++ fs.queues.flatMap (·.2)).any fun c => decide (s.now ≤ c.firedAt) && c.wh.isNone

/-- Nothing a graph has issued can still be performed: no remote access is in flight, no page it may wait for is being
converted, and no act changes its work. -/
def quiet (s : State) (g : GraphSt) : Bool :=
  let fs := graphFields s g
  let w := workOf s g
  !(s.remotes.any fun r => fs.contains (fieldOf r.x)) &&
    !((List.range 8).any fun d => samePart s g.lead (quarterOfDie d) && (s.die d).layc.busy) &&
    !(fs.any fun f => freshCmd s f) &&
    (fs.flatMap (fieldActs s) ++ graphActs g).all fun act => decide (workOf (act s) g = w)

end Sys2Proof.Machine
end

