-- ==== Sys2Proof/Machine/Arbiter.lean ====
section
/-! DEFINITION. The area arbiter (spec/18_queues.md R318 to R322, R326, R327, spec/24_images.md R398, R413,
spec/23_prog_merge.md R390): candidates, their checks, placement and pre-emption; completions (R328, R329) and the
lapse of a heartbeat (R377). -/

namespace Sys2Proof.Machine

/-! ### Candidates (R318, R320, R327) -/

/-- The place of the arbiter of a lead quarter: the lower die's field 0 (R348). -/
def arbiterField (lead : Nat) : Nat := 640 * lead

/-- The heads of a list of queues of quarter q, where they are enabled and not empty; bound is BYPB.B. -/
def queueCands (bound q : Nat) : State → List (Nat × LqSt) → State × List Cand
  | s, [] => (s, [])
  | s, (n, l) :: rest =>
    if l.en && decide (l.used ≠ 0) then
      (let (s, rcd) := lqHead s q l
       let c : Cand := { qtr := q, lq := n, rcd := rcd, stamp := SMap.get l.stamps 0 l.head.toNat, prio := l.hpri.toNat
                         blk := l.blk || decide (bound ≤ l.byp), restart := false, kills := 0 }
       let (s, cs) := queueCands bound q s rest
       (s, c :: cs))
    else queueCands bound q s rest

def restartCands (s : State) (bound q : Nat) : List Cand :=
  (s.quarter q).restarts.map fun r =>
    { qtr := r.qtr, lq := r.lq, rcd := r.rcd, stamp := r.stamp, prio := recPrio r.rcd,
      blk := r.blk || decide (bound ≤ r.byp), restart := true, kills := r.kills }

/-- Whether one candidate ranks above another: HPRI, then stamp (R318). -/
def ranksAbove (a b : Cand) : Bool :=
  decide (b.prio < a.prio) || (decide (a.prio = b.prio) && decide (a.stamp.toNat < b.stamp.toNat))

def insertCand (c : Cand) : List Cand → List Cand
  | [] => [c]
  | a :: as => if ranksAbove c a then c :: a :: as else a :: insertCand c as

/-- The candidates of a list of quarters. -/
def quarterCands (bound : Nat) : State → List Nat → State × List Cand
  | s, [] => (s, [])
  | s, q :: qs =>
    let (s, cs) := queueCands bound q s (s.quarter q).lqs
    let (s', more) := quarterCands bound s qs
    (s', cs ++ restartCands s bound q ++ more)

/-- The candidates of a partition in rank order, read in one cycle. -/
def candidates (s : State) (lead : Nat) : State × List Cand :=
  let (s, cs) := quarterCands (s.quarter lead).bypb (s.by (seqSource (arbiterField lead))) (partQuarters s lead)
  (s, cs.foldl (fun l c => insertCand c l) [])

/-- Whether a head that a pass would read lies in a page being converted. -/
def headsBusy (s : State) (lead : Nat) : Bool :=
  (partQuarters s lead).any fun q => (s.quarter q).lqs.any fun e => e.2.en && decide (e.2.used ≠ 0) && lqBusy s e.2

/-- Change BYP and BLK of a candidate where it waits. -/
def modWait (s : State) (c : Cand) (f : Nat → Bool → Nat × Bool) : State :=
  if c.restart then
    modQuarter s c.qtr fun q => { q with restarts := q.restarts.map fun r =>
      if r.stamp = c.stamp then { r with byp := (f r.byp r.blk).1, blk := (f r.byp r.blk).2 } else r }
  else
    let l := s.lq c.qtr c.lq
    s.setLq c.qtr c.lq { l with byp := (f l.byp l.blk).1, blk := (f l.byp l.blk).2 }

/-- Every candidate whose BYP is at least the bound blocks (R320). -/
def markBlocking (s : State) (cs : List Cand) : State :=
  foldState (fun s c => if c.blk then modWait s c fun n _ => (n, true) else s) s cs

/-- A candidate is bypassed (R320). -/
def bypass (bound : Nat) (s : State) (c : Cand) : State :=
  modWait s c fun n b => (Nat.min (n + 1) 15, b || decide (bound ≤ Nat.min (n + 1) 15))

/-- Take a candidate out of its queue, or off the restart list. -/
def takeCand (s : State) (c : Cand) : State :=
  let l := s.lq c.qtr c.lq
  if c.restart then modQuarter s c.qtr fun q => { q with restarts := q.restarts.filter fun r => r.stamp ≠ c.stamp }
  else if l.used ≠ 0 ∧ SMap.get l.stamps 0 l.head.toNat = c.stamp then lqPop s c.qtr c.lq (recEntries c.rcd)
  else s

/-! ### The checks at admission (R322, R398, R413) -/

/-- The area a record of lead's partition resumes from, when it was saved from a rectangle of its shape: it is known by the
location that the address names (notes/assumptions/14.md). -/
def savedArea (s : State) (lead : Nat) (rcd : List Byte) : Option Saved :=
  (areaPlace s lead (recCkpt rcd)).bind fun a =>
    (s.saved.find? fun v => decide (v.area = a)).bind fun v =>
      if recCols v.graph.rcd = recCols rcd ∧ recRows v.graph.rcd = recRows rcd then some v else none

/-- Check 1: the launch-record fields. -/
def launchOk (s : State) (lead : Nat) (rcd : List Byte) : Bool :=
  let p := partOf s lead
  decide (recGraph rcd < 2 ^ 48) && decide (recGraph rcd % 64 = 0) && decide (recGraph rcd ≠ 0) &&
    decide (recImage rcd < 2 ^ 48) && decide (num rcd 16 4 / 2 ^ 27 = 0) && decide (recNarg rcd ≤ 16) &&
    decide (1 ≤ recCols rcd ∧ recCols rcd ≤ partCols p) && decide (1 ≤ recRows rcd ∧ recRows rcd ≤ partRows p) &&
    (if recRes rcd then decide (recCkpt rcd % 4096 = 0) && (savedArea s lead rcd).isSome else decide (recCkpt rcd = 0))

/-- Checks 1 to 5 of R322, in their order. Every image read belongs to the second. -/
def checkAdmission (lead : Nat) (rcd : List Byte) : Rd Admission := do
  let s ← get
  let f := arbiterField lead
  let img := recImage rcd
  check (launchOk s lead rcd) (.status 1)
  let (es, len) ← readDir f img
  match es.find? fun e => e.must && decide (e.type < 1 ∨ 8 < e.type) with
  | some e => stop (.unsupported e.type)
  | none =>
    let regs ← readCrc f img (findEnt es 3)
    let notes ← readCrc f img (findEnt es 6)
    let routes ← readCrc f img (findEnt es 2)
    checkNotes (notes.length + 1) notes
    let idem ← match findEnt es 1 with
      | none => pure true
      | some e => allIdem f img (e.len + 1) e.off (e.off + e.len)
    check (decide (highestEp (routes.length + 1) routes ≤ recNarg rcd)) (.status 1)
    let table ← regionTable (if img ≤ recGraph rcd then recGraph rcd - img else len) len regs
    let r ← seqRead f (recGraph rcd) 64
    check (kg194 r) (.status 3)
    pure { len := len, idem := idem, regions := table }

/-- A load record of a candidate: the lower die of the lead quarter, FIELD 0 (R348). -/
def candRec (lead : Nat) (c : Cand) : FRec :=
  { FRec.blank with kind := 2, die := 2 * lead, qtr := c.qtr, lq := c.lq, tag := BitVec.ofNat 32 (recTag c.rcd) }

/-- Remove a candidate that fails, with its completion and, where the rules give one, its load record. -/
def removeCand (s : State) (lead : Nat) (c : Cand) (e : LoadErr) : State :=
  let post (r : FRec) : State := postSoon s lead (seqSource (arbiterField lead)).toNat r
  let s := match e with
    | .read va => post { candRec lead c with code := codeBadGraph, va := dataOf (va % 2 ^ 48), detail := dataOf (2 ^ 35) }
    | .unsupported d => post { candRec lead c with code := codeUnsupported, detail := dataOf d }
    | _ => s
  let status := match e with
    | .status n => n
    | _ => 3
  queueCompl (takeCand s c) lead { mkCompl s lead c.qtr c.lq c.rcd c.stamp status with kills := c.kills }

/-! ### Placement (R319) -/

/-- Whether a rectangle at an origin meets that of a graph. -/
def meets (col row w h : Nat) (g : GraphSt) : Bool :=
  decide (col < g.col + recCols g.rcd) && decide (g.col < col + w) && decide (row < g.row + recRows g.rcd) &&
    decide (g.row < row + h)

/-- The first origin, row by row, whose fields are inside the partition and free once the graphs in gone are. -/
def findOrigin (s : State) (lead : Nat) (gone : List Nat) (rcd : List Byte) : Option (Nat × Nat) :=
  let p := partOf s lead
  let w := recCols rcd
  let h := recRows rcd
  let live := s.graphs.filter fun g => decide (g.lead = lead) && !gone.contains g.id
  ((List.range (partRows p + 1 - h)).flatMap fun r => (List.range (partCols p + 1 - w)).map fun c => (c, r)).find? fun o =>
    !(live.any (meets o.1 o.2 w h))

/-- Zero RK and WR of the plane words of a region. -/
def zeroRanks (lead : Nat) (s : State) (e : BitVec 128) : State :=
  let n := if regWs e then 8 else 4
  foldState (fun s p =>
    foldState (fun s pa => s.setBytes (rankPlace pa) [0, 0]) s
      (((List.range (p.2 / n)).map fun i => p.1 + n * i).filter fun pa =>
        isTileStore pa && decide ((pa - tileBase) % 0x80000 < 0x20000)))
    s (rangePieces s lead (regBaseVa e) (regSize e))

/-- The buffer handles an image declares for a field of a rectangle (R189). -/
def declaredBufs (graph index : Nat) : SMap BufSt :=
  (List.range 256).foldl (fun m h =>
    match Config.handleDecl graph index h with
    | none => m
    | some (v, t, p) => SMap.put m BufSt.reset h
        { entry := v &&& 0xFFFFFFFF01FFFFFF00000000003FFF80#128, declared := true, atile := t, aport := p }) []

/-- What admission sets in a field: its regions, its buffers, the MSU, the gather unit, SUBC; of an ME its configuration and status
stay (R95, R129, R186, R189, R257, R340). -/
def admitField (graph : Nat) (a : Admission) (s : State) (e : Nat × Nat) : State :=
  s.setField e.1 { s.field e.1 with
    regions := a.regions, bufs := declaredBufs graph e.2, zregs := [], zlen := 0, oplatch := none, subc := 0
    mes := (s.field e.1).mes.map fun m => (m.1, { m.2 with panel := none, mismatch := none }) }

/-- Admit a candidate at an origin: the graph, what admission sets, and the root permit or the checkpoint's state. -/
def placeCand (s : State) (lead : Nat) (c : Cand) (a : Admission) (o : Nat × Nat) : State :=
  let resume := if recRes c.rcd && !c.restart then savedArea s lead c.rcd else none
  let s := takeCand s c
  let g : GraphSt :=
    { id := s.nextId, qtr := c.qtr, lq := c.lq, rcd := c.rcd, stamp := c.stamp, lead := lead, col := o.1, row := o.2
      imgLen := a.len, idem := a.idem, nodes := [], guards := [], groups := [], handlers := [], errs := [], stray := 0
      rlx := 0, kills := c.kills, ended := false }
  let s := { s with graphs := s.graphs ++ [g], nextId := s.nextId + 1 }
  let fs := graphFields s g
  let s := foldState (admitField (recGraph c.rcd) a) s fs.zipIdx
  let s := { s with mem := s.mem.filter fun b => !(decide (accBase ≤ b.1 ∧ b.1 < accEnd) && inStores fs b.1) }
  let planes := (a.regions.map (·.2)).filter fun e => decide (regKind e = 2)
  let s := foldState (zeroRanks lead) s planes
  match resume with
  | some v => restoreArea s g v
  | none => permit s g.id none 0 0 0

/-! ### Pre-emption (R326, R327) -/

/-- The rectangle of a graph is released: its regions become invalid, and a pass is due (R186, R319). -/
def releaseRect (s : State) (g : GraphSt) : State :=
  let fs := graphFields s g
  let s := foldState (fun s f => s.setField f { s.field f with regions := [] }) s fs
  wantPass (markAt { s with graphs := s.graphs.filter fun a => a.id ≠ g.id } (.partition g.lead) 1) g.lead

def insertVictim (g : GraphSt) : List GraphSt → List GraphSt
  | [] => [g]
  | a :: as =>
    if recPrio g.rcd < recPrio a.rcd ∨ (recPrio g.rcd = recPrio a.rcd ∧ a.stamp.toNat < g.stamp.toNat) then g :: a :: as
    else a :: insertVictim g as

/-- The pre-emptible graphs below a priority, lowest priority first, then latest stamp. -/
def victims (s : State) (lead prio : Nat) : List GraphSt :=
  (s.graphs.filter fun g => decide (g.lead = lead) && g.idem && !g.ended && decide (recPrio g.rcd < prio)).foldl
    (fun l g => insertVictim g l) []

/-- The shortest prefix of the victims that frees an origin. -/
def preemptPlan (s : State) (lead : Nat) (rcd : List Byte) (vs : List GraphSt) : Option (List GraphSt × (Nat × Nat)) :=
  (List.range vs.length).findSome? fun k =>
    let dead := vs.take (k + 1)
    (findOrigin s lead (dead.map GraphSt.id) rcd).map fun o => (dead, o)

/-- Pre-empt one graph: its record becomes a restart candidate of its queue; its rectangle stays its own in this cycle (R327). -/
def preempt (s : State) (g : GraphSt) : State :=
  modQuarter (killDiscards s g) g.qtr fun q => { q with restarts := q.restarts ++ [
    { qtr := g.qtr, lq := g.lq, rcd := g.rcd, stamp := g.stamp, byp := 0, blk := false, kills := g.kills + 1 }] }

/-! ### A pass (R319) -/

/-- Walk the candidates in rank order; an error, with the state it has come to, where an image cannot be read yet. -/
def passWalk (lead bound : Nat) : State → List Cand → List Cand → Except State State
  | s, _, [] => .ok s
  | s, above, c :: cs =>
    match runRd (checkAdmission lead c.rcd) (s.task c.stamp.toNat) with
    | (.error .wait, u) => .error u
    | (.error e, s) => passWalk lead bound (removeCand s lead c e) above cs
    | (.ok a, s) =>
      let bump (s : State) : State := foldState (bypass bound) s above
      match findOrigin s lead [] c.rcd with
      | some o => .ok (wantPass (bump (placeCand s lead c a o)) lead)
      | none =>
        if !c.blk then passWalk lead bound s (above ++ [c]) cs
        else if recPre c.rcd then
          match preemptPlan s lead c.rcd (victims s lead c.prio) with
          | none => .ok s
          | some (dead, o) =>
            .ok (modQuarter (bump (foldState preempt s dead)) lead fun v => { v with
              placing := some { cand := c, adm := a, origin := o, dead := dead.map GraphSt.id, due := s.now + 1 } })
        else .ok s

/-- A pass that has pre-empted ends: the rectangles of the graphs killed are released, and its candidate is placed (R326, R327). -/
def endPlacing (s : State) (lead : Nat) (p : Placing) : State :=
  let s := modQuarter s lead fun v => { v with placing := none }
  let s := foldState releaseRect s (s.graphs.filter fun g => p.dead.contains g.id)
  wantPass (placeCand s lead p.cand p.adm p.origin) lead

/-- ARBITER_PASS (R319, R390): the pass that is due in the partition that quarter q leads, or the end of one. It sees the machine
as its first cycle begins, before any other event of the cycle (R321). A pass that would read a page being converted, or waits for
what it reads, starts once it can. -/
def execArbiterPass (q : Nat) (s : State) : Out :=
  .next <| match (s.quarter q).placing, (s.quarter q).pass with
  | some p, _ => if s.now < p.due then s else endPlacing (markAt s (.partition q) 1) q p
  | none, none => s
  | none, some due =>
    if decide (s.now < due) || decide (leadOf s q ≠ q) || ((partQuarters s q).any fun r => (s.quarter r).hb.qsc) || headsBusy s q then s
    else
      let r := candidates (modQuarter (markAt s (.partition q) 1) q fun a => { a with pass := none }) q
      match passWalk q (s.quarter q).bypb (markBlocking r.1 r.2) [] r.2 with
      | .ok t => t
      | .error u => stillAsks (640 * q) s u

/-! ### Completions (R328, R329) -/

/-- The stamp a completion is posted with: its own, or that of its posting now (R328, R377). -/
def complStamp (s : State) (c : Compl) : BitVec 96 := c.stamp.getD (seqStamp s c.home)

/-- The 64 bytes of a completion record. -/
def Compl.toBytes (c : Compl) (stamp : BitVec 96) : List Byte :=
  let r := c.result.getD { kind := .data, data := 0, psn := false }
  leBytes 12 stamp.toNat
    ++ leBytes 4 (c.qtr * 2 ^ 14 + c.lq * 2 ^ 8 + c.status)
    ++ leBytes 8 (Nat.min c.rlx 0xFFFF * 2 ^ 48 + Nat.min c.stray 0xFFFF * 2 ^ 32 + c.tag.toNat)
    ++ leBytes 8 r.data.toNat
    ++ leBytes 8 (Nat.min c.kills 255 * 2 ^ 8 + if c.result.isSome then 8 + b2n r.psn * 4 + kindCode r.kind else 0)
    ++ leBytes 8 c.area.toNat ++ leBytes 12 c.pstamp.toNat ++ leBytes 4 0
where
  /-- KIND's code (R42). -/
  kindCode : Kind → Nat
    | .data => 0
    | .eos => 1
    | .eot => 2
    | .ord => 3

/-- Whether a completion's graph has nothing left to perform (R37, R182, R363): its issued work is done, and no record
of it stands unresolved but the translation records a drain leaves. It is posted in a later cycle than it arises, in which a kill
of the graph could still take precedence (R363). -/
def complReady (s : State) (lead : Nat) (c : Compl) : Bool :=
  decide (c.since < s.now) &&
  match c.graph.bind fun g => s.graph? g with
  | none => true
  | some g =>
    quiet s g && !((s.quarter lead).records.any fun r =>
      decide (r.graph = g.id) && outstandingRec r && !(decide (c.status = 4 ∨ c.status = 5) && isTransCode r.code))

/-- Whether a completion's source may record an event now, unless it is stamped already (R296). -/
def mayStamp (s : State) (c : Compl) : Bool := c.stamp.isSome || !stamped s (seqSource c.home).toNat

/-- The completion of the lowest stamp among those that are ready and satisfy a test (R329). -/
def firstCompl (s : State) (lead : Nat) (sel : Compl → Bool) : Option Compl :=
  ((s.quarter lead).compl.filter fun c => complReady s lead c && mayStamp s c && sel c).foldl (fun a c =>
    match a with
    | none => some c
    | some b => if (complStamp s c).toNat < (complStamp s b).toNat then some c else a) none

/-- The completion that a lapsed heartbeat holds next, and the one to be posted next (R377). -/
def nextHeld (s : State) (lead : Nat) : Option Compl :=
  firstCompl s lead fun c => (s.quarter c.qtr).hb.hold && !c.freed && c.stamp.isNone
def nextCompl (s : State) (lead : Nat) : Option Compl :=
  firstCompl s lead fun c => c.freed || !(s.quarter c.qtr).hb.hold

/-- A HALT commits the regions of its graph and releases its holds (R242, R363); an ended graph of another kind has none left. -/
def settleGraph (s : State) (g : GraphSt) : State :=
  let s := foldState (fun s f => if (s.field f).ctn.opened then closeRegion s f else s) s (graphFields s g)
  foldState (fun s t => releaseHolds s g.id t) s
    (ascending (g.guards.flatMap fun e => e.2.excl.toList ++ e.2.shared).dedup)

/-- What the caches of an ended graph's fields do before its completion: a drain writes back its rectangle (R182). -/
def settleCaches (s : State) (g : GraphSt) (c : Compl) : State :=
  if c.status = 5 ∨ c.status = 4 then writeBackRect s (graphFields s g) else settleGraph s g

/-- Whether they have something to do: that takes a turn of its own, in which the caches take their place among the sources at the
homes, ahead of the sequencer's (R291). -/
def owesCaches (s : State) (g : GraphSt) (c : Compl) : Bool :=
  decide ({ settleCaches s g c with order := s.order, late := s.late } ≠ s)

/-- What the end of a graph leaves before its completion, once its caches have nothing left to do: a drain saves it, or kills it where
it has no area; its translation records are VOID from then on (R182, R350). -/
def finishGraph (s : State) (g : GraphSt) (c : Compl) : State :=
  let s := if c.status = 5 then saveArea s g c.area.toNat else s
  if c.status = 4 ∨ c.status = 5 then killDiscards s g else clearGraph s g

/-- Give a completion its stamp: a stamped event of its source (R295). -/
def stampCompl (s : State) (lead : Nat) (c : Compl) : State :=
  modQuarter (markStamp s (seqSource c.home).toNat) lead fun a => { a with
    compl := a.compl.map fun b => if b = c then { b with stamp := some (seqStamp s c.home) } else b }

/-- Write a completion at TAIL of the ring, the completions of one cycle in the order of their stamps (R329). -/
def postCompl (s : State) (lead : Nat) (c : Compl) : State :=
  let v := s.quarter lead
  let st := complStamp s c
  let s := if c.stamp.isSome then s else markStamp s (seqSource c.home).toNat
  let s := (markAt s (.ring lead) st.toNat).by (seqSource c.home)
  let s := writeEntry s lead (64 * v.crb.toNat + 64 * v.crp.tail.toNat) (c.toBytes st)
  let s := modQuarter s lead fun a => { a with crp := { a.crp with tail := ringNext a.crp.nent a.crp.tail 1 } }
  raiseCint s lead 1

/-- Whether the ring of a lead quarter takes a completion now: it is enabled, has room, and lies in no page being converted. -/
def ringOpen (s : State) (lead : Nat) : Bool :=
  let v := s.quarter lead
  v.crp.en && decide (ringUsed v.crp.head v.crp.tail v.crp.nent < v.crp.nent.toNat) &&
    !pageBusy s (64 * v.crb.toNat + 64 * v.crp.tail.toNat)

/-- Post one completion, then release its rectangle; or do what its graph's caches still have to do. -/
def postOne (s : State) (lead : Nat) (c : Compl) : State :=
  let old := s
  let s := modQuarter s lead fun a => { a with compl := a.compl.filter fun b => decide (b ≠ c) }
  match c.graph.bind fun g => s.graph? g with
  | none => postCompl s lead c
  | some g =>
    if owesCaches old g c then settleCaches old g c
    else
    let s := finishGraph (s.by (seqSource c.home)) g c
    let g := (s.graph? g.id).getD g
    releaseRect (postCompl s lead { c with stray := g.stray, rlx := g.rlx }) g

/-- COMPLETION_POST (R329): the next completion of the partition that quarter q leads is written, then its rectangle is
released; one that a lapsed heartbeat holds takes its stamp (R377). -/
def execCompletionPost (q : Nat) (s : State) : Out :=
  .next <| match nextHeld s q, nextCompl s q with
  | some c, _ => stampCompl s q c
  | none, none => s
  | none, some c => if ringOpen s q then postOne s q c else s

/-- Post completions of quarter q that were held, in stamp order, while the ring takes them and the order of the cycle lets them; the
others follow (R377). -/
def postFreed (lead q : Nat) : Nat → State → State
  | 0, s => s
  | n + 1, s =>
    match firstCompl s lead fun c => c.freed && decide (c.qtr = q) with
    | none => s
    | some c =>
      let t := postOne s lead c
      if !ringOpen s lead || (t.late && !s.late) then s else postFreed lead q n t

/-- An acknowledged heartbeat posts the completions held for quarter q (R377). -/
def freeHeld (s : State) (q : Nat) : State :=
  let lead := leadOf s q
  let s := modQuarter s lead fun v => { v with
    compl := v.compl.map fun c => if c.qtr = q ∧ c.stamp.isSome then { c with freed := true } else c }
  postFreed lead q (s.quarter lead).compl.length s

/-! ### The heartbeat (R377) -/

/-- Whether the heartbeat of quarter q lapses now: no xhbt within PERIOD, since the quarter's cores run. -/
def lapseDue (s : State) (q : Nat) : Bool :=
  let h := (s.quarter q).hb
  !h.lapse && (s.coreSt (2 * q)).released && decide (h.last + h.period * Config.usCycles ≤ s.now)

/-- HEARTBEAT_LAPSE (R377). -/
def execHeartbeatLapse (s : State) : Out :=
  .next <| match [0, 1, 2, 3].find? (lapseDue s) with
  | none => s
  | some q => lapse s q

end Sys2Proof.Machine
end

