-- ==== Sys2Proof/Machine/Rvc.lean ====
section
/-! DEFINITION. The compressed instructions of the control cores (spec/21_control_cores.md R367: the C extension of
RV64IMAC; the RISC-V base itself is not in the spec, notes/assumptions/4.md): each expands to the 32-bit word it stands
for. -/

namespace Sys2Proof.Machine

/-! ### Words from their fields -/

def rvR (f7 rs2 rs1 f3 rd op : Nat) : Nat :=
  f7 % 128 * 2 ^ 25 + rs2 % 32 * 2 ^ 20 + rs1 % 32 * 2 ^ 15 + f3 % 8 * 2 ^ 12 + rd % 32 * 2 ^ 7 + op
def rvI (imm rs1 f3 rd op : Nat) : Nat := imm % 4096 * 2 ^ 20 + rs1 % 32 * 2 ^ 15 + f3 % 8 * 2 ^ 12 + rd % 32 * 2 ^ 7 + op
def rvS (imm rs2 rs1 f3 op : Nat) : Nat :=
  bitsOf imm 5 7 * 2 ^ 25 + rs2 % 32 * 2 ^ 20 + rs1 % 32 * 2 ^ 15 + f3 % 8 * 2 ^ 12 + bitsOf imm 0 5 * 2 ^ 7 + op
def rvB (imm rs2 rs1 f3 : Nat) : Nat :=
  bitsOf imm 12 1 * 2 ^ 31 + bitsOf imm 5 6 * 2 ^ 25 + rs2 % 32 * 2 ^ 20 + rs1 % 32 * 2 ^ 15 + f3 % 8 * 2 ^ 12
    + bitsOf imm 1 4 * 2 ^ 8 + bitsOf imm 11 1 * 2 ^ 7 + 0x63
def rvJ (imm rd : Nat) : Nat :=
  bitsOf imm 20 1 * 2 ^ 31 + bitsOf imm 1 10 * 2 ^ 21 + bitsOf imm 11 1 * 2 ^ 20 + bitsOf imm 12 8 * 2 ^ 12
    + rd % 32 * 2 ^ 7 + 0x6F

/-- Extend an n-bit number by its sign to m bits, as a number. -/
def signTo (n m v : Nat) : Nat := if v / 2 ^ (n - 1) % 2 = 1 then v % 2 ^ n + (2 ^ m - 2 ^ n) else v % 2 ^ n

/-! ### The three quadrants -/

/-- The six-bit immediate in [12] and [6:2], sign-extended to 12 bits. -/
def cImm (h : Nat) : Nat := signTo 6 12 (bitsOf h 12 1 * 32 + bitsOf h 2 5)

/-- The offset of C.J, sign-extended to 21 bits. -/
def cJump (h : Nat) : Nat :=
  signTo 12 21 (bitsOf h 12 1 * 2048 + bitsOf h 11 1 * 16 + bitsOf h 9 2 * 256 + bitsOf h 8 1 * 1024 + bitsOf h 7 1 * 64
    + bitsOf h 6 1 * 128 + bitsOf h 3 3 * 2 + bitsOf h 2 1 * 32)

/-- The offset of C.BEQZ and C.BNEZ, sign-extended to 13 bits. -/
def cBranch (h : Nat) : Nat :=
  signTo 9 13 (bitsOf h 12 1 * 256 + bitsOf h 10 2 * 8 + bitsOf h 5 2 * 64 + bitsOf h 3 2 * 2 + bitsOf h 2 1 * 32)

def rvcQ0 (h : Nat) : Option Nat :=
  let rd := 8 + bitsOf h 2 3
  let rs := 8 + bitsOf h 7 3
  let w := bitsOf h 10 3 * 8 + bitsOf h 6 1 * 4 + bitsOf h 5 1 * 64
  let d := bitsOf h 10 3 * 8 + bitsOf h 5 2 * 64
  match bitsOf h 13 3 with
  | 0 =>
    let u := bitsOf h 11 2 * 16 + bitsOf h 7 4 * 64 + bitsOf h 6 1 * 4 + bitsOf h 5 1 * 8
    if u = 0 then none else some (rvI u 2 0 rd 0x13)
  | 2 => some (rvI w rs 2 rd 0x03)
  | 3 => some (rvI d rs 3 rd 0x03)
  | 6 => some (rvS w rd rs 2 0x23)
  | 7 => some (rvS d rd rs 3 0x23)
  | _ => none

/-- The arithmetic group of quadrant 1. -/
def rvcArith (h : Nat) : Option Nat :=
  let rd := 8 + bitsOf h 7 3
  let rs := 8 + bitsOf h 2 3
  let sh := bitsOf h 12 1 * 32 + bitsOf h 2 5
  match bitsOf h 10 2 with
  | 0 => some (rvI sh rd 5 rd 0x13)
  | 1 => some (rvI (0x400 + sh) rd 5 rd 0x13)
  | 2 => some (rvI (cImm h) rd 7 rd 0x13)
  | _ =>
    match bitsOf h 12 1, bitsOf h 5 2 with
    | 0, 0 => some (rvR 0x20 rs rd 0 rd 0x33)
    | 0, 1 => some (rvR 0 rs rd 4 rd 0x33)
    | 0, 2 => some (rvR 0 rs rd 6 rd 0x33)
    | 0, _ => some (rvR 0 rs rd 7 rd 0x33)
    | _, 0 => some (rvR 0x20 rs rd 0 rd 0x3B)
    | _, 1 => some (rvR 0 rs rd 0 rd 0x3B)
    | _, _ => none

def rvcQ1 (h : Nat) : Option Nat :=
  let rd := bitsOf h 7 5
  match bitsOf h 13 3 with
  | 0 => some (rvI (cImm h) rd 0 rd 0x13)
  | 1 => if rd = 0 then none else some (rvI (cImm h) rd 0 rd 0x1B)
  | 2 => some (rvI (cImm h) 0 0 rd 0x13)
  | 3 =>
    let z := bitsOf h 12 1 * 512 + bitsOf h 6 1 * 16 + bitsOf h 5 1 * 64 + bitsOf h 3 2 * 128 + bitsOf h 2 1 * 32
    if rd = 2 then (if z = 0 then none else some (rvI (signTo 10 12 z) 2 0 2 0x13))
    else if cImm h = 0 then none
    else some (signTo 6 20 (bitsOf h 12 1 * 32 + bitsOf h 2 5) * 4096 + rd * 128 + 0x37)
  | 4 => rvcArith h
  | 5 => some (rvJ (cJump h) 0)
  | 6 => some (rvB (cBranch h) 0 (8 + bitsOf h 7 3) 0)
  | _ => some (rvB (cBranch h) 0 (8 + bitsOf h 7 3) 1)

def rvcQ2 (h : Nat) : Option Nat :=
  let rd := bitsOf h 7 5
  let rs := bitsOf h 2 5
  match bitsOf h 13 3 with
  | 0 => some (rvI (bitsOf h 12 1 * 32 + rs) rd 1 rd 0x13)
  | 2 =>
    if rd = 0 then none else some (rvI (bitsOf h 12 1 * 32 + bitsOf h 4 3 * 4 + bitsOf h 2 2 * 64) 2 2 rd 0x03)
  | 3 =>
    if rd = 0 then none else some (rvI (bitsOf h 12 1 * 32 + bitsOf h 5 2 * 8 + bitsOf h 2 3 * 64) 2 3 rd 0x03)
  | 4 =>
    if bitsOf h 12 1 = 0 then
      (if rs ≠ 0 then some (rvR 0 rs 0 0 rd 0x33) else if rd = 0 then none else some (rvI 0 rd 0 0 0x67))
    else if rs ≠ 0 then some (rvR 0 rs rd 0 rd 0x33)
    else if rd = 0 then some 0x00100073 else some (rvI 0 rd 0 1 0x67)
  | 6 => some (rvS (bitsOf h 9 4 * 4 + bitsOf h 7 2 * 64) rs 2 2 0x23)
  | 7 => some (rvS (bitsOf h 10 3 * 8 + bitsOf h 7 3 * 64) rs 2 3 0x23)
  | _ => none

/-- The 32-bit word a 16-bit instruction stands for; none where it is reserved. -/
def rvcExpand (h : Nat) : Option Nat :=
  match h % 4 with
  | 0 => rvcQ0 h
  | 1 => rvcQ1 h
  | 2 => rvcQ2 h
  | _ => none

end Sys2Proof.Machine
end

