-- ==== Sys2Proof/Machine/Rv64.lean ====
section
/-! DEFINITION. The register instructions of RV64IM with Zicsr and Zifencei, machine mode only (spec/21_control_cores.md
R367; the base architecture itself is not in the spec, notes/assumptions/4.md): what each does to a core, apart from memory
and the Xpyraro extension. -/

namespace Sys2Proof.Machine

/-! ### Fields of a 32-bit word -/

def wOp (w : Word) : Nat := bitsOf w.toNat 0 7
def wF3 (w : Word) : Nat := bitsOf w.toNat 12 3
def wF7 (w : Word) : Nat := bitsOf w.toNat 25 7
def wRd (w : Word) : BitVec 5 := w.extractLsb' 7 5
def wRs1 (w : Word) : BitVec 5 := w.extractLsb' 15 5
def wRs2 (w : Word) : BitVec 5 := w.extractLsb' 20 5

/-- An n-bit field extended by its sign. -/
def immOf (n v : Nat) : DWord := BitVec.ofInt 64 (signedOf n v)

def wImmI (w : Word) : DWord := immOf 12 (bitsOf w.toNat 20 12)
def wImmS (w : Word) : DWord := immOf 12 (bitsOf w.toNat 25 7 * 32 + bitsOf w.toNat 7 5)
def wImmB (w : Word) : DWord :=
  let v := w.toNat
  immOf 13 (bitsOf v 31 1 * 4096 + bitsOf v 7 1 * 2048 + bitsOf v 25 6 * 32 + bitsOf v 8 4 * 2)
def wImmU (w : Word) : DWord := immOf 32 (bitsOf w.toNat 12 20 * 4096)
def wImmJ (w : Word) : DWord :=
  let v := w.toNat
  immOf 21 (bitsOf v 31 1 * 0x100000 + bitsOf v 12 8 * 4096 + bitsOf v 20 1 * 2048 + bitsOf v 21 10 * 2)

/-! ### Arithmetic -/

/-- The low 32 bits, sign-extended. -/
def sext32 (x : DWord) : DWord := (x.setWidth 32).signExtend 64

/-- OP and OP-IMM: alt is bit 30 (SUB, SRA). -/
def aluOp (f3 : Nat) (alt : Bool) (a b : DWord) : DWord :=
  match f3 with
  | 0 => if alt then a - b else a + b
  | 1 => a <<< (b.toNat % 64)
  | 2 => if a.slt b then 1 else 0
  | 3 => if a.ult b then 1 else 0
  | 4 => a ^^^ b
  | 5 => if alt then a.sshiftRight (b.toNat % 64) else a >>> (b.toNat % 64)
  | 6 => a ||| b
  | _ => a &&& b

/-- OP-32 and OP-IMM-32; none for the codes it lacks. -/
def aluOpW (f3 : Nat) (alt : Bool) (a b : DWord) : Option DWord :=
  let x : Word := a.setWidth 32
  let n := b.toNat % 32
  match f3 with
  | 0 => some (sext32 (if alt then a - b else a + b))
  | 1 => some ((x <<< n).signExtend 64)
  | 5 => some ((if alt then x.sshiftRight n else x >>> n).signExtend 64)
  | _ => none

/-- The M extension on 64 bits. -/
def mulOp (f3 : Nat) (a b : DWord) : DWord :=
  match f3 with
  | 0 => a * b
  | 1 => BitVec.ofInt 64 (a.toInt * b.toInt / 2 ^ 64)
  | 2 => BitVec.ofInt 64 (a.toInt * (b.toNat : Int) / 2 ^ 64)
  | 3 => BitVec.ofNat 64 (a.toNat * b.toNat / 2 ^ 64)
  | 4 => if b = 0 then BitVec.allOnes 64 else a.sdiv b
  | 5 => if b = 0 then BitVec.allOnes 64 else a / b
  | 6 => if b = 0 then a else a.srem b
  | _ => if b = 0 then a else a % b

/-- The M extension on 32 bits; none for the codes it lacks. -/
def mulOpW (f3 : Nat) (a b : DWord) : Option DWord :=
  let x : Word := a.setWidth 32
  let y : Word := b.setWidth 32
  match f3 with
  | 0 => some ((x * y).signExtend 64)
  | 4 => some (if y = 0 then BitVec.allOnes 64 else (x.sdiv y).signExtend 64)
  | 5 => some (if y = 0 then BitVec.allOnes 64 else (x / y).signExtend 64)
  | 6 => some ((if y = 0 then x else x.srem y).signExtend 64)
  | 7 => some ((if y = 0 then x else x % y).signExtend 64)
  | _ => none

/-- Whether a conditional branch is taken; none for the codes it lacks. -/
def branchTaken (f3 : Nat) (a b : DWord) : Option Bool :=
  match f3 with
  | 0 => some (a == b)
  | 1 => some (a != b)
  | 4 => some (a.slt b)
  | 5 => some (!a.slt b)
  | 6 => some (a.ult b)
  | 7 => some (!a.ult b)
  | _ => none

/-! ### Control and status registers -/

/-- RV64IMAC with a non-standard extension. -/
def misaValue : DWord := 0x8000000000801105

/-- What reading a CSR needs beside the core: its number, the pending external interrupt, the cycle. -/
structure CsrEnv where
  core : Nat
  pending : Bool
  now : Nat
  deriving DecidableEq, Repr

/-- A CSR's value; none where there is no such CSR. -/
def csrRead (v : CoreSt) (e : CsrEnv) (a : Nat) : Option DWord :=
  match a with
  | 0x300 => some v.mstatus
  | 0x301 => some misaValue
  | 0x304 => some v.mie
  | 0x305 => some v.mtvec
  | 0x340 => some v.mscratch
  | 0x341 => some v.mepc
  | 0x342 => some v.mcause
  | 0x343 => some v.mtval
  | 0x344 => some (if e.pending then 0x800 else 0)
  | 0xB00 => some (v.mcycle + BitVec.ofNat 64 e.now)
  | 0xB02 => some v.minstret
  | 0xF11 => some 0
  | 0xF12 => some 0
  | 0xF13 => some 0
  | 0xF14 => some ((coreSource e.core).setWidth 64)
  | 0xF15 => some 0
  | _ => if (0xB03 ≤ a ∧ a ≤ 0xB1F) ∨ (0x323 ≤ a ∧ a ≤ 0x33F) then some 0 else none

/-- A write of a CSR that exists and is not read-only. -/
def csrWrite (v : CoreSt) (e : CsrEnv) (a : Nat) (x : DWord) : CoreSt :=
  match a with
  | 0x300 => { v with mstatus := (x &&& 0x88#64) ||| 0x1800#64 }
  | 0x304 => { v with mie := x &&& 0x888#64 }
  | 0x305 => { v with mtvec := x &&& ~~~2#64 }
  | 0x340 => { v with mscratch := x }
  | 0x341 => { v with mepc := x &&& ~~~1#64 }
  | 0x342 => { v with mcause := x }
  | 0x343 => { v with mtval := x }
  | 0xB00 => { v with mcycle := x - BitVec.ofNat 64 e.now }
  | 0xB02 => { v with minstret := x }
  | _ => v

/-- Whether CSRRW, CSRRS, CSRRC or an immediate form writes its CSR. -/
def csrWrites (w : Word) : Bool := decide (wF3 w % 4 = 1) || decide (wRs1 w ≠ 0)

/-- CSRRW, CSRRS, CSRRC and their immediate forms; none where illegal. -/
def csrOp (v : CoreSt) (e : CsrEnv) (w : Word) : Option CoreSt :=
  let a := bitsOf w.toNat 20 12
  let f3 := wF3 w
  let src : DWord := if 4 ≤ f3 then (wRs1 w).setWidth 64 else v.reg (wRs1 w)
  match csrRead v e a with
  | none => none
  | some old =>
    if csrWrites w && decide (a / 1024 = 3) then none
    else
      let x := match f3 % 4 with
        | 1 => src
        | 2 => old ||| src
        | _ => old &&& ~~~src
      some ((if csrWrites w then csrWrite v e a x else v).setReg (wRd w) old)

/-! ### One instruction -/

/-- What a register instruction does. -/
inductive CoreDo where
  | go (v : CoreSt)
  | trap (cause : Nat) (tval : DWord)
  deriving DecidableEq, Repr

/-- Retire an instruction: the pc moves on. -/
def CoreSt.retire (v : CoreSt) (len : Nat) : CoreSt :=
  { v with pc := v.pc + BitVec.ofNat 64 len, minstret := v.minstret + 1 }

/-- Retire an instruction that goes to an address. -/
def CoreSt.jump (v : CoreSt) (a : DWord) : CoreSt := { v with pc := a &&& ~~~1#64, minstret := v.minstret + 1 }

/-- Retire a CSR instruction: a write of MINSTRET stands in place of the instruction's own count. -/
def CoreSt.retireCsr (v : CoreSt) (w : Word) (len : Nat) : CoreSt :=
  if csrWrites w && decide (bitsOf w.toNat 20 12 = 0xB02) then { v.retire len with minstret := v.minstret } else v.retire len

/-- OP: the base codes and M. -/
def opCode (w : Word) (a b : DWord) : Option DWord :=
  match wF7 w with
  | 0 => some (aluOp (wF3 w) false a b)
  | 1 => some (mulOp (wF3 w) a b)
  | 0x20 => if wF3 w = 0 ∨ wF3 w = 5 then some (aluOp (wF3 w) true a b) else none
  | _ => none

def opCodeW (w : Word) (a b : DWord) : Option DWord :=
  match wF7 w with
  | 0 => aluOpW (wF3 w) false a b
  | 1 => mulOpW (wF3 w) a b
  | 0x20 => if wF3 w = 0 ∨ wF3 w = 5 then aluOpW (wF3 w) true a b else none
  | _ => none

/-- OP-IMM: shifts take six bits of shamt, and bit 30 for SRAI. -/
def opImm (w : Word) (a : DWord) : Option DWord :=
  let f3 := wF3 w
  let f6 := bitsOf w.toNat 26 6
  if f3 = 1 then if f6 = 0 then some (aluOp 1 false a (wImmI w)) else none
  else if f3 = 5 then if f6 = 0 ∨ f6 = 0x10 then some (aluOp 5 (decide (f6 = 0x10)) a (wImmI w)) else none
  else some (aluOp f3 false a (wImmI w))

def opImmW (w : Word) (a : DWord) : Option DWord :=
  let f3 := wF3 w
  if f3 = 0 then aluOpW 0 false a (wImmI w)
  else if f3 = 1 then if wF7 w = 0 then aluOpW 1 false a (wImmI w) else none
  else if f3 = 5 then
    if wF7 w = 0 ∨ wF7 w = 0x20 then aluOpW 5 (decide (wF7 w = 0x20)) a (wImmI w) else none
  else none

/-- SYSTEM: ECALL 11, EBREAK 3, MRET, WFI, the CSR instructions. -/
def systemOp (v : CoreSt) (e : CsrEnv) (w : Word) (len : Nat) : Option CoreDo :=
  if wF3 w = 0 then
    if w = 0x00000073#32 then some (.trap 11 0)
    else if w = 0x00100073#32 then some (.trap 3 0)
    else if w = 0x30200073#32 then some (.go { coreReturn v with minstret := v.minstret + 1 })
    else if w = 0x10500073#32 then some (.go (v.retire len))
    else none
  else if wF3 w = 4 then none
  else (csrOp v e w).map fun u => .go (u.retireCsr w len)

/-- Execute a 32-bit word, len bytes long in memory, that is no memory access and no Xpyraro word; none where illegal. -/
def coreOp (v : CoreSt) (e : CsrEnv) (w : Word) (len : Nat) : Option CoreDo :=
  let a := v.reg (wRs1 w)
  let b := v.reg (wRs2 w)
  let put (r : Option DWord) : Option CoreDo := r.map fun x => .go ((v.setReg (wRd w) x).retire len)
  let link : CoreSt := v.setReg (wRd w) (v.pc + BitVec.ofNat 64 len)
  match wOp w with
  | 0x37 => put (some (wImmU w))
  | 0x17 => put (some (v.pc + wImmU w))
  | 0x6F => some (.go (link.jump (v.pc + wImmJ w)))
  | 0x67 => if wF3 w = 0 then some (.go (link.jump (a + wImmI w))) else none
  | 0x63 => (branchTaken (wF3 w) a b).map fun t => .go (if t then v.jump (v.pc + wImmB w) else v.retire len)
  | 0x13 => put (opImm w a)
  | 0x1B => put (opImmW w a)
  | 0x33 => put (opCode w a b)
  | 0x3B => put (opCodeW w a b)
  | 0x0F => if wF3 w < 2 then some (.go (v.retire len)) else none
  | 0x73 => systemOp v e w len
  | _ => none

end Sys2Proof.Machine
end

