-- ==== Sys2Proof/Machine/Cores.lean ====
section
/-! DEFINITION. The control cores (spec/21_control_cores.md R367 to R369, spec/15_ordering_far.md R294, R297,
spec/01_organisation.md R22 to R27): fetching, interrupts and traps, loads, stores and atomics at physical addresses. -/

namespace Sys2Proof.Machine

/-! ### Fetch and interrupts -/

/-- The scheduler of quarter q: its SC, or its SB after a take-over (R370, R378). -/
def schedulerOf (s : State) (q : Nat) : Nat := 2 * q + b2n (s.quarter q).hb.owner

def isScheduler (s : State) (c : Nat) : Bool := decide (c < 8) && decide (schedulerOf s (c / 2) = c)

/-- The machine external interrupt of core c (R369): CINT's enabled bits for the scheduler, LAPSE for the SB alone. -/
def coreIrq (s : State) (c : Nat) : Bool :=
  let v := s.quarter (c / 2)
  let bits := v.cintPend &&& v.cintIe
  decide (c < 8) && ((isScheduler s c && decide (bits &&& ~~~8#5 ≠ 0)) || (decide (c % 2 = 1) && bits.getLsbD 3))

/-- Whether an access of core c waits for a peer: it is in progress (R300). -/
def coreAwaits (s : State) (c : Nat) : Bool := s.awaits.any fun e => e.src == (coreSource c).toNat

/-- Whether core c takes its interrupt now. -/
def coreInterrupted (s : State) (c : Nat) : Bool :=
  let v := s.coreSt c
  !coreAwaits s c && coreIrq s c && v.mstatus.getLsbD 3 && v.mie.getLsbD 11

/-- Whether core c runs: released and not stopped. -/
def coreRuns (s : State) (c : Nat) : Bool := (s.coreSt c).released && !(s.coreSt c).stopped

/-- What a fetch finds: an access fault at an address, an error in the word, a word with its length (and, where it is
reserved, none), and the bits as they lie in memory. -/
inductive Fetched where
  | fault (a : DWord)
  | bad
  | word (w : Option Word) (len raw : Nat)
  deriving DecidableEq, Repr

/-- The first byte beyond instruction memory (R367). -/
def imemSize : Nat := 0x40000

/-- Fetch at the pc of a core. -/
def coreFetch (v : CoreSt) : Fetched :=
  let a := v.pc.toNat
  let bad (n : Nat) : Bool := v.imemBad.any fun b => decide (b / 4 = a / 4) || decide (b / 4 = (a + n - 1) / 4)
  if imemSize ≤ a then .fault v.pc
  else
    let h := leNat (Memory.read v.imem a 2)
    if h % 4 ≠ 3 then
      if bad 2 then .bad else .word ((rvcExpand h).map (BitVec.ofNat 32)) 2 h
    else if imemSize ≤ a + 2 then .fault (v.pc + 2)
    else
      let w := leNat (Memory.read v.imem a 4)
      if bad 4 then .bad else .word (some (BitVec.ofNat 32 w)) 4 w

/-- Whether a word is a load, a store or an atomic (opcodes LOAD, STORE, AMO of the base). -/
def isCoreAccess (w : Word) : Bool :=
  match wOp w with
  | 0x03 => decide (wF3 w ≠ 7)
  | 0x23 => decide (wF3 w < 4)
  | 0x2F =>
    (decide (wF3 w = 2) || decide (wF3 w = 3)) &&
      (match bitsOf w.toNat 27 5 with
       | 0 | 1 | 3 | 4 | 8 | 12 | 16 | 20 | 24 | 28 => true
       | 2 => decide (wRs2 w = 0)
       | _ => false)
  | _ => false

/-! ### Memory (R294, R297, R368) -/

/-- What an access of a core answers: it waits, it traps with a cause, or the state and the value read. -/
inductive CoreMem where
  | wait (s : State)
  | trap (s : State) (cause : Nat)
  | ok (s : State) (v : Nat)
  deriving DecidableEq, Repr

/-- The partition of a core; the MGC belongs to none (R23). -/
def coreQuarter (c : Nat) : Option Nat := if c < 8 then some (c / 2) else none

/-- Whether a core reaches the module unit (R26): the scheduler of quarter A, which is its SB after a take-over (R370; DESIGN
CHOICE, notes/assumptions/28.md). -/
def coreModule (s : State) (c : Nat) : Bool := decide (c = 8) || (isScheduler s c && decide (c < 2) && decide (partOf s 0 = 6))

/-- Whether [a, a + n) lies in DRAM or tile stores that core c reaches, off the plane shadows (R22, R23, R219). -/
def coreHome (s : State) (c a n : Nat) : Bool :=
  let ok (pa : Nat) : Bool :=
    match coreQuarter c with
    | none => isDram pa || isTileStore pa
    | some q => inPart s (leadOf s q) pa
  ok a && ok (a + n - 1) && !inShadow s a n

/-- The peer a remote-window address names, where core c may address it (R297). -/
def corePeer (s : State) (c a : Nat) : Option PeerSt :=
  match coreQuarter c with
  | none => none
  | some q =>
    let p := SMap.get (s.quarter (leadOf s q)).peers PeerSt.reset (bitsOf a 36 4)
    if p.en then some p else none

/-- Cut [a, a + n) at the page boundary. -/
def pageCut (a n : Nat) : List (Nat × Nat) :=
  let k := Nat.min n (pageSize - a % pageSize)
  if k < n then [(a, k), (a + k, n - k)] else [(a, n)]

/-- The home's bytes. -/
def homeRead (s : State) (a n : Nat) : List Byte := (pageCut a n).flatMap fun p => s.home p.1 p.2

/-- Write at the home, page by page. -/
def homePut (s : State) (a : Nat) (bs : List Byte) : State :=
  foldState (fun s p => writeHome s p.1 ((bs.drop (p.1 - a)).take p.2)) s (pageCut a bs.length)

/-- Write bytes at a home that the same request has read. -/
def homeUpdate (s : State) (a : Nat) (bs : List Byte) : State :=
  foldState (fun s p => homeWrite s p.1 ((bs.drop (p.1 - a)).take p.2) false) s (pageCut a bs.length)

/-- Whether a page an access touches is being converted. -/
def anyBusy (s : State) (a n : Nat) : Bool := (pageCut a n).any fun p => pageBusy s p.1

/-- Read n bytes at a home, with what the ECC finds: a poisoned or uncorrectable word traps (R368). -/
def homeLoad (s : State) (a n : Nat) (e : Ecc) : CoreMem :=
  if anyBusy s a n then .wait s
  else
    let s := if isDram a then eccOutcome s a e else eccStore s a e
    let r := (pageCut a n).foldl (fun r p => ((homeTouch r.1 p.1 p.2 false).1, r.2 || (homeTouch r.1 p.1 p.2 false).2))
      (s, decide (e = .uncorrectable))
    if r.2 then .trap r.1 25 else .ok r.1 (leNat (homeRead r.1 a n))

/-- Ask peer p for what a window address names (R297, R300, R383; notes/assumptions/17.md). -/
def askPeer (s : State) (c a : Nat) (p : PeerSt) (ask : Ask) : State × Answer :=
  let lead := leadOf s (c / 2)
  let s := (s.by (coreSource c)).task 0
  askRemote s lead p a (requestTo s lead p (4096 * p.base.toNat + bitsOf a 0 36) ask)

/-- The value a peer answers with, from physical address a there; poisoned bytes trap (R368). -/
def peerValue (s : State) (a n : Nat) : CoreMem :=
  if (List.range n).any fun i => Config.remotePoison s.turns (a + i) then .trap s 25
  else .ok s (leNat ((List.range n).map fun i => Config.remoteByte s.turns (a + i)))

/-- A load of n bytes by core c. DESIGN CHOICE (notes/assumptions/56.md): one that is misaligned, or of another length than 4 or 8
bytes, and to a closed register unit takes the trap of PA-INVALID. -/
def coreLoad (s : State) (c a n : Nat) (e : Ecc) : CoreMem :=
  if regBase ≤ a ∧ a < regEnd then
    if regClosed s (coreQuarter c) (coreModule s c) a then .trap s 5
    else if (n ≠ 4 ∧ n ≠ 8) ∨ a % n ≠ 0 then .trap s 4
    else .ok s (regLoad s a n).toNat
  else if remoteBase ≤ a ∧ a < regBase then
    match corePeer s c a with
    | none => .trap s 5
    | some p =>
      match askPeer s c a p (.read n) with
      | (s, .wait) => .wait s
      | (s, .failed _) => .trap s 5
      | (s, .done) => peerValue s (4096 * p.base.toNat + bitsOf a 0 36) n
  else if coreHome s c a n then homeLoad s a n e
  else .trap s 5

/-- A store of n bytes by core c. A store to register space is the next turn. DESIGN CHOICE (notes/assumptions/56.md): PA-INVALID
comes before MISALIGN, as for a load. -/
def coreStore (s : State) (c a n : Nat) (v : Nat) : CoreMem :=
  if regBase ≤ a ∧ a < regEnd then
    if regClosed s (coreQuarter c) (coreModule s c) a then .trap s 7
    else if (n ≠ 4 ∧ n ≠ 8) ∨ a % n ≠ 0 then .trap s 6
    else .ok (s.due (.registerWrite a n (BitVec.ofNat 64 v))) 0
  else if remoteBase ≤ a ∧ a < regBase then
    match corePeer s c a with
    | none => .trap s 7
    | some p =>
      if p.mode = 2 then .trap s 7
      else
        match askPeer s c a p (.write (leBytes n v) false) with
        | (s, .wait) => .wait s
        | (s, .failed _) => .trap s 7
        | (s, .done) => .ok s 0
  else if !coreHome s c a n then .trap s 7
  else if anyBusy s a n then .wait s
  else .ok (homePut s a (leBytes n v)) 0

/-- The new value of an atomic: its code, width, the value in memory and the operand. -/
def amoCode (f5 w old v : Nat) : Nat :=
  match f5 with
  | 0 => (old + v) % 2 ^ w
  | 1 => v
  | 4 => Nat.xor old v
  | 8 => Nat.lor old v
  | 12 => Nat.land old v
  | 16 => if signedOf w old ≤ signedOf w v then old else v
  | 20 => if signedOf w old ≤ signedOf w v then v else old
  | 24 => Nat.min old v
  | _ => Nat.max old v

/-- What an atomic asks of a peer, by its code. -/
def peerAtomic (f5 : Nat) : AmoOp :=
  match f5 with
  | 0 => .red .add
  | 1 => .swap
  | 4 => .xor
  | 8 => .red .or
  | 12 => .red .and
  | 16 => .red .min
  | 20 => .red .max
  | 24 => .red .minU
  | _ => .red .maxU

/-- An LR, SC or atomic of n bytes by core c: naturally aligned, at a home; atomics also at a peer. The value is what rd
takes. -/
def coreAtomic (s : State) (c a n f5 v : Nat) (e : Ecc) : CoreMem :=
  let st : Nat := if f5 = 2 then 4 else 6
  if a % n ≠ 0 then .trap s st
  else if remoteBase ≤ a ∧ a < regBase ∧ f5 ≠ 2 ∧ f5 ≠ 3 then
    match corePeer s c a with
    | none => .trap s 7
    | some p =>
      if p.mode = 2 then .trap s 7
      else
        match askPeer s c a p (.atomic (peerAtomic f5) n (v % 2 ^ (8 * n)) 0) with
        | (s, .wait) => .wait s
        | (s, .failed _) => .trap s 7
        | (s, .done) => peerValue s (4096 * p.base.toNat + bitsOf a 0 36) n
  else if !coreHome s c a n then .trap s (st + 1)
  else if f5 = 3 then
    if anyBusy s a n then .wait s
    else if (s.coreSt c).resv = some (a / 8 * 8) then
      let s := homePut s a (leBytes n v)
      .ok (s.setCore c { s.coreSt c with resv := none }) 0
    else .ok (s.setCore c { s.coreSt c with resv := none }) 1
  else
    match homeLoad s a n e with
    | .ok s old =>
      if f5 = 2 then .ok (s.setCore c { s.coreSt c with resv := some (a / 8 * 8) }) old
      else .ok (homeUpdate s a (leBytes n (amoCode f5 (8 * n) old (v % 2 ^ (8 * n))))) old
    | r => r

/-- Finish an access: the register, the pc; or the trap, with the address in mtval. -/
def coreMemDone (c a len : Nat) (rd : BitVec 5) (form : Nat → DWord) : CoreMem → State
  | .wait s' => s'
  | .trap s' cause => takeTrap s' c cause (BitVec.ofNat 64 a)
  | .ok s' v => s'.setCore c (((s'.coreSt c).setReg rd (form v)).retire len)

/-- How a load extends its value. -/
def loadForm (f3 v : Nat) : DWord :=
  match f3 with
  | 0 => immOf 8 v
  | 1 => immOf 16 v
  | 2 => immOf 32 v
  | _ => BitVec.ofNat 64 v

/-- Carry out a load, store or atomic of core c. -/
def coreAccess (s : State) (c : Nat) (w : Word) (len : Nat) (e : Ecc) : State :=
  let v := s.coreSt c
  let f3 := wF3 w
  let n := 2 ^ (f3 % 4)
  match wOp w with
  | 0x03 =>
    let a := (v.reg (wRs1 w) + wImmI w).toNat
    coreMemDone c a len (wRd w) (loadForm f3) (coreLoad s c a n e)
  | 0x23 =>
    let a := (v.reg (wRs1 w) + wImmS w).toNat
    coreMemDone c a len 0 (fun _ => 0) (coreStore s c a n (v.reg (wRs2 w)).toNat)
  | _ =>
    let a := (v.reg (wRs1 w)).toNat
    let f5 := bitsOf w.toNat 27 5
    coreMemDone c a len (wRd w) (if f5 = 3 then BitVec.ofNat 64 else loadForm f3)
      (coreAtomic s c a n f5 (v.reg (wRs2 w)).toNat e)

/-! ### The two rows of a control core -/

/-- CONTROL_CORE_ACCESS (R294): the core's next instruction is a load, a store or an atomic. -/
def execControlCoreAccess (c : Nat) (e : Ecc) (s : State) : Out :=
  .next <|
    if !coreRuns s c || coreInterrupted s c then s
    else
      match coreFetch (s.coreSt c) with
      | .word (some w) len _ => if isCoreAccess w then coreAccess s c w len e else s
      | _ => s

/-- An error in a fetched word (R368, R377): cause 24; the SC then fetches nothing more, and its heartbeat lapses. -/
def imemTrap (s : State) (c : Nat) : State :=
  let v := s.coreSt c
  let s := takeTrap (s.setCore c { v with imemBad := (v.pc.toNat / 4 * 4) :: v.imemBad.filter fun a => a ≠ v.pc.toNat / 4 * 4 })
    c 24 v.pc
  if c < 8 ∧ c % 2 = 0 then lapse (s.setCore c { s.coreSt c with stopped := true }) (c / 2)
  else s

/-- A word that is no access. -/
def coreWord (s : State) (c : Nat) (w : Word) (len raw : Nat) : State :=
  let v := s.coreSt c
  if isCoreAccess w then s
  else if isXpyraro w then (if (decodeXpyraro w).isSome then s else takeTrap s c 2 (BitVec.ofNat 64 raw))
  else
    match coreOp v { core := c, pending := coreIrq s c, now := s.now } w len with
    | none => takeTrap s c 2 (BitVec.ofNat 64 raw)
    | some (.go v) => s.setCore c v
    | some (.trap cause tval) => takeTrap s c cause tval

/-- CONTROL_CORE_INSTRUCTION (R367 to R369): core c takes its interrupt, or its next instruction that is neither a memory
access nor an Xpyraro instruction, or the trap of a fetch. e is what the ECC finds in the fetched word. -/
def execControlCoreInstruction (c : Nat) (e : Ecc) (s : State) : Out :=
  .next <|
    if !coreRuns s c then s
    else if coreInterrupted s c then s.setCore c (coreTrap (s.coreSt c) true 11 0)
    else
      match coreFetch (s.coreSt c) with
      | .fault a => takeTrap s c 1 a
      | .bad => imemTrap s c
      | .word none _ raw => if e = .uncorrectable then imemTrap s c else takeTrap s c 2 (BitVec.ofNat 64 raw)
      | .word (some w) len raw => if e = .uncorrectable then imemTrap s c else coreWord s c w len raw

end Sys2Proof.Machine
end

