-- ==== Sys2Proof/Machine/CounterOps.lean ====
section
/-! DEFINITION. The chained loop counters and the meanings of KSET, KNEXT, KLAST and KREAD
(spec/19_counters.md R333 to R338). -/

namespace Sys2Proof.Machine

/-- Counter c of a tile. -/
def kAt (ks : List KCtr) (c : Nat) : KCtr := (ks[c]?).getD KCtr.reset

/-- Whether a counter is at its last value: VAL + 1 = LIM, LIM 0 standing for 2^32 (R334). -/
def kLast (k : KCtr) : Bool :=
  decide (k.val.toNat + 1 = if k.lim = 0 then 2 ^ 32 else k.lim.toNat)

/-- Advance counter c, carrying into the counters above it linked by CHAIN; n bounds the carries (R334). -/
def kAdvance : Nat → List KCtr → Nat → List KCtr
  | 0, ks, _ => ks
  | n + 1, ks, c =>
    let k := kAt ks c
    if kLast k then
      let ks := setAt ks c { k with val := 0 }
      if c < 7 ∧ (kAt ks (c + 1)).chain = true then kAdvance n ks (c + 1) else ks
    else setAt ks c { k with val := k.val + 1 }

/-- An EOS through KNEXT: VAL of Kc and of the counters above it in an unbroken run of CHAIN becomes 0 (R337). -/
def kZeroRun : Nat → List KCtr → Nat → List KCtr
  | 0, ks, _ => ks
  | n + 1, ks, c =>
    let ks := setAt ks c { kAt ks c with val := 0 }
    if c < 7 ∧ (kAt ks (c + 1)).chain = true then kZeroRun n ks (c + 1) else ks

/-- Whether an instruction is a counter operation. -/
def isCounterOp : Instr → Bool
  | .kset _ _ _ => true
  | .knext _ _ _ => true
  | .klast _ _ _ => true
  | .kread _ _ _ => true
  | _ => false

/-- A counter instruction, where its turn in the slot order of the cycle has come (R335; Turn.lean): a marker is forwarded, with
what KNEXT does on an EOS; a DATA token has the effect given on the counters and emits the result given, or raises the fault
given (R336, R337). -/
def counterOp (s : State) (i : Instr) (onEos : List KCtr → List KCtr)
    (rule : Token → List KCtr → (List KCtr × DWord) ⊕ (Nat × DWord)) (psnOf : Token → Bool) : State :=
  let x := s.foc
  let t := tileOf x
  if !slotReady s x then s
  else
    match headAt s x .l with
    | none => s
    | some e =>
      let outs := targetsOf i
      if e.tok.kind ≠ .data then
        if !targetsFree s x outs then s
        else
          let s := noteFiring (consume s x .l) x
          let s := if e.tok.kind = .eos then s.setTile t { s.tile t with ks := onEos (s.tile t).ks } else s
          captureTo s x e.tok (s.now + 1) (s.now + 1) 0 false outs
      else
        match rule e.tok (s.tile t).ks with
        | .inr f => firingFault s x f.1 0 0xF 0 f.2
        | .inl r =>
          if !targetsFree s x outs then s
          else
            let s := noteFiring (consume s x .l) x
            let s := s.setTile t { s.tile t with ks := r.1 }
            captureTo s x (dataTok r.2 (psnOf e.tok)) (s.now + 1) (s.now + 1) 0 false outs

/-- KSET: R336; a poisoned configuration is a poisoned counter bound. -/
def execKset (c : BitVec 3) (t1 t0 : Target) (s : State) : Out :=
  .next (counterOp s (.kset c t1 t0) id
    (fun tok ks =>
      let v := tok.data.toNat
      let bad := decide (bitsOf v 33 7 ≠ 0) || decide (bitsOf v 48 16 ≠ 0) || (decide (c = 0) && bitOf v 32)
      if bad then .inr (codeCtrCfg, BitVec.ofNat 64 (v / 2 ^ 32))
      else if tok.psn then .inr (codePoison, 0)
      else .inl (setAt ks c.toNat { val := 0, lim := BitVec.ofNat 32 v, chain := bitOf v 32,
                                    pmask := BitVec.ofNat 8 (v / 2 ^ 40) }, 0))
    (fun _ => false))

/-- What KNEXT emits of a counter: the wrap in bit 32 above the value. -/
def knextValue (k : KCtr) : DWord := BitVec.ofNat 64 (b2n (kLast k) * 2 ^ 32 + k.val.toNat)

/-- KNEXT: R336; the result is the wrap in bit 32 above the value before the advance. -/
def execKnext (c : BitVec 3) (t1 t0 : Target) (s : State) : Out :=
  .next (counterOp s (.knext c t1 t0) (fun ks => kZeroRun 8 ks c.toNat)
    (fun _ ks => .inl (kAdvance 8 ks c.toNat, knextValue (kAt ks c.toNat)))
    (fun tok => tok.psn))

/-- KLAST: R336; 1 at the last value, nothing changes. -/
def execKlast (c : BitVec 3) (t1 t0 : Target) (s : State) : Out :=
  .next (counterOp s (.klast c t1 t0) id (fun _ ks => .inl (ks, boolData (kLast (kAt ks c.toNat))))
    (fun tok => tok.psn))

/-- What KREAD reads (R336). -/
def kreadValue (ti : TileSt) (ks : List KCtr) : KSrc → DWord
  | .k c => BitVec.ofNat 64 (kAt ks c.toNat).val.toNat
  | .kpack => BitVec.ofNat 64 ((kAt ks 0).val.toNat % 65536 + (kAt ks 1).val.toNat % 65536 * 2 ^ 16
      + (kAt ks 2).val.toNat % 65536 * 2 ^ 32 + (kAt ks 3).val.toNat % 65536 * 2 ^ 48)
  | .iter => BitVec.ofNat 64 ti.iter.toNat
  | .pass => BitVec.ofNat 64 ti.armed.toNat

/-- KREAD: R336, R338. -/
def execKread (r : KSrc) (t1 t0 : Target) (s : State) : Out :=
  .next (counterOp s (.kread r t1 t0) id
    (fun _ ks => .inl (ks, kreadValue (s.tile (tileOf s.foc)) ks r)) (fun tok => tok.psn))

end Sys2Proof.Machine
end

