-- ==== Sys2Proof/Machine/FloatOps.lean ====
section
/-! DEFINITION. The meanings of the floating-point, multiply, conversion and accumulate instructions: opcodes 0x40
to 0x5F, 0x74 and 0x75 (spec/06_element_float_router.md R114 to R122). -/

namespace Sys2Proof.Machine

/-- The layout of an element format (R66). -/
def fmtOf : FKind → FloatFmt
  | .f32 => fp32
  | .f16 => fp16
  | .bf16 => bf16

/-- The layout of a narrow float format (R55). -/
def narrowFmt : NarrowF → FloatFmt
  | .e5m2 => e5m2
  | .e4m3 => e4m3
  | .e3m2 => e3m2
  | .e2m3 => e2m3
  | .e2m1 => e2m1

/-- An operand's pattern, and its value (R59, R114). -/
def patOf (k : FKind) (a : Nat) : Nat := a % 2 ^ (fmtOf k).width
def valOf (k : FKind) (a : Nat) : FVal := decodeF (fmtOf k) (patOf k a)

/-- A truth value as a result. -/
def boolRes (v : Bool × Flags) : FRes := (b2n v.1, v.2)

/-- An integer operand of w bits. -/
def intArg (signed : Bool) (w a : Nat) : Int := if signed then signedOf w a else (a % 2 ^ w : Nat)

/-- CVT.N: a float pattern to a narrow float or integer format. -/
def narrowRes (src : FloatFmt) (d : Narrow) (a : Nat) : FRes :=
  match d with
  | .f n => cvtNarrow src (narrowFmt n) a
  | .i n => cvtFI src .rne n.signed n.bits a

/-- FADD: R115. -/
def execFadd (f : FSel) (p : Pred) (t1 t0 : Target) (s : State) : Out :=
  floatElement s (.fadd f p t1 t0) fun a b => faddV (fmtOf f.kind) f.dir (valOf f.kind a) (valOf f.kind b)

/-- FSUB: R115. -/
def execFsub (f : FSel) (p : Pred) (t1 t0 : Target) (s : State) : Out :=
  floatElement s (.fsub f p t1 t0) fun a b => faddV (fmtOf f.kind) f.dir (valOf f.kind a) (valOf f.kind b).neg

/-- FMUL: R115. -/
def execFmul (f : FSel) (p : Pred) (t1 t0 : Target) (s : State) : Out :=
  floatElement s (.fmul f p t1 t0) fun a b => fmulV (fmtOf f.kind) f.dir (valOf f.kind a) (valOf f.kind b)

/-- FDIV: R115. -/
def execFdiv (f : FSel) (p : Pred) (t1 t0 : Target) (s : State) : Out :=
  floatElement s (.fdiv f p t1 t0) fun a b => fdivV (fmtOf f.kind) f.dir (valOf f.kind a) (valOf f.kind b)

/-- FSQRT: R115. -/
def execFsqrt (f : FSel) (p : Pred) (t1 t0 : Target) (s : State) : Out :=
  floatElement s (.fsqrt f p t1 t0) fun a _ => fsqrtV (fmtOf f.kind) f.dir (valOf f.kind a)

/-- FMIN: R116. -/
def execFmin (f : FKind) (p : Pred) (t1 t0 : Target) (s : State) : Out :=
  floatElement s (.fmin f p t1 t0) fun a b => fminmax (fmtOf f) false (patOf f a) (patOf f b)

/-- FMAX: R116. -/
def execFmax (f : FKind) (p : Pred) (t1 t0 : Target) (s : State) : Out :=
  floatElement s (.fmax f p t1 t0) fun a b => fminmax (fmtOf f) true (patOf f a) (patOf f b)

/-- FABS: R116. -/
def execFabs (f : FKind) (p : Pred) (t1 t0 : Target) (s : State) : Out :=
  floatElement s (.fabs f p t1 t0) fun a _ => fsignOp (fmtOf f) false (patOf f a)

/-- FNEG: R116. -/
def execFneg (f : FKind) (p : Pred) (t1 t0 : Target) (s : State) : Out :=
  floatElement s (.fneg f p t1 t0) fun a _ => fsignOp (fmtOf f) true (patOf f a)

/-- FCMP_EQ: R117; the result is 1 or 0. -/
def execFcmpEq (f : FKind) (p : Pred) (t1 t0 : Target) (s : State) : Out :=
  floatElement s (.fcmpEq f p t1 t0) fun a b => boolRes (fcmp (fmtOf f) .eq (patOf f a) (patOf f b))

/-- FCMP_NE: R117; the result is 1 or 0. -/
def execFcmpNe (f : FKind) (p : Pred) (t1 t0 : Target) (s : State) : Out :=
  floatElement s (.fcmpNe f p t1 t0) fun a b => boolRes (fcmp (fmtOf f) .ne (patOf f a) (patOf f b))

/-- FCMP_LT: R117; the result is 1 or 0. -/
def execFcmpLt (f : FKind) (p : Pred) (t1 t0 : Target) (s : State) : Out :=
  floatElement s (.fcmpLt f p t1 t0) fun a b => boolRes (fcmp (fmtOf f) .lt (patOf f a) (patOf f b))

/-- FCMP_LE: R117; the result is 1 or 0. -/
def execFcmpLe (f : FKind) (p : Pred) (t1 t0 : Target) (s : State) : Out :=
  floatElement s (.fcmpLe f p t1 t0) fun a b => boolRes (fcmp (fmtOf f) .le (patOf f a) (patOf f b))

/-- FCMP_UN: R117; the result is 1 or 0. -/
def execFcmpUn (f : FKind) (p : Pred) (t1 t0 : Target) (s : State) : Out :=
  floatElement s (.fcmpUn f p t1 t0) fun a b => boolRes (fcmp (fmtOf f) .un (patOf f a) (patOf f b))

/-- FRND: R118. -/
def execFrnd (f : FSel) (p : Pred) (t1 t0 : Target) (s : State) : Out :=
  floatElement s (.frnd f p t1 t0) fun a _ => Sys2Proof.Machine.frnd (fmtOf f.kind) f.dir (patOf f.kind a)

/-- CVT_IF_SW: R120. -/
def execCvtIfSw (f : FSel) (p : Pred) (t1 t0 : Target) (s : State) : Out :=
  floatElement s (.cvtIfSw f p t1 t0) fun a _ => cvtIF (fmtOf f.kind) f.dir (intArg true 32 a)

/-- CVT_IF_SD: R120. -/
def execCvtIfSd (f : FSel) (p : Pred) (t1 t0 : Target) (s : State) : Out :=
  floatElement s (.cvtIfSd f p t1 t0) fun a _ => cvtIF (fmtOf f.kind) f.dir (intArg true 64 a)

/-- CVT_IF_UW: R120. -/
def execCvtIfUw (f : FSel) (p : Pred) (t1 t0 : Target) (s : State) : Out :=
  floatElement s (.cvtIfUw f p t1 t0) fun a _ => cvtIF (fmtOf f.kind) f.dir (intArg false 32 a)

/-- CVT_IF_UD: R120. -/
def execCvtIfUd (f : FSel) (p : Pred) (t1 t0 : Target) (s : State) : Out :=
  floatElement s (.cvtIfUd f p t1 t0) fun a _ => cvtIF (fmtOf f.kind) f.dir (intArg false 64 a)

/-- CVT_FI_SW: R120. -/
def execCvtFiSw (f : FSel) (p : Pred) (t1 t0 : Target) (s : State) : Out :=
  floatElement s (.cvtFiSw f p t1 t0) fun a _ => cvtFI (fmtOf f.kind) f.dir true 32 (patOf f.kind a)

/-- CVT_FI_SD: R120. -/
def execCvtFiSd (f : FSel) (p : Pred) (t1 t0 : Target) (s : State) : Out :=
  floatElement s (.cvtFiSd f p t1 t0) fun a _ => cvtFI (fmtOf f.kind) f.dir true 64 (patOf f.kind a)

/-- CVT_FI_UW: R120. -/
def execCvtFiUw (f : FSel) (p : Pred) (t1 t0 : Target) (s : State) : Out :=
  floatElement s (.cvtFiUw f p t1 t0) fun a _ => cvtFI (fmtOf f.kind) f.dir false 32 (patOf f.kind a)

/-- CVT_FI_UD: R120. -/
def execCvtFiUd (f : FSel) (p : Pred) (t1 t0 : Target) (s : State) : Out :=
  floatElement s (.cvtFiUd f p t1 t0) fun a _ => cvtFI (fmtOf f.kind) f.dir false 64 (patOf f.kind a)

/-- CVT_FF_F32: R120. -/
def execCvtFfF32 (f : FSel) (p : Pred) (t1 t0 : Target) (s : State) : Out :=
  floatElement s (.cvtFfF32 f p t1 t0) fun a _ => cvtFF (fmtOf f.kind) (fmtOf .f32) f.dir (patOf f.kind a)

/-- CVT_FF_F16: R120. -/
def execCvtFfF16 (f : FSel) (p : Pred) (t1 t0 : Target) (s : State) : Out :=
  floatElement s (.cvtFfF16 f p t1 t0) fun a _ => cvtFF (fmtOf f.kind) (fmtOf .f16) f.dir (patOf f.kind a)

/-- CVT_FF_BF16: R120. -/
def execCvtFfBf16 (f : FSel) (p : Pred) (t1 t0 : Target) (s : State) : Out :=
  floatElement s (.cvtFfBf16 f p t1 t0) fun a _ => cvtFF (fmtOf f.kind) (fmtOf .bf16) f.dir (patOf f.kind a)

/-- CVT_N: R121; to a narrow float, or clamped to a narrow integer with RNE. -/
def execCvtN (s : FKind) (d : Narrow) (t1 t0 : Target) (st : State) : Out :=
  floatElement st (.cvtN s d t1 t0) fun a _ => narrowRes (fmtOf s) d (patOf s a)

/-- CVT_N_W: R121; a narrow float to FP32, exact. -/
def execCvtNW (s : NarrowF) (t1 t0 : Target) (st : State) : Out :=
  floatElement st (.cvtNW s t1 t0) fun a _ =>
    cvtWiden (narrowFmt s) (a % 2 ^ (narrowFmt s).width)

/-- CVT_N_I: R121; INT32 to a narrow integer, saturating. -/
def execCvtNI (d : NarrowI) (t1 t0 : Target) (s : State) : Out :=
  floatElement s (.cvtNI d t1 t0) fun a _ => cvtNI d.signed d.bits (signedOf 32 a)

/-- MUL: R119. -/
def execMul (w : Width) (p : Pred) (t1 t0 : Target) (s : State) : Out :=
  intElement s (.mul w p t1 t0) fun a b _ => mulW w.bits a b

/-- MULH: R119. -/
def execMulh (w : Width) (p : Pred) (t1 t0 : Target) (s : State) : Out :=
  intElement s (.mulh w p t1 t0) fun a b _ => mulhW w.bits a b

/-- MULH_U: R119. -/
def execMulhU (w : Width) (p : Pred) (t1 t0 : Target) (s : State) : Out :=
  intElement s (.mulhU w p t1 t0) fun a b _ => mulhuW w.bits a b

/-- The sum so far: the value of the open result latch, 0 where none is open. -/
def openSum (s : State) (x : Nat) : Option Token :=
  match (s.slot x).result with
  | some r => if r.kind = .acc then some r.tok else none
  | none => none

/-- FACC and IACC (R122): a DATA token goes into the open sum, an EOS first emits the sum and then passes, another
marker passes. The EOS is consumed by the firing after the one that emits the sum: the slot's hold value says so. -/
def accumulate (s : State) (i : Instr) (addTo : Option Nat → Nat → FRes) : State :=
  let x := s.foc
  if !slotReady s x then s
  else
    match headAt s x .l with
    | none => s
    | some e =>
      let outs := targetsOf i
      let v := s.slot x
      match e.tok.kind with
      | .data =>
        let r := addTo ((openSum s x).map fun t => t.data.toNat) e.tok.data.toNat
        let psn := e.tok.psn || (match openSum s x with
          | some t => t.psn
          | none => false)
        let a : Act := { take := [.l], emit := some (dataTok (dataOf r.1) psn), outs := [], flags := r.2,
                         computed := true, marker := false }
        let s := noteFiring (consumeAll s x [.l]) x
        let s := match v.mismatch with
          | some _ => bucketAdd s (dieOfTile (tileOf x)) 2 (fieldOf x % 320)
          | none => captureFlags s (tileOf x) r.2.toWord
        let res : Result := { kind := .acc, tok := dataTok (dataOf r.1) psn, tgts := a.outs,
                              due := if v.mismatch.isSome then s.now + 1 else 0,
                              flags := if v.mismatch.isSome then r.2.toWord else 0, start := 0, done := 0, run := 0, ks := [] }
        s.setSlot x { s.slot x with
          result := some res
          mismatch := none
          busy := if v.mismatch.isSome then s.now + 2 else s.now + 1 }
      | .eos =>
        if !targetsFree s x outs then s
        else if v.hold.phase = 0 then
          let tok := match openSum s x with
            | some t => t
            | none => dataTok 0 false
          let s := noteFiring s x
          let s := s.setSlot x { s.slot x with result := none, hold := { v.hold with phase := 1 } }
          captureTo s x tok (s.now + 1) (s.now + 1) 0 false outs
        else
          let s := noteFiring (consumeAll s x [.l]) x
          let s := s.setSlot x { s.slot x with hold := Hold.start }
          captureTo s x e.tok (s.now + 1) (s.now + 1) 0 false outs
      | _ =>
        if !targetsFree s x outs then s
        else captureTo (noteFiring (consumeAll s x [.l]) x) x e.tok (s.now + 1) (s.now + 1) 0 false outs

/-- One FACC addition: an empty sum takes x itself, with a NaN made canonical (R122). -/
def faccStep (f : FSel) (acc : Option Nat) (v : Nat) : FRes :=
  match acc with
  | none => if (valOf f.kind v).isNan then nanRes (fmtOf f.kind) (valOf f.kind v).isSNan else (patOf f.kind v, Flags.none)
  | some t => faddV (fmtOf f.kind) f.dir (valOf f.kind t) (valOf f.kind v)

/-- One IACC addition, wrapping or saturating (R122). -/
def iaccStep (w : Width) (sat : Bool) (acc : Option Nat) (v : Nat) : FRes :=
  let t : Int := signedOf w.bits (acc.getD 0) + signedOf w.bits v
  (if sat then satS w.bits t else trunc w.bits t, Flags.none)

/-- A checker mismatch of an accumulation that repeats: PIPE-ERR, nothing consumed (R357). -/
def accFault (s : State) (i : Instr) : State :=
  let x := s.foc
  match slotReady s x, headAt s x .l with
  | true, some e =>
    if e.tok.kind = .data then
      let s := bucketAdd s (dieOfTile (tileOf x)) 2 (fieldOf x % 320)
      let s := s.setSlot x { s.slot x with mismatch := none }
      firingFault s x codePipeErr 0 0xF 0 (BitVec.ofNat 64 ((checkKind i).getD 0))
    else accumulate s i fun _ v => (v, Flags.none)
  | _, _ => s

/-- FACC: R122. -/
def execFacc (f : FSel) (t1 t0 : Target) (s : State) : Out :=
  if (s.slot s.foc).mismatch = some true then .next (accFault s (.facc f t1 t0)) else .next (accumulate s (.facc f t1 t0) (faccStep f))

/-- IACC: R122. -/
def execIacc (w : Width) (s : Bool) (t1 t0 : Target) (st : State) : Out :=
  if (st.slot st.foc).mismatch = some true then .next (accFault st (.iacc w s t1 t0)) else .next (accumulate st (.iacc w s t1 t0) (iaccStep w s))

end Sys2Proof.Machine
end

