-- ==== Sys2Proof/Machine/IntegerOps.lean ====
section
/-! DEFINITION. The meanings of the integer element instructions: opcodes 0x00 to 0x3B and 0x70 to 0x73
(spec/05_element_integer.md). -/

namespace Sys2Proof.Machine

/-- ADD: R101. -/
def execAdd (w : Width) (p : Pred) (t1 t0 : Target) (s : State) : Out :=
  intElement s (.add w p t1 t0) fun a b _ => addW w.bits a b

/-- SUB: R101. -/
def execSub (w : Width) (p : Pred) (t1 t0 : Target) (s : State) : Out :=
  intElement s (.sub w p t1 t0) fun a b _ => subW w.bits a b

/-- ADDS: R101. -/
def execAdds (w : Width) (p : Pred) (t1 t0 : Target) (s : State) : Out :=
  intElement s (.adds w p t1 t0) fun a b _ => addsW w.bits a b

/-- ADDS_U: R101. -/
def execAddsU (w : Width) (p : Pred) (t1 t0 : Target) (s : State) : Out :=
  intElement s (.addsU w p t1 t0) fun a b _ => addsuW w.bits a b

/-- SUBS: R101. -/
def execSubs (w : Width) (p : Pred) (t1 t0 : Target) (s : State) : Out :=
  intElement s (.subs w p t1 t0) fun a b _ => subsW w.bits a b

/-- SUBS_U: R101. -/
def execSubsU (w : Width) (p : Pred) (t1 t0 : Target) (s : State) : Out :=
  intElement s (.subsU w p t1 t0) fun a b _ => subsuW w.bits a b

/-- MIN: R101. -/
def execMin (w : Width) (p : Pred) (t1 t0 : Target) (s : State) : Out :=
  intElement s (.min w p t1 t0) fun a b _ => minW w.bits a b

/-- MIN_U: R101. -/
def execMinU (w : Width) (p : Pred) (t1 t0 : Target) (s : State) : Out :=
  intElement s (.minU w p t1 t0) fun a b _ => minuW w.bits a b

/-- MAX: R101. -/
def execMax (w : Width) (p : Pred) (t1 t0 : Target) (s : State) : Out :=
  intElement s (.max w p t1 t0) fun a b _ => maxW w.bits a b

/-- MAX_U: R101. -/
def execMaxU (w : Width) (p : Pred) (t1 t0 : Target) (s : State) : Out :=
  intElement s (.maxU w p t1 t0) fun a b _ => maxuW w.bits a b

/-- ADDI: R102; the immediate is signed. -/
def execAddi (w : Width) (p : Pred) (i : BitVec 9) (t0 : Target) (s : State) : Out :=
  intElement s (.addi w p i t0) fun a _ _ => addiW w.bits a i.toInt

/-- RSBI: R102; the immediate is signed. -/
def execRsbi (w : Width) (p : Pred) (i : BitVec 9) (t0 : Target) (s : State) : Out :=
  intElement s (.rsbi w p i t0) fun a _ _ => rsbiW w.bits a i.toInt

/-- ADDI_S: R102; the immediate is signed. -/
def execAddiS (w : Width) (p : Pred) (i : BitVec 9) (t0 : Target) (s : State) : Out :=
  intElement s (.addiS w p i t0) fun a _ _ => addisW w.bits a i.toInt

/-- RSBI_S: R102; the immediate is signed. -/
def execRsbiS (w : Width) (p : Pred) (i : BitVec 9) (t0 : Target) (s : State) : Out :=
  intElement s (.rsbiS w p i t0) fun a _ _ => rsbisW w.bits a i.toInt

/-- AND: R103. -/
def execAnd (w : Width) (p : Pred) (t1 t0 : Target) (s : State) : Out :=
  intElement s (.and w p t1 t0) fun a b _ => andW w.bits a b

/-- OR: R103. -/
def execOr (w : Width) (p : Pred) (t1 t0 : Target) (s : State) : Out :=
  intElement s (.or w p t1 t0) fun a b _ => orW w.bits a b

/-- XOR: R103. -/
def execXor (w : Width) (p : Pred) (t1 t0 : Target) (s : State) : Out :=
  intElement s (.xor w p t1 t0) fun a b _ => xorW w.bits a b

/-- ANDN: R103. -/
def execAndn (w : Width) (p : Pred) (t1 t0 : Target) (s : State) : Out :=
  intElement s (.andn w p t1 t0) fun a b _ => andnW w.bits a b

/-- NOT: R103. -/
def execNot (w : Width) (p : Pred) (t1 t0 : Target) (s : State) : Out :=
  intElement s (.not w p t1 t0) fun a _ _ => notW w.bits a

/-- SHL: R104; the amount is the unsigned value of R. -/
def execShl (w : Width) (p : Pred) (t1 t0 : Target) (s : State) : Out :=
  intElement s (.shl w p t1 t0) fun a b _ => shlW w.bits (uv w.bits b) a

/-- SHR: R104; the amount is the unsigned value of R. -/
def execShr (w : Width) (p : Pred) (t1 t0 : Target) (s : State) : Out :=
  intElement s (.shr w p t1 t0) fun a b _ => shrW w.bits (uv w.bits b) a

/-- SHR_A: R104; the amount is the unsigned value of R. -/
def execShrA (w : Width) (p : Pred) (t1 t0 : Target) (s : State) : Out :=
  intElement s (.shrA w p t1 t0) fun a b _ => shraW w.bits (uv w.bits b) a

/-- ROT: R104; the amount is the unsigned value of R. -/
def execRot (w : Width) (p : Pred) (t1 t0 : Target) (s : State) : Out :=
  intElement s (.rot w p t1 t0) fun a b _ => rotW w.bits (uv w.bits b) a

/-- SHLI: R104; the amount is the immediate. -/
def execShli (w : Width) (p : Pred) (i : BitVec 9) (t0 : Target) (s : State) : Out :=
  intElement s (.shli w p i t0) fun a _ _ => shlW w.bits i.toNat a

/-- SHRI: R104; the amount is the immediate. -/
def execShri (w : Width) (p : Pred) (i : BitVec 9) (t0 : Target) (s : State) : Out :=
  intElement s (.shri w p i t0) fun a _ _ => shrW w.bits i.toNat a

/-- SHRI_A: R104; the amount is the immediate. -/
def execShriA (w : Width) (p : Pred) (i : BitVec 9) (t0 : Target) (s : State) : Out :=
  intElement s (.shriA w p i t0) fun a _ _ => shraW w.bits i.toNat a

/-- CLZ: R105. -/
def execClz (w : Width) (p : Pred) (t1 t0 : Target) (s : State) : Out :=
  intElement s (.clz w p t1 t0) fun a _ _ => clzW w.bits a

/-- POPC: R105. -/
def execPopc (w : Width) (p : Pred) (t1 t0 : Target) (s : State) : Out :=
  intElement s (.popc w p t1 t0) fun a _ _ => popcW w.bits a

/-- BREV: R105. -/
def execBrev (w : Width) (p : Pred) (t1 t0 : Target) (s : State) : Out :=
  intElement s (.brev w p t1 t0) fun a _ _ => brevW w.bits a

/-- ABS: R106. -/
def execAbs (w : Width) (p : Pred) (t1 t0 : Target) (s : State) : Out :=
  intElement s (.abs w p t1 t0) fun a _ _ => absW w.bits a

/-- NEG: R106. -/
def execNeg (w : Width) (p : Pred) (t1 t0 : Target) (s : State) : Out :=
  intElement s (.neg w p t1 t0) fun a _ _ => negW w.bits a

/-- ABS_S: R106. -/
def execAbsS (w : Width) (p : Pred) (t1 t0 : Target) (s : State) : Out :=
  intElement s (.absS w p t1 t0) fun a _ _ => abssW w.bits a

/-- NEG_S: R106. -/
def execNegS (w : Width) (p : Pred) (t1 t0 : Target) (s : State) : Out :=
  intElement s (.negS w p t1 t0) fun a _ _ => negsW w.bits a

/-- CMP_EQ: R107; the result is 1 or 0. -/
def execCmpEq (w : Width) (p : Pred) (t1 t0 : Target) (s : State) : Out :=
  intElement s (.cmpEq w p t1 t0) fun a b _ => b2n (decide (uv w.bits a = uv w.bits b))

/-- CMP_NE: R107; the result is 1 or 0. -/
def execCmpNe (w : Width) (p : Pred) (t1 t0 : Target) (s : State) : Out :=
  intElement s (.cmpNe w p t1 t0) fun a b _ => b2n (decide (uv w.bits a ≠ uv w.bits b))

/-- CMP_LT: R107; the result is 1 or 0. -/
def execCmpLt (w : Width) (p : Pred) (t1 t0 : Target) (s : State) : Out :=
  intElement s (.cmpLt w p t1 t0) fun a b _ => b2n (decide (sv w.bits a < sv w.bits b))

/-- CMP_LE: R107; the result is 1 or 0. -/
def execCmpLe (w : Width) (p : Pred) (t1 t0 : Target) (s : State) : Out :=
  intElement s (.cmpLe w p t1 t0) fun a b _ => b2n (decide (sv w.bits a ≤ sv w.bits b))

/-- CMP_LTU: R107; the result is 1 or 0. -/
def execCmpLtu (w : Width) (p : Pred) (t1 t0 : Target) (s : State) : Out :=
  intElement s (.cmpLtu w p t1 t0) fun a b _ => b2n (decide (uv w.bits a < uv w.bits b))

/-- CMP_LEU: R107; the result is 1 or 0. -/
def execCmpLeu (w : Width) (p : Pred) (t1 t0 : Target) (s : State) : Out :=
  intElement s (.cmpLeu w p t1 t0) fun a b _ => b2n (decide (uv w.bits a ≤ uv w.bits b))

/-- CMPI_EQ: R107; the result is 1 or 0. -/
def execCmpiEq (w : Width) (p : Pred) (i : BitVec 9) (t0 : Target) (s : State) : Out :=
  intElement s (.cmpiEq w p i t0) fun a _ _ => b2n (decide (uv w.bits a = trunc w.bits i.toInt))

/-- CMPI_NE: R107; the result is 1 or 0. -/
def execCmpiNe (w : Width) (p : Pred) (i : BitVec 9) (t0 : Target) (s : State) : Out :=
  intElement s (.cmpiNe w p i t0) fun a _ _ => b2n (decide (uv w.bits a ≠ trunc w.bits i.toInt))

/-- CMPI_LT: R107; the result is 1 or 0. -/
def execCmpiLt (w : Width) (p : Pred) (i : BitVec 9) (t0 : Target) (s : State) : Out :=
  intElement s (.cmpiLt w p i t0) fun a _ _ => b2n (decide (sv w.bits a < i.toInt))

/-- CMPI_LE: R107; the result is 1 or 0. -/
def execCmpiLe (w : Width) (p : Pred) (i : BitVec 9) (t0 : Target) (s : State) : Out :=
  intElement s (.cmpiLe w p i t0) fun a _ _ => b2n (decide (sv w.bits a ≤ i.toInt))

/-- CMPI_GT: R107; the result is 1 or 0. -/
def execCmpiGt (w : Width) (p : Pred) (i : BitVec 9) (t0 : Target) (s : State) : Out :=
  intElement s (.cmpiGt w p i t0) fun a _ _ => b2n (decide (i.toInt < sv w.bits a))

/-- CMPI_GE: R107; the result is 1 or 0. -/
def execCmpiGe (w : Width) (p : Pred) (i : BitVec 9) (t0 : Target) (s : State) : Out :=
  intElement s (.cmpiGe w p i t0) fun a _ _ => b2n (decide (i.toInt ≤ sv w.bits a))

/-- CMPI_LTU: R107; the result is 1 or 0. -/
def execCmpiLtu (w : Width) (p : Pred) (i : BitVec 9) (t0 : Target) (s : State) : Out :=
  intElement s (.cmpiLtu w p i t0) fun a _ _ => b2n (decide (uv w.bits a < i.toNat))

/-- CMPI_LEU: R107; the result is 1 or 0. -/
def execCmpiLeu (w : Width) (p : Pred) (i : BitVec 9) (t0 : Target) (s : State) : Out :=
  intElement s (.cmpiLeu w p i t0) fun a _ _ => b2n (decide (uv w.bits a ≤ i.toNat))

/-- CMPI_GTU: R107; the result is 1 or 0. -/
def execCmpiGtu (w : Width) (p : Pred) (i : BitVec 9) (t0 : Target) (s : State) : Out :=
  intElement s (.cmpiGtu w p i t0) fun a _ _ => b2n (decide (i.toNat < uv w.bits a))

/-- CMPI_GEU: R107; the result is 1 or 0. -/
def execCmpiGeu (w : Width) (p : Pred) (i : BitVec 9) (t0 : Target) (s : State) : Out :=
  intElement s (.cmpiGeu w p i t0) fun a _ _ => b2n (decide (i.toNat ≤ uv w.bits a))

/-- TEST: R107; the result is 1 or 0. -/
def execTest (w : Width) (p : Pred) (t1 t0 : Target) (s : State) : Out :=
  intElement s (.test w p t1 t0) fun a b _ => b2n (decide (andW w.bits a b ≠ 0))

/-- TEST_Z: R107; the result is 1 or 0. -/
def execTestZ (w : Width) (p : Pred) (t1 t0 : Target) (s : State) : Out :=
  intElement s (.testZ w p t1 t0) fun a b _ => b2n (decide (andW w.bits a b = 0))

/-- SEL: R108; P is data, and True is the test of R98. -/
def execSel (w : Width) (t1 t0 : Target) (s : State) : Out :=
  intElement s (.sel w t1 t0) fun a b c => if isTrue c then uv w.bits a else uv w.bits b

/-- MOV: R108. -/
def execMov (w : Width) (p : Pred) (t1 t0 : Target) (s : State) : Out :=
  intElement s (.mov w p t1 t0) fun a _ _ => uv w.bits a

/-- GENS: R109; L is a trigger. -/
def execGens (i : BitVec 15) (t0 : Target) (s : State) : Out :=
  intElement s (.gens i t0) fun _ _ _ => trunc 64 i.toInt

/-- GENU: R109; L is a trigger. -/
def execGenu (i : BitVec 15) (t0 : Target) (s : State) : Out :=
  intElement s (.genu i t0) fun _ _ _ => i.toNat

/-- APPH: R109. -/
def execApph (i : BitVec 15) (t0 : Target) (s : State) : Out :=
  intElement s (.apph i t0) fun a _ _ => (a.toNat * 2 ^ 15 + i.toNat) % 2 ^ 64

/-- EXTR: R110. -/
def execExtr (w : Width) (p : Pred) (t1 t0 : Target) (s : State) : Out :=
  intElement s (.extr w p t1 t0) fun a b _ => extrW w.bits a b

/-- EXTR_S: R110. -/
def execExtrS (w : Width) (p : Pred) (t1 t0 : Target) (s : State) : Out :=
  intElement s (.extrS w p t1 t0) fun a b _ => extrsW w.bits a b

/-- INSF: R110; P is the field specification. -/
def execInsf (w : Width) (t1 t0 : Target) (s : State) : Out :=
  intElement s (.insf w t1 t0) fun a b c => insfW w.bits a b c

/-- LEA: R111. -/
def execLea (w : Width) (p : Pred) (x : BitVec 2) (t1 t0 : Target) (s : State) : Out :=
  intElement s (.lea w p x t1 t0) fun a b _ => leaW w.bits x.toNat a b

/-- DIV: R112. -/
def execDiv (w : Width) (p : Pred) (t1 t0 : Target) (s : State) : Out :=
  intElement s (.div w p t1 t0) fun a b _ => divS w.bits a b

/-- DIV_U: R112. -/
def execDivU (w : Width) (p : Pred) (t1 t0 : Target) (s : State) : Out :=
  intElement s (.divU w p t1 t0) fun a b _ => Sys2Proof.Machine.divU w.bits a b

/-- REM: R112. -/
def execRem (w : Width) (p : Pred) (t1 t0 : Target) (s : State) : Out :=
  intElement s (.rem w p t1 t0) fun a b _ => remS w.bits a b

/-- REM_U: R112. -/
def execRemU (w : Width) (p : Pred) (t1 t0 : Target) (s : State) : Out :=
  intElement s (.remU w p t1 t0) fun a b _ => Sys2Proof.Machine.remU w.bits a b

end Sys2Proof.Machine
end

