-- ==== Sys2Proof/Machine/Xmss.lean ====
section
/-! DEFINITION. The verification of an XMSS signature with the parameter set XMSS-SHAKE256_20_256 (spec/21_control_cores.md
R384). The spec names the set and its sizes; the algorithm is the one of the standards it cites, RFC 8391, NIST SP 800-208 and
FIPS 202 (PRESUMED, notes/assumptions/7.md). -/

namespace Sys2Proof.Machine

/-! ### SHAKE256 (FIPS 202) -/

/-- A state of 25 lanes from what stands at each (x, y). -/
def lanesOf (f : Nat → Nat → DWord) : List DWord := (List.range 25).map fun i => f (i % 5) (i / 5)

/-- The lane at (x, y), both taken modulo 5. -/
def laneAt (a : List DWord) (x y : Nat) : DWord := (a[x % 5 + 5 * (y % 5)]?).getD 0

/-- The place that the k-th lane turned stands at: the walk of the step rho starts at (1, 0). -/
def rhoPlace : Nat → Nat × Nat
  | 0 => (1, 0)
  | k + 1 => ((rhoPlace k).2, (2 * (rhoPlace k).1 + 3 * (rhoPlace k).2) % 5)

/-- By how much rho turns the lane at (x, y): a triangular number; the lane at (0, 0) stays. -/
def rhoTurn (x y : Nat) : Nat :=
  (((List.range 24).find? fun k => decide (rhoPlace k = (x, y))).map fun k => (k + 1) * (k + 2) / 2 % 64).getD 0

/-- The shift register of the step iota after t steps: powers of x modulo x^8 + x^6 + x^5 + x^4 + 1. -/
def iotaReg : Nat → Nat
  | 0 => 1
  | t + 1 => if iotaReg t < 128 then 2 * iotaReg t else Nat.xor (2 * iotaReg t) 0x171

/-- What iota adds to the lane at (0, 0) in round n: bit 2^j - 1 is the register's output 7 n + j. -/
def iotaWord (n : Nat) : DWord :=
  BitVec.ofNat 64 (((List.range 7).map fun j => iotaReg (7 * n + j) % 2 * 2 ^ (2 ^ j - 1)).sum)

/-- theta: each lane takes the parities of the column before it and, turned by one, of the column after it. -/
def stepTheta (a : List DWord) : List DWord :=
  let parity (x : Nat) : DWord := ((List.range 5).map (laneAt a x)).foldl (fun p v => p ^^^ v) 0
  lanesOf fun x y => laneAt a x y ^^^ parity (x + 4) ^^^ (parity (x + 1)).rotateLeft 1

/-- rho and pi: each lane is turned and moves to (y, 2 x + 3 y). -/
def stepRhoPi (a : List DWord) : List DWord :=
  lanesOf fun x y => (laneAt a (x + 3 * y) x).rotateLeft (rhoTurn ((x + 3 * y) % 5) x)

/-- chi, along a row. -/
def stepChi (a : List DWord) : List DWord :=
  lanesOf fun x y => laneAt a x y ^^^ (laneAt a (x + 2) y &&& ~~~laneAt a (x + 1) y)

/-- One round. -/
def keccakRound (a : List DWord) (n : Nat) : List DWord :=
  match stepChi (stepRhoPi (stepTheta a)) with
  | [] => []
  | v :: vs => (v ^^^ iotaWord n) :: vs

/-- The permutation: 24 rounds. -/
def keccakF (a : List DWord) : List DWord := (List.range 24).foldl keccakRound a

/-- The message with its suffix and padding to blocks of 136 bytes. -/
def shakePad (m : List Byte) : List Byte :=
  let free := 136 - m.length % 136
  m ++ leBytes free (0x1F + 2 ^ (8 * free - 1))

/-- Absorb n blocks. -/
def shakeAbsorb : Nat → List Byte → List DWord → List DWord
  | 0, _, a => a
  | n + 1, m, a =>
    shakeAbsorb n (m.drop 136)
      (keccakF (a.zipIdx.map fun e => if e.2 < 17 then e.1 ^^^ BitVec.ofNat 64 (leNat ((m.drop (8 * e.2)).take 8)) else e.1))

/-- 32 bytes of SHAKE256 of a message. -/
def shake256 (m : List Byte) : List Byte :=
  let p := shakePad m
  ((shakeAbsorb (p.length / 136) p (List.replicate 25 0)).take 4).flatMap fun v => leBytes 8 v.toNat

/-! ### XMSS (RFC 8391, n = 32, w = 16, h = 20) -/

/-- The n bytes of a number, big-endian. -/
def beBytes (n v : Nat) : List Byte := (leBytes n v).reverse

/-- The big-endian number of a list of bytes. -/
def beNat (bs : List Byte) : Nat := leNat bs.reverse

/-- The keyed hash functions: F 0, H 1, H_msg 2, PRF 3. -/
def xmssHash (which : Nat) (key m : List Byte) : List Byte := shake256 (beBytes 32 which ++ key ++ m)

def xorBytes (a b : List Byte) : List Byte := a.zipWith (fun x y => x ^^^ y) b

/-- An address: its type and four words; layer and tree are 0. -/
def xmssAddr (type a b c d : Nat) : List Byte :=
  beBytes 12 0 ++ beBytes 4 type ++ beBytes 4 a ++ beBytes 4 b ++ beBytes 4 c ++ beBytes 4 d

/-- One step of a chain: hash number k of chain i of leaf idx. -/
def chainStep (seed : List Byte) (idx i k : Nat) (x : List Byte) : List Byte :=
  let key := xmssHash 3 seed (xmssAddr 0 idx i k 0)
  let mask := xmssHash 3 seed (xmssAddr 0 idx i k 1)
  xmssHash 0 key (xorBytes x mask)

/-- n steps from hash number k. -/
def chainFrom (seed : List Byte) (idx i : Nat) : Nat → Nat → List Byte → List Byte
  | 0, _, x => x
  | n + 1, k, x => chainFrom seed idx i n (k + 1) (chainStep seed idx i k x)

/-- The randomised hash of two nodes at an address of type t with words a, b, c. -/
def nodeHash (seed : List Byte) (t a b c : Nat) (x y : List Byte) : List Byte :=
  let key := xmssHash 3 seed (xmssAddr t a b c 0)
  let m0 := xmssHash 3 seed (xmssAddr t a b c 1)
  let m1 := xmssHash 3 seed (xmssAddr t a b c 2)
  xmssHash 1 key (xorBytes x m0 ++ xorBytes y m1)

/-- The 67 digits of a message digest with its checksum. -/
def wotsDigits (m : List Byte) : List Nat :=
  let ds := m.flatMap fun b => [b.toNat / 16, b.toNat % 16]
  let c := (ds.map fun d => 15 - d).sum * 16
  ds ++ [c / 4096 % 16, c / 256 % 16, c / 16 % 16]

/-- Node i of a list of 32-byte nodes. -/
def nodeAt (xs : List (List Byte)) (i : Nat) : List Byte := (xs[i]?).getD []

/-- The root of an L-tree. -/
def lTree (seed : List Byte) (idx : Nat) : Nat → Nat → List (List Byte) → List Byte
  | 0, _, xs => nodeAt xs 0
  | n + 1, height, xs =>
    let k := xs.length
    if k ≤ 1 then nodeAt xs 0
    else
      let up := (List.range (k / 2)).map fun i =>
        nodeHash seed 1 idx height i (nodeAt xs (2 * i)) (nodeAt xs (2 * i + 1))
      lTree seed idx n (height + 1) (if k % 2 = 1 then up ++ [nodeAt xs (k - 1)] else up)

/-- Climb the tree from a leaf by its authentication path. -/
def climb (seed : List Byte) : Nat → Nat → List Byte → List (List Byte) → List Byte
  | _, _, node, [] => node
  | idx, height, node, a :: as =>
    let up := if idx % 2 = 0 then nodeHash seed 2 0 height (idx / 2) node a else nodeHash seed 2 0 height (idx / 2) a node
    climb seed (idx / 2) (height + 1) up as

/-- Cut bytes into nodes. -/
def nodesOf (n : Nat) (bs : List Byte) : List (List Byte) := (List.range n).map fun i => (bs.drop (32 * i)).take 32

/-- The leaf index of a signature. -/
def sigIndex (sig : List Byte) : Nat := beNat (sig.take 4)

/-- Whether a signature of a message is valid under a public key of 68 bytes: OID, root, seed. -/
def xmssValid (pk msg sig : List Byte) : Bool :=
  let root := (pk.drop 4).take 32
  let seed := (pk.drop 36).take 32
  let idx := sigIndex sig
  let rnd := (sig.drop 4).take 32
  let digest := xmssHash 2 (rnd ++ root ++ beBytes 32 idx) msg
  let ots := nodesOf 67 (sig.drop 36)
  let pkOts := (wotsDigits digest).zipIdx.map fun d => chainFrom seed idx d.2 (15 - d.1) d.1 (nodeAt ots d.2)
  let leaf := lTree seed idx 8 0 pkOts
  decide (beNat (pk.take 4) = 0x12) && decide (climb seed idx 0 leaf (nodesOf 20 (sig.drop 2180)) = root)

/-- What the check of a signature answers against the key of a slot: 0 valid, 1 invalid, 2 an empty slot or an index beyond the
tree (R384). -/
def xmssCheck (key : Option Nat) (msg sig : List Byte) : Nat :=
  match key with
  | none => 2
  | some k => if 2 ^ 20 ≤ sigIndex sig then 2 else if xmssValid (leBytes 68 k) msg sig then 0 else 1

end Sys2Proof.Machine
end

