-- ==== Sys2Proof/Machine/Module.lean ====
section
/-! DEFINITION. Events of the module: captures and deliveries (spec/08_delay_tables.md R159 to R165, R357), module reset
and bring-up (spec/21_control_cores.md R386, R387, R389), ports and peers (R301, R383), voltage classes (R20), leaky
buckets (R341, R342) and checker mismatches (R357). -/

namespace Sys2Proof.Machine

/-! ### Starts and captures (R49, R159, R161, R165, R357) -/

/-- Whether slot x is deferred and the cycle of its start has come (R159). -/
def startDue (s : State) (x : Nat) : Bool := ((s.slot x).deferred.map fun d => decide (d ≤ s.now)).getD false

/-- Slot x is no longer deferred. -/
def startDeferred (s : State) (x : Nat) : State := s.setSlot x { s.slot x with deferred := none }

/-- DEFERRED_START (R159, R160): in the cycle after its deferral the element fires, from DU 3, on the values held. -/
def execDeferredStart (x : Nat) (s : State) : Out :=
  .next <| if startDue s x then
      let s := startDeferred s x
      { s with agenda := .fire x :: s.agenda }
    else s

/-- Withhold slot x on a record of its held result r (R165, R357): K0 to K3 are those of its firing (R346). -/
def heldFault (s : State) (x : Nat) (r : Result) (code : Nat) (detail : DWord) : State :=
  let t := tileOf x
  match (s.tile t).owner.bind fun o => s.graph? o.1 with
  | none => s
  | some g =>
    raiseFault (s.setSlot x { s.slot x with wh := some s.nextId }) t { tileRec s t g with
      code := code, unit := 0xF, slot := slotNo x, ks := r.ks, detail := detail, stamp := slotStamp s x, src := .held x }

/-- OVERRUN_CAPTURE (R161, R164, R165): a result that missed its cycle is captured one cycle late; a STRICT EAGER
block holds it and raises OVERRUN. -/
def execOverrunCapture (x : Nat) (s : State) : Out :=
  .next <| match (s.slot x).result with
  | none => s
  | some r =>
    if decide (r.kind ≠ .late) || decide (s.now < r.due) then s
    else
      let t := tileOf x
      let ti := s.tile t
      let strict := hdrStrict (cfgHeader ti.cfg) && hdrEager (cfgHeader ti.cfg)
      let rcd := chstRecord s x r ||| if strict then chstStr else 0
      let s := s.setTile t { ti with ovrNow := insertSlot (slotNo x, rcd) ti.ovrNow }
      if strict then
        heldFault (s.setSlot x { s.slot x with result := some { r with kind := .strict } }) x r codeOverrun
          ((rcd ||| chstV) &&& 0xFFFFFFFF#64)
      else deliverResult s x

/-- RESULT_DELIVERY (R49, R154, R357): a result that is due is captured; a repeat that mismatched raises PIPE-ERR;
without a result, the slot's next token in firing order leaves. -/
def execResultDelivery (x : Nat) (s : State) : Out :=
  .next <| match (s.slot x).result with
  | none => emitOut s x
  | some r =>
    if s.now < r.due then s
    else
      match r.kind with
      | .cycles => deliverResult s x
      | .recheck => deliverResult s x
      | .pipeErr =>
        if (s.slot x).wh.isSome then s
        else heldFault s x r codePipeErr (dataOf (((slotInstr s x).bind checkKind).getD 0))
      | .acc => emitOut s x
      | _ => s

/-- CHECKER_MISMATCH (R356, R357): the next checked firing of a slot, or the next K-step of an ME, mismatches; again:
its repeat does too. MEs are numbered 10485760 + 4 x field + m. -/
def execCheckerMismatch (x : Nat) (again : Bool) (s : State) : Out :=
  .next <|
    if x < 10485760 then
      if ((slotInstr s x).bind checkKind).isSome && (s.slot x).result.all (fun r => decide (r.kind = .acc)) then
        s.setSlot x { s.slot x with mismatch := some again }
      else s
    else
      let f := (x - 10485760) / 4
      let m := (x - 10485760) % 4
      if f < 2560 then s.setField f ((s.field f).setMe m { (s.field f).me m with mismatch := some again }) else s

/-! ### Module reset and bring-up (R386, R387, R389) -/

/-- The phase BOOTST holds, and its failure code. -/
def bootPhase (s : State) : Nat := bitsOf s.bootst.toNat 0 8
def bootFail (s : State) : Nat := bitsOf s.bootst.toNat 8 8

/-- Whether bring-up has completed phase p and may go on to the next. -/
def bootAt (s : State) (p : Nat) : Bool := decide (bootPhase s = p) && decide (bootFail s = 0)

/-- Record a phase and its failure code, 0 for none. -/
def bootNote (s : State) (p code : Nat) : State := { s with bootst := BitVec.ofNat 64 (code * 256 + p) }

/-- The synchronisation flit leaves D0 (R387). -/
def sendFlits (s : State) : State :=
  foldState (fun s d => s.setDie d { s.die d with flitAt := some (s.now + Config.hopCycles * dieHops 0 d) }) s (List.range 8)

/-- Whether every die is synchronised. -/
def allSynced (s : State) : Bool := (List.range 8).all fun d => (s.die d).synced

/-- A released core (R389): its listing, pc 0, its registers zero. -/
def releasedCore (words : List Word) : CoreSt :=
  { CoreSt.reset with
    imem := Memory.write [] 0 ((words.flatMap fun w => leBytes 4 w.toNat).take 0x40000), released := true }

/-- A phase of bring-up. -/
def bringUp (s : State) : BringUp → State
  | .reset => { State.reset with turns := s.turns, keys := s.keys }
  | .fuse slot key => if slot < 4 ∧ SMap.find s.keys slot = none then { s with keys := SMap.insert s.keys slot key } else s
  | .firmware image sig =>
    if s.bootst ≠ 0 then s
    else if xmssCheck (SMap.find s.keys 0) image sig = 0 then bootNote s 1 0
    else (bootNote s 1 1).setCore 8 { s.coreSt 8 with stopped := true }
  | .ghl b ok => if bootAt s 1 && decide (b < 10) then bootNote s 2 (if ok then 0 else 0x10 + b) else s
  | .stack h ok => if bootAt s 2 && decide (h < 16) then bootNote s 3 (if ok then 0 else 0x20 + h) else s
  | .sync ok => if bootAt s 3 then (if ok then sendFlits (bootNote s 4 0) else bootNote s 4 0x30) else s
  | .release q core words =>
    let c := 2 * q + core
    if (bootAt s 4 || bootAt s 5) && allSynced s && decide (q < 4 ∧ core < 2) && !(s.coreSt c).released then
      let s := (bootNote s 5 0).setCore c (releasedCore words)
      if core = 0 then modQuarter s q fun a => { a with hb := { a.hb with last := s.now } } else s
    else s
  | .ports => if bootAt s 5 && (List.range 8).all fun c => (s.coreSt c).released then bootNote s 6 0 else s
  | .running =>
    if bootAt s 6 then (bootNote s 7 0).setCore 8 { s.coreSt 8 with released := true } else s

/-- MODULE_RESET (R386, R387, R389). -/
def execModuleReset (a : BringUp) (s : State) : Out := .next (bringUp s a)

/-- Whether the flit reaches die d now. -/
def flitDue (s : State) (d : Nat) : Bool :=
  match (s.die d).flitAt with
  | none => false
  | some t => decide (t ≤ s.now)

/-- GCYC_SYNC_FLIT (R387): the flit arrives at a die, which loads GCYC. -/
def execGcycSyncFlit (s : State) : Out :=
  .next <| match (List.range 8).find? (flitDue s) with
  | none => s
  | some d => s.setDie d { s.die d with
      gcyc := BitVec.ofNat 64 (Config.hopCycles * dieHops 0 d), synced := true, flitAt := none }

/-! ### Ports (R301, R383) -/

/-- Port k of die d. -/
def uePort (s : State) (d k : Nat) : UeSt := SMap.get (s.die d).ue UeSt.reset k

/-- UE_LINK_TRAINING (R383): the outcome of training an enabled port, lane by lane. -/
def execUeLinkTraining (d k : Nat) (lanes : BitVec 8) (s : State) : Out :=
  .next <|
    let u := uePort s d k
    if d < 8 ∧ k < 2 ∧ u.en = true then
      s.setDie d { s.die d with
        ue := SMap.put (s.die d).ue UeSt.reset k { u with lanes := lanes, up := decide (lanes = 0xFF) } }
    else s

/-- UNCORRECTABLE_CODEWORD (R383): FECU counts it. -/
def execUncorrectableCodeword (d k : Nat) (s : State) : Out :=
  .next <|
    let u := uePort s d k
    if d < 8 ∧ k < 2 then
      s.setDie d { s.die d with ue := SMap.put (s.die d).ue UeSt.reset k { u with fecu := u.fecu + 1 } }
    else s

/-- The bytes an inbound access names. -/
def Inbound.span : Inbound → Nat × Nat
  | .read pa n => (pa, n)
  | .write pa n _ _ => (pa, n)
  | .atomic pa _ d _ _ => (pa, wordBytes d)

/-- The pieces of [pa, pa + n), page by page. -/
def pagePieces (pa n : Nat) : List (Nat × Nat) := (cutAt pageSize pa (n + 1) 0 n).map fun c => (pa + c.1, c.2)

/-- Whether an inbound access is one the receiver performs (R301): all of it within the DRAM or tile stores of the port's partition,
off the plane shadows; an atomic is aligned, and FADD acts on a word of 4 bytes; poisoned data goes to DRAM alone (R230). -/
def inboundOk (s : State) (d : Nat) (a : Inbound) : Bool :=
  let p := Inbound.span a
  let lead := leadOf s (quarterOfDie d)
  decide (0 < p.2) &&
    ((pagePieces p.1 p.2).all fun c => inPart s lead c.1 && inPart s lead (c.1 + c.2 - 1) && !inShadow s c.1 c.2) &&
    (match a with
     | .atomic pa o d _ _ => decide (pa % wordBytes d = 0) && !(d && decide (o = .fadd))
     | .write pa n _ psn => !psn || (pagePieces pa n).all fun c => isDram c.1
     | _ => true)

/-- The update of an atomic of a peer (R236, R237). -/
def InOp.amo : InOp → AmoOp
  | .add => .red .add
  | .fadd => .red .fadd
  | .min => .red .min
  | .minU => .red .minU
  | .max => .red .max
  | .maxU => .red .maxU
  | .and => .red .and
  | .or => .red .or
  | .xor => .xor
  | .swap => .swap
  | .cas => .cas

/-- Perform an inbound access at its home. An atomic on a poisoned word has no effect (R230). -/
def inboundPerform (s : State) : Inbound → State
  | .read pa n => foldState (fun s c => (homeTouch s c.1 c.2 false).1) s (pagePieces pa n)
  | .write pa n v psn =>
    foldState (fun s c =>
      homeWrite (homeTouch s c.1 c.2 true).1 c.1 (((leBytes n v).drop (c.1 - pa)).take c.2) psn) s (pagePieces pa n)
  | .atomic pa o d v p =>
    let n := wordBytes d
    match homeTouch s pa n (isDram pa) with
    | (s, true) => s
    | (s, false) =>
      match amoNew (InOp.amo o) (8 * n) (leNat (s.home pa n)) (v.toNat % 2 ^ (8 * n)) (p.toNat % 2 ^ (8 * n)) with
      | none => s
      | some w => homeWrite s pa (leBytes n w) false

/-- INBOUND_REMOTE_ACCESS (R301): an access of a peer arrives at port k of die d; one that names any other address has no
effect, one to a page being converted waits. -/
def execInboundRemoteAccess (d k : Nat) (a : Inbound) (s : State) : Out :=
  let u := uePort s d k
  .next <|
    if d < 8 ∧ k < 2 ∧ u.en = true ∧ u.up = true then
      if !inboundOk s d a || (pagePieces (Inbound.span a).1 (Inbound.span a).2).any fun c => pageBusy s c.1 then s
      else inboundPerform (s.by (portSource (2 * d + k))) a
    else s

/-! ### Voltage classes, leaky buckets -/

/-- VOLTAGE_CLASS_CHANGE (R20): only at a section boundary, so never while a section holds a tile of the field. -/
def execVoltageClassChange (f : Nat) (c : VClass) (s : State) : Out :=
  .next <|
    if 2560 ≤ f ∨ (List.range 64).any fun j => (s.tile (64 * f + j)).owner.isSome then s
    else s.setField f { s.field f with vclass := c }

/-- Whether the leak of bucket kind k of die d falls in this cycle and is still to be applied (R342). -/
def leakDue (s : State) (d k : Nat) : Bool :=
  let v := s.die d
  let n := (leakOf s d k).leak
  v.synced && decide (n ≠ 0) && decide ((v.gcyc.toNat + 1) % n = 0) && decide (SMap.get v.ticked 0 k ≠ s.now + 1)

/-- One drop from each bucket of a table. -/
def leakAll (m : SMap Nat) : SMap Nat := (m.map fun e => (e.1, e.2 - 1)).filter fun e => decide (e.2 ≠ 0)

/-- LEAK_TICK (R342): each bucket of the kind with FILL above 0 loses 1. -/
def execLeakTick (d k : Nat) (s : State) : Out :=
  .next <|
    if !leakDue s d k then s
    else
      let s := modDie s d fun v => { v with ticked := SMap.put v.ticked 0 k (s.now + 1) }
      match k with
      | 0 => modDie s d fun v => { v with dramFill := leakAll v.dramFill }
      | 1 => modDie s d fun v => { v with ghlFill := leakAll v.ghlFill }
      | _ => foldState (fun s e =>
          if e.1 / 320 = d then s.setField e.1 { s.field e.1 with fill := (s.field e.1).fill - 1 } else s) s s.fields

/-- GHL_FLIT_RETRY (R341): a flit of lane k is retried. -/
def execGhlFlitRetry (d k : Nat) (s : State) : Out := .next (if d < 8 ∧ k < 65536 then bucketAdd s d 1 k else s)

end Sys2Proof.Machine
end

