-- ==== Sys2Proof/Machine/Xpyraro.lean ====
section
/-! DEFINITION. The Xpyraro instructions of the control cores (spec/21_control_cores.md R370 to R382, R385), but for
xflt.res (Resolve.lean) and xsig.ver (Xsig.lean). They run on the core whose turn it is, s.core. -/

namespace Sys2Proof.Machine

/-! ### Running one (R368, R370, R371) -/

/-- What an instruction answers: it waits, in the state given (a page is being converted, or a far home owes its response), it traps at
an address, or its result. -/
inductive XRes where
  | wait (s : State)
  | trap (s : State) (cause a : Nat)
  | val (s : State) (v : DWord)
  deriving DecidableEq, Repr

/-- A negative result in two's complement (R371). -/
def xNeg (n : Nat) : DWord := BitVec.ofInt 64 (-(n : Int))

/-- The instruction word, which mtval holds for cause 2. -/
def xWord (i : Instr) : DWord := ((encode i).getD 0).setWidth 64

/-- Run an Xpyraro instruction on the core whose turn it is; ok says whether that core may execute it. -/
def xRun (s : State) (i : Instr) (rd : BitVec 5) (ok : Bool) (r : XRes) : Out :=
  let c := s.core
  .next <|
    if !coreRuns s c || coreInterrupted s c then s
    else if !ok then takeTrap s c 2 (xWord i)
    else
      match r with
      | .wait s' => s'
      | .trap s' cause a => takeTrap s' c cause (BitVec.ofNat 64 a)
      | .val s' v => s'.setCore c (((s'.coreSt c).setReg rd v).retire 4)

/-- A register of the core whose turn it is. -/
def xReg (s : State) (r : BitVec 5) : DWord := (s.coreSt s.core).reg r

/-- Its quarter. -/
def xQuarter (s : State) : Nat := s.core / 2

/-- The scheduler of its quarter executes the instruction (R370). -/
def xSched (s : State) : Bool := isScheduler s s.core

/-- The quarter and number of the queue a selector names, in the core's partition (R371). -/
def xQueue (s : State) (v : Nat) : Option (Nat × Nat) :=
  let q := bitsOf v 6 2
  if samePart s (xQuarter s) q then some (q, bitsOf v 0 6) else none

/-- n bytes read at a physical address by the core. -/
def xRead (s : State) (a n : Nat) (k : State → List Byte → XRes) : XRes :=
  match coreLoad s s.core a n .clean with
  | .wait s' => .wait s'
  | .trap s' cause => .trap s' cause a
  | .ok s' v => k s' (leBytes n v)

/-! ### Queues (R372, R373) -/

/-- Push the record read, and clear the kick (R372). -/
def xPush (s : State) (q n : Nat) (kick : Bool) (rcd : List Byte) : XRes :=
  let l := s.lq q n
  let map := 8 * (s.quarter q).kmapa.toNat
  if !l.room (recEntries rcd) then .val s (xNeg 1)
  else if anyBusy s (l.entry l.tail.toNat) 128 || anyBusy s (l.entry (ringNext l.nent l.tail 1).toNat) 128
      || (kick && anyBusy s map 8) then .wait s
  else
    let s' := lqPush s q n rcd (coreStamp s s.core)
    let s' := if kick then
        (let r := readOwn s' q map 8
         writeEntry r.1 q map (leBytes 8 (Nat.land (leNat r.2.1) (2 ^ 64 - 1 - 2 ^ n))))
      else s'
    .val s' (l.tail.setWidth 64)

/-- XLNCH's effect. -/
def xLaunch (s : State) (a b : DWord) : XRes :=
  let kick := b.getLsbD 8
  if bitsOf b.toNat 9 55 ≠ 0 then .val s (xNeg 4)
  else
    match xQueue s b.toNat with
    | none => .val s (xNeg 3)
    | some (q, n) =>
      let l := s.lq q n
      let src := if kick then l.kick else a.toNat
      if src % 128 ≠ 0 ∨ (kick = true ∧ (s.quarter q).kmapa = 0) then .val s (xNeg 4)
      else if !l.en then .val s (xNeg 2)
      else
        xRead s src 128 fun s r =>
          if 12 < recNarg r then xRead s (src + 128) 128 fun s r2 => xPush s q n kick (r ++ r2)
          else xPush s q n kick r

/-- XLNCH (R372). With KICK = 1, rs1 must be x0. -/
def execXlnch (rd rs1 rs2 : BitVec 5) (s : State) : Out :=
  xRun s (.xlnch rd rs1 rs2) rd (xSched s && !((xReg s rs2).getLsbD 8 && decide (rs1 ≠ 0)))
    (xLaunch s (xReg s rs1) (xReg s rs2))

/-- XKSCAN's effect (R373). A poisoned map traps, as a poisoned load does (R368). -/
def xScan (s : State) (a : DWord) : XRes :=
  let map := 8 * (s.quarter (xQuarter s)).kmapa.toNat
  if map = 0 then .val s (xNeg 4)
  else if anyBusy s map 8 then .wait s
  else
    let r := readOwn s (xQuarter s) map 8
    let w := leNat r.2.1
    if r.2.2 then .trap r.1 25 map
    else .val r.1 (match ((List.range 64).map fun i => (a.toNat + i) % 64).find? fun i => bitOf w i with
      | some i => BitVec.ofNat 64 i
      | none => xNeg 1)

/-- XKSCAN (R373). -/
def execXkscan (rd rs1 : BitVec 5) (s : State) : Out :=
  xRun s (.xkscan rd rs1) rd (xSched s) (xScan s (xReg s rs1))

/-- XQPRI's effect (R373, R321). -/
def xPriority (s : State) (a b : DWord) : XRes :=
  match xQueue s a.toNat with
  | none => .val s (xNeg 3)
  | some (q, n) =>
    let l := s.lq q n
    if bitsOf b.toNat 4 60 ≠ 0 then .val s (xNeg 4)
    else if !l.en || decide (l.used = 0) then .val s (xNeg 1)
    else .val (wantPass (s.setLq q n { l with hpri := b.extractLsb' 0 4 }) q) (l.hpri.setWidth 64)

/-- XQPRI (R373). -/
def execXqpri (rd rs1 rs2 : BitVec 5) (s : State) : Out :=
  xRun s (.xqpri rd rs1 rs2) rd (xSched s) (xPriority s (xReg s rs1) (xReg s rs2))

/-- XQSTAT's fields (R373). -/
def xQueueStatus (s : State) (q n : Nat) : DWord :=
  let l := s.lq q n
  BitVec.ofNat 64 (b2n l.en * 2 ^ 63
    + b2n (s.graphs.any fun g => decide (g.qtr = q ∧ g.lq = n)) * 2 ^ 62
    + b2n ((s.quarter q).restarts.any fun r => decide (r.lq = n)) * 2 ^ 61
    + b2n l.blk * 2 ^ 60 + l.byp % 16 * 2 ^ 56 + l.hpri.toNat * 2 ^ 52 + l.tail.toNat * 2 ^ 12 + l.head.toNat)

/-- XQSTAT's effect (R373). -/
def xStatus (s : State) (a : DWord) : XRes :=
  match xQueue s a.toNat with
  | none => .val s (xNeg 3)
  | some (q, n) => .val s (xQueueStatus s q n)

/-- XQSTAT (R373): the SC or the SB. -/
def execXqstat (rd rs1 : BitVec 5) (s : State) : Out :=
  xRun s (.xqstat rd rs1) rd (decide (s.core < 8)) (xStatus s (xReg s rs1))

/-- XJNL_W's effect (R317, R373). -/
def xJournal (s : State) (a : DWord) : XRes :=
  let q := xQuarter s
  let v := s.quarter q
  let r := v.jnp
  let dst := 64 * v.jnb.toNat + 32 * r.tail.toNat
  if !r.en || decide (r.nent.toNat ≤ ringUsed r.head r.tail r.nent) then .val s (xNeg 1)
  else if a.toNat % 32 ≠ 0 then .trap s 4 a.toNat
  else if anyBusy s dst 32 then .wait s
  else
    xRead s (a.toNat + 12) 20 fun s' bs =>
      let s' := writeEntry s' q dst (leBytes 12 (coreStamp s s.core).toNat ++ bs)
      .val (modQuarter s' q fun u => { u with jnp := { u.jnp with tail := ringNext u.jnp.nent u.jnp.tail 1 } }) 0

/-- XJNL_W (R373). -/
def execXjnlW (rd rs1 : BitVec 5) (s : State) : Out :=
  xRun s (.xjnlW rd rs1) rd (xSched s) (xJournal s (xReg s rs1))

/-! ### Faults (R374) -/

/-- XFLT_POP's effect (R374): the oldest record leaves FBUF, then held faults are posted (R331). A destination outside the
partition's DRAM and tile stores traps with cause 7, register space too (DESIGN CHOICE, notes/assumptions/28.md). -/
def xPop (s : State) (a : DWord) : XRes :=
  let q := xQuarter s
  match (s.quarter q).fbuf with
  | [] => .val s (xNeg 1)
  | r :: rs =>
    if a.toNat % 64 ≠ 0 then .trap s 6 a.toNat
    else if !coreHome s s.core a.toNat 64 then .trap s 7 a.toNat
    else if anyBusy s a.toNat 64 then .wait s
    else
      let s' := homePut (markAt s (.faults q) 1) a.toNat r.toBytes
      let s' := modQuarter s' q fun v => { v with
        fbuf := v.fbuf.drop 1, popped := if outstandingRec r || lateRec r then v.popped ++ [r] else v.popped }
      .val (repost s' q) (BitVec.ofNat 64 rs.length)

/-- XFLT_POP (R374): the scheduler of the lead quarter. -/
def execXfltPop (rd rs1 : BitVec 5) (s : State) : Out :=
  xRun s (.xfltPop rd rs1) rd (xSched s && decide (leadOf s (xQuarter s) = xQuarter s)) (xPop s (xReg s rs1))

/-! ### Heartbeat and take-over (R377, R378) -/

/-- XHBT's effect (R377): an acknowledgement posts the completions that were held. -/
def xBeat (s : State) (a : DWord) : State :=
  let q := xQuarter s
  let h := (s.quarter q).hb
  if bitsOf a.toNat 1 63 ≠ 0 ∨ h.lapse = true then s
  else
    let free := h.hold && a.getLsbD 0
    let s := modQuarter s q fun v => { v with hb := { v.hb with last := s.now, hold := v.hb.hold && !a.getLsbD 0 } }
    if free then freeHeld s q else s

/-- XHBT (R377): it has no rd. -/
def execXhbt (rs1 : BitVec 5) (s : State) : Out :=
  xRun s (.xhbt rs1) 0 (xSched s) (.val (xBeat s (xReg s rs1)) 0)

/-- XTAKE's effect (R378). -/
def xTakeOver (s : State) : XRes :=
  let q := xQuarter s
  let h := (s.quarter q).hb
  if h.lapse && !h.owner then
    .val (modQuarter s q fun v => { v with hb := { v.hb with owner := true, lapse := false, last := s.now } }) 0
  else .val s 1

/-- XTAKE (R378): the SB. -/
def execXtake (rd : BitVec 5) (s : State) : Out :=
  xRun s (.xtake rd) rd (decide (s.core < 8 ∧ s.core % 2 = 1)) (xTakeOver s)

/-! ### Partitions (R379 to R382) -/

/-- The quarters of a mask. -/
def maskQuarters (m : Nat) : List Nat := [0, 1, 2, 3].filter fun q => bitOf m q

/-- A mask of R379: not zero, the core's quarter in it, no other bits. -/
def xMask (s : State) (a : DWord) : Option (List Nat) :=
  if bitsOf a.toNat 4 60 = 0 ∧ bitOf a.toNat (xQuarter s) = true then some (maskQuarters a.toNat) else none

/-- Whether queue n of quarter q is busy (R379): a graph of it is admitted or restarts, or a record of it is in FBUF or
held. -/
def queueBusy (s : State) (q n : Nat) : Bool :=
  let v := s.quarter (leadOf s q)
  (s.graphs.any fun g => decide (g.qtr = q ∧ g.lq = n)) || ((s.quarter q).restarts.any fun r => decide (r.lq = n)) ||
    ((v.fbuf ++ v.held).any fun r => decide (r.qtr = q ∧ r.lq = n ∧ r.kind ≠ 1))

/-- busy of R379. -/
def busyQueues (s : State) (qs : List Nat) : Nat :=
  (List.range 64).foldl (fun b n => b + if qs.any fun q => queueBusy s q n then 2 ^ n else 0) 0

/-- Note the check of a quiesce: it sees the machine as its cycle began, before passes, releases, and records that leave or enter
FBUF (R379, R391). -/
def markCheck (s : State) (q : Nat) : State :=
  markAt (markAt s (.partition (leadOf s q)) 0) (.faults (leadOf s q)) 0

/-- XPART_QSC's effect (R379, R391). It waits while a pass is in progress. -/
def xQuiesce (s : State) (a : DWord) : XRes :=
  match xMask s a with
  | none => .val s (xNeg 1)
  | some qs =>
    let u := foldState markCheck s qs
    let busy := busyQueues u qs
    if qs.any fun q => (s.quarter (leadOf s q)).placing.isSome then .wait s
    else if busy ≠ 0 then .val u (BitVec.ofNat 64 busy)
    else .val (foldState (fun s q => modQuarter s q fun v => { v with hb := { v.hb with qsc := true } }) u qs) 0

/-- XPART_QSC (R379). -/
def execXpartQsc (rd rs1 : BitVec 5) (s : State) : Out :=
  xRun s (.xpartQsc rd rs1) rd (xSched s) (xQuiesce s (xReg s rs1))

/-- XPART_IL's effect (R380, R197). -/
def xStageIl (s : State) (a b : DWord) : XRes :=
  let q := bitsOf a.toNat 0 2
  if (s.quarter q).hb.qsc = false ∨ bitsOf b.toNat 3 61 ≠ 0 ∨ bitsOf b.toNat 0 2 = 3 then .val s 1
  else .val (modQuarter s q fun v => { v with staged := (some b, v.staged.2) }) 0

/-- XPART_IL (R380). -/
def execXpartIl (rd rs1 rs2 : BitVec 5) (s : State) : Out :=
  xRun s (.xpartIl rd rs1 rs2) rd (xSched s) (xStageIl s (xReg s rs1) (xReg s rs2))

/-- Whether a reserved bit of BND.n is set (R199). -/
def bndReserved (n v : Nat) : Bool :=
  if n % 2 = 0 then decide (bitsOf v 8 56 ≠ 0) else decide (bitsOf v 48 16 ≠ 0 ∨ bitsOf v 1 16 ≠ 0)

/-- XPART_BND's effect (R380, R199). -/
def xStageBnd (s : State) (a b : DWord) : XRes :=
  let n := bitsOf a.toNat 0 3
  let q := n / 2
  if (s.quarter q).hb.qsc = false ∨ bndReserved n b.toNat = true then .val s 1
  else
    .val (modQuarter s q fun v => { v with
      staged := if n % 2 = 0 then (v.staged.1, some b, v.staged.2.2) else (v.staged.1, v.staged.2.1, some b) }) 0

/-- XPART_BND (R380). -/
def execXpartBnd (rd rs1 rs2 : BitVec 5) (s : State) : Out :=
  xRun s (.xpartBnd rd rs1 rs2) rd (xSched s) (xStageBnd s (xReg s rs1) (xReg s rs2))

/-- Empty the TLB slices, with the misses they have in hand, and the translation latches of quarters' fields (R184, R310): an
access that waited for a walk asks anew. -/
def emptyTranslations (s : State) (qs : List Nat) : State :=
  let s := foldState (fun s e =>
    if qs.contains (e.1 / 640) then s.setField e.1 { s.field e.1 with tlb := [], walks := [] } else s) s s.fields
  foldState (fun s e =>
    if qs.contains (e.1 / 40960) then s.setTile e.1 { s.tile e.1 with xlat := [] } else s) s s.tiles

/-- XPART_SD's effect (R381). -/
def xShoot (s : State) (a : DWord) : XRes :=
  let qs := maskQuarters a.toNat
  if bitsOf a.toNat 4 60 ≠ 0 ∨ qs = [] then .val s (xNeg 1)
  else if qs.any fun q => !samePart s (xQuarter s) q then .val s (xNeg 3)
  else .val (emptyTranslations s qs) 0

/-- XPART_SD (R381). -/
def execXpartSd (rd rs1 : BitVec 5) (s : State) : Out :=
  xRun s (.xpartSd rd rs1) rd (xSched s) (xShoot s (xReg s rs1))

/-- The registers of a quarter once its staged copies are active (R197, R199). -/
def QuarterSt.committed (v : QuarterSt) : PartReg :=
  let p := v.active
  let p := match v.staged.1 with
    | some w => { p with ilv := w.extractLsb' 0 3 }
    | none => p
  let p := match v.staged.2.1 with
    | some w => { p with opens := w.extractLsb' 4 4, lead := w.getLsbD 3, part := w.extractLsb' 0 3 }
    | none => p
  match v.staged.2.2 with
  | some w => { p with root := w.extractLsb' 17 31, rootV := w.getLsbD 0 }
  | none => p

/-- The registers each quarter would hold after a commit of qs. -/
def afterCommit (s : State) (qs : List Nat) (q : Nat) : PartReg :=
  if qs.contains q then (s.quarter q).committed else (s.quarter q).active

/-- The quarters of partition p (R14). -/
def partitionSet : Nat → List Nat
  | 0 => [0]
  | 1 => [1]
  | 2 => [2]
  | 3 => [3]
  | 4 => [0, 1]
  | 5 => [2, 3]
  | 6 => [0, 1, 2, 3]
  | _ => []

/-- The quarter beyond an edge of a quarter, by its OPEN bit: 0 west, 1 south, 2 east, 3 north (R12, R199). -/
def quarterBeyond (q e : Nat) : Option Nat :=
  match q, e with
  | 0, 2 => some 1
  | 0, 1 => some 2
  | 1, 0 => some 0
  | 1, 1 => some 3
  | 2, 3 => some 0
  | 2, 2 => some 3
  | 3, 3 => some 1
  | 3, 0 => some 2
  | _, _ => none

/-- Refusal 2 of R382: the partitions, their leads and their interleaving. -/
def partitionsOk (r : Nat → PartReg) (qs : List Nat) : Bool :=
  ([0, 1, 2, 3].all fun q =>
    decide (([0, 1, 2, 3].filter fun k => decide ((r k).part = (r q).part)) = partitionSet (r q).part.toNat)) &&
  qs.all fun q =>
    let set := partitionSet (r q).part.toNat
    let first := set.head?.getD q
    let ways := (r first).ilv.toNat % 4
    set.all (fun k => qs.contains k) && set.all (fun k => (r k).lead == decide (k = first)) &&
      decide (ways ≠ 3) && (decide (ways ≠ 1) || decide (2 ≤ set.length)) && (decide (ways ≠ 2) || decide (set.length = 4))

/-- Refusal 3 of R382: OPEN matches across the inner edges of a partition, and is 0 at its outer edges. -/
def opensOk (r : Nat → PartReg) (qs : List Nat) : Bool :=
  qs.all fun q => [0, 1, 2, 3].all fun e =>
    match quarterBeyond q e with
    | some k =>
      if (r k).part = (r q).part then (r q).opens.getLsbD e == (r k).opens.getLsbD ((e + 2) % 4) else !(r q).opens.getLsbD e
    | none => !(r q).opens.getLsbD e

/-- One quarter's staged copies become active, and its quiesce ends. -/
def commitQuarter (s : State) (q : Nat) : State :=
  modQuarter s q fun v => { v with
    active := v.committed, staged := (none, none, none), hb := { v.hb with qsc := false }, pass := none, placing := none }

/-- Completions that still wait in quarters qs go to the lead of their queue's partition, whose ring takes them (R382). -/
def moveCompl (s : State) (qs : List Nat) : State :=
  let cs := qs.flatMap fun q => (s.quarter q).compl
  foldState (fun s q => modQuarter s q fun v => { v with compl := cs.filter fun c => leadOf s c.qtr = q }) s qs

/-- Quarters commit (R382): the lines of the second-level caches whose bytes come to have another home are written back and leave
(R209). -/
def commitQuarters (s : State) (qs : List Nat) : State :=
  let t := foldState commitQuarter s qs
  let moves (l : L2Line) : Bool := decide (locOf s l.base ≠ locOf t l.base)
  let s := foldState l2WriteBack s (((List.range 8).flatMap fun d => (s.die d).l2.flatMap (·.2)).filter moves)
  foldState (fun s d =>
    if (s.die d).l2.any fun e => e.2.any moves then
      s.setDie d { s.die d with l2 := (s.die d).l2.foldl (fun m e => SMap.put m [] e.1 (e.2.filter fun l => !moves l)) (s.die d).l2 }
    else s)
    (foldState commitQuarter s qs) (List.range 8)

/-- XPART_COMMIT's effect (R382, R390). -/
def xCommit (s : State) (a : DWord) : XRes :=
  match xMask s a with
  | none => .val s (xNeg 1)
  | some qs =>
    let r := afterCommit s qs
    if qs.any fun q => !(s.quarter q).hb.qsc then .val s 1
    else if !partitionsOk r qs then .val s 2
    else if !opensOk r qs then .val s 3
    else
      let s := moveCompl (emptyTranslations (commitQuarters s qs) qs) qs
      .val (foldState (fun s q => modQuarter s (leadOf s q) fun v => { v with pass := some (s.now + 1) }) s qs) 0

/-- XPART_COMMIT (R382). -/
def execXpartCommit (rd rs1 : BitVec 5) (s : State) : Out :=
  xRun s (.xpartCommit rd rs1) rd (xSched s) (xCommit s (xReg s rs1))

/-! ### Counters (R385) -/

/-- What XRD_CNT reads. The MGC has no quarter: selectors 1 to 3 give it 0 (notes/assumptions/4.md). -/
def xCounter (s : State) (sel : Nat) : DWord :=
  let q := xQuarter s
  let lead := s.quarter (leadOf s q)
  if sel = 0 then (s.die (coreDie s.core)).gcyc
  else if s.core = 8 then 0
  else if sel = 1 then lead.fbstat
  else if sel = 2 then BitVec.ofNat 64 (ringUsed lead.crp.head lead.crp.tail lead.crp.nent)
  else if sel = 3 then BitVec.ofNat 64 ((s.now - (s.quarter q).hb.last) / Config.usCycles)
  else 0

/-- XRD_CNT (R385): any core. -/
def execXrdCnt (rd rs1 : BitVec 5) (s : State) : Out :=
  xRun s (.xrdCnt rd rs1) rd true (.val s (xCounter s (xReg s rs1).toNat))

end Sys2Proof.Machine
end

