-- ==== Sys2Proof/Machine/Resolve.lean ====
section
/-! DEFINITION. The resolution of a fault record (spec/20_faults.md R349, spec/21_control_cores.md R375): what RETRY, SKIP
and KILL do to the slot, access, command, node or section that withholds. -/

namespace Sys2Proof.Machine

/-! ### The tokens a skipped instruction emits (R349) -/

/-- A poisoned token of a kind with payload n. -/
def psnTok (k : Kind) (n : Nat) : Token := { kind := k, data := dataOf n, psn := true }

/-- The kind of the token an instruction emits. -/
def emitKind : Instr → Kind
  | .eos _ _ _ | .eosI _ _ _ => .eos
  | .eot _ _ _ | .eotI _ _ _ => .eot
  | .mark _ _ _ | .markI _ _ _ => .ord
  | .st _ _ _ _ | .stb _ _ | .pst _ _ _ | .redAdd _ _ _ _ | .redFadd _ _ _ | .redMin _ _ _ _ _ | .redMax _ _ _ _ _
  | .redAnd _ _ _ _ | .redOr _ _ _ _ | .flush _ _ _ _ | .fenceF _ _ | .fenceD _ _ | .fenceP _ _ | .fenceS _ _
  | .acqX _ _ _ | .acqS _ _ _ | .rel _ _ _ | .qfence _ _ _ | .sysWr _ _ _ | .sysWrA _ _ _ _ | .ctnOpen _ _
  | .ctnClose _ _ => .ord
  | _ => .data

/-- A burst of n DATA tokens, then an EOS with its payload where one is appended. -/
def psnBurst (n : Nat) (eos : Bool) (payload : Nat) : List Token :=
  List.replicate n (psnTok .data 0) ++ if eos then [psnTok .eos payload] else []

/-- The tokens of a skipped firing or command of field f with the data of L, R and P. -/
def skipTokens (s : State) (f : Nat) (i : Instr) (l r p : Nat) : List Token :=
  match i with
  | .pref _ _ _ | .halt _ | .nop | .facc _ _ _ | .iacc _ _ _ _ => []
  | .ldb _ eos _ _ _ =>
    let n := r % 8192
    if 1 ≤ n ∧ n ≤ 4096 then psnBurst ((n + 7) / 8) eos n else psnBurst 1 eos 0
  | .wlkGo eos _ _ =>
    let n := bitsOf p 16 8 + 1
    psnBurst n eos n
  | .mxEpi false m _ _ =>
    let n := bitsOf l 11 5 + 1
    let rb := runBytes (cfgO ((s.field f).me m.toNat).cfg)
    psnBurst (n * ((rb + 7) / 8)) (bitOf l 28) (n * rb)
  | _ => [psnTok (emitKind i) 0]

/-! ### Firings (R349, R362) -/

/-- A slot no longer withholds. -/
def freeSlot (s : State) (x : Nat) : State := s.setSlot x { s.slot x with wh := none }

/-- Whether an instruction is a router operator with a control input. -/
def hasControl : Instr → Bool
  | .steer _ _ | .merge _ _ | .carry _ _ | .carryI _ _ | .invar _ _ | .gate _ _ => true
  | _ => false

def isStb : Instr → Bool
  | .stb _ _ => true
  | _ => false

/-- The data at the heads of a slot's latches. -/
def headData (s : State) (x : Nat) (p : Pos) : Nat := ((headAt s x p).map fun e => e.tok.data.toNat).getD 0

/-- Skip the firing that withholds in slot x. -/
def skipFiring (s : State) (x code : Nat) : State :=
  match slotInstr s x with
  | none => s
  | some i =>
    let read := (latchesRead i).filter fun p => (headAt s x p).isSome
    if hasControl i then s.setSlot x { s.slot x with hold := { (s.slot x).hold with psn := true } }
    else if isStb i then emitSkip (noteFiring (consumeAll s x [.l, .p]) x) x i [psnTok .ord 0]
    else if code = codeStreamSkew then
      let data := read.filter fun p => ((headAt s x p).map fun e => decide (e.tok.kind = .data)).getD false
      noteFiring (consumeAll s x data) x
    else
      let toks := skipTokens s (fieldOf x) i (headData s x .l) (headData s x .r) (headData s x .p)
      emitSkip (noteFiring (consumeAll s x read) x) x i toks

/-- Resolve a firing: the record of TRAP itself completes it (R362), any other is taken again or skipped. -/
def resolveFiring (s : State) (x code : Nat) (skip : Bool) : State :=
  let s := freeSlot s x
  match slotInstr s x with
  | none => s
  | some i => if isTrap i && decide (code = codeTrap) then completeTrap s x i else if skip then skipFiring s x code else s

/-! ### Accesses (R180) -/

/-- Forget the remote parts of an access that are still in flight. -/
def forgetRemotes (s : State) (x k : Nat) : State :=
  { s with remotes := s.remotes.filter fun r => decide (r.x ≠ x ∨ r.acc ≠ k) }

/-- Forget the translation of a page in the slice that owns it, so that the next access to it walks anew (R180). -/
def forgetPage (s : State) (lead va : Nat) : State :=
  let o := sliceOwner s lead (vpnOf va)
  let f := s.field o
  s.setField o { f with tlb := f.tlb.filter fun e => decide (e.2.vpn ≠ vpnOf va) }

/-- Forget what a port's latch holds. -/
def forgetLatch (s : State) (x : Nat) : State :=
  let t := s.tile (tileOf x)
  s.setTile (tileOf x) { t with xlat := SMap.erase t.xlat (portOfSlot x) }

/-- Resolve access k of slot x: a new walk, or its poisoned tokens. -/
def resolveAccess (s : State) (x k : Nat) (skip : Bool) : State :=
  let s := forgetRemotes (freeSlot s x) x k
  match (s.slot x).accs.find? fun a => a.id == k with
  | none => s
  | some a =>
    if skip then
      let f := fieldOf x
      let fs := s.field f
      let s := s.setField f { fs with slds := fs.slds.filter fun c => c.id ≠ k }
      finishAccess s x k (skipTokens s f a.i a.va.toNat a.data.toNat a.p.toNat)
    else setAccess (forgetLatch s x) x { a with parts := none, held := false }

/-! ### Commands (R254, R271) -/

/-- The command with an identifier on a field's bus or in its queues. -/
def findCmd (s : State) (f k : Nat) : Option Cmd :=
  let fs := s.field f
  (fs.bus ++ fs.queues.flatMap (·.2)).find? fun c => c.id == k

/-- A channel that stopped on a fault: it starts its record again, or is idle (R269, R271). -/
def resumeChan (s : State) (f q : Nat) (skip : Bool) : State :=
  if 5 ≤ q ∧ q < 9 then
    let v := (s.field f).chan (q - 5)
    if v.st = 3 then s.setChan f (q - 5) { v with st := if skip then 0 else 1, read := none } else s
  else s

/-- Resolve command k in queue q of field f. -/
def resolveCommand (s : State) (f q k : Nat) (skip : Bool) : State :=
  match findCmd s f k with
  | none => s
  | some c =>
    let s := resumeChan (freeSlot s c.x) f q skip
    if skip then performedAll s f c (skipTokens s f c.i c.l.toNat c.r.toNat c.p.toNat)
    else modCmd s f k retryCmd

/-! ### Held results, nodes, the watchdog -/

/-- Resolve a held result: an overrun is emitted, a repeat that failed is computed again or its token poisoned. -/
def resolveHeld (s : State) (x code : Nat) (skip : Bool) : State :=
  let s := freeSlot s x
  match (s.slot x).result with
  | none => s
  | some r =>
    if code = codeOverrun then deliverResult s x
    else if skip then
      s.setSlot x { s.slot x with
        result := some { r with kind := .cycles, tok := psnTok r.tok.kind 0, flags := 0, due := s.now } }
    else s.setSlot x { s.slot x with result := some { r with kind := .recheck, due := s.now + 1 } }

/-- Resolve a COND's poisoned predicate (R31). -/
def resolveCond (s : State) (g n : Nat) (skip : Bool) : State :=
  match s.graph? g with
  | none => s
  | some a =>
    match a.node? n with
    | none => s
    | some nd =>
      match nd.st with
      | .cond pred => if skip then finishNode s g n (some (psnTok .data 0)) else condChoose s a nd pred
      | _ => s

/-- Resolve a watchdog's record: the period starts again (R359). -/
def resolveWatchdog (s : State) (g n : Nat) : State :=
  let period := (((s.graph? g).map fun a => (s.quarter a.lead).wdog)).getD 0
  s.modSection g n fun c => { c with progress := s.now, period := period, barked := false }

/-- Retry or skip what withholds on a record. -/
def retryOrSkip (s : State) (r : FRec) (skip : Bool) : State :=
  let s :=
    if isTransCode r.code then forgetPage s (leadOf s (quarterOfDie (dieOfTile r.tileNo))) r.va.toNat else s
  match r.src with
  | .none => s
  | .firing x => resolveFiring s x r.code skip
  | .access x k => resolveAccess s x k skip
  | .command f q k => resolveCommand s f q k skip
  | .held x => resolveHeld s x r.code skip
  | .cond g n => resolveCond s g n skip
  | .spawn g n => if skip then finishNode s g n none else s
  | .watchdog g n => resolveWatchdog s g n

/-! ### XFLT_RES (R375) -/

/-- A record is resolved: it awaits resolution no more. -/
def retireRec (s : State) (lead rid : Nat) : State :=
  modQuarter s lead fun v => { v with
    fbuf := v.fbuf.map fun r => if r.rid = rid then { r with void := true } else r
    popped := v.popped.filter fun r => r.rid ≠ rid }

/-- The time limit of the section of a translation record has expired (R181). -/
def recExpired (s : State) (lead : Nat) (r : FRec) : Bool :=
  let timed : Bool := match r.src with
    | .firing _ | .access _ _ | .command _ _ _ => true
    | _ => false
  isTransCode r.code && timed &&
    (match s.graph? r.graph with
     | none => false
     | some a => a.nodes.any fun n =>
       match nodeSection n with
       | none => false
       | some c => c.tiles.contains r.tileNo && ((sectionDeadline s lead a.id c).map fun d => decide (d ≤ s.now)).getD false)

/-- Note a resolution: those of one record take place in the order of the cores (R349). -/
def markResolve (s : State) (r : FRec) : State := markAt s (.record r.rid) (coreSource s.core).toNat

/-- The register that takes the answer of the instruction at work: rd of the word at the core's pc. -/
def coreRd (s : State) : BitVec 5 :=
  match coreFetch (s.coreSt s.core) with
  | .word (some w) _ _ => w.extractLsb' 7 5
  | _ => 0

/-- The FID of a record that is resolved is kept by its source: a RETRY that faults again posts another (R349). -/
def noteRetry (s : State) (lead : Nat) (r : FRec) : State :=
  modQuarter s lead fun v => { v with retried := v.retried.filter (fun e => decide (e.1 ≠ r.src)) ++ [(r.src, r.fid)] }

/-- What withholds on record r is retried, or skipped, as the cycle ends. -/
def resolveSource (s : State) (r : FRec) (skip : Bool) : State :=
  { s with resolves := s.resolves ++ [{ entry := r, skip := skip, core := s.core, rd := coreRd s }] }

/-- Whether what withheld on a record still does: it has not been discarded by a kill of its graph (R351). -/
def stillWithholds (s : State) (r : FRec) : Bool :=
  let node (g n : Nat) : Bool := ((s.graph? g).bind fun a => a.node? n).isSome
  match r.src with
  | .none => true
  | .firing _ | .access _ _ | .command _ _ _ | .held _ => s.slots.any fun e => decide (e.2.wh = some r.rid)
  | .cond g n | .spawn g n | .watchdog g n => node g n

/-- A resolution takes effect; one that a kill of the graph has overtaken in its cycle has none, and its core's answer is 1: the
record is VOID (R351, R375). -/
def settleResolution (s : State) (a : Resolution) : State :=
  if stillWithholds s a.entry then retryOrSkip s a.entry a.skip else s.setCore a.core ((s.coreSt a.core).setReg a.rd 1)

/-- The resolutions of the cycle that ends. -/
def resolveEdge (s : State) : State := foldState settleResolution { s with resolves := [] } s.resolves

/-- XFLT_RES's effect (R375). -/
def xResolve (s : State) (a b : DWord) : XRes :=
  let lead := leadOf s (xQuarter s)
  let v := s.quarter lead
  if 65536 ≤ a.toNat ∨ 3 ≤ b.toNat then .val s 3
  else
    match (v.fbuf ++ v.popped).find? fun r => outstandingRec r && decide (r.fid = a.toNat) with
    | none => .val s (if (v.fbuf ++ v.popped).any fun r => lateRec r && decide (r.fid = a.toNat) then 2 else 1)
    | some r =>
      if recExpired s lead r then .val s 2
      else
        let u := retireRec s lead r.rid
        if b = 2 then .val (killGraph u r.graph 6) 0
        else .val (resolveSource (markResolve (noteRetry u lead r) r) r (decide (b = 1))) 0

/-- XFLT_RES (R375): the scheduler of a quarter of the partition. -/
def execXfltRes (rd rs1 rs2 : BitVec 5) (s : State) : Out :=
  xRun s (.xfltRes rd rs1 rs2) rd (xSched s) (xResolve s (xReg s rs1) (xReg s rs2))

end Sys2Proof.Machine
end

