-- ==== Sys2Proof/Machine/RouterOps.lean ====
section
/-! DEFINITION. The meanings of the marker instructions and the router operators: opcodes 0x60 to 0x6F
(spec/06_element_float_router.md R123 to R127). -/

namespace Sys2Proof.Machine

/-! ### Markers -/

/-- A marker instruction: a DATA trigger makes one token of the kind, with its payload (R123). -/
def markerOp (s : State) (i : Instr) (k : Kind) (payload : DWord → DWord) : Out :=
  element s i fun r => ({ kind := k, data := payload (tokenAt r .l).data, psn := anyPsn r }, Flags.none)

/-- EOS: R123. -/
def execEos (p : Pred) (t1 t0 : Target) (s : State) : Out := markerOp s (.eos p t1 t0) .eos id
/-- EOS.I: R123. -/
def execEosI (p : Pred) (i : BitVec 9) (t0 : Target) (s : State) : Out :=
  markerOp s (.eosI p i t0) .eos fun _ => BitVec.ofNat 64 i.toNat
/-- EOT: R123. -/
def execEot (p : Pred) (t1 t0 : Target) (s : State) : Out := markerOp s (.eot p t1 t0) .eot id
/-- EOT.I: R123. -/
def execEotI (p : Pred) (i : BitVec 9) (t0 : Target) (s : State) : Out :=
  markerOp s (.eotI p i t0) .eot fun _ => BitVec.ofNat 64 i.toNat
/-- MARK: R123. -/
def execMark (p : Pred) (t1 t0 : Target) (s : State) : Out := markerOp s (.mark p t1 t0) .ord id
/-- MARK.I: R123. -/
def execMarkI (p : Pred) (i : BitVec 9) (t0 : Target) (s : State) : Out :=
  markerOp s (.markI p i t0) .ord fun _ => BitVec.ofNat 64 i.toNat

/-! ### Router operators -/

/-- What a router operator does: its plan and the hold value it leaves (R126, R127). -/
abbrev RouterPlan := Plan × Hold

/-- Move: consume from some latches and emit a token, or none, to targets. -/
def moveTok (take : List Pos) (emit : Option Token) (outs : List Target) (h : Hold) : RouterPlan :=
  (.act { take := take, emit := emit, outs := outs, flags := Flags.none, computed := true, marker := false }, h)

/-- Carry out a router operator's plan; the hold value changes when the operator fires. -/
def routerOp (s : State) (i : Instr) (plan : Hold → (Pos → Option Token) → RouterPlan) : Out :=
  let x := s.foc
  let look (p : Pos) : Option Token := (headAt s x p).map Entry.tok
  let r := plan (s.slot x).hold look
  let s' := performPlan s i r.1
  if (s'.slot x).fired = s.now + 1 ∧ (s.slot x).fired ≠ s.now + 1 then
    .next (s'.setSlot x { s'.slot x with hold := r.2 })
  else .next s'

/-- A plan that a resolution skips: the inputs of the case are consumed, what it would emit is poisoned, DATA 0, and the
hold value stays (R349). -/
def skipPlan (h : Hold) : RouterPlan → RouterPlan
  | (.act a, _) => (.act { a with emit := a.emit.map fun t => { t with data := 0, psn := true } }, { h with psn := false })
  | (p, _) => (p, h)

/-- The control input P of an operator: nothing yet, a fault where its token is poisoned, of whatever kind, or its token
(R126). DESIGN CHOICE: the fault is raised as soon as P holds the token, whether or not the other input of the case holds
one (notes/assumptions/44.md). A poisoned control token that a resolution skips is marked in the hold value. -/
def control (h : Hold) (p : Option Token) (k : Token → RouterPlan) : RouterPlan :=
  match p with
  | none => (.wait, h)
  | some t => if t.psn then (if h.psn then skipPlan h (k t) else (.fault codePoison 0, h)) else k t

/-- STEER: L to T1 where P is true, to T0 where it is false (R126). -/
def execSteer (t1 t0 : Target) (s : State) : Out :=
  routerOp s (.steer t1 t0) fun h look =>
    match look .l with
    | none => (.wait, h)
    | some l =>
      if l.kind ≠ .data then moveTok [.l] (some l) [t0, t1] h
      else control h (look .p) fun p =>
        if p.kind ≠ .data then moveTok [.p] none [] h
        else moveTok [.l, .p] (some l) [if isTrue p.data then t1 else t0] h

/-- MERGE: P chooses R or L (R126). -/
def execMerge (t1 t0 : Target) (s : State) : Out :=
  routerOp s (.merge t1 t0) fun h look =>
    control h (look .p) fun p =>
      if p.kind ≠ .data then moveTok [.p] (some p) [t0, t1] h
      else
        let q : Pos := if isTrue p.data then .r else .l
        match look q with
        | none => (.wait, h)
        | some t => moveTok [.p, q] (some t) [t0, t1] h

/-- MERGE.RR: the inputs take turns; phase 0 is L's turn (R126, R127). -/
def execMergeRr (t1 t0 : Target) (s : State) : Out :=
  routerOp s (.mergeRr t1 t0) fun h look =>
    let q : Pos := if h.phase = 0 then .l else .r
    match look q with
    | none => (.wait, h)
    | some t => moveTok [q] (some t) [t0, t1] { h with phase := 1 - h.phase }

/-- Phase LOOP of CARRY and CARRY.I: home is the phase it returns to (R126). -/
def carryLoop (h : Hold) (look : Pos → Option Token) (home : Nat) (outs : List Target) : RouterPlan :=
  control h (look .p) fun p =>
    match p.kind with
    | .data =>
      if isTrue p.data then
        match look .r with
        | none => (.wait, h)
        | some r => moveTok [.p, .r] (some r) outs h
      else moveTok [.p] none [] { h with phase := home }
    | .eos => moveTok [.p] (some p) outs { h with phase := home }
    | _ => moveTok [.p] (some p) outs h

/-- CARRY: phase 0 INIT, 1 LOOP (R126). -/
def execCarry (t1 t0 : Target) (s : State) : Out :=
  routerOp s (.carry t1 t0) fun h look =>
    if h.phase = 0 then
      match look .l with
      | none => (.wait, h)
      | some l => moveTok [.l] (some l) [t0, t1] { h with phase := 1 }
    else carryLoop h look 0 [t0, t1]

/-- CARRY.I: phase 0 INIT, 1 LOOP, 2 DONE (R126). -/
def execCarryI (i : BitVec 9) (t0 : Target) (s : State) : Out :=
  routerOp s (.carryI i t0) fun h look =>
    if h.phase = 0 then moveTok [] (some (dataTok (i.signExtend 64) false)) [t0] { h with phase := 1 }
    else if h.phase = 1 then carryLoop h look 2 [t0]
    else (.wait, h)

/-- INVAR: phase 0 EMPTY, 1 HELD (R126). -/
def execInvar (t1 t0 : Target) (s : State) : Out :=
  routerOp s (.invar t1 t0) fun h look =>
    if h.phase = 0 then
      match look .l with
      | none => (.wait, h)
      | some l => moveTok [.l] none [] { h with phase := 1, tok := some l }
    else control h (look .p) fun p =>
      match p.kind with
      | .data =>
        if isTrue p.data then moveTok [.p] h.tok [t0, t1] h
        else moveTok [.p] none [] { h with phase := 0, tok := none }
      | .eos => moveTok [.p] (some p) [t0, t1] { h with phase := 0, tok := none }
      | _ => moveTok [.p] (some p) [t0, t1] h

/-- GATE: P lets L pass or discards it (R126). -/
def execGate (t1 t0 : Target) (s : State) : Out :=
  routerOp s (.gate t1 t0) fun h look =>
    control h (look .p) fun p =>
      if p.kind ≠ .data then moveTok [.p] (some p) [t0, t1] h
      else
        match look .l with
        | none => (.wait, h)
        | some l => moveTok [.p, .l] (if isTrue p.data then some l else none) [t0, t1] h

/-- SINK: consume and discard (R126). -/
def execSink (s : State) : Out :=
  routerOp s .sink fun h look =>
    match look .l with
    | none => (.wait, h)
    | some _ => moveTok [.l] none [] h

/-- SINK.A: count DATA tokens, emit the count at an EOS (R126, R127). -/
def execSinkA (t1 t0 : Target) (s : State) : Out :=
  routerOp s (.sinkA t1 t0) fun h look =>
    match look .l with
    | none => (.wait, h)
    | some l =>
      match l.kind with
      | .data => moveTok [.l] none [] { h with count := h.count + 1, psn := h.psn || l.psn }
      | .eos => moveTok [.l] (some (dataTok h.count (h.psn || l.psn))) [t0, t1] { h with count := 0, psn := false }
      | _ => moveTok [.l] (some l) [t0, t1] h

/-- ORDJ: one ORD for a token of each input (R126). -/
def execOrdj (t1 t0 : Target) (s : State) : Out :=
  routerOp s (.ordj t1 t0) fun h look =>
    match look .l, look .r with
    | some l, some r => moveTok [.l, .r] (some (ordTok (l.psn || r.psn))) [t0, t1] h
    | _, _ => (.wait, h)

end Sys2Proof.Machine
end

