-- ==== Sys2Proof/Machine/Xsig.lean ====
section
/-! DEFINITION. xsig.ver (spec/21_control_cores.md R384): the descriptor, and the check of the signature it names. -/

namespace Sys2Proof.Machine

/-! ### XSIG_VER (R384) -/

/-- Read n bytes at a, 4,096 at a time. -/
def xReadLong (s : State) (a : Nat) : Nat → Nat → List Byte → (State → List Byte → XRes) → XRes
  | 0, _, acc, k => k s acc
  | _, 0, acc, k => k s acc
  | fuel + 1, n, acc, k =>
    xRead s a (Nat.min n 4096) fun s bs => xReadLong s (a + 4096) fuel (n - 4096) (acc ++ bs) k

/-- XSIG_VER's effect: 0 valid, 1 invalid, 2 a bad descriptor, an empty slot or an index beyond the tree. -/
def xVerify (s : State) (a : DWord) : XRes :=
  xRead s a.toNat 32 fun s d =>
    let len := leNat ((d.drop 8).take 8)
    let slot := leNat ((d.drop 24).take 1)
    if 2 ^ 32 ≤ len ∨ 3 < slot ∨ leNat (d.drop 25) ≠ 0 ∨ SMap.find s.keys slot = none then .val s 2
    else
      xRead s (leNat ((d.drop 16).take 8)) 2820 fun s sig =>
        xReadLong s (leNat (d.take 8)) (len / 4096 + 1) len [] fun s msg =>
          .val s (BitVec.ofNat 64 (xmssCheck (SMap.find s.keys slot) msg sig))

/-- XSIG_VER (R384): the MGC. -/
def execXsigVer (rd rs1 : BitVec 5) (s : State) : Out :=
  xRun s (.xsigVer rd rs1) rd (decide (s.core = 8)) (xVerify s (xReg s rs1))

end Sys2Proof.Machine
end

