-- ==== Sys2Proof/Machine/Dispatch.lean ====
section
/-! DEFINITION. The one match over the instructions: each arm calls the meaning of its row of the opcode table. -/

namespace Sys2Proof.Machine

def exec (i : Instr) (s : State) : Host.Outcome State Fault Refusal :=
  match i with
  | .add w p t1 t0 => Sys2Proof.Machine.execAdd w p t1 t0 s
  | .sub w p t1 t0 => Sys2Proof.Machine.execSub w p t1 t0 s
  | .adds w p t1 t0 => Sys2Proof.Machine.execAdds w p t1 t0 s
  | .addsU w p t1 t0 => Sys2Proof.Machine.execAddsU w p t1 t0 s
  | .subs w p t1 t0 => Sys2Proof.Machine.execSubs w p t1 t0 s
  | .subsU w p t1 t0 => Sys2Proof.Machine.execSubsU w p t1 t0 s
  | .addi w p imm t0 => Sys2Proof.Machine.execAddi w p imm t0 s
  | .rsbi w p imm t0 => Sys2Proof.Machine.execRsbi w p imm t0 s
  | .and w p t1 t0 => Sys2Proof.Machine.execAnd w p t1 t0 s
  | .or w p t1 t0 => Sys2Proof.Machine.execOr w p t1 t0 s
  | .xor w p t1 t0 => Sys2Proof.Machine.execXor w p t1 t0 s
  | .andn w p t1 t0 => Sys2Proof.Machine.execAndn w p t1 t0 s
  | .not w p t1 t0 => Sys2Proof.Machine.execNot w p t1 t0 s
  | .shl w p t1 t0 => Sys2Proof.Machine.execShl w p t1 t0 s
  | .shr w p t1 t0 => Sys2Proof.Machine.execShr w p t1 t0 s
  | .shrA w p t1 t0 => Sys2Proof.Machine.execShrA w p t1 t0 s
  | .rot w p t1 t0 => Sys2Proof.Machine.execRot w p t1 t0 s
  | .shli w p imm t0 => Sys2Proof.Machine.execShli w p imm t0 s
  | .shri w p imm t0 => Sys2Proof.Machine.execShri w p imm t0 s
  | .shriA w p imm t0 => Sys2Proof.Machine.execShriA w p imm t0 s
  | .clz w p t1 t0 => Sys2Proof.Machine.execClz w p t1 t0 s
  | .popc w p t1 t0 => Sys2Proof.Machine.execPopc w p t1 t0 s
  | .brev w p t1 t0 => Sys2Proof.Machine.execBrev w p t1 t0 s
  | .min w p t1 t0 => Sys2Proof.Machine.execMin w p t1 t0 s
  | .minU w p t1 t0 => Sys2Proof.Machine.execMinU w p t1 t0 s
  | .max w p t1 t0 => Sys2Proof.Machine.execMax w p t1 t0 s
  | .maxU w p t1 t0 => Sys2Proof.Machine.execMaxU w p t1 t0 s
  | .abs w p t1 t0 => Sys2Proof.Machine.execAbs w p t1 t0 s
  | .neg w p t1 t0 => Sys2Proof.Machine.execNeg w p t1 t0 s
  | .cmpEq w p t1 t0 => Sys2Proof.Machine.execCmpEq w p t1 t0 s
  | .cmpNe w p t1 t0 => Sys2Proof.Machine.execCmpNe w p t1 t0 s
  | .cmpLt w p t1 t0 => Sys2Proof.Machine.execCmpLt w p t1 t0 s
  | .cmpLe w p t1 t0 => Sys2Proof.Machine.execCmpLe w p t1 t0 s
  | .cmpLtu w p t1 t0 => Sys2Proof.Machine.execCmpLtu w p t1 t0 s
  | .cmpLeu w p t1 t0 => Sys2Proof.Machine.execCmpLeu w p t1 t0 s
  | .cmpiEq w p imm t0 => Sys2Proof.Machine.execCmpiEq w p imm t0 s
  | .cmpiNe w p imm t0 => Sys2Proof.Machine.execCmpiNe w p imm t0 s
  | .cmpiLt w p imm t0 => Sys2Proof.Machine.execCmpiLt w p imm t0 s
  | .cmpiLe w p imm t0 => Sys2Proof.Machine.execCmpiLe w p imm t0 s
  | .cmpiGt w p imm t0 => Sys2Proof.Machine.execCmpiGt w p imm t0 s
  | .cmpiGe w p imm t0 => Sys2Proof.Machine.execCmpiGe w p imm t0 s
  | .cmpiLtu w p imm t0 => Sys2Proof.Machine.execCmpiLtu w p imm t0 s
  | .cmpiLeu w p imm t0 => Sys2Proof.Machine.execCmpiLeu w p imm t0 s
  | .cmpiGtu w p imm t0 => Sys2Proof.Machine.execCmpiGtu w p imm t0 s
  | .cmpiGeu w p imm t0 => Sys2Proof.Machine.execCmpiGeu w p imm t0 s
  | .test w p t1 t0 => Sys2Proof.Machine.execTest w p t1 t0 s
  | .testZ w p t1 t0 => Sys2Proof.Machine.execTestZ w p t1 t0 s
  | .sel w t1 t0 => Sys2Proof.Machine.execSel w t1 t0 s
  | .mov w p t1 t0 => Sys2Proof.Machine.execMov w p t1 t0 s
  | .gens imm t0 => Sys2Proof.Machine.execGens imm t0 s
  | .genu imm t0 => Sys2Proof.Machine.execGenu imm t0 s
  | .apph imm t0 => Sys2Proof.Machine.execApph imm t0 s
  | .extr w p t1 t0 => Sys2Proof.Machine.execExtr w p t1 t0 s
  | .extrS w p t1 t0 => Sys2Proof.Machine.execExtrS w p t1 t0 s
  | .insf w t1 t0 => Sys2Proof.Machine.execInsf w t1 t0 s
  | .lea w p x t1 t0 => Sys2Proof.Machine.execLea w p x t1 t0 s
  | .addiS w p imm t0 => Sys2Proof.Machine.execAddiS w p imm t0 s
  | .rsbiS w p imm t0 => Sys2Proof.Machine.execRsbiS w p imm t0 s
  | .absS w p t1 t0 => Sys2Proof.Machine.execAbsS w p t1 t0 s
  | .negS w p t1 t0 => Sys2Proof.Machine.execNegS w p t1 t0 s
  | .kset c t1 t0 => Sys2Proof.Machine.execKset c t1 t0 s
  | .knext c t1 t0 => Sys2Proof.Machine.execKnext c t1 t0 s
  | .klast c t1 t0 => Sys2Proof.Machine.execKlast c t1 t0 s
  | .kread sx t1 t0 => Sys2Proof.Machine.execKread sx t1 t0 s
  | .fadd f p t1 t0 => Sys2Proof.Machine.execFadd f p t1 t0 s
  | .fsub f p t1 t0 => Sys2Proof.Machine.execFsub f p t1 t0 s
  | .fmul f p t1 t0 => Sys2Proof.Machine.execFmul f p t1 t0 s
  | .fmin f p t1 t0 => Sys2Proof.Machine.execFmin f p t1 t0 s
  | .fmax f p t1 t0 => Sys2Proof.Machine.execFmax f p t1 t0 s
  | .fabs f p t1 t0 => Sys2Proof.Machine.execFabs f p t1 t0 s
  | .fneg f p t1 t0 => Sys2Proof.Machine.execFneg f p t1 t0 s
  | .fcmpEq f p t1 t0 => Sys2Proof.Machine.execFcmpEq f p t1 t0 s
  | .fcmpNe f p t1 t0 => Sys2Proof.Machine.execFcmpNe f p t1 t0 s
  | .fcmpLt f p t1 t0 => Sys2Proof.Machine.execFcmpLt f p t1 t0 s
  | .fcmpLe f p t1 t0 => Sys2Proof.Machine.execFcmpLe f p t1 t0 s
  | .fcmpUn f p t1 t0 => Sys2Proof.Machine.execFcmpUn f p t1 t0 s
  | .frnd f p t1 t0 => Sys2Proof.Machine.execFrnd f p t1 t0 s
  | .cvtIfSw f p t1 t0 => Sys2Proof.Machine.execCvtIfSw f p t1 t0 s
  | .cvtIfSd f p t1 t0 => Sys2Proof.Machine.execCvtIfSd f p t1 t0 s
  | .cvtIfUw f p t1 t0 => Sys2Proof.Machine.execCvtIfUw f p t1 t0 s
  | .cvtIfUd f p t1 t0 => Sys2Proof.Machine.execCvtIfUd f p t1 t0 s
  | .cvtFiSw f p t1 t0 => Sys2Proof.Machine.execCvtFiSw f p t1 t0 s
  | .cvtFiSd f p t1 t0 => Sys2Proof.Machine.execCvtFiSd f p t1 t0 s
  | .cvtFiUw f p t1 t0 => Sys2Proof.Machine.execCvtFiUw f p t1 t0 s
  | .cvtFiUd f p t1 t0 => Sys2Proof.Machine.execCvtFiUd f p t1 t0 s
  | .cvtFfF32 f p t1 t0 => Sys2Proof.Machine.execCvtFfF32 f p t1 t0 s
  | .cvtFfF16 f p t1 t0 => Sys2Proof.Machine.execCvtFfF16 f p t1 t0 s
  | .cvtFfBf16 f p t1 t0 => Sys2Proof.Machine.execCvtFfBf16 f p t1 t0 s
  | .cvtN sx d t1 t0 => Sys2Proof.Machine.execCvtN sx d t1 t0 s
  | .cvtNW sx t1 t0 => Sys2Proof.Machine.execCvtNW sx t1 t0 s
  | .cvtNI d t1 t0 => Sys2Proof.Machine.execCvtNI d t1 t0 s
  | .mul w p t1 t0 => Sys2Proof.Machine.execMul w p t1 t0 s
  | .mulh w p t1 t0 => Sys2Proof.Machine.execMulh w p t1 t0 s
  | .mulhU w p t1 t0 => Sys2Proof.Machine.execMulhU w p t1 t0 s
  | .facc f t1 t0 => Sys2Proof.Machine.execFacc f t1 t0 s
  | .iacc w sx t1 t0 => Sys2Proof.Machine.execIacc w sx t1 t0 s
  | .steer t1 t0 => Sys2Proof.Machine.execSteer t1 t0 s
  | .merge t1 t0 => Sys2Proof.Machine.execMerge t1 t0 s
  | .mergeRr t1 t0 => Sys2Proof.Machine.execMergeRr t1 t0 s
  | .carry t1 t0 => Sys2Proof.Machine.execCarry t1 t0 s
  | .carryI imm t0 => Sys2Proof.Machine.execCarryI imm t0 s
  | .invar t1 t0 => Sys2Proof.Machine.execInvar t1 t0 s
  | .gate t1 t0 => Sys2Proof.Machine.execGate t1 t0 s
  | .sinkA t1 t0 => Sys2Proof.Machine.execSinkA t1 t0 s
  | .ordj t1 t0 => Sys2Proof.Machine.execOrdj t1 t0 s
  | .eos p t1 t0 => Sys2Proof.Machine.execEos p t1 t0 s
  | .eosI p imm t0 => Sys2Proof.Machine.execEosI p imm t0 s
  | .eot p t1 t0 => Sys2Proof.Machine.execEot p t1 t0 s
  | .eotI p imm t0 => Sys2Proof.Machine.execEotI p imm t0 s
  | .mark p t1 t0 => Sys2Proof.Machine.execMark p t1 t0 s
  | .markI p imm t0 => Sys2Proof.Machine.execMarkI p imm t0 s
  | .div w p t1 t0 => Sys2Proof.Machine.execDiv w p t1 t0 s
  | .divU w p t1 t0 => Sys2Proof.Machine.execDivU w p t1 t0 s
  | .rem w p t1 t0 => Sys2Proof.Machine.execRem w p t1 t0 s
  | .remU w p t1 t0 => Sys2Proof.Machine.execRemU w p t1 t0 s
  | .fdiv f p t1 t0 => Sys2Proof.Machine.execFdiv f p t1 t0 s
  | .fsqrt f p t1 t0 => Sys2Proof.Machine.execFsqrt f p t1 t0 s
  | .ctnOpen t1 t0 => Sys2Proof.Machine.execCtnOpen t1 t0 s
  | .ctnClose t1 t0 => Sys2Proof.Machine.execCtnClose t1 t0 s
  | .trap p imm t0 => Sys2Proof.Machine.execTrap p imm t0 s
  | .trapV p t1 t0 => Sys2Proof.Machine.execTrapV p t1 t0 s
  | .halt g => Sys2Proof.Machine.execHalt g s
  | .sysRd r t1 t0 => Sys2Proof.Machine.execSysRd r t1 t0 s
  | .sysWr r t1 t0 => Sys2Proof.Machine.execSysWr r t1 t0 s
  | .sysRdA d p t1 t0 => Sys2Proof.Machine.execSysRdA d p t1 t0 s
  | .sysWrA d p t1 t0 => Sys2Proof.Machine.execSysWrA d p t1 t0 s
  | .ld w p e sx t1 t0 => Sys2Proof.Machine.execLd w p e sx t1 t0 s
  | .ldb p e sx t1 t0 => Sys2Proof.Machine.execLdb p e sx t1 t0 s
  | .st w p t1 t0 => Sys2Proof.Machine.execSt w p t1 t0 s
  | .stb t1 t0 => Sys2Proof.Machine.execStb t1 t0 s
  | .pld d p t1 t0 => Sys2Proof.Machine.execPld d p t1 t0 s
  | .pst d t1 t0 => Sys2Proof.Machine.execPst d t1 t0 s
  | .step sx t1 t0 => Sys2Proof.Machine.execStep sx t1 t0 s
  | .acqX p g t0 => Sys2Proof.Machine.execAcqX p g t0 s
  | .acqS p g t0 => Sys2Proof.Machine.execAcqS p g t0 s
  | .rel p g t0 => Sys2Proof.Machine.execRel p g t0 s
  | .fenceF t1 t0 => Sys2Proof.Machine.execFenceF t1 t0 s
  | .fenceD t1 t0 => Sys2Proof.Machine.execFenceD t1 t0 s
  | .fenceP t1 t0 => Sys2Proof.Machine.execFenceP t1 t0 s
  | .fenceS t1 t0 => Sys2Proof.Machine.execFenceS t1 t0 s
  | .amoAdd d p t1 t0 => Sys2Proof.Machine.execAmoAdd d p t1 t0 s
  | .amoFadd p t1 t0 => Sys2Proof.Machine.execAmoFadd p t1 t0 s
  | .amoMin d p u t1 t0 => Sys2Proof.Machine.execAmoMin d p u t1 t0 s
  | .amoMax d p u t1 t0 => Sys2Proof.Machine.execAmoMax d p u t1 t0 s
  | .amoAnd d p t1 t0 => Sys2Proof.Machine.execAmoAnd d p t1 t0 s
  | .amoOr d p t1 t0 => Sys2Proof.Machine.execAmoOr d p t1 t0 s
  | .amoXor d p t1 t0 => Sys2Proof.Machine.execAmoXor d p t1 t0 s
  | .amoSwap d p t1 t0 => Sys2Proof.Machine.execAmoSwap d p t1 t0 s
  | .amoCas d t1 t0 => Sys2Proof.Machine.execAmoCas d t1 t0 s
  | .redAdd d p t1 t0 => Sys2Proof.Machine.execRedAdd d p t1 t0 s
  | .redFadd p t1 t0 => Sys2Proof.Machine.execRedFadd p t1 t0 s
  | .redMin d p u t1 t0 => Sys2Proof.Machine.execRedMin d p u t1 t0 s
  | .redMax d p u t1 t0 => Sys2Proof.Machine.execRedMax d p u t1 t0 s
  | .redAnd d p t1 t0 => Sys2Proof.Machine.execRedAnd d p t1 t0 s
  | .redOr d p t1 t0 => Sys2Proof.Machine.execRedOr d p t1 t0 s
  | .pref p e l => Sys2Proof.Machine.execPref p e l s
  | .retain t1 t0 => Sys2Proof.Machine.execRetain t1 t0 s
  | .unpin t1 t0 => Sys2Proof.Machine.execUnpin t1 t0 s
  | .flush p d t1 t0 => Sys2Proof.Machine.execFlush p d t1 t0 s
  | .mxCfg m t1 t0 => Sys2Proof.Machine.execMxCfg m t1 t0 s
  | .mxGath t1 t0 => Sys2Proof.Machine.execMxGath t1 t0 s
  | .mxBb m t1 t0 => Sys2Proof.Machine.execMxBb m t1 t0 s
  | .mxMma m t1 t0 => Sys2Proof.Machine.execMxMma m t1 t0 s
  | .mxZero m t1 t0 => Sys2Proof.Machine.execMxZero m t1 t0 s
  | .mxEpi d m t1 t0 => Sys2Proof.Machine.execMxEpi d m t1 t0 s
  | .mxCpy d m t1 t0 => Sys2Proof.Machine.execMxCpy d m t1 t0 s
  | .cpyHead c t1 t0 => Sys2Proof.Machine.execCpyHead c t1 t0 s
  | .cpyStat d m t1 t0 => Sys2Proof.Machine.execCpyStat d m t1 t0 s
  | .wlkCfg t1 t0 => Sys2Proof.Machine.execWlkCfg t1 t0 s
  | .wlkGo e t1 t0 => Sys2Proof.Machine.execWlkGo e t1 t0 s
  | .qfence p t1 t0 => Sys2Proof.Machine.execQfence p t1 t0 s
  | .bufWait d m t1 t0 => Sys2Proof.Machine.execBufWait d m t1 t0 s
  | .bufRel t1 t0 => Sys2Proof.Machine.execBufRel t1 t0 s
  | .bufStat t1 t0 => Sys2Proof.Machine.execBufStat t1 t0 s
  | .spawn sx t1 t0 => Sys2Proof.Machine.execSpawn sx t1 t0 s
  | .slen l t1 t0 => Sys2Proof.Machine.execSlen l t1 t0 s
  | .sld z t1 t0 => Sys2Proof.Machine.execSld z t1 t0 s
  | .sst z t1 t0 => Sys2Proof.Machine.execSst z t1 t0 s
  | .sgen z t1 t0 => Sys2Proof.Machine.execSgen z t1 t0 s
  | .sand zd za zb t0 => Sys2Proof.Machine.execSand zd za zb t0 s
  | .sor zd za zb t0 => Sys2Proof.Machine.execSor zd za zb t0 s
  | .sxor zd za zb t0 => Sys2Proof.Machine.execSxor zd za zb t0 s
  | .snot zd za t0 => Sys2Proof.Machine.execSnot zd za t0 s
  | .smux zd za zb t0 => Sys2Proof.Machine.execSmux zd za zb t0 s
  | .smin zd za zb t0 => Sys2Proof.Machine.execSmin zd za zb t0 s
  | .smax zd za zb t0 => Sys2Proof.Machine.execSmax zd za zb t0 s
  | .scnt z t1 t0 => Sys2Proof.Machine.execScnt z t1 t0 s
  | .scntA z t1 t0 => Sys2Proof.Machine.execScntA z t1 t0 s
  | .scvt z t1 t0 => Sys2Proof.Machine.execScvt z t1 t0 s
  | .sregen zd zs g t0 => Sys2Proof.Machine.execSregen zd zs g t0 s
  | .smov zd za t0 => Sys2Proof.Machine.execSmov zd za t0 s
  | .xlnch rd rs1 rs2 => Sys2Proof.Machine.execXlnch rd rs1 rs2 s
  | .xkscan rd rs1 => Sys2Proof.Machine.execXkscan rd rs1 s
  | .xqpri rd rs1 rs2 => Sys2Proof.Machine.execXqpri rd rs1 rs2 s
  | .xqstat rd rs1 => Sys2Proof.Machine.execXqstat rd rs1 s
  | .xfltPop rd rs1 => Sys2Proof.Machine.execXfltPop rd rs1 s
  | .xfltRes rd rs1 rs2 => Sys2Proof.Machine.execXfltRes rd rs1 rs2 s
  | .xjnlW rd rs1 => Sys2Proof.Machine.execXjnlW rd rs1 s
  | .xhbt rs1 => Sys2Proof.Machine.execXhbt rs1 s
  | .xtake rd => Sys2Proof.Machine.execXtake rd s
  | .xpartQsc rd rs1 => Sys2Proof.Machine.execXpartQsc rd rs1 s
  | .xpartIl rd rs1 rs2 => Sys2Proof.Machine.execXpartIl rd rs1 rs2 s
  | .xpartBnd rd rs1 rs2 => Sys2Proof.Machine.execXpartBnd rd rs1 rs2 s
  | .xpartSd rd rs1 => Sys2Proof.Machine.execXpartSd rd rs1 s
  | .xpartCommit rd rs1 => Sys2Proof.Machine.execXpartCommit rd rs1 s
  | .xsigVer rd rs1 => Sys2Proof.Machine.execXsigVer rd rs1 s
  | .xrdCnt rd rs1 => Sys2Proof.Machine.execXrdCnt rd rs1 s
  | .controlCoreAccess c e => Sys2Proof.Machine.execControlCoreAccess c e s
  | .registerWrite pa n v => Sys2Proof.Machine.execRegisterWrite pa n v s
  | .lqcWrite q n v => Sys2Proof.Machine.execLqcWrite q n v s
  | .crpWrite q v => Sys2Proof.Machine.execCrpWrite q v s
  | .jnpWrite q v => Sys2Proof.Machine.execJnpWrite q v s
  | .retwControlWrite d k v => Sys2Proof.Machine.execRetwControlWrite d k v s
  | .laycGo d v => Sys2Proof.Machine.execLaycGo d v s
  | .relayoutComplete d => Sys2Proof.Machine.execRelayoutComplete d s
  | .moduleReset a => Sys2Proof.Machine.execModuleReset a s
  | .ueLinkTraining d k lanes => Sys2Proof.Machine.execUeLinkTraining d k lanes s
  | .voltageClassChange f c => Sys2Proof.Machine.execVoltageClassChange f c s
  | .arbiterPass q => Sys2Proof.Machine.execArbiterPass q s
  | .spawnNodePush g n => Sys2Proof.Machine.execSpawnNodePush g n s
  | .nodeDone g n => Sys2Proof.Machine.execNodeDone g n s
  | .sectionLoad g n => Sys2Proof.Machine.execSectionLoad g n s
  | .entryTokenDelivery g n ep => Sys2Proof.Machine.execEntryTokenDelivery g n ep s
  | .sectionDone g n => Sys2Proof.Machine.execSectionDone g n s
  | .deferredStart x => Sys2Proof.Machine.execDeferredStart x s
  | .overrunCapture x => Sys2Proof.Machine.execOverrunCapture x s
  | .resultDelivery x => Sys2Proof.Machine.execResultDelivery x s
  | .checkerMismatch x again => Sys2Proof.Machine.execCheckerMismatch x again s
  | .translationWalk x => Sys2Proof.Machine.execTranslationWalk x s
  | .memoryAccessPerformed x k e => Sys2Proof.Machine.execMemoryAccessPerformed x k e s
  | .leakTick d k => Sys2Proof.Machine.execLeakTick d k s
  | .guardGrant g n => Sys2Proof.Machine.execGuardGrant g n s
  | .stepSwap g n => Sys2Proof.Machine.execStepSwap g n s
  | .engineCommandPerformed f q k => Sys2Proof.Machine.execEngineCommandPerformed f q k s
  | .msuCommandPerformed f => Sys2Proof.Machine.execMsuCommandPerformed f s
  | .sldSecondPlace f k => Sys2Proof.Machine.execSldSecondPlace f k s
  | .copyRecord f k => Sys2Proof.Machine.execCopyRecord f k s
  | .watchdog g n => Sys2Proof.Machine.execWatchdog g n s
  | .tlimExpiry g n => Sys2Proof.Machine.execTlimExpiry g n s
  | .completionPost q => Sys2Proof.Machine.execCompletionPost q s
  | .remoteResponse k err v => Sys2Proof.Machine.execRemoteResponse k err v s
  | .inboundRemoteAccess d k a => Sys2Proof.Machine.execInboundRemoteAccess d k a s
  | .controlCoreInstruction c e => Sys2Proof.Machine.execControlCoreInstruction c e s
  | .ghlFlitRetry d k => Sys2Proof.Machine.execGhlFlitRetry d k s
  | .uncorrectableCodeword d k => Sys2Proof.Machine.execUncorrectableCodeword d k s
  | .sink => Sys2Proof.Machine.execSink s
  | .nop => Sys2Proof.Machine.execNop s
  | .gcycSyncFlit => Sys2Proof.Machine.execGcycSyncFlit s
  | .heartbeatLapse => Sys2Proof.Machine.execHeartbeatLapse s
  | .remoteTimeout => Sys2Proof.Machine.execRemoteTimeout s

end Sys2Proof.Machine
end

