-- ==== Sys2Proof/Machine/Turn.lean ====
section
/-! DEFINITION. What one turn does (notes/assumptions/1.md): a slot fires, a core takes its next instruction, a request
reaches its unit, an event takes place, or the cycle ends (spec/02_execution.md R47 to R53). -/

namespace Sys2Proof.Machine

/-! ### Chains within a cycle (R44, R47, R147, R148, R160) -/

/-- Whether a token stands in a flow-through latch as it arrived in this cycle. -/
def freshToken (s : State) (e : Entry) : Bool := decide (e.cyc = s.now) && decide (e.du ≠ 0)

/-- Whether the edge into latch p of slot x is chained in force. -/
def chainedInto (s : State) (x : Nat) (p : Pos) : Bool :=
  let ti := s.tile (tileOf x)
  (feedersOf ti.cfg p (slotNo x)).any fun e => chainedNow ti e.2 p (slotNo x)

/-- Slot x fired in the change from s to t without taking a value of this cycle on some chained input: it took one held before
(R160), or its case leaves that input alone (R124, R126). -/
def tookHeld (s t : State) (x : Nat) : Bool :=
  decide ((t.slot x).fired = s.now + 1) && decide ((s.slot x).fired ≠ s.now + 1) &&
    [Pos.l, .r, .p].any fun p =>
      let fresh (u : State) : Bool := (u.link (latchNo x p)).q.any (freshToken u)
      !(fresh s && !fresh t) && chainedInto s x p

/-- Slot x's instruction is carried out where it stands: none where that changes nothing, or comes too late for the order of its
cycle. -/
def fireOnce (s : State) (x : Nat) : Option State :=
  let s := { s with foc := x }
  match (slotInstr s x).map fun i => exec i s with
  | some (.next t) =>
    if t.late || decide (t = s) then none
    else some (if tookHeld s t x then t.setSlot x { t.slot x with dstart := s.now + 1 } else t)
  | _ => none

/-- Slot x fires, its chained consumers apart, also where its deferred start falls due in this cycle (R159). -/
def rawFire (s : State) (x : Nat) : Option State :=
  match fireOnce s x with
  | some t => some t
  | none => if startDue s x then fireOnce (startDeferred s x) x else none

/-- The slots whose flow-through latches hold a value that slot x sent in this cycle. -/
def freshTakers (t : State) (x : Nat) : List Nat :=
  let ti := t.tile (tileOf x)
  (((slotInstr t x).map targetsOf).getD []).filterMap fun g =>
    match g with
    | .latch c p m =>
      let y := 64 * tileOf x + m.toNat
      if chainedNow ti c p m.toNat && (t.link (latchNo y p)).q.any (freshToken t) then some y else none
    | _ => none

/-- The slots whose firing would free a full target of slot x. -/
def fullConsumers (s : State) (x : Nat) : List Nat :=
  ((((slotInstr s x).map targetsOf).getD []).filter fun g => !targetFree s x g).filterMap fun g =>
    (targetLink s x g).map (· / 3)

/-- The slots of the tile that feed input p of slot x over an edge chained in force. -/
def chainFeeders (s : State) (x : Nat) (p : Pos) : List Nat :=
  let ti := s.tile (tileOf x)
  ((feedersOf ti.cfg p (slotNo x)).filter fun e => chainedNow ti e.2 p (slotNo x)).map fun e => 64 * tileOf x + e.1

/-- The inputs that slot x's instruction reads and that hold no token it may read. -/
def missingInputs (s : State) (x : Nat) : List Pos :=
  (((slotInstr s x).map latchesRead).getD []).filter fun p => (headAt s x p).isNone

/-- The slots of the tile that feed an input of slot x which holds no token, over an edge chained in force. -/
def missingFeeders (s : State) (x : Nat) : List Nat := (missingInputs s x).flatMap (chainFeeders s x)

/-- Whether the value that slot m sends on is not to be had in this cycle: m is deferred or withholds, or its result is not yet
captured (R160, R161). -/
def valueLate (s : State) (m : Nat) : Bool :=
  let v := s.slot m
  v.deferred.isSome || v.wh.isSome || (v.result.map fun r => decide (r.kind ≠ .acc)).getD false

/-- Slot x cannot fire in this cycle only because values of its chained inputs come late: each input that holds no token waits for
one already captured for a later cycle, or for a slot whose value is late, or that waits so itself (R160 to R162). -/
def heldUp : Nat → State → Nat → Bool
  | 0, _, _ => false
  | fuel + 1, s, x =>
    slotReady s x && decide (missingInputs s x ≠ []) &&
      (missingInputs s x).all fun p =>
        chainedInto s x p &&
          (decide ((s.link (latchNo x p)).q ≠ []) || (chainFeeders s x p).any fun m => valueLate s m || heldUp fuel s m)

/-- The sublists of a list, the shortest first. -/
def shortestFirst (xs : List Nat) : List (List Nat) :=
  (List.range (xs.length + 1)).flatMap fun k => xs.sublists.filter fun ys => decide (ys.length = k)

/-- Each of some slots fires where it can. -/
def helped (fire : State → Nat → Option State) (s : State) (ys : List Nat) : State := ys.foldl (fun s y => (fire s y).getD s) s

/-- Slot y has acted in this cycle and taken nothing of it on some chained input: it fired so, it deferred its start, or it
withholds on a record of this cycle. -/
def acted (s : State) (y : Nat) : Bool :=
  let v := s.slot y
  decide (v.dstart = s.now + 1) || decide (v.deferred = some (s.now + 1)) ||
    (v.wh.map fun r => [0, 1, 2, 3].any fun q =>
      (s.quarter q).records.any fun a => decide (a.rid = r) && decide (a.raisedAt = s.now)).getD false

/-- What slot x sent in this cycle is taken: each chained consumer fires, defers or withholds in this cycle, or did before x
(R160), or keeps the value while values of its other chained inputs come late: the feeders of those fire ahead of it where they can
(notes/assumptions/16.md). -/
def taken (fire : State → Nat → Option State) (ahead : Nat → State → Nat → Option State) (t : State) (x : Nat) : Option State :=
  (freshTakers t x).foldl (fun o y => o.bind fun t =>
    if !(freshTakers t x).contains y || acted t y then some t
    else
      match fire t y with
      | some u => some u
      | none =>
        let u := helped (ahead y) t (missingFeeders t y)
        if heldUp 64 u y then some u else none) (some t)

/-- Try to fire slot x in this cycle, together with what that needs: the consumers of its full targets fire before it (R47), so
do feeders of its missing chained inputs, the fewest first, and each chained consumer takes its value, but those in pend, which
wait for x (notes/assumptions/16.md). -/
def bring : Nat → List Nat → State → Nat → Option State
  | 0, _, _, _ => none
  | fuel + 1, pend, s, x =>
    if pend.contains x then none
    else
      let s := helped (bring fuel (x :: pend)) s (fullConsumers s x)
      (shortestFirst (missingFeeders s x)).findSome? fun ms =>
        (rawFire (helped (bring fuel (x :: pend)) s ms) x).bind fun t =>
          taken (fun t y => if pend.contains y then some t else bring fuel pend t y)
            (fun y => bring fuel (y :: pend)) t x

/-- More links than a chain of firings of one cycle can have: each slot of the tiles in use waits in it at most once, and fires in
it at most once. -/
def chainDepth (s : State) : Nat := 128 * s.tiles.length + 1

/-- Whether slot x can fire in this cycle, with what that needs. -/
def canFire (s : State) (x : Nat) : Bool := (bring (chainDepth s) [] s x).isSome

/-- After the firing of slot x what it sent is taken in this cycle (R44, R47). -/
def settled (t : State) (x : Nat) : Bool :=
  (taken (bring (chainDepth t) []) (fun y => bring (chainDepth t) [y]) t x).isSome

/-! ### What falls due in a cycle (R51) -/

/-- Whether a row changes the state now. -/
def changes (s : State) (i : Instr) : Bool :=
  match exec i s with
  | .next t => !t.late && decide (t ≠ s)
  | _ => false

/-- Rows that take place in the cycle they fall due: captures, deferred starts, flits, deadlines. -/
def dueRows (s : State) : List Instr :=
  (s.slots.flatMap fun e => [.deferredStart e.1, .overrunCapture e.1] ++ if e.2.result.isSome then [.resultDelivery e.1] else [])
    ++ (s.graphs.flatMap fun g => g.nodes.flatMap fun n => [.watchdog g.id n.id, .tlimExpiry g.id n.id])
    ++ [.gcycSyncFlit, .heartbeatLapse, .remoteTimeout]

/-! ### The order of counter operations (R335) -/

/-- Whether slot x holds a counter operation. -/
def counterSlot (s : State) (x : Nat) : Bool := ((slotInstr s x).map isCounterOp).getD false

/-- Whether a counter operation at slot x waits: what falls due in this cycle comes first, one of a lower slot can still fire in it,
or one of a higher slot has fired in it. -/
def heldBack (s : State) (x : Nat) : Bool :=
  counterSlot s x &&
    ((dueRows s).any (changes s) ||
      (List.range 64).any fun n =>
        let y := 64 * tileOf x + n
        counterSlot s y &&
          if y < x then decide ((s.slot y).fired ≠ s.now + 1) && canFire s y
          else decide (x < y) && decide ((s.slot y).fired = s.now + 1))

/-- Whether a change from s to u enables, in a tile where a counter operation has fired in this cycle, one of a lower slot that could
not fire before: what brings that about comes in a later cycle, since the operations of a cycle fire in the order of their slots
(R47, R335; notes/assumptions/16.md). -/
def tooLateFor (s u : State) : Bool :=
  s.tiles.any fun e =>
    let cs := ((List.range 64).map fun n => 64 * e.1 + n).filter (counterSlot s)
    let hi := cs.filter fun y => decide ((s.slot y).fired = s.now + 1)
    cs.any fun x => (hi.any fun y => decide (x < y)) && decide ((s.slot x).fired ≠ s.now + 1) && canFire u x && !canFire s x

/-- Set the heads of some links aside, and put them back in front. -/
def popHeads (s : State) (ls : List Nat) : State :=
  foldState (fun s l => s.setLink l { s.link l with q := (s.link l).q.drop 1 }) s ls
def pushHeads (old s : State) (ls : List Nat) : State :=
  foldState (fun s l => s.setLink l { s.link l with q := (old.link l).q.take 1 ++ (s.link l).q }) s ls

/-- A counter operation whose full targets' consumers fire in this cycle, behind it in the slot order, fires before them. -/
def fireThrough (s : State) (x : Nat) : Option State :=
  let ls := ((((slotInstr s x).map targetsOf).getD []).filter fun g => !targetFree s x g).filterMap (targetLink s x)
  if counterSlot s x && decide (ls ≠ []) && canFire s x then (rawFire (popHeads s ls) x).map fun t => pushHeads s t ls else none

/-! ### Firing and the control cores -/

/-- Slot x takes its turn: it fires if R47 lets it. -/
def fireTurn (x : Nat) (s : State) : State :=
  let s := { s with foc := x }
  if heldBack s x then s
  else
    match rawFire s x with
    | some t => if settled t x then t else s
    | none => (fireThrough s x).getD s

/-- The row of the opcode table that core c's next instruction is: its interrupt, an error in the fetched word, an access,
an Xpyraro instruction, or any other word (R367 to R370). -/
def coreInstr (s : State) (c : Nat) (word data : Ecc) : Instr :=
  let other : Instr := .controlCoreInstruction c word
  if coreInterrupted s c || decide (word = .uncorrectable) then other
  else
    match coreFetch (s.coreSt c) with
    | .word (some w) _ _ =>
      if isCoreAccess w then .controlCoreAccess c data
      else if isXpyraro w then (decodeXpyraro w).getD other else other
    | _ => other

/-- Core c takes its turn, one in a cycle (R296; notes/assumptions/43.md). -/
def coreTurn (c : Nat) (word data : Ecc) (s : State) : Out :=
  exec (coreInstr s c word data) (markStamp ({ s with core := c }.by (coreSource c)) (coreSource c).toNat)

/-! ### Requests ahead of need (R177) -/

/-- The address arithmetic that a port can predict: results of L, and of R where the instruction reads it, by their values. DESIGN
CHOICE (notes/assumptions/50.md): the spec lists none; the model takes the integer sums, products, logic, shifts, lesser and greater
without a predicate. -/
def coneOp : Instr → Option (DWord → DWord → Nat)
  | .mov w .always _ _ => some fun a _ => uv w.bits a
  | .add w .always _ _ => some (addW w.bits)
  | .sub w .always _ _ => some (subW w.bits)
  | .mul w .always _ _ => some (mulW w.bits)
  | .lea w .always x _ _ => some (leaW w.bits x.toNat)
  | .and w .always _ _ => some (andW w.bits)
  | .or w .always _ _ => some (orW w.bits)
  | .xor w .always _ _ => some (xorW w.bits)
  | .andn w .always _ _ => some (andnW w.bits)
  | .not w .always _ _ => some fun a _ => notW w.bits a
  | .neg w .always _ _ => some fun a _ => negW w.bits a
  | .shl w .always _ _ => some fun a b => shlW w.bits (uv w.bits b) a
  | .shr w .always _ _ => some fun a b => shrW w.bits (uv w.bits b) a
  | .shrA w .always _ _ => some fun a b => shraW w.bits (uv w.bits b) a
  | .rot w .always _ _ => some fun a b => rotW w.bits (uv w.bits b) a
  | .min w .always _ _ => some (minW w.bits)
  | .minU w .always _ _ => some (minuW w.bits)
  | .max w .always _ _ => some (maxW w.bits)
  | .maxU w .always _ _ => some (maxuW w.bits)
  | .addi w .always i _ => some fun a _ => addiW w.bits a i.toInt
  | .rsbi w .always i _ => some fun a _ => rsbiW w.bits a i.toInt
  | .shli w .always i _ => some fun a _ => shlW w.bits i.toNat a
  | .shri w .always i _ => some fun a _ => shrW w.bits i.toNat a
  | .shriA w .always i _ => some fun a _ => shraW w.bits i.toNat a
  | .apph i _ => some fun a _ => (a.toNat * 2 ^ 15 + i.toNat) % 2 ^ 64
  | _ => none

/-- The value that the address arithmetic of a tile gives a slot from values of its counters, n slots deep, and whether a counter
is in it: one whose PMASK names the port (R333). What a port, a memory, an engine or another element brings is data: it has
none (R177; DESIGN CHOICE, notes/assumptions/50.md). -/
def coneValue (ti : TileSt) (port : Nat) (ks : List KCtr) : Nat → Nat → Option (DWord × Bool)
  | 0, _ => none
  | fuel + 1, n =>
    let arg (p : Pos) : Option (DWord × Bool) :=
      match feedersOf ti.cfg p n, portOfLatch ti.cfg (latchField p n) with
      | [m], none => coneValue ti port ks fuel m.1
      | _, _ => none
    let named (cs : List Nat) : Bool := cs.all fun c => bitOf (kAt ks c).pmask.toNat port
    match cfgInstr ti.cfg n with
    | none => none
    | some (.gens i _) => some (dataOf (trunc 64 i.toInt), false)
    | some (.genu i _) => some (dataOf i.toNat, false)
    | some (.knext c _ _) => if named [c.toNat] then some (knextValue (kAt ks c.toNat), true) else none
    | some (.kread r _ _) =>
      match r with
      | .k c => if named [c.toNat] then some (kreadValue ti ks r, true) else none
      | .kpack => if named [0, 1, 2, 3] then some (kreadValue ti ks r, true) else none
      | .iter | .pass => some (kreadValue ti ks r, false)
    | some i =>
      (coneOp i).bind fun op => (arg .l).bind fun a =>
        if (latchesRead i).contains .r then (arg .r).map fun b => (dataOf (op a.1 b.1), a.2 || b.2)
        else some (dataOf (op a.1 0), a.2)

/-- Whether counter c of a tile may come to hold a value as the port of slot x predicts: any below its bound where its PMASK
names the port, else the value it holds (R177, R333). -/
def predictedCounter (ti : TileSt) (x c : Nat) (v : Word) : Bool :=
  let k := kAt ti.ks c
  decide (v = k.val) || (bitOf k.pmask.toNat (portOfSlot x) && (decide (k.lim = 0) || decide (v.toNat < k.lim.toNat)))

/-- The first byte of the part that the port of slot x, in an AT tile that runs, comes to cross into when the tile's counters hold
the values given; none where its address is no function of counters that name the port. -/
def predictedPart (s : State) (x : Nat) (vs : List Word) : Option Nat :=
  let ti := s.tile (tileOf x)
  if !tileRuns s (tileOf x) || decide (hdrType (cfgHeader ti.cfg) ≠ 1) || decide (vs.length ≠ 8) ||
      !(vs.zipIdx.all fun e => predictedCounter ti x e.2 e.1) then none
  else
    match feedersOf ti.cfg .l (slotNo x), portOfLatch ti.cfg (latchField .l (slotNo x)) with
    | [m], none =>
      ((coneValue ti (portOfSlot x) (ti.ks.zipIdx.map fun e => { e.1 with val := vs.getD e.2 0 }) 64 m.1).filter (·.2)).map
        fun a => a.1.toNat / 0x10000 * 0x10000
    | _, _ => none

/-- The port of slot x asks ahead for the page and the part that it comes to with values of its counters (R177). -/
def predictTurn (x : Nat) (vs : List Word) (s : State) : State :=
  match (slotInstr s x).bind memOp, predictedPart s x vs with
  | some o, some va => if o.isAccess then runAhead s { tile := tileOf x, port := portOfSlot x, va := va, need := o.need } else s
  | _, _ => s

/-! ### The end of a cycle (R51) -/

/-- Whether a slot's turn changes the state now. -/
def fires (s : State) (x : Nat) : Bool := decide (fireTurn x s ≠ { s with foc := x })

/-- The slots of the tiles whose sections run. -/
def liveSlots (s : State) : List Nat :=
  (s.tiles.filter fun e => decide (e.2.armed ≠ 0)).flatMap fun e => (List.range 64).map fun n => 64 * e.1 + n

/-- Whether the cycle may not end yet. -/
def cycleOpen (s : State) : Bool := (dueRows s).any (changes s) || (liveSlots s).any (fires s)

/-- The edge in a field: the MEs' flags reach their status, the buffer table takes its requests (R258, R191). -/
def fieldEdge (s : State) (f : Nat) : State :=
  let fs := s.field f
  bufferEdge (s.setField f { fs with
    mes := fs.mes.map fun m => (m.1, { m.2 with status := m.2.status ||| m.2.fresh, fresh := 0 }) }) f

/-- The edge in a graph: the contained errors of the cycle are acted on (R354), what withholds in a graph that has halted is
abandoned (R363), records of one that is being drained become VOID (R350), and a cycle in which a section has a record
outstanding does not count towards its watchdog's period (R52). -/
def graphEdge (s : State) (g : GraphSt) : State :=
  let s := containErrs s g
  let s := if g.ended then (if g.nodes = [] then abandonWithheld s g else voidDrained s g) else s
  foldState (fun s n =>
    match nodeSection n with
    | none => s
    | some c => if sectionFaulted s c then s.modSection g.id n.id fun c => { c with progress := c.progress + 1 } else s)
    s g.nodes

/-- The edge in a die: GCYC advances once synchronised (R343); the events of the cycle are counted (R344). -/
def dieEdge (s : State) (d : Nat) : State :=
  let v := s.die d
  s.setDie d { v with
    gcyc := if v.synced then v.gcyc + 1 else v.gcyc
    pmc := v.pmc.map fun p => (p.1, { p.2 with fresh := 0 })
    retw := v.retw.map fun w => (w.1, { w.2 with freshHits := 0, freshMiss := 0, freshOvfl := 0 }) }

/-- The leaks that fall in the cycle that begins: they are applied before its events (R342). -/
def leaksDue (s : State) : List Turn :=
  ((List.range 8).flatMap fun d => (List.range 3).map fun k => (d, k)).filterMap fun p =>
    if leakDue s p.1 p.2 then some (.event (.leakTick p.1 p.2)) else none

/-- The step groups that swap as the cycle begins: every rank arrived in an earlier one (R220, R246). -/
def swapsDue (s : State) : List Turn :=
  s.graphs.flatMap fun g => (g.groups.filter fun e => swapReady s g e.1).map fun e => .event (.stepSwap g.id e.1)

/-- The arbiter passes of the cycle that begins, and the ends of those that have pre-empted: they see the machine as it begins
(R319, R321, R327). -/
def passesDue (s : State) : List Turn :=
  ([0, 1, 2, 3].filter fun q => (s.quarter q).pass.isSome || (s.quarter q).placing.isSome).map fun q => .event (.arbiterPass q)

/-- The cycle ends and the next begins. -/
def advance (s : State) : State :=
  let s := resolveEdge s
  let s := foldState walksEdge s (s.fields.map (·.1))
  let s := foldState tileEdge s (s.tiles.map (·.1))
  let s := foldState fieldEdge s (s.fields.map (·.1))
  let s := foldState (fun s g => graphEdge s ((s.graph? g.id).getD g)) s s.graphs
  let s := foldState dieEdge { s with now := s.now + 1, order := [], late := false } (List.range 8)
  let s := postPending s
  { s with agenda := leaksDue s ++ swapsDue s ++ passesDue s ++ s.agenda }

/-- The clock's turn: the cycle ends once nothing is left to do in it. -/
def clockTurn (s : State) : State := if cycleOpen s then s else advance s

/-! ### Turns -/

/-- A row without an encoding: an event. -/
def isEvent (i : Instr) : Bool := (encode i).isNone

/-- Events that only the machine itself brings about. -/
def isInternal : Instr → Bool
  | .registerWrite _ _ _ => true
  | .lqcWrite _ _ _ => true
  | .crpWrite _ _ => true
  | .jnpWrite _ _ => true
  | .retwControlWrite _ _ _ => true
  | .laycGo _ _ => true
  | .leakTick _ _ => true
  | .arbiterPass _ => true
  | .stepSwap _ _ => true
  | _ => false

/-- What a turn does, its place in the order of the cycle apart; due says that the machine itself put it on its agenda. -/
def turnOf (due : Bool) (s : State) : Turn → Out
  | .fire x => .next (fireTurn x s)
  | .core c word data => coreTurn c word data s
  | .clock => .next (clockTurn s)
  | .arrive f k => .next (arriveAt s f k)
  | .upset loc b => .next (upsetBit s loc b)
  | .upsetWord pa hard => .next (upsetStore s pa hard)
  | .predict x vs => .next (predictTurn x vs s)
  | .corrected f => .next (if f < 2560 then bucketOfField s f .corrected else s)
  | .event i => if isEvent i && (due || !isInternal i) then exec i s else .next s

/-- Whether a turn may come at any time of the cycle, or in a later one: none of a slot or the clock, no row that falls due. -/
def movable (s : State) : Turn → Bool
  | .fire _ | .clock => false
  | .event i => !(dueRows s).contains i
  | _ => true

/-- Take a turn. One that is not enabled changes nothing; nor does one that comes too late for the order of its cycle, and that
may be taken again in the next (notes/assumptions/43.md). What the machine itself put on its agenda is never too late. -/
def takeTurn (due : Bool) (s : State) (t : Turn) : Out :=
  match turnOf due s t with
  | .next u =>
    .next (if u.late || (!due && movable s t && tooLateFor s u) then (if due then { u with late := false } else s) else u)
  | r => r

end Sys2Proof.Machine
end

