-- ==== Sys2Proof/Machine/Step.lean ====
section
/-! DEFINITION. One step of the machine: the turn that is due, or else the one the schedule chooses
(notes/assumptions/1.md); and a state in which a given word is the next instruction. -/

namespace Sys2Proof.Machine

/-- One step. -/
def step (s : State) : Host.Outcome State Fault Refusal :=
  match s.agenda with
  | t :: ts => takeTurn true { s with agenda := ts } t
  | [] => takeTurn false { s with turns := s.turns + 1 } (Config.schedule s.turns)

/-! ### A word as the next instruction (notes/assumptions/5.md) -/

/-- The slot that a fabric opcode's word is placed in (R85). -/
def placeSlot (op : Nat) : Nat := if op < 0x40 ∨ (0x60 ≤ op ∧ op < 0x70) then 0 else if op < 0x60 then 40 else 56

/-- The type of the block it stands in: RT for FACC and IACC, else AT (R86). -/
def placeType (op : Nat) : Nat := if op = 0x5E ∨ op = 0x5F then 3 else 1

/-- A configuration that holds one word: header, 64 slots, 16 unused ports, and depths of 15 for the latches of its slot,
so that it may be its own consumer (R76, R90). -/
def placeCfg (v : Word) (op : Nat) : List Word :=
  [BitVec.ofNat 32 (63 * 2 ^ 26 + placeType op * 2 ^ 24)]
    ++ (List.range 64).map (fun n => if n = placeSlot op then v else 0)
    ++ List.replicate 16 0xFF
    ++ 3 :: (List.range 3).map (fun p => BitVec.ofNat 32 (15 * 2 ^ 9 + 64 * p + placeSlot op))

/-- The section that runs it, the leaf that holds the section, and the graph: one field at the origin. -/
def placeGraph (s : State) : GraphSt :=
  let sec : Section :=
    { loaded := true, tiles := [0], result := none, resultPort := none, entries := [], entryPorts := [],
      progress := s.now, period := 0, aborted := false, handled := none, barked := false }
  let leaf : Node :=
    { id := s.nextId + 1, parent := none, pos := 0, idx := 0, rcd := [], iter := 0, st := .leaf sec, done := false,
      result := none }
  { id := s.nextId, qtr := 0, lq := 0, rcd := List.replicate 16 0 ++ [1, 1] ++ List.replicate 110 0, stamp := 0,
    lead := 0, col := 0, row := 0, imgLen := 0, idem := false, nodes := [leaf], guards := [], groups := [], handlers := [], errs := [],
    stray := 0, rlx := 0, kills := 0, ended := false }

/-- A fabric word as the next to fire: in tile 0 of field 0 of D0, with a DATA token of 0 in each latch of its slot. -/
def placeFabric (s : State) (v : Word) : State :=
  let op := v.toNat / 2 ^ 24
  let x := placeSlot op
  let e : Entry := { tok := { kind := .data, data := 0, psn := false }, cyc := s.now, du := 0 }
  { s with
    nextId := s.nextId + 2
    graphs := [placeGraph s]
    tiles := [(0, { TileSt.reset with cfg := placeCfg v op, armed := 1, owner := some (s.nextId, s.nextId + 1) })]
    links := (List.range 3).map fun p => (3 * x + p, { q := [e], resv := 0 })
    agenda := [.fire x] }

/-- An Xpyraro word as the next instruction of a core that may execute it. -/
def placeCore (s : State) (v : Word) (i : Instr) : State :=
  let c := match i with
    | .xtake _ => 1
    | .xsigVer _ _ => 8
    | _ => 0
  { s with
    cores := [(c, { CoreSt.reset with imem := Memory.write [] 0 (leBytes 4 v.toNat), released := true })]
    agenda := [.core c .clean .clean] }

/-- s with an instruction whose bits are w stored where the next step runs it. -/
def State.withFetchWord (s : State) (nbits w : Nat) : State :=
  let v : Word := BitVec.ofNat 32 (w % 2 ^ min nbits 32)
  match (if isXpyraro v then decodeXpyraro v else none) with
  | some i => placeCore s v i
  | none => placeFabric s v

end Sys2Proof.Machine
end

