-- ==== Sys2Proof/Safety.lean ====
section
/-! DEFINITION. The terms the claims use: what counts as a safe run, when a slot may fire, and what a firing leaves in the
latches, the links and the result latch. -/

namespace Sys2Proof

open Sys2Proof.Machine

/-! ### Safe runs -/

/-- The memory list is in canonical form: equal memories are equal data. -/
def Canonical (s : State) : Prop := Memory.wf s.mem = true

/-- n steps from s end in a state, with no fault and no refusal. -/
def RunsFor (s : State) (n : Nat) : Prop := ∃ t, Host.Core.run core n s = .next t

/-- What no instruction of the fabric disturbs: memory and its marks, the cores, the quarters' registers, the saved graphs,
the resolutions of the cycle, the boot status, the keys, the clock. -/
structure FabricFrame (s t : State) : Prop where
  bytes : ∀ a, t.byte a = s.byte a
  poison : t.poison = s.poison
  flips : t.flips = s.flips
  under : t.under = s.under
  soft : t.soft = s.soft
  tags : t.tags = s.tags
  quarters : t.quarters = s.quarters
  cores : t.cores = s.cores
  remotes : t.remotes = s.remotes
  walks : t.walks = s.walks
  saved : t.saved = s.saved
  bootst : t.bootst = s.bootst
  keys : t.keys = s.keys
  now : t.now = s.now
  turns : t.turns = s.turns
  agenda : t.agenda = s.agenda
  order : t.order = s.order
  late : t.late = s.late
  pending : t.pending = s.pending
  sent : t.sent = s.sent
  resolves : t.resolves = s.resolves
  job : t.job = s.job
  awaits : t.awaits = s.awaits

/-- A graph but for its nodes: what a firing leaves of it. -/
def outside (g : GraphSt) : GraphSt := { g with nodes := [] }

/-- What a firing of slot x leaves alone beside the fabric's frame: every other tile and slot, the registers and
configuration of its own tile, the units of every field but the bus of its own, the dies but their event counters. -/
structure FiringFrame (s t : State) (x : Nat) : Prop where
  fabric : FabricFrame s t
  tiles : ∀ u, u ≠ tileOf x → t.tile u = s.tile u
  own : { t.tile (tileOf x) with begun := false, inCnt := [], outCnt := [] } =
    { s.tile (tileOf x) with begun := false, inCnt := [], outCnt := [] }
  slots : ∀ y, y ≠ x → t.slot y = s.slot y
  fields : ∀ f, { t.field f with bus := [] } = { s.field f with bus := [] }
  buses : ∀ f, f ≠ fieldOf x → (t.field f).bus = (s.field f).bus
  dies : ∀ d, { t.die d with pmc := [] } = { s.die d with pmc := [] }

/-! ### When an element fires (R47) -/

/-- Slot s.foc, with instruction i, may fire now on the tokens r, all of them DATA: its tile runs, it is idle, each latch
that i reads holds a token, each target has room, and no checker mismatch awaits it. -/
structure Ready (s : State) (i : Instr) (r : List (Pos × Token)) : Prop where
  idle : slotReady s s.foc = true
  read : readAll s s.foc (latchesRead i) = some r
  data : ∀ e ∈ r, e.2.kind = .data
  room : targetsFree s s.foc (targetsOf i) = true
  checked : (s.slot s.foc).mismatch = none ∨ checkKind i = none

/-- The predicate of i lets the firing through: there is none, or it is clean and of the truth asked for (R48, R98). -/
def Passes (i : Instr) (r : List (Pos × Token)) : Prop :=
  match predicateOf i with
  | .always => True
  | .ifTrue => (tokenAt r .p).psn = false ∧ (tokenAt r .p).data ≠ 0
  | .ifFalse => (tokenAt r .p).psn = false ∧ (tokenAt r .p).data = 0

/-- The DU at which a firing starts: 3, or the latest arrival where that is later, or where every input is chained (R148). -/
def startDU (s : State) (i : Instr) : Nat :=
  let st := startOf s s.foc (latchesRead i)
  if st.1 = 0 then 3 else st.1

/-- The block does not put the firing off: it is not EAGER, or no input is chained, or the early delay ends in time (R158,
R159). -/
def NotDeferred (s : State) (i : Instr) : Prop :=
  hdrEager (cfgHeader (s.tile (tileOf s.foc)).cfg) = false ∨ (startOf s s.foc (latchesRead i)).2 = false ∨
    startDU s i + earlyDelay (classOf s s.foc) i ≤ 31

/-! ### What a firing leaves (R44 to R49, R97, R148, R161) -/

/-- What link l holds once slot x has consumed from the latches ps. -/
def taken (s : State) (x : Nat) (ps : List Pos) (l : Nat) : List Entry :=
  if ps.any (fun p => decide (latchNo x p = l)) then (s.link l).q.drop 1 else (s.link l).q

/-- Where a token emitted by slot x to target g arrives, and as what entry: a chained latch may be read in cycle ccyc at
delay unit du, a registered latch and a port from the next cycle, a port 40 cycles later for each die boundary; the
result port leads to no link. -/
def arrival (s : State) (x : Nat) (tok : Token) (ccyc du : Nat) : Target → Option (Nat × Entry)
  | .none => none
  | .latch c p m =>
    some (192 * tileOf x + 3 * m.toNat + posNo p,
      if chainedNow (s.tile (tileOf x)) c p m.toNat then { tok := tok, cyc := ccyc, du := du }
      else { tok := tok, cyc := s.now + 1, du := 0 })
  | .port k =>
    if isResultPort s (tileOf x) k.toNat then none
    else (portLink s (tileOf x) k.toNat).map fun a =>
      (a.1, { tok := tok, cyc := s.now + 1 + 40 * dieHops (dieOfTile (tileOf x)) (dieOfTile (a.1 / 192)), du := 0 })

/-- The entries that arrive at link l when slot x emits a token to the targets gs. -/
def arriving (s : State) (x : Nat) (tok : Token) (ccyc du : Nat) (gs : List Target) (l : Nat) : List Entry :=
  gs.filterMap fun g =>
    match arrival s x tok ccyc du g with
    | some a => if a.1 = l then some a.2 else none
    | none => none

/-- Slot x has consumed from the latches ps, and every other link is as it was. -/
def Takes (s t : State) (x : Nat) (ps : List Pos) : Prop := ∀ l, (t.link l).q = taken s x ps l

/-- Slot x has consumed from the latches ps and emitted tok to gs: each token stands at the end of its link, and a DATA
token on the result port is the section's result so far (R39). -/
def Sends (s t : State) (x : Nat) (ps : List Pos) (tok : Token) (ccyc du : Nat) (gs : List Target) : Prop :=
  (∀ l, (t.link l).q = taken s x ps l ++ arriving s x tok ccyc du gs l) ∧
    (∀ k, Target.port k ∈ gs → isResultPort s (tileOf x) k.toNat = true → tok.kind = .data →
      (ownerSection t (tileOf x)).map Section.result = some (some tok))

/-- The firing of slot x delivers tok: it is sent, or discarded where every port rate of the tile's firing had been met before
(R41, R97). -/
def Captures (s t : State) (x : Nat) (ps : List Pos) (tok : Token) (ccyc du : Nat) (gs : List Target) : Prop :=
  if (s.tile (tileOf x)).met = true then Takes s t x ps else Sends s t x ps tok ccyc du gs

/-- The token stands in slot x's result latch, to be captured in cycle due with its flags. -/
def Holds (t : State) (x : Nat) (k : ResKind) (tok : Token) (gs : List Target) (due : Nat) (fl : Word) : Prop :=
  (t.slot x).result.map (fun r => (r.kind, r.tok, r.tgts, r.due, r.flags)) = some (k, tok, gs, due, fl)

/-- The firing of i at slot s.foc has consumed from the latches ps and computed tok with the flags fl for the targets gs: an
operation with a cycle count n holds it until the end of its last cycle; one that completes after DU 31 holds it one
cycle; any other has delivered it. -/
def Fired (s t : State) (i : Instr) (ps : List Pos) (tok : Token) (gs : List Target) (fl : Word) (a b : DWord) : Prop :=
  let x := s.foc
  let done := startDU s i + (actualDelay (classOf s x) i a b).1
  (t.slot x).fired = s.now + 1 ∧
    match cycleCount (classOf s x) i with
    | some n => Takes s t x ps ∧ Holds t x .cycles tok gs (s.now + n - 1) fl
    | none =>
      if 31 < done then Takes s t x ps ∧ Holds t x .late tok gs (s.now + 1) fl
      else Captures s t x ps tok s.now (done + 1) gs ∧
        (t.tile (tileOf x)).fresh = (s.tile (tileOf x)).fresh ||| fl

/-- The data of L and R among the tokens read, 0 for a latch that holds none. -/
def headData (s : State) (p : Pos) : DWord :=
  match headAt s s.foc p with
  | some e => e.tok.data
  | none => 0

end Sys2Proof
end

