-- ==== Sys2Proof/Certificates/Slice0/Obligations.lean ====
section
/-! DEFINITION. The statements for the provers, with the tables of values they speak of. -/

open Sys2Proof Sys2Proof.Machine

/-! ### Values of the integer elements, on bit vectors of the instruction's width (R98 to R112, R119) -/

namespace Sys2Proof.Claims

/-- Memory holds what has been written to it: no stored copy differs, and nothing stands above DRAM that it lacks. -/
def AsWritten (s : State) : Prop := s.flips = [] ∧ s.under = []

/-- The low bits of a token's DATA at an instruction's width (R59, R81). -/
def low (w : Width) (x : DWord) : BitVec w.bits := x.setWidth w.bits

/-- A signed value clamped to w bits. -/
def clampS (w : Width) (v : Int) : Nat :=
  (BitVec.ofInt w.bits (max (-(2 ^ (w.bits - 1) : Nat)) (min ((2 ^ (w.bits - 1) : Nat) - 1) v))).toNat

/-- The length of a bit field that a field specification gives: bits [14:8], at most 64 (R110). -/
def specLen (c : DWord) : Nat := min (c.extractLsb' 8 7).toNat 64

/-- The field of x at position p: its low n bits, n the length cut off at the width; none where it is empty (R110). -/
def fieldAtSpec (w : Width) (x c : DWord) : Option ((n : Nat) × BitVec n) :=
  let p := (c.extractLsb' 0 6).toNat
  if w.bits ≤ p ∨ specLen c = 0 then none
  else some ⟨min (specLen c) (w.bits - p), (low w x).extractLsb' p (min (specLen c) (w.bits - p))⟩

/-- A logical shift by n places: 0 from the width on (R104). -/
def shiftUp (w : Width) (a : DWord) (n : Nat) : Nat := if w.bits ≤ n then 0 else (low w a <<< n).toNat
def shiftDown (w : Width) (a : DWord) (n : Nat) : Nat := if w.bits ≤ n then 0 else (low w a >>> n).toNat

/-- R101 to R104: sums, differences, saturating forms, lesser and greater, immediates, logic, shifts and rotation. -/
def sumValue (i : Instr) (a b : DWord) : Option Nat :=
  match i with
  | .add w _ _ _ => some (low w a + low w b).toNat
  | .sub w _ _ _ => some (low w a - low w b).toNat
  | .adds w _ _ _ => some (clampS w ((low w a).toInt + (low w b).toInt))
  | .addsU w _ _ _ => some (min ((low w a).toNat + (low w b).toNat) (2 ^ w.bits - 1))
  | .subs w _ _ _ => some (clampS w ((low w a).toInt - (low w b).toInt))
  | .subsU w _ _ _ => some ((low w a).toNat - (low w b).toNat)
  | .min w _ _ _ => some (if (low w a).toInt ≤ (low w b).toInt then low w a else low w b).toNat
  | .minU w _ _ _ => some (min (low w a).toNat (low w b).toNat)
  | .max w _ _ _ => some (if (low w a).toInt ≤ (low w b).toInt then low w b else low w a).toNat
  | .maxU w _ _ _ => some (max (low w a).toNat (low w b).toNat)
  | .addi w _ n _ => some (low w a + n.signExtend w.bits).toNat
  | .rsbi w _ n _ => some (n.signExtend w.bits - low w a).toNat
  | .addiS w _ n _ => some (clampS w ((low w a).toInt + n.toInt))
  | .rsbiS w _ n _ => some (clampS w (n.toInt - (low w a).toInt))
  | .and w _ _ _ => some (low w a &&& low w b).toNat
  | .or w _ _ _ => some (low w a ||| low w b).toNat
  | .xor w _ _ _ => some (low w a ^^^ low w b).toNat
  | .andn w _ _ _ => some (low w a &&& ~~~low w b).toNat
  | .not w _ _ _ => some (~~~low w a).toNat
  | .shl w _ _ _ => some (shiftUp w a (low w b).toNat)
  | .shr w _ _ _ => some (shiftDown w a (low w b).toNat)
  | .shrA w _ _ _ => some ((low w a).sshiftRight (min (low w b).toNat (w.bits - 1))).toNat
  | .rot w _ _ _ => some ((low w a).rotateLeft (low w b).toNat).toNat
  | .shli w _ n _ => some (shiftUp w a n.toNat)
  | .shri w _ n _ => some (shiftDown w a n.toNat)
  | .shriA w _ n _ => some ((low w a).sshiftRight (min n.toNat (w.bits - 1))).toNat
  | _ => none

/-- 1 where a condition holds, else 0, as a 64-bit value (R107). -/
def truth (c : Bool) : Nat := if c then 1 else 0

/-- R106 to R109: absolute value, negation, comparisons, selection, constants. -/
def choiceValue (i : Instr) (a b c : DWord) : Option Nat :=
  match i with
  | .abs w _ _ _ => some (if (low w a).toInt < 0 then -low w a else low w a).toNat
  | .neg w _ _ _ => some (-low w a).toNat
  | .absS w _ _ _ => some (clampS w (max (low w a).toInt (-(low w a).toInt)))
  | .negS w _ _ _ => some (clampS w (-(low w a).toInt))
  | .cmpEq w _ _ _ => some (truth (low w a == low w b))
  | .cmpNe w _ _ _ => some (truth (low w a != low w b))
  | .cmpLt w _ _ _ => some (truth ((low w a).slt (low w b)))
  | .cmpLe w _ _ _ => some (truth ((low w a).sle (low w b)))
  | .cmpLtu w _ _ _ => some (truth ((low w a).ult (low w b)))
  | .cmpLeu w _ _ _ => some (truth ((low w a).ule (low w b)))
  | .cmpiEq w _ n _ => some (truth (low w a == n.signExtend w.bits))
  | .cmpiNe w _ n _ => some (truth (low w a != n.signExtend w.bits))
  | .cmpiLt w _ n _ => some (truth (decide ((low w a).toInt < n.toInt)))
  | .cmpiLe w _ n _ => some (truth (decide ((low w a).toInt ≤ n.toInt)))
  | .cmpiGt w _ n _ => some (truth (decide ((low w a).toInt > n.toInt)))
  | .cmpiGe w _ n _ => some (truth (decide ((low w a).toInt ≥ n.toInt)))
  | .cmpiLtu w _ n _ => some (truth (decide ((low w a).toNat < n.toNat)))
  | .cmpiLeu w _ n _ => some (truth (decide ((low w a).toNat ≤ n.toNat)))
  | .cmpiGtu w _ n _ => some (truth (decide ((low w a).toNat > n.toNat)))
  | .cmpiGeu w _ n _ => some (truth (decide ((low w a).toNat ≥ n.toNat)))
  | .test w _ _ _ => some (truth (low w a &&& low w b != 0))
  | .testZ w _ _ _ => some (truth (low w a &&& low w b == 0))
  | .sel w _ _ => some (if c ≠ 0 then low w a else low w b).toNat
  | .mov w _ _ _ => some (low w a).toNat
  | .gens n _ => some (n.signExtend 64).toNat
  | .genu n _ => some n.toNat
  | .apph n _ => some (a <<< 15 ||| n.setWidth 64).toNat
  | _ => none

/-- R105, R110 to R112, R119: bit counts, fields, addresses, division and products. -/
def countValue (i : Instr) (a b c : DWord) : Option Nat :=
  match i with
  | .clz w _ _ _ => some (if low w a = 0 then w.bits else w.bits - 1 - (low w a).toNat.log2)
  | .popc w _ _ _ => some ((List.range w.bits).countP fun k => (low w a).getLsbD k)
  | .brev w _ _ _ => some (low w a).reverse.toNat
  | .extr w _ _ _ =>
    some (match fieldAtSpec w a b with
      | some f => f.2.toNat
      | none => 0)
  | .extrS w _ _ _ =>
    some (match fieldAtSpec w a b with
      | some f => (f.2.signExtend w.bits).toNat
      | none => 0)
  | .insf w _ _ =>
    some (match fieldAtSpec w a c with
      | some f =>
        let p := (c.extractLsb' 0 6).toNat
        let mask := (BitVec.allOnes f.1).setWidth w.bits <<< p
        ((low w a &&& ~~~mask) ||| ((low w b <<< p) &&& mask)).toNat
      | none => (low w a).toNat)
  | .lea w _ x _ _ => some (a + ((low w b).signExtend 64 <<< x.toNat)).toNat
  | .div w _ _ _ => some (if low w b = 0 then BitVec.allOnes w.bits else (low w a).sdiv (low w b)).toNat
  | .rem w _ _ _ => some (if low w b = 0 then low w a else (low w a).srem (low w b)).toNat
  | .divU w _ _ _ => some (if low w b = 0 then BitVec.allOnes w.bits else low w a / low w b).toNat
  | .remU w _ _ _ => some (if low w b = 0 then low w a else low w a % low w b).toNat
  | .mul w _ _ _ => some (low w a * low w b).toNat
  | .mulh w _ _ _ => some (BitVec.ofInt w.bits ((low w a).toInt * (low w b).toInt / (2 ^ w.bits : Nat))).toNat
  | .mulhU w _ _ _ => some ((low w a).toNat * (low w b).toNat / 2 ^ w.bits)
  | _ => none

/-- The firing of an element on the tokens r: the value v goes out as DATA, poisoned where any token read was (R43, R99). -/
def Computes (s : State) (i : Instr) (r : List (Pos × Token)) (v : Nat) (fl : Word) : Prop :=
  ∃ t, exec i s = .next t ∧
    Fired s t i (latchesRead i) { kind := .data, data := BitVec.ofNat 64 v, psn := r.any fun e => e.2.psn } (targetsOf i) fl
      (headData s .l) (headData s .r)

end Sys2Proof.Claims

open Sys2Proof.Claims

/-! ### Elements -/

/-- R101 to R104 with R43, R46, R59 and R99: what the sums, logic and shifts emit, for every width, predicate and target. -/
def Obligations.SumsAndShifts : Prop :=
  ∀ (s : State) (i : Instr) (r : List (Pos × Token)) (v : Nat), Ready s i r → Passes i r → NotDeferred s i →
    sumValue i (tokenAt r .l).data (tokenAt r .r).data = some v → Computes s i r v 0

/-- R106 to R109: what the choices, comparisons and constants emit. -/
def Obligations.ChoicesAndConstants : Prop :=
  ∀ (s : State) (i : Instr) (r : List (Pos × Token)) (v : Nat), Ready s i r → Passes i r → NotDeferred s i →
    choiceValue i (tokenAt r .l).data (tokenAt r .r).data (tokenAt r .p).data = some v → Computes s i r v 0

/-- R105, R110 to R112, R119: what the counts, fields, addresses, divisions and products emit. -/
def Obligations.CountsAndProducts : Prop :=
  ∀ (s : State) (i : Instr) (r : List (Pos × Token)) (v : Nat), Ready s i r → Passes i r → NotDeferred s i →
    countValue i (tokenAt r .l).data (tokenAt r .r).data (tokenAt r .p).data = some v → Computes s i r v 0

/-! ### Floating point (R65 to R69, R114 to R121) -/

namespace Sys2Proof.Claims

/-- A format's operand in a token's DATA, and its value (R56, R59). -/
def fbits (f : FloatFmt) (a : DWord) : Nat := a.toNat % 2 ^ f.width
def fval (f : FloatFmt) (a : DWord) : FVal := decodeF f (fbits f a)

/-- The exact value of a finite pattern. -/
def ratOf : FVal → ℚ
  | .fin n m e => (if n then -1 else 1) * (m : ℚ) * (2 : ℚ) ^ e
  | _ => 0

/-- The formats of R56. -/
def floatFmts : List FloatFmt := [fp32, fp16, bf16, e5m2, e4m3, e3m2, e2m3, e2m1]

/-- What a floating-point, multiply or conversion element computes: its pattern and its flags (R115 to R121). -/
def floatValue (i : Instr) (a b : DWord) : Option FRes :=
  match i with
  | .fadd f _ _ _ => some (faddV (fmtOf f.kind) f.dir (fval (fmtOf f.kind) a) (fval (fmtOf f.kind) b))
  | .fsub f _ _ _ => some (faddV (fmtOf f.kind) f.dir (fval (fmtOf f.kind) a) (fval (fmtOf f.kind) b).neg)
  | .fmul f _ _ _ => some (fmulV (fmtOf f.kind) f.dir (fval (fmtOf f.kind) a) (fval (fmtOf f.kind) b))
  | .fdiv f _ _ _ => some (fdivV (fmtOf f.kind) f.dir (fval (fmtOf f.kind) a) (fval (fmtOf f.kind) b))
  | .fsqrt f _ _ _ => some (fsqrtV (fmtOf f.kind) f.dir (fval (fmtOf f.kind) a))
  | .fmin f _ _ _ => some (fminmax (fmtOf f) false (fbits (fmtOf f) a) (fbits (fmtOf f) b))
  | .fmax f _ _ _ => some (fminmax (fmtOf f) true (fbits (fmtOf f) a) (fbits (fmtOf f) b))
  | .fabs f _ _ _ => some (fsignOp (fmtOf f) false (fbits (fmtOf f) a))
  | .fneg f _ _ _ => some (fsignOp (fmtOf f) true (fbits (fmtOf f) a))
  | .fcmpEq f _ _ _ => some (boolRes (fcmp (fmtOf f) .eq (fbits (fmtOf f) a) (fbits (fmtOf f) b)))
  | .fcmpNe f _ _ _ => some (boolRes (fcmp (fmtOf f) .ne (fbits (fmtOf f) a) (fbits (fmtOf f) b)))
  | .fcmpLt f _ _ _ => some (boolRes (fcmp (fmtOf f) .lt (fbits (fmtOf f) a) (fbits (fmtOf f) b)))
  | .fcmpLe f _ _ _ => some (boolRes (fcmp (fmtOf f) .le (fbits (fmtOf f) a) (fbits (fmtOf f) b)))
  | .fcmpUn f _ _ _ => some (boolRes (fcmp (fmtOf f) .un (fbits (fmtOf f) a) (fbits (fmtOf f) b)))
  | .frnd f _ _ _ => some (frnd (fmtOf f.kind) f.dir (fbits (fmtOf f.kind) a))
  | .cvtIfSw f _ _ _ => some (cvtIF (fmtOf f.kind) f.dir (a.setWidth 32).toInt)
  | .cvtIfSd f _ _ _ => some (cvtIF (fmtOf f.kind) f.dir a.toInt)
  | .cvtIfUw f _ _ _ => some (cvtIF (fmtOf f.kind) f.dir ((a.setWidth 32).toNat : Nat))
  | .cvtIfUd f _ _ _ => some (cvtIF (fmtOf f.kind) f.dir (a.toNat : Nat))
  | .cvtFiSw f _ _ _ => some (cvtFI (fmtOf f.kind) f.dir true 32 (fbits (fmtOf f.kind) a))
  | .cvtFiSd f _ _ _ => some (cvtFI (fmtOf f.kind) f.dir true 64 (fbits (fmtOf f.kind) a))
  | .cvtFiUw f _ _ _ => some (cvtFI (fmtOf f.kind) f.dir false 32 (fbits (fmtOf f.kind) a))
  | .cvtFiUd f _ _ _ => some (cvtFI (fmtOf f.kind) f.dir false 64 (fbits (fmtOf f.kind) a))
  | .cvtFfF32 f _ _ _ => some (cvtFF (fmtOf f.kind) fp32 f.dir (fbits (fmtOf f.kind) a))
  | .cvtFfF16 f _ _ _ => some (cvtFF (fmtOf f.kind) fp16 f.dir (fbits (fmtOf f.kind) a))
  | .cvtFfBf16 f _ _ _ => some (cvtFF (fmtOf f.kind) bf16 f.dir (fbits (fmtOf f.kind) a))
  | .cvtN f (.f n) _ _ => some (cvtNarrow (fmtOf f) (narrowFmt n) (fbits (fmtOf f) a))
  | .cvtN f (.i n) _ _ => some (cvtFI (fmtOf f) .rne n.signed n.bits (fbits (fmtOf f) a))
  | .cvtNW n _ _ => some (cvtWiden (narrowFmt n) (fbits (narrowFmt n) a))
  | .cvtNI n _ _ => some (cvtNI n.signed n.bits (a.setWidth 32).toInt)
  | _ => none

end Sys2Proof.Claims

/-- R114 to R121: every floating-point element and conversion emits its rounded pattern, and its flags reach TFST with it. -/
def Obligations.FloatElements : Prop :=
  ∀ (s : State) (i : Instr) (r : List (Pos × Token)) (v : FRes), Ready s i r → Passes i r → NotDeferred s i →
    floatValue i (tokenAt r .l).data (tokenAt r .r).data = some v → Computes s i r v.1 v.2.toWord

/-- R65, R66: the one rounding of the model delivers, wherever it does not overflow, the nearest finite pattern of every
format, the even one of two equally near; towards zero, the largest that does not exceed the exact magnitude. -/
def Obligations.RoundsCorrectly : Prop :=
  ∀ f ∈ floatFmts, ∀ (neg : Bool) (m : Nat) (e : Int) (p : Nat), m ≠ 0 → p ≤ f.maxBits →
    let exact : ℚ := (m : ℚ) * (2 : ℚ) ^ e
    let near := roundMag f .rne neg m e
    let zero := roundMag f .rtz neg m e
    (near.overflow = false →
      |ratOf (decodeF f near.mag) - exact| ≤ |ratOf (decodeF f p) - exact| ∧
        (|ratOf (decodeF f near.mag) - exact| = |ratOf (decodeF f p) - exact| → p = near.mag ∨ near.mag % 2 = 0)) ∧
    (zero.overflow = false →
      ratOf (decodeF f zero.mag) ≤ exact ∧ (ratOf (decodeF f p) ≤ exact → ratOf (decodeF f p) ≤ ratOf (decodeF f zero.mag)))

/-- R68: the invalid cases of FADD, of FSUB, which adds the second operand with its sign changed, of FMUL, FDIV and FSQRT deliver
the canonical NaN and set NV, whatever the direction and the signs of the operands. -/
def Obligations.InvalidGivesNaN : Prop :=
  ∀ (f : FloatFmt) (d : Dir) (n k : Bool) (x : FVal) (m : Nat) (e e' : Int),
    faddV f d (.inf n) (.inf !n) = (f.nanBits, { nv := true }) ∧
    faddV f d (.inf n) (FVal.inf n).neg = (f.nanBits, { nv := true }) ∧
    fmulV f d (.inf n) (.fin k 0 e) = (f.nanBits, { nv := true }) ∧
    fmulV f d (.fin n 0 e) (.inf k) = (f.nanBits, { nv := true }) ∧
    fdivV f d (.fin n 0 e) (.fin k 0 e') = (f.nanBits, { nv := true }) ∧
    fdivV f d (.inf n) (.inf k) = (f.nanBits, { nv := true }) ∧
    (m ≠ 0 → fsqrtV f d (.fin true m e) = (f.nanBits, { nv := true })) ∧ fsqrtV f d (.inf true) = (f.nanBits, { nv := true }) ∧
    faddV f d (.nan true) x = (f.nanBits, { nv := true }) ∧ faddV f d x (.nan true) = (f.nanBits, { nv := true }) ∧
    fmulV f d (.nan true) x = (f.nanBits, { nv := true }) ∧ fmulV f d x (.nan true) = (f.nanBits, { nv := true }) ∧
    fdivV f d (.nan true) x = (f.nanBits, { nv := true }) ∧ fdivV f d x (.nan true) = (f.nanBits, { nv := true }) ∧
    fsqrtV f d (.nan true) = (f.nanBits, { nv := true })

/-! ### Markers, predicates, accumulators, counters, router operators -/

namespace Sys2Proof.Claims

/-- The token that a marker instruction makes of its trigger (R123). -/
def markerOf (i : Instr) (a : DWord) : Option (Kind × DWord) :=
  match i with
  | .eos _ _ _ => some (.eos, a)
  | .eosI _ n _ => some (.eos, n.setWidth 64)
  | .eot _ _ _ => some (.eot, a)
  | .eotI _ n _ => some (.eot, n.setWidth 64)
  | .mark _ _ _ => some (.ord, a)
  | .markI _ n _ => some (.ord, n.setWidth 64)
  | _ => none

/-- The elements that follow R124: integer, floating-point, conversion, product and marker instructions. -/
def isPlain (i : Instr) : Bool :=
  (sumValue i 0 0).isSome || (choiceValue i 0 0 0).isSome || (countValue i 0 0 0).isSome || (floatValue i 0 0).isSome ||
    (markerOf i 0).isSome

/-- A control token that is not poisoned (R126). -/
def cleanToken (c : Option Token) : Option Token := c.filter fun k => !k.psn

/-- What a router operator does on the tokens it sees: latches consumed, token emitted, targets, hold value (R126, R127). -/
def routerCase (i : Instr) (h : Hold) (l r p : Option Token) : Option (List Pos × Option Token × List Target × Hold) :=
  match i, l, r, p with
  | .steer t1 t0, some a, _, none => if a.kind = .data then none else some ([.l], some a, [t0, t1], h)
  | .steer t1 t0, some a, _, some c =>
    if a.kind ≠ .data then some ([.l], some a, [t0, t1], h)
    else if c.psn then none
    else if c.kind ≠ .data then some ([.p], none, [], h)
    else some ([.l, .p], some a, [if c.data ≠ 0 then t1 else t0], h)
  | .merge t1 t0, a, b, some c =>
    if c.psn then none
    else if c.kind ≠ .data then some ([.p], some c, [t0, t1], h)
    else if c.data ≠ 0 then b.map fun k => ([.p, .r], some k, [t0, t1], h)
    else a.map fun k => ([.p, .l], some k, [t0, t1], h)
  | .mergeRr t1 t0, a, b, _ =>
    if h.phase = 0 then a.map fun k => ([.l], some k, [t0, t1], { h with phase := 1 })
    else if h.phase = 1 then b.map fun k => ([.r], some k, [t0, t1], { h with phase := 0 })
    else none
  | .carry t1 t0, a, b, c =>
    if h.phase = 0 then a.map fun k => ([.l], some k, [t0, t1], { h with phase := 1 })
    else match cleanToken c with
      | none => none
      | some c =>
        match c.kind with
        | .data =>
          if c.data ≠ 0 then b.map fun k => ([.p, .r], some k, [t0, t1], h)
          else some ([.p], none, [], { h with phase := 0 })
        | .eos => some ([.p], some c, [t0, t1], { h with phase := 0 })
        | _ => some ([.p], some c, [t0, t1], h)
  | .carryI n t0, _, b, c =>
    if h.phase = 0 then
      some ([], some { kind := .data, data := n.signExtend 64, psn := false }, [t0], { h with phase := 1 })
    else if h.phase = 1 then
      match cleanToken c with
      | none => none
      | some c =>
        match c.kind with
        | .data =>
          if c.data ≠ 0 then b.map fun k => ([.p, .r], some k, [t0], h)
          else some ([.p], none, [], { h with phase := 2 })
        | .eos => some ([.p], some c, [t0], { h with phase := 2 })
        | _ => some ([.p], some c, [t0], h)
    else none
  | .invar t1 t0, a, _, c =>
    if h.phase = 0 then a.map fun k => ([.l], none, [], { h with phase := 1, tok := some k })
    else match cleanToken c with
      | none => none
      | some c =>
        match c.kind with
        | .data =>
          if c.data ≠ 0 then some ([.p], h.tok, [t0, t1], h)
          else some ([.p], none, [], { h with phase := 0, tok := none })
        | .eos => some ([.p], some c, [t0, t1], { h with phase := 0, tok := none })
        | _ => some ([.p], some c, [t0, t1], h)
  | .gate t1 t0, a, _, some c =>
    if c.psn then none
    else if c.kind ≠ .data then some ([.p], some c, [t0, t1], h)
    else a.map fun k => ([.p, .l], if c.data ≠ 0 then some k else none, [t0, t1], h)
  | .sink, some _, _, _ => some ([.l], none, [], h)
  | .sinkA t1 t0, some a, _, _ =>
    match a.kind with
    | .data => some ([.l], none, [], { h with count := h.count + 1, psn := h.psn || a.psn })
    | .eos =>
      some ([.l], some { kind := .data, data := h.count, psn := h.psn || a.psn }, [t0, t1], { h with count := 0, psn := false })
    | _ => some ([.l], some a, [t0, t1], h)
  | .ordj t1 t0, some a, some b, _ =>
    some ([.l, .r], some { kind := .ord, data := 0, psn := a.psn || b.psn }, [t0, t1], h)
  | _, _, _, _ => none

/-- The token at a latch of the slot in question. -/
def seen (s : State) (p : Pos) : Option Token := (headAt s s.foc p).map Entry.tok

/-- The slot may fire, targets and tokens apart. -/
def Idle (s : State) (i : Instr) : Prop :=
  slotReady s s.foc = true ∧ ((s.slot s.foc).mismatch = none ∨ checkKind i = none)

/-- The sum of FACC and of IACC once a DATA token is in: its pattern and flags; old is the open sum (R122). -/
def sumStep (i : Instr) (old : Option DWord) (a : DWord) : Option FRes :=
  match i with
  | .facc f _ _ =>
    let m := fmtOf f.kind
    match old with
    | some o => some (faddV m f.dir (fval m o) (fval m a))
    | none => some (match fval m a with
      | .nan sig => (m.nanBits, { nv := sig })
      | _ => (fbits m a, Flags.none))
  | .iacc w sat _ _ =>
    let o : DWord := old.getD 0
    some (if sat then clampS w ((low w o).toInt + (low w a).toInt) else (low w o + low w a).toNat, Flags.none)
  | _ => none

/-- The open sum of a slot (R122). -/
def sumOf (s : State) (x : Nat) : Option Token :=
  match (s.slot x).result with
  | some r => if r.kind = .acc then some r.tok else none
  | none => none

/-- A counter instruction on a DATA token: the counters it leaves and the value it emits (R334 to R336, R338). -/
def counterValue (s : State) (i : Instr) (a : Token) : Option (List KCtr × Nat) :=
  let ks := (s.tile (tileOf s.foc)).ks
  let k (c : Nat) : KCtr := (ks[c]?).getD KCtr.reset
  match i with
  | .kset c _ _ =>
    if a.psn ∨ a.data.extractLsb' 33 7 ≠ 0 ∨ a.data.extractLsb' 48 16 ≠ 0 ∨ (c = 0 ∧ a.data.getLsbD 32 = true) then none
    else some (setAt ks c.toNat { val := 0, lim := a.data.extractLsb' 0 32, chain := a.data.getLsbD 32,
                                  pmask := a.data.extractLsb' 40 8 }, 0)
  | .knext c _ _ =>
    some (kAdvance 8 ks c.toNat, truth (kLast (k c.toNat)) * 2 ^ 32 + (k c.toNat).val.toNat)
  | .klast c _ _ => some (ks, truth (kLast (k c.toNat)))
  | .kread (.k c) _ _ => some (ks, (k c.toNat).val.toNat)
  | .kread .kpack _ _ =>
    some (ks, (((k 3).val.setWidth 16 ++ (k 2).val.setWidth 16 ++ (k 1).val.setWidth 16 ++ (k 0).val.setWidth 16 : DWord)).toNat)
  | .kread .iter _ _ => some (ks, (s.tile (tileOf s.foc)).iter.toNat)
  | .kread .pass _ _ => some (ks, (s.tile (tileOf s.foc)).armed.toNat)
  | _ => none

/-- The value of a counter chain from counter c, and its modulus: each counter is a digit below its limit, a limit of 0
standing for 2^32 (R334). -/
def chainValue (ks : List KCtr) : Nat → Nat → Nat × Nat
  | 0, _ => (0, 1)
  | n + 1, c =>
    let k := (ks[c]?).getD KCtr.reset
    let lim := if k.lim = 0 then 2 ^ 32 else k.lim.toNat
    if c < 7 ∧ ((ks[c + 1]?).getD KCtr.reset).chain = true then
      let up := chainValue ks n (c + 1)
      (k.val.toNat + lim * up.1, lim * up.2)
    else (k.val.toNat, lim)

/-- The instructions that fire in a tile and touch nothing outside it: elements, accumulators, counters, router operators. -/
def isElement (i : Instr) : Bool :=
  isPlain i || (match i with
    | .facc _ _ _ => true
    | .iacc _ _ _ _ => true
    | .kset _ _ _ => true
    | .knext _ _ _ => true
    | .klast _ _ _ => true
    | .kread _ _ _ => true
    | .steer _ _ => true
    | .merge _ _ => true
    | .mergeRr _ _ => true
    | .carry _ _ => true
    | .carryI _ _ => true
    | .invar _ _ => true
    | .gate _ _ => true
    | .sink => true
    | .sinkA _ _ => true
    | .ordj _ _ => true
    | _ => false)

/-- What an element at slot x leaves alone: every other tile, slot and field, the links of other consumers and producers, the
registers of its own tile but flags still to be set, counts and counters, the dies but their event counters. -/
structure ElementFrame (s t : State) (x : Nat) (gs : List Target) : Prop where
  quarters : t.quarters = s.quarters
  remotes : t.remotes = s.remotes
  walks : t.walks = s.walks
  sent : t.sent = s.sent
  awaits : t.awaits = s.awaits
  job : t.job = s.job
  resolves : t.resolves = s.resolves
  order : t.order = s.order
  late : t.late = s.late
  /-- A PRED-FAIL of the field's bucket may wait for its source (R296, R342). -/
  pending : s.pending <+: t.pending
  tiles : ∀ u, u ≠ tileOf x → t.tile u = s.tile u
  own : { t.tile (tileOf x) with fresh := 0, defNow := 0, ks := [], begun := false, inCnt := [], outCnt := [] } =
    { s.tile (tileOf x) with fresh := 0, defNow := 0, ks := [], begun := false, inCnt := [], outCnt := [] }
  slots : ∀ y, y ≠ x → t.slot y = s.slot y
  links : ∀ l, (∀ p, l ≠ latchNo x p) → (∀ g ∈ gs, targetLink s x g ≠ some l) → t.link l = s.link l
  fields : ∀ f, { t.field f with eosNow := [], fill := 0 } = { s.field f with eosNow := [], fill := 0 }
  dies : ∀ d, { t.die d with pmc := [] } = { s.die d with pmc := [] }
  graphs : t.graphs.map outside = s.graphs.map outside

end Sys2Proof.Claims

/-- R123: a marker instruction makes one token of its kind of a DATA trigger. -/
def Obligations.MarkersMade : Prop :=
  ∀ (s : State) (i : Instr) (r : List (Pos × Token)) (k : Kind) (v : DWord), Ready s i r → Passes i r → NotDeferred s i →
    markerOf i (tokenAt r .l).data = some (k, v) →
      ∃ t, exec i s = .next t ∧
        Fired s t i (latchesRead i) { kind := k, data := v, psn := r.any fun e => e.2.psn } (targetsOf i) 0
          (headData s .l) (headData s .r)

/-- R48: an element whose clean predicate fails consumes every input it reads, emits nothing and raises no flag. -/
def Obligations.PredicateSuppresses : Prop :=
  ∀ (s : State) (i : Instr) (r : List (Pos × Token)), isPlain i = true → Idle s i → NotDeferred s i →
    readAll s s.foc (latchesRead i) = some r → (∀ e ∈ r, e.2.kind = .data) → (tokenAt r .p).psn = false →
    (predicateOf i = .ifTrue ∧ (tokenAt r .p).data = 0 ∨ predicateOf i = .ifFalse ∧ (tokenAt r .p).data ≠ 0) →
      ∃ t, exec i s = .next t ∧ Takes s t s.foc (latchesRead i) ∧ (t.slot s.foc).result = (s.slot s.foc).result ∧
        (t.slot s.foc).fired = s.now + 1 ∧ (t.tile (tileOf s.foc)).fresh = (s.tile (tileOf s.foc)).fresh

/-- R124, cases 1 to 3: a passing marker is consumed from the first input that holds one, in the order L, R, P, and emitted
unchanged, the other inputs untouched; EOS on every input is consumed and one EOS goes out with L's payload and the OR of
the poison bits; in a DRAIN block EOS on some inputs and DATA on the others consumes and discards the DATA, leaves the EOS
and emits nothing. -/
def Obligations.MarkersPass : Prop :=
  ∀ (s : State) (i : Instr) (r : List (Pos × Token)), isPlain i = true → Idle s i → NotDeferred s i →
    readAll s s.foc (latchesRead i) = some r →
    let at' : Nat × Nat := match cycleCount (classOf s s.foc) i with
      | some _ => (s.now + 1, 0)
      | none => (s.now, startDU s i + min 1 ((lateDelay (classOf s s.foc) i).getD 1) + 1)
    (∀ (before after : List (Pos × Token)) (p : Pos) (m : Token), r = before ++ (p, m) :: after →
      (∀ e ∈ before, e.2.kind = .data ∨ e.2.kind = .eos) → (m.kind = .eot ∨ m.kind = .ord) →
      targetsFree s s.foc (targetsOf i) = true →
        ∃ t, exec i s = .next t ∧ Captures s t s.foc [p] m at'.1 at'.2 (targetsOf i)) ∧
    ((∀ e ∈ r, e.2.kind = .eos) → targetsFree s s.foc (targetsOf i) = true →
        ∃ t, exec i s = .next t ∧
          Captures s t s.foc (latchesRead i) { kind := .eos, data := (tokenAt r .l).data, psn := r.any fun e => e.2.psn }
            at'.1 at'.2 (targetsOf i)) ∧
    ((∀ e ∈ r, e.2.kind = .data ∨ e.2.kind = .eos) → (∃ e ∈ r, e.2.kind = .data) → (∃ e ∈ r, e.2.kind = .eos) →
      hdrDrain (cfgHeader (s.tile (tileOf s.foc)).cfg) = true →
        ∃ t, exec i s = .next t ∧
          Takes s t s.foc ((r.filter fun e => decide (e.2.kind = .data)).map Prod.fst) ∧
          (t.slot s.foc).result = (s.slot s.foc).result)

/-- R122: a DATA token goes into the open sum of FACC or IACC and nothing goes out; an EOS first sends the sum, DATA 0 where
none is open, and stays; the next firing consumes the EOS and sends it unchanged; another marker passes. -/
def Obligations.Accumulators : Prop :=
  ∀ (s : State) (i : Instr) (e : Entry), (sumStep i none 0).isSome = true → slotReady s s.foc = true →
    (s.slot s.foc).mismatch = none → headAt s s.foc .l = some e →
    (∀ v : FRes, e.tok.kind = .data → sumStep i ((sumOf s s.foc).map Token.data) e.tok.data = some v →
      ∃ t, exec i s = .next t ∧ Takes s t s.foc [.l] ∧
        sumOf t s.foc = some { kind := .data, data := BitVec.ofNat 64 v.1,
                               psn := e.tok.psn || ((sumOf s s.foc).map Token.psn).getD false } ∧
        (t.slot s.foc).hold = (s.slot s.foc).hold ∧
        (t.tile (tileOf s.foc)).fresh = (s.tile (tileOf s.foc)).fresh ||| v.2.toWord) ∧
    (e.tok.kind = .eos → targetsFree s s.foc (targetsOf i) = true → (s.slot s.foc).hold.phase = 0 →
      ∃ t, exec i s = .next t ∧
        Captures s t s.foc [] ((sumOf s s.foc).getD { kind := .data, data := 0, psn := false }) (s.now + 1) 0 (targetsOf i) ∧
        sumOf t s.foc = none ∧ (t.slot s.foc).hold.phase = 1) ∧
    (e.tok.kind = .eos → targetsFree s s.foc (targetsOf i) = true → (s.slot s.foc).hold.phase = 1 →
      ∃ t, exec i s = .next t ∧ Captures s t s.foc [.l] e.tok (s.now + 1) 0 (targetsOf i) ∧ (t.slot s.foc).hold.phase = 0) ∧
    (e.tok.kind = .eot ∨ e.tok.kind = .ord → targetsFree s s.foc (targetsOf i) = true →
      ∃ t, exec i s = .next t ∧ Captures s t s.foc [.l] e.tok (s.now + 1) 0 (targetsOf i) ∧ sumOf t s.foc = sumOf s s.foc)

/-- R334 to R336, R338: the counter instructions emit what they read of the counters and leave what they write; an advance adds
one to the number that a chain of counters spells, modulo its range. -/
def Obligations.CountersCount : Prop :=
  (∀ (s : State) (i : Instr) (e : Entry) (ks : List KCtr) (v : Nat), slotReady s s.foc = true →
    headAt s s.foc .l = some e → e.tok.kind = .data →
    targetsFree s s.foc (targetsOf i) = true → counterValue s i e.tok = some (ks, v) →
      ∃ t, exec i s = .next t ∧
        Captures s t s.foc [.l] { kind := .data, data := BitVec.ofNat 64 v, psn := e.tok.psn } (s.now + 1) 0 (targetsOf i) ∧
        (t.tile (tileOf s.foc)).ks = ks) ∧
  ∀ (ks : List KCtr) (c : Nat), ks.length = 8 → c < 8 →
    (∀ k ∈ ks, k.lim = 0 ∨ k.val.toNat < k.lim.toNat) →
      (chainValue (kAdvance 8 ks c) 8 c).1 = ((chainValue ks 8 c).1 + 1) % (chainValue ks 8 c).2

/-- R126, R127: each router operator, in each of its cases, consumes, emits and holds what its row says. The firing starts, and is
admitted or deferred, by the arrivals of all its latches: that a chained token which the case at hand leaves unread counts for
them is the model's choice (notes/assumptions/44.md). -/
def Obligations.RouterOperators : Prop :=
  ∀ (s : State) (i : Instr) (ps : List Pos) (o : Option Token) (gs : List Target) (h : Hold), Idle s i → NotDeferred s i →
    routerCase i (s.slot s.foc).hold (seen s .l) (seen s .r) (seen s .p) = some (ps, o, gs, h) →
    (o.isSome = true → targetsFree s s.foc gs = true) →
      ∃ t, exec i s = .next t ∧ (t.slot s.foc).hold = h ∧
        match o with
        | some k => Fired s t i ps k gs 0 (headData s .l) (headData s .r)
        | none => Takes s t s.foc ps ∧ (t.slot s.foc).fired = s.now + 1

/-- What no element changes, on any path: memory, the marks on it, the cores, the saved graphs, the boot status, the keys and
the clock. Where it raises no fault record (no identifier is taken), it leaves everything outside its own slot, its latches,
its targets' links and its tile's counts as it was. -/
def Obligations.ElementsKeepTheRest : Prop :=
  ∀ (s t : State) (i : Instr), isElement i = true → exec i s = .next t →
    (∀ a, t.byte a = s.byte a) ∧ t.poison = s.poison ∧ t.flips = s.flips ∧ t.under = s.under ∧ t.soft = s.soft ∧ t.tags = s.tags ∧
      t.cores = s.cores ∧ t.saved = s.saved ∧ t.bootst = s.bootst ∧ t.keys = s.keys ∧ t.now = s.now ∧
      (t.nextId = s.nextId → ElementFrame s t s.foc (targetsOf i))

/-! ### Memory instructions: what a firing does (R225 to R249); what performing does follows with the events -/

namespace Sys2Proof.Claims

/-- The accesses that fire at a stream port and are performed later, part by part. -/
def isAccessOp : MemOp → Bool
  | .ld _ _ _ => true
  | .ldb _ _ => true
  | .st _ => true
  | .pld _ => true
  | .pst _ => true
  | .amo _ _ => true
  | .red _ _ => true
  | .pref _ _ => true
  | .retain => true
  | .unpin => true
  | .flush _ => true
  | _ => false

/-- The operands raise no fault of their own: a block length of 1 to 4,096 bytes, natural alignment where it is asked for, no
poisoned data in an atomic (R228, R230, R232). -/
def OperandsOk (o : MemOp) (r : List (Pos × Token)) : Prop :=
  match o with
  | .ldb _ _ => 1 ≤ ((tokenAt r .r).data.extractLsb' 0 13).toNat ∧ ((tokenAt r .r).data.extractLsb' 0 13).toNat ≤ 4096
  | .pld n => (tokenAt r .l).data.toNat % n = 0
  | .pst n => (tokenAt r .l).data.toNat % n = 0 ∧ (tokenAt r .r).psn = false ∧ (tokenAt r .p).psn = false
  | .amo _ n => (tokenAt r .l).data.toNat % n = 0 ∧ (tokenAt r .r).psn = false ∧ (tokenAt r .p).psn = false
  | .red _ n => (tokenAt r .l).data.toNat % n = 0 ∧ (tokenAt r .r).psn = false ∧ (tokenAt r .p).psn = false
  | _ => True

/-- A memory or command slot sees DATA on every latch it reads, and its predicate passes. -/
structure SeesData (s : State) (i : Instr) (r : List (Pos × Token)) : Prop where
  read : readAll s s.foc (latchesRead i) = some r
  data : ∀ e ∈ r, e.2.kind = .data
  pass : Passes i r

/-- VAL of K0 to K3, as every record and access keeps it (R180, R346). -/
def kVals (s : State) (x : Nat) : List Word := ((s.tile (tileOf x)).ks.take 4).map KCtr.val

/-- The access a firing leaves in its slot (R226). -/
def accessOf (s : State) (i : Instr) (r : List (Pos × Token)) (parts : Option (List Part)) : Access :=
  { id := s.nextId, i := i, va := (tokenAt r .l).data, data := (tokenAt r .r).data, p := (tokenAt r .p).data,
    psn := (tokenAt r .r).psn, block := [], ks := kVals s s.foc, firedAt := s.now, held := false, parts := parts }

/-- The firing's place in its slot's emission order: nothing to emit yet (R226, R253). -/
def placeOf (s : State) (i : Instr) (lock : Bool) : OutE :=
  { id := s.nextId, toks := [], tgts := targetsOf i, ready := false, lock := lock, stale := false }

/-- The node that owns the tile of the slot in question: what its reads are for. -/
def ownNode (s : State) : Nat := ((s.tile (tileOf s.foc)).owner.map (·.2)).getD 0

/-- The graph that owns the tile of the slot in question. -/
def ownGraph (s : State) : Option GraphSt := (s.tile (tileOf s.foc)).owner.bind fun o => s.graph? o.1

/-- The command a firing puts on its field's command bus (R252). -/
def commandOf (s : State) (i : Instr) (r : List (Pos × Token)) (todo : List Nat) : Cmd :=
  { id := s.nextId, x := s.foc, i := i, l := (tokenAt r .l).data, r := (tokenAt r .r).data, p := (tokenAt r .p).data,
    idx := [], psn := false, ks := kVals s s.foc, firedAt := s.now, todo := todo, started := false, zlen := 0, parts := [], wh := none }

/-- The queues a command goes to, and whether its slot waits until the last of its tokens has left (R134, R252, R266); none
for an instruction that sends no command of this kind. -/
def destination (i : Instr) : Option (List Nat × Bool) :=
  let mes (m : BitVec 4) : List Nat := (List.range 4).filter fun k => m.getLsbD k
  match i with
  | .mxCfg m _ _ => some (mes m, false)
  | .mxBb m _ _ => some (mes m, false)
  | .mxMma m _ _ => some (mes m, false)
  | .mxZero m _ _ => some (mes m, false)
  | .mxEpi d m _ _ => some ([m.toNat], !d)
  | .mxCpy _ m _ _ => some ([m.toNat], false)
  | .cpyHead c _ _ => some ([5 + c.toNat], false)
  | .cpyStat _ _ _ _ => some ([], false)
  | .wlkCfg _ _ => some ([9], false)
  | .wlkGo _ _ _ => some ([9], false)
  | .qfence _ _ _ => some ([], false)
  | .bufWait _ _ _ _ => some ([], false)
  | .bufRel _ _ => some ([], false)
  | .bufStat _ _ => some ([], false)
  | .slen _ _ _ => some ([10], false)
  | .sld _ _ _ => some ([10], false)
  | .sst _ _ _ => some ([10], false)
  | .sgen _ _ _ => some ([10], false)
  | .sand _ _ _ _ => some ([10], false)
  | .sor _ _ _ _ => some ([10], false)
  | .sxor _ _ _ _ => some ([10], false)
  | .snot _ _ _ => some ([10], false)
  | .smux _ _ _ _ => some ([10], false)
  | .smin _ _ _ _ => some ([10], false)
  | .smax _ _ _ _ => some ([10], false)
  | .scnt _ _ _ => some ([10], false)
  | .scntA _ _ _ => some ([10], false)
  | .scvt _ _ _ => some ([10], false)
  | .sregen _ _ _ _ => some ([10], false)
  | .smov _ _ _ => some ([10], false)
  | .ctnClose _ _ => some ([], false)
  | _ => none

/-- What a command asks of its tile beside its operands: BUF.WAIT no command of its slot outstanding (R192), CTN.CLOSE the
field's region (R360). -/
def CommandOk (s : State) (i : Instr) : Prop :=
  match i with
  | .bufWait _ _ _ _ => (s.slot s.foc).cmds = []
  | .ctnClose _ _ => (s.field (fieldOf s.foc)).ctn.opened = true ∧ (s.field (fieldOf s.foc)).ctn.owner = jOfTile (tileOf s.foc)
  | _ => True

/-- The command stands at the end of the bus; its slot counts it, and keeps its place in the emission order. -/
structure OnBus (s t : State) (c : Cmd) (i : Instr) (lock : Bool) : Prop where
  bus : (t.field (fieldOf c.x)).bus = (s.field (fieldOf c.x)).bus ++ [c]
  cmds : (t.slot c.x).cmds = (s.slot c.x).cmds ++ [c.id]
  outs : (t.slot c.x).outs = (s.slot c.x).outs ++ [{ placeOf s i lock with id := c.id }]
  fired : (t.slot c.x).fired = s.now + 1
  frame : FiringFrame s t c.x
  graphs : t.graphs.map outside = s.graphs.map outside

/-- Every operand is clean (R253). -/
def CleanOperands (i : Instr) (r : List (Pos × Token)) : Prop := ∀ p ∈ operandsOf i, (tokenAt r p).psn = false

/-- No target is a chained latch: an X slot has no DU columns (R84, R97). -/
def Unchained (i : Instr) : Prop := ∀ p m, Target.latch true p m ∉ targetsOf i

/-- Nothing of the slot waits before a firing that is performed at once, and its targets have room. -/
def Immediate (s : State) (i : Instr) : Prop :=
  (s.slot s.foc).outs = [] ∧ Unchained i ∧ targetsFree s s.foc (targetsOf i) = true

/-- A firing performed at once sends its token; where every port rate of its tile's firing is met, the token waits until that
firing has completed (R41, R253). -/
def Emits (s t : State) (i : Instr) (tok : Token) : Prop :=
  if (s.tile (tileOf s.foc)).met = true then
    Takes s t s.foc (latchesRead i) ∧ (t.slot s.foc).outs = [{ placeOf s i false with toks := [tok], ready := true }]
  else Sends s t s.foc (latchesRead i) tok (s.now + 1) 0 (targetsOf i)

/-- The value SYS.RD reads (R364), from the registers of the tile, its field, its die and its graph. -/
def sysValue (s : State) (r : SysReg) : DWord :=
  let t := s.tile (tileOf s.foc)
  let f := s.field (fieldOf s.foc)
  match r with
  | .tfst => t.tfst.setWidth 64
  | .chst => t.chst
  | .ovrc => t.ovrc.setWidth 64
  | .defc => t.defc.setWidth 64
  | .meStatus m => ((SMap.get f.mes MeSt.reset m.toNat).status).setWidth 64
  | .meConfig m => (SMap.get f.mes MeSt.reset m.toNat).cfg
  | .subc => f.subc.setWidth 64
  | .gcyc => (s.die (dieOfTile (tileOf s.foc))).gcyc
  | .ctnst =>
    ((f.ctn.handler ++ BitVec.ofBool f.ctn.opened ++ BitVec.ofBool f.ctn.early ++ BitVec.ofNat 6 f.ctn.owner ++ (0 : BitVec 28)
      ++ BitVec.ofNat 12 (tentCount f) : DWord))
  | .crec n => BitVec.ofNat 64 (leNat ((crecOf s (tileOf s.foc)).drop (8 * n.toNat) |>.take 8))

/-- The fault record of a firing at slot s.foc is posted, its slot withholds on it, and no latch is read (R125, R179, R331,
R346). -/
structure Posts (s t : State) (g : GraphSt) (code : Nat) (va detail : DWord) : Prop where
  withheld : (t.slot s.foc).wh = some s.nextId
  links : t.links = s.links
  record : ∃ r, (t.quarter g.lead).fbuf = insertNew s.now r (s.quarter g.lead).fbuf ∧ r.rid = s.nextId ∧ r.code = code ∧
    r.kind = 0 ∧ r.stamp = slotStamp s s.foc ∧
    r.esc = false ∧ r.void = false ∧ r.slot = slotNo s.foc ∧ r.tile = jOfTile (tileOf s.foc) ∧
    r.field = fieldOf s.foc % 320 ∧ r.die = dieOfTile (tileOf s.foc) ∧ r.va = va ∧ r.detail = detail ∧ r.qtr = g.qtr ∧
    r.lq = g.lq ∧ r.ks = kVals s s.foc ∧ r.src = .firing s.foc ∧ (∀ q ∈ (s.quarter g.lead).records, q.fid ≠ r.fid)
  pending : (t.quarter g.lead).cintPend = (s.quarter g.lead).cintPend ||| 0x4
  bytes : ∀ a, t.byte a = s.byte a
  slots : ∀ y, y ≠ s.foc → t.slot y = s.slot y
  rest : t.tiles = s.tiles ∧ t.fields = s.fields ∧ t.dies = s.dies ∧ t.graphs = s.graphs ∧ t.cores = s.cores ∧
    ∀ q, q ≠ g.lead → t.quarter q = s.quarter q

/-- The record finds room, and the field's open region does not contain the fault (R331, R354). -/
structure Postable (s : State) (g : GraphSt) (code : Nat) : Prop where
  own : ownGraph s = some g
  room : (s.quarter g.lead).fbuf.length < 1024
  few : (s.quarter g.lead).records.length < 65536
  open' : (s.field (fieldOf s.foc)).ctn.opened = false ∨ (s.field (fieldOf s.foc)).ctn.owner ≠ jOfTile (tileOf s.foc) ∨
    isContainedCode code = false

end Sys2Proof.Claims

/-- R225, R226, R228, R230 to R237, R243 to R249: every access fires once its operands are there, in range and clean; it
consumes them and stands untranslated at the end of its slot, its place kept in the emission order; LDB locks its slot
until its burst has left. A fence fires on its trigger, whatever the trigger's poison, and waits in its slot as an action
below the port. No byte of memory changes yet. -/
def Obligations.AccessesFire : Prop :=
  (∀ (s : State) (i : Instr) (o : MemOp) (r : List (Pos × Token)), memOp i = some o → isAccessOp o = true →
    portReady s s.foc = true → SeesData s i r → (tokenAt r .l).psn = false → OperandsOk o r →
      ∃ t, exec i s = .next t ∧ Takes s t s.foc (latchesRead i) ∧
        (t.slot s.foc).accs = (s.slot s.foc).accs ++ [accessOf s i r none] ∧
        (t.slot s.foc).outs = (s.slot s.foc).outs ++ [placeOf s i (match o with | .ldb _ _ => true | _ => false)] ∧
        FiringFrame s t s.foc ∧ t.graphs.map outside = s.graphs.map outside) ∧
  ∀ (s : State) (i : Instr) (r : List (Pos × Token)),
    ((∃ t1 t0, i = .fenceF t1 t0) ∨ (∃ t1 t0, i = .fenceD t1 t0) ∨ (∃ t1 t0, i = .fenceP t1 t0) ∨ ∃ t1 t0, i = .fenceS t1 t0) →
    portReady s s.foc = true → SeesData s i r →
      ∃ t, exec i s = .next t ∧ Takes s t s.foc [.l] ∧
        (t.slot s.foc).accs = (s.slot s.foc).accs ++ [accessOf s i r (some [actionPart])] ∧
        (t.slot s.foc).outs = (s.slot s.foc).outs ++ [placeOf s i false] ∧ FiringFrame s t s.foc ∧
        t.graphs.map outside = s.graphs.map outside

/-- R228, R362: PLD, PST, AMO and RED at an address that is not a multiple of their size raise MISALIGN and consume nothing;
TRAP and TRAP.V raise TRAP with their detail word. -/
def Obligations.FaultsRaised : Prop :=
  (∀ (s : State) (i : Instr) (o : MemOp) (n : Nat) (r : List (Pos × Token)) (g : GraphSt), memOp i = some o →
    (o = .pld n ∨ o = .pst n ∨ (∃ k, o = .amo k n) ∨ ∃ k, o = .red k n) → portReady s s.foc = true → SeesData s i r →
    (tokenAt r .l).psn = false → (tokenAt r .l).data.toNat % n ≠ 0 → Postable s g codeMisalign →
      ∃ t, exec i s = .next t ∧
        Posts s t g codeMisalign (BitVec.ofNat 64 ((tokenAt r .l).data.toNat % 2 ^ 48)) 0) ∧
  ∀ (s : State) (i : Instr) (r : List (Pos × Token)) (g : GraphSt) (detail : DWord),
    ((∃ p n t0, i = .trap p n t0 ∧ detail = n.setWidth 64) ∨ (∃ p t1 t0, i = .trapV p t1 t0 ∧ detail = (tokenAt r .l).data)) →
    cmdReady s s.foc = true → SeesData s i r → CleanOperands i r → Postable s g codeTrap →
      ∃ t, exec i s = .next t ∧ Posts s t g codeTrap 0 detail

/-- R218, R221, R246: a STEP whose rank is at most NMEM of its group, whose plane words all lie in their place, arrives in its
step group, or counts for the next step where that rank has arrived already; STEPN does not change. (That it arrives in the step in
which it fires is the model's choice, notes/assumptions/56.md.) -/
def Obligations.StepArrives : Prop :=
  ∀ (s : State) (sg : BitVec 6) (t1 t0 : Target) (r : List (Pos × Token)) (g : GraphSt) (e : BitVec 128)
    (es : List (BitVec 128)), portReady s s.foc = true → SeesData s (.step sg t1 t0) r → ownGraph s = some g →
    groupRegions s g sg.toNat = e :: es → (tokenAt r .l).data.toNat % 256 ≤ regNmem e →
    (∀ b ∈ e :: es, ∀ p ∈ planePieces s g.lead b, planePlace s p = true) →
      let rank := (tokenAt r .l).data.toNat % 256
      let old := SMap.get g.groups Group.reset sg.toNat
      let a : Arrival := { rank := rank, x := s.foc, id := s.nextId, cyc := s.now }
      ∃ t g', exec (.step sg t1 t0) s = .next t ∧ Takes s t s.foc [.l] ∧ t.graph? g.id = some g' ∧
        FiringFrame s t s.foc ∧
        t.graphs.map (fun a => { outside a with groups := [] }) = s.graphs.map (fun a => { outside a with groups := [] }) ∧
        (SMap.get g'.groups Group.reset sg.toNat).stepn = old.stepn ∧
        ((∃ b ∈ old.arrived, b.rank = rank) →
          (SMap.get g'.groups Group.reset sg.toNat).next = old.next ++ [a] ∧
          (SMap.get g'.groups Group.reset sg.toNat).arrived = old.arrived) ∧
        ((∀ b ∈ old.arrived, b.rank ≠ rank) →
          (SMap.get g'.groups Group.reset sg.toNat).arrived = old.arrived ++ [a] ∧
          (SMap.get g'.groups Group.reset sg.toNat).next = old.next)

/-- R239 to R241: an ACQ of a guard its tile neither holds nor awaits queues its request and takes no hold yet; its slot does
not fire again while the request waits (that the request takes no transit is the model's choice, notes/assumptions/56.md). A REL of
a guard its tile holds fires and waits in its slot as an action below the port;
performed, once no load that its tile fired from a bound region waits, and no store to one that has passed its check
(notes/assumptions/47.md), it ends the hold. -/
def Obligations.GuardsAskedAndLeft : Prop :=
  (∀ (s : State) (i : Instr) (n : BitVec 8) (sh : Bool) (r : List (Pos × Token)) (g : GraphSt),
    ((∃ p t0, i = .acqX p n t0) ∧ sh = false ∨ (∃ p t0, i = .acqS p n t0) ∧ sh = true) → portReady s s.foc = true →
    SeesData s i r → ownGraph s = some g →
    holdsGuard s (tileOf s.foc) n.toNat = false →
    awaitsGuard (SMap.get g.guards Guard.free n.toNat) (tileOf s.foc) = false →
      let old := SMap.get g.guards Guard.free n.toNat
      ∃ t g', exec i s = .next t ∧ Takes s t s.foc (latchesRead i) ∧ t.graph? g.id = some g' ∧
        (SMap.get g'.guards Guard.free n.toNat).excl = old.excl ∧
        (SMap.get g'.guards Guard.free n.toNat).shared = old.shared ∧
        ({ x := s.foc, id := s.nextId, shared := sh, cyc := s.now } : GuardReq) ∈ (SMap.get g'.guards Guard.free n.toNat).queue ∧
        (SMap.get g'.guards Guard.free n.toNat).queue.length = old.queue.length + 1 ∧ FiringFrame s t s.foc ∧
        t.graphs.map (fun a => { outside a with guards := [] }) = s.graphs.map (fun a => { outside a with guards := [] })) ∧
  (∀ (s : State) (i : Instr) (n : BitVec 8) (g : GraphSt) (a : GuardReq),
    ((∃ p t0, i = .acqX p n t0) ∨ (∃ p t0, i = .acqS p n t0)) → ownGraph s = some g →
    a ∈ (SMap.get g.guards Guard.free n.toNat).queue → a.x = s.foc → exec i s = .next s) ∧
  (∀ (s : State) (p : Pred) (n : BitVec 8) (t0 : Target) (r : List (Pos × Token)), portReady s s.foc = true →
    SeesData s (.rel p n t0) r → holdsGuard s (tileOf s.foc) n.toNat = true →
      ∃ t, exec (.rel p n t0) s = .next t ∧ Takes s t s.foc (latchesRead (.rel p n t0)) ∧
        (t.slot s.foc).accs = (s.slot s.foc).accs ++ [accessOf s (.rel p n t0) r (some [actionPart])] ∧
        (t.slot s.foc).outs = (s.slot s.foc).outs ++ [placeOf s (.rel p n t0) false] ∧ FiringFrame s t s.foc ∧
        t.graphs.map outside = s.graphs.map outside) ∧
  ∀ (s : State) (x : Nat) (a : Access) (p : Pred) (n : BitVec 8) (t0 : Target) (g : GraphSt) (k : Nat),
    (pendingParts (s.slot x))[0]? = some (a, 0) → a.i = .rel p n t0 → a.parts = some [actionPart] →
    (s.tile (tileOf x)).owner = some (g.id, k) → s.graph? g.id = some g → boundLoadPending s (tileOf x) n.toNat = false →
      ∃ t g', exec (.memoryAccessPerformed x 0 .clean) s = .next t ∧ t.graph? g.id = some g' ∧
        (∀ b ∈ (t.slot x).accs, b.id ≠ a.id) ∧
        (SMap.get g'.guards Guard.free n.toNat).excl ≠ some (tileOf x) ∧
        tileOf x ∉ (SMap.get g'.guards Guard.free n.toNat).shared ∧
        (SMap.get g'.guards Guard.free n.toNat).queue = (SMap.get g.guards Guard.free n.toNat).queue

/-- R234, R243, R261, R277: STB takes one beat of R a firing; with the last beat of its length it consumes L and P and fires as
one store of its first bytes, dated by its first beat. MX.GATH takes one index token a firing, its descriptor with the eighth, which sends its command. -/
def Obligations.BurstsTakeBeats : Prop :=
  (∀ (s : State) (t1 t0 : Target) (l r p : Entry), portReady s s.foc = true →
    headAt s s.foc .l = some l → headAt s s.foc .r = some r → headAt s s.foc .p = some p →
    l.tok.kind = .data → r.tok.kind = .data → p.tok.kind = .data → l.tok.psn = false →
    let n := (p.tok.data.extractLsb' 0 13).toNat
    let beats := (s.slot s.foc).burst ++ [r.tok.data]
    let id := (s.slot s.foc).burstId.getD s.nextId
    1 ≤ n → n ≤ 4096 →
      ∃ t, exec (.stb t1 t0) s = .next t ∧ FiringFrame s t s.foc ∧
        (8 * beats.length < n →
          Takes s t s.foc [.r] ∧ (t.slot s.foc).burst = beats ∧ (t.slot s.foc).burstId = some id ∧
            (t.slot s.foc).burstPsn = ((s.slot s.foc).burstPsn || r.tok.psn) ∧
            (t.slot s.foc).accs = (s.slot s.foc).accs) ∧
        (n ≤ 8 * beats.length →
          Takes s t s.foc [.l, .r, .p] ∧ (t.slot s.foc).burst = [] ∧ (t.slot s.foc).burstId = none ∧
            (t.slot s.foc).accs = (s.slot s.foc).accs ++
              [{ accessOf s (.stb t1 t0) [(.l, l.tok), (.p, p.tok)] none with
                 id := id
                 block := (beats.flatMap fun d => leBytes 8 d.toNat).take n
                 psn := (s.slot s.foc).burstPsn || r.tok.psn }])) ∧
  ∀ (s : State) (t1 t0 : Target) (l r : Entry), cmdReady s s.foc = true →
    headAt s s.foc .l = some l → headAt s s.foc .r = some r → l.tok.kind = .data → r.tok.kind = .data →
    l.tok.psn = false → r.tok.psn = false →
    let beats := (s.slot s.foc).burst ++ [l.tok.data]
    let id := (s.slot s.foc).burstId.getD s.nextId
      ∃ t, exec (.mxGath t1 t0) s = .next t ∧
        (beats.length < 8 → Takes s t s.foc [.l] ∧ (t.slot s.foc).burst = beats ∧ (t.slot s.foc).burstId = some id) ∧
        (beats.length = 8 → Takes s t s.foc [.l, .r] ∧ (t.slot s.foc).burst = [] ∧ (t.slot s.foc).burstId = none ∧
          OnBus s t { commandOf s (.mxGath t1 t0) [(.l, l.tok), (.r, r.tok)] [4] with
                      id := id, idx := beats, psn := (s.slot s.foc).burstPsn } (.mxGath t1 t0) false)

/-! ### Commands and system instructions -/

/-- R252, R253, R134, R192, R360: a command's firing consumes its operands and puts the command on its field's command bus;
the slot counts it as outstanding. A command of the MSU fires with room at its targets. -/
def Obligations.CommandsFire : Prop :=
  ∀ (s : State) (i : Instr) (r : List (Pos × Token)) (qs : List Nat) (lock : Bool), destination i = some (qs, lock) →
    cmdReady s s.foc = true → SeesData s i r → CleanOperands i r → CommandOk s i →
    (qs = [10] → targetsFree s s.foc (targetsOf i) = true) →
      ∃ t, exec i s = .next t ∧ Takes s t s.foc (latchesRead i) ∧ OnBus s t (commandOf s i r qs) i lock

/-- R360, R361: a CTN.OPEN that names a HANDLER record, of a tile that holds no region, waits on the field command bus; its
slot does not fire again while it waits. -/
def Obligations.ContainmentOpens : Prop :=
  (∀ (s : State) (t1 t0 : Target), (s.slot s.foc).cmds ≠ [] → exec (.ctnOpen t1 t0) s = .next s) ∧
  ∀ (s s' : State) (t1 t0 : Target) (r r' : List (Pos × Token)) (g : GraphSt), cmdReady s s.foc = true →
    (s.slot s.foc).cmds = [] → SeesData s (.ctnOpen t1 t0) r → (tokenAt r .l).psn = false → ownGraph s = some g →
    runRd (handlerRecord g (tileOf s.foc) ((tokenAt r .l).data.toNat % 65536)) (s.task (ownNode s)) = (.ok true, s') →
    s'.foc = s.foc → (s'.slot s'.foc).cmds = [] → cmdReady s' s'.foc = true → SeesData s' (.ctnOpen t1 t0) r' → (tokenAt r' .l).psn = false →
    ownsRegion s' (tileOf s.foc) = false →
      ∃ t, exec (.ctnOpen t1 t0) s = .next t ∧ Takes s' t s.foc [.l] ∧
        OnBus s' t (commandOf s' (.ctnOpen t1 t0) r' []) (.ctnOpen t1 t0) false

/-- R364: SYS.RD emits the register it names, read in the firing cycle. -/
def Obligations.SystemReads : Prop :=
  ∀ (s : State) (reg : SysReg) (t1 t0 : Target) (r : List (Pos × Token)), cmdReady s s.foc = true →
    SeesData s (.sysRd reg t1 t0) r → (tokenAt r .l).psn = false → Immediate s (.sysRd reg t1 t0) →
      ∃ t, exec (.sysRd reg t1 t0) s = .next t ∧ FiringFrame s t s.foc ∧
        Emits s t (.sysRd reg t1 t0) { kind := .data, data := sysValue s reg, psn := false }

/-- R364: SYS.WR emits an ORD and writes its register: TFST and an engine's status lose the flags written as 1, CHST is
cleared by a 1 in V, the counts take the value. -/
def Obligations.SystemWrites : Prop :=
  ∀ (s : State) (reg : SysReg) (t1 t0 : Target) (r : List (Pos × Token)), cmdReady s s.foc = true →
    SeesData s (.sysWr reg t1 t0) r → (tokenAt r .l).psn = false → Immediate s (.sysWr reg t1 t0) →
      let v := (tokenAt r .l).data
      let a := s.tile (tileOf s.foc)
      let f := s.field (fieldOf s.foc)
      ∃ t, exec (.sysWr reg t1 t0) s = .next t ∧ FabricFrame s t ∧
        Emits s t (.sysWr reg t1 t0) { kind := .ord, data := 0, psn := false } ∧
        (t.tile (tileOf s.foc)).tfst = (if reg = .tfst then a.tfst &&& ~~~(v.setWidth 32 &&& 0x3F) else a.tfst) ∧
        (t.tile (tileOf s.foc)).chst = (if reg = .chst ∧ v.getLsbD 31 = true then 0 else a.chst) ∧
        (t.tile (tileOf s.foc)).ovrc = (if reg = .ovrc then v.setWidth 32 else a.ovrc) ∧
        (t.tile (tileOf s.foc)).defc = (if reg = .defc then v.setWidth 32 else a.defc) ∧
        (t.field (fieldOf s.foc)).subc = (if reg = .subc then v.setWidth 32 else f.subc) ∧
        ∀ m : BitVec 2, (SMap.get (t.field (fieldOf s.foc)).mes MeSt.reset m.toNat).status =
          if reg = .meStatus m then (SMap.get f.mes MeSt.reset m.toNat).status &&& ~~~(v.setWidth 32 &&& 0x3F)
          else (SMap.get f.mes MeSt.reset m.toNat).status

/-- R26, R365: SYS.RD.A emits what the register space holds at its address; SYS.WR.A consumes its operands, emits an ORD and makes
the write its next turn (the write as a turn of its own is the model's form, notes/assumptions/1.md). Where tokens of the slot
wait, the ORD takes its place behind them. An address that is valid, in register space, open to the fabric and aligned is needed. -/
def Obligations.SystemAddressed : Prop :=
  ∀ (s : State) (d : Bool) (p : Pred) (t1 t0 : Target) (r : List (Pos × Token)), cmdReady s s.foc = true →
    regFault s s.foc (if d then 8 else 4) (tokenAt r .l).data = none →
    (SeesData s (.sysRdA d p t1 t0) r → CleanOperands (.sysRdA d p t1 t0) r →
      let u := noteFiring (consumeAll s s.foc (latchesRead (.sysRdA d p t1 t0))) s.foc
      exec (.sysRdA d p t1 t0) s =
        .next (emitNow u (.sysRdA d p t1 t0)
          { kind := .data, data := regLoad u ((tokenAt r .l).data.extractLsb' 0 48).toNat (if d then 8 else 4), psn := false })) ∧
    (SeesData s (.sysWrA d p t1 t0) r → CleanOperands (.sysWrA d p t1 t0) r →
      let i : Instr := .sysWrA d p t1 t0
      let ord : Token := { kind := .ord, data := 0, psn := false }
      ∃ t, exec i s = .next t ∧ (t.slot s.foc).fired = s.now + 1 ∧ (∀ a, t.byte a = s.byte a) ∧
        t.agenda = .event (.registerWrite ((tokenAt r .l).data.extractLsb' 0 48).toNat (if d then 8 else 4)
          (if d then (tokenAt r .r).data else ((tokenAt r .r).data.setWidth 32).setWidth 64)) :: s.agenda ∧
        (Immediate s i → Emits s t i ord) ∧
        (∀ o os, (s.slot s.foc).outs = o :: os → o.ready = false → (∀ b ∈ o :: os, b.id ≠ s.nextId) → Takes s t s.foc (latchesRead i) ∧
          (t.slot s.foc).outs = (s.slot s.foc).outs ++ [{ placeOf s i false with toks := [ord], ready := true }]))

/-- R363: HALT TILE ends its tile's firing and its pass count; HALT GRAPH ends its graph with status 0 and L's token as its
result; NOP holds its slot and never fires. -/
def Obligations.HaltsAndNop : Prop :=
  (∀ (s : State) (r : List (Pos × Token)), cmdReady s s.foc = true → SeesData s (.halt false) r →
    ∃ t, exec (.halt false) s = .next t ∧ (t.tile (tileOf s.foc)).armed = 0 ∧ (t.tile (tileOf s.foc)).begun = false ∧
      (∀ y, tileOf y = tileOf s.foc → slotReady t y = false) ∧ ∀ a, t.byte a = s.byte a) ∧
  (∀ (s : State) (r : List (Pos × Token)) (g : GraphSt), cmdReady s s.foc = true → SeesData s (.halt true) r →
    ownGraph s = some g → g.ended = false →
      ∃ t, exec (.halt true) s = .next t ∧ (∀ g', t.graph? g.id = some g' → g'.ended = true) ∧
        ∃ c ∈ (t.quarter g.lead).compl, c.status = 0 ∧ c.result = some (tokenAt r .l) ∧ c.graph = some g.id) ∧
  ∀ s : State, exec .nop s = .next s

/-- R324, R325: a SPAWN whose record is aligned, whose queue is on and has room pushes the record it reads into the queue
and emits TAIL as it was. -/
def Obligations.SpawnPushes : Prop :=
  ∀ (s u : State) (n : BitVec 6) (t1 t0 : Target) (r : List (Pos × Token)) (g : GraphSt) (rcd : List Byte),
    cmdReady s s.foc = true → SeesData s (.spawn n t1 t0) r → (tokenAt r .l).psn = false → ownGraph s = some g →
    (tokenAt r .l).data.toNat % 128 = 0 →
    let q := quarterOfDie (dieOfField (graphHome s g))
    (s.lq q n.toNat).en = true →
    readStored ((s.by (slotSource s.foc)).task (ownNode s)) (fieldOf s.foc) (tileOf s.foc) (tokenAt r .l).data.toNat = (u, .ok rcd) →
    (u.lq q n.toNat).room (recEntries rcd) = true →
      let v := markStamp (noteFiring (consumeAll u s.foc [.l]) s.foc) (slotSource s.foc).toNat
      exec (.spawn n t1 t0) s =
        .next (emitNow (lqPush v q n.toNat rcd (slotStamp v s.foc)) (.spawn n t1 t0)
          { kind := .data, data := (u.lq q n.toNat).tail.setWidth 64, psn := false })

namespace Sys2Proof.Claims

/-- The instructions of the X slots: memory, commands, containment, system, SPAWN. -/
def firesAtX (i : Instr) : Bool :=
  (memOp i).isSome || (destination i).isSome || (match i with
    | .mxGath _ _ => true
    | .ctnOpen _ _ => true
    | .halt _ => true
    | .trap _ _ _ => true
    | .trapV _ _ _ => true
    | .sysRd _ _ _ => true
    | .sysWr _ _ _ => true
    | .sysRdA _ _ _ _ => true
    | .sysWrA _ _ _ _ => true
    | .spawn _ _ _ => true
    | .nop => true
    | _ => false)

/-- The instructions whose firing reads memory: SPAWN its record, CTN.OPEN the record of the handler it names (R324, R360). -/
def readsMemory (i : Instr) : Bool :=
  match i with
  | .ctnOpen _ _ => true
  | .spawn _ _ _ => true
  | _ => false

/-- Address a lies in an entry of the ring that a SPAWN at slot s.foc into queue n may write: at TAIL, or the next (R313, R315). -/
def InEntry (s : State) (n a : Nat) : Prop :=
  ∃ g, ownGraph s = some g ∧
    let l := s.lq (quarterOfDie (dieOfField (graphHome s g))) n
    ∃ k, k < 128 ∧ (a = locOf s (l.entry l.tail.toNat) + k ∨ a = locOf s (l.entry ((l.tail.toNat + 1) % (l.nent.toNat + 1))) + k)

end Sys2Proof.Claims

/-- What no firing of a memory, command or system slot may touch, on any path: the cores, the saved graphs, the boot status, the
keys, the clock, the layout tags; and memory with every mark on it, but where the firing reads memory itself, as SPAWN and CTN.OPEN
do. Those may set A in a PTE (R173), which is bit 5 of its first byte, and a SPAWN writes its record at TAIL of its queue; they
poison no sector (memory is compared where it holds what has been written to it). -/
def Obligations.FiringsKeepTheRest : Prop :=
  ∀ (s t : State) (i : Instr), firesAtX i = true → exec i s = .next t →
    t.saved = s.saved ∧ t.bootst = s.bootst ∧ t.keys = s.keys ∧ t.now = s.now ∧ t.tags = s.tags ∧
      (∀ c, { t.coreSt c with resv := none } = { s.coreSt c with resv := none }) ∧
      (readsMemory i = false → (∀ a, t.byte a = s.byte a) ∧ t.poison = s.poison ∧ t.flips = s.flips ∧ t.under = s.under ∧
        t.soft = s.soft) ∧
      (readsMemory i = true → AsWritten s → (∀ b, b ∈ t.poison → b ∈ s.poison) ∧
        ∀ a, (∀ n t1 t0, i = .spawn n t1 t0 → ¬InEntry s n.toNat a) → t.byte a = s.byte a ∨ t.byte a = s.byte a ||| 0x20)

/-! ### Xpyraro (R370 to R385) -/

namespace Sys2Proof.Claims

/-- The core whose turn it is runs, and takes no interrupt now. -/
def Runs (s : State) : Prop := coreRuns s s.core = true ∧ coreInterrupted s s.core = false

/-- It is the scheduler of its quarter (R370). -/
def Schedules (s : State) : Prop := Runs s ∧ isScheduler s s.core = true

/-- The instruction completes with the effect u: rd takes v, and the core goes on to the next word. -/
def Answers (s : State) (i : Instr) (u : State) (rd : BitVec 5) (v : DWord) : Prop :=
  exec i s = .next (u.setCore s.core (((u.coreSt s.core).setReg rd v).retire 4))

/-- A register of the core whose turn it is. -/
def creg (s : State) (r : BitVec 5) : DWord := (s.coreSt s.core).reg r

/-- Its quarter. -/
def cquarter (s : State) : Nat := s.core / 2

/-- The queue a selector names: quarter [7:6], number [5:0] (R371). -/
def selQuarter (b : DWord) : Nat := (b.extractLsb' 6 2).toNat
def selQueue (b : DWord) : Nat := (b.extractLsb' 0 6).toNat

/-- The Xpyraro instructions, and who may execute each (R370, R378, R384, R385). -/
def mayExecute (s : State) (i : Instr) : Option Bool :=
  let sched := isScheduler s s.core
  match i with
  | .xlnch _ rs1 rs2 => some (sched && !((creg s rs2).getLsbD 8 && decide (rs1 ≠ 0)))
  | .xkscan _ _ => some sched
  | .xqpri _ _ _ => some sched
  | .xqstat _ _ => some (decide (s.core < 8))
  | .xfltPop _ _ => some (sched && decide (leadOf s (cquarter s) = cquarter s))
  | .xfltRes _ _ _ => some sched
  | .xjnlW _ _ => some sched
  | .xhbt _ => some sched
  | .xtake _ => some (decide (s.core < 8 ∧ s.core % 2 = 1))
  | .xpartQsc _ _ => some sched
  | .xpartIl _ _ _ => some sched
  | .xpartBnd _ _ _ => some sched
  | .xpartSd _ _ => some sched
  | .xpartCommit _ _ => some sched
  | .xsigVer _ _ => some (decide (s.core = 8))
  | .xrdCnt _ _ => some true
  | _ => none

/-- A trap into machine mode: pc, cause and value saved, MIE kept in MPIE and cleared, MPP machine mode, the pc at the base
of mtvec (R368). -/
structure Trapped (a b : CoreSt) (cause : Nat) (tval : DWord) : Prop where
  mepc : b.mepc = a.pc
  mcause : b.mcause = BitVec.ofNat 64 cause
  mtval : b.mtval = tval
  mie : b.mstatus.getLsbD 3 = false
  mpie : b.mstatus.getLsbD 7 = a.mstatus.getLsbD 3
  mpp : b.mstatus.extractLsb' 11 2 = 3
  pc : b.pc = a.mtvec &&& ~~~3#64
  regs : b.xs = a.xs
  rest : b.mtvec = a.mtvec ∧ b.mie = a.mie ∧ b.mscratch = a.mscratch ∧ b.imem = a.imem ∧ b.resv = a.resv

end Sys2Proof.Claims

namespace Sys2Proof.Claims

/-- The core whose turn it is reads the record at an address, of one entry or of two (R314): the state then, and its bytes. -/
def ReadsRecord (s : State) (src : Nat) (u : State) (rcd : List Byte) : Prop :=
  (∃ w, coreLoad s s.core src 128 .clean = .ok u w ∧ recNarg (leBytes 128 w) ≤ 12 ∧ rcd = leBytes 128 w) ∨
    ∃ v w w2, coreLoad s s.core src 128 .clean = .ok v w ∧ 12 < recNarg (leBytes 128 w) ∧
      coreLoad v v.core (src + 128) 128 .clean = .ok u w2 ∧ rcd = leBytes 128 w ++ leBytes 128 w2

end Sys2Proof.Claims

/-- R372: XLNCH pushes the record at rs1, or with KICK the queue's kick record, and answers TAIL as it was; -4 for a bad
selector, source or kick map, -3 for a queue of another partition, -2 for one that is off, -1 where there is no room. -/
def Obligations.LaunchAnswers : Prop :=
  ∀ (s : State) (rd rs1 rs2 : BitVec 5), Schedules s → ((creg s rs2).getLsbD 8 = true → rs1 = 0) →
    let b := creg s rs2
    let q := selQuarter b
    let n := selQueue b
    let l := s.lq q n
    let kick := b.getLsbD 8
    let src := if kick then l.kick else (creg s rs1).toNat
    let i : Instr := .xlnch rd rs1 rs2
    (b.extractLsb' 9 55 ≠ 0 → Answers s i s rd (-4)) ∧
    (b.extractLsb' 9 55 = 0 → samePart s (cquarter s) q = false → Answers s i s rd (-3)) ∧
    (b.extractLsb' 9 55 = 0 → samePart s (cquarter s) q = true →
      ((src % 128 ≠ 0 ∨ (kick = true ∧ (s.quarter q).kmapa = 0)) → Answers s i s rd (-4)) ∧
      (src % 128 = 0 → (kick = true → (s.quarter q).kmapa ≠ 0) →
        (l.en = false → Answers s i s rd (-2)) ∧
        (l.en = true → ∀ (u : State) (rcd : List Byte), ReadsRecord s src u rcd →
          let t := u.lq q n
          (t.room (recEntries rcd) = false → Answers s i u rd (-1)) ∧
          (t.room (recEntries rcd) = true → anyBusy u (t.entry t.tail.toNat) 128 = false →
            anyBusy u (t.entry (ringNext t.nent t.tail 1).toNat) 128 = false →
            let v := lqPush u q n rcd (coreStamp u u.core)
            let map := 8 * (u.quarter q).kmapa.toNat
            let r := readOwn v q map 8
            (kick = false → Answers s i v rd (t.tail.setWidth 64)) ∧
            (kick = true → anyBusy u map 8 = false →
              Answers s i (writeEntry r.1 q map (leBytes 8 (Nat.land (leNat r.2.1) (2 ^ 64 - 1 - 2 ^ n)))) rd
                (t.tail.setWidth 64))))))

/-- R315, R318: a push writes the record at TAIL, its continuation in the next entry of the ring, and nothing else of memory;
stamps it and advances TAIL by its entries; the first record of an empty queue makes HPRI its priority and clears BYP and BLK.
An entry outside the memory of the queue's partition is not written (the model's choice, notes/assumptions/30.md). Memory is
compared where it holds what has been written to it (AsWritten). -/
def Obligations.PushAdvances : Prop :=
  ∀ (s : State) (q n : Nat) (rcd : List Byte) (stamp : BitVec 96),
    let l := s.lq q n
    let k := recEntries rcd
    let t := lqPush s q n rcd stamp
    let l' := t.lq q n
    let a := l.entry l.tail.toNat
    let b := l.entry ((l.tail.toNat + 1) % (l.nent.toNat + 1))
    let put (m : List Host.Cell) (pa : Nat) (bs : List Byte) : List Host.Cell :=
      if ownMemory s q pa bs.length then Memory.write m (locOf s pa) bs else m
    l'.tail.toNat = (l.tail.toNat + k) % (l.nent.toNat + 1) ∧ l'.head = l.head ∧ l'.nent = l.nent ∧ l'.en = l.en ∧
      l'.base = l.base ∧ SMap.get l'.stamps 0 l.tail.toNat = stamp ∧
      (l.used = 0 → l'.hpri = BitVec.ofNat 4 (recPrio rcd) ∧ l'.byp = 0 ∧ l'.blk = false) ∧
      (l.used ≠ 0 → l'.hpri = l.hpri ∧ l'.byp = l.byp ∧ l'.blk = l.blk) ∧
      (AsWritten s → k = 1 → rcd.length = 128 → t.mem = put s.mem a rcd) ∧
      (AsWritten s → k = 2 → rcd.length = 256 → t.mem = put (put s.mem a (rcd.take 128)) b (rcd.drop 128))

/-- R373: XKSCAN answers the first queue from rs1 upwards, round the 64, whose kick bit is set; -1 where none is, -4 where the
quarter has no kick map. The map is read at its home, and one that is poisoned traps with cause 25, as a poisoned load does (R368;
that the scan is such a load is the model's choice, notes/assumptions/28.md). -/
def Obligations.ScanFinds : Prop :=
  ∀ (s : State) (rd rs1 : BitVec 5), Schedules s →
    let map := 8 * (s.quarter (cquarter s)).kmapa.toNat
    let r := readOwn s (cquarter s) map 8
    let w := leNat r.2.1
    let a := (creg s rs1).toNat
    let i : Instr := .xkscan rd rs1
    (map = 0 → Answers s i s rd (-4)) ∧
    (map ≠ 0 → anyBusy s map 8 = false →
      (r.2.2 = true → ∃ t, exec i s = .next t ∧
        Trapped (r.1.coreSt s.core) (t.coreSt s.core) 25 (BitVec.ofNat 64 map)) ∧
      (r.2.2 = false → (∀ k, k < 64 → w.testBit k = false) → Answers s i r.1 rd (-1)) ∧
      (r.2.2 = false → ∀ j, j < 64 → w.testBit ((a + j) % 64) = true →
        (∀ h, h < j → w.testBit ((a + h) % 64) = false) → Answers s i r.1 rd (BitVec.ofNat 64 ((a + j) % 64))))

/-- R321, R373: XQPRI changes HPRI of a queue that is on and not empty and answers the old one; XQSTAT answers the queue's
state, field by field. For a queue that is off but still holds entries XQPRI answers -1 too (the model's choice,
notes/assumptions/28.md). -/
def Obligations.QueuePriorityAndStatus : Prop :=
  ∀ (s : State) (rd rs1 rs2 : BitVec 5), Runs s → s.core < 8 →
    let a := creg s rs1
    let q := selQuarter a
    let n := selQueue a
    let l := s.lq q n
    (isScheduler s s.core = true →
      (samePart s (cquarter s) q = false → Answers s (.xqpri rd rs1 rs2) s rd (-3)) ∧
      (samePart s (cquarter s) q = true → (creg s rs2).extractLsb' 4 60 ≠ 0 → Answers s (.xqpri rd rs1 rs2) s rd (-4)) ∧
      (samePart s (cquarter s) q = true → (creg s rs2).extractLsb' 4 60 = 0 → (l.en = false ∨ l.used = 0) →
        Answers s (.xqpri rd rs1 rs2) s rd (-1)) ∧
      (samePart s (cquarter s) q = true → (creg s rs2).extractLsb' 4 60 = 0 → l.en = true → l.used ≠ 0 →
        ∃ u : State, Answers s (.xqpri rd rs1 rs2) u rd (l.hpri.setWidth 64) ∧
          u.lq q n = { l with hpri := (creg s rs2).extractLsb' 0 4 } ∧ ∀ x, u.byte x = s.byte x)) ∧
    (samePart s (cquarter s) q = false → Answers s (.xqstat rd rs1) s rd (-3)) ∧
    (samePart s (cquarter s) q = true →
      Answers s (.xqstat rd rs1) s rd
        (BitVec.ofBool l.en ++ BitVec.ofBool (s.graphs.any fun g => decide (g.qtr = q ∧ g.lq = n)) ++
          BitVec.ofBool ((s.quarter q).restarts.any fun r => decide (r.lq = n)) ++ BitVec.ofBool l.blk ++
          BitVec.ofNat 4 l.byp ++ l.hpri ++ (0 : BitVec 28) ++ l.tail ++ l.head))

/-- R317, R373: XJNL.W answers -1 where the journal is off or full, traps on a misaligned entry, and else writes the stamp and
bytes 12 to 31 of the entry at TAIL, advances TAIL and answers 0. -/
def Obligations.JournalWrites : Prop :=
  ∀ (s : State) (rd rs1 : BitVec 5), Schedules s →
    let q := cquarter s
    let r := (s.quarter q).jnp
    let a := (creg s rs1).toNat
    let dst := 64 * (s.quarter q).jnb.toNat + 32 * r.tail.toNat
    let i : Instr := .xjnlW rd rs1
    ((r.en = false ∨ r.nent.toNat ≤ ringUsed r.head r.tail r.nent) → Answers s i s rd (-1)) ∧
    (r.en = true → ringUsed r.head r.tail r.nent < r.nent.toNat →
      (a % 32 ≠ 0 → ∃ t, exec i s = .next t ∧ Trapped (s.coreSt s.core) (t.coreSt s.core) 4 (BitVec.ofNat 64 a)) ∧
      (a % 32 = 0 → anyBusy s dst 32 = false → ∀ (u : State) (w : Nat), coreLoad s s.core (a + 12) 20 .clean = .ok u w →
        ∃ v : State, Answers s i v rd 0 ∧ (v.quarter q).jnp.head = (u.quarter q).jnp.head ∧
          (v.quarter q).jnp.tail.toNat = ((u.quarter q).jnp.tail.toNat + 1) % ((u.quarter q).jnp.nent.toNat + 1) ∧
          v.mem = (writeEntry u q dst (leBytes 12 (coreStamp s s.core).toNat ++ leBytes 20 w)).mem))

/-- R331, R374: XFLT.POP answers -1 on an empty fault buffer; traps on a destination that is misaligned or not at home, and
removes nothing; else stores the oldest record's 64 bytes and answers how many are left. That it traps with cause 7 where the
destination lies in register space is the model's choice (notes/assumptions/28.md); that the count is taken before held faults are
posted is its deduction (notes/assumptions/24.md). -/
def Obligations.PopStoresRecord : Prop :=
  ∀ (s : State) (rd rs1 : BitVec 5), Schedules s → leadOf s (cquarter s) = cquarter s →
    let q := cquarter s
    let a := (creg s rs1).toNat
    let i : Instr := .xfltPop rd rs1
    ((s.quarter q).fbuf = [] → Answers s i s rd (-1)) ∧
    (∀ (r : FRec) (rs : List FRec), (s.quarter q).fbuf = r :: rs →
      (a % 64 ≠ 0 → ∃ t, exec i s = .next t ∧ Trapped (s.coreSt s.core) (t.coreSt s.core) 6 (creg s rs1) ∧
        t.quarters = s.quarters ∧ t.mem = s.mem) ∧
      (a % 64 = 0 → coreHome s s.core a 64 = false →
        ∃ t, exec i s = .next t ∧ Trapped (s.coreSt s.core) (t.coreSt s.core) 7 (creg s rs1) ∧ t.quarters = s.quarters ∧
          t.mem = s.mem) ∧
      (a % 64 = 0 → coreHome s s.core a 64 = true → anyBusy s a 64 = false →
        ∃ v : State, Answers s i v rd (BitVec.ofNat 64 rs.length) ∧ v.mem = (homePut s a r.toBytes).mem ∧
          ((s.quarter q).held = [] → (v.quarter q).fbuf = rs) ∧
          ((v.quarter q).popped = (s.quarter q).popped ++ if outstandingRec r || lateRec r then [r] else [])))

/-- R375: XFLT.RES answers 3 for a bad action or identifier, 1 where no such record is outstanding, 2 where the time limit of
its translation record has expired; else it takes the record away, answers 0, and retries, skips or kills its source. A retry or a
skip takes effect as the cycle ends (notes/assumptions/43.md): what withholds on the record is freed; where a kill has taken its
source in that cycle nothing is, and the answer is 1 (R351). R346, R349: the FID of a new record is that of no record which awaits
resolution, nor that of the record of its source which a retry resolved last. -/
def Obligations.ResolutionAnswers : Prop :=
  (∀ (s : State) (e : Resolution), s.resolves = [e] →
    (∀ x, e.entry.src = .firing x → (s.slot x).wh = some e.entry.rid → e.entry.code ≠ codeTrap → e.skip = false →
      (resolveEdge s).resolves = [] ∧ (resolveEdge s).slot x = { s.slot x with wh := none } ∧
        (∀ y, y ≠ x → (resolveEdge s).slot y = s.slot y) ∧ (resolveEdge s).links = s.links) ∧
    (∀ x, e.entry.src = .firing x → (∀ y ∈ s.slots, y.2.wh ≠ some e.entry.rid) →
      (resolveEdge s).coreSt e.core = (s.coreSt e.core).setReg e.rd 1 ∧ (resolveEdge s).slots = s.slots)) ∧
  (∀ (v : QuarterSt) (id : Nat) (src : FSrc), v.records.length < 65535 →
    (∀ r ∈ v.records, r.fid ≠ nextFid v id src) ∧ nextFid v id src < 65536 ∧
      ∀ f, (src, f) ∈ v.retried → (∀ e ∈ v.retried, e.1 = src → e.2 = f) → nextFid v id src ≠ f) ∧
  ∀ (s : State) (rd rs1 rs2 : BitVec 5), Schedules s →
    let lead := leadOf s (cquarter s)
    let rs := (s.quarter lead).fbuf ++ (s.quarter lead).popped
    let a := creg s rs1
    let b := creg s rs2
    let i : Instr := .xfltRes rd rs1 rs2
    ((65536 ≤ a.toNat ∨ 3 ≤ b.toNat) → Answers s i s rd 3) ∧
    (a.toNat < 65536 → b.toNat < 3 →
      ((∀ r ∈ rs, outstandingRec r = true → r.fid ≠ a.toNat) → (∀ r ∈ rs, lateRec r = true → r.fid ≠ a.toNat) →
        Answers s i s rd 1) ∧
      ((∀ r ∈ rs, outstandingRec r = true → r.fid ≠ a.toNat) → (∃ r ∈ rs, lateRec r = true ∧ r.fid = a.toNat) →
        Answers s i s rd 2) ∧
      (∀ r, rs.find? (fun r => outstandingRec r && decide (r.fid = a.toNat)) = some r →
        (recExpired s lead r = true → Answers s i s rd 2) ∧
        (recExpired s lead r = false →
          let u := retireRec s lead r.rid
          let m := markResolve (noteRetry u lead r) r
          (b = 0 → Answers s i (resolveSource m r false) rd 0) ∧ (b = 1 → Answers s i (resolveSource m r true) rd 0) ∧
            (b = 2 → Answers s i (killGraph u r.graph 6) rd 0))))

/-- R377, R378: XHBT restarts the heartbeat period and, with rs1[0], ends HOLD; it has no effect where rs1 has other bits or
LAPSE stands. XTAKE by the SB while LAPSE = 1 and OWNER = 0 sets OWNER, clears LAPSE, restarts the period and answers 0; in
any other case it answers 1 and changes nothing. -/
def Obligations.HeartbeatAndTakeOver : Prop :=
  (∀ (s : State) (rs1 : BitVec 5), Schedules s →
    let q := cquarter s
    let h := (s.quarter q).hb
    let a := creg s rs1
    ((a.extractLsb' 1 63 ≠ 0 ∨ h.lapse = true) → Answers s (.xhbt rs1) s 0 0) ∧
    (a.extractLsb' 1 63 = 0 → h.lapse = false →
      let u := s.setQuarter q { s.quarter q with hb := { h with last := s.now, hold := h.hold && !a.getLsbD 0 } }
      ((h.hold = false ∨ a.getLsbD 0 = false) → Answers s (.xhbt rs1) u 0 0) ∧
      (h.hold = true → a.getLsbD 0 = true → Answers s (.xhbt rs1) (freeHeld u q) 0 0))) ∧
  ∀ (s : State) (rd : BitVec 5), Runs s → s.core < 8 → s.core % 2 = 1 →
    let q := cquarter s
    let h := (s.quarter q).hb
    (h.lapse = true → h.owner = false →
      Answers s (.xtake rd)
        (s.setQuarter q { s.quarter q with hb := { h with owner := true, lapse := false, last := s.now } }) rd 0) ∧
    ((h.lapse = false ∨ h.owner = true) → Answers s (.xtake rd) s rd 1)

/-- R368, R370, R378: an Xpyraro instruction on a core that may not execute it traps as an illegal instruction, with its word
in mtval (how it enters the trap is the RISC-V base's, notes/assumptions/4.md), and does nothing else; so does each scheduler instruction on an SC
once OWNER = 1. -/
def Obligations.XpyraroPrivilege : Prop :=
  (∀ (s : State) (i : Instr), Runs s → mayExecute s i = some false →
    ∃ t, exec i s = .next t ∧ Trapped (s.coreSt s.core) (t.coreSt s.core) 2 (((encode i).getD 0).setWidth 64) ∧
      t = s.setCore s.core (t.coreSt s.core)) ∧
  ∀ (s : State) (i : Instr), s.core < 8 → s.core % 2 = 0 → (s.quarter (cquarter s)).hb.owner = true →
    (mayExecute s i).isSome = true → (∀ rd rs1, i ≠ .xqstat rd rs1) → (∀ rd rs1, i ≠ .xrdCnt rd rs1) →
      mayExecute s i = some false

/-- R379, R391: XPART.QSC answers -1 for a bad mask, the busy queues' mask, or 0 with QSC set in each quarter named. -/
def Obligations.QuiesceAnswers : Prop :=
  ∀ (s : State) (rd rs1 : BitVec 5), Schedules s →
    let a := creg s rs1
    let qs := [0, 1, 2, 3].filter fun q => a.getLsbD q
    let i : Instr := .xpartQsc rd rs1
    ((a.extractLsb' 4 60 ≠ 0 ∨ a.getLsbD (cquarter s) = false) → Answers s i s rd (-1)) ∧
    (a.extractLsb' 4 60 = 0 → a.getLsbD (cquarter s) = true → (∀ q ∈ qs, (s.quarter (leadOf s q)).placing = none) →
      (busyQueues s qs ≠ 0 → Answers s i (foldState markCheck s qs) rd (BitVec.ofNat 64 (busyQueues s qs))) ∧
      (busyQueues s qs = 0 → ∃ u : State, Answers s i u rd 0 ∧ (∀ q ∈ qs, (u.quarter q).hb.qsc = true) ∧
        (∀ q, q ∉ qs → u.quarter q = s.quarter q) ∧ u.mem = s.mem))

/-- R380, R197, R199: XPART.IL and XPART.BND stage a register of a quiesced quarter and answer 0; they answer 1 where it is not
quiesced or a reserved bit is set. R184, R381: XPART.SD empties every TLB slice and translation latch of the quarters named, in
the core's partition, with the misses at hand in the slices, which ask anew, and nothing else of them. -/
def Obligations.StagingAndShootdown : Prop :=
  (∀ (s : State) (rd rs1 rs2 : BitVec 5), Schedules s →
    let a := creg s rs1
    let b := creg s rs2
    let q := (a.extractLsb' 0 2).toNat
    let n := (a.extractLsb' 0 3).toNat
    let g := s.quarter q
    let h := s.quarter (n / 2)
    let badBnd := if n % 2 = 0 then b.extractLsb' 8 56 ≠ 0 else (b.extractLsb' 48 16 ≠ 0 ∨ b.extractLsb' 1 16 ≠ 0)
    ((g.hb.qsc = false ∨ b.extractLsb' 3 61 ≠ 0 ∨ b.extractLsb' 0 2 = 3) → Answers s (.xpartIl rd rs1 rs2) s rd 1) ∧
    (g.hb.qsc = true → b.extractLsb' 3 61 = 0 → b.extractLsb' 0 2 ≠ 3 →
      Answers s (.xpartIl rd rs1 rs2) (s.setQuarter q { g with staged := (some b, g.staged.2) }) rd 0) ∧
    ((h.hb.qsc = false ∨ badBnd) → Answers s (.xpartBnd rd rs1 rs2) s rd 1) ∧
    (h.hb.qsc = true → ¬badBnd →
      Answers s (.xpartBnd rd rs1 rs2) (s.setQuarter (n / 2) { h with
        staged := if n % 2 = 0 then (h.staged.1, some b, h.staged.2.2) else (h.staged.1, h.staged.2.1, some b) }) rd 0)) ∧
  ∀ (s : State) (rd rs1 : BitVec 5), Schedules s →
    let a := creg s rs1
    let qs := [0, 1, 2, 3].filter fun q => a.getLsbD q
    let i : Instr := .xpartSd rd rs1
    ((a.extractLsb' 4 60 ≠ 0 ∨ qs = []) → Answers s i s rd (-1)) ∧
    (a.extractLsb' 4 60 = 0 → qs ≠ [] → (∃ q ∈ qs, samePart s (cquarter s) q = false) → Answers s i s rd (-3)) ∧
    (a.extractLsb' 4 60 = 0 → qs ≠ [] → (∀ q ∈ qs, samePart s (cquarter s) q = true) →
      ∃ u : State, Answers s i u rd 0 ∧ u.mem = s.mem ∧
        (∀ f, u.field f = if f / 640 ∈ qs then { s.field f with tlb := [], walks := [] } else s.field f) ∧
        ∀ t, u.tile t = if t / 40960 ∈ qs then { s.tile t with xlat := [] } else s.tile t)

/-- R382, R390: XPART.COMMIT answers -1 for a bad mask, 1 where a quarter is not quiesced, 2 and 3 for registers that make no
partitions or do not match at an edge; else the staged registers become active, QSC ends and it answers 0. -/
def Obligations.CommitAnswers : Prop :=
  ∀ (s : State) (rd rs1 : BitVec 5), Schedules s →
    let a := creg s rs1
    let qs := [0, 1, 2, 3].filter fun q => a.getLsbD q
    let i : Instr := .xpartCommit rd rs1
    ((a.extractLsb' 4 60 ≠ 0 ∨ a.getLsbD (cquarter s) = false) → Answers s i s rd (-1)) ∧
    (a.extractLsb' 4 60 = 0 → a.getLsbD (cquarter s) = true →
      ((∃ q ∈ qs, (s.quarter q).hb.qsc = false) → Answers s i s rd 1) ∧
      ((∀ q ∈ qs, (s.quarter q).hb.qsc = true) →
        (partitionsOk (afterCommit s qs) qs = false → Answers s i s rd 2) ∧
        (partitionsOk (afterCommit s qs) qs = true → opensOk (afterCommit s qs) qs = false → Answers s i s rd 3) ∧
        (partitionsOk (afterCommit s qs) qs = true → opensOk (afterCommit s qs) qs = true →
          ∃ u : State, Answers s i u rd 0 ∧
            ∀ q ∈ qs, (u.quarter q).active = (s.quarter q).committed ∧ (u.quarter q).staged = (none, none, none) ∧
              (u.quarter q).hb.qsc = false)))

namespace Sys2Proof.Claims

/-- The core whose turn it is reads n bytes at an address, 4,096 at a time: the state then, and the bytes. -/
inductive ReadsLong : State → Nat → Nat → State → List Byte → Prop where
  | done (s : State) (a : Nat) : ReadsLong s a 0 s []
  | part (s u v : State) (a n w : Nat) (bs : List Byte) : 1 ≤ n → coreLoad s s.core a (min n 4096) .clean = .ok u w →
      ReadsLong u (a + 4096) (n - 4096) v bs → ReadsLong s a n v (leBytes (min n 4096) w ++ bs)

end Sys2Proof.Claims

/-- R384, R385: XSIG.VER answers 2 for a bad descriptor or an empty key slot, before it reads the signature and the message, and
after them 2 for an index beyond the tree, and else whether the signature is valid; XRD.CNT answers the counter its selector names, 0 for any other. -/
def Obligations.SignatureAndCounters : Prop :=
  ∀ (s : State) (rd rs1 : BitVec 5), Runs s →
    (s.core = 8 → ∀ (u : State) (w : Nat), coreLoad s 8 (creg s rs1).toNat 32 .clean = .ok u w →
      let d := leBytes 32 w
      let len := leNat ((d.drop 8).take 8)
      let slot := leNat ((d.drop 24).take 1)
      ((2 ^ 32 ≤ len ∨ 3 < slot ∨ leNat (d.drop 25) ≠ 0 ∨ SMap.find u.keys slot = none) →
        Answers s (.xsigVer rd rs1) u rd 2) ∧
      (len < 2 ^ 32 → slot ≤ 3 → leNat (d.drop 25) = 0 → ∀ (key : Nat) (u2 : State) (z : Nat),
        SMap.find u.keys slot = some key → coreLoad u u.core (leNat ((d.drop 16).take 8)) 2820 .clean = .ok u2 z →
        ∀ (u3 : State) (m : List Byte), ReadsLong u2 (leNat (d.take 8)) len u3 m →
          Answers s (.xsigVer rd rs1) u3 rd
            (if 2 ^ 20 ≤ sigIndex (leBytes 2820 z) then 2
             else if xmssValid (leBytes 68 key) m (leBytes 2820 z) then 0 else 1))) ∧
    Answers s (.xrdCnt rd rs1) s rd
      (let sel := (creg s rs1).toNat
       let v := s.quarter (leadOf s (cquarter s))
       if sel = 0 then (s.die (coreDie s.core)).gcyc
       else if s.core = 8 then 0
       else if sel = 1 then
         BitVec.ofNat 64 ((if v.ovf then 2 ^ 31 else 0) + min v.held.length 0xFFFFF * 2 ^ 11 + v.fbuf.length)
       else if sel = 2 then BitVec.ofNat 64 (ringUsed v.crp.head v.crp.tail v.crp.nent)
       else if sel = 3 then BitVec.ofNat 64 ((s.now - (s.quarter (cquarter s)).hb.last) / 2100)
       else 0)

/-! ### Rows without an encoding: registers, captures, the sequencer, memory, engines, the module, the cores -/

namespace Sys2Proof.Claims

/-- The address of a register of quarter q's unit, and of die d's (R26). -/
def quarterUnit (q o : Nat) : Nat := 0x7F1000000000 + q * 0x100000000 + o
def dieUnit (d o : Nat) : Nat := 0x7F0000000000 + d * 0x100000000 + o

/-- CRP or JNP after a write (R312): enabling empties the ring; while it is on NENT stands and HEAD may pass entries up to
TAIL, no further. -/
def ringWritten (r : RingSt) (v : DWord) : RingSt :=
  let size := r.nent.toNat + 1
  let head : BitVec 12 := v.extractLsb' 32 12
  if r.en = false ∧ v.getLsbD 63 = true then { en := true, head := 0, tail := 0, nent := v.extractLsb' 0 12 }
  else if head.toNat < size ∧ (head.toNat + size - r.head.toNat) % size ≤ (r.tail.toNat + size - r.head.toNat) % size then
    { en := v.getLsbD 63, head := head, tail := r.tail, nent := if r.en then r.nent else v.extractLsb' 0 12 }
  else r

/-- Retention window w of die d. -/
def window (s : State) (d w : Nat) : RetwSt := SMap.get (s.die d).retw RetwSt.reset w

/-- Port k of die d. -/
def port (s : State) (d k : Nat) : UeSt := SMap.get (s.die d).ue UeSt.reset k

/-- The machine with an event as its next turn. -/
def queued (s : State) (i : Instr) : State := { s with agenda := .event i :: s.agenda }

end Sys2Proof.Claims

/-- R26, R181, R211, R215, R312, R319, R359, R369, R376: what a 64-bit write in register space does to the registers of a
quarter and of a die; a register that only a lead quarter keeps ignores a write elsewhere (that TLIM and WDOG are such registers
is the model's choice, notes/assumptions/21.md). LQC, CRP and JNP empty what they enable (that an empty queue's HPRI, BYP and BLK
are zero is the model's choice, notes/assumptions/30.md); a control register of a retention window recomputes the ways of all
eight; LAYC's GO starts a re-layout or is refused, and its completion changes the page's tag, and no byte of memory where that
holds what has been written to it (AsWritten). -/
def Obligations.RegistersWritten : Prop :=
  (∀ (s : State) (q n d k : Nat) (v : DWord), q < 4 → n < 64 → d < 8 → k < 8 →
    let r := s.quarter q
    let write (a : Nat) : Host.Outcome State Fault Refusal := exec (.registerWrite a 8 v) s
    write (quarterUnit q 0x100) = .next (s.setQuarter q { r with kmapa := v.extractLsb' 3 45 }) ∧
    write (quarterUnit q 0x340) = .next (s.setQuarter q (if r.jnp.en then r else { r with jnb := v.extractLsb' 6 42 })) ∧
    write (quarterUnit q 0x600) = .next (s.setQuarter q { r with hb := { r.hb with period := max (v.toNat % 2 ^ 32) 10 } }) ∧
    write (quarterUnit q 0x608) =
      .next (s.setQuarter q { r with cintIe := v.extractLsb' 32 5, cintPend := r.cintPend &&& ~~~(v.extractLsb' 0 5) }) ∧
    write (quarterUnit q (0x1008 + 0x20 * n)) = .next (queued s (.lqcWrite q n v)) ∧
    write (quarterUnit q 0x348) = .next (queued s (.jnpWrite q v)) ∧
    write (dieUnit d (0x100010 + 0x20 * k)) = .next (queued s (.retwControlWrite d k v)) ∧
    (v.getLsbD 0 = true → write (dieUnit d 0x300000) = .next (queued s (.laycGo d v))) ∧
    (leadOf s q = q →
      write (quarterUnit q 0x200) = .next (s.setQuarter q { r with tlim := max 10 (min (v.toNat % 2 ^ 17) 100000) }) ∧
      write (quarterUnit q 0x210) =
        .next (s.setQuarter q { r with wdog := if v.toNat % 2 ^ 24 = 0 then 0 else max (v.toNat % 2 ^ 24) 100 }) ∧
      write (quarterUnit q 0x320) = .next (s.setQuarter q (if r.crp.en then r else { r with crb := v.extractLsb' 6 42 })) ∧
      write (quarterUnit q 0x328) = .next (queued s (.crpWrite q v))) ∧
    (leadOf s q ≠ q → ∀ o ∈ [0x200, 0x208, 0x210, 0x300, 0x320, 0x328, 0x500], write (quarterUnit q o) = .next s)) ∧
  (∀ (s : State) (q n : Nat) (v : DWord),
    let l := s.lq q n
    ∃ t, exec (.lqcWrite q n v) s = .next t ∧
      let l' := t.lq q n
      l'.en = v.getLsbD 31 ∧ l'.base = l.base ∧ l'.nent = (if l.en then l.nent else v.extractLsb' 0 12) ∧
        (l.en = false → v.getLsbD 31 = true →
          l'.used = 0 ∧ l'.hpri = 0 ∧ l'.byp = 0 ∧ l'.blk = false ∧ (t.quarter (leadOf s q)).pass.isSome = true) ∧
        ((l.en = true ∨ v.getLsbD 31 = false) →
          l'.head = l.head ∧ l'.tail = l.tail ∧ l'.hpri = l.hpri ∧ l'.byp = l.byp ∧ l'.blk = l.blk)) ∧
  (∀ (s : State) (q : Nat) (v : DWord),
    exec (.crpWrite q v) s = .next (s.setQuarter q { s.quarter q with crp := ringWritten (s.quarter q).crp v }) ∧
    exec (.jnpWrite q v) s = .next (s.setQuarter q { s.quarter q with jnp := ringWritten (s.quarter q).jnp v })) ∧
  (∀ (s : State) (d k : Nat) (v : DWord), k < 8 →
    ∃ t, exec (.retwControlWrite d k v) s = .next t ∧
      (window t d k).en = v.getLsbD 4 ∧ (window t d k).ways = min (v.toNat % 16) 12 ∧
      (∀ w, (window t d w).base = (window s d w).base ∧ (window t d w).limit = (window s d w).limit) ∧
      (∀ w, w ≠ k → (window t d w).en = (window s d w).en ∧ (window t d w).ways = (window s d w).ways) ∧
      ∀ w, w < 8 → (window t d w).eways =
        if (window t d w).en then min (window t d w).ways (12 - ((List.range w).map fun u => (window t d u).eways).sum)
        else 0) ∧
  (∀ (s : State) (d : Nat) (v : DWord),
    let pa := (v.extractLsb' 21 27).toNat * pageSize
    let ok := decide (v.extractLsb' 48 2 ≠ 3) && isDram pa && decide (homeDie s pa = d)
    ((s.die d).layc.busy = true → exec (.laycGo d v) s = .next s) ∧
    ((s.die d).layc.busy = false →
      exec (.laycGo d v) s = .next (s.setDie d { s.die d with
        layc := { busy := ok, err := !ok, gran := v.extractLsb' 48 2, ppn := v.extractLsb' 21 27 } }))) ∧
  ∀ (s : State) (d : Nat), (s.die d).layc.busy = true →
    ∃ t, exec (.relayoutComplete d) s = .next t ∧ (t.die d).layc = { (s.die d).layc with busy := false } ∧
      pageTag t ((s.die d).layc.ppn.toNat * pageSize) = (s.die d).layc.gran.toNat ∧ (AsWritten s → t.mem = s.mem)

/-! ### Captures (R49, R154, R159 to R165, R356, R357) -/

namespace Sys2Proof.Claims

/-- The held result r of slot x has gone to its targets: a registered reader may take it from the next cycle, a chained one
as a held input; it goes nowhere once every port rate of the tile is met (R97). Its flags come with it. -/
structure Delivered (s t : State) (x : Nat) (r : Result) : Prop where
  result : (t.slot x).result = none
  sends : Captures s t x [] r.tok (s.now + 1) 0 r.tgts
  flags : (t.tile (tileOf x)).fresh = (s.tile (tileOf x)).fresh ||| r.flags
  bytes : ∀ a, t.byte a = s.byte a

/-- A fault of code c that slot x raises now is withheld on: its record finds room, and no open containment region of its tile
turns it into a kill of the graph (R331, R355). -/
structure Withholdable (s : State) (x : Nat) (g : GraphSt) (c : Nat) : Prop where
  own : ((s.tile (tileOf x)).owner.bind fun o => s.graph? o.1) = some g
  room : (s.quarter g.lead).fbuf.length < 1024
  few : (s.quarter g.lead).records.length < 65536
  late : isContainedCode c = true → (s.field (fieldOf x)).ctn.opened = true →
    (s.field (fieldOf x)).ctn.owner = jOfTile (tileOf x) → (s.field (fieldOf x)).ctn.early = false

/-- The result r of slot x stays in its result latch, its slot withholds on the record of OVERRUN, which is posted with KIND 0, or
with 3 where an open region of its tile contains it, and carries CHST's low word (R165, R346, R354). -/
structure HoldsOverrun (s t : State) (x : Nat) (r : Result) (g : GraphSt) (chst : DWord) : Prop where
  result : (t.slot x).result = some { r with kind := .strict }
  withheld : (t.slot x).wh = some s.nextId
  links : t.links = s.links
  record : ∃ a, (t.quarter g.lead).fbuf = insertNew s.now a (s.quarter g.lead).fbuf ∧ a.rid = s.nextId ∧ a.code = codeOverrun ∧
    a.kind = (if (s.field (fieldOf x)).ctn.opened = true ∧ (s.field (fieldOf x)).ctn.owner = jOfTile (tileOf x) ∧
      isContainedCode codeOverrun = true then 3 else 0) ∧
    a.esc = false ∧ a.void = false ∧ a.slot = slotNo x ∧ a.tile = jOfTile (tileOf x) ∧ a.field = fieldOf x % 320 ∧
    a.die = dieOfTile (tileOf x) ∧ a.blkid = (cfgHeader (s.tile (tileOf x)).cfg).setWidth 16 ∧ a.stamp = slotStamp s x ∧ a.va = 0 ∧
    a.detail = chst &&& 0xFFFFFFFF ∧ a.ks = r.ks ∧ a.src = .held x ∧ (∀ q ∈ (s.quarter g.lead).records, q.fid ≠ a.fid)

/-- The block of slot x is EAGER and STRICT (R165). -/
def strictBlock (s : State) (x : Nat) : Bool :=
  let h := cfgHeader (s.tile (tileOf x)).cfg
  hdrStrict h && hdrEager h

end Sys2Proof.Claims

/-- R49, R154, R160, R161, R165, R357: a deferred element is put on to fire; a result that is due is delivered; an overrun is
counted and delivered one cycle late, or held by a STRICT block, which raises OVERRUN and withholds (in a region open with
EARLY = 1 it kills its graph instead, R355); a checker mismatch awaits the slot's next firing or its ME's next K-step. -/
def Obligations.CapturesAct : Prop :=
  (∀ (s : State) (x d : Nat), (s.slot x).deferred = some d → d ≤ s.now →
    exec (.deferredStart x) s =
      .next { s.setSlot x { s.slot x with deferred := none } with agenda := .fire x :: s.agenda }) ∧
  (∀ (s : State) (x : Nat) (r : Result), (s.slot x).result = some r → r.due ≤ s.now →
    ((r.kind = .cycles ∨ r.kind = .recheck) → ∃ t, exec (.resultDelivery x) s = .next t ∧ Delivered s t x r) ∧
    (r.kind = .late →
      let c := chstRecord s x r ||| if strictBlock s x then 0x20000000 else 0
      ∃ t, exec (.overrunCapture x) s = .next t ∧
        (strictBlock s x = false → Delivered s t x r ∧ (slotNo x, c) ∈ (t.tile (tileOf x)).ovrNow ∧
          (t.tile (tileOf x)).ovrNow.length = (s.tile (tileOf x)).ovrNow.length + 1) ∧
        ∀ g, strictBlock s x = true → Withholdable s x g codeOverrun → HoldsOverrun s t x r g (c ||| 0x80000000) ∧
          (slotNo x, c) ∈ (t.tile (tileOf x)).ovrNow ∧
          (t.tile (tileOf x)).ovrNow.length = (s.tile (tileOf x)).ovrNow.length + 1)) ∧
  (∀ (s : State) (x : Nat) (again : Bool) (i : Instr), x < 10485760 → slotInstr s x = some i → checkKind i ≠ none →
    (s.slot x).result = none →
      exec (.checkerMismatch x again) s = .next (s.setSlot x { s.slot x with mismatch := some again })) ∧
  ∀ (s : State) (f m : Nat) (again : Bool), f < 2560 → m < 4 →
    let e := SMap.get (s.field f).mes MeSt.reset m
    exec (.checkerMismatch (10485760 + 4 * f + m) again) s =
      .next (s.setField f { s.field f with
        mes := SMap.put (s.field f).mes MeSt.reset m { e with mismatch := some again } })

/-! ### The graph sequencer (R28 to R39, R50, R52, R181, R182, R319, R329, R359) -/

namespace Sys2Proof.Claims

/-- Node n of graph g as it stands in s. -/
def nodeOf (s : State) (g n : Nat) : Option Node := (s.graph? g).bind fun a => a.node? n

/-- A node that has just received its permit (R28, R29). -/
def permitted (id : Nat) (parent : Option Nat) (pos idx iter : Nat) : Node :=
  { id := id, parent := parent, pos := pos, idx := idx, rcd := [], iter := iter, st := .permit, done := false, result := none }

/-- Graph g has been given a permit for the record idx. -/
def Permits (s t : State) (g : Nat) (parent : Option Nat) (pos idx iter : Nat) : Prop :=
  ∃ a, t.graph? g = some a ∧ permitted s.nextId parent pos idx iter ∈ a.nodes

/-- Node n of graph g has returned its done token, with a result. -/
def IsDone (t : State) (g n : Nat) (result : Option Token) : Prop :=
  ∃ b, nodeOf t g n = some b ∧ b.done = true ∧ b.result = result

/-- A completion of graph a with this status, result and area waits to be posted, and the graph has ended. -/
def Completes (t : State) (a : GraphSt) (status : Nat) (result : Option Token) (area : DWord) : Prop :=
  (∀ b, t.graph? a.id = some b → b.ended = true) ∧
    ∃ c ∈ (t.quarter a.lead).compl, c.status = status ∧ c.result = result ∧ c.area = area ∧ c.graph = some a.id ∧
      c.qtr = a.qtr ∧ c.lq = a.lq ∧ c.pstamp = a.stamp

end Sys2Proof.Claims

namespace Sys2Proof.Claims

/-- Graph g has no node but those of ns, those of the identifiers ids, and those that ok admits. -/
def NodesFrom (t : State) (g : Nat) (ns : List Node) (ids : List Nat) (ok : Node → Prop) : Prop :=
  ∀ b, t.graph? g = some b → ∀ n ∈ b.nodes, n ∈ ns ∨ n.id ∈ ids ∨ ok n

/-- Stage j of the PIPE in record r starts its next iteration: the stage has done the one before it, the stage above has done this
one, and the stage below has freed a buffer of their edge; st and dn count the iterations started and done (R32). -/
def StageMay (r : List Byte) (st dn : Nat → Nat) (j : Nat) : Prop :=
  j ≤ kgNch r ∧ st j + 1 ≤ kgCount r ∧ st j + 1 ≤ dn j + 1 ∧ (j ≠ 0 → st j + 1 ≤ dn (j - 1)) ∧
    (j < kgNch r → st j + 1 ≤ dn (j + 1) + kgDepth r (j + 1))

/-- Node nd of graph a starts with its record r, in state u: a SEQ gives its first child its permit, a PIPE its first stage the
first iteration's, a STRM every child; a COND chooses by its predicate, and raises POISON where that is poisoned; a SPAWN waits for
its push, a LEAF for its section; a PIPE and a LEAF of count 0 are done at once (R29 to R36). -/
structure NodeStarts (u t : State) (a : GraphSt) (nd : Node) (r : List Byte) : Prop where
  seq : kgKind r = 0 → Permits u t a.id (some nd.id) 0 (kgChild r 0) nd.iter
  pipe : kgKind r = 1 → kgCount r ≠ 0 → Permits u t a.id (some nd.id) 0 (kgChild r 0) 0 ∧
    NodesFrom t a.id a.nodes [nd.id, u.nextId] fun _ => False
  noPipe : kgKind r = 1 → kgCount r = 0 → IsDone t a.id nd.id none ∧ NodesFrom t a.id a.nodes [nd.id] fun _ => False
  strm : kgKind r = 2 → (∀ j, j ≤ kgNch r → ∃ b id, t.graph? a.id = some b ∧
      permitted id (some nd.id) j (kgChild r j) nd.iter ∈ b.nodes) ∧
    ∃ b, nodeOf t a.id nd.id = some b ∧ b.st = .strm (kgNch r + 1)
  cond : ∀ (p : Node) (c k : Nat) (prev : Option Token), kgKind r = 3 → nd.parent = some p.id → a.node? p.id = some p →
    p.st = .seq c k prev true → nd.pos ≠ 0 →
      let pred := prev.getD { kind := .data, data := 0, psn := false }
      let child := kgChild r (if pred.data = 0 then 0 else 1)
      (pred.psn = true → (u.quarter a.lead).fbuf.length < 1024 →
        (∃ e, (t.quarter a.lead).fbuf = insertNew u.now e (u.quarter a.lead).fbuf ∧ e.code = codePoison ∧ e.graph = a.id ∧
          e.src = .cond a.id nd.id) ∧ NodesFrom t a.id a.nodes [nd.id] fun _ => False) ∧
      (pred.psn = false → child = 0xFFFE → IsDone t a.id nd.id none) ∧
      (pred.psn = false → child = 0xFFFF → p.id ≠ nd.id → IsDone t a.id p.id (some pred) ∧ nodeOf t a.id nd.id = none) ∧
      (pred.psn = false → child ≠ 0xFFFE → child ≠ 0xFFFF → Permits u t a.id (some nd.id) 0 child nd.iter)
  spawn : kgKind r = 4 → ∃ b, nodeOf t a.id nd.id = some b ∧ b.rcd = r ∧ b.st = .spawn
  leaf : kgKind r = 6 → kgCount r ≠ 0 → ∃ b, nodeOf t a.id nd.id = some b ∧ b.rcd = r ∧ b.st = .leaf Section.start
  noLeaf : kgKind r = 6 → kgCount r = 0 → IsDone t a.id nd.id
    (if (kgResult r).isSome then some { kind := .data, data := 0, psn := false } else none)

/-- The parent p of node nd of graph a acts on its done token: a SEQ gives the next child its permit, or the first its next
repetition's, or is done with the last token; a PIPE starts every stage that may start, or is done with the last stage's last
iteration; a STRM is done with its last child, a COND with its child's token; a HANDLER gives its child's to the aborted section it
serves, and leaves (R29, R31 to R33, R35, R354). -/
structure ParentActs (s t : State) (a : GraphSt) (nd p : Node) : Prop where
  seq : ∀ (child rep : Nat) (prev : Option Token) (has : Bool), p.st = .seq child rep prev has →
    (child < kgNch p.rcd → Permits s t a.id (some p.id) (child + 1) (kgChild p.rcd (child + 1)) p.iter) ∧
    (kgNch p.rcd ≤ child → rep + 1 ≠ kgCount p.rcd → Permits s t a.id (some p.id) 0 (kgChild p.rcd 0) p.iter) ∧
    (kgNch p.rcd ≤ child → rep + 1 = kgCount p.rcd → IsDone t a.id p.id nd.result)
  pipe : ∀ started done : List Nat, p.st = .pipe started done → done.length = kgNch p.rcd + 1 → nd.pos ≤ kgNch p.rcd →
    let st (j : Nat) : Nat := (started[j]?).getD 0
    let dn (j : Nat) : Nat := (done[j]?).getD 0 + if j = nd.pos then 1 else 0
    (dn (kgNch p.rcd) = kgCount p.rcd → IsDone t a.id p.id none) ∧
    (dn (kgNch p.rcd) ≠ kgCount p.rcd →
      (∀ j, StageMay p.rcd st dn j → ∃ b id, t.graph? a.id = some b ∧
        permitted id (some p.id) j (kgChild p.rcd j) (st j) ∈ b.nodes) ∧
      NodesFrom t a.id a.nodes [p.id] fun n => ∃ j, StageMay p.rcd st dn j ∧
        n = permitted n.id (some p.id) j (kgChild p.rcd j) (st j))
  strm : ∀ left : Nat, p.st = .strm left →
    (left ≤ 1 → IsDone t a.id p.id none) ∧
    (1 < left → ∃ b, nodeOf t a.id p.id = some b ∧ b.st = .strm (left - 1) ∧ b.done = p.done)
  cond : ∀ pred : Token, p.st = .cond pred → IsDone t a.id p.id nd.result
  handler : ∀ (l : Node) (c : Section), p.st = .handler → p.parent = some l.id → a.node? l.id = some l → l.st = .leaf c →
    l.id ≠ p.id → l.id ≠ nd.id →
      (∃ b, nodeOf t a.id l.id = some b ∧
        b.st = .leaf { c with handled := some (nd.result.getD { kind := .data, data := 0, psn := false }) }) ∧
      nodeOf t a.id p.id = none ∧ (t.graph? a.id).map GraphSt.handlers = some (a.handlers.drop 1)

end Sys2Proof.Claims

/-- R29 to R33, R35, R36, R354: on the root's done token the graph ends with status 0 and its result; on a child's, its parent
acts, and the child leaves; a node with a permit is read, and starts as its kind says; the first contained error of an aborted
section starts its HANDLER, whose child runs in the iteration of the PIPE around it. -/
def Obligations.NodesAdvance : Prop :=
  ∀ (s : State) (a : GraphSt) (nd : Node), s.graph? a.id = some a → a.ended = false → a.node? nd.id = some nd →
    (nd.done = true → nd.parent = none →
      ∃ t, exec (.nodeDone a.id nd.id) s = .next t ∧ Completes t a 0 nd.result 0) ∧
    (∀ p : Node, nd.done = true → nd.parent = some p.id → p.id ≠ nd.id → a.node? p.id = some p →
      ∃ t, exec (.nodeDone a.id nd.id) s = .next t ∧ ParentActs s t a nd p ∧
        (nd.id < s.nextId → nodeOf t a.id nd.id = none)) ∧
    (∀ (u : State) (r : List Byte), nd.done = false → nd.st = .permit →
      runRd (readKg (graphHome s a) (recGraph a.rcd) nd.idx) (s.task nd.id) = (.ok r, u) →
      kgOk (recCols a.rcd * recRows a.rcd) r = true →
        ∃ t, exec (.nodeDone a.id nd.id) s = .next t ∧ NodeStarts u t a nd r) ∧
    ∀ (c : Section) (h : HandlerRun) (hs : List HandlerRun) (u : State) (r : List Byte) (it : Nat), nd.done = false →
      nd.st = .leaf c → c.aborted = true → a.handlers = h :: hs → h.started = false → h.leaf = nd.id →
      runRd (readHandler a nd h.idx) (s.task nd.id) = (.ok (r, it), u) →
        ∃ t b, exec (.nodeDone a.id nd.id) s = .next t ∧ t.graph? a.id = some b ∧ b.handlers = { h with started := true } :: hs ∧
          permitted (u.nextId + 1) (some u.nextId) 0 (kgChild r 0) it ∈ b.nodes ∧
          { permitted u.nextId (some nd.id) 0 h.idx it with rcd := r, st := .handler } ∈ b.nodes

/-- R34, R52, R181, R182, R315, R359: a SPAWN node pushes its record and is done, and kills its graph where the queue is off;
the watchdog posts its record on a section without progress, in stamp order among those of its cycle (R331); at the fault time
limit the graph drains, with status 5 where the LEAF names an area that can be saved to, and else with status 4 (that an area
which cannot is none is the model's choice, notes/assumptions/14.md). -/
def Obligations.SequencerActs : Prop :=
  (∀ (s u : State) (a : GraphSt) (nd : Node) (rcd : List Byte), s.graph? a.id = some a → a.ended = false →
    a.node? nd.id = some nd → nd.done = false → nd.st = .spawn → nodeRecord s a (.spawn a.id nd.id) = false →
    let f := graphHome s a
    let q := quarterOfDie (dieOfField f)
    let n := kgExt0 nd.rcd % 64
    readStored ((s.by (seqSource f)).task nd.id) f (64 * f) (kgArg nd.rcd) = (u, .ok rcd) →
      ((u.lq q n).en = false → ∃ t, exec (.spawnNodePush a.id nd.id) s = .next t ∧
        ∃ c ∈ (t.quarter a.lead).compl, c.status = 1 ∧ c.graph = some a.id) ∧
      ((u.lq q n).en = true → (u.lq q n).room (recEntries rcd) = true →
        ∃ t, exec (.spawnNodePush a.id nd.id) s = .next t ∧ IsDone t a.id nd.id none ∧
          t.lq q n = (lqPush (markStamp u (seqSource f).toNat) q n rcd (seqStamp u f)).lq q n)) ∧
  (∀ (s : State) (a : GraphSt) (nd : Node) (c : Section), s.graph? a.id = some a → a.ended = false →
    a.node? nd.id = some nd → nd.done = false → nd.st = .leaf c → c.loaded = true → c.aborted = false → c.barked = false →
    c.period ≠ 0 → c.progress + c.period * 2100 ≤ s.now → (∀ x, tileOf x ∈ c.tiles → (s.slot x).wh = none) →
    (s.quarter a.lead).fbuf.length < 1024 →
      ∃ t r, exec (.watchdog a.id nd.id) s = .next t ∧
        (t.quarter a.lead).fbuf = insertNew s.now r (s.quarter a.lead).fbuf ∧
        r.code = 0x42 ∧ r.kind = 0 ∧ r.slot = 63 ∧ r.unit = 15 ∧ r.detail = BitVec.ofNat 64 nd.idx ∧ r.graph = a.id ∧
        ∃ b, nodeOf t a.id nd.id = some b ∧ b.st = .leaf { c with barked := true }) ∧
  ∀ (s : State) (a : GraphSt) (nd : Node) (c : Section) (d : Nat), s.graph? a.id = some a → a.ended = false →
    a.node? nd.id = some nd → nd.st = .leaf c → sectionDeadline s a.lead a.id c = some d → d ≤ s.now →
      ∃ t, exec (.tlimExpiry a.id nd.id) s = .next t ∧
        (areaOk s a (kgExt0 nd.rcd) = true → Completes t a 5 none (BitVec.ofNat 64 (kgExt0 nd.rcd))) ∧
        (areaOk s a (kgExt0 nd.rcd) = false → Completes t a 4 none 0)

/-- R36 to R39, R50, R242, R338: a section's load puts every tile of it into its start state; an entry token goes into its
latch; a section that has run is left, its tiles free, and its node is done with its result. -/
def Obligations.SectionsRun : Prop :=
  (∀ (s u : State) (a : GraphSt) (nd : Node) (c : Section) (p : SecLoad), s.graph? a.id = some a → a.ended = false →
    a.node? nd.id = some nd → nd.done = false → nd.st = .leaf c → c.loaded = false →
    runRd (readSection a nd) (s.task nd.id) = (.ok p, u) →
      ∃ t, exec (.sectionLoad a.id nd.id) s = .next t ∧
        (∀ b, nodeOf t a.id nd.id = some b → ∃ c', b.st = .leaf c' ∧ c'.loaded = true ∧ c'.tiles = p.tiles.map TileLoad.t ∧
          c'.result = none ∧ c'.progress = s.now) ∧
        (∀ e ∈ p.tiles, (p.tiles.map TileLoad.t).Nodup → storeHost e.cfg = false →
          (t.tile e.t).cfg = e.cfg ∧ (t.tile e.t).owner = some (a.id, nd.id) ∧ (t.tile e.t).tfst = 0 ∧
          (t.tile e.t).armed = BitVec.ofNat 32 (kgCount nd.rcd) ∧ (t.tile e.t).iter = BitVec.ofNat 32 nd.iter ∧
          (t.tile e.t).ks = List.replicate 8 KCtr.reset ∧ (∀ x, tileOf x = e.t → t.slot x = SlotSt.reset) ∧
          ∀ l, l / 192 = e.t → (t.link l).q = [])) ∧
  (∀ (s : State) (a : GraphSt) (nd : Node) (c : Section) (ep latch : Nat) (tok : Token), s.graph? a.id = some a →
    a.ended = false → a.node? nd.id = some nd → nd.st = .leaf c → c.aborted = false →
    c.entries.find? (fun e => e.1 == ep) = some (ep, latch, tok) → (s.link latch).q.length + (s.link latch).resv < 2 →
      ∃ t, exec (.entryTokenDelivery a.id nd.id ep) s = .next t ∧
        (t.link latch).q = (s.link latch).q ++ [{ tok := tok, cyc := s.now + 1, du := 0 }] ∧
        (∀ l, l ≠ latch → t.link l = s.link l) ∧ ∀ y, t.slot y = s.slot y) ∧
  ∀ (s : State) (a : GraphSt) (nd : Node) (c : Section), s.graph? a.id = some a → a.ended = false →
    a.node? nd.id = some nd → nd.done = false → nd.st = .leaf c → c.loaded = true → c.aborted = false →
    tilesOutstanding s c.tiles = false → (∀ u ∈ c.tiles, (s.tile u).armed = 0) →
      ∃ t, exec (.sectionDone a.id nd.id) s = .next t ∧
        IsDone t a.id nd.id (if c.resultPort.isSome then
          some (c.result.getD { kind := .data, data := 0, psn := false }) else none) ∧
        (∀ u ∈ c.tiles, (t.tile u).owner = none ∧ (∀ x, tileOf x = u → t.slot x = SlotSt.reset) ∧
          ∀ l, l / 192 = u → (t.link l).q = [])

/-- R318, R319, R322, R328, R329: a pass clears its request, takes its place before the other events of its cycle, and, with no
candidate, places nothing; a lone candidate that passes the checks and fits is placed at the first free origin; one that fails
leaves with its completion. A completion whose graph's caches have nothing left to write back is written at TAIL, TAIL advances,
CINT.CPL is raised and the graph's rectangle is released; memory is compared where it holds what has been written to it
(AsWritten), and a ring outside the memory of its partition is not written (the model's choice, notes/assumptions/30.md). -/
def Obligations.ArbiterActs : Prop :=
  (∀ (s : State) (q due : Nat), (s.quarter q).placing = none → (s.quarter q).pass = some due → due ≤ s.now →
    leadOf s q = q → (∀ r ∈ partQuarters s q, (s.quarter r).hb.qsc = false) → headsBusy s q = false →
    let w := markAt s (.partition q) 1
    let w := w.setQuarter q { w.quarter q with pass := none }
    let u := (candidates w q).1
    ((candidates w q).2 = [] → exec (.arbiterPass q) s = .next (w.by (seqSource (640 * q)))) ∧
    (∀ (c : Cand), (candidates w q).2 = [c] → c.blk = false →
      (∀ (v : State) (e : Nat), runRd (checkAdmission q c.rcd) (u.task c.stamp.toNat) = (.error (.status e), v) →
        ∃ t, exec (.arbiterPass q) s = .next t ∧
          ∃ m ∈ (t.quarter q).compl, m.status = e ∧ m.qtr = c.qtr ∧ m.lq = c.lq ∧ m.graph = none) ∧
      (∀ (v : State) (adm : Admission) (o : Nat × Nat), runRd (checkAdmission q c.rcd) (u.task c.stamp.toNat) = (.ok adm, v) →
        findOrigin v q [] c.rcd = some o → recRes c.rcd = false →
          ∃ t g, exec (.arbiterPass q) s = .next t ∧ g ∈ t.graphs ∧ g.rcd = c.rcd ∧ g.stamp = c.stamp ∧ g.qtr = c.qtr ∧
            g.lq = c.lq ∧ g.lead = q ∧ g.col = o.1 ∧ g.row = o.2 ∧ g.idem = adm.idem ∧ g.ended = false ∧
            ∃ n, g.nodes = [permitted n none 0 0 0]))) ∧
  ∀ (s : State) (q : Nat) (c : Compl), nextHeld s q = none → nextCompl s q = some c → ringOpen s q = true →
    (∀ g, c.graph.bind (fun g => s.graph? g) = some g → owesCaches s g c = false) →
    let r := (s.quarter q).crp
    let pa := 64 * (s.quarter q).crb.toNat + 64 * r.tail.toNat
    let put (v : State) (bs : List Byte) : List Host.Cell :=
      if ownMemory v q pa 64 then Memory.write v.mem (locOf v pa) bs else v.mem
    ∃ t, exec (.completionPost q) s = .next t ∧ (t.quarter q).crp.tail = ringNext r.nent r.tail 1 ∧
      (t.quarter q).crp.head = r.head ∧ (t.quarter q).cintPend.getLsbD 1 = true ∧ (t.quarter q).compl.length < (s.quarter q).compl.length ∧
      (∀ g, c.graph = some g → ∀ a ∈ t.graphs, a.id ≠ g) ∧
      ((∀ g, c.graph = some g → s.graph? g = none) → AsWritten s → t.mem = put s (c.toBytes (complStamp s c))) ∧
      (∀ g a, c.graph = some g → s.graph? g = some a →
        let w := s.setQuarter q { s.quarter q with compl := (s.quarter q).compl.filter fun b => decide (b ≠ c) }
        let v := finishGraph (w.by (seqSource c.home)) a c
        let b := (v.graph? a.id).getD a
        AsWritten v → t.mem = put v ({ c with stray := b.stray, rlx := b.rlx }.toBytes (complStamp v c)))

/-! ### Memory, guards, planes, peers (R218 to R249, R298 to R301) -/

namespace Sys2Proof.Claims

/-- Part j of an access of slot x, the k-th still to be performed, lies in a tile store whose words can all be read. -/
structure InStore (s : State) (x k : Nat) (a : Access) (o : MemOp) (ps : List Part) (j : Nat) (p : Part) : Prop where
  next : (pendingParts (s.slot x))[k]? = some (a, j)
  op : memOp a.i = some o
  part : a.parts = some ps ∧ ps[j]? = some p
  here : 0 < p.len ∧ p.remote = false
  place : tileBase ≤ p.pa ∧ p.pa + p.len ≤ tileEnd
  sound : s.soft = []
  free : mayPerform s x a o p = true

/-- An access of slot x with a single part, in one line of DRAM that stands as it was written, next to be performed. -/
structure InDram (s : State) (x : Nat) (a : Access) (o : MemOp) (p : Part) : Prop where
  next : (pendingParts (s.slot x))[0]? = some (a, 0)
  op : memOp a.i = some o
  part : a.parts = some [p]
  whole : p.off = 0 ∧ p.len = o.len a ∧ 0 < p.len ∧ p.remote = false ∧ p.gran ≤ 2
  place : isDram p.pa = true ∧ pageBusy s p.pa = false ∧ lineBase (p.pa + p.len - 1) = lineBase p.pa
  sound : AsWritten s
  free : mayPerform s x a o p = true
  noUpdate : ((s.field (fieldOf x)).rcb.any (rcbOverlaps p.pa p.len)) = false

/-- The field cache has the line of an address, or a free way in its set. -/
def Room (s : State) (f pa : Nat) : Prop :=
  SMap.find (s.field f).cache (lineNo pa) ≠ none ∨
    ((s.field f).cache.filter fun e => decide (e.1 % 1024 = lineNo pa % 1024)).length < 8

/-- The update of an AMO or a reduction on a word of w bits (R236, R237); none where CAS does not write. -/
def atomicValue (w : Nat) (o : AmoOp) (old v cmp : BitVec w) : Option (BitVec w) :=
  match o with
  | .red .add => some (old + v)
  | .red .min => some (if old.sle v then old else v)
  | .red .max => some (if old.sle v then v else old)
  | .red .minU => some (if old.ule v then old else v)
  | .red .maxU => some (if old.ule v then v else old)
  | .red .and => some (old &&& v)
  | .red .or => some (old ||| v)
  | .red .fadd => some (BitVec.ofNat w (faddV fp32 .rne (decodeF fp32 old.toNat) (decodeF fp32 v.toNat)).1)
  | .xor => some (old ^^^ v)
  | .swap => some v
  | .cas => if old = cmp then some v else none

/-- The n bytes at address a of memory, as one value. -/
def wordAt (s : State) (a n : Nat) : Nat := leNat (s.bytes a n)

/-- Memory holds the n low bytes of v at a, and every other byte is as it was. -/
def Stored (s t : State) (a n v : Nat) : Prop :=
  wordAt t a n = v % 2 ^ (8 * n) ∧ ∀ b, b < a ∨ a + n ≤ b → t.byte b = s.byte b

/-- The place of firing id in the emission order of slot x has these tokens (R226, R253). At the head of the order its first token
leaves at once, where the slot withholds on nothing, its tile's port rates are not met and its targets have room; behind a place
that is not ready they wait. -/
def Answered (s t : State) (x id : Nat) (toks : List Token) : Prop :=
  let mark (b : OutE) : OutE := if b.id = id then { b with toks := toks, ready := true } else b
  (∀ o os, (s.slot x).outs = o :: os → o.id ≠ id → o.ready = false → (t.slot x).outs = (s.slot x).outs.map mark) ∧
    ∀ o os tok more, (s.slot x).outs = o :: os → o.id = id → o.stale = false → toks = tok :: more →
      let waits := (s.slot x).wh.isSome || (s.tile (tileOf x)).met || !targetsFree s x o.tgts
      (waits = true → (t.slot x).outs = (s.slot x).outs.map mark ∧ ∀ l, (t.link l).q = (s.link l).q) ∧
      (waits = false →
        (t.slot x).outs = (if more = [] then [] else [{ o with toks := more, ready := true }]) ++ os.map mark ∧
          Sends s t x [] tok (s.now + 1) 0 o.tgts)

/-- Access id of slot x has been performed with these tokens (R226): it is gone, and its place in the emission order has them. -/
def Performed (s t : State) (x id : Nat) (toks : List Token) : Prop :=
  (∀ a ∈ (t.slot x).accs, a.id ≠ id) ∧ Answered s t x id toks

/-- Part j of an access of slot x has been performed: the access waits with its parts as they are now, or with the last of them
it has been performed with these tokens. -/
def PartDone (s t : State) (x : Nat) (a : Access) (ps : List Part) (toks : List Token) : Prop :=
  (ps.all (·.done) = true → Performed s t x a.id toks) ∧
    (ps.all (·.done) = false →
      (t.slot x).accs = ((s.slot x).accs.map fun b => if b.id = a.id then { a with parts := some ps } else b) ∧
        (t.slot x).outs = (s.slot x).outs ∧ ∀ l, (t.link l).q = (s.link l).q)

/-- The tokens of a block load: its bytes eight to a token, then the EOS with the length (R232). -/
def blockTokens (a : Access) (bs : List Byte) (eos : Bool) : List Token :=
  let n := (a.data.extractLsb' 0 13).toNat
  ((List.range ((n + 7) / 8)).map fun k =>
    { kind := .data, data := BitVec.ofNat 64 (leNat ((bs.drop (8 * k)).take 8)), psn := a.psn }) ++
    if eos then [{ kind := .eos, data := BitVec.ofNat 64 n, psn := a.psn }] else []

/-- A value of n bytes as a load emits it (R227). -/
def extended (sg : Bool) (n v : Nat) : DWord := if sg then (BitVec.ofNat (8 * n) v).signExtend 64 else BitVec.ofNat 64 v

/-- The tokens of a block load from DRAM: as of any, and PSN too where a byte of the beat is bad (R230, R232). -/
def beatTokens (a : Access) (bs : List Byte) (bad : Nat → Bool) (eos : Bool) : List Token :=
  (List.range ((bs.length + 7) / 8)).map (fun k =>
    { kind := .data, data := BitVec.ofNat 64 (leNat ((bs.drop (8 * k)).take 8))
      psn := a.psn || (List.range bs.length).any fun i => bad i && decide (i / 8 = k) }) ++
    if eos then [{ kind := .eos, data := BitVec.ofNat 64 bs.length, psn := a.psn }] else []

/-- A token without data. -/
def ord : Token := { kind := .ord, data := 0, psn := false }

/-- The cache of a field holds every line at its number, its bytes in their order, and DRAM alone. -/
def LinesInPlace (f : FieldSt) : Prop :=
  ∀ g l, SMap.find f.cache g = some l → lineNo l.base = g ∧ lineBase l.base = l.base ∧ SMap.sortedFrom 0 l.bytes = true ∧
    ∀ e ∈ l.bytes, e.1 < lineLen l.base ∧ isDram (l.base + e.1) = true

/-- An address lies in a tentative sector of the field's cache (R208). -/
def tentative (f : FieldSt) (pa : Nat) : Bool :=
  match SMap.find f.cache (lineNo pa) with
  | some l => l.tnt.contains (sectorInLine pa)
  | none => false

/-- Tentative sectors apart, the cache of field f has given the dirty bytes that sel names to their homes, and VAL of the bytes that
drop names is 0; every other byte of it is as it was. -/
structure WrittenBack (s t : State) (f : Nat) (sel : Nat → Bool) (drop : Nat → CByte → Bool) : Prop where
  cache : ∀ b, isDram b = true → cachedByte (t.field f) b =
    (cachedByte (s.field f) b).filter fun c => tentative (s.field f) b || !drop b c
  home : ∀ b c, isDram b = true → cachedByte (s.field f) b = some c → c.drt = true → sel b = true →
    tentative (s.field f) b = false → (∀ d, isDram d = true → locOf s d = locOf s b → d = b) → t.byte (locOf s b) = c.v
  rest : ∀ a, (∀ b, isDram b = true → sel b = true → locOf s b ≠ a) → t.byte a = s.byte a

/-- The line that RETAIN and UNPIN name is held whole in its home second-level cache. -/
def heldWhole (t : State) (b : Nat) : Prop := ∀ i, i < lineLen b → l2Holds t (b + i) = true

end Sys2Proof.Claims

/-- R226, R227, R228, R232, R233, R236, R237, R243 to R245, R247, R249: in a tile store a load takes the bytes of its part and
changes none, and with its last part emits them extended, or packed in tokens; a store writes the bytes of its part and no other,
and with its last part emits ORD; an atomic emits the old word and writes the new one, a reduction writes it and emits ORD; a PLD
emits C; a PST settles its word by its region's rule, or raises PLANE-COLLIDE; a PREF and a FLUSH do nothing. A fence whose tile's
earlier accesses are performed emits ORD; FENCE.D and FENCE.S perform the combining buffer and write back what lies in no GUARD
region first (where each line of the cache is in place). -/
def Obligations.AccessesPerform : Prop :=
  ∀ (s : State) (x k j : Nat) (a : Access) (ps : List Part) (p : Part),
    (∀ o, InStore s x k a o ps j p → ((∃ n sg ev, o = .ld n sg ev) ∨ ∃ eos ev, o = .ldb eos ev) →
      let ps' := setAt ps j { p with done := true, bytes := s.bytes p.pa p.len, bad := [] }
      let bs := ps'.flatMap (·.bytes)
      (∀ q ∈ ps', q.bad = []) →
        ∃ t, exec (.memoryAccessPerformed x k .clean) s = .next t ∧ (∀ b, t.byte b = s.byte b) ∧
          (∀ n sg ev, o = .ld n sg ev → bs.length = n →
            PartDone s t x a ps' [{ kind := .data, data := extended sg n (leNat bs), psn := false }]) ∧
          (∀ eos ev, o = .ldb eos ev → PartDone s t x a ps' (blockTokens a bs eos))) ∧
    (∀ o, InStore s x k a o ps j p → ((∃ n, o = .st n) ∨ o = .stb) →
      let bytes := match o with
        | .st n => leBytes n a.data.toNat
        | _ => a.block
      p.off + p.len ≤ bytes.length →
        ∃ t, exec (.memoryAccessPerformed x k .clean) s = .next t ∧
          Stored s t p.pa p.len (leNat ((bytes.drop p.off).take p.len)) ∧
          PartDone s t x a (setAt ps j { p with done := true, bytes := [], bad := [] })
            [{ kind := .ord, data := 0, psn := false }]) ∧
    (∀ o n, InStore s x k a (.amo o n) [p] 0 p → (n = 4 ∨ n = 8) → p.len = n →
      ∃ t, exec (.memoryAccessPerformed x k .clean) s = .next t ∧
        Stored s t p.pa n ((atomicValue (8 * n) o (BitVec.ofNat _ (wordAt s p.pa n)) (BitVec.ofNat _ a.data.toNat)
          (BitVec.ofNat _ a.p.toNat)).getD (BitVec.ofNat _ (wordAt s p.pa n))).toNat ∧
        Performed s t x a.id [{ kind := .data, data := BitVec.ofNat 64 (wordAt s p.pa n), psn := false }]) ∧
    (∀ o n, InStore s x k a (.red o n) [p] 0 p → (n = 4 ∨ n = 8) → p.len = n →
      ∃ t, exec (.memoryAccessPerformed x k .clean) s = .next t ∧
        Stored s t p.pa n ((atomicValue (8 * n) (.red o) (BitVec.ofNat _ (wordAt s p.pa n)) (BitVec.ofNat _ a.data.toNat)
          0).getD 0).toNat ∧
        Performed s t x a.id [{ kind := .ord, data := 0, psn := false }]) ∧
    (∀ n, InStore s x k a (.pld n) [p] 0 p → p.len = n → waitsForSwap s x a = false →
      ∃ t, exec (.memoryAccessPerformed x k .clean) s = .next t ∧ (∀ b, t.byte b = s.byte b) ∧
        Performed s t x a.id [{ kind := .data, data := BitVec.ofNat 64 (wordAt s p.pa n), psn := false }]) ∧
    (∀ n, InStore s x k a (.pst n) [p] 0 p → waitsForSwap s x a = false →
      let rule := ((regionsAt (s.field (fieldOf x)) a.va.toNat 1).head?.map regRule).getD 0
      (∀ u, settle s p.pa n rule (a.p.toNat % 256) (a.data.toNat % 2 ^ (8 * n)) = some u →
        ∃ t, exec (.memoryAccessPerformed x k .clean) s = .next t ∧ (∀ b, t.byte b = u.byte b) ∧ Performed s t x a.id [ord]) ∧
      (settle s p.pa n rule (a.p.toNat % 256) (a.data.toNat % 2 ^ (8 * n)) = none → (s.slot x).wh = none →
        exec (.memoryAccessPerformed x k .clean) s =
          .next (accessFault (s.by (slotSource x)) x a codePlaneCollide 5 p.va 0))) ∧
    (∀ o, InStore s x k a o [p] 0 p → ((∃ l ev, o = .pref l ev) ∨ ∃ d, o = .flush d) →
      ∃ t, exec (.memoryAccessPerformed x k .clean) s = .next t ∧ (∀ b, t.byte b = s.byte b) ∧
        Performed s t x a.id (match o with
          | .flush _ => [ord]
          | _ => [])) ∧
    ∀ pub plane, (pendingParts (s.slot x))[k]? = some (a, j) → memOp a.i = some (.fence pub plane) → a.parts = some [actionPart] →
      j = 0 → earlierAccess s (tileOf x) a.id (if plane then MemOp.isPlane else MemOp.isAccess) (!plane) = false →
      let f := fieldOf x
      let guarded (b : Nat) : Bool := inPieces (regionPieces s f fun e => decide (regKind e = 1)) b
      ∃ t, exec (.memoryAccessPerformed x k .clean) s = .next t ∧ Performed s t x a.id [ord] ∧
        (pub = false → (∀ b, t.byte b = s.byte b) ∧ (t.field f).cache = (s.field f).cache ∧ (t.field f).rcb = (s.field f).rcb) ∧
        (pub = true → (t.field f).rcb = [] ∧
          (AsWritten s → LinesInPlace (s.field f) → (s.field f).rcb = [] →
            WrittenBack s t f (fun b => !guarded b) fun b c => c.drt && !guarded b) ∧
          ∀ e, AsWritten s → (s.field f).rcb = [e] → (∀ l ∈ (s.field f).cache, ∀ c ∈ l.2.bytes, c.2.drt = false) →
            let n := if e.dword then 8 else 4
            e.value.toNat < 2 ^ (8 * n) →
              Stored s t (locOf s e.pa) n ((atomicValue (8 * n) (.red e.op) (BitVec.ofNat _ (wordAt s (locOf s e.pa) n))
                (BitVec.ofNat _ e.value.toNat) 0).getD 0).toNat)

/-- R206, R207, R209, R230 to R237, R247 to R249, R291: to DRAM, a load takes what the field's cache holds and else the home's
bytes, with PSN where a poisoned sector gave them (zeros on an ET page), a block load beat by beat; it changes no byte of the home,
and what it misses is fetched by the granule of its page, clean, through the home's second-level cache. A store writes the field's
cache alone, poisoned data the home alone, and its sector's poison. An atomic writes the home's word and a reduction waits in the
combining buffer; both leave none of the word in the field's cache. PREF fetches as a load does, PREF.L2 into the home's cache
alone; FLUSH takes its line home and out of the field's cache, FLUSH.DRAM out of the home's as well. RETAIN fetches each line it
names whole and counts those in reserved ways; UNPIN counts those it takes out. That a fill keeps no poisoned byte and no byte of a
word in the combining buffer, and replaces no byte whose VAL is 1, is the model's deduction (notes/assumptions/40.md): R206 itself
fills every byte that is not DRT. That the ORD of an STB of poisoned beats has PSN 0 is the model's choice (notes/assumptions/56.md). -/
def Obligations.DramAccesses : Prop :=
  ∀ (s : State) (x : Nat) (a : Access) (p : Part),
    let f := fieldOf x
    let u := granUnit p.gran p.pa
    let clean (n : Nat) : Prop := ∀ i c, i < n → cachedByte (s.field f) (p.pa + i) = some c → c.drt = false
    let filled (t : State) : Prop := l2Has t (lineBase p.pa) [sectorInLine p.pa] = true ∧
      ∀ b, u.1 ≤ b → b < u.1 + u.2 → cachedByte (t.field f) b =
        match cachedByte (s.field f) b with
        | some c => some c
        | none =>
          if s.poisoned b 1 || (s.field f).rcb.any (rcbOverlaps b 1) then none
          else some { v := s.byte (locOf s b), drt := false }
    (∀ o, InDram s x a o p → ((∃ n sg ev, o = .ld n sg ev) ∨ ∃ eos ev, o = .ldb eos ev) →
      (∀ b, u.1 ≤ b → b < u.1 + u.2 → Room s f b) →
      let bad (i : Nat) : Bool := (cachedByte (s.field f) (p.pa + i)).isNone && s.poisoned (p.pa + i) 1
      let bs := (List.range p.len).map fun i =>
        match cachedByte (s.field f) (p.pa + i) with
        | some c => c.v
        | none => if p.et && bad i then 0 else s.byte (locOf s (p.pa + i))
      ∃ t, exec (.memoryAccessPerformed x 0 .clean) s = .next t ∧ t.mem = s.mem ∧ t.poison = s.poison ∧
        (∀ n sg ev, o = .ld n sg ev → Performed s t x a.id
          [{ kind := .data, data := extended sg n (leNat bs), psn := !p.et && (List.range n).any bad }]) ∧
        (∀ eos ev, o = .ldb eos ev → Performed s t x a.id (beatTokens a bs (fun i => !p.et && bad i) eos)) ∧
        (cacheHolds (s.field f) p.pa p.len = true → (t.field f).cache = (s.field f).cache) ∧
        (cacheHolds (s.field f) p.pa p.len = false → p.pa + p.len ≤ u.1 + u.2 → filled t)) ∧
    (∀ o, InDram s x a o p → ((∃ n, o = .st n) ∨ o = .stb) → inRegion s x = false → meetsTentative s x p.pa p.len = false →
      let bytes := match o with
        | .st n => leBytes n a.data.toNat
        | _ => a.block
      (a.psn = false → Room s f p.pa →
        ∃ t, exec (.memoryAccessPerformed x 0 .clean) s = .next t ∧ t.mem = s.mem ∧
          (∀ b, isDram b = true → cachedByte (t.field f) b =
            if p.pa ≤ b ∧ b < p.pa + p.len then some { v := (bytes[b - p.pa]?).getD 0, drt := true }
            else cachedByte (s.field f) b) ∧
          Performed s t x a.id [ord]) ∧
      (a.psn = true →
        ∃ t, exec (.memoryAccessPerformed x 0 .clean) s = .next t ∧ Stored s t (locOf s p.pa) p.len (leNat bytes) ∧
          (∀ i, i < p.len → cachedByte (t.field f) (p.pa + i) = none ∧ t.poisoned (p.pa + i) 1 = true) ∧
          Performed s t x a.id [ord])) ∧
    (∀ o n, InDram s x a (.amo o n) p → (n = 4 ∨ n = 8) → meetsTentative s x p.pa n = false → clean n →
      s.poisoned p.pa n = false →
      let old := wordAt s (locOf s p.pa) n
      ∃ t, exec (.memoryAccessPerformed x 0 .clean) s = .next t ∧
        Stored s t (locOf s p.pa) n ((atomicValue (8 * n) o (BitVec.ofNat _ old) (BitVec.ofNat _ a.data.toNat)
          (BitVec.ofNat _ a.p.toNat)).getD (BitVec.ofNat _ old)).toNat ∧
        (∀ i, i < n → cachedByte (t.field f) (p.pa + i) = none) ∧
        Performed s t x a.id [{ kind := .data, data := BitVec.ofNat 64 old, psn := false }]) ∧
    (∀ o n, InDram s x a (.red o n) p → (n = 4 ∨ n = 8) → meetsTentative s x p.pa n = false → clean n →
      (s.field f).rcb.length < 64 →
      ∃ t, exec (.memoryAccessPerformed x 0 .clean) s = .next t ∧ t.mem = s.mem ∧
        (t.field f).rcb = (s.field f).rcb ++
          [{ pa := p.pa, op := o, dword := decide (n = 8), value := BitVec.ofNat 64 (a.data.toNat % 2 ^ (8 * n)), psn := a.psn }] ∧
        (∀ i, i < n → cachedByte (t.field f) (p.pa + i) = none) ∧
        Performed s t x a.id [ord]) ∧
    (∀ ev, InDram s x a (.pref false ev) p → (∀ b, u.1 ≤ b → b < u.1 + u.2 → Room s f b) →
      ∃ t, exec (.memoryAccessPerformed x 0 .clean) s = .next t ∧ t.mem = s.mem ∧ t.poison = s.poison ∧
        Performed s t x a.id [] ∧ (cacheHolds (s.field f) u.1 u.2 = true → (t.field f).cache = (s.field f).cache) ∧
        (cacheHolds (s.field f) u.1 u.2 = false → filled t)) ∧
    (∀ ev, InDram s x a (.pref true ev) p →
      ∃ t, exec (.memoryAccessPerformed x 0 .clean) s = .next t ∧ t.mem = s.mem ∧ t.poison = s.poison ∧
        Performed s t x a.id [] ∧ (t.field f).cache = (s.field f).cache ∧
        ∀ b, u.1 ≤ b → b < u.1 + u.2 → l2Holds t b = true) ∧
    (∀ d, InDram s x a (.flush d) p → inRegion s x = false → LinesInPlace (s.field f) →
      let inLine (b : Nat) : Bool := decide (lineBase b = lineBase p.pa)
      ∃ t, exec (.memoryAccessPerformed x 0 .clean) s = .next t ∧ Performed s t x a.id [ord] ∧
        WrittenBack s t f inLine (fun b _ => inLine b) ∧
        (d = true → ∀ b, lineBase b = lineBase p.pa → l2Holds t b = false)) ∧
    ∀ o bs, (pendingParts (s.slot x))[0]? = some (a, 0) → memOp a.i = some o → a.parts = some [actionPart] →
      (o = .retain ∨ o = .unpin) →
      let ps := namedParts a.va.toNat (a.data.toNat % 2 ^ 32)
      let v := (namedLines (s.by (slotSource x)) x true ps).1
      (namedLines (s.by (slotSource x)) x false ps).2 = .lines bs → (∀ b ∈ bs, pageBusy s b = false) →
        ∃ t, exec (.memoryAccessPerformed x 0 .clean) s = .next t ∧
          (o = .retain → Performed v t x a.id
              [{ kind := .data, data := BitVec.ofNat 64 (bs.filter (l2Reserved t)).length, psn := false }] ∧
            ∀ b, bs = [b] → isDram b = true → heldWhole t b) ∧
          (o = .unpin → Performed v t x a.id
              [{ kind := .data, data := BitVec.ofNat 64 (bs.filter (l2Reserved v)).length, psn := false }] ∧
            ∀ b ∈ bs, l2Reserved t b = false)

/-- R220, R221, R239, R240: a free guard's head request of an earlier cycle, if exclusive, takes the hold; the field's cache gives
the dirty bytes of the regions bound to the guard to their homes, keeps none of their bytes, and then the ORD leaves. A run of
shared requests at the head of the queue takes the hold together, where there is no exclusive one, and no request passes another. A
step group that is ready swaps: STEPN advances and the arrivals of the next step move up. A PST settles a plane word in the first
write of a step, and by the region's rule in a later one: rank by rank under PRI, by the sum, the lesser or the greater; under FAULT
nothing is written. A swap makes a written word current, clears an unwritten one under CLEAR, and ends the step for it. (That it does
so at all MTs at once is the model's choice, notes/assumptions/56.md.) -/
def Obligations.GuardsAndPlanesAct : Prop :=
  (∀ (s : State) (a : GraphSt) (n : Nat) (r : GuardReq) (rs : List GuardReq), s.graph? a.id = some a →
    (SMap.get a.guards Guard.free n).queue = r :: rs → r.cyc < s.now → r.shared = false →
    (SMap.get a.guards Guard.free n).excl = none → (SMap.get a.guards Guard.free n).shared = [] →
      let f := fieldOf r.x
      let bound (b : Nat) : Bool := inPieces (guardPieces s f n) b
      ∃ t b, exec (.guardGrant a.id n) s = .next t ∧ t.graph? a.id = some b ∧
        (SMap.get b.guards Guard.free n).excl = some (tileOf r.x) ∧ (SMap.get b.guards Guard.free n).shared = [] ∧
        (SMap.get b.guards Guard.free n).queue = rs.filter (fun u => u.id ≠ r.id) ∧ Performed s t r.x r.id [ord] ∧
        (AsWritten s → LinesInPlace (s.field f) → WrittenBack s t f bound fun b _ => bound b)) ∧
  (∀ (s : State) (a : GraphSt) (n : Nat) (rs rest : List GuardReq), s.graph? a.id = some a → rs ≠ [] →
    (SMap.get a.guards Guard.free n).queue = rs ++ rest → (∀ r ∈ rs, r.shared = true ∧ r.cyc < s.now) →
    (∀ r, rest.head? = some r → r.shared = false ∨ s.now ≤ r.cyc) → ((rs ++ rest).map GuardReq.id).Nodup →
    (SMap.get a.guards Guard.free n).excl = none →
      ∃ t b, exec (.guardGrant a.id n) s = .next t ∧ t.graph? a.id = some b ∧
        (SMap.get b.guards Guard.free n).excl = none ∧ (SMap.get b.guards Guard.free n).queue = rest ∧
        (∀ u, u ∈ (SMap.get b.guards Guard.free n).shared ↔
          u ∈ (SMap.get a.guards Guard.free n).shared ∨ ∃ r ∈ rs, tileOf r.x = u) ∧
        ∀ r ∈ rs, ∀ c ∈ (t.slot r.x).accs, c.id ≠ r.id) ∧
  (∀ (s : State) (a : GraphSt) (n : Nat), s.graph? a.id = some a → swapReady s a n = true →
    let old := SMap.get a.groups Group.reset n
    ∃ t b, exec (.stepSwap a.id n) s = .next t ∧ t.graph? a.id = some b ∧
      (SMap.get b.groups Group.reset n).stepn = old.stepn + 1 ∧
      ((SMap.get b.groups Group.reset n).arrived ++ (SMap.get b.groups Group.reset n).next).length = old.next.length ∧
      ((SMap.get b.groups Group.reset n).arrived.map Arrival.rank).Nodup) ∧
  (∀ (s : State) (pa n rule k v : Nat), tileBase ≤ pa → pa < tileEnd → (pa - tileBase) % 0x80000 + n ≤ 0x20000 →
    (pa - tileBase) % n = 0 → (n = 4 ∨ n = 8) → k < 256 → v < 2 ^ (8 * n) →
      let written := (s.byte (rankPlace pa + 1)).getLsbD 0
      let rk := (s.byte (rankPlace pa)).toNat
      let old := wordAt s (pa + 0x20000) n
      let settles (word rank : Nat) : Prop := ∃ t, settle s pa n rule k v = some t ∧ (t.byte (rankPlace pa + 1)).getLsbD 0 = true ∧
        (t.byte (rankPlace pa)).toNat = rank ∧ (∀ b, t.byte (pa + b) = s.byte (pa + b) ∨ n ≤ b) ∧
        wordAt t (pa + 0x20000) n = word
      let pick (le : BitVec (8 * n) → BitVec (8 * n) → Bool) : Nat :=
        if le (BitVec.ofNat _ old) (BitVec.ofNat _ v) then old else v
      (written = false → settles v k) ∧
      (written = true →
        (rule = 0 → settles (if rk ≤ k then v else old) (if rk ≤ k then k else rk)) ∧
        (rule = 1 → settles ((old + v) % 2 ^ (8 * n)) rk) ∧
        (rule = 2 → settles (pick fun a b => a.sle b) rk) ∧ (rule = 3 → settles (pick fun a b => a.ule b) rk) ∧
        (rule = 4 → settles (pick fun a b => b.sle a) rk) ∧ (rule = 5 → settles (pick fun a b => b.ule a) rk) ∧
        (rule = 6 → settle s pa n rule k v = none))) ∧
  ∀ (s : State) (clear : Bool) (pa n : Nat), tileBase ≤ pa → pa < tileEnd → (pa - tileBase) % 0x80000 + n ≤ 0x20000 →
    (pa - tileBase) % n = 0 → (n = 4 ∨ n = 8) →
      let t := swapWord clear n s pa
      let written := (s.byte (rankPlace pa + 1)).getLsbD 0
      (written = true → wordAt t pa n = wordAt s (pa + 0x20000) n) ∧
      (written = false → wordAt t pa n = if clear then 0 else wordAt s pa n) ∧
      t.byte (rankPlace pa) = 0 ∧ t.byte (rankPlace pa + 1) = 0

/-- R170, R226, R300, R301: a slot's oldest untranslated access takes its parts, or withholds on a fault record; a peer's
report performs a remote load with the value it brings, PSN set where the peer read poison; an error or a timeout raises
REMOTE-FAIL; an access of a peer is performed at its home, and touches no byte but those it writes; an atomic on a poisoned word
writes nothing (R230). -/
def Obligations.WalksAndPeersAct : Prop :=
  (∀ (s u : State) (x : Nat) (a : Access) (o : MemOp), (s.slot x).wh = none →
    (∀ b ∈ (s.slot x).accs, b.held = false) → (s.slot x).accs.find? (fun b => b.parts.isNone) = some a → memOp a.i = some o →
    o ≠ .retain → o ≠ .unpin →
    (∀ ps, translateAccess (s.by (slotSource x)) x o a = (u, .ok ps) →
      ∃ t b, exec (.translationWalk x) s = .next t ∧ b ∈ (t.slot x).accs ∧ b = { a with parts := some ps } ∧
        t.links = s.links) ∧
    ∀ c acc va, translateAccess (s.by (slotSource x)) x o a = (u, .fault c acc va) → (∀ l ev, o ≠ .pref l ev) →
      exec (.translationWalk x) s = .next (accessFault u x a c acc va 0)) ∧
  (∀ (s : State) (r : RemoteAcc) (a : Access) (p : Part) (n : Nat) (sg ev : Bool) (v : Nat),
    s.remotes.find? (fun b => b.id == r.id) = some r → (s.slot r.x).accs.find? (fun b => b.id == r.acc) = some a →
    memOp a.i = some (.ld n sg ev) → a.parts = some [p] → r.part = 0 → p.len = n → 0 < n →
      (r.carried = true → portUp s r.req.port = true → ∀ bad, (p.et = false ∨ bad = 0) → bad < 2 ^ n →
        ∃ t, exec (.remoteResponse r.id 0 ⟨v, bad⟩) s = .next t ∧ (∀ b ∈ t.remotes, b.id ≠ r.id) ∧ (∀ b, t.byte b = s.byte b) ∧
          Performed s t r.x a.id
            [{ kind := .data, data := extended sg n (v % 2 ^ (8 * n)), psn := decide (bad ≠ 0) }]) ∧
      (r.carried = true → portUp s r.req.port = true → ∀ err w, err ≠ 0 → (s.slot r.x).wh = none →
        exec (.remoteResponse r.id err w) s =
          .next (accessFault { s with remotes := s.remotes.filter fun b => b.id ≠ r.id } r.x a 0x16 9 p.va
            (BitVec.ofNat 64 err))) ∧
      (r.deadline ≤ s.now → (s.slot r.x).wh = none → (∀ b ∈ s.remotes, b ≠ r → s.now < b.deadline) →
        exec .remoteTimeout s =
          .next (accessFault { s with remotes := s.remotes.filter fun b => b.id ≠ r.id } r.x a 0x16 9 p.va 0))) ∧
  ∀ (s : State) (d k : Nat) (a : Inbound), d < 8 → k < 2 → (port s d k).en = true → (port s d k).up = true →
    inboundOk s d a = true → (∀ i, i < (Inbound.span a).2 → pageBusy s ((Inbound.span a).1 + i) = false) →
    AsWritten s → s.soft = [] →
      ∃ t, exec (.inboundRemoteAccess d k a) s = .next t ∧
        match a with
        | .read _ _ => t.mem = s.mem
        | .write pa n v psn =>
          (∀ b, (∀ i, i < n → b ≠ locOf s (pa + i)) → t.byte b = s.byte b) ∧
            (pa / pageSize = (pa + n - 1) / pageSize → Stored s t (locOf s pa) n v ∧
              (psn = true → ∀ i, i < n → t.poisoned (pa + i) 1 = true))
        | .atomic pa o w v c =>
          let n := wordBytes w
          let old := wordAt s (locOf s pa) n
          (s.poisoned pa n = true → t.mem = s.mem) ∧
            (s.poisoned pa n = false → Stored s t (locOf s pa) n ((atomicValue (8 * n) (InOp.amo o) (BitVec.ofNat _ old)
              (BitVec.ofNat _ v.toNat) (BitVec.ofNat _ c.toNat)).getD (BitVec.ofNat _ old)).toNat)

/-! ### Engines and the Midsummer unit (R129 to R144, R253, R257 to R269) -/

namespace Sys2Proof.Claims

/-- Command c stands first in queue q of field f, in no other, since an earlier cycle. -/
structure AtHead (s : State) (f q : Nat) (c : Cmd) : Prop where
  head : (cmdQueue s f q)[0]? = some c
  ready : c.wh = none ∧ c.firedAt < s.now
  only : c.todo = [q]

/-- Command c stands first in queue q of field f and in that of every ME of the mask m, since an earlier cycle. -/
structure AtHeads (s : State) (f q : Nat) (m : BitVec 4) (c : Cmd) : Prop where
  head : (cmdQueue s f q)[0]? = some c
  ready : c.wh = none ∧ c.firedAt < s.now
  mine : m.getLsbD q = true
  all : ∀ k, k < 4 → m.getLsbD k = true → ((cmdQueue s f k)[0]?).map Cmd.id = some c.id

/-- Command c of field f has been performed with these tokens (R253): it has left queue q, its slot counts it no more, and its
place in the emission order has them. -/
def CmdDone (s t : State) (f q : Nat) (c : Cmd) (toks : List Token) : Prop :=
  (∀ d ∈ cmdQueue t f q, d.id ≠ c.id) ∧ (t.slot c.x).cmds = (s.slot c.x).cmds.filter (fun n => decide (n ≠ c.id)) ∧
    Answered s t c.x c.id toks

/-- A command that reaches its unit over the bus alone has been performed with these tokens: it has left the bus. -/
def BusDone (s t : State) (f : Nat) (c : Cmd) (toks : List Token) : Prop :=
  (∀ d ∈ (t.field f).bus, d.id ≠ c.id) ∧ CmdDone s t f 11 c toks

/-- A DATA token that is not poisoned. -/
def dataOut (v : DWord) : Token := { kind := .data, data := v, psn := false }

/-- Matrix engine k of field f. -/
def engine (s : State) (f k : Nat) : MeSt := SMap.get (s.field f).mes MeSt.reset k

/-- The FP32 pattern of one K-step over the accumulator and the products (R73): the canonical NaN for a NaN or two infinities, an
infinity, a zero, or the exact sum rounded once. -/
def KStepIs (terms : List FVal) (r : Nat) : Prop :=
  let nan : Prop := (∃ x ∈ terms, x.isNan = true) ∨ (.inf false ∈ terms ∧ .inf true ∈ terms)
  let sum : ℚ := (terms.map ratOf).sum
  (nan → r = 0x7FC00000) ∧
  (¬nan → .inf false ∈ terms → r = 0x7F800000) ∧
  (¬nan → .inf true ∈ terms → r = 0xFF800000) ∧
  (¬nan → .inf false ∉ terms → .inf true ∉ terms →
    (sum = 0 → r = if allNegZero terms then 0x80000000 else 0) ∧
    (sum ≠ 0 → ∃ (neg : Bool) (m : Nat) (e : Int), sum = (if neg then -1 else 1) * (m : ℚ) * (2 : ℚ) ^ e ∧
      r = (roundFin fp32 .rne neg m e).1))

/-- The tile and the offset in its store that index t of an MX.GATH names, none for 0xFFFF (R261). -/
def gatherAt (c : Cmd) (t : Nat) : Option (Nat × Nat) :=
  let x := (((c.idx[t / 4]?).getD 0).extractLsb' (16 * (t % 4)) 16).toNat
  let nt := (c.r.extractLsb' 25 6).toNat + 1
  if x = 0xFFFF then none
  else some ((c.r.extractLsb' 19 6).toNat + x % nt, (c.r.extractLsb' 0 19).toNat + x / nt * (c.r.extractLsb' 32 16).toNat)

/-- The bytes of row t of an MX.GATH of field f, as one number: n bytes of a tile store, or zero (R261). -/
def gatherRow (s : State) (f : Nat) (c : Cmd) (n t : Nat) : Nat :=
  match gatherAt c t with
  | some p => wordAt s (tileStore (64 * f + p.1) + p.2) n
  | none => 0

/-- Lane i of register z in field f. -/
def lane (s : State) (f : Nat) (z : BitVec 5) (i : Nat) : Nat := ((((s.field f).zreg z).lanes)[i]?).getD 0

/-- The sum of 32 products of two K-runs of integer formats, with the accumulator, wrapped to 32 bits (R74). -/
def intStep (fa fb acc a b : Nat) : Word :=
  BitVec.ofNat 32 acc + BitVec.ofInt 32 (((List.range 32).map fun k => runInt fa a k * runInt fb b k).sum)

/-- R72 to R74, R192, R257 to R277: MX.CFG writes the configuration, or raises FMT-MIX and leaves it; MX.ZERO zeroes its rows and
no other byte. MX.GATH fills the operand latch with the rows its indices name and answers how many they are; MX.BB takes a panel
into each engine named. MX.MMA adds, for each of 32 rows and columns of each engine named, the 32 products to the accumulator: in
the integer class wrapped, in the other as one rounding of the exact sum; it empties the operand latch and takes the panels. MX.EPI
emits its rows, or writes them into its buffer and posts them. MX.CPY performs part after part: into a tile store as they come,
into the accumulator once the last has been read. -/
def MatrixCommands : Prop :=
  (∀ (s : State) (f q : Nat) (c : Cmd), q < 4 → AtHead s f q c →
    (∀ m t1 t0, c.i = .mxCfg m t1 t0 →
      (cfgCheck c.l = none → ∃ t, exec (.engineCommandPerformed f q 0) s = .next t ∧
        (engine t f q).cfg = c.l ∧ t.mem = s.mem) ∧
      (intClass (c.l.toNat % 16) ≠ intClass (c.l.toNat / 16 % 16) → c.l.toNat / 2 ^ 15 % 2 ^ 17 = 0 →
        c.l.toNat / 2 ^ 12 % 8 ≤ 1 → (s.slot c.x).wh = none →
        exec (.engineCommandPerformed f q 0) s =
          .next (cmdFault (s.by (engineSource f q)) f q c codeFmtMix 0 0 (BitVec.ofNat 64 (c.l.toNat % 2 ^ 32))))) ∧
    (∀ m t1 t0, c.i = .mxZero m t1 t0 →
      let row := c.l.toNat % 2048
      let n := c.l.toNat / 2048 % 2048 + 1
      (row + n ≤ 2048 → ∃ t, exec (.engineCommandPerformed f q 0) s = .next t ∧
        (∀ b, b < 128 * n → t.byte (accStore f q + 128 * row + b) = 0) ∧
        ∀ b, b < accStore f q + 128 * row ∨ accStore f q + 128 * (row + n) ≤ b → t.byte b = s.byte b) ∧
      (2048 < row + n → (s.slot c.x).wh = none →
        exec (.engineCommandPerformed f q 0) s =
          .next (cmdFault (s.by (engineSource f q)) f q c codeEngRange 0 0 (BitVec.ofNat 64 row)))) ∧
    (∀ m t1 t0, c.i = .mxEpi false m t1 t0 →
      let row := c.l.toNat % 2048
      let n := c.l.toNat / 2048 % 32 + 1
      let bias := if c.l.getLsbD 16 then some (c.l.extractLsb' 17 11).toNat else none
      let rows := (List.range n).map fun i => epiRow s f q (row + i) bias
      row + n ≤ 2048 → ∃ t, exec (.engineCommandPerformed f q 0) s = .next t ∧ (∀ b, t.byte b = s.byte b) ∧
        CmdDone s t f q c ((rows.flatMap fun r => byteTokens r.1) ++
          if c.l.getLsbD 28 then
            [{ kind := .eos, data := BitVec.ofNat 64 (n * runBytes (cfgO (engine s f q).cfg)), psn := false }] else [])) ∧
    (∀ m t1 t0, c.i = .mxEpi true m t1 t0 →
      let row := c.l.toNat % 2048
      let n := c.l.toNat / 2048 % 32 + 1
      let bias := if c.l.getLsbD 16 then some (c.l.extractLsb' 17 11).toNat else none
      let rows := (List.range n).map fun i => epiRow s f q (row + i) bias
      let h := c.r.toNat % 256
      let b := s.buf f h
      let fill := if b.st = 0 then 0 else b.bytes
      let len := n * runBytes (cfgO (engine s f q).cfg)
      let dst := b.base f + fill
      row + n ≤ 2048 → b.declared = true → b.busy = false → eotRoom s f b = true → fill + len ≤ b.size →
      inShadow s dst len = false →
        ∃ t, exec (.engineCommandPerformed f q 0) s = .next t ∧
          (∀ k, k < len → t.byte (dst + k) = ((rows.flatMap Prod.fst)[k]?).getD 0) ∧
          (∀ a, a < dst ∨ dst + len ≤ a → t.byte a = s.byte a) ∧ t.buf f h = b.post len ∧
          (∀ d ∈ cmdQueue t f q, d.id ≠ c.id) ∧ (t.slot c.x).cmds = (s.slot c.x).cmds.filter fun n => decide (n ≠ c.id)) ∧
    (∀ d m t1 t0 k p, c.i = .mxCpy d m t1 t0 → (c.started = false → cpyCheck s f d c = none) → s.soft = [] →
      ((cpyParts f c).filter fun p => (SMap.find c.parts p.1).isNone)[k]? = some p →
      let store := cpyStore f c + p.1
      let acc := accStore f q + 128 * (c.l.toNat % 2048)
      let n := c.l.toNat / 2048 % 2048 + 1
      let got := SMap.insert c.parts p.1 (if d then s.bytes store p.2 else [])
      ∃ t, exec (.engineCommandPerformed f q k) s = .next t ∧
        (got.length ≠ (cpyParts f c).length → ∃ e ∈ cmdQueue t f q, e.id = c.id ∧ e.started = true ∧ e.parts = got) ∧
        (got.length = (cpyParts f c).length → CmdDone s t f q c [dataOut (BitVec.ofNat 64 n)]) ∧
        (d = false → Stored s t store p.2 (wordAt s (acc + p.1) p.2)) ∧
        (d = true → got.length ≠ (cpyParts f c).length → ∀ a, t.byte a = s.byte a) ∧
        (d = true → got.length = (cpyParts f c).length →
          (∀ i, i < n → ((got.filter fun e => decide (e.1 / 128 = i)).flatMap Prod.snd).length = 128) →
            (∀ i, i < n → t.bytes (acc + 128 * i) 128 = (got.filter fun e => decide (e.1 / 128 = i)).flatMap Prod.snd) ∧
            ∀ a, a < acc ∨ acc + 128 * n ≤ a → t.byte a = s.byte a))) ∧
  (∀ (s : State) (f q : Nat) (m : BitVec 4) (t1 t0 : Target) (c : Cmd), q < 4 → AtHeads s f q m c → c.i = .mxBb m t1 t0 →
    c.l.extractLsb' 25 7 = 0 → c.l.extractLsb' 48 16 = 0 → s.soft = [] →
    let from' (k : Nat) : Nat := (c.l.extractLsb' 0 19).toNat + k * (c.l.extractLsb' 32 16).toNat
    let at' (k : Nat) : Nat := tileStore (64 * f + (c.l.extractLsb' 19 6).toNat) + from' k
    let rb (k : Nat) : Nat := runBytes (cfgB (engine s f k).cfg)
    (∀ k, k < 4 → m.getLsbD k = true → from' k + 32 * rb k ≤ 0x80000 ∧ inShadow s (at' k) (32 * rb k) = false) →
      ∃ t, exec (.engineCommandPerformed f q 0) s = .next t ∧ (∀ b, t.byte b = s.byte b) ∧ CmdDone s t f q c [dataOut 0] ∧
        ∀ k, k < 4 → engine t f k = if m.getLsbD k then { engine s f k with panel := some {
          fmt := cfgB (engine s f k).cfg, tile := tileOf c.x
          cols := (List.range 32).map fun j => wordAt s (at' k + j * rb k) (rb k) } } else engine s f k) ∧
  (∀ (s : State) (f q : Nat) (m : BitVec 4) (t1 t0 : Target) (c : Cmd) (lat : OpLatch) (ps : Nat → Panel), q < 4 →
    AtHeads s f q m c → c.i = .mxMma m t1 t0 → (s.field f).oplatch = some lat →
    (∀ k, k < 4 → m.getLsbD k = true → (engine s f k).panel = some (ps k) ∧ (engine s f k).mismatch = none ∧
      lat.fmt = cfgA (engine s f k).cfg ∧ (ps k).fmt = cfgB (engine s f k).cfg) →
    let row := c.l.toNat % 2048
    let at' (k i j : Nat) : Nat := accStore f k + 128 * (row + i) + 4 * j
    row + 31 ≤ 2047 →
      ∃ t, exec (.engineCommandPerformed f q 0) s = .next t ∧ (t.field f).oplatch = none ∧ CmdDone s t f q c [dataOut 0] ∧
        (∀ k, k < 4 → m.getLsbD k = true → (engine t f k).panel = none) ∧
        (∀ k i j, k < 4 → m.getLsbD k = true → i < 32 → j < 32 →
          let a := (lat.rows[i]?).getD 0
          let b := ((ps k).cols[j]?).getD 0
          (intClass lat.fmt = true → BitVec.ofNat 32 (wordAt t (at' k i j) 4) =
            intStep lat.fmt (ps k).fmt (wordAt s (at' k i j) 4) a b) ∧
          (intClass lat.fmt = false → KStepIs (decodeF fp32 (wordAt s (at' k i j) 4) ::
            (List.range 32).map fun h => mulExact (runFloat lat.fmt a h) (runFloat (ps k).fmt b h)) (wordAt t (at' k i j) 4))) ∧
        ∀ b, (∀ k, k < 4 → m.getLsbD k = true → b < accStore f k + 128 * row ∨ accStore f k + 128 * (row + 32) ≤ b) →
          t.byte b = s.byte b) ∧
  ∀ (s : State) (f : Nat) (c : Cmd) (t1 t0 : Target), (cmdQueue s f 4)[0]? = some c → c.wh = none → c.firedAt < s.now →
    c.i = .mxGath t1 t0 → c.psn = false → c.r.getLsbD 31 = false → c.r.extractLsb' 52 12 = 0 → (s.field f).oplatch = none →
    s.soft = [] →
    let fmt := (c.r.extractLsb' 48 4).toNat
    let n := runBytes fmt
    (∀ k p, k < 32 → gatherAt c k = some p → p.1 < 64 ∧ p.2 + n ≤ 0x80000 ∧
      inShadow s (tileStore (64 * f + p.1) + p.2) n = false) →
      ∃ t, exec (.engineCommandPerformed f 4 0) s = .next t ∧ (∀ b, t.byte b = s.byte b) ∧
        (t.field f).oplatch = some { fmt := fmt, rows := (List.range 32).map (gatherRow s f c n) } ∧
        CmdDone s t f 4 c [dataOut (BitVec.ofNat 64 ((List.range 32).countP fun k => (gatherAt c k).isSome))]

/-- R269, R271 to R277, R192: a copy channel whose record is software's stops idle with cause 2 and performs its CPY.HEAD; a record
that is the device's is checked and carried out from the bytes read; an element of a transfer above the source takes the fill value.
WLK.CFG configures its context; WLK.GO takes its context, and its burst, the start vertex and those of its hops, leaves it.
CPY.STAT and QFENCE are performed as they reach their unit, QFENCE once the commands it waits for are performed. At the closing edge
of a field's cycle a buffer request is performed: BUF.WAIT where the handle has the state it waits for, BUF.REL, BUF.STAT. -/
def OtherCommands : Prop :=
  (∀ (s u : State) (f k : Nat) (c : Cmd) (bs : List Byte), (cmdQueue s f (5 + k))[0]? = some c → c.started = true →
    c.wh = none → ((s.field f).chan k).st ≠ 0 → ((s.field f).chan k).st ≠ 3 →
    ((s.field f).chan k).read = none →
    engRead ((s.by (engineSource f (5 + k))).task c.id) f (tileOf c.x) ((s.field f).chan k).rcd.toNat 64 Need.engine true =
      (u, .ok bs) →
      ((leNat (bs.take 8)).testBit 0 = false → ∃ t, exec (.copyRecord f k) s = .next t ∧ ((t.field f).chan k).st = 0 ∧
        ((t.field f).chan k).cause = 2 ∧ t.mem = u.mem ∧ ∀ n ∈ (t.slot c.x).cmds, n ≠ c.id) ∧
      ((leNat (bs.take 8)).testBit 0 = true → ∀ (v : State) (rs : List Run),
        engCheck u f (tileOf c.x) ((s.field f).chan k).rcd.toNat 64 Need.record true = (v, .ok rs) →
          exec (.copyRecord f k) s = .next (carryOut v f k c ((s.field f).chan k).rcd.toNat bs))) ∧
  (∀ (s : State) (f t : Nat) (w : Nat → Nat) (e : Nat) (es : List Nat) (acc : List Byte),
    let row := (BitVec.ofNat 32 (w 3)).toInt + (e / (w 4 / 2 ^ 16 % 2 ^ 16) : Nat)
    row < 0 → xferBytes s f t w (e :: es) acc =
      xferBytes s f t w es (acc ++ leBytes (2 ^ (w 5 / 2 ^ 8 % 4)) (w 6))) ∧
  (∀ (s : State) (f k n : Nat) (c : Cmd), (cmdQueue s f 9)[k]? = some c → c.wh = none → c.firedAt < s.now →
    (∀ t1 t0, c.i = .wlkCfg t1 t0 → (∀ d ∈ (cmdQueue s f 9).take k, d.started = true) → walkContext s f c.r = some n →
      c.l.extractLsb' 48 16 = 0 → c.l.extractLsb' 1 5 = 0 → (s.walk n).run = none →
        ∃ t, exec (.engineCommandPerformed f 9 k) s = .next t ∧ (t.walk n).cfg = c.l ∧ (∀ j, j ≠ n → t.walk j = s.walk j) ∧
          CmdDone s t f 9 c [dataOut 0]) ∧
    (∀ eos t1 t0, c.i = .wlkGo eos t1 t0 → walkContext s f c.p = some n →
      (c.started = false → (∀ d ∈ (cmdQueue s f 9).take k, d.started = true) → (s.walk n).run = none →
        ∃ t, exec (.engineCommandPerformed f 9 k) s = .next t ∧ (t.walk n).run = some c.id ∧
          (t.walk n).cfg = (s.walk n).cfg ∧ ∃ d ∈ cmdQueue t f 9, d.id = c.id ∧ d.started = true) ∧
      (c.started = true → ∀ u out, walkRun ((s.by (engineSource f 9)).task c.id) f n c = (u, .ok out) →
        out.head? = some c.l.toNat ∧ out.length = (c.p.extractLsb' 16 8).toNat + 1 ∧
        ∃ t, exec (.engineCommandPerformed f 9 k) s = .next t ∧ (t.walk n).run = none ∧ t.mem = u.mem ∧
          CmdDone u t f 9 c ((out.map fun v => dataOut (BitVec.ofNat 64 v)) ++
            if eos then [{ kind := .eos, data := BitVec.ofNat 64 out.length, psn := false }] else [])))) ∧
  (∀ (s : State) (f k : Nat) (c : Cmd), (s.field f).bus[k]? = some c → c.wh = none → c.todo = [] → c.firedAt < s.now →
    let v := (s.field f).chan
    turnOf false s (.arrive f k) = .next (arriveAt s f k) ∧
    (∀ h m t1 t0, c.i = .cpyStat h m t1 t0 → BusDone s (arriveAt s f k) f c
      [dataOut (if h then (v m.toNat).rcd else (v m.toNat).st.setWidth 64 <<< 30 ||| (v m.toNat).cause.setWidth 64 <<< 27 |||
        (v m.toNat).recs.setWidth 64)]) ∧
    (∀ p t1 t0, c.i = .qfence p t1 t0 → (qfenceClear s f c = true → BusDone s (arriveAt s f k) f c [ord]) ∧
      (qfenceClear s f c = false → arriveAt s f k = s))) ∧
  ∀ (s : State) (f : Nat) (c : Cmd), (s.field f).bus.filter (fun d => d.started && isBufReq d.i) = [c] →
    (s.field f).eosNow = [] → c.wh = none → (s.buf f (c.l.toNat % 256)).declared = true →
    let h := c.l.toNat % 256
    let b := s.buf f h
    let t := bufferEdge s f
    (∀ take st t1 t0, c.i = .bufWait take st t1 t0 →
      (b.st = st.toNat → BusDone s t f c [dataOut b.low] ∧ t.buf f h = if take then b.setState 3 b.eotc b.bytes else b) ∧
      (b.st ≠ st.toNat → c ∈ (t.field f).bus ∧ t.buf f h = b)) ∧
    (∀ t1 t0, c.i = .bufRel t1 t0 → b.st ≠ 1 →
      t.buf f h = (if b.busy then b.setState 0 0 0 else b) ∧ BusDone s t f c [dataOut (t.buf f h).low]) ∧
    ∀ t1 t0, c.i = .bufStat t1 t0 → BusDone s t f c [dataOut b.low] ∧ t.buf f h = b

end Sys2Proof.Claims

/-- R72 to R74, R192, R257 to R277: what the commands of the matrix engines, the gather unit, the copy channels, the walk engines
and the buffer table do when they are performed. -/
def Obligations.EngineCommandsAct : Prop := MatrixCommands ∧ OtherCommands

namespace Sys2Proof.Claims

/-- Command c of field f's MSU has been performed: register zd alone is written, with this tag, this mask and, in each lane i, a
value of which `word i` holds; no byte of memory changes; the completion token names tag and mask (R134, R135). -/
def ZWritten (s : State) (f : Nat) (c : Cmd) (zd : BitVec 5) (tag : BitVec 3) (mask : BitVec 16) (word : Nat → Nat → Prop) : Prop :=
  ∃ t, exec (.msuCommandPerformed f) s = .next t ∧ ((t.field f).zreg zd).tag = tag ∧ ((t.field f).zreg zd).mask = mask ∧
    (∀ i, i < 16 → word i (lane t f zd i)) ∧ (t.field f).zlen = (s.field f).zlen ∧
    (∀ z, z ≠ zd → (t.field f).zreg z = (s.field f).zreg z) ∧ (∀ b, t.byte b = s.byte b) ∧
    CmdDone s t f 10 c [dataOut (BitVec.ofNat 64 (tag.toNat * 2 ^ 16 + mask.toNat))]

/-- The access that SLD or SST makes through its slot's port (R136, R141). -/
def MsuAccess (s t : State) (c : Cmd) (a : Access) : Prop :=
  (t.slot c.x).accs = (s.slot c.x).accs ++ [a] ∧ a.id = c.id ∧ a.i = c.i ∧ a.va.toNat = c.l.toNat % 2 ^ 48 ∧ a.parts = none

/-- The instructions of R133 on two sources: whether their masks must be disjoint or equal, and what becomes of two bits. -/
def twoSource (zd za zb : BitVec 5) (t0 : Target) : List (Instr × Bool × (Bool → Bool → Bool)) :=
  [(.sand zd za zb t0, true, fun a b => a && b), (.sor zd za zb t0, true, fun a b => a || b),
   (.sxor zd za zb t0, false, fun a b => a ^^ b), (.smin zd za zb t0, false, fun a b => a && b),
   (.smax zd za zb t0, false, fun a b => a || b)]

end Sys2Proof.Claims

/-- R133, R135 to R137, R139 to R143: the MSU performs its oldest eligible command: SLEN sets the length and leaves every
register; SAND, SOR, SXOR, SMIN, SMAX, SMUX, SNOT and SMOV combine lanes bit by bit, join the masks and keep the tag where tags
agree and the masks allow it; where they do not, STREAM-LEN or CORRELATED; SGEN writes four lanes from their values, and clears
the others in its first group; SREGEN keeps the count of each lane. SST stores the image of its register through its port, SLD
asks there for as many bytes as the length names, and takes its second place with the bytes read; an address that is no multiple
of 32 raises MISALIGN. (That bits [63:48] of L are ignored is the model's choice, notes/assumptions/56.md.) -/
def Obligations.StreamCommandsAct : Prop :=
  (∀ (s : State) (f : Nat) (c : Cmd), eligible s f [] (cmdQueue s f 10) = some c → (s.slot c.x).wh = none →
    let reg (z : BitVec 5) : ZReg := (s.field f).zreg z
    let bit (z : BitVec 5) (i k : Nat) : Bool := (lane s f z i).testBit k
    (∀ l t1 t0, c.i = .slen l t1 t0 →
      ∃ t, exec (.msuCommandPerformed f) s = .next t ∧ (t.field f).zlen = l ∧ (t.field f).zregs = (s.field f).zregs ∧
        CmdDone s t f 10 c [dataOut (BitVec.ofNat 64 (l.toNat * 2 ^ 16))]) ∧
    (∀ zd za zb t0 i apart op, (i, apart, op) ∈ twoSource zd za zb t0 → c.i = i →
      let a := reg za
      let b := reg zb
      let fits : Prop := if apart then a.mask &&& b.mask = 0 else a.mask = b.mask
      (a.tag = b.tag → fits → ZWritten s f c zd a.tag (if apart then a.mask ||| b.mask else a.mask)
        fun i v => ∀ k, v.testBit k = op (bit za i k) (bit zb i k)) ∧
      (a.tag ≠ b.tag → exec (.msuCommandPerformed f) s =
        .next (cmdFault s f 10 c codeStreamLen 0 0 (BitVec.ofNat 64 (a.tag.toNat * 2 ^ 16 + b.tag.toNat)))) ∧
      (a.tag = b.tag → ¬fits → exec (.msuCommandPerformed f) s =
        .next (cmdFault s f 10 c codeCorrelated 0 0 (BitVec.ofNat 64 (a.mask.toNat * 2 ^ 16 + b.mask.toNat))))) ∧
    (∀ zd za zb t0, c.i = .smux zd za zb t0 →
      let m := reg zd
      let a := reg za
      let b := reg zb
      m.tag = a.tag → m.tag = b.tag → m.mask &&& (a.mask ||| b.mask) = 0 →
        ZWritten s f c zd m.tag (m.mask ||| a.mask ||| b.mask) fun i v =>
          ∀ k, k < lenOf m.tag → v.testBit k = if bit zd i k then bit za i k else bit zb i k) ∧
    (∀ zd za t0, c.i = .snot zd za t0 → (reg za).lanes.length = 16 →
      ZWritten s f c zd (reg za).tag (reg za).mask fun i v => ∀ k, k < lenOf (reg za).tag → v.testBit k = !bit za i k) ∧
    (∀ zd za t0, c.i = .smov zd za t0 →
      ZWritten s f c zd (reg za).tag (reg za).mask fun i v => v = lane s f za i) ∧
    (∀ zd t1 t0, c.i = .sgen zd t1 t0 →
      let n := (s.field f).zlen
      let g := c.r.toNat % 16
      let q := c.r.toNat / 16 % 4
      n.toNat ≤ 5 →
      (q = 0 ∨ (reg zd).tag = n →
        ZWritten s f c zd n (if q = 0 then 1#16 <<< g else (reg zd).mask ||| 1#16 <<< g) fun i v =>
          if i / 4 = q then
            ∀ k, k < lenOf n → v.testBit k =
              decide (genPerm g n k < c.l.toNat / 2 ^ (16 * (i % 4)) % 2 ^ 16 * lenOf n / 65536)
          else v = if q = 0 then 0 else lane s f zd i) ∧
      (q ≠ 0 → (reg zd).tag ≠ n → exec (.msuCommandPerformed f) s =
        .next (cmdFault s f 10 c codeStreamLen 0 0 (BitVec.ofNat 64 ((reg zd).tag.toNat * 2 ^ 16 + n.toNat))))) ∧
    (∀ zd zs g t0, c.i = .sregen zd zs g t0 → (reg zs).tag.toNat ≤ 5 → (reg zs).lanes.length = 16 →
      ZWritten s f c zd (reg zs).tag (1#16 <<< g.toNat) fun i v => ∀ k, k < lenOf (reg zs).tag →
        v.testBit k = decide (genPerm g.toNat (reg zs).tag k < laneOnes (reg zs).tag (lane s f zs i))) ∧
    (∀ z t1 t0, c.i = .sst z t1 t0 →
      let len := lenOf (reg z).tag
      (c.l.toNat % 32 = 0 → (reg z).lanes.length = 16 → (∀ i, lane s f z i < 2 ^ len) →
        ∃ t a, exec (.msuCommandPerformed f) s = .next t ∧ (∀ d ∈ cmdQueue t f 10, d.id ≠ c.id) ∧
          (t.field f).zregs = (s.field f).zregs ∧ (∀ b, t.byte b = s.byte b) ∧ MsuAccess s t c a ∧ a.block.length = 2 * len ∧
          (∀ i, i < 16 → leNat ((a.block.drop (i * (len / 8))).take (len / 8)) = lane s f z i) ∧
          a.p = BitVec.ofNat 64 ((reg z).tag.toNat * 2 ^ 16 + (reg z).mask.toNat)) ∧
      (c.l.toNat % 32 ≠ 0 → exec (.msuCommandPerformed f) s =
        .next (cmdFault s f 10 c codeMisalign 6 (c.l.toNat % 2 ^ 48) (BitVec.ofNat 64 (c.l.toNat % 2 ^ 48))))) ∧
    ∀ z t1 t0, c.i = .sld z t1 t0 →
      let len := lenOf (s.field f).zlen
      (c.l.toNat % 32 = 0 → ∃ t a, exec (.msuCommandPerformed f) s = .next t ∧
        (∀ d ∈ cmdQueue t f 10, d.id ≠ c.id) ∧ (t.field f).zregs = (s.field f).zregs ∧ (∀ b, t.byte b = s.byte b) ∧
        (t.field f).slds = (s.field f).slds ++ [{ c with zlen := (s.field f).zlen, started := true }] ∧
        MsuAccess s t c a ∧ a.block = [] ∧ a.p = BitVec.ofNat 64 (2 * len)) ∧
      (c.l.toNat % 32 ≠ 0 → exec (.msuCommandPerformed f) s =
        .next (cmdFault s f 10 c codeMisalign 6 (c.l.toNat % 2 ^ 48) (BitVec.ofNat 64 (c.l.toNat % 2 ^ 48))))) ∧
  ∀ (s : State) (f k : Nat) (c : Cmd) (z : BitVec 5) (t1 t0 : Target) (a : Access) (ps : List Part),
    (s.field f).slds[k]? = some c → c.i = .sld z t1 t0 → (s.slot c.x).accs.find? (fun b => b.id == c.id) = some a →
    a.parts = some ps → (∀ p ∈ ps, p.done = true) →
      ∃ t, exec (.sldSecondPlace f k) s = .next t ∧ ((t.field f).zreg z).tag = c.zlen ∧
        ((t.field f).zreg z).mask = c.r.setWidth 16 ∧
        (∀ i, i < 16 → lane t f z i =
          leNat (((ps.flatMap Part.bytes).drop (i * (lenOf c.zlen / 8))).take (lenOf c.zlen / 8))) ∧
        (∀ y, y ≠ z → (t.field f).zreg y = (s.field f).zreg y) ∧ (∀ b, t.byte b = s.byte b) ∧
        ∀ b ∈ (t.slot c.x).accs, b.id ≠ c.id

/-- R144: SCNT answers the counts of the four lanes that its control token names, SCNT.A the sum of all sixteen, SCVT each of
the four as a fraction of 65,536, at most 65,535; the unit's state is unchanged. -/
def Obligations.CountsOfStreams : Prop :=
  ∀ (s : State) (f : Nat) (c : Cmd) (z : BitVec 5), eligible s f [] (cmdQueue s f 10) = some c → (s.slot c.x).wh = none →
    ((s.field f).zreg z).lanes.length = 16 → ((s.field f).zreg z).tag.toNat ≤ 5 →
    let len := lenOf ((s.field f).zreg z).tag
    let ones (i : Nat) : Nat := (List.range len).countP fun k => (lane s f z i).testBit k
    let q := c.l.toNat % 4
    let four (v : Nat → Nat) : DWord :=
      ((BitVec.ofNat 16 (v (4 * q + 3)) ++ BitVec.ofNat 16 (v (4 * q + 2)) ++ BitVec.ofNat 16 (v (4 * q + 1)) ++
        BitVec.ofNat 16 (v (4 * q)) : BitVec 64))
    let answers (d : DWord) : Prop :=
      exec (.msuCommandPerformed f) s =
        .next (finishCmd (setQueue s f 10 ((cmdQueue s f 10).filter fun a => a.id ≠ c.id)) c.x c.id
          [{ kind := .data, data := d, psn := false }])
    (∀ t1 t0, c.i = .scnt z t1 t0 → answers (four ones)) ∧
    (∀ t1 t0, c.i = .scntA z t1 t0 → answers (BitVec.ofNat 64 (((List.range 16).map ones).sum))) ∧
    ∀ t1 t0, c.i = .scvt z t1 t0 → answers (four fun i => min (ones i * 65536 / len) 65535)

/-! ### The module (R20, R341, R342, R377, R383, R386, R387, R389) -/

/-- R20, R341, R342, R377, R383, R386, R387, R389: reset leaves the reset state but for the fused keys; a released core starts
at pc 0; the flit loads GCYC with 40 cycles a boundary; training, codewords and voltage classes; a leak takes one from each
bucket of its kind, DRAM, GHL or fields, and none from another; a retry fills its lane's; a lapse sets LAPSE and HOLD. The model's
choices: UP is 1 once all eight lanes have trained, and only an enabled port trains (notes/assumptions/32.md); the phases that a
release may follow, and that it needs every die synchronised (notes/assumptions/37.md); the heartbeat of a quarter is watched
from the release of its SC (notes/assumptions/38.md). -/
def Obligations.ModuleActs : Prop :=
  (∀ (s : State), exec (.moduleReset .reset) s = .next { State.reset with turns := s.turns, keys := s.keys }) ∧
  (∀ (s : State) (q core : Nat) (words : List Word), q < 4 → core < 2 → (s.bootst = 4 ∨ s.bootst = 5) →
    (∀ d, d < 8 → (s.die d).synced = true) → (s.coreSt (2 * q + core)).released = false →
      ∃ t, exec (.moduleReset (.release q core words)) s = .next t ∧ t.bootst = 5 ∧
        (t.coreSt (2 * q + core)).released = true ∧ (t.coreSt (2 * q + core)).pc = 0 ∧
        (∀ r, (t.coreSt (2 * q + core)).reg r = 0) ∧ (t.coreSt (2 * q + core)).mcause = 0 ∧
        (t.coreSt (2 * q + core)).mtval = 0 ∧ (t.coreSt (2 * q + core)).mie = 0 ∧
        (t.coreSt (2 * q + core)).mstatus.getLsbD 3 = false ∧
        ∀ n, n < words.length → n < 65536 →
          leNat (Memory.read (t.coreSt (2 * q + core)).imem (4 * n) 4) = ((words[n]?).getD 0).toNat) ∧
  (∀ (s : State) (d : Nat), d < 8 → (s.die d).flitAt = some s.now → (∀ e, e < d → (s.die e).flitAt = none) →
    exec .gcycSyncFlit s = .next (s.setDie d { s.die d with
      gcyc := BitVec.ofNat 64 (40 * dieHops 0 d), synced := true, flitAt := none })) ∧
  (∀ (s : State) (d k : Nat), d < 8 → k < 2 →
    let v := s.die d
    let u := port s d k
    let put (n : UeSt) : State := s.setDie d { v with ue := SMap.put v.ue UeSt.reset k n }
    (∀ lanes : BitVec 8, u.en = true →
      exec (.ueLinkTraining d k lanes) s = .next (put { u with lanes := lanes, up := decide (lanes = 0xFF) })) ∧
    exec (.uncorrectableCodeword d k) s = .next (put { u with fecu := u.fecu + 1 })) ∧
  (∀ (s : State) (f : Nat) (c : VClass), f < 2560 → (∀ j, j < 64 → (s.tile (64 * f + j)).owner = none) →
    exec (.voltageClassChange f c) s = .next (s.setField f { s.field f with vclass := c })) ∧
  (∀ (s : State) (d k : Nat), d < 8 → k < 3 → leakDue s d k = true → s.fields.wf FieldSt.reset = true →
    (s.die d).dramFill.wf 0 = true → (s.die d).ghlFill.wf 0 = true →
    ∃ t, exec (.leakTick d k) s = .next t ∧
      (∀ b, SMap.get (t.die d).dramFill 0 b = SMap.get (s.die d).dramFill 0 b - if k = 0 then 1 else 0) ∧
      (∀ b, SMap.get (t.die d).ghlFill 0 b = SMap.get (s.die d).ghlFill 0 b - if k = 1 then 1 else 0) ∧
      (∀ f, (t.field f).fill = (s.field f).fill - if k = 2 ∧ f / 320 = d then 1 else 0) ∧
      ∀ e, e ≠ d → t.die e = s.die e) ∧
  (∀ (s : State) (d k : Nat), d < 8 → k < 65536 →
    let fill := SMap.get (s.die d).ghlFill 0 k
    let mark := (SMap.get (s.die d).leak LeakCfg.reset 1).mark
    fill < 65535 →
    ∃ t, exec (.ghlFlitRetry d k) s = .next t ∧ SMap.get (t.die d).ghlFill 0 k = fill + 1 ∧
      (fill + 1 ≠ mark → t.quarters = s.quarters) ∧
      (fill + 1 = mark → (s.quarter (leadOf s (quarterOfDie d))).fbuf.length < 1024 →
        stamped s (predSource d 1 k).toNat = false →
        ∃ r, (t.quarter (leadOf s (quarterOfDie d))).fbuf = insertNew s.now r (s.quarter (leadOf s (quarterOfDie d))).fbuf ∧
          r.code = 0x50 ∧ r.kind = 1 ∧ r.detail = BitVec.ofNat 64 (2 ^ 62 + (fill + 1) * 2 ^ 16 + k) ∧
          (t.quarter (leadOf s (quarterOfDie d))).cintPend.getLsbD 2 = true ∧
          (t.quarter (leadOf s (quarterOfDie d))).cintPend.getLsbD 4 = true)) ∧
  ∀ (s : State) (q : Nat), q < 4 → (s.quarter q).hb.lapse = false → (s.coreSt (2 * q)).released = true →
    (s.quarter q).hb.last + (s.quarter q).hb.period * 2100 ≤ s.now →
    (∀ p, p < q → (s.quarter p).hb.lapse = true ∨ (s.coreSt (2 * p)).released = false) →
      exec .heartbeatLapse s = .next (s.setQuarter q { s.quarter q with
        hb := { (s.quarter q).hb with lapse := true, hold := true }, cintPend := (s.quarter q).cintPend ||| 8 })

/-! ### The control cores (R294, R367 to R369) -/

namespace Sys2Proof.Claims

/-- Core c runs, takes no interrupt, and fetches the four-byte word w at its pc. -/
structure Fetches (s : State) (c : Nat) (w : Word) : Prop where
  runs : coreRuns s c = true
  calm : coreInterrupted s c = false
  pc : (s.coreSt c).pc.toNat + 4 ≤ 0x40000
  word : leNat (Memory.read (s.coreSt c).imem (s.coreSt c).pc.toNat 4) = w.toNat
  long : w.toNat % 4 = 3
  sound : (s.coreSt c).imemBad = []

/-- A word of the I format: immediate, rs1, funct3, rd, opcode. -/
def iWord (imm : BitVec 12) (rs1 : BitVec 5) (f3 : BitVec 3) (rd : BitVec 5) (op : BitVec 7) : Word :=
  imm ++ rs1 ++ f3 ++ rd ++ op

/-- A word of the S format. -/
def sWord (imm : BitVec 12) (rs2 rs1 : BitVec 5) (f3 : BitVec 3) : Word :=
  imm.extractLsb' 5 7 ++ rs2 ++ rs1 ++ f3 ++ imm.extractLsb' 0 5 ++ (0x23 : BitVec 7)

end Sys2Proof.Claims

/-- R22, R294, R367 to R369: LD of a control core reads eight bytes at a physical address and SD writes them, both going on to
the next word; an address the core does not reach traps, cause 5 or 7, and changes no byte (also where it is misaligned too: the model's choice, notes/assumptions/56.md). A core takes its interrupt with
cause 11 before the next instruction; ADDI adds, ECALL traps with cause 11 (the model's choice from the RISC-V base,
notes/assumptions/4.md), MRET goes back to mepc with MIE from MPIE; a pc beyond instruction memory traps with cause 1. -/
def Obligations.CoresAct : Prop :=
  (∀ (s : State) (c : Nat) (imm : BitVec 12) (rs1 r : BitVec 5),
    let a := ((s.coreSt c).reg rs1 + imm.signExtend 64).toNat
    let i : Instr := .controlCoreAccess c .clean
    (Fetches s c (iWord imm rs1 3 r 0x03) →
      (∀ (u : State) (v : Nat), coreLoad s c a 8 .clean = .ok u v →
        exec i s = .next (u.setCore c (((u.coreSt c).setReg r (BitVec.ofNat 64 v)).retire 4))) ∧
      (a < remoteBase → coreHome s c a 8 = false →
        ∃ t, exec i s = .next t ∧ Trapped (s.coreSt c) (t.coreSt c) 5 (BitVec.ofNat 64 a) ∧ t.mem = s.mem)) ∧
    (Fetches s c (sWord imm r rs1 3) →
      (a < remoteBase → coreHome s c a 8 = true → anyBusy s a 8 = false → a % 8 = 0 → AsWritten s →
        ∃ t, exec i s = .next t ∧ Stored s t (locOf s a) 8 ((s.coreSt c).reg r).toNat ∧
          (t.coreSt c).pc = (s.coreSt c).pc + 4 ∧ (t.coreSt c).xs = (s.coreSt c).xs) ∧
      (a < remoteBase → coreHome s c a 8 = false →
        ∃ t, exec i s = .next t ∧ Trapped (s.coreSt c) (t.coreSt c) 7 (BitVec.ofNat 64 a) ∧ t.mem = s.mem))) ∧
  ∀ (s : State) (c : Nat),
    let v := s.coreSt c
    let i : Instr := .controlCoreInstruction c .clean
    (coreRuns s c = true → coreInterrupted s c = true →
      ∃ u : CoreSt, exec i s = .next (s.setCore c u) ∧ u.mepc = v.pc ∧ u.mcause = 0x800000000000000B ∧
        u.mstatus.getLsbD 3 = false ∧ u.mstatus.getLsbD 7 = true ∧ u.xs = v.xs ∧
        u.pc = (v.mtvec &&& ~~~3#64) + if v.mtvec.getLsbD 0 then 44 else 0) ∧
    (∀ (imm : BitVec 12) (rs1 rd : BitVec 5), Fetches s c (iWord imm rs1 0 rd 0x13) →
      exec i s = .next (s.setCore c ((v.setReg rd (v.reg rs1 + imm.signExtend 64)).retire 4))) ∧
    (Fetches s c 0x00000073 → ∃ t, exec i s = .next t ∧ Trapped v (t.coreSt c) 11 0 ∧ t = s.setCore c (t.coreSt c)) ∧
    (Fetches s c 0x30200073 →
      ∃ u : CoreSt, exec i s = .next (s.setCore c u) ∧ u.pc = v.mepc ∧ u.mstatus.getLsbD 3 = v.mstatus.getLsbD 7 ∧
        u.mstatus.getLsbD 7 = true ∧ u.xs = v.xs ∧ u.mepc = v.mepc) ∧
    (coreRuns s c = true → coreInterrupted s c = false → 0x40000 ≤ v.pc.toNat →
      ∃ t, exec i s = .next t ∧ Trapped v (t.coreSt c) 1 v.pc ∧ t = s.setCore c (t.coreSt c))

/-! ### The whole machine -/

namespace Sys2Proof.Claims

/-- The rows that a control core decodes. -/
def isCoreRow : Instr → Bool
  | .xlnch _ _ _ => true
  | .xkscan _ _ => true
  | .xqpri _ _ _ => true
  | .xqstat _ _ => true
  | .xfltPop _ _ => true
  | .xfltRes _ _ _ => true
  | .xjnlW _ _ => true
  | .xhbt _ => true
  | .xtake _ => true
  | .xpartQsc _ _ => true
  | .xpartIl _ _ _ => true
  | .xpartBnd _ _ _ => true
  | .xpartSd _ _ => true
  | .xpartCommit _ _ => true
  | .xsigVer _ _ => true
  | .xrdCnt _ _ => true
  | _ => false

end Sys2Proof.Claims

/-- A turn runs the instruction where it stands: a slot's word as its tile's configuration holds it, the Xpyraro word at a core's
pc, an event as it is. A slot fires where each of its chained consumers takes its value in the same cycle (R44, R47), and a counter
operation once none of a lower slot can still fire in the cycle (R335); a core takes one turn a cycle. What the machine put on its
agenda takes place; a turn of the schedule that comes too late for the order of its cycle, or for the counter operations that have
fired in it, changes nothing (the model's choice, notes/assumptions/43.md). -/
def Obligations.StepRunsInstruction : Prop :=
  (∀ (s u : State) (ts : List Turn) (x : Nat) (i : Instr),
    ((s.agenda = .fire x :: ts ∧ u = { s with agenda := ts, foc := x }) ∨
      (s.agenda = [] ∧ Config.schedule s.turns = .fire x ∧ u = { s with turns := s.turns + 1, foc := x })) →
    cfgSlot (s.tile (tileOf x)).cfg (slotNo x) ≠ 0 → decodeFabric (cfgSlot (s.tile (tileOf x)).cfg (slotNo x)) = .ok i →
    (∀ t, heldBack u x = false → exec i u = .next t → t ≠ u → t.late = false →
      let v := if tookHeld u t x then t.setSlot x { t.slot x with dstart := s.now + 1 } else t
      settled v x = true → step s = .next v) ∧
    (∀ y, isCounterOp i = true → tileOf y = tileOf x → y < x → counterSlot u y = true → (s.slot y).fired ≠ s.now + 1 →
      canFire u y = true → s.late = false → step s = .next u)) ∧
  (∀ (s t : State) (ts : List Turn) (c : Nat) (data : Ecc) (w : Word) (i : Instr), Fetches s c w →
    decodeXpyraro w = some i → isXpyraro w = true →
    let at' (u : State) : State := markStamp (({ u with core := c }).by (coreSource c)) (coreSource c).toNat
    (s.agenda = .core c .clean data :: ts → exec i (at' { s with agenda := ts }) = .next t →
      step s = .next { t with late := false }) ∧
    (s.agenda = [] → Config.schedule s.turns = .core c .clean data →
      let u := { s with turns := s.turns + 1 }
      exec i (at' u) = .next t →
        step s = .next (if t.late || (movable u (.core c .clean data) && tooLateFor u t) then u else t))) ∧
  ∀ (s t : State) (ts : List Turn) (i : Instr), encode i = none →
    (s.agenda = .event i :: ts → exec i { s with agenda := ts } = .next t → step s = .next { t with late := false }) ∧
    (s.agenda = [] → Config.schedule s.turns = .event i → isInternal i = false →
      let u := { s with turns := s.turns + 1 }
      exec i u = .next t → step s = .next (if t.late || (movable u (.event i) && tooLateFor u t) then u else t))

/-- Words written out from the encodings of the spec decode to the instructions they stand for, and reserved ones are
refused. -/
def Obligations.WordsDecode : Prop :=
  decodeFabric 0x06800B01 = .ok (.addi .word .always 5 (.latch true .l 1)) ∧
  decodeFabric 0x06800B01 = decodeFabric (0x06#8 ++ 0b10#2 ++ 0b00#2 ++ 0b00#2 ++ 5#9 ++ 0x101#9) ∧
  decodeFabric 0x808DFE01 = .ok (.ld .word .always true true .none (.latch false .l 1)) ∧
  decodeFabric 0x8609FE01 = .ok (.step 2 .none (.latch false .l 1)) ∧
  decodeFabric 0xB0040200 = .ok (.slen 1 (.latch false .l 1) (.latch false .l 0)) ∧
  decodeFabric 0x78100A01 = .ok (.trap .ifTrue 5 (.latch false .l 1)) ∧
  decodeFabric 0x7B0000FF = .ok .nop ∧
  decodeXpyraro 0x00C5850B = some (.xlnch 10 11 12) ∧
  decodeXpyraro 0x0005F00B = some (.xhbt 11) ∧
  decodeXpyraro 0x0005D52B = some (.xpartCommit 10 11) ∧
  (∃ e, decodeFabric 0xB0180200 = .error e) ∧ decodeXpyraro 0x02C5850B = none

/-- Decoding and encoding agree: every well-formed instruction with an encoding comes back from its word, with every operand
at every value. -/
def Obligations.EncodeDecodes : Prop :=
  ∀ (i : Instr) (w : Word), wellFormed i = true → encode i = some w →
    (isCoreRow i = false → decodeFabric w = .ok i) ∧ (isCoreRow i = true → decodeXpyraro w = some i ∧ isXpyraro w = true)

/-- Every step keeps the memory's canonical form. -/
def Obligations.CanonicalKept : Prop := ∀ s t : State, Canonical s → step s = .next t → Canonical t

/-- R384, R386: the key slots are one-time fuses: no step changes one that is written, a module reset included. -/
def Obligations.FusesStand : Prop :=
  ∀ (s t : State) (n v : Nat), SMap.find s.keys n = some v → step s = .next t → SMap.find t.keys n = some v

/-- What reset leaves, as the spec gives it: memory canonical, no core but the MGC to run, no graph, GCYC 0 on every die, the
registers of every quarter at their reset values. The memory's fill of zeros is the model's (notes/assumptions/2.md). -/
def Obligations.ResetValues : Prop :=
  Canonical State.reset ∧ State.reset.graphs = [] ∧ State.reset.bootst = 0 ∧
  (∀ d, d < 8 → (State.reset.die d).gcyc = 0 ∧ (State.reset.die d).layc.busy = false ∧
    ∀ k, (SMap.get (State.reset.die d).leak LeakCfg.reset k) = { mark := 16, leak := 2100000 }) ∧
  (∀ q, q < 4 →
    let r := State.reset.quarter q
    r.bypb = 4 ∧ r.tlim = 500 ∧ r.wdog = 10000 ∧ r.hb.period = 1000 ∧ r.hb.lapse = false ∧ r.hb.owner = false ∧
    r.kmapa = 0 ∧ r.crp.en = false ∧ r.rem.rto = 1000 ∧ r.fbuf = [] ∧ leadOf State.reset q = q ∧
    ∀ n, (State.reset.lq q n).en = false) ∧
  (∀ c, (State.reset.coreSt c).released = false) ∧ ∀ f, (State.reset.field f).vclass = .spring
end

