-- ==== Sys2Proof/Laws/Map.lean ====
section
/-! SUPPORT. What reading a sparse table answers after a write, and that its operations keep the canonical form. -/

namespace Sys2Proof.Machine.SMap

variable {α : Type}

@[simp] theorem find_nil (n : Nat) : find ([] : SMap α) n = none := rfl

theorem find_cons (k : Nat) (v : α) (m : SMap α) (n : Nat) :
    find ((k, v) :: m) n = if n = k then some v else find m n := rfl

@[simp] theorem find_insert_same (m : SMap α) (n : Nat) (x : α) : find (insert m n x) n = some x := by
  induction m with
  | nil => simp [insert, find_cons]
  | cons e m ih =>
    obtain ⟨k, v⟩ := e
    rw [insert]
    split
    · simp [find_cons]
    · split
      · simp [find_cons]
      · simp [find_cons, *]

theorem find_insert_other (m : SMap α) {n k : Nat} (x : α) (h : k ≠ n) : find (insert m n x) k = find m k := by
  induction m with
  | nil => simp [insert, find_cons, h]
  | cons e m ih =>
    obtain ⟨j, v⟩ := e
    rw [insert]
    split
    · simp [find_cons, h]
    · split
      · subst_vars
        simp [find_cons, h]
      · simp [find_cons, ih]

theorem erase_cons (k : Nat) (v : α) (m : SMap α) (n : Nat) :
    erase ((k, v) :: m) n = if k = n then erase m n else (k, v) :: erase m n := by
  by_cases h : k = n <;> simp [erase, h]

@[simp] theorem find_erase_same (m : SMap α) (n : Nat) : find (erase m n) n = none := by
  induction m with
  | nil => rfl
  | cons e m ih =>
    rw [erase_cons]
    split
    · exact ih
    · rw [find_cons, if_neg (Ne.symm ‹_›), ih]

theorem find_erase_other (m : SMap α) {n k : Nat} (h : k ≠ n) : find (erase m n) k = find m k := by
  induction m with
  | nil => rfl
  | cons e m ih =>
    rw [erase_cons, find_cons]
    split
    · rw [ih, if_neg (fun g => h (g.trans ‹_›))]
    · rw [find_cons, ih]

variable [DecidableEq α]

/-- Reading the key that was written gives the value written. -/
@[simp] theorem get_put_same (m : SMap α) (d : α) (n : Nat) (x : α) : get (put m d n x) d n = x := by
  unfold get put
  split
  · simp [*]
  · simp

/-- A write leaves every other key alone. -/
theorem get_put_other (m : SMap α) (d : α) {n k : Nat} (x : α) (h : k ≠ n) : get (put m d n x) d k = get m d k := by
  unfold get put
  split
  · rw [find_erase_other m h]
  · rw [find_insert_other m x h]

theorem get_put (m : SMap α) (d : α) (n k : Nat) (x : α) :
    get (put m d n x) d k = if k = n then x else get m d k := by
  split
  · subst_vars
    simp
  · exact get_put_other m d x ‹_›

/-! ### The canonical form -/

omit [DecidableEq α] in
theorem sortedFrom_mono {b c : Nat} (h : b ≤ c) : ∀ m : SMap α, sortedFrom c m = true → sortedFrom b m = true
  | [] => fun _ => rfl
  | (k, v) :: m => by
    simp only [sortedFrom, Bool.and_eq_true, decide_eq_true_eq]
    exact fun g => ⟨le_trans h g.1, g.2⟩

omit [DecidableEq α] in
theorem sortedFrom_filter (p : Nat × α → Bool) : ∀ (b : Nat) (m : SMap α),
    sortedFrom b m = true → sortedFrom b (m.filter p) = true
  | _, [] => fun _ => rfl
  | b, (k, v) :: m => by
    intro h
    simp only [sortedFrom, Bool.and_eq_true, decide_eq_true_eq] at h
    have ih := sortedFrom_filter p (k + 1) m h.2
    by_cases hp : p (k, v) = true
    · simp [List.filter_cons_of_pos hp, sortedFrom, h.1, ih]
    · rw [List.filter_cons_of_neg hp]
      exact sortedFrom_mono (by omega) _ ih

omit [DecidableEq α] in
theorem sortedFrom_insert (n : Nat) (x : α) : ∀ (b : Nat) (m : SMap α),
    b ≤ n → sortedFrom b m = true → sortedFrom b (insert m n x) = true
  | b, [] => fun hb _ => by simp [insert, sortedFrom, hb]
  | b, (k, v) :: m => by
    intro hb h
    simp only [sortedFrom, Bool.and_eq_true, decide_eq_true_eq] at h
    rw [insert]
    split
    · simp only [sortedFrom, Bool.and_eq_true, decide_eq_true_eq]
      exact ⟨hb, by omega, h.2⟩
    · split
      · subst_vars
        simp [sortedFrom, h.2, hb]
      · simp only [sortedFrom, Bool.and_eq_true, decide_eq_true_eq]
        exact ⟨h.1, sortedFrom_insert n x (k + 1) m (by omega) h.2⟩

omit [DecidableEq α] in
theorem all_insert (p : Nat × α → Bool) (n : Nat) (x : α) (hp : p (n, x) = true) :
    ∀ m : SMap α, m.all p = true → (insert m n x).all p = true
  | [] => fun _ => by simp [insert, hp]
  | (k, v) :: m => by
    intro h
    simp only [List.all_cons, Bool.and_eq_true] at h
    rw [insert]
    split
    · simp [hp, h.1, h.2]
    · split
      · simp [hp, h.2]
      · simp only [List.all_cons, Bool.and_eq_true]
        exact ⟨h.1, all_insert p n x hp m h.2⟩

omit [DecidableEq α] in
theorem all_filter (p q : Nat × α → Bool) : ∀ m : SMap α, m.all p = true → (m.filter q).all p = true := by
  intro m h
  simp only [List.all_eq_true, List.mem_filter] at h ⊢
  exact fun x hx => h x hx.1

/-- Unlisting entries keeps the canonical form. -/
theorem wf_filter (d : α) (q : Nat × α → Bool) (m : SMap α) (h : wf d m = true) : wf d (m.filter q) = true := by
  simp only [wf, Bool.and_eq_true] at h ⊢
  exact ⟨sortedFrom_filter q 0 m h.1, all_filter _ q m h.2⟩

/-- A write keeps the canonical form. -/
theorem wf_put (d : α) (m : SMap α) (n : Nat) (x : α) (h : wf d m = true) : wf d (put m d n x) = true := by
  unfold put
  split
  · exact wf_filter d _ m h
  · rename_i hx
    simp only [wf, Bool.and_eq_true] at h ⊢
    exact ⟨sortedFrom_insert n x 0 m (Nat.zero_le _) h.1, all_insert _ n x (by simpa using hx) m h.2⟩

theorem wf_nil (d : α) : wf d ([] : SMap α) = true := rfl

end Sys2Proof.Machine.SMap
end

