-- ==== Sys2Proof/Laws/Memory.lean ====
section
/-! SUPPORT. Memory: a read after a write gives the bytes written, a write leaves every other address alone, and every
operation keeps the canonical form. -/

namespace Sys2Proof.Machine.Memory

theorem wf_nil : wf [] = true := rfl

theorem wf_put (m : List Host.Cell) (a : Nat) (b : Byte) (h : wf m = true) : wf (put m a b) = true :=
  SMap.wf_put Config.fillByte m a b h

theorem wf_filter (q : Host.Cell → Bool) (m : List Host.Cell) (h : wf m = true) : wf (m.filter q) = true :=
  SMap.wf_filter Config.fillByte q m h

theorem wf_write (bs : List Byte) : ∀ (m : List Host.Cell) (a : Nat), wf m = true → wf (write m a bs) = true := by
  induction bs with
  | nil => exact fun m a h => h
  | cons b bs ih => exact fun m a h => ih _ _ (wf_put m a b h)

theorem get_put (m : List Host.Cell) (a c : Nat) (b : Byte) : get (put m a b) c = if c = a then b else get m c :=
  SMap.get_put m Config.fillByte a c b

/-- A write leaves the bytes below it alone. -/
theorem get_write_below (bs : List Byte) : ∀ (m : List Host.Cell) (a c : Nat), c < a → get (write m a bs) c = get m c := by
  induction bs with
  | nil => exact fun m a c _ => rfl
  | cons b bs ih =>
    intro m a c h
    rw [write, ih _ _ _ (by omega), get_put, if_neg (by omega)]

/-- What one address reads as after a write. -/
theorem get_write (bs : List Byte) : ∀ (m : List Host.Cell) (a c : Nat),
    get (write m a bs) c = if a ≤ c ∧ c < a + bs.length then (bs[c - a]?).getD 0 else get m c := by
  induction bs with
  | nil => intro m a c; rw [if_neg (by simp)]; rfl
  | cons b bs ih =>
    intro m a c
    rw [write, ih, get_put]
    by_cases h : c = a
    · subst h
      simp
    · by_cases g : a ≤ c
      · obtain ⟨k, rfl⟩ : ∃ k, c = a + 1 + k := ⟨c - a - 1, by omega⟩
        have e : a + 1 + k - a = k + 1 := by omega
        rw [e, show a + 1 + k - (a + 1) = k by omega, List.getElem?_cons_succ, List.length_cons]
        by_cases hl : k < bs.length
        · rw [if_pos (by omega), if_pos (by omega)]
        · rw [if_neg (by omega), if_neg h, if_neg (by omega)]
      · rw [if_neg (by omega), if_neg h, if_neg (by omega)]

theorem read_length (m : List Host.Cell) : ∀ (n a : Nat), (read m a n).length = n
  | 0, _ => rfl
  | n + 1, a => congrArg (· + 1) (read_length m n (a + 1))

/-- Reading what was written gives it back. -/
theorem read_write (bs : List Byte) : ∀ (m : List Host.Cell) (a : Nat), read (write m a bs) a bs.length = bs := by
  induction bs with
  | nil => exact fun m a => rfl
  | cons b bs ih =>
    intro m a
    rw [List.length_cons, read, write, ih]
    exact congrArg (· :: bs) ((get_write_below bs _ _ a (Nat.lt_succ_self a)).trans ((get_put m a a b).trans (if_pos rfl)))

end Sys2Proof.Machine.Memory
end

