-- ==== Sys2Proof/Laws/State.lean ====
section
/-! SUPPORT. What each update of the state changes and what it leaves: one lemma per field per update, true by
unfolding, and what reading a table answers after a write. -/

namespace Sys2Proof.Machine


/-! ### setTile -/

@[simp] theorem State.setTile_turns (s : State) (n : Nat) (v : TileSt) : (s.setTile n v).turns = s.turns := rfl
@[simp] theorem State.setTile_agenda (s : State) (n : Nat) (v : TileSt) : (s.setTile n v).agenda = s.agenda := rfl
@[simp] theorem State.setTile_now (s : State) (n : Nat) (v : TileSt) : (s.setTile n v).now = s.now := rfl
@[simp] theorem State.setTile_foc (s : State) (n : Nat) (v : TileSt) : (s.setTile n v).foc = s.foc := rfl
@[simp] theorem State.setTile_core (s : State) (n : Nat) (v : TileSt) : (s.setTile n v).core = s.core := rfl
@[simp] theorem State.setTile_nextId (s : State) (n : Nat) (v : TileSt) : (s.setTile n v).nextId = s.nextId := rfl
@[simp] theorem State.setTile_src (s : State) (n : Nat) (v : TileSt) : (s.setTile n v).src = s.src := rfl
@[simp] theorem State.setTile_job (s : State) (n : Nat) (v : TileSt) : (s.setTile n v).job = s.job := rfl
@[simp] theorem State.setTile_order (s : State) (n : Nat) (v : TileSt) : (s.setTile n v).order = s.order := rfl
@[simp] theorem State.setTile_late (s : State) (n : Nat) (v : TileSt) : (s.setTile n v).late = s.late := rfl
@[simp] theorem State.setTile_mem (s : State) (n : Nat) (v : TileSt) : (s.setTile n v).mem = s.mem := rfl
@[simp] theorem State.setTile_poison (s : State) (n : Nat) (v : TileSt) : (s.setTile n v).poison = s.poison := rfl
@[simp] theorem State.setTile_flips (s : State) (n : Nat) (v : TileSt) : (s.setTile n v).flips = s.flips := rfl
@[simp] theorem State.setTile_under (s : State) (n : Nat) (v : TileSt) : (s.setTile n v).under = s.under := rfl
@[simp] theorem State.setTile_soft (s : State) (n : Nat) (v : TileSt) : (s.setTile n v).soft = s.soft := rfl
@[simp] theorem State.setTile_tags (s : State) (n : Nat) (v : TileSt) : (s.setTile n v).tags = s.tags := rfl
@[simp] theorem State.setTile_slots (s : State) (n : Nat) (v : TileSt) : (s.setTile n v).slots = s.slots := rfl
@[simp] theorem State.setTile_links (s : State) (n : Nat) (v : TileSt) : (s.setTile n v).links = s.links := rfl
@[simp] theorem State.setTile_fields (s : State) (n : Nat) (v : TileSt) : (s.setTile n v).fields = s.fields := rfl
@[simp] theorem State.setTile_dies (s : State) (n : Nat) (v : TileSt) : (s.setTile n v).dies = s.dies := rfl
@[simp] theorem State.setTile_quarters (s : State) (n : Nat) (v : TileSt) : (s.setTile n v).quarters = s.quarters := rfl
@[simp] theorem State.setTile_graphs (s : State) (n : Nat) (v : TileSt) : (s.setTile n v).graphs = s.graphs := rfl
@[simp] theorem State.setTile_cores (s : State) (n : Nat) (v : TileSt) : (s.setTile n v).cores = s.cores := rfl
@[simp] theorem State.setTile_remotes (s : State) (n : Nat) (v : TileSt) : (s.setTile n v).remotes = s.remotes := rfl
@[simp] theorem State.setTile_awaits (s : State) (n : Nat) (v : TileSt) : (s.setTile n v).awaits = s.awaits := rfl
@[simp] theorem State.setTile_sent (s : State) (n : Nat) (v : TileSt) : (s.setTile n v).sent = s.sent := rfl
@[simp] theorem State.setTile_walks (s : State) (n : Nat) (v : TileSt) : (s.setTile n v).walks = s.walks := rfl
@[simp] theorem State.setTile_pending (s : State) (n : Nat) (v : TileSt) : (s.setTile n v).pending = s.pending := rfl
@[simp] theorem State.setTile_resolves (s : State) (n : Nat) (v : TileSt) : (s.setTile n v).resolves = s.resolves := rfl
@[simp] theorem State.setTile_saved (s : State) (n : Nat) (v : TileSt) : (s.setTile n v).saved = s.saved := rfl
@[simp] theorem State.setTile_bootst (s : State) (n : Nat) (v : TileSt) : (s.setTile n v).bootst = s.bootst := rfl
@[simp] theorem State.setTile_keys (s : State) (n : Nat) (v : TileSt) : (s.setTile n v).keys = s.keys := rfl
@[simp] theorem State.setTile_slot (s : State) (n : Nat) (v : TileSt) (k : Nat) : (s.setTile n v).slot k = s.slot k := rfl
@[simp] theorem State.setTile_link (s : State) (n : Nat) (v : TileSt) (k : Nat) : (s.setTile n v).link k = s.link k := rfl
@[simp] theorem State.setTile_field (s : State) (n : Nat) (v : TileSt) (k : Nat) : (s.setTile n v).field k = s.field k := rfl
@[simp] theorem State.setTile_die (s : State) (n : Nat) (v : TileSt) (k : Nat) : (s.setTile n v).die k = s.die k := rfl
@[simp] theorem State.setTile_quarter (s : State) (n : Nat) (v : TileSt) (k : Nat) : (s.setTile n v).quarter k = s.quarter k := rfl
@[simp] theorem State.setTile_coreSt (s : State) (n : Nat) (v : TileSt) (k : Nat) : (s.setTile n v).coreSt k = s.coreSt k := rfl
@[simp] theorem State.setTile_walk (s : State) (n : Nat) (v : TileSt) (k : Nat) : (s.setTile n v).walk k = s.walk k := rfl
@[simp] theorem State.setTile_graph (s : State) (n : Nat) (v : TileSt) (g : Nat) : (s.setTile n v).graph? g = s.graph? g := rfl
@[simp] theorem State.setTile_same (s : State) (n : Nat) (v : TileSt) : (s.setTile n v).tile n = v := by
  simp [State.setTile, State.tile]
theorem State.setTile_other (s : State) {n k : Nat} (v : TileSt) (h : k ≠ n) : (s.setTile n v).tile k = s.tile k := by
  simp [State.setTile, State.tile, SMap.get_put_other _ _ _ h]

/-! ### setSlot -/

@[simp] theorem State.setSlot_turns (s : State) (n : Nat) (v : SlotSt) : (s.setSlot n v).turns = s.turns := rfl
@[simp] theorem State.setSlot_agenda (s : State) (n : Nat) (v : SlotSt) : (s.setSlot n v).agenda = s.agenda := rfl
@[simp] theorem State.setSlot_now (s : State) (n : Nat) (v : SlotSt) : (s.setSlot n v).now = s.now := rfl
@[simp] theorem State.setSlot_foc (s : State) (n : Nat) (v : SlotSt) : (s.setSlot n v).foc = s.foc := rfl
@[simp] theorem State.setSlot_core (s : State) (n : Nat) (v : SlotSt) : (s.setSlot n v).core = s.core := rfl
@[simp] theorem State.setSlot_nextId (s : State) (n : Nat) (v : SlotSt) : (s.setSlot n v).nextId = s.nextId := rfl
@[simp] theorem State.setSlot_src (s : State) (n : Nat) (v : SlotSt) : (s.setSlot n v).src = s.src := rfl
@[simp] theorem State.setSlot_job (s : State) (n : Nat) (v : SlotSt) : (s.setSlot n v).job = s.job := rfl
@[simp] theorem State.setSlot_order (s : State) (n : Nat) (v : SlotSt) : (s.setSlot n v).order = s.order := rfl
@[simp] theorem State.setSlot_late (s : State) (n : Nat) (v : SlotSt) : (s.setSlot n v).late = s.late := rfl
@[simp] theorem State.setSlot_mem (s : State) (n : Nat) (v : SlotSt) : (s.setSlot n v).mem = s.mem := rfl
@[simp] theorem State.setSlot_poison (s : State) (n : Nat) (v : SlotSt) : (s.setSlot n v).poison = s.poison := rfl
@[simp] theorem State.setSlot_flips (s : State) (n : Nat) (v : SlotSt) : (s.setSlot n v).flips = s.flips := rfl
@[simp] theorem State.setSlot_under (s : State) (n : Nat) (v : SlotSt) : (s.setSlot n v).under = s.under := rfl
@[simp] theorem State.setSlot_soft (s : State) (n : Nat) (v : SlotSt) : (s.setSlot n v).soft = s.soft := rfl
@[simp] theorem State.setSlot_tags (s : State) (n : Nat) (v : SlotSt) : (s.setSlot n v).tags = s.tags := rfl
@[simp] theorem State.setSlot_tiles (s : State) (n : Nat) (v : SlotSt) : (s.setSlot n v).tiles = s.tiles := rfl
@[simp] theorem State.setSlot_links (s : State) (n : Nat) (v : SlotSt) : (s.setSlot n v).links = s.links := rfl
@[simp] theorem State.setSlot_fields (s : State) (n : Nat) (v : SlotSt) : (s.setSlot n v).fields = s.fields := rfl
@[simp] theorem State.setSlot_dies (s : State) (n : Nat) (v : SlotSt) : (s.setSlot n v).dies = s.dies := rfl
@[simp] theorem State.setSlot_quarters (s : State) (n : Nat) (v : SlotSt) : (s.setSlot n v).quarters = s.quarters := rfl
@[simp] theorem State.setSlot_graphs (s : State) (n : Nat) (v : SlotSt) : (s.setSlot n v).graphs = s.graphs := rfl
@[simp] theorem State.setSlot_cores (s : State) (n : Nat) (v : SlotSt) : (s.setSlot n v).cores = s.cores := rfl
@[simp] theorem State.setSlot_remotes (s : State) (n : Nat) (v : SlotSt) : (s.setSlot n v).remotes = s.remotes := rfl
@[simp] theorem State.setSlot_awaits (s : State) (n : Nat) (v : SlotSt) : (s.setSlot n v).awaits = s.awaits := rfl
@[simp] theorem State.setSlot_sent (s : State) (n : Nat) (v : SlotSt) : (s.setSlot n v).sent = s.sent := rfl
@[simp] theorem State.setSlot_walks (s : State) (n : Nat) (v : SlotSt) : (s.setSlot n v).walks = s.walks := rfl
@[simp] theorem State.setSlot_pending (s : State) (n : Nat) (v : SlotSt) : (s.setSlot n v).pending = s.pending := rfl
@[simp] theorem State.setSlot_resolves (s : State) (n : Nat) (v : SlotSt) : (s.setSlot n v).resolves = s.resolves := rfl
@[simp] theorem State.setSlot_saved (s : State) (n : Nat) (v : SlotSt) : (s.setSlot n v).saved = s.saved := rfl
@[simp] theorem State.setSlot_bootst (s : State) (n : Nat) (v : SlotSt) : (s.setSlot n v).bootst = s.bootst := rfl
@[simp] theorem State.setSlot_keys (s : State) (n : Nat) (v : SlotSt) : (s.setSlot n v).keys = s.keys := rfl
@[simp] theorem State.setSlot_tile (s : State) (n : Nat) (v : SlotSt) (k : Nat) : (s.setSlot n v).tile k = s.tile k := rfl
@[simp] theorem State.setSlot_link (s : State) (n : Nat) (v : SlotSt) (k : Nat) : (s.setSlot n v).link k = s.link k := rfl
@[simp] theorem State.setSlot_field (s : State) (n : Nat) (v : SlotSt) (k : Nat) : (s.setSlot n v).field k = s.field k := rfl
@[simp] theorem State.setSlot_die (s : State) (n : Nat) (v : SlotSt) (k : Nat) : (s.setSlot n v).die k = s.die k := rfl
@[simp] theorem State.setSlot_quarter (s : State) (n : Nat) (v : SlotSt) (k : Nat) : (s.setSlot n v).quarter k = s.quarter k := rfl
@[simp] theorem State.setSlot_coreSt (s : State) (n : Nat) (v : SlotSt) (k : Nat) : (s.setSlot n v).coreSt k = s.coreSt k := rfl
@[simp] theorem State.setSlot_walk (s : State) (n : Nat) (v : SlotSt) (k : Nat) : (s.setSlot n v).walk k = s.walk k := rfl
@[simp] theorem State.setSlot_graph (s : State) (n : Nat) (v : SlotSt) (g : Nat) : (s.setSlot n v).graph? g = s.graph? g := rfl
@[simp] theorem State.setSlot_same (s : State) (n : Nat) (v : SlotSt) : (s.setSlot n v).slot n = v := by
  simp [State.setSlot, State.slot]
theorem State.setSlot_other (s : State) {n k : Nat} (v : SlotSt) (h : k ≠ n) : (s.setSlot n v).slot k = s.slot k := by
  simp [State.setSlot, State.slot, SMap.get_put_other _ _ _ h]

/-! ### setLink -/

@[simp] theorem State.setLink_turns (s : State) (n : Nat) (v : Link) : (s.setLink n v).turns = s.turns := rfl
@[simp] theorem State.setLink_agenda (s : State) (n : Nat) (v : Link) : (s.setLink n v).agenda = s.agenda := rfl
@[simp] theorem State.setLink_now (s : State) (n : Nat) (v : Link) : (s.setLink n v).now = s.now := rfl
@[simp] theorem State.setLink_foc (s : State) (n : Nat) (v : Link) : (s.setLink n v).foc = s.foc := rfl
@[simp] theorem State.setLink_core (s : State) (n : Nat) (v : Link) : (s.setLink n v).core = s.core := rfl
@[simp] theorem State.setLink_nextId (s : State) (n : Nat) (v : Link) : (s.setLink n v).nextId = s.nextId := rfl
@[simp] theorem State.setLink_src (s : State) (n : Nat) (v : Link) : (s.setLink n v).src = s.src := rfl
@[simp] theorem State.setLink_job (s : State) (n : Nat) (v : Link) : (s.setLink n v).job = s.job := rfl
@[simp] theorem State.setLink_order (s : State) (n : Nat) (v : Link) : (s.setLink n v).order = s.order := rfl
@[simp] theorem State.setLink_late (s : State) (n : Nat) (v : Link) : (s.setLink n v).late = s.late := rfl
@[simp] theorem State.setLink_mem (s : State) (n : Nat) (v : Link) : (s.setLink n v).mem = s.mem := rfl
@[simp] theorem State.setLink_poison (s : State) (n : Nat) (v : Link) : (s.setLink n v).poison = s.poison := rfl
@[simp] theorem State.setLink_flips (s : State) (n : Nat) (v : Link) : (s.setLink n v).flips = s.flips := rfl
@[simp] theorem State.setLink_under (s : State) (n : Nat) (v : Link) : (s.setLink n v).under = s.under := rfl
@[simp] theorem State.setLink_soft (s : State) (n : Nat) (v : Link) : (s.setLink n v).soft = s.soft := rfl
@[simp] theorem State.setLink_tags (s : State) (n : Nat) (v : Link) : (s.setLink n v).tags = s.tags := rfl
@[simp] theorem State.setLink_tiles (s : State) (n : Nat) (v : Link) : (s.setLink n v).tiles = s.tiles := rfl
@[simp] theorem State.setLink_slots (s : State) (n : Nat) (v : Link) : (s.setLink n v).slots = s.slots := rfl
@[simp] theorem State.setLink_fields (s : State) (n : Nat) (v : Link) : (s.setLink n v).fields = s.fields := rfl
@[simp] theorem State.setLink_dies (s : State) (n : Nat) (v : Link) : (s.setLink n v).dies = s.dies := rfl
@[simp] theorem State.setLink_quarters (s : State) (n : Nat) (v : Link) : (s.setLink n v).quarters = s.quarters := rfl
@[simp] theorem State.setLink_graphs (s : State) (n : Nat) (v : Link) : (s.setLink n v).graphs = s.graphs := rfl
@[simp] theorem State.setLink_cores (s : State) (n : Nat) (v : Link) : (s.setLink n v).cores = s.cores := rfl
@[simp] theorem State.setLink_remotes (s : State) (n : Nat) (v : Link) : (s.setLink n v).remotes = s.remotes := rfl
@[simp] theorem State.setLink_awaits (s : State) (n : Nat) (v : Link) : (s.setLink n v).awaits = s.awaits := rfl
@[simp] theorem State.setLink_sent (s : State) (n : Nat) (v : Link) : (s.setLink n v).sent = s.sent := rfl
@[simp] theorem State.setLink_walks (s : State) (n : Nat) (v : Link) : (s.setLink n v).walks = s.walks := rfl
@[simp] theorem State.setLink_pending (s : State) (n : Nat) (v : Link) : (s.setLink n v).pending = s.pending := rfl
@[simp] theorem State.setLink_resolves (s : State) (n : Nat) (v : Link) : (s.setLink n v).resolves = s.resolves := rfl
@[simp] theorem State.setLink_saved (s : State) (n : Nat) (v : Link) : (s.setLink n v).saved = s.saved := rfl
@[simp] theorem State.setLink_bootst (s : State) (n : Nat) (v : Link) : (s.setLink n v).bootst = s.bootst := rfl
@[simp] theorem State.setLink_keys (s : State) (n : Nat) (v : Link) : (s.setLink n v).keys = s.keys := rfl
@[simp] theorem State.setLink_tile (s : State) (n : Nat) (v : Link) (k : Nat) : (s.setLink n v).tile k = s.tile k := rfl
@[simp] theorem State.setLink_slot (s : State) (n : Nat) (v : Link) (k : Nat) : (s.setLink n v).slot k = s.slot k := rfl
@[simp] theorem State.setLink_field (s : State) (n : Nat) (v : Link) (k : Nat) : (s.setLink n v).field k = s.field k := rfl
@[simp] theorem State.setLink_die (s : State) (n : Nat) (v : Link) (k : Nat) : (s.setLink n v).die k = s.die k := rfl
@[simp] theorem State.setLink_quarter (s : State) (n : Nat) (v : Link) (k : Nat) : (s.setLink n v).quarter k = s.quarter k := rfl
@[simp] theorem State.setLink_coreSt (s : State) (n : Nat) (v : Link) (k : Nat) : (s.setLink n v).coreSt k = s.coreSt k := rfl
@[simp] theorem State.setLink_walk (s : State) (n : Nat) (v : Link) (k : Nat) : (s.setLink n v).walk k = s.walk k := rfl
@[simp] theorem State.setLink_graph (s : State) (n : Nat) (v : Link) (g : Nat) : (s.setLink n v).graph? g = s.graph? g := rfl
@[simp] theorem State.setLink_same (s : State) (n : Nat) (v : Link) : (s.setLink n v).link n = v := by
  simp [State.setLink, State.link]
theorem State.setLink_other (s : State) {n k : Nat} (v : Link) (h : k ≠ n) : (s.setLink n v).link k = s.link k := by
  simp [State.setLink, State.link, SMap.get_put_other _ _ _ h]

/-! ### setField -/

@[simp] theorem State.setField_turns (s : State) (n : Nat) (v : FieldSt) : (s.setField n v).turns = s.turns := rfl
@[simp] theorem State.setField_agenda (s : State) (n : Nat) (v : FieldSt) : (s.setField n v).agenda = s.agenda := rfl
@[simp] theorem State.setField_now (s : State) (n : Nat) (v : FieldSt) : (s.setField n v).now = s.now := rfl
@[simp] theorem State.setField_foc (s : State) (n : Nat) (v : FieldSt) : (s.setField n v).foc = s.foc := rfl
@[simp] theorem State.setField_core (s : State) (n : Nat) (v : FieldSt) : (s.setField n v).core = s.core := rfl
@[simp] theorem State.setField_nextId (s : State) (n : Nat) (v : FieldSt) : (s.setField n v).nextId = s.nextId := rfl
@[simp] theorem State.setField_src (s : State) (n : Nat) (v : FieldSt) : (s.setField n v).src = s.src := rfl
@[simp] theorem State.setField_job (s : State) (n : Nat) (v : FieldSt) : (s.setField n v).job = s.job := rfl
@[simp] theorem State.setField_order (s : State) (n : Nat) (v : FieldSt) : (s.setField n v).order = s.order := rfl
@[simp] theorem State.setField_late (s : State) (n : Nat) (v : FieldSt) : (s.setField n v).late = s.late := rfl
@[simp] theorem State.setField_mem (s : State) (n : Nat) (v : FieldSt) : (s.setField n v).mem = s.mem := rfl
@[simp] theorem State.setField_poison (s : State) (n : Nat) (v : FieldSt) : (s.setField n v).poison = s.poison := rfl
@[simp] theorem State.setField_flips (s : State) (n : Nat) (v : FieldSt) : (s.setField n v).flips = s.flips := rfl
@[simp] theorem State.setField_under (s : State) (n : Nat) (v : FieldSt) : (s.setField n v).under = s.under := rfl
@[simp] theorem State.setField_soft (s : State) (n : Nat) (v : FieldSt) : (s.setField n v).soft = s.soft := rfl
@[simp] theorem State.setField_tags (s : State) (n : Nat) (v : FieldSt) : (s.setField n v).tags = s.tags := rfl
@[simp] theorem State.setField_tiles (s : State) (n : Nat) (v : FieldSt) : (s.setField n v).tiles = s.tiles := rfl
@[simp] theorem State.setField_slots (s : State) (n : Nat) (v : FieldSt) : (s.setField n v).slots = s.slots := rfl
@[simp] theorem State.setField_links (s : State) (n : Nat) (v : FieldSt) : (s.setField n v).links = s.links := rfl
@[simp] theorem State.setField_dies (s : State) (n : Nat) (v : FieldSt) : (s.setField n v).dies = s.dies := rfl
@[simp] theorem State.setField_quarters (s : State) (n : Nat) (v : FieldSt) : (s.setField n v).quarters = s.quarters := rfl
@[simp] theorem State.setField_graphs (s : State) (n : Nat) (v : FieldSt) : (s.setField n v).graphs = s.graphs := rfl
@[simp] theorem State.setField_cores (s : State) (n : Nat) (v : FieldSt) : (s.setField n v).cores = s.cores := rfl
@[simp] theorem State.setField_remotes (s : State) (n : Nat) (v : FieldSt) : (s.setField n v).remotes = s.remotes := rfl
@[simp] theorem State.setField_awaits (s : State) (n : Nat) (v : FieldSt) : (s.setField n v).awaits = s.awaits := rfl
@[simp] theorem State.setField_sent (s : State) (n : Nat) (v : FieldSt) : (s.setField n v).sent = s.sent := rfl
@[simp] theorem State.setField_walks (s : State) (n : Nat) (v : FieldSt) : (s.setField n v).walks = s.walks := rfl
@[simp] theorem State.setField_pending (s : State) (n : Nat) (v : FieldSt) : (s.setField n v).pending = s.pending := rfl
@[simp] theorem State.setField_resolves (s : State) (n : Nat) (v : FieldSt) : (s.setField n v).resolves = s.resolves := rfl
@[simp] theorem State.setField_saved (s : State) (n : Nat) (v : FieldSt) : (s.setField n v).saved = s.saved := rfl
@[simp] theorem State.setField_bootst (s : State) (n : Nat) (v : FieldSt) : (s.setField n v).bootst = s.bootst := rfl
@[simp] theorem State.setField_keys (s : State) (n : Nat) (v : FieldSt) : (s.setField n v).keys = s.keys := rfl
@[simp] theorem State.setField_tile (s : State) (n : Nat) (v : FieldSt) (k : Nat) : (s.setField n v).tile k = s.tile k := rfl
@[simp] theorem State.setField_slot (s : State) (n : Nat) (v : FieldSt) (k : Nat) : (s.setField n v).slot k = s.slot k := rfl
@[simp] theorem State.setField_link (s : State) (n : Nat) (v : FieldSt) (k : Nat) : (s.setField n v).link k = s.link k := rfl
@[simp] theorem State.setField_die (s : State) (n : Nat) (v : FieldSt) (k : Nat) : (s.setField n v).die k = s.die k := rfl
@[simp] theorem State.setField_quarter (s : State) (n : Nat) (v : FieldSt) (k : Nat) : (s.setField n v).quarter k = s.quarter k := rfl
@[simp] theorem State.setField_coreSt (s : State) (n : Nat) (v : FieldSt) (k : Nat) : (s.setField n v).coreSt k = s.coreSt k := rfl
@[simp] theorem State.setField_walk (s : State) (n : Nat) (v : FieldSt) (k : Nat) : (s.setField n v).walk k = s.walk k := rfl
@[simp] theorem State.setField_graph (s : State) (n : Nat) (v : FieldSt) (g : Nat) : (s.setField n v).graph? g = s.graph? g := rfl
@[simp] theorem State.setField_same (s : State) (n : Nat) (v : FieldSt) : (s.setField n v).field n = v := by
  simp [State.setField, State.field]
theorem State.setField_other (s : State) {n k : Nat} (v : FieldSt) (h : k ≠ n) : (s.setField n v).field k = s.field k := by
  simp [State.setField, State.field, SMap.get_put_other _ _ _ h]

/-! ### setDie -/

@[simp] theorem State.setDie_turns (s : State) (n : Nat) (v : DieSt) : (s.setDie n v).turns = s.turns := rfl
@[simp] theorem State.setDie_agenda (s : State) (n : Nat) (v : DieSt) : (s.setDie n v).agenda = s.agenda := rfl
@[simp] theorem State.setDie_now (s : State) (n : Nat) (v : DieSt) : (s.setDie n v).now = s.now := rfl
@[simp] theorem State.setDie_foc (s : State) (n : Nat) (v : DieSt) : (s.setDie n v).foc = s.foc := rfl
@[simp] theorem State.setDie_core (s : State) (n : Nat) (v : DieSt) : (s.setDie n v).core = s.core := rfl
@[simp] theorem State.setDie_nextId (s : State) (n : Nat) (v : DieSt) : (s.setDie n v).nextId = s.nextId := rfl
@[simp] theorem State.setDie_src (s : State) (n : Nat) (v : DieSt) : (s.setDie n v).src = s.src := rfl
@[simp] theorem State.setDie_job (s : State) (n : Nat) (v : DieSt) : (s.setDie n v).job = s.job := rfl
@[simp] theorem State.setDie_order (s : State) (n : Nat) (v : DieSt) : (s.setDie n v).order = s.order := rfl
@[simp] theorem State.setDie_late (s : State) (n : Nat) (v : DieSt) : (s.setDie n v).late = s.late := rfl
@[simp] theorem State.setDie_mem (s : State) (n : Nat) (v : DieSt) : (s.setDie n v).mem = s.mem := rfl
@[simp] theorem State.setDie_poison (s : State) (n : Nat) (v : DieSt) : (s.setDie n v).poison = s.poison := rfl
@[simp] theorem State.setDie_flips (s : State) (n : Nat) (v : DieSt) : (s.setDie n v).flips = s.flips := rfl
@[simp] theorem State.setDie_under (s : State) (n : Nat) (v : DieSt) : (s.setDie n v).under = s.under := rfl
@[simp] theorem State.setDie_soft (s : State) (n : Nat) (v : DieSt) : (s.setDie n v).soft = s.soft := rfl
@[simp] theorem State.setDie_tags (s : State) (n : Nat) (v : DieSt) : (s.setDie n v).tags = s.tags := rfl
@[simp] theorem State.setDie_tiles (s : State) (n : Nat) (v : DieSt) : (s.setDie n v).tiles = s.tiles := rfl
@[simp] theorem State.setDie_slots (s : State) (n : Nat) (v : DieSt) : (s.setDie n v).slots = s.slots := rfl
@[simp] theorem State.setDie_links (s : State) (n : Nat) (v : DieSt) : (s.setDie n v).links = s.links := rfl
@[simp] theorem State.setDie_fields (s : State) (n : Nat) (v : DieSt) : (s.setDie n v).fields = s.fields := rfl
@[simp] theorem State.setDie_quarters (s : State) (n : Nat) (v : DieSt) : (s.setDie n v).quarters = s.quarters := rfl
@[simp] theorem State.setDie_graphs (s : State) (n : Nat) (v : DieSt) : (s.setDie n v).graphs = s.graphs := rfl
@[simp] theorem State.setDie_cores (s : State) (n : Nat) (v : DieSt) : (s.setDie n v).cores = s.cores := rfl
@[simp] theorem State.setDie_remotes (s : State) (n : Nat) (v : DieSt) : (s.setDie n v).remotes = s.remotes := rfl
@[simp] theorem State.setDie_awaits (s : State) (n : Nat) (v : DieSt) : (s.setDie n v).awaits = s.awaits := rfl
@[simp] theorem State.setDie_sent (s : State) (n : Nat) (v : DieSt) : (s.setDie n v).sent = s.sent := rfl
@[simp] theorem State.setDie_walks (s : State) (n : Nat) (v : DieSt) : (s.setDie n v).walks = s.walks := rfl
@[simp] theorem State.setDie_pending (s : State) (n : Nat) (v : DieSt) : (s.setDie n v).pending = s.pending := rfl
@[simp] theorem State.setDie_resolves (s : State) (n : Nat) (v : DieSt) : (s.setDie n v).resolves = s.resolves := rfl
@[simp] theorem State.setDie_saved (s : State) (n : Nat) (v : DieSt) : (s.setDie n v).saved = s.saved := rfl
@[simp] theorem State.setDie_bootst (s : State) (n : Nat) (v : DieSt) : (s.setDie n v).bootst = s.bootst := rfl
@[simp] theorem State.setDie_keys (s : State) (n : Nat) (v : DieSt) : (s.setDie n v).keys = s.keys := rfl
@[simp] theorem State.setDie_tile (s : State) (n : Nat) (v : DieSt) (k : Nat) : (s.setDie n v).tile k = s.tile k := rfl
@[simp] theorem State.setDie_slot (s : State) (n : Nat) (v : DieSt) (k : Nat) : (s.setDie n v).slot k = s.slot k := rfl
@[simp] theorem State.setDie_link (s : State) (n : Nat) (v : DieSt) (k : Nat) : (s.setDie n v).link k = s.link k := rfl
@[simp] theorem State.setDie_field (s : State) (n : Nat) (v : DieSt) (k : Nat) : (s.setDie n v).field k = s.field k := rfl
@[simp] theorem State.setDie_quarter (s : State) (n : Nat) (v : DieSt) (k : Nat) : (s.setDie n v).quarter k = s.quarter k := rfl
@[simp] theorem State.setDie_coreSt (s : State) (n : Nat) (v : DieSt) (k : Nat) : (s.setDie n v).coreSt k = s.coreSt k := rfl
@[simp] theorem State.setDie_walk (s : State) (n : Nat) (v : DieSt) (k : Nat) : (s.setDie n v).walk k = s.walk k := rfl
@[simp] theorem State.setDie_graph (s : State) (n : Nat) (v : DieSt) (g : Nat) : (s.setDie n v).graph? g = s.graph? g := rfl
@[simp] theorem State.setDie_same (s : State) (n : Nat) (v : DieSt) : (s.setDie n v).die n = v := by
  simp [State.setDie, State.die]
theorem State.setDie_other (s : State) {n k : Nat} (v : DieSt) (h : k ≠ n) : (s.setDie n v).die k = s.die k := by
  simp [State.setDie, State.die, SMap.get_put_other _ _ _ h]

/-! ### setQuarter -/

@[simp] theorem State.setQuarter_turns (s : State) (n : Nat) (v : QuarterSt) : (s.setQuarter n v).turns = s.turns := rfl
@[simp] theorem State.setQuarter_agenda (s : State) (n : Nat) (v : QuarterSt) : (s.setQuarter n v).agenda = s.agenda := rfl
@[simp] theorem State.setQuarter_now (s : State) (n : Nat) (v : QuarterSt) : (s.setQuarter n v).now = s.now := rfl
@[simp] theorem State.setQuarter_foc (s : State) (n : Nat) (v : QuarterSt) : (s.setQuarter n v).foc = s.foc := rfl
@[simp] theorem State.setQuarter_core (s : State) (n : Nat) (v : QuarterSt) : (s.setQuarter n v).core = s.core := rfl
@[simp] theorem State.setQuarter_nextId (s : State) (n : Nat) (v : QuarterSt) : (s.setQuarter n v).nextId = s.nextId := rfl
@[simp] theorem State.setQuarter_src (s : State) (n : Nat) (v : QuarterSt) : (s.setQuarter n v).src = s.src := rfl
@[simp] theorem State.setQuarter_job (s : State) (n : Nat) (v : QuarterSt) : (s.setQuarter n v).job = s.job := rfl
@[simp] theorem State.setQuarter_order (s : State) (n : Nat) (v : QuarterSt) : (s.setQuarter n v).order = s.order := rfl
@[simp] theorem State.setQuarter_late (s : State) (n : Nat) (v : QuarterSt) : (s.setQuarter n v).late = s.late := rfl
@[simp] theorem State.setQuarter_mem (s : State) (n : Nat) (v : QuarterSt) : (s.setQuarter n v).mem = s.mem := rfl
@[simp] theorem State.setQuarter_poison (s : State) (n : Nat) (v : QuarterSt) : (s.setQuarter n v).poison = s.poison := rfl
@[simp] theorem State.setQuarter_flips (s : State) (n : Nat) (v : QuarterSt) : (s.setQuarter n v).flips = s.flips := rfl
@[simp] theorem State.setQuarter_under (s : State) (n : Nat) (v : QuarterSt) : (s.setQuarter n v).under = s.under := rfl
@[simp] theorem State.setQuarter_soft (s : State) (n : Nat) (v : QuarterSt) : (s.setQuarter n v).soft = s.soft := rfl
@[simp] theorem State.setQuarter_tags (s : State) (n : Nat) (v : QuarterSt) : (s.setQuarter n v).tags = s.tags := rfl
@[simp] theorem State.setQuarter_tiles (s : State) (n : Nat) (v : QuarterSt) : (s.setQuarter n v).tiles = s.tiles := rfl
@[simp] theorem State.setQuarter_slots (s : State) (n : Nat) (v : QuarterSt) : (s.setQuarter n v).slots = s.slots := rfl
@[simp] theorem State.setQuarter_links (s : State) (n : Nat) (v : QuarterSt) : (s.setQuarter n v).links = s.links := rfl
@[simp] theorem State.setQuarter_fields (s : State) (n : Nat) (v : QuarterSt) : (s.setQuarter n v).fields = s.fields := rfl
@[simp] theorem State.setQuarter_dies (s : State) (n : Nat) (v : QuarterSt) : (s.setQuarter n v).dies = s.dies := rfl
@[simp] theorem State.setQuarter_graphs (s : State) (n : Nat) (v : QuarterSt) : (s.setQuarter n v).graphs = s.graphs := rfl
@[simp] theorem State.setQuarter_cores (s : State) (n : Nat) (v : QuarterSt) : (s.setQuarter n v).cores = s.cores := rfl
@[simp] theorem State.setQuarter_remotes (s : State) (n : Nat) (v : QuarterSt) : (s.setQuarter n v).remotes = s.remotes := rfl
@[simp] theorem State.setQuarter_awaits (s : State) (n : Nat) (v : QuarterSt) : (s.setQuarter n v).awaits = s.awaits := rfl
@[simp] theorem State.setQuarter_sent (s : State) (n : Nat) (v : QuarterSt) : (s.setQuarter n v).sent = s.sent := rfl
@[simp] theorem State.setQuarter_walks (s : State) (n : Nat) (v : QuarterSt) : (s.setQuarter n v).walks = s.walks := rfl
@[simp] theorem State.setQuarter_pending (s : State) (n : Nat) (v : QuarterSt) : (s.setQuarter n v).pending = s.pending := rfl
@[simp] theorem State.setQuarter_resolves (s : State) (n : Nat) (v : QuarterSt) : (s.setQuarter n v).resolves = s.resolves := rfl
@[simp] theorem State.setQuarter_saved (s : State) (n : Nat) (v : QuarterSt) : (s.setQuarter n v).saved = s.saved := rfl
@[simp] theorem State.setQuarter_bootst (s : State) (n : Nat) (v : QuarterSt) : (s.setQuarter n v).bootst = s.bootst := rfl
@[simp] theorem State.setQuarter_keys (s : State) (n : Nat) (v : QuarterSt) : (s.setQuarter n v).keys = s.keys := rfl
@[simp] theorem State.setQuarter_tile (s : State) (n : Nat) (v : QuarterSt) (k : Nat) : (s.setQuarter n v).tile k = s.tile k := rfl
@[simp] theorem State.setQuarter_slot (s : State) (n : Nat) (v : QuarterSt) (k : Nat) : (s.setQuarter n v).slot k = s.slot k := rfl
@[simp] theorem State.setQuarter_link (s : State) (n : Nat) (v : QuarterSt) (k : Nat) : (s.setQuarter n v).link k = s.link k := rfl
@[simp] theorem State.setQuarter_field (s : State) (n : Nat) (v : QuarterSt) (k : Nat) : (s.setQuarter n v).field k = s.field k := rfl
@[simp] theorem State.setQuarter_die (s : State) (n : Nat) (v : QuarterSt) (k : Nat) : (s.setQuarter n v).die k = s.die k := rfl
@[simp] theorem State.setQuarter_coreSt (s : State) (n : Nat) (v : QuarterSt) (k : Nat) : (s.setQuarter n v).coreSt k = s.coreSt k := rfl
@[simp] theorem State.setQuarter_walk (s : State) (n : Nat) (v : QuarterSt) (k : Nat) : (s.setQuarter n v).walk k = s.walk k := rfl
@[simp] theorem State.setQuarter_graph (s : State) (n : Nat) (v : QuarterSt) (g : Nat) : (s.setQuarter n v).graph? g = s.graph? g := rfl
@[simp] theorem State.setQuarter_same (s : State) (n : Nat) (v : QuarterSt) : (s.setQuarter n v).quarter n = v := by
  simp [State.setQuarter, State.quarter]
theorem State.setQuarter_other (s : State) {n k : Nat} (v : QuarterSt) (h : k ≠ n) : (s.setQuarter n v).quarter k = s.quarter k := by
  unfold State.setQuarter State.quarter SMap.get SMap.put
  split
  · rw [SMap.find_erase_other _ h]
  · rw [SMap.find_insert_other _ _ h]

/-! ### setCore -/

@[simp] theorem State.setCore_turns (s : State) (n : Nat) (v : CoreSt) : (s.setCore n v).turns = s.turns := rfl
@[simp] theorem State.setCore_agenda (s : State) (n : Nat) (v : CoreSt) : (s.setCore n v).agenda = s.agenda := rfl
@[simp] theorem State.setCore_now (s : State) (n : Nat) (v : CoreSt) : (s.setCore n v).now = s.now := rfl
@[simp] theorem State.setCore_foc (s : State) (n : Nat) (v : CoreSt) : (s.setCore n v).foc = s.foc := rfl
@[simp] theorem State.setCore_core (s : State) (n : Nat) (v : CoreSt) : (s.setCore n v).core = s.core := rfl
@[simp] theorem State.setCore_nextId (s : State) (n : Nat) (v : CoreSt) : (s.setCore n v).nextId = s.nextId := rfl
@[simp] theorem State.setCore_src (s : State) (n : Nat) (v : CoreSt) : (s.setCore n v).src = s.src := rfl
@[simp] theorem State.setCore_job (s : State) (n : Nat) (v : CoreSt) : (s.setCore n v).job = s.job := rfl
@[simp] theorem State.setCore_order (s : State) (n : Nat) (v : CoreSt) : (s.setCore n v).order = s.order := rfl
@[simp] theorem State.setCore_late (s : State) (n : Nat) (v : CoreSt) : (s.setCore n v).late = s.late := rfl
@[simp] theorem State.setCore_mem (s : State) (n : Nat) (v : CoreSt) : (s.setCore n v).mem = s.mem := rfl
@[simp] theorem State.setCore_poison (s : State) (n : Nat) (v : CoreSt) : (s.setCore n v).poison = s.poison := rfl
@[simp] theorem State.setCore_flips (s : State) (n : Nat) (v : CoreSt) : (s.setCore n v).flips = s.flips := rfl
@[simp] theorem State.setCore_under (s : State) (n : Nat) (v : CoreSt) : (s.setCore n v).under = s.under := rfl
@[simp] theorem State.setCore_soft (s : State) (n : Nat) (v : CoreSt) : (s.setCore n v).soft = s.soft := rfl
@[simp] theorem State.setCore_tags (s : State) (n : Nat) (v : CoreSt) : (s.setCore n v).tags = s.tags := rfl
@[simp] theorem State.setCore_tiles (s : State) (n : Nat) (v : CoreSt) : (s.setCore n v).tiles = s.tiles := rfl
@[simp] theorem State.setCore_slots (s : State) (n : Nat) (v : CoreSt) : (s.setCore n v).slots = s.slots := rfl
@[simp] theorem State.setCore_links (s : State) (n : Nat) (v : CoreSt) : (s.setCore n v).links = s.links := rfl
@[simp] theorem State.setCore_fields (s : State) (n : Nat) (v : CoreSt) : (s.setCore n v).fields = s.fields := rfl
@[simp] theorem State.setCore_dies (s : State) (n : Nat) (v : CoreSt) : (s.setCore n v).dies = s.dies := rfl
@[simp] theorem State.setCore_quarters (s : State) (n : Nat) (v : CoreSt) : (s.setCore n v).quarters = s.quarters := rfl
@[simp] theorem State.setCore_graphs (s : State) (n : Nat) (v : CoreSt) : (s.setCore n v).graphs = s.graphs := rfl
@[simp] theorem State.setCore_remotes (s : State) (n : Nat) (v : CoreSt) : (s.setCore n v).remotes = s.remotes := rfl
@[simp] theorem State.setCore_awaits (s : State) (n : Nat) (v : CoreSt) : (s.setCore n v).awaits = s.awaits := rfl
@[simp] theorem State.setCore_sent (s : State) (n : Nat) (v : CoreSt) : (s.setCore n v).sent = s.sent := rfl
@[simp] theorem State.setCore_walks (s : State) (n : Nat) (v : CoreSt) : (s.setCore n v).walks = s.walks := rfl
@[simp] theorem State.setCore_pending (s : State) (n : Nat) (v : CoreSt) : (s.setCore n v).pending = s.pending := rfl
@[simp] theorem State.setCore_resolves (s : State) (n : Nat) (v : CoreSt) : (s.setCore n v).resolves = s.resolves := rfl
@[simp] theorem State.setCore_saved (s : State) (n : Nat) (v : CoreSt) : (s.setCore n v).saved = s.saved := rfl
@[simp] theorem State.setCore_bootst (s : State) (n : Nat) (v : CoreSt) : (s.setCore n v).bootst = s.bootst := rfl
@[simp] theorem State.setCore_keys (s : State) (n : Nat) (v : CoreSt) : (s.setCore n v).keys = s.keys := rfl
@[simp] theorem State.setCore_tile (s : State) (n : Nat) (v : CoreSt) (k : Nat) : (s.setCore n v).tile k = s.tile k := rfl
@[simp] theorem State.setCore_slot (s : State) (n : Nat) (v : CoreSt) (k : Nat) : (s.setCore n v).slot k = s.slot k := rfl
@[simp] theorem State.setCore_link (s : State) (n : Nat) (v : CoreSt) (k : Nat) : (s.setCore n v).link k = s.link k := rfl
@[simp] theorem State.setCore_field (s : State) (n : Nat) (v : CoreSt) (k : Nat) : (s.setCore n v).field k = s.field k := rfl
@[simp] theorem State.setCore_die (s : State) (n : Nat) (v : CoreSt) (k : Nat) : (s.setCore n v).die k = s.die k := rfl
@[simp] theorem State.setCore_quarter (s : State) (n : Nat) (v : CoreSt) (k : Nat) : (s.setCore n v).quarter k = s.quarter k := rfl
@[simp] theorem State.setCore_walk (s : State) (n : Nat) (v : CoreSt) (k : Nat) : (s.setCore n v).walk k = s.walk k := rfl
@[simp] theorem State.setCore_graph (s : State) (n : Nat) (v : CoreSt) (g : Nat) : (s.setCore n v).graph? g = s.graph? g := rfl
@[simp] theorem State.setCore_same (s : State) (n : Nat) (v : CoreSt) : (s.setCore n v).coreSt n = v := by
  simp [State.setCore, State.coreSt]
theorem State.setCore_other (s : State) {n k : Nat} (v : CoreSt) (h : k ≠ n) : (s.setCore n v).coreSt k = s.coreSt k := by
  simp [State.setCore, State.coreSt, SMap.get_put_other _ _ _ h]

/-! ### setWalk -/

@[simp] theorem State.setWalk_turns (s : State) (n : Nat) (v : WalkSt) : (s.setWalk n v).turns = s.turns := rfl
@[simp] theorem State.setWalk_agenda (s : State) (n : Nat) (v : WalkSt) : (s.setWalk n v).agenda = s.agenda := rfl
@[simp] theorem State.setWalk_now (s : State) (n : Nat) (v : WalkSt) : (s.setWalk n v).now = s.now := rfl
@[simp] theorem State.setWalk_foc (s : State) (n : Nat) (v : WalkSt) : (s.setWalk n v).foc = s.foc := rfl
@[simp] theorem State.setWalk_core (s : State) (n : Nat) (v : WalkSt) : (s.setWalk n v).core = s.core := rfl
@[simp] theorem State.setWalk_nextId (s : State) (n : Nat) (v : WalkSt) : (s.setWalk n v).nextId = s.nextId := rfl
@[simp] theorem State.setWalk_src (s : State) (n : Nat) (v : WalkSt) : (s.setWalk n v).src = s.src := rfl
@[simp] theorem State.setWalk_job (s : State) (n : Nat) (v : WalkSt) : (s.setWalk n v).job = s.job := rfl
@[simp] theorem State.setWalk_order (s : State) (n : Nat) (v : WalkSt) : (s.setWalk n v).order = s.order := rfl
@[simp] theorem State.setWalk_late (s : State) (n : Nat) (v : WalkSt) : (s.setWalk n v).late = s.late := rfl
@[simp] theorem State.setWalk_mem (s : State) (n : Nat) (v : WalkSt) : (s.setWalk n v).mem = s.mem := rfl
@[simp] theorem State.setWalk_poison (s : State) (n : Nat) (v : WalkSt) : (s.setWalk n v).poison = s.poison := rfl
@[simp] theorem State.setWalk_flips (s : State) (n : Nat) (v : WalkSt) : (s.setWalk n v).flips = s.flips := rfl
@[simp] theorem State.setWalk_under (s : State) (n : Nat) (v : WalkSt) : (s.setWalk n v).under = s.under := rfl
@[simp] theorem State.setWalk_soft (s : State) (n : Nat) (v : WalkSt) : (s.setWalk n v).soft = s.soft := rfl
@[simp] theorem State.setWalk_tags (s : State) (n : Nat) (v : WalkSt) : (s.setWalk n v).tags = s.tags := rfl
@[simp] theorem State.setWalk_tiles (s : State) (n : Nat) (v : WalkSt) : (s.setWalk n v).tiles = s.tiles := rfl
@[simp] theorem State.setWalk_slots (s : State) (n : Nat) (v : WalkSt) : (s.setWalk n v).slots = s.slots := rfl
@[simp] theorem State.setWalk_links (s : State) (n : Nat) (v : WalkSt) : (s.setWalk n v).links = s.links := rfl
@[simp] theorem State.setWalk_fields (s : State) (n : Nat) (v : WalkSt) : (s.setWalk n v).fields = s.fields := rfl
@[simp] theorem State.setWalk_dies (s : State) (n : Nat) (v : WalkSt) : (s.setWalk n v).dies = s.dies := rfl
@[simp] theorem State.setWalk_quarters (s : State) (n : Nat) (v : WalkSt) : (s.setWalk n v).quarters = s.quarters := rfl
@[simp] theorem State.setWalk_graphs (s : State) (n : Nat) (v : WalkSt) : (s.setWalk n v).graphs = s.graphs := rfl
@[simp] theorem State.setWalk_cores (s : State) (n : Nat) (v : WalkSt) : (s.setWalk n v).cores = s.cores := rfl
@[simp] theorem State.setWalk_remotes (s : State) (n : Nat) (v : WalkSt) : (s.setWalk n v).remotes = s.remotes := rfl
@[simp] theorem State.setWalk_awaits (s : State) (n : Nat) (v : WalkSt) : (s.setWalk n v).awaits = s.awaits := rfl
@[simp] theorem State.setWalk_sent (s : State) (n : Nat) (v : WalkSt) : (s.setWalk n v).sent = s.sent := rfl
@[simp] theorem State.setWalk_pending (s : State) (n : Nat) (v : WalkSt) : (s.setWalk n v).pending = s.pending := rfl
@[simp] theorem State.setWalk_resolves (s : State) (n : Nat) (v : WalkSt) : (s.setWalk n v).resolves = s.resolves := rfl
@[simp] theorem State.setWalk_saved (s : State) (n : Nat) (v : WalkSt) : (s.setWalk n v).saved = s.saved := rfl
@[simp] theorem State.setWalk_bootst (s : State) (n : Nat) (v : WalkSt) : (s.setWalk n v).bootst = s.bootst := rfl
@[simp] theorem State.setWalk_keys (s : State) (n : Nat) (v : WalkSt) : (s.setWalk n v).keys = s.keys := rfl
@[simp] theorem State.setWalk_tile (s : State) (n : Nat) (v : WalkSt) (k : Nat) : (s.setWalk n v).tile k = s.tile k := rfl
@[simp] theorem State.setWalk_slot (s : State) (n : Nat) (v : WalkSt) (k : Nat) : (s.setWalk n v).slot k = s.slot k := rfl
@[simp] theorem State.setWalk_link (s : State) (n : Nat) (v : WalkSt) (k : Nat) : (s.setWalk n v).link k = s.link k := rfl
@[simp] theorem State.setWalk_field (s : State) (n : Nat) (v : WalkSt) (k : Nat) : (s.setWalk n v).field k = s.field k := rfl
@[simp] theorem State.setWalk_die (s : State) (n : Nat) (v : WalkSt) (k : Nat) : (s.setWalk n v).die k = s.die k := rfl
@[simp] theorem State.setWalk_quarter (s : State) (n : Nat) (v : WalkSt) (k : Nat) : (s.setWalk n v).quarter k = s.quarter k := rfl
@[simp] theorem State.setWalk_coreSt (s : State) (n : Nat) (v : WalkSt) (k : Nat) : (s.setWalk n v).coreSt k = s.coreSt k := rfl
@[simp] theorem State.setWalk_graph (s : State) (n : Nat) (v : WalkSt) (g : Nat) : (s.setWalk n v).graph? g = s.graph? g := rfl
@[simp] theorem State.setWalk_same (s : State) (n : Nat) (v : WalkSt) : (s.setWalk n v).walk n = v := by
  simp [State.setWalk, State.walk]
theorem State.setWalk_other (s : State) {n k : Nat} (v : WalkSt) (h : k ≠ n) : (s.setWalk n v).walk k = s.walk k := by
  simp [State.setWalk, State.walk, SMap.get_put_other _ _ _ h]

/-! ### setGraph -/

@[simp] theorem State.setGraph_turns (s : State) (v : GraphSt) : (s.setGraph v).turns = s.turns := rfl
@[simp] theorem State.setGraph_agenda (s : State) (v : GraphSt) : (s.setGraph v).agenda = s.agenda := rfl
@[simp] theorem State.setGraph_now (s : State) (v : GraphSt) : (s.setGraph v).now = s.now := rfl
@[simp] theorem State.setGraph_foc (s : State) (v : GraphSt) : (s.setGraph v).foc = s.foc := rfl
@[simp] theorem State.setGraph_core (s : State) (v : GraphSt) : (s.setGraph v).core = s.core := rfl
@[simp] theorem State.setGraph_nextId (s : State) (v : GraphSt) : (s.setGraph v).nextId = s.nextId := rfl
@[simp] theorem State.setGraph_src (s : State) (v : GraphSt) : (s.setGraph v).src = s.src := rfl
@[simp] theorem State.setGraph_job (s : State) (v : GraphSt) : (s.setGraph v).job = s.job := rfl
@[simp] theorem State.setGraph_order (s : State) (v : GraphSt) : (s.setGraph v).order = s.order := rfl
@[simp] theorem State.setGraph_late (s : State) (v : GraphSt) : (s.setGraph v).late = s.late := rfl
@[simp] theorem State.setGraph_mem (s : State) (v : GraphSt) : (s.setGraph v).mem = s.mem := rfl
@[simp] theorem State.setGraph_poison (s : State) (v : GraphSt) : (s.setGraph v).poison = s.poison := rfl
@[simp] theorem State.setGraph_flips (s : State) (v : GraphSt) : (s.setGraph v).flips = s.flips := rfl
@[simp] theorem State.setGraph_under (s : State) (v : GraphSt) : (s.setGraph v).under = s.under := rfl
@[simp] theorem State.setGraph_soft (s : State) (v : GraphSt) : (s.setGraph v).soft = s.soft := rfl
@[simp] theorem State.setGraph_tags (s : State) (v : GraphSt) : (s.setGraph v).tags = s.tags := rfl
@[simp] theorem State.setGraph_tiles (s : State) (v : GraphSt) : (s.setGraph v).tiles = s.tiles := rfl
@[simp] theorem State.setGraph_slots (s : State) (v : GraphSt) : (s.setGraph v).slots = s.slots := rfl
@[simp] theorem State.setGraph_links (s : State) (v : GraphSt) : (s.setGraph v).links = s.links := rfl
@[simp] theorem State.setGraph_fields (s : State) (v : GraphSt) : (s.setGraph v).fields = s.fields := rfl
@[simp] theorem State.setGraph_dies (s : State) (v : GraphSt) : (s.setGraph v).dies = s.dies := rfl
@[simp] theorem State.setGraph_quarters (s : State) (v : GraphSt) : (s.setGraph v).quarters = s.quarters := rfl
@[simp] theorem State.setGraph_cores (s : State) (v : GraphSt) : (s.setGraph v).cores = s.cores := rfl
@[simp] theorem State.setGraph_remotes (s : State) (v : GraphSt) : (s.setGraph v).remotes = s.remotes := rfl
@[simp] theorem State.setGraph_awaits (s : State) (v : GraphSt) : (s.setGraph v).awaits = s.awaits := rfl
@[simp] theorem State.setGraph_sent (s : State) (v : GraphSt) : (s.setGraph v).sent = s.sent := rfl
@[simp] theorem State.setGraph_walks (s : State) (v : GraphSt) : (s.setGraph v).walks = s.walks := rfl
@[simp] theorem State.setGraph_pending (s : State) (v : GraphSt) : (s.setGraph v).pending = s.pending := rfl
@[simp] theorem State.setGraph_resolves (s : State) (v : GraphSt) : (s.setGraph v).resolves = s.resolves := rfl
@[simp] theorem State.setGraph_saved (s : State) (v : GraphSt) : (s.setGraph v).saved = s.saved := rfl
@[simp] theorem State.setGraph_bootst (s : State) (v : GraphSt) : (s.setGraph v).bootst = s.bootst := rfl
@[simp] theorem State.setGraph_keys (s : State) (v : GraphSt) : (s.setGraph v).keys = s.keys := rfl
@[simp] theorem State.setGraph_tile (s : State) (v : GraphSt) (k : Nat) : (s.setGraph v).tile k = s.tile k := rfl
@[simp] theorem State.setGraph_slot (s : State) (v : GraphSt) (k : Nat) : (s.setGraph v).slot k = s.slot k := rfl
@[simp] theorem State.setGraph_link (s : State) (v : GraphSt) (k : Nat) : (s.setGraph v).link k = s.link k := rfl
@[simp] theorem State.setGraph_field (s : State) (v : GraphSt) (k : Nat) : (s.setGraph v).field k = s.field k := rfl
@[simp] theorem State.setGraph_die (s : State) (v : GraphSt) (k : Nat) : (s.setGraph v).die k = s.die k := rfl
@[simp] theorem State.setGraph_quarter (s : State) (v : GraphSt) (k : Nat) : (s.setGraph v).quarter k = s.quarter k := rfl
@[simp] theorem State.setGraph_coreSt (s : State) (v : GraphSt) (k : Nat) : (s.setGraph v).coreSt k = s.coreSt k := rfl
@[simp] theorem State.setGraph_walk (s : State) (v : GraphSt) (k : Nat) : (s.setGraph v).walk k = s.walk k := rfl

/-! ### modGraph -/

@[simp] theorem State.modGraph_turns (s : State) (n : Nat) (v : GraphSt → GraphSt) : (s.modGraph n v).turns = s.turns := rfl
@[simp] theorem State.modGraph_agenda (s : State) (n : Nat) (v : GraphSt → GraphSt) : (s.modGraph n v).agenda = s.agenda := rfl
@[simp] theorem State.modGraph_now (s : State) (n : Nat) (v : GraphSt → GraphSt) : (s.modGraph n v).now = s.now := rfl
@[simp] theorem State.modGraph_foc (s : State) (n : Nat) (v : GraphSt → GraphSt) : (s.modGraph n v).foc = s.foc := rfl
@[simp] theorem State.modGraph_core (s : State) (n : Nat) (v : GraphSt → GraphSt) : (s.modGraph n v).core = s.core := rfl
@[simp] theorem State.modGraph_nextId (s : State) (n : Nat) (v : GraphSt → GraphSt) : (s.modGraph n v).nextId = s.nextId := rfl
@[simp] theorem State.modGraph_src (s : State) (n : Nat) (v : GraphSt → GraphSt) : (s.modGraph n v).src = s.src := rfl
@[simp] theorem State.modGraph_job (s : State) (n : Nat) (v : GraphSt → GraphSt) : (s.modGraph n v).job = s.job := rfl
@[simp] theorem State.modGraph_order (s : State) (n : Nat) (v : GraphSt → GraphSt) : (s.modGraph n v).order = s.order := rfl
@[simp] theorem State.modGraph_late (s : State) (n : Nat) (v : GraphSt → GraphSt) : (s.modGraph n v).late = s.late := rfl
@[simp] theorem State.modGraph_mem (s : State) (n : Nat) (v : GraphSt → GraphSt) : (s.modGraph n v).mem = s.mem := rfl
@[simp] theorem State.modGraph_poison (s : State) (n : Nat) (v : GraphSt → GraphSt) : (s.modGraph n v).poison = s.poison := rfl
@[simp] theorem State.modGraph_flips (s : State) (n : Nat) (v : GraphSt → GraphSt) : (s.modGraph n v).flips = s.flips := rfl
@[simp] theorem State.modGraph_under (s : State) (n : Nat) (v : GraphSt → GraphSt) : (s.modGraph n v).under = s.under := rfl
@[simp] theorem State.modGraph_soft (s : State) (n : Nat) (v : GraphSt → GraphSt) : (s.modGraph n v).soft = s.soft := rfl
@[simp] theorem State.modGraph_tags (s : State) (n : Nat) (v : GraphSt → GraphSt) : (s.modGraph n v).tags = s.tags := rfl
@[simp] theorem State.modGraph_tiles (s : State) (n : Nat) (v : GraphSt → GraphSt) : (s.modGraph n v).tiles = s.tiles := rfl
@[simp] theorem State.modGraph_slots (s : State) (n : Nat) (v : GraphSt → GraphSt) : (s.modGraph n v).slots = s.slots := rfl
@[simp] theorem State.modGraph_links (s : State) (n : Nat) (v : GraphSt → GraphSt) : (s.modGraph n v).links = s.links := rfl
@[simp] theorem State.modGraph_fields (s : State) (n : Nat) (v : GraphSt → GraphSt) : (s.modGraph n v).fields = s.fields := rfl
@[simp] theorem State.modGraph_dies (s : State) (n : Nat) (v : GraphSt → GraphSt) : (s.modGraph n v).dies = s.dies := rfl
@[simp] theorem State.modGraph_quarters (s : State) (n : Nat) (v : GraphSt → GraphSt) : (s.modGraph n v).quarters = s.quarters := rfl
@[simp] theorem State.modGraph_cores (s : State) (n : Nat) (v : GraphSt → GraphSt) : (s.modGraph n v).cores = s.cores := rfl
@[simp] theorem State.modGraph_remotes (s : State) (n : Nat) (v : GraphSt → GraphSt) : (s.modGraph n v).remotes = s.remotes := rfl
@[simp] theorem State.modGraph_awaits (s : State) (n : Nat) (v : GraphSt → GraphSt) : (s.modGraph n v).awaits = s.awaits := rfl
@[simp] theorem State.modGraph_sent (s : State) (n : Nat) (v : GraphSt → GraphSt) : (s.modGraph n v).sent = s.sent := rfl
@[simp] theorem State.modGraph_walks (s : State) (n : Nat) (v : GraphSt → GraphSt) : (s.modGraph n v).walks = s.walks := rfl
@[simp] theorem State.modGraph_pending (s : State) (n : Nat) (v : GraphSt → GraphSt) : (s.modGraph n v).pending = s.pending := rfl
@[simp] theorem State.modGraph_resolves (s : State) (n : Nat) (v : GraphSt → GraphSt) : (s.modGraph n v).resolves = s.resolves := rfl
@[simp] theorem State.modGraph_saved (s : State) (n : Nat) (v : GraphSt → GraphSt) : (s.modGraph n v).saved = s.saved := rfl
@[simp] theorem State.modGraph_bootst (s : State) (n : Nat) (v : GraphSt → GraphSt) : (s.modGraph n v).bootst = s.bootst := rfl
@[simp] theorem State.modGraph_keys (s : State) (n : Nat) (v : GraphSt → GraphSt) : (s.modGraph n v).keys = s.keys := rfl
@[simp] theorem State.modGraph_tile (s : State) (n : Nat) (v : GraphSt → GraphSt) (k : Nat) : (s.modGraph n v).tile k = s.tile k := rfl
@[simp] theorem State.modGraph_slot (s : State) (n : Nat) (v : GraphSt → GraphSt) (k : Nat) : (s.modGraph n v).slot k = s.slot k := rfl
@[simp] theorem State.modGraph_link (s : State) (n : Nat) (v : GraphSt → GraphSt) (k : Nat) : (s.modGraph n v).link k = s.link k := rfl
@[simp] theorem State.modGraph_field (s : State) (n : Nat) (v : GraphSt → GraphSt) (k : Nat) : (s.modGraph n v).field k = s.field k := rfl
@[simp] theorem State.modGraph_die (s : State) (n : Nat) (v : GraphSt → GraphSt) (k : Nat) : (s.modGraph n v).die k = s.die k := rfl
@[simp] theorem State.modGraph_quarter (s : State) (n : Nat) (v : GraphSt → GraphSt) (k : Nat) : (s.modGraph n v).quarter k = s.quarter k := rfl
@[simp] theorem State.modGraph_coreSt (s : State) (n : Nat) (v : GraphSt → GraphSt) (k : Nat) : (s.modGraph n v).coreSt k = s.coreSt k := rfl
@[simp] theorem State.modGraph_walk (s : State) (n : Nat) (v : GraphSt → GraphSt) (k : Nat) : (s.modGraph n v).walk k = s.walk k := rfl

/-! ### setBytes -/

@[simp] theorem State.setBytes_turns (s : State) (n : Nat) (v : List Byte) : (s.setBytes n v).turns = s.turns := rfl
@[simp] theorem State.setBytes_agenda (s : State) (n : Nat) (v : List Byte) : (s.setBytes n v).agenda = s.agenda := rfl
@[simp] theorem State.setBytes_now (s : State) (n : Nat) (v : List Byte) : (s.setBytes n v).now = s.now := rfl
@[simp] theorem State.setBytes_foc (s : State) (n : Nat) (v : List Byte) : (s.setBytes n v).foc = s.foc := rfl
@[simp] theorem State.setBytes_core (s : State) (n : Nat) (v : List Byte) : (s.setBytes n v).core = s.core := rfl
@[simp] theorem State.setBytes_nextId (s : State) (n : Nat) (v : List Byte) : (s.setBytes n v).nextId = s.nextId := rfl
@[simp] theorem State.setBytes_src (s : State) (n : Nat) (v : List Byte) : (s.setBytes n v).src = s.src := rfl
@[simp] theorem State.setBytes_job (s : State) (n : Nat) (v : List Byte) : (s.setBytes n v).job = s.job := rfl
@[simp] theorem State.setBytes_order (s : State) (n : Nat) (v : List Byte) : (s.setBytes n v).order = s.order := rfl
@[simp] theorem State.setBytes_late (s : State) (n : Nat) (v : List Byte) : (s.setBytes n v).late = s.late := rfl
@[simp] theorem State.setBytes_poison (s : State) (n : Nat) (v : List Byte) : (s.setBytes n v).poison = s.poison := rfl
@[simp] theorem State.setBytes_flips (s : State) (n : Nat) (v : List Byte) : (s.setBytes n v).flips = s.flips := rfl
@[simp] theorem State.setBytes_under (s : State) (n : Nat) (v : List Byte) : (s.setBytes n v).under = s.under := rfl
@[simp] theorem State.setBytes_soft (s : State) (n : Nat) (v : List Byte) : (s.setBytes n v).soft = s.soft := rfl
@[simp] theorem State.setBytes_tags (s : State) (n : Nat) (v : List Byte) : (s.setBytes n v).tags = s.tags := rfl
@[simp] theorem State.setBytes_tiles (s : State) (n : Nat) (v : List Byte) : (s.setBytes n v).tiles = s.tiles := rfl
@[simp] theorem State.setBytes_slots (s : State) (n : Nat) (v : List Byte) : (s.setBytes n v).slots = s.slots := rfl
@[simp] theorem State.setBytes_links (s : State) (n : Nat) (v : List Byte) : (s.setBytes n v).links = s.links := rfl
@[simp] theorem State.setBytes_fields (s : State) (n : Nat) (v : List Byte) : (s.setBytes n v).fields = s.fields := rfl
@[simp] theorem State.setBytes_dies (s : State) (n : Nat) (v : List Byte) : (s.setBytes n v).dies = s.dies := rfl
@[simp] theorem State.setBytes_quarters (s : State) (n : Nat) (v : List Byte) : (s.setBytes n v).quarters = s.quarters := rfl
@[simp] theorem State.setBytes_graphs (s : State) (n : Nat) (v : List Byte) : (s.setBytes n v).graphs = s.graphs := rfl
@[simp] theorem State.setBytes_cores (s : State) (n : Nat) (v : List Byte) : (s.setBytes n v).cores = s.cores := rfl
@[simp] theorem State.setBytes_remotes (s : State) (n : Nat) (v : List Byte) : (s.setBytes n v).remotes = s.remotes := rfl
@[simp] theorem State.setBytes_awaits (s : State) (n : Nat) (v : List Byte) : (s.setBytes n v).awaits = s.awaits := rfl
@[simp] theorem State.setBytes_sent (s : State) (n : Nat) (v : List Byte) : (s.setBytes n v).sent = s.sent := rfl
@[simp] theorem State.setBytes_walks (s : State) (n : Nat) (v : List Byte) : (s.setBytes n v).walks = s.walks := rfl
@[simp] theorem State.setBytes_pending (s : State) (n : Nat) (v : List Byte) : (s.setBytes n v).pending = s.pending := rfl
@[simp] theorem State.setBytes_resolves (s : State) (n : Nat) (v : List Byte) : (s.setBytes n v).resolves = s.resolves := rfl
@[simp] theorem State.setBytes_saved (s : State) (n : Nat) (v : List Byte) : (s.setBytes n v).saved = s.saved := rfl
@[simp] theorem State.setBytes_bootst (s : State) (n : Nat) (v : List Byte) : (s.setBytes n v).bootst = s.bootst := rfl
@[simp] theorem State.setBytes_keys (s : State) (n : Nat) (v : List Byte) : (s.setBytes n v).keys = s.keys := rfl
@[simp] theorem State.setBytes_tile (s : State) (n : Nat) (v : List Byte) (k : Nat) : (s.setBytes n v).tile k = s.tile k := rfl
@[simp] theorem State.setBytes_slot (s : State) (n : Nat) (v : List Byte) (k : Nat) : (s.setBytes n v).slot k = s.slot k := rfl
@[simp] theorem State.setBytes_link (s : State) (n : Nat) (v : List Byte) (k : Nat) : (s.setBytes n v).link k = s.link k := rfl
@[simp] theorem State.setBytes_field (s : State) (n : Nat) (v : List Byte) (k : Nat) : (s.setBytes n v).field k = s.field k := rfl
@[simp] theorem State.setBytes_die (s : State) (n : Nat) (v : List Byte) (k : Nat) : (s.setBytes n v).die k = s.die k := rfl
@[simp] theorem State.setBytes_quarter (s : State) (n : Nat) (v : List Byte) (k : Nat) : (s.setBytes n v).quarter k = s.quarter k := rfl
@[simp] theorem State.setBytes_coreSt (s : State) (n : Nat) (v : List Byte) (k : Nat) : (s.setBytes n v).coreSt k = s.coreSt k := rfl
@[simp] theorem State.setBytes_walk (s : State) (n : Nat) (v : List Byte) (k : Nat) : (s.setBytes n v).walk k = s.walk k := rfl

/-! ### markAt -/

@[simp] theorem markAt_turns (s : State) (p : Point) (k : Nat) : (markAt s p k).turns = s.turns := by
  unfold markAt; split <;> rfl
@[simp] theorem markAt_agenda (s : State) (p : Point) (k : Nat) : (markAt s p k).agenda = s.agenda := by
  unfold markAt; split <;> rfl
@[simp] theorem markAt_now (s : State) (p : Point) (k : Nat) : (markAt s p k).now = s.now := by
  unfold markAt; split <;> rfl
@[simp] theorem markAt_foc (s : State) (p : Point) (k : Nat) : (markAt s p k).foc = s.foc := by
  unfold markAt; split <;> rfl
@[simp] theorem markAt_core (s : State) (p : Point) (k : Nat) : (markAt s p k).core = s.core := by
  unfold markAt; split <;> rfl
@[simp] theorem markAt_nextId (s : State) (p : Point) (k : Nat) : (markAt s p k).nextId = s.nextId := by
  unfold markAt; split <;> rfl
@[simp] theorem markAt_src (s : State) (p : Point) (k : Nat) : (markAt s p k).src = s.src := by
  unfold markAt; split <;> rfl
@[simp] theorem markAt_job (s : State) (p : Point) (k : Nat) : (markAt s p k).job = s.job := by
  unfold markAt; split <;> rfl
@[simp] theorem markAt_mem (s : State) (p : Point) (k : Nat) : (markAt s p k).mem = s.mem := by
  unfold markAt; split <;> rfl
@[simp] theorem markAt_poison (s : State) (p : Point) (k : Nat) : (markAt s p k).poison = s.poison := by
  unfold markAt; split <;> rfl
@[simp] theorem markAt_flips (s : State) (p : Point) (k : Nat) : (markAt s p k).flips = s.flips := by
  unfold markAt; split <;> rfl
@[simp] theorem markAt_under (s : State) (p : Point) (k : Nat) : (markAt s p k).under = s.under := by
  unfold markAt; split <;> rfl
@[simp] theorem markAt_soft (s : State) (p : Point) (k : Nat) : (markAt s p k).soft = s.soft := by
  unfold markAt; split <;> rfl
@[simp] theorem markAt_tags (s : State) (p : Point) (k : Nat) : (markAt s p k).tags = s.tags := by
  unfold markAt; split <;> rfl
@[simp] theorem markAt_tiles (s : State) (p : Point) (k : Nat) : (markAt s p k).tiles = s.tiles := by
  unfold markAt; split <;> rfl
@[simp] theorem markAt_slots (s : State) (p : Point) (k : Nat) : (markAt s p k).slots = s.slots := by
  unfold markAt; split <;> rfl
@[simp] theorem markAt_links (s : State) (p : Point) (k : Nat) : (markAt s p k).links = s.links := by
  unfold markAt; split <;> rfl
@[simp] theorem markAt_fields (s : State) (p : Point) (k : Nat) : (markAt s p k).fields = s.fields := by
  unfold markAt; split <;> rfl
@[simp] theorem markAt_dies (s : State) (p : Point) (k : Nat) : (markAt s p k).dies = s.dies := by
  unfold markAt; split <;> rfl
@[simp] theorem markAt_quarters (s : State) (p : Point) (k : Nat) : (markAt s p k).quarters = s.quarters := by
  unfold markAt; split <;> rfl
@[simp] theorem markAt_graphs (s : State) (p : Point) (k : Nat) : (markAt s p k).graphs = s.graphs := by
  unfold markAt; split <;> rfl
@[simp] theorem markAt_cores (s : State) (p : Point) (k : Nat) : (markAt s p k).cores = s.cores := by
  unfold markAt; split <;> rfl
@[simp] theorem markAt_remotes (s : State) (p : Point) (k : Nat) : (markAt s p k).remotes = s.remotes := by
  unfold markAt; split <;> rfl
@[simp] theorem markAt_awaits (s : State) (p : Point) (k : Nat) : (markAt s p k).awaits = s.awaits := by
  unfold markAt; split <;> rfl
@[simp] theorem markAt_sent (s : State) (p : Point) (k : Nat) : (markAt s p k).sent = s.sent := by
  unfold markAt; split <;> rfl
@[simp] theorem markAt_walks (s : State) (p : Point) (k : Nat) : (markAt s p k).walks = s.walks := by
  unfold markAt; split <;> rfl
@[simp] theorem markAt_pending (s : State) (p : Point) (k : Nat) : (markAt s p k).pending = s.pending := by
  unfold markAt; split <;> rfl
@[simp] theorem markAt_resolves (s : State) (p : Point) (k : Nat) : (markAt s p k).resolves = s.resolves := by
  unfold markAt; split <;> rfl
@[simp] theorem markAt_saved (s : State) (p : Point) (k : Nat) : (markAt s p k).saved = s.saved := by
  unfold markAt; split <;> rfl
@[simp] theorem markAt_bootst (s : State) (p : Point) (k : Nat) : (markAt s p k).bootst = s.bootst := by
  unfold markAt; split <;> rfl
@[simp] theorem markAt_keys (s : State) (p : Point) (k : Nat) : (markAt s p k).keys = s.keys := by
  unfold markAt; split <;> rfl
@[simp] theorem markAt_tile (s : State) (p : Point) (k : Nat) (n : Nat) : (markAt s p k).tile n = s.tile n := by
  unfold markAt; split <;> rfl
@[simp] theorem markAt_slot (s : State) (p : Point) (k : Nat) (n : Nat) : (markAt s p k).slot n = s.slot n := by
  unfold markAt; split <;> rfl
@[simp] theorem markAt_link (s : State) (p : Point) (k : Nat) (n : Nat) : (markAt s p k).link n = s.link n := by
  unfold markAt; split <;> rfl
@[simp] theorem markAt_field (s : State) (p : Point) (k : Nat) (n : Nat) : (markAt s p k).field n = s.field n := by
  unfold markAt; split <;> rfl
@[simp] theorem markAt_die (s : State) (p : Point) (k : Nat) (n : Nat) : (markAt s p k).die n = s.die n := by
  unfold markAt; split <;> rfl
@[simp] theorem markAt_quarter (s : State) (p : Point) (k : Nat) (n : Nat) : (markAt s p k).quarter n = s.quarter n := by
  unfold markAt; split <;> rfl
@[simp] theorem markAt_coreSt (s : State) (p : Point) (k : Nat) (n : Nat) : (markAt s p k).coreSt n = s.coreSt n := by
  unfold markAt; split <;> rfl
@[simp] theorem markAt_walk (s : State) (p : Point) (k : Nat) (n : Nat) : (markAt s p k).walk n = s.walk n := by
  unfold markAt; split <;> rfl
@[simp] theorem markAt_graph (s : State) (p : Point) (k : Nat) (g : Nat) : (markAt s p k).graph? g = s.graph? g := by
  unfold markAt; split <;> rfl

/-! ### markStamp -/

@[simp] theorem markStamp_turns (s : State) (k : Nat) : (markStamp s k).turns = s.turns := by
  unfold markStamp; split <;> rfl
@[simp] theorem markStamp_agenda (s : State) (k : Nat) : (markStamp s k).agenda = s.agenda := by
  unfold markStamp; split <;> rfl
@[simp] theorem markStamp_now (s : State) (k : Nat) : (markStamp s k).now = s.now := by
  unfold markStamp; split <;> rfl
@[simp] theorem markStamp_foc (s : State) (k : Nat) : (markStamp s k).foc = s.foc := by
  unfold markStamp; split <;> rfl
@[simp] theorem markStamp_core (s : State) (k : Nat) : (markStamp s k).core = s.core := by
  unfold markStamp; split <;> rfl
@[simp] theorem markStamp_nextId (s : State) (k : Nat) : (markStamp s k).nextId = s.nextId := by
  unfold markStamp; split <;> rfl
@[simp] theorem markStamp_src (s : State) (k : Nat) : (markStamp s k).src = s.src := by
  unfold markStamp; split <;> rfl
@[simp] theorem markStamp_job (s : State) (k : Nat) : (markStamp s k).job = s.job := by
  unfold markStamp; split <;> rfl
@[simp] theorem markStamp_mem (s : State) (k : Nat) : (markStamp s k).mem = s.mem := by
  unfold markStamp; split <;> rfl
@[simp] theorem markStamp_poison (s : State) (k : Nat) : (markStamp s k).poison = s.poison := by
  unfold markStamp; split <;> rfl
@[simp] theorem markStamp_flips (s : State) (k : Nat) : (markStamp s k).flips = s.flips := by
  unfold markStamp; split <;> rfl
@[simp] theorem markStamp_under (s : State) (k : Nat) : (markStamp s k).under = s.under := by
  unfold markStamp; split <;> rfl
@[simp] theorem markStamp_soft (s : State) (k : Nat) : (markStamp s k).soft = s.soft := by
  unfold markStamp; split <;> rfl
@[simp] theorem markStamp_tags (s : State) (k : Nat) : (markStamp s k).tags = s.tags := by
  unfold markStamp; split <;> rfl
@[simp] theorem markStamp_tiles (s : State) (k : Nat) : (markStamp s k).tiles = s.tiles := by
  unfold markStamp; split <;> rfl
@[simp] theorem markStamp_slots (s : State) (k : Nat) : (markStamp s k).slots = s.slots := by
  unfold markStamp; split <;> rfl
@[simp] theorem markStamp_links (s : State) (k : Nat) : (markStamp s k).links = s.links := by
  unfold markStamp; split <;> rfl
@[simp] theorem markStamp_fields (s : State) (k : Nat) : (markStamp s k).fields = s.fields := by
  unfold markStamp; split <;> rfl
@[simp] theorem markStamp_dies (s : State) (k : Nat) : (markStamp s k).dies = s.dies := by
  unfold markStamp; split <;> rfl
@[simp] theorem markStamp_quarters (s : State) (k : Nat) : (markStamp s k).quarters = s.quarters := by
  unfold markStamp; split <;> rfl
@[simp] theorem markStamp_graphs (s : State) (k : Nat) : (markStamp s k).graphs = s.graphs := by
  unfold markStamp; split <;> rfl
@[simp] theorem markStamp_cores (s : State) (k : Nat) : (markStamp s k).cores = s.cores := by
  unfold markStamp; split <;> rfl
@[simp] theorem markStamp_remotes (s : State) (k : Nat) : (markStamp s k).remotes = s.remotes := by
  unfold markStamp; split <;> rfl
@[simp] theorem markStamp_awaits (s : State) (k : Nat) : (markStamp s k).awaits = s.awaits := by
  unfold markStamp; split <;> rfl
@[simp] theorem markStamp_sent (s : State) (k : Nat) : (markStamp s k).sent = s.sent := by
  unfold markStamp; split <;> rfl
@[simp] theorem markStamp_walks (s : State) (k : Nat) : (markStamp s k).walks = s.walks := by
  unfold markStamp; split <;> rfl
@[simp] theorem markStamp_pending (s : State) (k : Nat) : (markStamp s k).pending = s.pending := by
  unfold markStamp; split <;> rfl
@[simp] theorem markStamp_resolves (s : State) (k : Nat) : (markStamp s k).resolves = s.resolves := by
  unfold markStamp; split <;> rfl
@[simp] theorem markStamp_saved (s : State) (k : Nat) : (markStamp s k).saved = s.saved := by
  unfold markStamp; split <;> rfl
@[simp] theorem markStamp_bootst (s : State) (k : Nat) : (markStamp s k).bootst = s.bootst := by
  unfold markStamp; split <;> rfl
@[simp] theorem markStamp_keys (s : State) (k : Nat) : (markStamp s k).keys = s.keys := by
  unfold markStamp; split <;> rfl
@[simp] theorem markStamp_tile (s : State) (k : Nat) (n : Nat) : (markStamp s k).tile n = s.tile n := by
  unfold markStamp; split <;> rfl
@[simp] theorem markStamp_slot (s : State) (k : Nat) (n : Nat) : (markStamp s k).slot n = s.slot n := by
  unfold markStamp; split <;> rfl
@[simp] theorem markStamp_link (s : State) (k : Nat) (n : Nat) : (markStamp s k).link n = s.link n := by
  unfold markStamp; split <;> rfl
@[simp] theorem markStamp_field (s : State) (k : Nat) (n : Nat) : (markStamp s k).field n = s.field n := by
  unfold markStamp; split <;> rfl
@[simp] theorem markStamp_die (s : State) (k : Nat) (n : Nat) : (markStamp s k).die n = s.die n := by
  unfold markStamp; split <;> rfl
@[simp] theorem markStamp_quarter (s : State) (k : Nat) (n : Nat) : (markStamp s k).quarter n = s.quarter n := by
  unfold markStamp; split <;> rfl
@[simp] theorem markStamp_coreSt (s : State) (k : Nat) (n : Nat) : (markStamp s k).coreSt n = s.coreSt n := by
  unfold markStamp; split <;> rfl
@[simp] theorem markStamp_walk (s : State) (k : Nat) (n : Nat) : (markStamp s k).walk n = s.walk n := by
  unfold markStamp; split <;> rfl
@[simp] theorem markStamp_graph (s : State) (k : Nat) (g : Nat) : (markStamp s k).graph? g = s.graph? g := by
  unfold markStamp; split <;> rfl

/-! ### State.by -/

@[simp] theorem State.by_turns (s : State) (v : BitVec 32) : (s.by v).turns = s.turns := rfl
@[simp] theorem State.by_agenda (s : State) (v : BitVec 32) : (s.by v).agenda = s.agenda := rfl
@[simp] theorem State.by_now (s : State) (v : BitVec 32) : (s.by v).now = s.now := rfl
@[simp] theorem State.by_foc (s : State) (v : BitVec 32) : (s.by v).foc = s.foc := rfl
@[simp] theorem State.by_core (s : State) (v : BitVec 32) : (s.by v).core = s.core := rfl
@[simp] theorem State.by_nextId (s : State) (v : BitVec 32) : (s.by v).nextId = s.nextId := rfl
@[simp] theorem State.by_job (s : State) (v : BitVec 32) : (s.by v).job = s.job := rfl
@[simp] theorem State.by_order (s : State) (v : BitVec 32) : (s.by v).order = s.order := rfl
@[simp] theorem State.by_late (s : State) (v : BitVec 32) : (s.by v).late = s.late := rfl
@[simp] theorem State.by_mem (s : State) (v : BitVec 32) : (s.by v).mem = s.mem := rfl
@[simp] theorem State.by_poison (s : State) (v : BitVec 32) : (s.by v).poison = s.poison := rfl
@[simp] theorem State.by_flips (s : State) (v : BitVec 32) : (s.by v).flips = s.flips := rfl
@[simp] theorem State.by_under (s : State) (v : BitVec 32) : (s.by v).under = s.under := rfl
@[simp] theorem State.by_soft (s : State) (v : BitVec 32) : (s.by v).soft = s.soft := rfl
@[simp] theorem State.by_tags (s : State) (v : BitVec 32) : (s.by v).tags = s.tags := rfl
@[simp] theorem State.by_tiles (s : State) (v : BitVec 32) : (s.by v).tiles = s.tiles := rfl
@[simp] theorem State.by_slots (s : State) (v : BitVec 32) : (s.by v).slots = s.slots := rfl
@[simp] theorem State.by_links (s : State) (v : BitVec 32) : (s.by v).links = s.links := rfl
@[simp] theorem State.by_fields (s : State) (v : BitVec 32) : (s.by v).fields = s.fields := rfl
@[simp] theorem State.by_dies (s : State) (v : BitVec 32) : (s.by v).dies = s.dies := rfl
@[simp] theorem State.by_quarters (s : State) (v : BitVec 32) : (s.by v).quarters = s.quarters := rfl
@[simp] theorem State.by_graphs (s : State) (v : BitVec 32) : (s.by v).graphs = s.graphs := rfl
@[simp] theorem State.by_cores (s : State) (v : BitVec 32) : (s.by v).cores = s.cores := rfl
@[simp] theorem State.by_remotes (s : State) (v : BitVec 32) : (s.by v).remotes = s.remotes := rfl
@[simp] theorem State.by_awaits (s : State) (v : BitVec 32) : (s.by v).awaits = s.awaits := rfl
@[simp] theorem State.by_sent (s : State) (v : BitVec 32) : (s.by v).sent = s.sent := rfl
@[simp] theorem State.by_walks (s : State) (v : BitVec 32) : (s.by v).walks = s.walks := rfl
@[simp] theorem State.by_pending (s : State) (v : BitVec 32) : (s.by v).pending = s.pending := rfl
@[simp] theorem State.by_resolves (s : State) (v : BitVec 32) : (s.by v).resolves = s.resolves := rfl
@[simp] theorem State.by_saved (s : State) (v : BitVec 32) : (s.by v).saved = s.saved := rfl
@[simp] theorem State.by_bootst (s : State) (v : BitVec 32) : (s.by v).bootst = s.bootst := rfl
@[simp] theorem State.by_keys (s : State) (v : BitVec 32) : (s.by v).keys = s.keys := rfl
@[simp] theorem State.by_tile (s : State) (v : BitVec 32) (n : Nat) : (s.by v).tile n = s.tile n := rfl
@[simp] theorem State.by_slot (s : State) (v : BitVec 32) (n : Nat) : (s.by v).slot n = s.slot n := rfl
@[simp] theorem State.by_link (s : State) (v : BitVec 32) (n : Nat) : (s.by v).link n = s.link n := rfl
@[simp] theorem State.by_field (s : State) (v : BitVec 32) (n : Nat) : (s.by v).field n = s.field n := rfl
@[simp] theorem State.by_die (s : State) (v : BitVec 32) (n : Nat) : (s.by v).die n = s.die n := rfl
@[simp] theorem State.by_quarter (s : State) (v : BitVec 32) (n : Nat) : (s.by v).quarter n = s.quarter n := rfl
@[simp] theorem State.by_coreSt (s : State) (v : BitVec 32) (n : Nat) : (s.by v).coreSt n = s.coreSt n := rfl
@[simp] theorem State.by_walk (s : State) (v : BitVec 32) (n : Nat) : (s.by v).walk n = s.walk n := rfl
@[simp] theorem State.by_graph (s : State) (v : BitVec 32) (g : Nat) : (s.by v).graph? g = s.graph? g := rfl

end Sys2Proof.Machine
end

