-- ==== Sys2Proof/Laws/Ops.lean ====
section
/-! SUPPORT. What the shared operations of the fabric can do: none of them writes memory, a core, a saved graph or the
clock, and what each leaves in the tables is said once. -/

namespace Sys2Proof.Machine

/-! ### Folding over the state -/

/-- What holds at the start and is kept by each element holds at the end. -/
theorem foldState_ind {α : Type} (P : State → Prop) (f : State → α → State) (hf : ∀ s a, P s → P (f s a)) :
    ∀ (as : List α) (s : State), P s → P (foldState f s as)
  | [], _, h => h
  | a :: as, s, h => foldState_ind P f hf as (f s a) (hf s a h)

/-! ### What no operation of tiles, links and records touches -/

/-- Memory with its marks and errors, the cores, the saved graphs, the boot status, the keys, the clock and the turns are as
they were. -/
structure Held (s t : State) : Prop where
  mem : t.mem = s.mem
  poison : t.poison = s.poison
  flips : t.flips = s.flips
  under : t.under = s.under
  soft : t.soft = s.soft
  tags : t.tags = s.tags
  cores : t.cores = s.cores
  saved : t.saved = s.saved
  bootst : t.bootst = s.bootst
  keys : t.keys = s.keys
  now : t.now = s.now
  turns : t.turns = s.turns
  agenda : t.agenda = s.agenda
  resolves : t.resolves = s.resolves
  job : t.job = s.job
  awaits : t.awaits = s.awaits

namespace Held

@[refl] theorem refl (s : State) : Held s s := by constructor <;> rfl

@[trans] theorem trans {s t u : State} (h : Held s t) (k : Held t u) : Held s u :=
  ⟨k.mem.trans h.mem, k.poison.trans h.poison, k.flips.trans h.flips, k.under.trans h.under, k.soft.trans h.soft, k.tags.trans h.tags,
    k.cores.trans h.cores, k.saved.trans h.saved, k.bootst.trans h.bootst, k.keys.trans h.keys, k.now.trans h.now,
    k.turns.trans h.turns, k.agenda.trans h.agenda, k.resolves.trans h.resolves, k.job.trans h.job, k.awaits.trans h.awaits⟩

theorem fold {α : Type} (f : State → α → State) (hf : ∀ s a, Held s (f s a)) (as : List α) (s : State) :
    Held s (foldState f s as) :=
  foldState_ind (Held s) f (fun t a h => h.trans (hf t a)) as s (refl s)

/-- Every byte reads as before. -/
theorem byte {s t : State} (h : Held s t) (a : Nat) : t.byte a = s.byte a := congrArg (Memory.get · a) h.mem

/-- The canonical form of memory is kept. -/
theorem wf {s t : State} (h : Held s t) (w : Memory.wf s.mem = true) : Memory.wf t.mem = true := h.mem ▸ w

theorem setTile (s : State) (n : Nat) (v : TileSt) : Held s (s.setTile n v) := by constructor <;> rfl
theorem setSlot (s : State) (n : Nat) (v : SlotSt) : Held s (s.setSlot n v) := by constructor <;> rfl
theorem setLink (s : State) (n : Nat) (v : Link) : Held s (s.setLink n v) := by constructor <;> rfl
theorem setField (s : State) (n : Nat) (v : FieldSt) : Held s (s.setField n v) := by constructor <;> rfl
theorem setDie (s : State) (n : Nat) (v : DieSt) : Held s (s.setDie n v) := by constructor <;> rfl
theorem setQuarter (s : State) (n : Nat) (v : QuarterSt) : Held s (s.setQuarter n v) := by constructor <;> rfl
theorem setWalk (s : State) (n : Nat) (v : WalkSt) : Held s (s.setWalk n v) := by constructor <;> rfl
theorem modGraph (s : State) (g : Nat) (f : GraphSt → GraphSt) : Held s (s.modGraph g f) := by constructor <;> rfl
theorem modSection (s : State) (g n : Nat) (f : Section → Section) : Held s (s.modSection g n f) := modGraph _ _ _
theorem markAt (s : State) (p : Point) (k : Nat) : Held s (markAt s p k) := by constructor <;> simp
theorem markStamp (s : State) (k : Nat) : Held s (markStamp s k) := by constructor <;> simp

/-- Either way, it is held. -/
theorem ite {s t u : State} {p : Prop} [Decidable p] (ht : Held s t) (hu : Held s u) : Held s (if p then t else u) := by
  split <;> assumption

/-- The next identifier alone. -/
theorem nextId (s : State) (n : Nat) : Held s { s with nextId := n } := by constructor <;> rfl

/-! ### Counters, progress, interrupts -/

theorem pmcCount (s : State) (d e n : Nat) : Held s (pmcCount s d e n) := setDie _ _ _

theorem crossFlits (s : State) (a b n : Nat) : Held s (crossFlits s a b n) := fold _ (fun _ _ => pmcCount _ _ _ _) _ _

theorem countFlits (s : State) (h u d : Nat) : Held s (countFlits s h u d) := (crossFlits _ _ _ _).trans (crossFlits _ _ _ _)
theorem raiseCint (s : State) (q b : Nat) : Held s (raiseCint s q b) := setQuarter _ _ _
theorem wantPass (s : State) (q : Nat) : Held s (wantPass s q) := setQuarter _ _ _
theorem queueCompl (s : State) (q : Nat) (c : Compl) : Held s (queueCompl s q c) := setQuarter _ _ _
theorem mapRecs (s : State) (q : Nat) (f : FRec → FRec) : Held s (mapRecs s q f) := setQuarter _ _ _

theorem noteProgress (s : State) (t : Nat) : Held s (noteProgress s t) := by
  unfold Machine.noteProgress
  dsimp only
  split
  · exact modSection _ _ _ _
  · exact refl s

/-! ### Fault records (R330, R331, R354) -/

theorem enterFbuf (s : State) (q : Nat) (r : FRec) : Held s (enterFbuf s q r) :=
  ite ((raiseCint _ _ _).trans (raiseCint _ _ _)) (raiseCint _ _ _)

theorem postRec (s : State) (q : Nat) (r : FRec) : Held s (postRec s q r) := by
  unfold Machine.postRec
  have h := ((nextId s (s.nextId + 1)).trans (markAt _ (.faults q) 2)).trans (markStamp _ (stampSource (postedRec s q r).stamp))
  dsimp only
  split
  · exact (h.trans (setQuarter _ _ _)).trans (enterFbuf _ _ _)
  · exact ite (h.trans (setQuarter _ _ _)) ((h.trans (setQuarter _ _ _)).trans (enterFbuf _ _ _))

theorem repost (s : State) (q : Nat) : Held s (repost s q) := by
  unfold Machine.repost
  dsimp only
  split
  · exact ite ((setQuarter _ _ _).trans (enterFbuf _ _ _)) (refl s)
  · exact refl s

theorem endGraph (s : State) (g : GraphSt) (n : Nat) (r : Option Token) (a : DWord) : Held s (endGraph s g n r a) :=
  (modGraph _ _ _).trans (queueCompl _ _ _)

theorem clearGraph (s : State) (g : GraphSt) : Held s (clearGraph s g) := by
  unfold Machine.clearGraph
  refine (trans ?_ (fold _ (fun _ _ => setField _ _ _) _ _)).trans (modGraph _ _ _)
  constructor <;> rfl

theorem killDiscards (s : State) (g : GraphSt) : Held s (killDiscards s g) := (clearGraph s g).trans (mapRecs _ _ _)

theorem killGraph (s : State) (g n : Nat) : Held s (killGraph s g n) := by
  unfold Machine.killGraph
  split
  · exact refl s
  · exact ((killDiscards _ _).trans (setQuarter _ _ _)).trans (queueCompl _ _ _)

theorem abortSection (s : State) (g : GraphSt) (n : Node) (k : Nat) : Held s (abortSection s g n k) := by
  unfold Machine.abortSection
  split
  · exact refl s
  · refine (trans ?_ (mapRecs _ _ _)).trans (modGraph _ _ _)
    constructor <;> rfl

theorem raiseFault (s : State) (t : Nat) (r : FRec) : Held s (raiseFault s t r) := by
  unfold Machine.raiseFault
  split
  · exact refl s
  · split
    · exact refl s
    · dsimp only
      split
      · split
        · exact (postRec _ _ _).trans (killGraph _ _ _)
        · exact (postRec _ _ _).trans (modGraph _ _ _)
      · exact postRec _ _ _

theorem actOnErr (s : State) (g : Nat) (e : CtnErr) : Held s (actOnErr s g e) := by
  unfold Machine.actOnErr
  split
  · exact refl s
  · dsimp only
    split
    · exact ((ite (setField _ _ _) (refl s)).trans (modGraph _ _ _)).trans (abortSection _ _ _ _)
    · exact (ite (setField _ _ _) (refl s)).trans (modGraph _ _ _)

theorem containErrs (s : State) (g : GraphSt) : Held s (containErrs s g) := by
  unfold Machine.containErrs
  dsimp only
  exact ((mapRecs _ _ _).trans (modGraph _ _ _)).trans (fold _ (fun _ _ => actOnErr _ _ _) _ _)

theorem postSoon (s : State) (q n : Nat) (r : FRec) : Held s (postSoon s q n r) := by
  unfold Machine.postSoon
  refine ite ?_ (postRec _ _ _)
  constructor <;> rfl

theorem postPending (s : State) : Held s (postPending s) := by
  refine trans (t := { s with pending := [] }) ?_ (fold _ (fun _ _ => postSoon _ _ _ _) _ _)
  constructor <;> rfl

theorem predFail (s : State) (d k i n : Nat) : Held s (predFail s d k i n) := postSoon _ _ _ _

theorem bucketAdd (s : State) (d k i : Nat) : Held s (bucketAdd s d k i) := by
  unfold Machine.bucketAdd
  dsimp only
  have h : ∀ (u v : DieSt) (w : FieldSt), Held s (Machine.pmcCount
      (if k = 0 then s.setDie d u else if k = 1 then s.setDie d v else s.setField (320 * d + i) w) d 8 1) :=
    fun _ _ _ => (ite (setDie _ _ _) (ite (setDie _ _ _) (setField _ _ _))).trans (pmcCount _ _ _ _)
  exact ite ((h _ _ _).trans (predFail _ _ _ _ _)) (h _ _ _)

/-! ### Consuming and emitting (R44 to R49) -/

theorem consume (s : State) (x : Nat) (p : Pos) : Held s (consume s x p) := by
  unfold Machine.consume
  dsimp only
  split
  · exact refl s
  · split
    · exact setLink _ _ _
    · split
      · exact (setLink _ _ _).trans (setTile _ _ _)
      · exact setLink _ _ _

theorem consumeAll (x : Nat) : ∀ (ps : List Pos) (s : State), Held s (consumeAll s x ps)
  | [], s => refl s
  | p :: ps, s => (consume s x p).trans (consumeAll x ps _)

theorem pushLink (s : State) (l : Nat) (e : Entry) (r : Bool) : Held s (pushLink s l e r) := setLink _ _ _

theorem bufferEos (s : State) (t k : Nat) : Held s (bufferEos s t k) := by
  unfold Machine.bufferEos
  dsimp only
  split
  · exact setField _ _ _
  · exact refl s

theorem emitTo (s : State) (x : Nat) (tok : Token) (cyc ccyc du : Nat) (r : Bool) (g : Target) :
    Held s (emitTo s x tok cyc ccyc du r g) := by
  unfold Machine.emitTo
  dsimp only
  split
  · exact refl s
  · exact ite (pushLink _ _ _ _) (pushLink _ _ _ _)
  · have h : ∀ (p q : Prop) [Decidable p] [Decidable q] (v : TileSt) (k : Nat),
        Held s (if q then Machine.bufferEos (if p then s.setTile (tileOf x) v else s) (tileOf x) k
          else if p then s.setTile (tileOf x) v else s) :=
      fun _ _ _ _ _ _ => ite ((ite (setTile _ _ _) (refl s)).trans (bufferEos _ _ _)) (ite (setTile _ _ _) (refl s))
    refine ite ?_ ?_
    · rcases (s.tile (tileOf x)).owner with _ | ⟨g, n⟩
      · exact h _ _ _ _
      · exact ite ((h _ _ _ _).trans (modSection _ _ _ _)) (h _ _ _ _)
    · rcases portLink _ (tileOf x) _ with _ | ⟨l, n⟩
      · exact h _ _ _ _
      · exact ((h _ _ _ _).trans (crossFlits _ _ _ _)).trans (pushLink _ _ _ _)

theorem emitAll (s : State) (x : Nat) (tok : Token) (cyc ccyc du : Nat) (r : Bool) (gs : List Target) :
    Held s (emitAll s x tok cyc ccyc du r gs) :=
  fold _ (fun _ _ => emitTo _ _ _ _ _ _ _ _) _ _

theorem reserveAll (s : State) (x : Nat) (gs : List Target) (b : Bool) : Held s (reserveAll s x gs b) := by
  refine fold _ (fun s g => ?_) _ _
  dsimp only
  split
  · exact refl s
  · exact setLink _ _ _

/-! ### Firing (R40, R41, R47, R97, R125, R161) -/

theorem firingFault (s : State) (x c a u : Nat) (va d : DWord) : Held s (firingFault s x c a u va d) := by
  unfold Machine.firingFault
  dsimp only
  split
  · exact refl s
  · exact (setSlot _ _ _).trans (raiseFault _ _ _)

theorem noteFiring (s : State) (x : Nat) : Held s (noteFiring s x) :=
  (((setTile _ _ _).trans (noteProgress _ _)).trans (pmcCount _ _ _ _)).trans (setSlot _ _ _)

theorem captureFlags (s : State) (t : Nat) (fl : Word) : Held s (captureFlags s t fl) := ite (refl s) (setTile _ _ _)

theorem holdResult (s : State) (x : Nat) (k : ResKind) (tok : Token) (a : Act) (due st dn run busy : Nat) :
    Held s (holdResult s x k tok a due st dn run busy) := (reserveAll _ _ _ _).trans (setSlot _ _ _)

theorem captureTo (s : State) (x : Nat) (tok : Token) (c d e : Nat) (r : Bool) (gs : List Target) :
    Held s (captureTo s x tok c d e r gs) :=
  ite (ite (reserveAll _ _ _ _) (refl s)) (emitAll _ _ _ _ _ _ _ _)

theorem captureAct (s : State) (x : Nat) (i : Instr) (a : Act) (st : Nat) (v w : DWord) :
    Held s (captureAct s x i a st v w) := by
  unfold Machine.captureAct
  dsimp only
  have h : ∀ (t : Nat) (fl : Word) (tok : Token) (c d e : Nat) (b : Bool) (gs : List Target),
      Held s (Machine.captureTo (Machine.captureFlags s t fl) x tok c d e b gs) :=
    fun _ _ _ _ _ _ _ _ => (captureFlags _ _ _).trans (captureTo _ _ _ _ _ _ _ _)
  split
  · exact refl s
  · split
    · exact (bucketAdd _ _ _ _).trans (holdResult _ _ _ _ _ _ _ _ _ _)
    · split
      · exact ite (holdResult _ _ _ _ _ _ _ _ _ _) (h _ _ _ _ _ _ _ _)
      · exact ite (holdResult _ _ _ _ _ _ _ _ _ _) (h _ _ _ _ _ _ _ _)

theorem performPlan (s : State) (i : Instr) (p : Plan) : Held s (performPlan s i p) := by
  unfold Machine.performPlan
  dsimp only
  split
  · exact refl s
  · split
    · exact refl s
    · exact firingFault _ _ _ _ _ _ _
    · refine ite (refl s) (ite ((setTile _ _ _).trans (setSlot _ _ _)) ?_)
      exact ((consumeAll _ _ _).trans (noteFiring _ _)).trans (captureAct _ _ _ _ _ _ _)

/-- A firing of an element holds memory, the cores and the clock, whatever its rule. -/
theorem element (s t : State) (i : Instr) (rule : List (Pos × Token) → Token × Flags)
    (h : Machine.element s i rule = .next t) : Held s t := by
  cases h
  exact performPlan _ _ _

theorem deliverResult (s : State) (x : Nat) : Held s (deliverResult s x) := by
  unfold Machine.deliverResult
  dsimp only
  split
  · exact refl s
  · exact ((captureFlags _ _ _).trans (captureTo _ _ _ _ _ _ _ _)).trans (setSlot _ _ _)

theorem addStray (s : State) (t k : Nat) : Held s (addStray s t k) := by
  unfold Machine.addStray
  split
  · exact refl s
  · exact modGraph _ _ _

theorem completeFiring (s : State) (t : Nat) : Held s (completeFiring s t) :=
  (((addStray _ _ _).trans (fold _ (fun _ _ => setLink _ _ _) _ _)).trans
    (fold _ (fun _ _ => setSlot _ _ _) _ _)).trans (setTile _ _ _)

theorem captureRepeats (s : State) (t : Nat) : Held s (captureRepeats s t) :=
  fold _ (fun _ _ => (captureFlags _ _ _).trans (setSlot _ _ _)) _ _

theorem tileEdge (s : State) (t : Nat) : Held s (tileEdge s t) := by
  unfold Machine.tileEdge
  have h := captureRepeats s t
  dsimp only
  exact ite (ite ((h.trans (setTile _ _ _)).trans (setTile _ _ _)) ((h.trans (setTile _ _ _)).trans (completeFiring _ _)))
    (h.trans (setTile _ _ _))

end Held

/-! ### What a posted record does (R330, R331) -/

/-- With room, a record stands among the new ones of its cycle in FBUF; only that quarter and the next identifier change. -/
theorem postRec_room (s : State) (q : Nat) (r : FRec)
    (h : (insertNew s.now (postedRec s q r) (s.quarter q).fbuf).length ≤ 1024) :
    ((postRec s q r).quarter q).fbuf = insertNew s.now (postedRec s q r) (s.quarter q).fbuf ∧
      ((postRec s q r).quarter q).held = (s.quarter q).held ∧ (postRec s q r).nextId = s.nextId + 1 ∧
      ∀ k, k ≠ q → (postRec s q r).quarter k = s.quarter k := by
  have hn : ∀ (u : State) (a : FRec), (enterFbuf u q a).nextId = u.nextId := fun u a => by
    unfold enterFbuf; dsimp only; split <;> rfl
  have hb : ∀ (u : State) (a : FRec), ((enterFbuf u q a).quarter q).fbuf = (u.quarter q).fbuf ∧
      ((enterFbuf u q a).quarter q).held = (u.quarter q).held := fun u a => by
    unfold enterFbuf; dsimp only; split <;> simp [raiseCint]
  have ho : ∀ (u : State) (a : FRec) (k : Nat), k ≠ q → (enterFbuf u q a).quarter k = u.quarter k := fun u a k hk => by
    unfold enterFbuf; dsimp only; split <;> simp only [raiseCint, State.setQuarter_other _ _ hk]
  unfold postRec
  simp only [markStamp_now, markAt_now, List.drop_eq_nil_of_le h]
  refine ⟨?_, ?_, ?_, fun k hk => ?_⟩
  · rw [(hb _ _).1]; simp
  · rw [(hb _ _).2]; simp
  · rw [hn]; simp
  · rw [ho _ _ k hk, State.setQuarter_other _ _ hk]; simp; rfl

/-- Inserting a record adds one. -/
theorem insertRec_length (r : FRec) : ∀ rs : List FRec, (insertRec r rs).length = rs.length + 1
  | [] => rfl
  | a :: as => by
    unfold insertRec
    split
    · rfl
    · exact congrArg (· + 1) (insertRec_length r as)

theorem insertNew_length (now : Nat) (r : FRec) (rs : List FRec) : (insertNew now r rs).length = rs.length + 1 := by
  have h := List.length_eq_length_filter_add (l := rs) (newRec now)
  unfold insertNew
  rw [List.length_append, insertRec_length]
  omega

/-- Without room, the new record of the highest stamp in the cycle is held, in stamp order, and OVF is set. -/
theorem postRec_full (s : State) (q : Nat) (r a : FRec) (as : List FRec)
    (h : (insertNew s.now (postedRec s q r) (s.quarter q).fbuf).drop 1024 = a :: as) :
    ((postRec s q r).quarter q).held = insertRec a (s.quarter q).held ∧ ((postRec s q r).quarter q).ovf = true ∧
      ((postRec s q r).quarter q).fbuf = (insertNew s.now (postedRec s q r) (s.quarter q).fbuf).take 1024 := by
  have hb : ∀ (u : State) (a : FRec), ((enterFbuf u q a).quarter q).fbuf = (u.quarter q).fbuf ∧
      ((enterFbuf u q a).quarter q).held = (u.quarter q).held ∧ ((enterFbuf u q a).quarter q).ovf = (u.quarter q).ovf :=
    fun u a => by unfold enterFbuf; dsimp only; split <;> simp [raiseCint]
  unfold postRec
  simp only [markStamp_now, markAt_now, h]
  split
  · simp
  · rw [(hb _ _).1, (hb _ _).2.1, (hb _ _).2.2]; simp

end Sys2Proof.Machine
end

