-- ==== Sys2Proof/Laws/Cache.lean ====
section
/-! SUPPORT. What the operations of the memories below the ports can do: a write at the home writes exactly its bytes, and
every operation of the caches keeps the canonical form of memory and touches no register of a core. -/

namespace Sys2Proof.Machine

/-- What a memory operation may change beside the tables: the bytes, in canonical form, their poison, and the cores'
reservations. -/
structure Stored (s t : State) : Prop where
  wf : Memory.wf s.mem = true → Memory.wf t.mem = true
  tags : t.tags = s.tags
  cores : (t.cores.map fun e => (e.1, { e.2 with resv := none })) = s.cores.map fun e => (e.1, { e.2 with resv := none })
  saved : t.saved = s.saved
  bootst : t.bootst = s.bootst
  keys : t.keys = s.keys
  now : t.now = s.now
  turns : t.turns = s.turns
  agenda : t.agenda = s.agenda

/-- What holds memory stores nothing. -/
theorem Held.stored {s t : State} (h : Held s t) : Stored s t :=
  ⟨h.wf, h.tags, by rw [h.cores], h.saved, h.bootst, h.keys, h.now, h.turns, h.agenda⟩

namespace Stored

@[refl] theorem refl (s : State) : Stored s s := (Held.refl s).stored

@[trans] theorem trans {s t u : State} (h : Stored s t) (k : Stored t u) : Stored s u :=
  ⟨fun w => k.wf (h.wf w), k.tags.trans h.tags, k.cores.trans h.cores, k.saved.trans h.saved, k.bootst.trans h.bootst,
    k.keys.trans h.keys, k.now.trans h.now, k.turns.trans h.turns, k.agenda.trans h.agenda⟩

theorem fold {α : Type} (f : State → α → State) (hf : ∀ s a, Stored s (f s a)) (as : List α) (s : State) :
    Stored s (foldState f s as) :=
  foldState_ind (Stored s) f (fun t a h => h.trans (hf t a)) as s (refl s)

theorem ite {s t u : State} {p : Prop} [Decidable p] (ht : Stored s t) (hu : Stored s u) :
    Stored s (if p then t else u) := by
  split <;> assumption

theorem setField (s : State) (n : Nat) (v : FieldSt) : Stored s (s.setField n v) := (Held.setField s n v).stored
theorem setDie (s : State) (n : Nat) (v : DieSt) : Stored s (s.setDie n v) := (Held.setDie s n v).stored
theorem pmcCount (s : State) (d e n : Nat) : Stored s (pmcCount s d e n) := (Held.pmcCount s d e n).stored

theorem markAt (s : State) (p : Point) (k : Nat) : Stored s (markAt s p k) := (Held.markAt s p k).stored
theorem bucketAdd (s : State) (d k i : Nat) : Stored s (bucketAdd s d k i) := (Held.bucketAdd s d k i).stored

/-- Errors that stand beside the stored bytes are no bytes. -/
theorem flips (s : State) (m : SMap (List Flip)) : Stored s { s with flips := m } := ⟨id, rfl, rfl, rfl, rfl, rfl, rfl, rfl, rfl⟩
theorem under (s : State) (m : SMap (List Byte × Bool)) : Stored s { s with under := m } :=
  ⟨id, rfl, rfl, rfl, rfl, rfl, rfl, rfl, rfl⟩
theorem underLate (s : State) (m : SMap (List Byte × Bool)) (b : Bool) : Stored s { s with under := m, late := b } :=
  ⟨id, rfl, rfl, rfl, rfl, rfl, rfl, rfl, rfl⟩
theorem late (s : State) (b : Bool) : Stored s { s with late := b } := ⟨id, rfl, rfl, rfl, rfl, rfl, rfl, rfl, rfl⟩
theorem soft (s : State) (m : SMap Bool) : Stored s { s with soft := m } := ⟨id, rfl, rfl, rfl, rfl, rfl, rfl, rfl, rfl⟩

/-- Which source is at work is no byte. -/
theorem source (s : State) (k : Nat) : Stored s { s with src := k } := ⟨id, rfl, rfl, rfl, rfl, rfl, rfl, rfl, rfl⟩

/-! ### The home (R209, R214, R294, R369) -/

theorem setBytes (s : State) (a : Nat) (bs : List Byte) : Stored s (s.setBytes a bs) :=
  ⟨Memory.wf_write bs s.mem a, rfl, rfl, rfl, rfl, rfl, rfl, rfl, rfl⟩

theorem setHome (s : State) (a : Nat) (bs : List Byte) : Stored s (s.setHome a bs) := setBytes _ _ _

theorem setPoison (s : State) (n : Nat) (p : Bool) : Stored s (s.setPoison n p) := by
  cases p <;> exact ⟨id, rfl, rfl, rfl, rfl, rfl, rfl, rfl, rfl⟩

theorem noteKick (s : State) (a n : Nat) : Stored s (noteKick s a n) :=
  fold _ (fun s _ => ite (Held.raiseCint _ _ _).stored (refl s)) _ _

theorem breakReservations (s : State) (a n : Nat) : Stored s (breakReservations s a n) := by
  refine ⟨id, rfl, ?_, rfl, rfl, rfl, rfl, rfl, rfl⟩
  simp only [Machine.breakReservations, List.map_map]
  refine List.map_congr_left fun e _ => ?_
  dsimp only [Function.comp_apply]
  split
  · rfl
  · split <;> rfl

/-! ### Errors in what is stored (R204, R213, R214, R341) -/

theorem countFlits (s : State) (h u d : Nat) : Stored s (countFlits s h u d) := (Held.countFlits s h u d).stored

theorem storeTouch (s : State) (a n : Nat) (w : Bool) : Stored s (storeTouch s a n w) :=
  (countFlits _ _ _ _).trans (fold _ (fun _ _ => markAt _ _ _) _ _)

theorem softScrub (s : State) (a n : Nat) : Stored s (softScrub s a n) :=
  ite (refl s) (fold _ (fun s _ => ite (refl s) ((soft s _).trans (bucketAdd _ _ _ _))) _ _)

theorem softWrite (s : State) (a n : Nat) : Stored s (softWrite s a n) :=
  ite (refl s) ((softScrub _ _ _).trans (soft _ _))

theorem keepUnder (s : State) (k : Nat) : Stored s (keepUnder s k) := ite (refl s) (under _ _)

theorem uncover (s : State) (k : Nat) : Stored s (uncover s k) := by
  unfold Machine.uncover
  split
  · exact refl s
  · exact ((under _ _).trans (setBytes _ _ _)).trans (setPoison _ _ _)

/-- What is done beneath held sectors. -/
theorem beneath (s : State) (g : Nat × Nat) (k : Nat → Bool) {act : State → State} (h : ∀ u, Stored u (act u)) :
    Stored s (beneath s g k act) :=
  ((fold _ (fun _ _ => uncover _ _) _ _).trans (h _)).trans
    (fold _ (fun _ _ => ite (refl _) (((keepUnder _ _).trans (setBytes _ _ _)).trans (setPoison _ _ _))) _ _)

theorem upsetStore (s : State) (a : Nat) (h : Bool) : Stored s (upsetStore s a h) :=
  ite (soft _ _) (ite ((keepUnder _ _).trans (setPoison _ _ _)) (refl s))

theorem flipData (g : Nat) (s : State) (e : Flip) : Stored s (flipData g s e) := by
  unfold Machine.flipData
  split
  · exact setBytes _ _ _
  · exact refl s

theorem scrubGranule (s : State) (g : Nat × Nat) : Stored s (scrubGranule s g) := by
  unfold Machine.scrubGranule
  dsimp only
  refine ite (refl s) (ite ?_ ?_)
  · exact ((flips _ _).trans (fold _ (fun _ _ => flipData _ _ _) _ _)).trans (fold _ (fun _ _ => setPoison _ _ _) _ _)
  · exact ((flips _ _).trans (fold _ (fun _ _ => flipData _ _ _) _ _)).trans (bucketAdd _ _ _ _)

theorem decodeGranule (s : State) (g : Nat × Nat) (k : Nat → Bool) : Stored s (decodeGranule s g k) :=
  ite (refl s) (beneath s g k fun _ => scrubGranule _ _)

theorem encodeGranule (s : State) (g : Nat × Nat) (w k : Nat → Bool) : Stored s (encodeGranule s g w k) :=
  ite (refl s) (beneath s g _ fun u => ((ite (refl u) (scrubGranule _ _)).trans (flips _ _)).trans
    (fold _ (fun _ _ => setPoison _ _ _) _ _))

theorem settleFlag (s : State) (n : Nat) : Stored s (settleFlag s n) :=
  ite (refl s) (ite (refl s) ((flips _ _).trans (setPoison _ _ _)))

theorem fetchSector (s : State) (a : Nat) : Stored s (fetchSector s a) := (decodeGranule _ _ _).trans (settleFlag _ _)

theorem prepareWrite (s : State) (a n : Nat) : Stored s (prepareWrite s a n) :=
  ite (refl s) (fold _ (fun _ _ => encodeGranule _ _ _ _) _ _)

theorem upsetBit (s : State) (a : Nat) (e : Flip) : Stored s (upsetBit s a e) := by
  unfold Machine.upsetBit
  exact ite (flips _ _) (refl s)

theorem homeReady (s : State) (a n : Nat) : Stored s (homeReady s a n) :=
  ite ((ite (refl s) (prepareWrite _ _ _)).trans (setDie _ _ _)) (softWrite _ _ _)

theorem homeWrite (s : State) (a : Nat) (bs : List Byte) (p : Bool) : Stored s (homeWrite s a bs p) := by
  unfold Machine.homeWrite
  dsimp only
  refine trans (trans ?_ (breakReservations _ _ _)) (noteKick _ _ _)
  have h := (homeReady s a bs.length).trans (setHome _ a bs)
  refine ite (trans h (fold _ (fun s _ => ?_) _ _)) h
  exact ite (setPoison _ _ _) (ite (setPoison _ _ _) (refl s))

theorem poisonGranule (s : State) (a : Nat) : Stored s (poisonGranule s a) := by
  unfold Machine.poisonGranule
  exact beneath s _ _ fun _ => (flips _ _).trans (fold _ (fun _ _ => setPoison _ _ _) _ _)

theorem eccOutcome (s : State) (a : Nat) (e : Ecc) : Stored s (eccOutcome s a e) := by
  cases e
  · exact refl s
  · exact (Held.bucketAdd _ _ _ _).stored
  · exact poisonGranule _ _

/-! ### The second-level cache (R209 to R212) -/

theorem l2WriteBack (s : State) (l : L2Line) : Stored s (l2WriteBack s l) := by
  unfold Machine.l2WriteBack
  exact (fold _ (fun _ _ => uncover _ _) _ _).trans ((fold _ (fun _ _ => encodeGranule _ _ _ _) _ _).trans
    (underLate _ _ _))

theorem l2Line (s : State) (b : Nat) (v d : List Nat) (e c : Bool) : Stored s (l2Line s b v d e c) := by
  unfold Machine.l2Line
  dsimp only
  split
  · exact setDie _ _ _
  · exact (fold _ (fun _ _ => l2WriteBack _ _) _ _).trans (setDie _ _ _)

theorem l2Count (s : State) (a : Nat) (h : Bool) : Stored s (l2Count s a h) := by
  unfold Machine.l2Count
  dsimp only
  generalize windowOf _ _ = w
  cases w <;> cases h
  · exact pmcCount _ _ _ _
  · exact refl s
  · exact (setDie _ _ _).trans (pmcCount _ _ _ _)
  · exact setDie _ _ _

theorem l2Request (s : State) (a : Nat) (ls : List (Nat × List Nat)) (w e : Bool) : Stored s (l2Request s a ls w e) :=
  ite (refl s) ((late s (s.late || pageBusy s a)).trans (((((markAt _ _ _).trans (countFlits _ _ _ _)).trans (l2Count _ _ _)).trans
    (fold _ (fun _ _ => fetchSector _ _) _ _)).trans (fold _ (fun _ _ => l2Line _ _ _ _ _ _) _ _)))

theorem l2Touch (s : State) (a : Nat) (l : List Nat) (w e : Bool) : Stored s (l2Touch s a l w e) := l2Request _ _ _ _ _

/-- What is done as the field's cache is done. -/
theorem asCache {s : State} {f : Nat} {go : State → State} (h : ∀ u, Stored u (go u)) : Stored s (asCache s f go) :=
  ((source s _).trans (h _)).trans (source _ _)

theorem l2Read (s : State) (a n : Nat) (w e : Bool) : Stored s (l2Read s a n w e) :=
  fold _ (fun s _ => ite (l2Touch _ _ _ _ _) (refl s)) _ _

theorem l2Drop (s : State) (a : Nat) : Stored s (l2Drop s a) :=
  ite (refl s) ((fold _ (fun _ _ => l2WriteBack _ _) _ _).trans (setDie _ _ _))

/-! ### The field cache (R205, R206, R208) -/

theorem writeBackSector (s : State) (b k : Nat) (bs : List (Nat × CByte)) : Stored s (writeBackSector s b k bs) :=
  ite (homeWrite _ _ _ _) (fold _ (fun _ _ => homeWrite _ _ _ _) _ _)

theorem writeBackLine (s : State) (f g : Nat) (sel : Nat → Bool) (d : Bool) : Stored s (writeBackLine s f g sel d) := by
  unfold Machine.writeBackLine
  dsimp only
  split
  · exact refl s
  · refine ite (refl s) ?_
    exact ((asCache fun _ => l2Touch _ _ _ _ _).trans (fold _ (fun _ _ => writeBackSector _ _ _ _) _ _)).trans (setField _ _ _)

theorem writeBackAll (s : State) (f : Nat) (sel : Nat → Bool) (d : Bool) : Stored s (writeBackAll s f sel d) :=
  fold _ (fun _ _ => writeBackLine _ _ _ _ _) _ _

theorem clearVal (s : State) (f : Nat) (sel : Nat → Bool) : Stored s (clearVal s f sel) := setField _ _ _

theorem earlyCommit (s : State) (f : Nat) : Stored s (earlyCommit s f) :=
  ite ⟨id, rfl, rfl, rfl, rfl, rfl, rfl, rfl, rfl⟩ (setField _ _ _)

theorem makeRoom (s : State) (f g : Nat) : Stored s (makeRoom s f g) := by
  unfold Machine.makeRoom
  dsimp only
  refine ite (refl s) ?_
  split
  · exact ite (earlyCommit _ _) (refl s)
  · exact (((ite (earlyCommit _ _) (refl s)).trans (markAt _ _ _)).trans (writeBackLine _ _ _ _ _)).trans (setField _ _ _)

theorem ensureLine (s : State) (f a : Nat) : Stored s (ensureLine s f a) := by
  unfold Machine.ensureLine
  split
  · exact refl s
  · exact (makeRoom _ _ _).trans (setField _ _ _)

theorem fillLine (s : State) (f a n : Nat) : Stored s (fillLine s f a n) := by
  unfold Machine.fillLine
  dsimp only
  split
  · exact ensureLine _ _ _
  · exact (ensureLine _ _ _).trans (setField _ _ _)

theorem l2Unit (s : State) (g a : Nat) (e : Bool) : Stored s (l2Unit s g a e) := l2Request _ _ _ _ _

theorem fetchUnit (s : State) (f g a : Nat) (e : Bool) : Stored s (fetchUnit s f g a e) :=
  (asCache fun _ => l2Unit _ _ _ _).trans (fold _ (fun _ _ => fillLine _ _ _ _) _ _)

/-! ### The reduction combining buffer (R207, R235, R237) -/

theorem performRcb (s : State) (e : RcbEntry) : Stored s (performRcb s e) := (l2Touch _ _ _ _ _).trans (homeWrite _ _ _ _)

theorem performRcbs (s : State) (f : Nat) (sel : RcbEntry → Bool) : Stored s (performRcbs s f sel) := by
  unfold Machine.performRcbs
  exact (setField _ _ _).trans (asCache fun u => fold Machine.performRcb performRcb _ u)

theorem claimWord (s : State) (f a n : Nat) : Stored s (claimWord s f a n) := by
  unfold Machine.claimWord
  dsimp only
  split
  · exact ite (writeBackLine _ _ _ _ _) (refl s)
  · exact (ite (writeBackLine _ _ _ _ _) (refl s)).trans (setField _ _ _)

theorem acceptRed (s : State) (f a : Nat) (o : RedOp) (d : Bool) (v : DWord) (p : Bool) :
    Stored s (acceptRed s f a o d v p) := by
  unfold Machine.acceptRed
  dsimp only
  have h : ∀ (m : Nat) (q : RcbEntry → Bool), Stored s (Machine.performRcbs (Machine.claimWord s f a m) f q) :=
    fun _ _ => (claimWord _ _ _ _).trans (performRcbs _ _ _)
  refine ite ((h _ _).trans (setField _ _ _)) ?_
  split
  · exact ite ((h _ _).trans (setField _ _ _)) (((h _ _).trans (setField _ _ _)).trans (asCache fun _ => performRcb _ _))
  · exact (h _ _).trans (setField _ _ _)

/-! ### Loads and stores (R206, R230, R233, R353) -/

theorem fetchMissing (s : State) (f a n g : Nat) (ev : Bool) (e : Ecc) : Stored s (fetchMissing s f a n g ev e) :=
  ite (fold _ (fun s _ => ite ((eccOutcome _ _ _).trans (fetchUnit _ _ _ _ _)) (refl s)) _ _)
    ((eccOutcome _ _ _).trans (fetchUnit _ _ _ _ _))

theorem cacheLoad (s : State) (f a n g : Nat) (et ev : Bool) (e : Ecc) : Stored s (cacheLoad s f a n g et ev e).1 := by
  unfold Machine.cacheLoad
  dsimp only
  have h : ∀ (p : Prop) [Decidable p] (q : RcbEntry → Bool), Stored s (if p then Machine.performRcbs s f q else
      Machine.pmcCount (Machine.fetchMissing (Machine.performRcbs s f q) f a n g ev e) (dieOfField f) 2 1) :=
    fun _ _ _ => ite (performRcbs _ _ _) (((performRcbs _ _ _).trans (fetchMissing _ _ _ _ _ _ _)).trans
      (pmcCount _ _ _ _))
  rw [apply_ite Prod.fst, apply_ite Prod.fst]
  exact ite (h _ _) (ite ((h _ _).trans (setField _ _ _)) (h _ _))

theorem cachePut (s : State) (f a : Nat) (b : Byte) (t : Bool) : Stored s (cachePut s f a b t) := by
  unfold Machine.cachePut
  dsimp only
  split
  · exact refl s
  · exact setField _ _ _

theorem cacheStore (s : State) (f a : Nat) (bs : List Byte) (p t : Bool) : Stored s (cacheStore s f a bs p t) := by
  unfold Machine.cacheStore
  dsimp only
  refine ite ?_ ?_
  · have h := ((performRcbs s f (rcbOverlaps a bs.length)).trans
      (asCache (f := f) fun u => l2Touch u a ((sectorsOf a bs.length).map sectorInLine) true false)).trans (homeWrite _ a bs true)
    split
    · exact h
    · exact h.trans (setField _ _ _)
  · refine trans ?_ (fold _ (fun _ _ => cachePut _ _ _ _ _) _ _)
    exact ite (((performRcbs _ _ _).trans (ensureLine _ _ _)).trans (earlyCommit _ _))
      ((performRcbs _ _ _).trans (ensureLine _ _ _))

end Stored

/-! ### What a write at the home writes -/

/-- The words of a tile store that are corrected hold their bytes. -/
theorem softWrite_mem (s : State) (a n : Nat) : (softWrite s a n).mem = s.mem := by
  have h : ∀ u : State, (softScrub u a n).mem = u.mem := fun u => by
    unfold softScrub
    split
    · rfl
    · exact foldState_ind (fun t => t.mem = u.mem) _
        (fun t e ht => by
          split
          · exact ht
          · exact (Held.bucketAdd _ _ _ _).mem.trans ht) _ u rfl
  unfold softWrite
  split
  · rfl
  · exact h s

/-- A write at the home writes exactly its bytes, at the location of its address, over what it makes ready. -/
theorem homeWrite_mem (s : State) (a : Nat) (bs : List Byte) (p : Bool) :
    (homeWrite s a bs p).mem =
      Memory.write (homeReady s a bs.length).mem (locOf (homeReady s a bs.length) a) bs := by
  have hk : ∀ (u : State) (n : Nat), (noteKick u a n).mem = u.mem := fun u n =>
    foldState_ind (fun t => t.mem = u.mem) _ (fun t q h => by dsimp only; split <;> exact h) _ u rfl
  have hf : ∀ (u v : State) (bs' : List Nat), v.mem = u.mem → (foldState (fun s b => if p then s.setPoison (locOf s b) true
      else if a ≤ b ∧ b + sectorLen b ≤ a + bs.length then s.setPoison (locOf s b) false else s) v bs').mem = u.mem :=
    fun u v bs' hv => foldState_ind (fun t => t.mem = u.mem) _
      (fun t b h => by cases p <;> simp only [Bool.false_eq_true, if_true, if_false] <;> try split
                       all_goals exact h) _ v hv
  unfold homeWrite
  dsimp only
  rw [hk]
  change (ite _ _ _ : State).mem = _
  by_cases hd : isDram a = true
  · simp only [hd, if_true]
    rw [hf ((homeReady s a bs.length).setHome a bs) _ _ rfl]
    rfl
  · simp only [hd, if_false, Bool.false_eq_true]
    rfl

/-- Where no stored bit has flipped, that is memory as it was with the bytes written. -/
theorem homeWrite_mem_clean (s : State) (a : Nat) (bs : List Byte) (p : Bool) (hs : s.flips = []) (ht : s.soft = []) :
    (homeWrite s a bs p).mem = Memory.write s.mem (locOf s a) bs := by
  rw [homeWrite_mem]
  unfold homeReady
  split
  · simp only [prepareWrite, if_pos hs, ite_self]
    rfl
  · simp only [softWrite, if_pos ht]

end Sys2Proof.Machine
end

