-- ==== Sys2Proof/Laws/Ports.lean ====
section
/-! SUPPORT. What the shared operations of the stream ports and of the field command bus can do: firing, emission and the
passage of commands hold memory; translating and performing keep its canonical form. -/

namespace Sys2Proof.Machine

namespace Held

/-! ### Emission in firing order (R226) -/

theorem emitOut (s : State) (x : Nat) : Held s (emitOut s x) := by
  unfold Machine.emitOut
  dsimp only
  split
  · exact refl s
  · refine ite (refl s) (ite ((setSlot _ _ _).trans (addStray _ _ _)) (ite (refl s) ?_))
    split
    · exact setSlot _ _ _
    · exact ite ((setSlot _ _ _).trans (emitAll _ _ _ _ _ _ _ _)) (refl s)

theorem readyOut (s : State) (x id : Nat) (toks : List Token) : Held s (readyOut s x id toks) :=
  (setSlot _ _ _).trans (emitOut _ _)

theorem queueOut (s : State) (x : Nat) (o : OutE) : Held s (queueOut s x o) := setSlot _ _ _

theorem finishAccess (s : State) (x id : Nat) (toks : List Token) : Held s (finishAccess s x id toks) :=
  ((setSlot _ _ _).trans (noteProgress _ _)).trans (readyOut _ _ _ _)

/-- The source at work alone. -/
theorem by_ (s : State) (v : BitVec 32) : Held s (s.by v) := by constructor <;> rfl

/-! ### Firing of a port (R225) -/

theorem addAccess (s : State) (x : Nat) (a : Access) (i : Instr) (l : Bool) : Held s (addAccess s x a i l) :=
  ((nextId s _).trans (setSlot _ _ _)).trans (queueOut _ _ _)

/-- A memory firing holds what its own part holds. -/
theorem memFire (s t : State) (i : Instr) (check : List (Pos × Token) → Option Nat)
    (go : State → List (Pos × Token) → State) (hg : ∀ u r, Held u (go u r))
    (h : Machine.memFire s i check go = .next t) : Held s t := by
  unfold Machine.memFire at h
  dsimp only at h
  split at h
  · cases h
    exact refl s
  · cases h
    split
    · exact refl s
    · exact firingFault _ _ _ _ _ _ _
    · exact ((((consume _ _ _).trans (noteFiring _ _)).trans (nextId _ _)).trans (queueOut _ _ _)).trans (emitOut _ _)
    · exact (consumeAll _ _ _).trans (noteFiring _ _)
    · split
      · exact firingFault _ _ _ _ _ _ _
      · exact ((consumeAll _ _ _).trans (noteFiring _ _)).trans (hg _ _)

theorem fireAccess (s t : State) (i : Instr) (l : Bool) (check : List (Pos × Token) → Option Nat)
    (h : Machine.fireAccess s i l check = .next t) : Held s t :=
  memFire s t i check _ (fun _ _ => addAccess _ _ _ _ _) h

theorem setAccess (s : State) (x : Nat) (a : Access) : Held s (setAccess s x a) := setSlot _ _ _

theorem dropAccess (s : State) (x id : Nat) : Held s (dropAccess s x id) := (setSlot _ _ _).trans (setField _ _ _)

theorem accessFault (s : State) (x : Nat) (a : Access) (c acc va : Nat) (d : DWord) :
    Held s (accessFault s x a c acc va d) := by
  unfold Machine.accessFault
  dsimp only
  split
  · exact refl s
  · exact ite ((setSlot _ _ _).trans (raiseFault _ _ _)) (((setSlot _ _ _).trans (raiseFault _ _ _)).trans (dropAccess _ _ _))

theorem partDone (s : State) (x : Nat) (a : Access) (k : Nat) (bs : List Byte) (p : List Nat) :
    Held s (partDone s x a k bs p) := by
  unfold Machine.partDone
  dsimp only
  split
  · split
    · exact refl s
    · exact ite (finishAccess _ _ _ _) (setAccess _ _ _)
  · exact refl s

theorem sendRemote (s : State) (x : Nat) (o : MemOp) (a : Access) (k : Nat) : Held s (sendRemote s x o a k) := by
  unfold Machine.sendRemote
  dsimp only
  split
  · split
    · exact refl s
    · constructor <;> rfl
  · exact refl s

/-! ### Commands (R252 to R254) -/

theorem forwardMarker (s : State) (x : Nat) (i : Instr) (p : Pos) (tok : Token) : Held s (forwardMarker s x i p tok) :=
  ((((consume _ _ _).trans (noteFiring _ _)).trans (nextId _ _)).trans (queueOut _ _ _)).trans (emitOut _ _)

theorem openAs (s : State) (x : Nat) (i : Instr) (l : Bool) (k : Nat) : Held s (openAs s x i l k) :=
  (setSlot _ _ _).trans (queueOut _ _ _)

theorem openCmd (s : State) (x : Nat) (i : Instr) (l : Bool) : Held s (openCmd s x i l) :=
  (nextId s _).trans (openAs _ _ _ _ _)

theorem finishCmd (s : State) (x id : Nat) (toks : List Token) : Held s (finishCmd s x id toks) :=
  ((setSlot _ _ _).trans (noteProgress _ _)).trans (readyOut _ _ _ _)

/-- A command's firing holds what its own part holds. -/
theorem cmdFire (s t : State) (i : Instr) (n : Nat) (rm m : Bool) (check : List (Pos × Token) → Option (Nat × DWord × DWord))
    (go : State → List (Pos × Token) → State) (hg : ∀ u r, Held u (go u r))
    (h : Machine.cmdFire s i n rm m check go = .next t) : Held s t := by
  unfold Machine.cmdFire at h
  dsimp only at h
  split at h
  · cases h
    exact refl s
  · cases h
    split
    · exact refl s
    · exact firingFault _ _ _ _ _ _ _
    · exact ite (refl s) (forwardMarker _ _ _ _ _)
    · exact (consumeAll _ _ _).trans (noteFiring _ _)
    · split
      · exact firingFault _ _ _ _ _ _ _
      · exact ite (refl s) (((consumeAll _ _ _).trans (noteFiring _ _)).trans (hg _ _))

theorem toBus (s : State) (c : Cmd) : Held s (toBus s c) := setField _ _ _

theorem sendCmd (i : Instr) (q : List Nat) (l : Bool) (s : State) (r : List (Pos × Token)) : Held s (sendCmd i q l s r) :=
  (openCmd _ _ _ _).trans (toBus _ _)

theorem fireCmd (s t : State) (i : Instr) (q : List Nat) (l : Bool) (h : Machine.fireCmd s i q l = .next t) : Held s t :=
  cmdFire s t i (q.headD 0xF) (q == [10]) true noFault _ (fun _ _ => sendCmd _ _ _ _ _) h

theorem setQueue (s : State) (f q : Nat) (cs : List Cmd) : Held s (setQueue s f q cs) := setField _ _ _

theorem arriveQueues (s : State) (f k : Nat) : Held s (arriveQueues s f k) := by
  unfold Machine.arriveQueues
  dsimp only
  split
  · exact refl s
  · exact ite (refl s) ((setField _ _ _).trans (fold _ (fun _ _ => setQueue _ _ _ _) _ _))

theorem dropCmd (s : State) (f id : Nat) : Held s (dropCmd s f id) := setField _ _ _
theorem modCmd (s : State) (f id : Nat) (g : Cmd → Cmd) : Held s (modCmd s f id g) := setField _ _ _

theorem performedIn (s : State) (f q : Nat) (c : Cmd) (toks : List Token) : Held s (performedIn s f q c toks) :=
  ite ((setQueue _ _ _ _).trans (finishCmd _ _ _ _)) ((setQueue _ _ _ _).trans (modCmd _ _ _ _))

theorem performedAll (s : State) (f : Nat) (c : Cmd) (toks : List Token) : Held s (performedAll s f c toks) :=
  (dropCmd _ _ _).trans (finishCmd _ _ _ _)

theorem cmdFault (s : State) (f q : Nat) (c : Cmd) (code acc va : Nat) (d : DWord) :
    Held s (cmdFault s f q c code acc va d) := by
  unfold Machine.cmdFault
  dsimp only
  split
  · exact dropCmd _ _ _
  · exact ite (((setSlot _ _ _).trans (raiseFault _ _ _)).trans (modCmd _ _ _ _))
      ((((setSlot _ _ _).trans (raiseFault _ _ _)).trans (dropCmd _ _ _)).trans (setSlot _ _ _))

end Held

namespace Stored

theorem setTile (s : State) (n : Nat) (v : TileSt) : Stored s (s.setTile n v) := (Held.setTile s n v).stored
theorem setSlot (s : State) (n : Nat) (v : SlotSt) : Stored s (s.setSlot n v) := (Held.setSlot s n v).stored

/-! ### Translation (R170, R173, R176, R177) -/

theorem walkReads (s : State) (q va : Nat) : Stored s (walkReads s q va) := by
  unfold Machine.walkReads
  dsimp only
  exact ite (refl s) (ite (l2Touch _ _ _ _ _) ((l2Touch _ _ _ _ _).trans (l2Touch _ _ _ _ _)))

theorem walkTables (s : State) (q va : Nat) (n : Need) (c : Bool) : Stored s (walkTables s q va n c).1 := by
  unfold Machine.walkTables
  dsimp only
  have h := walkReads s q va
  split
  · exact h
  · split
    · exact h
    · rw [apply_ite Prod.fst]
      exact ite h (ite h (h.trans (homeWrite _ _ _ _)))

theorem sliceInstall (s : State) (q v : Nat) (p : BitVec 128) : Stored s (sliceInstall s q v p) := setField _ _ _

theorem latchInstall (s : State) (l : Option (Nat × Nat)) (v : Nat) (p : BitVec 128) : Stored s (latchInstall s l v p) := by
  rcases l with _ | ⟨t, k⟩
  · exact refl s
  · exact setTile _ _ _

theorem crossFlits (s : State) (a b n : Nat) : Stored s (crossFlits s a b n) := (Held.crossFlits s a b n).stored

theorem sliceAsk (s : State) (f o : Nat) : Stored s (sliceAsk s f o) := (crossFlits _ _ _ _).trans (crossFlits _ _ _ _)

theorem noteMiss (s : State) (o v : Nat) : Stored s (noteMiss s o v) := ite (refl s) (pmcCount _ _ _ _)

theorem latchAdd (s : State) (a : Ahead) (p : BitVec 128) : Stored s (latchAdd s a p) := setTile _ _ _

theorem answerAhead (s : State) (a : Ahead) (p : BitVec 128) : Stored s (answerAhead s a p) := ite (latchAdd _ _ _) (refl s)

theorem askAhead (s : State) (o : Nat) (a : Ahead) : Stored s (askAhead s o a) :=
  ((ite (refl s) (sliceAsk _ _ _)).trans (noteMiss _ _ _)).trans (setField _ _ _)

theorem runAhead (s : State) (a : Ahead) : Stored s (runAhead s a) := by
  unfold Machine.runAhead
  refine ite (refl s) ?_
  split
  · exact (sliceAsk _ _ _).trans (answerAhead _ _ _)
  · exact askAhead _ _ _

theorem walkedAhead (q : Nat) (s : State) (a : Ahead) : Stored s (walkedAhead q s a) := by
  unfold Machine.walkedAhead
  split
  · exact refl s
  · exact ite ((sliceInstall _ _ _ _).trans (answerAhead _ _ _)) (refl s)

theorem closeMiss (s : State) (q o v : Nat) : Stored s (closeMiss s q o v) :=
  (setField _ _ _).trans (fold _ (fun _ _ => walkedAhead _ _ _) _ _)

theorem walkMiss (s : State) (q va : Nat) (n : Need) (c : Bool) : Stored s (walkMiss s q va n c).1 := by
  unfold Machine.walkMiss
  dsimp only
  have h := noteMiss s (sliceOwner s q (vpnOf va)) (vpnOf va)
  refine h.trans ?_
  split
  · exact setField _ _ _
  have k := walkTables (Machine.noteMiss s (sliceOwner s q (vpnOf va)) (vpnOf va)) q va n c
  split <;> rename_i he <;> rw [he] at k
  · exact k.trans (setField _ _ _)
  · exact k.trans (closeMiss _ _ _ _)

theorem translate (s : State) (f : Nat) (l : Option (Nat × Nat)) (va : Nat) (n : Need) (c : Bool) :
    Stored s (translate s f l va n c).1 := by
  unfold Machine.translate
  dsimp only
  split
  · exact refl s
  · split
    · exact ite (latchInstall _ _ _ _) (refl s)
    · split
      · exact (sliceAsk _ _ _).trans (ite (latchInstall _ _ _ _) (refl _))
      · have h : ∀ u, Stored s u → Stored s (Machine.walkMiss u (leadOf s (quarterOfDie (dieOfField f))) va n c).1 :=
          fun u k => k.trans (walkMiss _ _ _ _ _)
        generalize hu : (if hasMiss s _ _ = true then s else Machine.sliceAsk s f _) = u
        have k := h u (hu ▸ ite (refl s) (sliceAsk _ _ _))
        split <;> rename_i he <;> rw [he] at k
        · refine k.trans ?_
          cases c
          · exact refl _
          · exact (sliceInstall _ _ _ _).trans (latchInstall _ _ _ _)
        · exact k

theorem endWalk (o : Nat) (s : State) (m : Miss) : Stored s (endWalk o s m) := by
  unfold Machine.endWalk
  dsimp only
  split
  · exact closeMiss _ _ _ _
  · rename_i a as _
    have h := ((Held.by_ s (slotSource (64 * a.tile + 56 + a.port))).stored).trans (walkTables _
      (leadOf s (quarterOfDie (dieOfField o))) (pageSize * m.vpn) Need.none false)
    split <;> rename_i he
    · exact refl s
    · rw [he] at h
      exact ite (refl s) ((h.trans (closeMiss _ _ _ _)).trans (source _ _))

theorem walksEdge (s : State) (o : Nat) : Stored s (walksEdge s o) :=
  ite (refl s) ((setField _ _ _).trans (fold _ (fun _ _ => endWalk _ _ _) _ _))

theorem translateRuns (f : Nat) (l : Option (Nat × Nat)) (va : Nat) (n : Need) (c : Bool) :
    ∀ (rs : List (Nat × Nat)) (s : State), Stored s (translateRuns s f l va n c rs).1
  | [], s => refl s
  | (o, k) :: rs, s => by
    unfold Machine.translateRuns
    have h := translate s f l (va + o) n c
    split <;> rename_i he <;> rw [he] at h
    · exact h
    · exact h
    · rename_i u p
      have k := translateRuns f l va n c rs u
      split <;> rename_i hr <;> rw [hr] at k <;> exact h.trans k

theorem translateAccess (s : State) (x : Nat) (o : MemOp) (a : Access) : Stored s (translateAccess s x o a).1 := by
  unfold Machine.translateAccess
  dsimp only
  have k : ∀ c, Stored s (accessRuns s x o a c).1 := fun c => translateRuns _ _ _ _ _ _ _
  have h := k false
  split <;> rename_i he <;> rw [he] at h
  · exact h
  · exact h
  · split
    · exact h
    · split
      · exact h
      · split
        · exact h
        · exact k true

theorem walkSlot (s : State) (x : Nat) : Stored s (walkSlot s x) := by
  have b : Stored s (s.by (slotSource x)) := (Held.by_ _ _).stored
  unfold Machine.walkSlot
  dsimp only
  refine ite b ?_
  split
  · exact b
  · split
    · exact b
    · rename_i a _ _ o _
      have h := translateAccess (s.by (slotSource x)) x o a
      split
      · exact b.trans (ite (ite (refl _) (Held.accessFault _ _ _ _ _ _ _).stored) (Held.setAccess _ _ _).stored)
      · exact b.trans (ite (ite (refl _) (Held.accessFault _ _ _ _ _ _ _).stored) (Held.setAccess _ _ _).stored)
      · split <;> rename_i he <;> rw [he] at h
        · exact b.trans h
        · split
          · exact (b.trans h).trans (Held.finishAccess _ _ _ _).stored
          · exact (b.trans h).trans (ite (refl _) (Held.accessFault _ _ _ _ _ _ _).stored)
        · exact (b.trans h).trans (Held.setAccess _ _ _).stored

/-! ### Performing a part (R227 to R237, R243 to R249) -/

theorem commitIfOwner (s : State) (x : Nat) : Stored s (commitIfOwner s x) := ite (earlyCommit _ _) (refl s)

theorem bucketOfField (s : State) (f : Nat) (e : Ecc) : Stored s (bucketOfField s f e) := ite (bucketAdd _ _ _ _) (refl s)

theorem eccStore (s : State) (a : Nat) (e : Ecc) : Stored s (eccStore s a e) := ite (bucketAdd _ _ _ _) (refl s)

theorem storeRead (s : State) (a n : Nat) (e : Ecc) : Stored s (storeRead s a n e).1 :=
  ((storeTouch _ _ _ _).trans (softScrub _ _ _)).trans (eccStore _ _ _)

theorem settle (s t : State) (a n r k v : Nat) (h : settle s a n r k v = some t) : Stored s t := by
  unfold Machine.settle at h
  dsimp only at h
  split at h
  · cases h
    exact (setBytes _ _ _).trans (setBytes _ _ _)
  · obtain ⟨p, _, rfl⟩ := Option.map_eq_some_iff.mp h
    exact (setBytes _ _ _).trans (setBytes _ _ _)

theorem swapWord (c : Bool) (n : Nat) (s : State) (a : Nat) : Stored s (swapWord c n s a) :=
  (ite (homeWrite _ _ _ _) (ite (homeWrite _ _ _ _) (refl s))).trans (setBytes _ _ _)

theorem swapRegion (s : State) (q : Nat) (e : BitVec 128) : Stored s (swapRegion s q e) :=
  fold _ (fun _ _ => fold _ (fun _ _ => swapWord _ _ _ _) _ _) _ _

theorem publish (s : State) (f : Nat) : Stored s (publish s f) :=
  ((markAt _ _ _).trans (performRcbs _ _ _)).trans (writeBackAll _ _ _ _)

theorem acquireCache (s : State) (f g : Nat) : Stored s (acquireCache s f g) :=
  ((markAt _ _ _).trans (writeBackAll _ _ _ _)).trans (clearVal _ _ _)

theorem releaseCache (s : State) (f g : Nat) : Stored s (releaseCache s f g) :=
  ((markAt _ _ _).trans (performRcbs _ _ _)).trans (writeBackAll _ _ _ _)

theorem releaseHold (s : State) (g t n : Nat) : Stored s (releaseHold s g t n) :=
  (releaseCache _ _ _).trans (Held.modGraph _ _ _).stored

theorem releaseHolds (s : State) (g t : Nat) : Stored s (releaseHolds s g t) := by
  unfold Machine.releaseHolds
  split
  · exact refl s
  · exact fold _ (fun s _ => ite (releaseHold _ _ _ _) (refl s)) _ _

/-- What performing answers leaves of a state. -/
def Answers (s : State) : Perf → Prop
  | .wait => True
  | .fault t _ => Stored s t
  | .ok t _ _ => Stored s t
  | .more t => Stored s t

theorem answers_ite {s : State} {a b : Perf} {p : Prop} [Decidable p] (ha : Answers s a) (hb : Answers s b) :
    Answers s (if p then a else b) := by
  split <;> assumption

theorem amoRead (s : State) (p : Part) (n : Nat) (w : Bool) (e : Ecc) : Stored s (amoRead s p n w e).1 := by
  unfold Machine.amoRead
  split
  · exact (eccOutcome _ _ _).trans (l2Touch _ _ _ _ _)
  · exact storeRead _ _ _ _

theorem amoClaim (s : State) (f a n : Nat) : Stored s (amoClaim s f a n) :=
  ite ((claimWord _ _ _ _).trans (performRcbs _ _ _)) (refl s)

theorem performAmo (s : State) (x : Nat) (o : AmoOp) (n : Nat) (a : Access) (p : Part) (e : Ecc) :
    Answers s (performAmo s x o n a p e) := by
  unfold Machine.performAmo
  dsimp only
  have hr := ((commitIfOwner s x).trans (amoClaim _ (fieldOf x) p.pa n)).trans (amoRead _ p n true e)
  split <;> rename_i he
  · exact amoRead s p n false e
  · rw [he] at hr
    refine answers_ite ((ite (commitIfOwner _ _) (refl s)).trans (amoClaim _ _ _ _)) ?_
    split
    · exact hr
    · exact trans hr (homeWrite _ _ _ _)

theorem loadCached (s : State) (x : Nat) (p : Part) (ev : Bool) (e : Ecc) : Stored s (loadCached s x p ev e).1 :=
  (ite (bucketOfField _ _ _) (refl s)).trans (cacheLoad _ _ _ _ _ _ _ _)

theorem loadStore (s : State) (p : Part) (e : Ecc) : Stored s (loadStore s p e).1 := storeRead _ _ _ _

theorem prefetch (s : State) (f : Nat) (p : Part) (ev : Bool) (e : Ecc) : Stored s (prefetch s f p ev e) :=
  ite (bucketOfField _ _ _) (((eccOutcome _ _ _).trans (fetchUnit _ _ _ _ _)).trans (pmcCount _ _ _ _))

theorem flushLine (s : State) (f a : Nat) (d : Bool) : Stored s (flushLine s f a d) := by
  have h : ∀ q : Nat → Bool, Stored s (Machine.clearVal (Machine.writeBackLine (Machine.markAt s (.cache f) 0) f
      (lineNo a) q true) f q) :=
    fun _ => ((markAt _ _ _).trans (writeBackLine _ _ _ _ _)).trans (clearVal _ _ _)
  exact ite (((h _).trans (asCache fun _ => markAt _ _ _)).trans (l2Drop _ _)) (h _)

theorem markPort (s : State) (x : Nat) : Stored s (markPort s x) := markAt _ _ _

theorem performHere (s : State) (x : Nat) (o : MemOp) (a : Access) (p : Part) (e : Ecc) :
    Answers s (performHere s x o a p e) := by
  unfold Machine.performHere
  dsimp only
  have hl : ∀ ev, Stored s (if isDram p.pa = true then Machine.loadCached s x p ev e else Machine.loadStore s p e).1 :=
    fun ev => by split <;> [exact loadCached _ _ _ _ _; exact loadStore _ _ _]
  have hm : ∀ ev, Stored s (if isDram p.pa = true then Machine.markPort
      (if isDram p.pa = true then Machine.loadCached s x p ev e else Machine.loadStore s p e).1 x
      else (if isDram p.pa = true then Machine.loadCached s x p ev e else Machine.loadStore s p e).1) :=
    fun ev => ite ((hl ev).trans (markPort _ _)) (hl ev)
  have hst : ∀ (bs : List Byte), Answers s (if isDram p.pa = true then
      if meetsTentative s x p.pa p.len = true then .wait
      else .ok (if o = .sst then Machine.cacheStore s (fieldOf x) p.pa bs a.psn (inRegion s x)
        else Machine.markPort (Machine.cacheStore s (fieldOf x) p.pa bs a.psn (inRegion s x)) x) [] []
      else .ok (Machine.homeWrite (Machine.commitIfOwner (Machine.storeTouch s p.pa p.len true) x) p.pa bs false) [] []) :=
    fun bs => answers_ite (answers_ite trivial (ite (cacheStore _ _ _ _ _ _) ((cacheStore _ _ _ _ _ _).trans (markPort _ _))))
      (((storeTouch _ _ _ _).trans (commitIfOwner _ _)).trans (homeWrite _ _ _ _))
  refine answers_ite trivial ?_
  split
  · exact hm _
  · exact hm _
  · exact answers_ite (hm _) (hm _)
  · exact hst _
  · exact hst _
  · exact hst _
  · refine answers_ite trivial ?_
    by_cases hd : isDram p.pa = true
    · simp only [hd, if_true]
      have h := performAmo (Machine.markPort s x) x
      rename_i op n
      have k := h op n a p e
      revert k
      cases Machine.performAmo (Machine.markPort s x) x op n a p e <;> intro k
      · trivial
      all_goals exact (markPort _ _).trans k
    · simp only [hd]
      exact performAmo _ _ _ _ _ _ _
  · refine answers_ite (answers_ite trivial (((commitIfOwner _ _).trans (acceptRed _ _ _ _ _ _ _)).trans (markPort _ _))) ?_
    rename_i op n
    have h := storeRead s p.pa n e
    split <;> rename_i he <;> rw [he] at h
    · exact h
    · exact (h.trans (commitIfOwner _ _)).trans (homeWrite _ _ _ _)
  · exact answers_ite trivial (storeRead _ _ _ _)
  · refine answers_ite trivial ?_
    split
    · rename_i h
      exact ((storeRead _ _ _ _).trans (commitIfOwner _ _)).trans (settle _ _ _ _ _ _ _ h)
    · exact refl s
  · exact answers_ite (refl s) (answers_ite ((eccOutcome _ _ _).trans (l2Unit _ _ _ _)) ((prefetch _ _ _ _ _).trans (markPort _ _)))
  · exact (commitIfOwner _ _).trans (ite (flushLine _ _ _ _) (refl _))
  all_goals exact refl s

theorem namedLines (x : Nat) (m : Bool) : ∀ (ps : List (Nat × Nat)) (s : State), Stored s (namedLines s x m ps).1
  | [], s => refl s
  | (va, n) :: ps, s => by
    unfold Machine.namedLines
    have h := fun c => translate s (fieldOf x) (some (tileOf x, portOfSlot x)) va Need.read c
    dsimp only
    have h0 := h false
    split <;> rename_i he <;> rw [he] at h0
    · exact h0
    · split
      · exact h0.trans (namedLines x m ps _)
      · exact h0
    · split
      · exact h0.trans (namedLines x m ps _)
      · have k := (ite (p := m = true) (h true) h0).trans (namedLines x m ps _)
        split
        · rename_i hr
          rw [hr] at k
          exact k
        · exact k

theorem retainLines (s : State) (l : List Nat) : Stored s (retainLines s l).1 :=
  fold _ (fun _ _ => l2Touch _ _ _ _ _) _ _

theorem unpinLines (s : State) (l : List Nat) : Stored s (unpinLines s l).1 :=
  fold _ (fun _ _ => (markAt _ _ _).trans (l2Drop _ _)) _ _

/-- What an action below the port answers leaves of a state. -/
def Acts (s : State) : Acted → Prop
  | .wait t => Stored s t
  | .fault t _ _ => Stored s t
  | .ok t _ => Stored s t

theorem actOnLines (s : State) (x : Nat) (a : Access) (act : State → List Nat → State × Nat)
    (ha : ∀ u l, Stored u (act u l).1) : Acts s (actOnLines s x a act) := by
  unfold Machine.actOnLines
  dsimp only
  have h := fun m => namedLines x m (namedParts a.va.toNat (a.data.toNat % 2 ^ 32)) s
  have h0 := h false
  split <;> rename_i he <;> rw [he] at h0
  · exact h0
  · exact h0
  · split
    · exact refl s
    · exact (h true).trans (ha _ _)

theorem performAction (s : State) (x : Nat) (o : MemOp) (a : Access) : Acts s (performAction s x o a) := by
  unfold Machine.performAction
  dsimp only
  split
  · split
    all_goals split <;> first | exact refl s | exact ite (publish _ _) (refl s)
  · split
    · exact refl s
    · split
      · exact refl s
      · exact releaseHold _ _ _ _
  · exact actOnLines _ _ _ _ retainLines
  · exact actOnLines _ _ _ _ unpinLines
  · exact refl s

theorem actOnPart (s : State) (x : Nat) (o : MemOp) (a : Access) (j : Nat) (p : Part) (e : Ecc) :
    Answers s (actOnPart s x o a j p e) := by
  unfold Machine.actOnPart
  refine answers_ite trivial ?_
  by_cases hr : p.remote = true
  · simp only [hr, if_true]
    split
    · exact (commitIfOwner _ _).trans (Held.partDone _ _ _ _ _ _).stored
    · exact (Held.partDone _ _ _ _ _ _).stored
    · split
      · exact refl s
      · exact (ite (commitIfOwner _ _) (refl s)).trans (Held.sendRemote _ _ _ _ _).stored
  · simp only [hr, if_false, Bool.false_eq_true]
    have h := performHere s x o a p e
    split
    · rename_i he
      rw [he] at h
      exact trans h (Held.partDone _ _ _ _ _ _).stored
    · exact h

theorem performBlock (x : Nat) (o : MemOp) (id : Nat) (e : Ecc) : ∀ (n : Nat) (s : State),
    Answers s (performBlock s x o id e n)
  | 0, s => refl s
  | n + 1, s => by
    unfold Machine.performBlock
    split
    · exact markPort s x
    · rename_i a j p _ _
      refine answers_ite (refl s) ?_
      · have h := actOnPart s x o a j p e
        split
        · rename_i u _ _ he
          rw [he] at h
          have k := performBlock x o id e n u
          revert k
          cases Machine.performBlock u x o id e n <;> intro k
          · trivial
          all_goals exact trans h k
        · exact h

/-- Performing a part of an access keeps the canonical form, whatever the access and the outcome. -/
theorem performPart (s : State) (x k : Nat) (e : Ecc) : Stored s (performPart s x k e) := by
  have b : Stored s (s.by (slotSource x)) := (Held.by_ _ _).stored
  refine b.trans ?_
  unfold Machine.performPart
  dsimp only
  split
  · exact refl _
  · split
    · rename_i a j _ _ _ o p _ _
      split
      · have h := performAction (s.by (slotSource x)) x o a
        split <;> rename_i he <;> rw [he] at h
        · exact h
        · exact ite (refl _) (trans h (Held.accessFault _ _ _ _ _ _ _).stored)
        · exact trans h (Held.finishAccess _ _ _ _).stored
      · have h : Answers (s.by (slotSource x)) (if o = .sst then
            Machine.performBlock (s.by (slotSource x)) x o a.id e ((a.parts.getD []).length + 1)
            else Machine.actOnPart (s.by (slotSource x)) x o a j p e) :=
          answers_ite (performBlock _ _ _ _ _ _) (actOnPart _ _ _ _ _ _ _)
        split <;> rename_i he <;> rw [he] at h
        · exact ite (refl _) (trans h (Held.accessFault _ _ _ _ _ _ _).stored)
        · exact h
        · exact h
    · exact refl _

end Stored

end Sys2Proof.Machine
end

