-- ==== Sys2Proof/Laws/Control.lean ====
section
/-! SUPPORT. What the shared operations of the control cores, the registers, the launch queues and the engines' reads can
do: the registers of a core, a trap and the return from it, and that every one of them keeps the canonical form of memory. -/

namespace Sys2Proof.Machine

/-! ### The registers of a core (R367, R371) -/

@[simp] theorem CoreSt.reg_zero (v : CoreSt) : v.reg 0 = 0 := rfl

@[simp] theorem CoreSt.setReg_zero (v : CoreSt) (x : DWord) : v.setReg 0 x = v := rfl

/-- x0 reads zero and discards writes; any other register reads as last written. -/
theorem CoreSt.reg_setReg (v : CoreSt) (r k : BitVec 5) (x : DWord) :
    (v.setReg r x).reg k = if k = r ∧ r ≠ 0 then x else v.reg k := by
  unfold CoreSt.setReg CoreSt.reg
  by_cases h0 : r = 0
  · subst h0
    simp
  · rw [if_neg h0]
    by_cases hk : k = r
    · subst hk
      rw [if_neg h0, if_pos ⟨rfl, h0⟩]
      exact SMap.get_put_same _ _ _ _
    · rw [if_neg (c := k = r ∧ r ≠ 0) fun h => hk h.1]
      split
      · rfl
      · exact SMap.get_put_other _ _ _ fun h => hk (BitVec.eq_of_toNat_eq h)

/-- A register write leaves the pc, the trap registers and the instruction memory. -/
theorem CoreSt.setReg_rest (v : CoreSt) (r : BitVec 5) (x : DWord) : { v.setReg r x with xs := v.xs } = v := by
  unfold CoreSt.setReg
  split <;> rfl

/-! ### A trap and the return from it (R368) -/

/-- A trap saves the pc, the cause and the value, clears MIE and goes to the handler; every register and the instruction
memory are as they were. -/
theorem coreTrap_saves (v : CoreSt) (cause : Nat) (tval : DWord) :
    let t := coreTrap v false cause tval
    t.mepc = v.pc ∧ t.mcause = BitVec.ofNat 64 cause ∧ t.mtval = tval ∧ t.pc = v.mtvec &&& ~~~3#64 ∧
      t.xs = v.xs ∧ t.imem = v.imem ∧ t.resv = v.resv ∧ t.released = v.released ∧ t.stopped = v.stopped := by
  refine ⟨rfl, ?_, rfl, ?_, rfl, rfl, rfl, rfl, rfl⟩ <;> simp [coreTrap]

/-- MRET goes back to the saved pc and leaves the saved registers. -/
theorem coreReturn_restores (v : CoreSt) :
    (coreReturn v).pc = v.mepc ∧ (coreReturn v).mepc = v.mepc ∧ (coreReturn v).mcause = v.mcause ∧
      (coreReturn v).mtval = v.mtval ∧ (coreReturn v).xs = v.xs := ⟨rfl, rfl, rfl, rfl, rfl⟩

/-! ### What a control core may change beside the tables -/

/-- The bytes keep their canonical form; the clock, the turns, the saved graphs and the keys are as they were. -/
structure Kept (s t : State) : Prop where
  wf : Memory.wf s.mem = true → Memory.wf t.mem = true
  saved : t.saved = s.saved
  keys : t.keys = s.keys
  now : t.now = s.now
  turns : t.turns = s.turns

theorem Stored.kept {s t : State} (h : Stored s t) : Kept s t := ⟨h.wf, h.saved, h.keys, h.now, h.turns⟩

theorem Held.kept {s t : State} (h : Held s t) : Kept s t := h.stored.kept

namespace Stored

/-! ### Entries of queues and rings (R313 to R317) -/

theorem homeTouch (s : State) (a n : Nat) (w : Bool) : Stored s (homeTouch s a n w).1 := by
  unfold Machine.homeTouch
  split
  · exact l2Read _ _ _ _ _
  · split
    · exact storeTouch _ _ _ _
    · exact storeRead _ _ _ _

theorem readOwn (s : State) (q a n : Nat) : Stored s (readOwn s q a n).1 := by
  unfold Machine.readOwn
  split
  · exact homeTouch _ _ _ _
  · exact refl s

theorem writeHome (s : State) (a : Nat) (bs : List Byte) : Stored s (writeHome s a bs) :=
  (homeTouch _ _ _ _).trans (homeWrite _ _ _ _)

theorem writeEntry (s : State) (q a : Nat) (bs : List Byte) : Stored s (writeEntry s q a bs) :=
  ite (writeHome _ _ _) (refl s)

theorem setLq (s : State) (q n : Nat) (l : LqSt) : Stored s (s.setLq q n l) := (Held.setQuarter s q _).stored

theorem modQuarter (s : State) (q : Nat) (f : QuarterSt → QuarterSt) : Stored s (modQuarter s q f) :=
  (Held.setQuarter s q _).stored

theorem lqPush (s : State) (q n : Nat) (r : List Byte) (p : BitVec 96) : Stored s (lqPush s q n r p) := by
  unfold Machine.lqPush
  dsimp only
  have h := (markAt s (.queue q n) p.toNat).trans (writeEntry _ q ((s.lq q n).entry (s.lq q n).tail.toNat) (r.take 128))
  exact ((h.trans (ite (writeEntry _ _ _ _) (refl _))).trans (setLq _ _ _ _)).trans (Held.wantPass _ _).stored

theorem lqPop (s : State) (q n k : Nat) : Stored s (lqPop s q n k) :=
  ite (setLq _ _ _ _) ((readOwn _ _ _ _).trans (setLq _ _ _ _))

theorem lqHead (s : State) (q : Nat) (l : LqSt) : Stored s (lqHead s q l).1 := by
  unfold Machine.lqHead
  dsimp only
  split
  · exact (readOwn _ _ _ _).trans (readOwn _ _ _ _)
  · exact readOwn _ _ _ _

theorem homePut (s : State) (a : Nat) (bs : List Byte) : Stored s (homePut s a bs) := fold _ (fun _ _ => writeHome _ _ _) _ _

theorem homeUpdate (s : State) (a : Nat) (bs : List Byte) : Stored s (homeUpdate s a bs) :=
  fold _ (fun _ _ => homeWrite _ _ _ _) _ _

/-! ### Engines' reads and buffers (R256, R189 to R192) -/

theorem sent (s : State) (r : Option Sent) : Stored s { s with sent := r } := (by constructor <;> rfl : Held s _).stored

theorem countZeros (s : State) (f k : Nat) : Stored s (countZeros s f k) := setField _ _ _

/-- Asking a peer changes no byte of this module. -/
theorem askRemote (s : State) (l : Nat) (p : PeerSt) (va : Nat) (r : Sent) : Stored s (askRemote s l p va r).1 := by
  have h : ∀ (q : Option Sent) (as : List Awaited), Stored s { s with sent := q, awaits := as } := fun _ _ =>
    ⟨id, rfl, rfl, rfl, rfl, rfl, rfl, rfl, rfl⟩
  unfold Machine.askRemote
  dsimp only
  split
  · split <;> exact h _ _
  · split <;> exact h _ _
  · rw [apply_ite Prod.fst]
    refine ite ?_ ?_ <;> split <;> exact h _ _

theorem task (s : State) (j : Nat) : Stored s (s.task j) := ⟨id, rfl, rfl, rfl, rfl, rfl, rfl, rfl, rfl⟩

theorem engRemote (s : State) (f va a n : Nat) (z : Bool) : Stored s (engRemote s f va a n z).1 := by
  unfold Machine.engRemote
  dsimp only
  split
  · exact refl s
  · rename_i p _
    have h := askRemote s (leadOf s (quarterOfDie (dieOfField f))) p va
      (requestTo s (leadOf s (quarterOfDie (dieOfField f))) p a (.read n))
    split <;> rename_i he <;> rw [he] at h
    · exact h
    · exact h
    · split
      · exact h
      · split
        · exact h.trans (countZeros _ _ _)
        · exact h

theorem engRun (s : State) (f va : Nat) (z : Bool) (r : Run) : Stored s (engRun s f va z r).1 := by
  obtain ⟨o, n, p, m⟩ := r
  unfold Machine.engRun
  dsimp only
  have h := storeRead s (ptePpn p * pageSize + (va + o) % pageSize) n .clean
  have l := l2Read s (ptePpn p * pageSize + (va + o) % pageSize) n false false
  split
  · exact engRemote _ _ _ _ _ _
  · split
    · exact refl s
    · split
      · exact refl s
      · split
        · split <;> rename_i he <;> rw [he] at h <;> exact h
        · split
          · exact l
          · split
            · exact l.trans (countZeros _ _ _)
            · exact l

theorem engRuns (f va : Nat) (z : Bool) : ∀ (rs : List Run) (s : State), Stored s (engRuns s f va z rs).1
  | [], s => refl s
  | r :: rs, s => by
    unfold Machine.engRuns
    have h := engRun s f va z r
    split <;> rename_i he <;> rw [he] at h
    · rename_i u bs
      have k := engRuns f va z rs u
      split <;> rename_i hr <;> rw [hr] at k <;> exact h.trans k
    · exact h

theorem engCheck (s : State) (f t va n : Nat) (need : Need) (g : Bool) : Stored s (engCheck s f t va n need g).1 := by
  unfold Machine.engCheck
  dsimp only
  have h := translateRuns f none va need false (cutAt 0x10000 va (n + 1) 0 n) s
  split <;> rename_i he <;> rw [he] at h
  · exact h
  · exact h
  · split
    · exact h
    · split
      · exact h
      · split
        · exact h
        · split <;> exact h

/-- An engine's read writes no byte but the A and D bits of the translation it takes. -/
theorem engRead (s : State) (f t va n : Nat) (need : Need) (z : Bool) : Stored s (engRead s f t va n need z).1 := by
  unfold Machine.engRead
  have h := engCheck s f t va n need false
  split
  · rename_i he
    rw [he] at h
    exact h
  · exact (translateRuns _ _ _ _ _ _ _).trans (engRuns _ _ _ _ _)

end Stored

namespace Held

theorem setBuf (s : State) (f h : Nat) (b : BufSt) : Held s (s.setBuf f h b) := setField _ _ _

theorem postTransfer (s : State) (f h n : Nat) : Held s (postTransfer s f h n) := by
  unfold Machine.postTransfer
  dsimp only
  split
  · exact setBuf _ _ _ _
  · exact (setBuf _ _ _ _).trans (pushLink _ _ _ _)

theorem bufPerform (s : State) (f : Nat) (c : Cmd) : Held s (bufPerform s f c) := by
  unfold Machine.bufPerform
  dsimp only
  have bad : ∀ (k : Nat) (d : DWord),
      Held s (if (s.slot c.x).wh.isSome then s else Machine.cmdFault s f 11 c k 0 0 d) :=
    fun _ _ => ite (refl s) (cmdFault _ _ _ _ _ _ _ _)
  refine ite (refl s) (ite (bad _ _) ?_)
  split
  · exact ite ((ite (setBuf _ _ _ _) (refl s)).trans (performedAll _ _ _ _)) (refl s)
  · exact ite (bad _ _) ((setBuf _ _ _ _).trans (performedAll _ _ _ _))
  · exact performedAll _ _ _ _

theorem bufferEdge (s : State) (f : Nat) : Held s (bufferEdge s f) :=
  (setField _ _ _).trans (fold _ (fun _ _ => bufPerform _ _ _) _ _)

end Held

namespace Kept

@[refl] theorem refl (s : State) : Kept s s := (Held.refl s).kept

@[trans] theorem trans {s t u : State} (h : Kept s t) (k : Kept t u) : Kept s u :=
  ⟨fun w => k.wf (h.wf w), k.saved.trans h.saved, k.keys.trans h.keys, k.now.trans h.now, k.turns.trans h.turns⟩

theorem ite {s t u : State} {p : Prop} [Decidable p] (ht : Kept s t) (hu : Kept s u) : Kept s (if p then t else u) := by
  split <;> assumption

theorem setCore (s : State) (c : Nat) (v : CoreSt) : Kept s (s.setCore c v) := ⟨id, rfl, rfl, rfl, rfl⟩
theorem takeTrap (s : State) (c n : Nat) (v : DWord) : Kept s (takeTrap s c n v) := setCore _ _ _
theorem modDie (s : State) (d : Nat) (f : DieSt → DieSt) : Kept s (modDie s d f) := (Held.setDie s d _).kept
theorem modQuarter (s : State) (q : Nat) (f : QuarterSt → QuarterSt) : Kept s (modQuarter s q f) :=
  (Held.setQuarter s q _).kept
theorem due (s : State) (i : Instr) : Kept s (s.due i) := ⟨id, rfl, rfl, rfl, rfl⟩

/-! ### Registers in register space (R26, R312) -/

theorem lqcPut (s : State) (q n : Nat) (v : DWord) : Kept s (lqcPut s q n v) :=
  ite ((modQuarter _ _ _).trans (Held.wantPass _ _).kept) (modQuarter _ _ _)

theorem retwControlPut (s : State) (d k : Nat) (v : DWord) : Kept s (retwControlPut s d k v) := by
  unfold Machine.retwControlPut
  exact modDie _ _ _

theorem laycStart (s : State) (d : Nat) (v : DWord) : Kept s (laycStart s d v) := ite (refl s) (modDie _ _ _)

theorem regPut (s : State) (v : DWord) (a : RegName) : Kept s (regPut s v a) := by
  unfold Machine.regPut
  cases a
  case retw d k r => exact ite (modDie _ _ _) (ite (modDie _ _ _) (retwControlPut _ _ _ _))
  case layc d => exact ite (refl s) (modDie _ _ _)
  case imem => exact setCore _ _ _
  case bypb => exact (modQuarter _ _ _).trans (Held.wantPass _ _).kept
  case lqc => exact lqcPut _ _ _ _
  all_goals
    dsimp only
    first | exact refl s | exact modDie _ _ _ | exact modQuarter _ _ _

theorem regStore (s : State) (a n : Nat) (v : DWord) : Kept s (regStore s a n v) := by
  unfold Machine.regStore
  dsimp only
  refine ite (refl s) (ite (refl s) ?_)
  split
  · exact due _ _
  · exact due _ _
  · exact due _ _
  · exact ite (due _ _) (regPut _ _ _)
  · exact ite (due _ _) (regPut _ _ _)
  · exact regPut _ _ _

/-! ### Loads, stores and atomics of a core (R294, R297) -/

/-- What an access of a core leaves of a state. -/
def Answers (s : State) : CoreMem → Prop
  | .wait t => Kept s t
  | .trap t _ => Kept s t
  | .ok t _ => Kept s t

theorem answers_ite {s : State} {a b : CoreMem} {p : Prop} [Decidable p] (ha : Answers s a) (hb : Answers s b) :
    Answers s (if p then a else b) := by
  split <;> assumption

theorem homeLoad (s : State) (a n : Nat) (e : Ecc) : Answers s (homeLoad s a n e) := by
  unfold Machine.homeLoad
  dsimp only
  have h : ∀ (ps : List (Nat × Nat)) (r : State × Bool), Stored s r.1 → Stored s (ps.foldl (fun r p =>
      ((homeTouch r.1 p.1 p.2 false).1, r.2 || (homeTouch r.1 p.1 p.2 false).2)) r).1 := by
    intro ps
    induction ps with
    | nil => exact fun _ h => h
    | cons p ps ih => exact fun r h => ih _ (h.trans (Stored.homeTouch _ _ _ _))
  have k := (h (pageCut a n) (if isDram a = true then eccOutcome s a e else eccStore s a e, decide (e = .uncorrectable))
    (Stored.ite (Stored.eccOutcome _ _ _) (Stored.eccStore _ _ _))).kept
  exact answers_ite (refl s) (answers_ite k k)

theorem askPeer (s : State) (c a : Nat) (p : PeerSt) (k : Ask) : Kept s (askPeer s c a p k).1 :=
  (((Held.by_ s _).stored.trans (Stored.task _ _)).trans (Stored.askRemote _ _ _ _ _)).kept

theorem peerValue {s u : State} (h : Kept s u) (a n : Nat) : Answers s (peerValue u a n) := answers_ite h h

theorem coreLoad (s : State) (c a n : Nat) (e : Ecc) : Answers s (coreLoad s c a n e) := by
  unfold Machine.coreLoad
  refine answers_ite (answers_ite (refl s) (answers_ite (refl s) (refl s))) (answers_ite ?_ ?_)
  · split
    · exact refl s
    · rename_i p _
      have h := askPeer s c a p (.read n)
      split <;> rename_i he <;> rw [he] at h
      · exact h
      · exact h
      · exact peerValue h _ _
  · exact answers_ite (homeLoad _ _ _ _) (refl s)

theorem coreStore (s : State) (c a n v : Nat) : Answers s (coreStore s c a n v) := by
  unfold Machine.coreStore
  refine answers_ite (answers_ite (refl s) (answers_ite (refl s) (due _ _))) (answers_ite ?_ ?_)
  · split
    · exact refl s
    · rename_i p _
      refine answers_ite (refl s) ?_
      have h := askPeer s c a p (.write (leBytes n v) false)
      split <;> rename_i he <;> rw [he] at h <;> exact h
  · exact answers_ite (refl s) (answers_ite (refl s) (Stored.homePut _ _ _).kept)

theorem coreAtomic (s : State) (c a n f v : Nat) (e : Ecc) : Answers s (coreAtomic s c a n f v e) := by
  unfold Machine.coreAtomic
  dsimp only
  refine answers_ite (refl s) (answers_ite ?_ (answers_ite (refl s) (answers_ite ?_ ?_)))
  · split
    · exact refl s
    · rename_i p _
      refine answers_ite (refl s) ?_
      have h := askPeer s c a p (.atomic (peerAtomic f) n (v % 2 ^ (8 * n)) 0)
      split <;> rename_i he <;> rw [he] at h
      · exact h
      · exact h
      · exact peerValue h _ _
  · exact answers_ite (refl s) (answers_ite ((Stored.homePut _ _ _).kept.trans (setCore _ _ _)) (setCore _ _ _))
  · have h := homeLoad s a n e
    split
    · rename_i he
      rw [he] at h
      exact answers_ite (trans h (setCore _ _ _)) (trans h (Stored.homeUpdate _ _ _).kept)
    · exact h

theorem coreMemDone (s : State) (c a len : Nat) (rd : BitVec 5) (form : Nat → DWord) (r : CoreMem) (h : Answers s r) :
    Kept s (coreMemDone c a len rd form r) := by
  cases r
  · exact h
  · exact trans h (takeTrap _ _ _ _)
  · exact trans h (setCore _ _ _)

theorem coreAccess (s : State) (c : Nat) (w : Word) (len : Nat) (e : Ecc) : Kept s (coreAccess s c w len e) := by
  unfold Machine.coreAccess
  dsimp only
  split
  · exact coreMemDone _ _ _ _ _ _ _ (coreLoad _ _ _ _ _)
  · exact coreMemDone _ _ _ _ _ _ _ (coreStore _ _ _ _ _)
  · exact coreMemDone _ _ _ _ _ _ _ (coreAtomic _ _ _ _ _ _ _)

theorem lapse (s : State) (q : Nat) : Kept s (lapse s q) := (modQuarter _ _ _).trans (Held.raiseCint _ _ _).kept

theorem imemTrap (s : State) (c : Nat) : Kept s (imemTrap s c) := by
  have h := fun u v : CoreSt => (setCore s c u).trans (takeTrap (s.setCore c u) c 24 v.pc)
  exact ite (((h _ _).trans (setCore _ _ _)).trans (lapse _ _)) (h _ (s.coreSt c))

theorem coreWord (s : State) (c : Nat) (w : Word) (len raw : Nat) : Kept s (coreWord s c w len raw) := by
  unfold Machine.coreWord
  dsimp only
  refine ite (refl s) (ite (ite (refl s) (takeTrap _ _ _ _)) ?_)
  split
  · exact takeTrap _ _ _ _
  · exact setCore _ _ _
  · exact takeTrap _ _ _ _

/-! ### Xpyraro instructions (R368, R370, R371) -/

/-- What the effect of an Xpyraro instruction leaves of a state. -/
def Gives (s : State) : XRes → Prop
  | .wait t => Kept s t
  | .trap t _ _ => Kept s t
  | .val t _ => Kept s t

theorem gives_ite {s : State} {a b : XRes} {p : Prop} [Decidable p] (ha : Gives s a) (hb : Gives s b) :
    Gives s (if p then a else b) := by
  split <;> assumption

/-- Running an instruction keeps what its effect keeps. -/
theorem xRun (s t : State) (i : Instr) (rd : BitVec 5) (ok : Bool) (r : XRes) (hr : Gives s r)
    (h : Machine.xRun s i rd ok r = .next t) : Kept s t := by
  unfold Machine.xRun at h
  cases h
  refine ite (refl s) (ite (takeTrap _ _ _ _) ?_)
  split
  · exact hr
  · exact trans hr (takeTrap _ _ _ _)
  · exact trans hr (setCore _ _ _)

theorem xRead (s : State) (a n : Nat) (k : State → List Byte → XRes) (hk : ∀ u bs, Gives u (k u bs)) :
    Gives s (xRead s a n k) := by
  unfold Machine.xRead
  have h := coreLoad s s.core a n .clean
  split
  · rename_i he
    rw [he] at h
    exact h
  · rename_i he
    rw [he] at h
    exact h
  · rename_i u v he
    rw [he] at h
    have g := hk u (leBytes n v)
    revert g
    cases k u (leBytes n v)
    all_goals exact fun g => trans h g

theorem xPush (s : State) (q n : Nat) (b : Bool) (r : List Byte) : Gives s (xPush s q n b r) := by
  unfold Machine.xPush
  dsimp only
  refine gives_ite (refl s) (gives_ite (refl s) ?_)
  have h := Stored.lqPush s q n r (coreStamp s s.core)
  exact ite ((h.trans (Stored.readOwn _ _ _ _)).trans (Stored.writeEntry _ _ _ _)).kept h.kept

end Kept

/-- What running an Xpyraro instruction does: nothing while the core does not run or takes its interrupt; the trap of an
illegal instruction where the core may not execute it; otherwise it waits, the trap of its effect, or its result in rd. -/
theorem xRun_cases (s : State) (i : Instr) (rd : BitVec 5) (ok : Bool) (r : XRes) :
    xRun s i rd ok r = .next s ∨ (∃ t, r = .wait t ∧ xRun s i rd ok r = .next t) ∧ ok = true ∨ xRun s i rd ok r = .next (takeTrap s s.core 2 (xWord i)) ∧ ok = false ∨
      ok = true ∧ ((∃ t n a, r = .trap t n a ∧ xRun s i rd ok r = .next (takeTrap t s.core n (BitVec.ofNat 64 a))) ∨
        ∃ t v, r = .val t v ∧ xRun s i rd ok r = .next (t.setCore s.core (((t.coreSt s.core).setReg rd v).retire 4))) := by
  unfold xRun
  dsimp only
  split
  · exact .inl rfl
  · cases ok
    · exact .inr (.inr (.inl ⟨rfl, rfl⟩))
    · cases r
      · exact .inr (.inl ⟨⟨_, rfl, rfl⟩, rfl⟩)
      · exact .inr (.inr (.inr ⟨rfl, .inl ⟨_, _, _, rfl, rfl⟩⟩))
      · exact .inr (.inr (.inr ⟨rfl, .inr ⟨_, _, rfl, rfl⟩⟩))

end Sys2Proof.Machine
end

