-- ==== Sys2Proof/Laws/PerInstr.lean ====
section
/-! SUPPORT. What the word of every instruction names, instruction by instruction: at most two targets (R80, R82), and no
latch read twice (R84, R124). -/

namespace Sys2Proof.Laws.Targets

open Sys2Proof.Machine

/-- At most two targets, and distinct latches. -/
def Statement (i : Instr) : Prop := (targetsOf i).length ≤ 2 ∧ (latchesRead i).Nodup

theorem add (w : Width) (p : Pred) (t1 t0 : Target) : Statement (.add w p t1 t0) := by
  cases p <;> exact ⟨of_decide_eq_true rfl, of_decide_eq_true rfl⟩

theorem sub (w : Width) (p : Pred) (t1 t0 : Target) : Statement (.sub w p t1 t0) := by
  cases p <;> exact ⟨of_decide_eq_true rfl, of_decide_eq_true rfl⟩

theorem adds (w : Width) (p : Pred) (t1 t0 : Target) : Statement (.adds w p t1 t0) := by
  cases p <;> exact ⟨of_decide_eq_true rfl, of_decide_eq_true rfl⟩

theorem addsU (w : Width) (p : Pred) (t1 t0 : Target) : Statement (.addsU w p t1 t0) := by
  cases p <;> exact ⟨of_decide_eq_true rfl, of_decide_eq_true rfl⟩

theorem subs (w : Width) (p : Pred) (t1 t0 : Target) : Statement (.subs w p t1 t0) := by
  cases p <;> exact ⟨of_decide_eq_true rfl, of_decide_eq_true rfl⟩

theorem subsU (w : Width) (p : Pred) (t1 t0 : Target) : Statement (.subsU w p t1 t0) := by
  cases p <;> exact ⟨of_decide_eq_true rfl, of_decide_eq_true rfl⟩

theorem addi (w : Width) (p : Pred) (i : BitVec 9) (t0 : Target) : Statement (.addi w p i t0) := by
  cases p <;> exact ⟨of_decide_eq_true rfl, of_decide_eq_true rfl⟩

theorem rsbi (w : Width) (p : Pred) (i : BitVec 9) (t0 : Target) : Statement (.rsbi w p i t0) := by
  cases p <;> exact ⟨of_decide_eq_true rfl, of_decide_eq_true rfl⟩

theorem and (w : Width) (p : Pred) (t1 t0 : Target) : Statement (.and w p t1 t0) := by
  cases p <;> exact ⟨of_decide_eq_true rfl, of_decide_eq_true rfl⟩

theorem or (w : Width) (p : Pred) (t1 t0 : Target) : Statement (.or w p t1 t0) := by
  cases p <;> exact ⟨of_decide_eq_true rfl, of_decide_eq_true rfl⟩

theorem xor (w : Width) (p : Pred) (t1 t0 : Target) : Statement (.xor w p t1 t0) := by
  cases p <;> exact ⟨of_decide_eq_true rfl, of_decide_eq_true rfl⟩

theorem andn (w : Width) (p : Pred) (t1 t0 : Target) : Statement (.andn w p t1 t0) := by
  cases p <;> exact ⟨of_decide_eq_true rfl, of_decide_eq_true rfl⟩

theorem not (w : Width) (p : Pred) (t1 t0 : Target) : Statement (.not w p t1 t0) := by
  cases p <;> exact ⟨of_decide_eq_true rfl, of_decide_eq_true rfl⟩

theorem shl (w : Width) (p : Pred) (t1 t0 : Target) : Statement (.shl w p t1 t0) := by
  cases p <;> exact ⟨of_decide_eq_true rfl, of_decide_eq_true rfl⟩

theorem shr (w : Width) (p : Pred) (t1 t0 : Target) : Statement (.shr w p t1 t0) := by
  cases p <;> exact ⟨of_decide_eq_true rfl, of_decide_eq_true rfl⟩

theorem shrA (w : Width) (p : Pred) (t1 t0 : Target) : Statement (.shrA w p t1 t0) := by
  cases p <;> exact ⟨of_decide_eq_true rfl, of_decide_eq_true rfl⟩

theorem rot (w : Width) (p : Pred) (t1 t0 : Target) : Statement (.rot w p t1 t0) := by
  cases p <;> exact ⟨of_decide_eq_true rfl, of_decide_eq_true rfl⟩

theorem shli (w : Width) (p : Pred) (i : BitVec 9) (t0 : Target) : Statement (.shli w p i t0) := by
  cases p <;> exact ⟨of_decide_eq_true rfl, of_decide_eq_true rfl⟩

theorem shri (w : Width) (p : Pred) (i : BitVec 9) (t0 : Target) : Statement (.shri w p i t0) := by
  cases p <;> exact ⟨of_decide_eq_true rfl, of_decide_eq_true rfl⟩

theorem shriA (w : Width) (p : Pred) (i : BitVec 9) (t0 : Target) : Statement (.shriA w p i t0) := by
  cases p <;> exact ⟨of_decide_eq_true rfl, of_decide_eq_true rfl⟩

theorem clz (w : Width) (p : Pred) (t1 t0 : Target) : Statement (.clz w p t1 t0) := by
  cases p <;> exact ⟨of_decide_eq_true rfl, of_decide_eq_true rfl⟩

theorem popc (w : Width) (p : Pred) (t1 t0 : Target) : Statement (.popc w p t1 t0) := by
  cases p <;> exact ⟨of_decide_eq_true rfl, of_decide_eq_true rfl⟩

theorem brev (w : Width) (p : Pred) (t1 t0 : Target) : Statement (.brev w p t1 t0) := by
  cases p <;> exact ⟨of_decide_eq_true rfl, of_decide_eq_true rfl⟩

theorem min (w : Width) (p : Pred) (t1 t0 : Target) : Statement (.min w p t1 t0) := by
  cases p <;> exact ⟨of_decide_eq_true rfl, of_decide_eq_true rfl⟩

theorem minU (w : Width) (p : Pred) (t1 t0 : Target) : Statement (.minU w p t1 t0) := by
  cases p <;> exact ⟨of_decide_eq_true rfl, of_decide_eq_true rfl⟩

theorem max (w : Width) (p : Pred) (t1 t0 : Target) : Statement (.max w p t1 t0) := by
  cases p <;> exact ⟨of_decide_eq_true rfl, of_decide_eq_true rfl⟩

theorem maxU (w : Width) (p : Pred) (t1 t0 : Target) : Statement (.maxU w p t1 t0) := by
  cases p <;> exact ⟨of_decide_eq_true rfl, of_decide_eq_true rfl⟩

theorem abs (w : Width) (p : Pred) (t1 t0 : Target) : Statement (.abs w p t1 t0) := by
  cases p <;> exact ⟨of_decide_eq_true rfl, of_decide_eq_true rfl⟩

theorem neg (w : Width) (p : Pred) (t1 t0 : Target) : Statement (.neg w p t1 t0) := by
  cases p <;> exact ⟨of_decide_eq_true rfl, of_decide_eq_true rfl⟩

theorem cmpEq (w : Width) (p : Pred) (t1 t0 : Target) : Statement (.cmpEq w p t1 t0) := by
  cases p <;> exact ⟨of_decide_eq_true rfl, of_decide_eq_true rfl⟩

theorem cmpNe (w : Width) (p : Pred) (t1 t0 : Target) : Statement (.cmpNe w p t1 t0) := by
  cases p <;> exact ⟨of_decide_eq_true rfl, of_decide_eq_true rfl⟩

theorem cmpLt (w : Width) (p : Pred) (t1 t0 : Target) : Statement (.cmpLt w p t1 t0) := by
  cases p <;> exact ⟨of_decide_eq_true rfl, of_decide_eq_true rfl⟩

theorem cmpLe (w : Width) (p : Pred) (t1 t0 : Target) : Statement (.cmpLe w p t1 t0) := by
  cases p <;> exact ⟨of_decide_eq_true rfl, of_decide_eq_true rfl⟩

theorem cmpLtu (w : Width) (p : Pred) (t1 t0 : Target) : Statement (.cmpLtu w p t1 t0) := by
  cases p <;> exact ⟨of_decide_eq_true rfl, of_decide_eq_true rfl⟩

theorem cmpLeu (w : Width) (p : Pred) (t1 t0 : Target) : Statement (.cmpLeu w p t1 t0) := by
  cases p <;> exact ⟨of_decide_eq_true rfl, of_decide_eq_true rfl⟩

theorem cmpiEq (w : Width) (p : Pred) (i : BitVec 9) (t0 : Target) : Statement (.cmpiEq w p i t0) := by
  cases p <;> exact ⟨of_decide_eq_true rfl, of_decide_eq_true rfl⟩

theorem cmpiNe (w : Width) (p : Pred) (i : BitVec 9) (t0 : Target) : Statement (.cmpiNe w p i t0) := by
  cases p <;> exact ⟨of_decide_eq_true rfl, of_decide_eq_true rfl⟩

theorem cmpiLt (w : Width) (p : Pred) (i : BitVec 9) (t0 : Target) : Statement (.cmpiLt w p i t0) := by
  cases p <;> exact ⟨of_decide_eq_true rfl, of_decide_eq_true rfl⟩

theorem cmpiLe (w : Width) (p : Pred) (i : BitVec 9) (t0 : Target) : Statement (.cmpiLe w p i t0) := by
  cases p <;> exact ⟨of_decide_eq_true rfl, of_decide_eq_true rfl⟩

theorem cmpiGt (w : Width) (p : Pred) (i : BitVec 9) (t0 : Target) : Statement (.cmpiGt w p i t0) := by
  cases p <;> exact ⟨of_decide_eq_true rfl, of_decide_eq_true rfl⟩

theorem cmpiGe (w : Width) (p : Pred) (i : BitVec 9) (t0 : Target) : Statement (.cmpiGe w p i t0) := by
  cases p <;> exact ⟨of_decide_eq_true rfl, of_decide_eq_true rfl⟩

theorem cmpiLtu (w : Width) (p : Pred) (i : BitVec 9) (t0 : Target) : Statement (.cmpiLtu w p i t0) := by
  cases p <;> exact ⟨of_decide_eq_true rfl, of_decide_eq_true rfl⟩

theorem cmpiLeu (w : Width) (p : Pred) (i : BitVec 9) (t0 : Target) : Statement (.cmpiLeu w p i t0) := by
  cases p <;> exact ⟨of_decide_eq_true rfl, of_decide_eq_true rfl⟩

theorem cmpiGtu (w : Width) (p : Pred) (i : BitVec 9) (t0 : Target) : Statement (.cmpiGtu w p i t0) := by
  cases p <;> exact ⟨of_decide_eq_true rfl, of_decide_eq_true rfl⟩

theorem cmpiGeu (w : Width) (p : Pred) (i : BitVec 9) (t0 : Target) : Statement (.cmpiGeu w p i t0) := by
  cases p <;> exact ⟨of_decide_eq_true rfl, of_decide_eq_true rfl⟩

theorem test (w : Width) (p : Pred) (t1 t0 : Target) : Statement (.test w p t1 t0) := by
  cases p <;> exact ⟨of_decide_eq_true rfl, of_decide_eq_true rfl⟩

theorem testZ (w : Width) (p : Pred) (t1 t0 : Target) : Statement (.testZ w p t1 t0) := by
  cases p <;> exact ⟨of_decide_eq_true rfl, of_decide_eq_true rfl⟩

theorem sel (w : Width) (t1 t0 : Target) : Statement (.sel w t1 t0) := by
  exact ⟨of_decide_eq_true rfl, of_decide_eq_true rfl⟩

theorem mov (w : Width) (p : Pred) (t1 t0 : Target) : Statement (.mov w p t1 t0) := by
  cases p <;> exact ⟨of_decide_eq_true rfl, of_decide_eq_true rfl⟩

theorem gens (i : BitVec 15) (t0 : Target) : Statement (.gens i t0) := by
  exact ⟨of_decide_eq_true rfl, of_decide_eq_true rfl⟩

theorem genu (i : BitVec 15) (t0 : Target) : Statement (.genu i t0) := by
  exact ⟨of_decide_eq_true rfl, of_decide_eq_true rfl⟩

theorem apph (i : BitVec 15) (t0 : Target) : Statement (.apph i t0) := by
  exact ⟨of_decide_eq_true rfl, of_decide_eq_true rfl⟩

theorem extr (w : Width) (p : Pred) (t1 t0 : Target) : Statement (.extr w p t1 t0) := by
  cases p <;> exact ⟨of_decide_eq_true rfl, of_decide_eq_true rfl⟩

theorem extrS (w : Width) (p : Pred) (t1 t0 : Target) : Statement (.extrS w p t1 t0) := by
  cases p <;> exact ⟨of_decide_eq_true rfl, of_decide_eq_true rfl⟩

theorem insf (w : Width) (t1 t0 : Target) : Statement (.insf w t1 t0) := by
  exact ⟨of_decide_eq_true rfl, of_decide_eq_true rfl⟩

theorem lea (w : Width) (p : Pred) (x : BitVec 2) (t1 t0 : Target) : Statement (.lea w p x t1 t0) := by
  cases p <;> exact ⟨of_decide_eq_true rfl, of_decide_eq_true rfl⟩

theorem addiS (w : Width) (p : Pred) (i : BitVec 9) (t0 : Target) : Statement (.addiS w p i t0) := by
  cases p <;> exact ⟨of_decide_eq_true rfl, of_decide_eq_true rfl⟩

theorem rsbiS (w : Width) (p : Pred) (i : BitVec 9) (t0 : Target) : Statement (.rsbiS w p i t0) := by
  cases p <;> exact ⟨of_decide_eq_true rfl, of_decide_eq_true rfl⟩

theorem absS (w : Width) (p : Pred) (t1 t0 : Target) : Statement (.absS w p t1 t0) := by
  cases p <;> exact ⟨of_decide_eq_true rfl, of_decide_eq_true rfl⟩

theorem negS (w : Width) (p : Pred) (t1 t0 : Target) : Statement (.negS w p t1 t0) := by
  cases p <;> exact ⟨of_decide_eq_true rfl, of_decide_eq_true rfl⟩

theorem kset (c : BitVec 3) (t1 t0 : Target) : Statement (.kset c t1 t0) := by
  exact ⟨of_decide_eq_true rfl, of_decide_eq_true rfl⟩

theorem knext (c : BitVec 3) (t1 t0 : Target) : Statement (.knext c t1 t0) := by
  exact ⟨of_decide_eq_true rfl, of_decide_eq_true rfl⟩

theorem klast (c : BitVec 3) (t1 t0 : Target) : Statement (.klast c t1 t0) := by
  exact ⟨of_decide_eq_true rfl, of_decide_eq_true rfl⟩

theorem kread (s : KSrc) (t1 t0 : Target) : Statement (.kread s t1 t0) := by
  exact ⟨of_decide_eq_true rfl, of_decide_eq_true rfl⟩

theorem fadd (f : FSel) (p : Pred) (t1 t0 : Target) : Statement (.fadd f p t1 t0) := by
  cases p <;> exact ⟨of_decide_eq_true rfl, of_decide_eq_true rfl⟩

theorem fsub (f : FSel) (p : Pred) (t1 t0 : Target) : Statement (.fsub f p t1 t0) := by
  cases p <;> exact ⟨of_decide_eq_true rfl, of_decide_eq_true rfl⟩

theorem fmul (f : FSel) (p : Pred) (t1 t0 : Target) : Statement (.fmul f p t1 t0) := by
  cases p <;> exact ⟨of_decide_eq_true rfl, of_decide_eq_true rfl⟩

theorem fmin (f : FKind) (p : Pred) (t1 t0 : Target) : Statement (.fmin f p t1 t0) := by
  cases p <;> exact ⟨of_decide_eq_true rfl, of_decide_eq_true rfl⟩

theorem fmax (f : FKind) (p : Pred) (t1 t0 : Target) : Statement (.fmax f p t1 t0) := by
  cases p <;> exact ⟨of_decide_eq_true rfl, of_decide_eq_true rfl⟩

theorem fabs (f : FKind) (p : Pred) (t1 t0 : Target) : Statement (.fabs f p t1 t0) := by
  cases p <;> exact ⟨of_decide_eq_true rfl, of_decide_eq_true rfl⟩

theorem fneg (f : FKind) (p : Pred) (t1 t0 : Target) : Statement (.fneg f p t1 t0) := by
  cases p <;> exact ⟨of_decide_eq_true rfl, of_decide_eq_true rfl⟩

theorem fcmpEq (f : FKind) (p : Pred) (t1 t0 : Target) : Statement (.fcmpEq f p t1 t0) := by
  cases p <;> exact ⟨of_decide_eq_true rfl, of_decide_eq_true rfl⟩

theorem fcmpNe (f : FKind) (p : Pred) (t1 t0 : Target) : Statement (.fcmpNe f p t1 t0) := by
  cases p <;> exact ⟨of_decide_eq_true rfl, of_decide_eq_true rfl⟩

theorem fcmpLt (f : FKind) (p : Pred) (t1 t0 : Target) : Statement (.fcmpLt f p t1 t0) := by
  cases p <;> exact ⟨of_decide_eq_true rfl, of_decide_eq_true rfl⟩

theorem fcmpLe (f : FKind) (p : Pred) (t1 t0 : Target) : Statement (.fcmpLe f p t1 t0) := by
  cases p <;> exact ⟨of_decide_eq_true rfl, of_decide_eq_true rfl⟩

theorem fcmpUn (f : FKind) (p : Pred) (t1 t0 : Target) : Statement (.fcmpUn f p t1 t0) := by
  cases p <;> exact ⟨of_decide_eq_true rfl, of_decide_eq_true rfl⟩

theorem frnd (f : FSel) (p : Pred) (t1 t0 : Target) : Statement (.frnd f p t1 t0) := by
  cases p <;> exact ⟨of_decide_eq_true rfl, of_decide_eq_true rfl⟩

theorem cvtIfSw (f : FSel) (p : Pred) (t1 t0 : Target) : Statement (.cvtIfSw f p t1 t0) := by
  cases p <;> exact ⟨of_decide_eq_true rfl, of_decide_eq_true rfl⟩

theorem cvtIfSd (f : FSel) (p : Pred) (t1 t0 : Target) : Statement (.cvtIfSd f p t1 t0) := by
  cases p <;> exact ⟨of_decide_eq_true rfl, of_decide_eq_true rfl⟩

theorem cvtIfUw (f : FSel) (p : Pred) (t1 t0 : Target) : Statement (.cvtIfUw f p t1 t0) := by
  cases p <;> exact ⟨of_decide_eq_true rfl, of_decide_eq_true rfl⟩

theorem cvtIfUd (f : FSel) (p : Pred) (t1 t0 : Target) : Statement (.cvtIfUd f p t1 t0) := by
  cases p <;> exact ⟨of_decide_eq_true rfl, of_decide_eq_true rfl⟩

theorem cvtFiSw (f : FSel) (p : Pred) (t1 t0 : Target) : Statement (.cvtFiSw f p t1 t0) := by
  cases p <;> exact ⟨of_decide_eq_true rfl, of_decide_eq_true rfl⟩

theorem cvtFiSd (f : FSel) (p : Pred) (t1 t0 : Target) : Statement (.cvtFiSd f p t1 t0) := by
  cases p <;> exact ⟨of_decide_eq_true rfl, of_decide_eq_true rfl⟩

theorem cvtFiUw (f : FSel) (p : Pred) (t1 t0 : Target) : Statement (.cvtFiUw f p t1 t0) := by
  cases p <;> exact ⟨of_decide_eq_true rfl, of_decide_eq_true rfl⟩

theorem cvtFiUd (f : FSel) (p : Pred) (t1 t0 : Target) : Statement (.cvtFiUd f p t1 t0) := by
  cases p <;> exact ⟨of_decide_eq_true rfl, of_decide_eq_true rfl⟩

theorem cvtFfF32 (f : FSel) (p : Pred) (t1 t0 : Target) : Statement (.cvtFfF32 f p t1 t0) := by
  cases p <;> exact ⟨of_decide_eq_true rfl, of_decide_eq_true rfl⟩

theorem cvtFfF16 (f : FSel) (p : Pred) (t1 t0 : Target) : Statement (.cvtFfF16 f p t1 t0) := by
  cases p <;> exact ⟨of_decide_eq_true rfl, of_decide_eq_true rfl⟩

theorem cvtFfBf16 (f : FSel) (p : Pred) (t1 t0 : Target) : Statement (.cvtFfBf16 f p t1 t0) := by
  cases p <;> exact ⟨of_decide_eq_true rfl, of_decide_eq_true rfl⟩

theorem cvtN (s : FKind) (d : Narrow) (t1 t0 : Target) : Statement (.cvtN s d t1 t0) := by
  exact ⟨of_decide_eq_true rfl, of_decide_eq_true rfl⟩

theorem cvtNW (s : NarrowF) (t1 t0 : Target) : Statement (.cvtNW s t1 t0) := by
  exact ⟨of_decide_eq_true rfl, of_decide_eq_true rfl⟩

theorem cvtNI (d : NarrowI) (t1 t0 : Target) : Statement (.cvtNI d t1 t0) := by
  exact ⟨of_decide_eq_true rfl, of_decide_eq_true rfl⟩

theorem mul (w : Width) (p : Pred) (t1 t0 : Target) : Statement (.mul w p t1 t0) := by
  cases p <;> exact ⟨of_decide_eq_true rfl, of_decide_eq_true rfl⟩

theorem mulh (w : Width) (p : Pred) (t1 t0 : Target) : Statement (.mulh w p t1 t0) := by
  cases p <;> exact ⟨of_decide_eq_true rfl, of_decide_eq_true rfl⟩

theorem mulhU (w : Width) (p : Pred) (t1 t0 : Target) : Statement (.mulhU w p t1 t0) := by
  cases p <;> exact ⟨of_decide_eq_true rfl, of_decide_eq_true rfl⟩

theorem facc (f : FSel) (t1 t0 : Target) : Statement (.facc f t1 t0) := by
  exact ⟨of_decide_eq_true rfl, of_decide_eq_true rfl⟩

theorem iacc (w : Width) (s : Bool) (t1 t0 : Target) : Statement (.iacc w s t1 t0) := by
  exact ⟨of_decide_eq_true rfl, of_decide_eq_true rfl⟩

theorem steer (t1 t0 : Target) : Statement (.steer t1 t0) := by
  exact ⟨of_decide_eq_true rfl, of_decide_eq_true rfl⟩

theorem merge (t1 t0 : Target) : Statement (.merge t1 t0) := by
  exact ⟨of_decide_eq_true rfl, of_decide_eq_true rfl⟩

theorem mergeRr (t1 t0 : Target) : Statement (.mergeRr t1 t0) := by
  exact ⟨of_decide_eq_true rfl, of_decide_eq_true rfl⟩

theorem carry (t1 t0 : Target) : Statement (.carry t1 t0) := by
  exact ⟨of_decide_eq_true rfl, of_decide_eq_true rfl⟩

theorem carryI (i : BitVec 9) (t0 : Target) : Statement (.carryI i t0) := by
  exact ⟨of_decide_eq_true rfl, of_decide_eq_true rfl⟩

theorem invar (t1 t0 : Target) : Statement (.invar t1 t0) := by
  exact ⟨of_decide_eq_true rfl, of_decide_eq_true rfl⟩

theorem gate (t1 t0 : Target) : Statement (.gate t1 t0) := by
  exact ⟨of_decide_eq_true rfl, of_decide_eq_true rfl⟩

theorem sinkA (t1 t0 : Target) : Statement (.sinkA t1 t0) := by
  exact ⟨of_decide_eq_true rfl, of_decide_eq_true rfl⟩

theorem ordj (t1 t0 : Target) : Statement (.ordj t1 t0) := by
  exact ⟨of_decide_eq_true rfl, of_decide_eq_true rfl⟩

theorem eos (p : Pred) (t1 t0 : Target) : Statement (.eos p t1 t0) := by
  cases p <;> exact ⟨of_decide_eq_true rfl, of_decide_eq_true rfl⟩

theorem eosI (p : Pred) (i : BitVec 9) (t0 : Target) : Statement (.eosI p i t0) := by
  cases p <;> exact ⟨of_decide_eq_true rfl, of_decide_eq_true rfl⟩

theorem eot (p : Pred) (t1 t0 : Target) : Statement (.eot p t1 t0) := by
  cases p <;> exact ⟨of_decide_eq_true rfl, of_decide_eq_true rfl⟩

theorem eotI (p : Pred) (i : BitVec 9) (t0 : Target) : Statement (.eotI p i t0) := by
  cases p <;> exact ⟨of_decide_eq_true rfl, of_decide_eq_true rfl⟩

theorem mark (p : Pred) (t1 t0 : Target) : Statement (.mark p t1 t0) := by
  cases p <;> exact ⟨of_decide_eq_true rfl, of_decide_eq_true rfl⟩

theorem markI (p : Pred) (i : BitVec 9) (t0 : Target) : Statement (.markI p i t0) := by
  cases p <;> exact ⟨of_decide_eq_true rfl, of_decide_eq_true rfl⟩

theorem div (w : Width) (p : Pred) (t1 t0 : Target) : Statement (.div w p t1 t0) := by
  cases p <;> exact ⟨of_decide_eq_true rfl, of_decide_eq_true rfl⟩

theorem divU (w : Width) (p : Pred) (t1 t0 : Target) : Statement (.divU w p t1 t0) := by
  cases p <;> exact ⟨of_decide_eq_true rfl, of_decide_eq_true rfl⟩

theorem rem (w : Width) (p : Pred) (t1 t0 : Target) : Statement (.rem w p t1 t0) := by
  cases p <;> exact ⟨of_decide_eq_true rfl, of_decide_eq_true rfl⟩

theorem remU (w : Width) (p : Pred) (t1 t0 : Target) : Statement (.remU w p t1 t0) := by
  cases p <;> exact ⟨of_decide_eq_true rfl, of_decide_eq_true rfl⟩

theorem fdiv (f : FSel) (p : Pred) (t1 t0 : Target) : Statement (.fdiv f p t1 t0) := by
  cases p <;> exact ⟨of_decide_eq_true rfl, of_decide_eq_true rfl⟩

theorem fsqrt (f : FSel) (p : Pred) (t1 t0 : Target) : Statement (.fsqrt f p t1 t0) := by
  cases p <;> exact ⟨of_decide_eq_true rfl, of_decide_eq_true rfl⟩

theorem ctnOpen (t1 t0 : Target) : Statement (.ctnOpen t1 t0) := by
  exact ⟨of_decide_eq_true rfl, of_decide_eq_true rfl⟩

theorem ctnClose (t1 t0 : Target) : Statement (.ctnClose t1 t0) := by
  exact ⟨of_decide_eq_true rfl, of_decide_eq_true rfl⟩

theorem trap (p : Pred) (i : BitVec 9) (t0 : Target) : Statement (.trap p i t0) := by
  cases p <;> exact ⟨of_decide_eq_true rfl, of_decide_eq_true rfl⟩

theorem trapV (p : Pred) (t1 t0 : Target) : Statement (.trapV p t1 t0) := by
  cases p <;> exact ⟨of_decide_eq_true rfl, of_decide_eq_true rfl⟩

theorem halt (g : Bool) : Statement (.halt g) := by
  exact ⟨of_decide_eq_true rfl, of_decide_eq_true rfl⟩

theorem sysRd (r : SysReg) (t1 t0 : Target) : Statement (.sysRd r t1 t0) := by
  exact ⟨of_decide_eq_true rfl, of_decide_eq_true rfl⟩

theorem sysWr (r : SysReg) (t1 t0 : Target) : Statement (.sysWr r t1 t0) := by
  exact ⟨of_decide_eq_true rfl, of_decide_eq_true rfl⟩

theorem sysRdA (d : Bool) (p : Pred) (t1 t0 : Target) : Statement (.sysRdA d p t1 t0) := by
  cases p <;> exact ⟨of_decide_eq_true rfl, of_decide_eq_true rfl⟩

theorem sysWrA (d : Bool) (p : Pred) (t1 t0 : Target) : Statement (.sysWrA d p t1 t0) := by
  cases p <;> exact ⟨of_decide_eq_true rfl, of_decide_eq_true rfl⟩

theorem ld (w : Width) (p : Pred) (e s : Bool) (t1 t0 : Target) : Statement (.ld w p e s t1 t0) := by
  cases p <;> exact ⟨of_decide_eq_true rfl, of_decide_eq_true rfl⟩

theorem ldb (p : Pred) (e s : Bool) (t1 t0 : Target) : Statement (.ldb p e s t1 t0) := by
  cases p <;> exact ⟨of_decide_eq_true rfl, of_decide_eq_true rfl⟩

theorem st (w : Width) (p : Pred) (t1 t0 : Target) : Statement (.st w p t1 t0) := by
  cases p <;> exact ⟨of_decide_eq_true rfl, of_decide_eq_true rfl⟩

theorem stb (t1 t0 : Target) : Statement (.stb t1 t0) := by
  exact ⟨of_decide_eq_true rfl, of_decide_eq_true rfl⟩

theorem pld (d : Bool) (p : Pred) (t1 t0 : Target) : Statement (.pld d p t1 t0) := by
  cases p <;> exact ⟨of_decide_eq_true rfl, of_decide_eq_true rfl⟩

theorem pst (d : Bool) (t1 t0 : Target) : Statement (.pst d t1 t0) := by
  exact ⟨of_decide_eq_true rfl, of_decide_eq_true rfl⟩

theorem step (s : BitVec 6) (t1 t0 : Target) : Statement (.step s t1 t0) := by
  exact ⟨of_decide_eq_true rfl, of_decide_eq_true rfl⟩

theorem acqX (p : Pred) (g : BitVec 8) (t0 : Target) : Statement (.acqX p g t0) := by
  cases p <;> exact ⟨of_decide_eq_true rfl, of_decide_eq_true rfl⟩

theorem acqS (p : Pred) (g : BitVec 8) (t0 : Target) : Statement (.acqS p g t0) := by
  cases p <;> exact ⟨of_decide_eq_true rfl, of_decide_eq_true rfl⟩

theorem rel (p : Pred) (g : BitVec 8) (t0 : Target) : Statement (.rel p g t0) := by
  cases p <;> exact ⟨of_decide_eq_true rfl, of_decide_eq_true rfl⟩

theorem fenceF (t1 t0 : Target) : Statement (.fenceF t1 t0) := by
  exact ⟨of_decide_eq_true rfl, of_decide_eq_true rfl⟩

theorem fenceD (t1 t0 : Target) : Statement (.fenceD t1 t0) := by
  exact ⟨of_decide_eq_true rfl, of_decide_eq_true rfl⟩

theorem fenceP (t1 t0 : Target) : Statement (.fenceP t1 t0) := by
  exact ⟨of_decide_eq_true rfl, of_decide_eq_true rfl⟩

theorem fenceS (t1 t0 : Target) : Statement (.fenceS t1 t0) := by
  exact ⟨of_decide_eq_true rfl, of_decide_eq_true rfl⟩

theorem amoAdd (d : Bool) (p : Pred) (t1 t0 : Target) : Statement (.amoAdd d p t1 t0) := by
  cases p <;> exact ⟨of_decide_eq_true rfl, of_decide_eq_true rfl⟩

theorem amoFadd (p : Pred) (t1 t0 : Target) : Statement (.amoFadd p t1 t0) := by
  cases p <;> exact ⟨of_decide_eq_true rfl, of_decide_eq_true rfl⟩

theorem amoMin (d : Bool) (p : Pred) (u : Bool) (t1 t0 : Target) : Statement (.amoMin d p u t1 t0) := by
  cases p <;> exact ⟨of_decide_eq_true rfl, of_decide_eq_true rfl⟩

theorem amoMax (d : Bool) (p : Pred) (u : Bool) (t1 t0 : Target) : Statement (.amoMax d p u t1 t0) := by
  cases p <;> exact ⟨of_decide_eq_true rfl, of_decide_eq_true rfl⟩

theorem amoAnd (d : Bool) (p : Pred) (t1 t0 : Target) : Statement (.amoAnd d p t1 t0) := by
  cases p <;> exact ⟨of_decide_eq_true rfl, of_decide_eq_true rfl⟩

theorem amoOr (d : Bool) (p : Pred) (t1 t0 : Target) : Statement (.amoOr d p t1 t0) := by
  cases p <;> exact ⟨of_decide_eq_true rfl, of_decide_eq_true rfl⟩

theorem amoXor (d : Bool) (p : Pred) (t1 t0 : Target) : Statement (.amoXor d p t1 t0) := by
  cases p <;> exact ⟨of_decide_eq_true rfl, of_decide_eq_true rfl⟩

theorem amoSwap (d : Bool) (p : Pred) (t1 t0 : Target) : Statement (.amoSwap d p t1 t0) := by
  cases p <;> exact ⟨of_decide_eq_true rfl, of_decide_eq_true rfl⟩

theorem amoCas (d : Bool) (t1 t0 : Target) : Statement (.amoCas d t1 t0) := by
  exact ⟨of_decide_eq_true rfl, of_decide_eq_true rfl⟩

theorem redAdd (d : Bool) (p : Pred) (t1 t0 : Target) : Statement (.redAdd d p t1 t0) := by
  cases p <;> exact ⟨of_decide_eq_true rfl, of_decide_eq_true rfl⟩

theorem redFadd (p : Pred) (t1 t0 : Target) : Statement (.redFadd p t1 t0) := by
  cases p <;> exact ⟨of_decide_eq_true rfl, of_decide_eq_true rfl⟩

theorem redMin (d : Bool) (p : Pred) (u : Bool) (t1 t0 : Target) : Statement (.redMin d p u t1 t0) := by
  cases p <;> exact ⟨of_decide_eq_true rfl, of_decide_eq_true rfl⟩

theorem redMax (d : Bool) (p : Pred) (u : Bool) (t1 t0 : Target) : Statement (.redMax d p u t1 t0) := by
  cases p <;> exact ⟨of_decide_eq_true rfl, of_decide_eq_true rfl⟩

theorem redAnd (d : Bool) (p : Pred) (t1 t0 : Target) : Statement (.redAnd d p t1 t0) := by
  cases p <;> exact ⟨of_decide_eq_true rfl, of_decide_eq_true rfl⟩

theorem redOr (d : Bool) (p : Pred) (t1 t0 : Target) : Statement (.redOr d p t1 t0) := by
  cases p <;> exact ⟨of_decide_eq_true rfl, of_decide_eq_true rfl⟩

theorem pref (p : Pred) (e l : Bool) : Statement (.pref p e l) := by
  cases p <;> exact ⟨of_decide_eq_true rfl, of_decide_eq_true rfl⟩

theorem retain (t1 t0 : Target) : Statement (.retain t1 t0) := by
  exact ⟨of_decide_eq_true rfl, of_decide_eq_true rfl⟩

theorem unpin (t1 t0 : Target) : Statement (.unpin t1 t0) := by
  exact ⟨of_decide_eq_true rfl, of_decide_eq_true rfl⟩

theorem flush (p : Pred) (d : Bool) (t1 t0 : Target) : Statement (.flush p d t1 t0) := by
  cases p <;> exact ⟨of_decide_eq_true rfl, of_decide_eq_true rfl⟩

theorem mxCfg (m : BitVec 4) (t1 t0 : Target) : Statement (.mxCfg m t1 t0) := by
  exact ⟨of_decide_eq_true rfl, of_decide_eq_true rfl⟩

theorem mxGath (t1 t0 : Target) : Statement (.mxGath t1 t0) := by
  exact ⟨of_decide_eq_true rfl, of_decide_eq_true rfl⟩

theorem mxBb (m : BitVec 4) (t1 t0 : Target) : Statement (.mxBb m t1 t0) := by
  exact ⟨of_decide_eq_true rfl, of_decide_eq_true rfl⟩

theorem mxMma (m : BitVec 4) (t1 t0 : Target) : Statement (.mxMma m t1 t0) := by
  exact ⟨of_decide_eq_true rfl, of_decide_eq_true rfl⟩

theorem mxZero (m : BitVec 4) (t1 t0 : Target) : Statement (.mxZero m t1 t0) := by
  exact ⟨of_decide_eq_true rfl, of_decide_eq_true rfl⟩

theorem mxEpi (d : Bool) (m : BitVec 2) (t1 t0 : Target) : Statement (.mxEpi d m t1 t0) := by
  cases d <;> exact ⟨of_decide_eq_true rfl, of_decide_eq_true rfl⟩

theorem mxCpy (d : Bool) (m : BitVec 2) (t1 t0 : Target) : Statement (.mxCpy d m t1 t0) := by
  exact ⟨of_decide_eq_true rfl, of_decide_eq_true rfl⟩

theorem cpyHead (c : BitVec 2) (t1 t0 : Target) : Statement (.cpyHead c t1 t0) := by
  exact ⟨of_decide_eq_true rfl, of_decide_eq_true rfl⟩

theorem cpyStat (d : Bool) (m : BitVec 2) (t1 t0 : Target) : Statement (.cpyStat d m t1 t0) := by
  exact ⟨of_decide_eq_true rfl, of_decide_eq_true rfl⟩

theorem wlkCfg (t1 t0 : Target) : Statement (.wlkCfg t1 t0) := by
  exact ⟨of_decide_eq_true rfl, of_decide_eq_true rfl⟩

theorem wlkGo (e : Bool) (t1 t0 : Target) : Statement (.wlkGo e t1 t0) := by
  exact ⟨of_decide_eq_true rfl, of_decide_eq_true rfl⟩

theorem qfence (p : Pred) (t1 t0 : Target) : Statement (.qfence p t1 t0) := by
  cases p <;> exact ⟨of_decide_eq_true rfl, of_decide_eq_true rfl⟩

theorem bufWait (d : Bool) (m : BitVec 2) (t1 t0 : Target) : Statement (.bufWait d m t1 t0) := by
  exact ⟨of_decide_eq_true rfl, of_decide_eq_true rfl⟩

theorem bufRel (t1 t0 : Target) : Statement (.bufRel t1 t0) := by
  exact ⟨of_decide_eq_true rfl, of_decide_eq_true rfl⟩

theorem bufStat (t1 t0 : Target) : Statement (.bufStat t1 t0) := by
  exact ⟨of_decide_eq_true rfl, of_decide_eq_true rfl⟩

theorem spawn (s : BitVec 6) (t1 t0 : Target) : Statement (.spawn s t1 t0) := by
  exact ⟨of_decide_eq_true rfl, of_decide_eq_true rfl⟩

theorem slen (l : BitVec 3) (t1 t0 : Target) : Statement (.slen l t1 t0) := by
  exact ⟨of_decide_eq_true rfl, of_decide_eq_true rfl⟩

theorem sld (z : BitVec 5) (t1 t0 : Target) : Statement (.sld z t1 t0) := by
  exact ⟨of_decide_eq_true rfl, of_decide_eq_true rfl⟩

theorem sst (z : BitVec 5) (t1 t0 : Target) : Statement (.sst z t1 t0) := by
  exact ⟨of_decide_eq_true rfl, of_decide_eq_true rfl⟩

theorem sgen (z : BitVec 5) (t1 t0 : Target) : Statement (.sgen z t1 t0) := by
  exact ⟨of_decide_eq_true rfl, of_decide_eq_true rfl⟩

theorem sand (zd za zb : BitVec 5) (t0 : Target) : Statement (.sand zd za zb t0) := by
  exact ⟨of_decide_eq_true rfl, of_decide_eq_true rfl⟩

theorem sor (zd za zb : BitVec 5) (t0 : Target) : Statement (.sor zd za zb t0) := by
  exact ⟨of_decide_eq_true rfl, of_decide_eq_true rfl⟩

theorem sxor (zd za zb : BitVec 5) (t0 : Target) : Statement (.sxor zd za zb t0) := by
  exact ⟨of_decide_eq_true rfl, of_decide_eq_true rfl⟩

theorem snot (zd za : BitVec 5) (t0 : Target) : Statement (.snot zd za t0) := by
  exact ⟨of_decide_eq_true rfl, of_decide_eq_true rfl⟩

theorem smux (zd za zb : BitVec 5) (t0 : Target) : Statement (.smux zd za zb t0) := by
  exact ⟨of_decide_eq_true rfl, of_decide_eq_true rfl⟩

theorem smin (zd za zb : BitVec 5) (t0 : Target) : Statement (.smin zd za zb t0) := by
  exact ⟨of_decide_eq_true rfl, of_decide_eq_true rfl⟩

theorem smax (zd za zb : BitVec 5) (t0 : Target) : Statement (.smax zd za zb t0) := by
  exact ⟨of_decide_eq_true rfl, of_decide_eq_true rfl⟩

theorem scnt (z : BitVec 5) (t1 t0 : Target) : Statement (.scnt z t1 t0) := by
  exact ⟨of_decide_eq_true rfl, of_decide_eq_true rfl⟩

theorem scntA (z : BitVec 5) (t1 t0 : Target) : Statement (.scntA z t1 t0) := by
  exact ⟨of_decide_eq_true rfl, of_decide_eq_true rfl⟩

theorem scvt (z : BitVec 5) (t1 t0 : Target) : Statement (.scvt z t1 t0) := by
  exact ⟨of_decide_eq_true rfl, of_decide_eq_true rfl⟩

theorem sregen (zd zs : BitVec 5) (g : BitVec 4) (t0 : Target) : Statement (.sregen zd zs g t0) := by
  exact ⟨of_decide_eq_true rfl, of_decide_eq_true rfl⟩

theorem smov (zd za : BitVec 5) (t0 : Target) : Statement (.smov zd za t0) := by
  exact ⟨of_decide_eq_true rfl, of_decide_eq_true rfl⟩

theorem xlnch (rd rs1 rs2 : BitVec 5) : Statement (.xlnch rd rs1 rs2) := by
  exact ⟨of_decide_eq_true rfl, of_decide_eq_true rfl⟩

theorem xkscan (rd rs1 : BitVec 5) : Statement (.xkscan rd rs1) := by
  exact ⟨of_decide_eq_true rfl, of_decide_eq_true rfl⟩

theorem xqpri (rd rs1 rs2 : BitVec 5) : Statement (.xqpri rd rs1 rs2) := by
  exact ⟨of_decide_eq_true rfl, of_decide_eq_true rfl⟩

theorem xqstat (rd rs1 : BitVec 5) : Statement (.xqstat rd rs1) := by
  exact ⟨of_decide_eq_true rfl, of_decide_eq_true rfl⟩

theorem xfltPop (rd rs1 : BitVec 5) : Statement (.xfltPop rd rs1) := by
  exact ⟨of_decide_eq_true rfl, of_decide_eq_true rfl⟩

theorem xfltRes (rd rs1 rs2 : BitVec 5) : Statement (.xfltRes rd rs1 rs2) := by
  exact ⟨of_decide_eq_true rfl, of_decide_eq_true rfl⟩

theorem xjnlW (rd rs1 : BitVec 5) : Statement (.xjnlW rd rs1) := by
  exact ⟨of_decide_eq_true rfl, of_decide_eq_true rfl⟩

theorem xhbt (rs1 : BitVec 5) : Statement (.xhbt rs1) := by
  exact ⟨of_decide_eq_true rfl, of_decide_eq_true rfl⟩

theorem xtake (rd : BitVec 5) : Statement (.xtake rd) := by
  exact ⟨of_decide_eq_true rfl, of_decide_eq_true rfl⟩

theorem xpartQsc (rd rs1 : BitVec 5) : Statement (.xpartQsc rd rs1) := by
  exact ⟨of_decide_eq_true rfl, of_decide_eq_true rfl⟩

theorem xpartIl (rd rs1 rs2 : BitVec 5) : Statement (.xpartIl rd rs1 rs2) := by
  exact ⟨of_decide_eq_true rfl, of_decide_eq_true rfl⟩

theorem xpartBnd (rd rs1 rs2 : BitVec 5) : Statement (.xpartBnd rd rs1 rs2) := by
  exact ⟨of_decide_eq_true rfl, of_decide_eq_true rfl⟩

theorem xpartSd (rd rs1 : BitVec 5) : Statement (.xpartSd rd rs1) := by
  exact ⟨of_decide_eq_true rfl, of_decide_eq_true rfl⟩

theorem xpartCommit (rd rs1 : BitVec 5) : Statement (.xpartCommit rd rs1) := by
  exact ⟨of_decide_eq_true rfl, of_decide_eq_true rfl⟩

theorem xsigVer (rd rs1 : BitVec 5) : Statement (.xsigVer rd rs1) := by
  exact ⟨of_decide_eq_true rfl, of_decide_eq_true rfl⟩

theorem xrdCnt (rd rs1 : BitVec 5) : Statement (.xrdCnt rd rs1) := by
  exact ⟨of_decide_eq_true rfl, of_decide_eq_true rfl⟩

theorem controlCoreAccess (c : Nat) (e : Ecc) : Statement (.controlCoreAccess c e) := by
  exact ⟨of_decide_eq_true rfl, of_decide_eq_true rfl⟩

theorem registerWrite (pa n : Nat) (v : DWord) : Statement (.registerWrite pa n v) := by
  exact ⟨of_decide_eq_true rfl, of_decide_eq_true rfl⟩

theorem lqcWrite (q n : Nat) (v : DWord) : Statement (.lqcWrite q n v) := by
  exact ⟨of_decide_eq_true rfl, of_decide_eq_true rfl⟩

theorem crpWrite (q : Nat) (v : DWord) : Statement (.crpWrite q v) := by
  exact ⟨of_decide_eq_true rfl, of_decide_eq_true rfl⟩

theorem jnpWrite (q : Nat) (v : DWord) : Statement (.jnpWrite q v) := by
  exact ⟨of_decide_eq_true rfl, of_decide_eq_true rfl⟩

theorem retwControlWrite (d k : Nat) (v : DWord) : Statement (.retwControlWrite d k v) := by
  exact ⟨of_decide_eq_true rfl, of_decide_eq_true rfl⟩

theorem laycGo (d : Nat) (v : DWord) : Statement (.laycGo d v) := by
  exact ⟨of_decide_eq_true rfl, of_decide_eq_true rfl⟩

theorem relayoutComplete (d : Nat) : Statement (.relayoutComplete d) := by
  exact ⟨of_decide_eq_true rfl, of_decide_eq_true rfl⟩

theorem moduleReset (a : BringUp) : Statement (.moduleReset a) := by
  exact ⟨of_decide_eq_true rfl, of_decide_eq_true rfl⟩

theorem ueLinkTraining (d k : Nat) (lanes : BitVec 8) : Statement (.ueLinkTraining d k lanes) := by
  exact ⟨of_decide_eq_true rfl, of_decide_eq_true rfl⟩

theorem voltageClassChange (f : Nat) (c : VClass) : Statement (.voltageClassChange f c) := by
  exact ⟨of_decide_eq_true rfl, of_decide_eq_true rfl⟩

theorem arbiterPass (q : Nat) : Statement (.arbiterPass q) := by
  exact ⟨of_decide_eq_true rfl, of_decide_eq_true rfl⟩

theorem spawnNodePush (g n : Nat) : Statement (.spawnNodePush g n) := by
  exact ⟨of_decide_eq_true rfl, of_decide_eq_true rfl⟩

theorem nodeDone (g n : Nat) : Statement (.nodeDone g n) := by
  exact ⟨of_decide_eq_true rfl, of_decide_eq_true rfl⟩

theorem sectionLoad (g n : Nat) : Statement (.sectionLoad g n) := by
  exact ⟨of_decide_eq_true rfl, of_decide_eq_true rfl⟩

theorem entryTokenDelivery (g n ep : Nat) : Statement (.entryTokenDelivery g n ep) := by
  exact ⟨of_decide_eq_true rfl, of_decide_eq_true rfl⟩

theorem sectionDone (g n : Nat) : Statement (.sectionDone g n) := by
  exact ⟨of_decide_eq_true rfl, of_decide_eq_true rfl⟩

theorem deferredStart (x : Nat) : Statement (.deferredStart x) := by
  exact ⟨of_decide_eq_true rfl, of_decide_eq_true rfl⟩

theorem overrunCapture (x : Nat) : Statement (.overrunCapture x) := by
  exact ⟨of_decide_eq_true rfl, of_decide_eq_true rfl⟩

theorem resultDelivery (x : Nat) : Statement (.resultDelivery x) := by
  exact ⟨of_decide_eq_true rfl, of_decide_eq_true rfl⟩

theorem checkerMismatch (x : Nat) (again : Bool) : Statement (.checkerMismatch x again) := by
  exact ⟨of_decide_eq_true rfl, of_decide_eq_true rfl⟩

theorem translationWalk (x : Nat) : Statement (.translationWalk x) := by
  exact ⟨of_decide_eq_true rfl, of_decide_eq_true rfl⟩

theorem memoryAccessPerformed (x k : Nat) (e : Ecc) : Statement (.memoryAccessPerformed x k e) := by
  exact ⟨of_decide_eq_true rfl, of_decide_eq_true rfl⟩

theorem leakTick (d k : Nat) : Statement (.leakTick d k) := by
  exact ⟨of_decide_eq_true rfl, of_decide_eq_true rfl⟩

theorem guardGrant (g n : Nat) : Statement (.guardGrant g n) := by
  exact ⟨of_decide_eq_true rfl, of_decide_eq_true rfl⟩

theorem stepSwap (g n : Nat) : Statement (.stepSwap g n) := by
  exact ⟨of_decide_eq_true rfl, of_decide_eq_true rfl⟩

theorem engineCommandPerformed (f q k : Nat) : Statement (.engineCommandPerformed f q k) := by
  exact ⟨of_decide_eq_true rfl, of_decide_eq_true rfl⟩

theorem msuCommandPerformed (f : Nat) : Statement (.msuCommandPerformed f) := by
  exact ⟨of_decide_eq_true rfl, of_decide_eq_true rfl⟩

theorem sldSecondPlace (f k : Nat) : Statement (.sldSecondPlace f k) := by
  exact ⟨of_decide_eq_true rfl, of_decide_eq_true rfl⟩

theorem copyRecord (f k : Nat) : Statement (.copyRecord f k) := by
  exact ⟨of_decide_eq_true rfl, of_decide_eq_true rfl⟩

theorem watchdog (g n : Nat) : Statement (.watchdog g n) := by
  exact ⟨of_decide_eq_true rfl, of_decide_eq_true rfl⟩

theorem tlimExpiry (g n : Nat) : Statement (.tlimExpiry g n) := by
  exact ⟨of_decide_eq_true rfl, of_decide_eq_true rfl⟩

theorem completionPost (q : Nat) : Statement (.completionPost q) := by
  exact ⟨of_decide_eq_true rfl, of_decide_eq_true rfl⟩

theorem remoteResponse (k err : Nat) (v : Report) : Statement (.remoteResponse k err v) := by
  exact ⟨of_decide_eq_true rfl, of_decide_eq_true rfl⟩

theorem inboundRemoteAccess (d k : Nat) (a : Inbound) : Statement (.inboundRemoteAccess d k a) := by
  exact ⟨of_decide_eq_true rfl, of_decide_eq_true rfl⟩

theorem controlCoreInstruction (c : Nat) (e : Ecc) : Statement (.controlCoreInstruction c e) := by
  exact ⟨of_decide_eq_true rfl, of_decide_eq_true rfl⟩

theorem ghlFlitRetry (d k : Nat) : Statement (.ghlFlitRetry d k) := by
  exact ⟨of_decide_eq_true rfl, of_decide_eq_true rfl⟩

theorem uncorrectableCodeword (d k : Nat) : Statement (.uncorrectableCodeword d k) := by
  exact ⟨of_decide_eq_true rfl, of_decide_eq_true rfl⟩

theorem sink : Statement (.sink) := by
  exact ⟨of_decide_eq_true rfl, of_decide_eq_true rfl⟩

theorem nop : Statement (.nop) := by
  exact ⟨of_decide_eq_true rfl, of_decide_eq_true rfl⟩

theorem gcycSyncFlit : Statement (.gcycSyncFlit) := by
  exact ⟨of_decide_eq_true rfl, of_decide_eq_true rfl⟩

theorem heartbeatLapse : Statement (.heartbeatLapse) := by
  exact ⟨of_decide_eq_true rfl, of_decide_eq_true rfl⟩

theorem remoteTimeout : Statement (.remoteTimeout) := by
  exact ⟨of_decide_eq_true rfl, of_decide_eq_true rfl⟩

end Sys2Proof.Laws.Targets
end

