-- ==== Sys2Proof/Tests/Slice0.lean ====
section
/-! SUPPORT. Tests of words and single steps, with expected results from the spec or worked by hand from its rules; and for
every statement of Certificates/Slice0/Obligations.lean, a state and operands that meet its hypotheses, clause by clause. -/

set_option maxRecDepth 100000
set_option Elab.async false

namespace Sys2Proof.Tests

open Sys2Proof Sys2Proof.Machine Sys2Proof.Claims

/-! ### Ill-formed terms are refused -/

theorem test_wf_shli : wellFormed (.shli .byte .always 8 .none) = false := by decide
theorem test_wf_shri : wellFormed (.shri .half .always 16 .none) = false := by decide
theorem test_wf_shri_a : wellFormed (.shriA .dword .always 64 .none) = false := by decide
theorem test_wf_ld : wellFormed (.ld .dword .always false true .none .none) = false := by decide
theorem test_wf_steer : wellFormed (.steer .none (.port 1)) = false ∧ wellFormed (.steer (.port 1) .none) = false := by decide
theorem test_wf_sys_wr : wellFormed (.sysWr .gcyc .none .none) = false ∧ wellFormed (.sysWr (.meConfig 1) .none .none) = false ∧
    wellFormed (.sysWr .ctnst .none .none) = false ∧ wellFormed (.sysWr (.crec 0) .none .none) = false := by decide
theorem test_wf_mx_cfg : wellFormed (.mxCfg 0 .none .none) = false := by decide
theorem test_wf_mx_bb : wellFormed (.mxBb 0 .none .none) = false := by decide
theorem test_wf_mx_mma : wellFormed (.mxMma 0 .none .none) = false := by decide
theorem test_wf_mx_zero : wellFormed (.mxZero 0 .none .none) = false := by decide
theorem test_wf_buf_wait : wellFormed (.bufWait true 1 .none .none) = false ∧ wellFormed (.bufWait true 2 .none .none) = true := by
  decide
theorem test_wf_slen : wellFormed (.slen 6 .none .none) = false ∧ wellFormed (.slen 5 .none .none) = true := by decide
theorem test_wf_shift_edge : wellFormed (.shli .byte .always 7 .none) = true := by decide

/-! ### Words, bit by bit from spec/04_encoding.md and the chapters' encodings -/

theorem test_decode_sums :
    decodeFabric (0b00000000#8 ++ 0b01#2 ++ 0b01#2 ++ 0b00#2 ++ 0b011111111#9 ++ 0b110000010#9) =
      .ok (.add .half .ifTrue .none (.latch true .p 2)) ∧
    decodeFabric (0b00000001#8 ++ 0b10#2 ++ 0b10#2 ++ 0b00#2 ++ 0b100111111#9 ++ 0b011011000#9) =
      .ok (.sub .word .ifFalse (.latch true .l 63) (.port 6)) ∧
    decodeFabric (0b00000010#8 ++ 0b11#2 ++ 0b00#2 ++ 0b00#2 ++ 0b001000001#9 ++ 0b011111111#9) =
      .ok (.adds .dword .always (.latch false .r 1) .none) ∧
    decodeFabric (0b00000011#8 ++ 0b00#2 ++ 0b01#2 ++ 0b00#2 ++ 0b110000010#9 ++ 0b100111111#9) =
      .ok (.addsU .byte .ifTrue (.latch true .p 2) (.latch true .l 63)) ∧
    decodeFabric (0b00000100#8 ++ 0b01#2 ++ 0b10#2 ++ 0b00#2 ++ 0b011011000#9 ++ 0b001000001#9) =
      .ok (.subs .half .ifFalse (.port 6) (.latch false .r 1)) ∧
    decodeFabric (0b00000101#8 ++ 0b10#2 ++ 0b00#2 ++ 0b00#2 ++ 0b011111111#9 ++ 0b110000010#9) =
      .ok (.subsU .word .always .none (.latch true .p 2)) ∧
    decodeFabric (0b00000110#8 ++ 0b11#2 ++ 0b01#2 ++ 0b00#2 ++ 0b000000101#9 ++ 0b011011000#9) =
      .ok (.addi .dword .ifTrue 5 (.port 6)) ∧
    decodeFabric (0b00000111#8 ++ 0b00#2 ++ 0b10#2 ++ 0b00#2 ++ 0b000000101#9 ++ 0b011111111#9) =
      .ok (.rsbi .byte .ifFalse 5 .none) := by
  refine ⟨?_, ?_, ?_, ?_, ?_, ?_, ?_, ?_⟩ <;> rfl

theorem test_decode_logic_shifts :
    decodeFabric (0b00001000#8 ++ 0b01#2 ++ 0b00#2 ++ 0b00#2 ++ 0b110000010#9 ++ 0b100111111#9) =
      .ok (.and .half .always (.latch true .p 2) (.latch true .l 63)) ∧
    decodeFabric (0b00001001#8 ++ 0b10#2 ++ 0b01#2 ++ 0b00#2 ++ 0b011011000#9 ++ 0b001000001#9) =
      .ok (.or .word .ifTrue (.port 6) (.latch false .r 1)) ∧
    decodeFabric (0b00001010#8 ++ 0b11#2 ++ 0b10#2 ++ 0b00#2 ++ 0b011111111#9 ++ 0b110000010#9) =
      .ok (.xor .dword .ifFalse .none (.latch true .p 2)) ∧
    decodeFabric (0b00001011#8 ++ 0b00#2 ++ 0b00#2 ++ 0b00#2 ++ 0b100111111#9 ++ 0b011011000#9) =
      .ok (.andn .byte .always (.latch true .l 63) (.port 6)) ∧
    decodeFabric (0b00001100#8 ++ 0b01#2 ++ 0b01#2 ++ 0b00#2 ++ 0b001000001#9 ++ 0b011111111#9) =
      .ok (.not .half .ifTrue (.latch false .r 1) .none) ∧
    decodeFabric (0b00001101#8 ++ 0b10#2 ++ 0b10#2 ++ 0b00#2 ++ 0b110000010#9 ++ 0b100111111#9) =
      .ok (.shl .word .ifFalse (.latch true .p 2) (.latch true .l 63)) ∧
    decodeFabric (0b00001110#8 ++ 0b11#2 ++ 0b00#2 ++ 0b00#2 ++ 0b011011000#9 ++ 0b001000001#9) =
      .ok (.shr .dword .always (.port 6) (.latch false .r 1)) ∧
    decodeFabric (0b00001111#8 ++ 0b00#2 ++ 0b01#2 ++ 0b00#2 ++ 0b011111111#9 ++ 0b110000010#9) =
      .ok (.shrA .byte .ifTrue .none (.latch true .p 2)) := by
  refine ⟨?_, ?_, ?_, ?_, ?_, ?_, ?_, ?_⟩ <;> rfl

theorem test_decode_counts_choices :
    decodeFabric (0b00010000#8 ++ 0b01#2 ++ 0b10#2 ++ 0b00#2 ++ 0b100111111#9 ++ 0b011011000#9) =
      .ok (.rot .half .ifFalse (.latch true .l 63) (.port 6)) ∧
    decodeFabric (0b00010001#8 ++ 0b10#2 ++ 0b00#2 ++ 0b00#2 ++ 0b000000101#9 ++ 0b011111111#9) =
      .ok (.shli .word .always 5 .none) ∧
    decodeFabric (0b00010010#8 ++ 0b11#2 ++ 0b01#2 ++ 0b00#2 ++ 0b000000101#9 ++ 0b100111111#9) =
      .ok (.shri .dword .ifTrue 5 (.latch true .l 63)) ∧
    decodeFabric (0b00010011#8 ++ 0b00#2 ++ 0b10#2 ++ 0b00#2 ++ 0b000000101#9 ++ 0b001000001#9) =
      .ok (.shriA .byte .ifFalse 5 (.latch false .r 1)) ∧
    decodeFabric (0b00010100#8 ++ 0b01#2 ++ 0b00#2 ++ 0b00#2 ++ 0b011111111#9 ++ 0b110000010#9) =
      .ok (.clz .half .always .none (.latch true .p 2)) ∧
    decodeFabric (0b00010101#8 ++ 0b10#2 ++ 0b01#2 ++ 0b00#2 ++ 0b100111111#9 ++ 0b011011000#9) =
      .ok (.popc .word .ifTrue (.latch true .l 63) (.port 6)) ∧
    decodeFabric (0b00010110#8 ++ 0b11#2 ++ 0b10#2 ++ 0b00#2 ++ 0b001000001#9 ++ 0b011111111#9) =
      .ok (.brev .dword .ifFalse (.latch false .r 1) .none) ∧
    decodeFabric (0b00010111#8 ++ 0b00#2 ++ 0b00#2 ++ 0b00#2 ++ 0b110000010#9 ++ 0b100111111#9) =
      .ok (.min .byte .always (.latch true .p 2) (.latch true .l 63)) := by
  refine ⟨?_, ?_, ?_, ?_, ?_, ?_, ?_, ?_⟩ <;> rfl

theorem test_decode_comparisons :
    decodeFabric (0b00011000#8 ++ 0b01#2 ++ 0b01#2 ++ 0b00#2 ++ 0b011011000#9 ++ 0b001000001#9) =
      .ok (.minU .half .ifTrue (.port 6) (.latch false .r 1)) ∧
    decodeFabric (0b00011001#8 ++ 0b10#2 ++ 0b10#2 ++ 0b00#2 ++ 0b011111111#9 ++ 0b110000010#9) =
      .ok (.max .word .ifFalse .none (.latch true .p 2)) ∧
    decodeFabric (0b00011010#8 ++ 0b11#2 ++ 0b00#2 ++ 0b00#2 ++ 0b100111111#9 ++ 0b011011000#9) =
      .ok (.maxU .dword .always (.latch true .l 63) (.port 6)) ∧
    decodeFabric (0b00011011#8 ++ 0b00#2 ++ 0b01#2 ++ 0b00#2 ++ 0b001000001#9 ++ 0b011111111#9) =
      .ok (.abs .byte .ifTrue (.latch false .r 1) .none) ∧
    decodeFabric (0b00011100#8 ++ 0b01#2 ++ 0b10#2 ++ 0b00#2 ++ 0b110000010#9 ++ 0b100111111#9) =
      .ok (.neg .half .ifFalse (.latch true .p 2) (.latch true .l 63)) ∧
    decodeFabric (0b00011101#8 ++ 0b10#2 ++ 0b00#2 ++ 0b00#2 ++ 0b011011000#9 ++ 0b001000001#9) =
      .ok (.cmpEq .word .always (.port 6) (.latch false .r 1)) ∧
    decodeFabric (0b00011110#8 ++ 0b11#2 ++ 0b01#2 ++ 0b00#2 ++ 0b011111111#9 ++ 0b110000010#9) =
      .ok (.cmpNe .dword .ifTrue .none (.latch true .p 2)) ∧
    decodeFabric (0b00011111#8 ++ 0b00#2 ++ 0b10#2 ++ 0b00#2 ++ 0b100111111#9 ++ 0b011011000#9) =
      .ok (.cmpLt .byte .ifFalse (.latch true .l 63) (.port 6)) := by
  refine ⟨?_, ?_, ?_, ?_, ?_, ?_, ?_, ?_⟩ <;> rfl

theorem test_decode_immediates :
    decodeFabric (0b00100000#8 ++ 0b01#2 ++ 0b00#2 ++ 0b00#2 ++ 0b001000001#9 ++ 0b011111111#9) =
      .ok (.cmpLe .half .always (.latch false .r 1) .none) ∧
    decodeFabric (0b00100001#8 ++ 0b10#2 ++ 0b01#2 ++ 0b00#2 ++ 0b110000010#9 ++ 0b100111111#9) =
      .ok (.cmpLtu .word .ifTrue (.latch true .p 2) (.latch true .l 63)) ∧
    decodeFabric (0b00100010#8 ++ 0b11#2 ++ 0b10#2 ++ 0b00#2 ++ 0b011011000#9 ++ 0b001000001#9) =
      .ok (.cmpLeu .dword .ifFalse (.port 6) (.latch false .r 1)) ∧
    decodeFabric (0b00100011#8 ++ 0b00#2 ++ 0b00#2 ++ 0b00#2 ++ 0b000000101#9 ++ 0b110000010#9) =
      .ok (.cmpiEq .byte .always 5 (.latch true .p 2)) ∧
    decodeFabric (0b00100100#8 ++ 0b01#2 ++ 0b01#2 ++ 0b00#2 ++ 0b000000101#9 ++ 0b011011000#9) =
      .ok (.cmpiNe .half .ifTrue 5 (.port 6)) ∧
    decodeFabric (0b00100101#8 ++ 0b10#2 ++ 0b10#2 ++ 0b00#2 ++ 0b000000101#9 ++ 0b011111111#9) =
      .ok (.cmpiLt .word .ifFalse 5 .none) ∧
    decodeFabric (0b00100110#8 ++ 0b11#2 ++ 0b00#2 ++ 0b00#2 ++ 0b000000101#9 ++ 0b100111111#9) =
      .ok (.cmpiLe .dword .always 5 (.latch true .l 63)) ∧
    decodeFabric (0b00100111#8 ++ 0b00#2 ++ 0b01#2 ++ 0b00#2 ++ 0b000000101#9 ++ 0b001000001#9) =
      .ok (.cmpiGt .byte .ifTrue 5 (.latch false .r 1)) ∧
    decodeFabric (0b00101000#8 ++ 0b01#2 ++ 0b10#2 ++ 0b00#2 ++ 0b000000101#9 ++ 0b110000010#9) =
      .ok (.cmpiGe .half .ifFalse 5 (.latch true .p 2)) ∧
    decodeFabric (0b00101001#8 ++ 0b10#2 ++ 0b00#2 ++ 0b00#2 ++ 0b000000101#9 ++ 0b011011000#9) =
      .ok (.cmpiLtu .word .always 5 (.port 6)) ∧
    decodeFabric (0b00101010#8 ++ 0b11#2 ++ 0b01#2 ++ 0b00#2 ++ 0b000000101#9 ++ 0b011111111#9) =
      .ok (.cmpiLeu .dword .ifTrue 5 .none) ∧
    decodeFabric (0b00101011#8 ++ 0b00#2 ++ 0b10#2 ++ 0b00#2 ++ 0b000000101#9 ++ 0b100111111#9) =
      .ok (.cmpiGtu .byte .ifFalse 5 (.latch true .l 63)) ∧
    decodeFabric (0b00101100#8 ++ 0b01#2 ++ 0b00#2 ++ 0b00#2 ++ 0b000000101#9 ++ 0b001000001#9) =
      .ok (.cmpiGeu .half .always 5 (.latch false .r 1)) ∧
    decodeFabric (0b00101101#8 ++ 0b10#2 ++ 0b01#2 ++ 0b00#2 ++ 0b011111111#9 ++ 0b110000010#9) =
      .ok (.test .word .ifTrue .none (.latch true .p 2)) ∧
    decodeFabric (0b00101110#8 ++ 0b11#2 ++ 0b10#2 ++ 0b00#2 ++ 0b100111111#9 ++ 0b011011000#9) =
      .ok (.testZ .dword .ifFalse (.latch true .l 63) (.port 6)) ∧
    decodeFabric (0b00101111#8 ++ 0b00#2 ++ 0b0000#4 ++ 0b001000001#9 ++ 0b011111111#9) =
      .ok (.sel .byte (.latch false .r 1) .none) := by
  refine ⟨?_, ?_, ?_, ?_, ?_, ?_, ?_, ?_, ?_, ?_, ?_, ?_, ?_, ?_, ?_, ?_⟩ <;> rfl

theorem test_decode_constants_counters :
    decodeFabric (0b00110000#8 ++ 0b01#2 ++ 0b01#2 ++ 0b00#2 ++ 0b110000010#9 ++ 0b100111111#9) =
      .ok (.mov .half .ifTrue (.latch true .p 2) (.latch true .l 63)) ∧
    decodeFabric (0b00110001#8 ++ 0b100001100100001#15 ++ 0b001000001#9) =
      .ok (.gens 17185 (.latch false .r 1)) ∧
    decodeFabric (0b00110010#8 ++ 0b100001100100001#15 ++ 0b110000010#9) =
      .ok (.genu 17185 (.latch true .p 2)) ∧
    decodeFabric (0b00110011#8 ++ 0b100001100100001#15 ++ 0b011011000#9) =
      .ok (.apph 17185 (.port 6)) ∧
    decodeFabric (0b00110100#8 ++ 0b01#2 ++ 0b10#2 ++ 0b00#2 ++ 0b001000001#9 ++ 0b011111111#9) =
      .ok (.extr .half .ifFalse (.latch false .r 1) .none) ∧
    decodeFabric (0b00110101#8 ++ 0b10#2 ++ 0b00#2 ++ 0b00#2 ++ 0b110000010#9 ++ 0b100111111#9) =
      .ok (.extrS .word .always (.latch true .p 2) (.latch true .l 63)) ∧
    decodeFabric (0b00110110#8 ++ 0b11#2 ++ 0b0000#4 ++ 0b011011000#9 ++ 0b001000001#9) =
      .ok (.insf .dword (.port 6) (.latch false .r 1)) ∧
    decodeFabric (0b00110111#8 ++ 0b00#2 ++ 0b10#2 ++ 0b11#2 ++ 0b011111111#9 ++ 0b110000010#9) =
      .ok (.lea .byte .ifFalse 3 .none (.latch true .p 2)) ∧
    decodeFabric (0b00111000#8 ++ 0b01#2 ++ 0b00#2 ++ 0b00#2 ++ 0b000000101#9 ++ 0b011011000#9) =
      .ok (.addiS .half .always 5 (.port 6)) ∧
    decodeFabric (0b00111001#8 ++ 0b10#2 ++ 0b01#2 ++ 0b00#2 ++ 0b000000101#9 ++ 0b011111111#9) =
      .ok (.rsbiS .word .ifTrue 5 .none) ∧
    decodeFabric (0b00111010#8 ++ 0b11#2 ++ 0b10#2 ++ 0b00#2 ++ 0b110000010#9 ++ 0b100111111#9) =
      .ok (.absS .dword .ifFalse (.latch true .p 2) (.latch true .l 63)) ∧
    decodeFabric (0b00111011#8 ++ 0b00#2 ++ 0b00#2 ++ 0b00#2 ++ 0b011011000#9 ++ 0b001000001#9) =
      .ok (.negS .byte .always (.port 6) (.latch false .r 1)) ∧
    decodeFabric (0b00111100000#11 ++ 0b001#3 ++ 0b011111111#9 ++ 0b110000010#9) =
      .ok (.kset 1 .none (.latch true .p 2)) ∧
    decodeFabric (0b00111101000#11 ++ 0b001#3 ++ 0b100111111#9 ++ 0b011011000#9) =
      .ok (.knext 1 (.latch true .l 63) (.port 6)) ∧
    decodeFabric (0b00111110000#11 ++ 0b001#3 ++ 0b001000001#9 ++ 0b011111111#9) =
      .ok (.klast 1 (.latch false .r 1) .none) ∧
    decodeFabric (0b0011111100#10 ++ 0b1000#4 ++ 0b110000010#9 ++ 0b100111111#9) =
      .ok (.kread .kpack (.latch true .p 2) (.latch true .l 63)) := by
  refine ⟨?_, ?_, ?_, ?_, ?_, ?_, ?_, ?_, ?_, ?_, ?_, ?_, ?_, ?_, ?_, ?_⟩ <;> rfl

theorem test_decode_float :
    decodeFabric (0b01000000#8 ++ 0b10#2 ++ 0b10#2 ++ 0b01#2 ++ 0b011011000#9 ++ 0b001000001#9) =
      .ok (.fadd (.f32 .rtz) .ifFalse (.port 6) (.latch false .r 1)) ∧
    decodeFabric (0b01000001#8 ++ 0b10#2 ++ 0b00#2 ++ 0b10#2 ++ 0b011111111#9 ++ 0b110000010#9) =
      .ok (.fsub (.f32 .rup) .always .none (.latch true .p 2)) ∧
    decodeFabric (0b01000010#8 ++ 0b10#2 ++ 0b01#2 ++ 0b11#2 ++ 0b100111111#9 ++ 0b011011000#9) =
      .ok (.fmul (.f32 .rdn) .ifTrue (.latch true .l 63) (.port 6)) ∧
    decodeFabric (0b01000011#8 ++ 0b01#2 ++ 0b10#2 ++ 0b01#2 ++ 0b001000001#9 ++ 0b011111111#9) =
      .ok (.fmin .bf16 .ifFalse (.latch false .r 1) .none) ∧
    decodeFabric (0b01000100#8 ++ 0b10#2 ++ 0b00#2 ++ 0b00#2 ++ 0b110000010#9 ++ 0b100111111#9) =
      .ok (.fmax .f32 .always (.latch true .p 2) (.latch true .l 63)) ∧
    decodeFabric (0b01000101#8 ++ 0b01#2 ++ 0b01#2 ++ 0b00#2 ++ 0b011011000#9 ++ 0b001000001#9) =
      .ok (.fabs .f16 .ifTrue (.port 6) (.latch false .r 1)) ∧
    decodeFabric (0b01000110#8 ++ 0b01#2 ++ 0b10#2 ++ 0b01#2 ++ 0b011111111#9 ++ 0b110000010#9) =
      .ok (.fneg .bf16 .ifFalse .none (.latch true .p 2)) ∧
    decodeFabric (0b01000111#8 ++ 0b10#2 ++ 0b00#2 ++ 0b00#2 ++ 0b100111111#9 ++ 0b011011000#9) =
      .ok (.fcmpEq .f32 .always (.latch true .l 63) (.port 6)) ∧
    decodeFabric (0b01001000#8 ++ 0b01#2 ++ 0b01#2 ++ 0b00#2 ++ 0b001000001#9 ++ 0b011111111#9) =
      .ok (.fcmpNe .f16 .ifTrue (.latch false .r 1) .none) ∧
    decodeFabric (0b01001001#8 ++ 0b01#2 ++ 0b10#2 ++ 0b01#2 ++ 0b110000010#9 ++ 0b100111111#9) =
      .ok (.fcmpLt .bf16 .ifFalse (.latch true .p 2) (.latch true .l 63)) ∧
    decodeFabric (0b01001010#8 ++ 0b10#2 ++ 0b00#2 ++ 0b00#2 ++ 0b011011000#9 ++ 0b001000001#9) =
      .ok (.fcmpLe .f32 .always (.port 6) (.latch false .r 1)) ∧
    decodeFabric (0b01001011#8 ++ 0b01#2 ++ 0b01#2 ++ 0b00#2 ++ 0b011111111#9 ++ 0b110000010#9) =
      .ok (.fcmpUn .f16 .ifTrue .none (.latch true .p 2)) ∧
    decodeFabric (0b01001100#8 ++ 0b01#2 ++ 0b10#2 ++ 0b01#2 ++ 0b100111111#9 ++ 0b011011000#9) =
      .ok (.frnd (.bf16 false) .ifFalse (.latch true .l 63) (.port 6)) ∧
    decodeFabric (0b01001101#8 ++ 0b01#2 ++ 0b00#2 ++ 0b10#2 ++ 0b001000001#9 ++ 0b011111111#9) =
      .ok (.cvtIfSw (.f16 true) .always (.latch false .r 1) .none) ∧
    decodeFabric (0b01001110#8 ++ 0b01#2 ++ 0b01#2 ++ 0b11#2 ++ 0b110000010#9 ++ 0b100111111#9) =
      .ok (.cvtIfSd (.bf16 true) .ifTrue (.latch true .p 2) (.latch true .l 63)) ∧
    decodeFabric (0b01001111#8 ++ 0b10#2 ++ 0b10#2 ++ 0b00#2 ++ 0b011011000#9 ++ 0b001000001#9) =
      .ok (.cvtIfUw (.f32 .rne) .ifFalse (.port 6) (.latch false .r 1)) := by
  refine ⟨?_, ?_, ?_, ?_, ?_, ?_, ?_, ?_, ?_, ?_, ?_, ?_, ?_, ?_, ?_, ?_⟩ <;> rfl

theorem test_decode_conversions_products :
    decodeFabric (0b01010000#8 ++ 0b10#2 ++ 0b00#2 ++ 0b01#2 ++ 0b011111111#9 ++ 0b110000010#9) =
      .ok (.cvtIfUd (.f32 .rtz) .always .none (.latch true .p 2)) ∧
    decodeFabric (0b01010001#8 ++ 0b10#2 ++ 0b01#2 ++ 0b10#2 ++ 0b100111111#9 ++ 0b011011000#9) =
      .ok (.cvtFiSw (.f32 .rup) .ifTrue (.latch true .l 63) (.port 6)) ∧
    decodeFabric (0b01010010#8 ++ 0b10#2 ++ 0b10#2 ++ 0b11#2 ++ 0b001000001#9 ++ 0b011111111#9) =
      .ok (.cvtFiSd (.f32 .rdn) .ifFalse (.latch false .r 1) .none) ∧
    decodeFabric (0b01010011#8 ++ 0b01#2 ++ 0b00#2 ++ 0b00#2 ++ 0b110000010#9 ++ 0b100111111#9) =
      .ok (.cvtFiUw (.f16 false) .always (.latch true .p 2) (.latch true .l 63)) ∧
    decodeFabric (0b01010100#8 ++ 0b01#2 ++ 0b01#2 ++ 0b01#2 ++ 0b011011000#9 ++ 0b001000001#9) =
      .ok (.cvtFiUd (.bf16 false) .ifTrue (.port 6) (.latch false .r 1)) ∧
    decodeFabric (0b01010101#8 ++ 0b01#2 ++ 0b10#2 ++ 0b10#2 ++ 0b011111111#9 ++ 0b110000010#9) =
      .ok (.cvtFfF32 (.f16 true) .ifFalse .none (.latch true .p 2)) ∧
    decodeFabric (0b01010110#8 ++ 0b01#2 ++ 0b00#2 ++ 0b11#2 ++ 0b100111111#9 ++ 0b011011000#9) =
      .ok (.cvtFfF16 (.bf16 true) .always (.latch true .l 63) (.port 6)) ∧
    decodeFabric (0b01010111#8 ++ 0b10#2 ++ 0b01#2 ++ 0b00#2 ++ 0b001000001#9 ++ 0b011111111#9) =
      .ok (.cvtFfBf16 (.f32 .rne) .ifTrue (.latch false .r 1) .none) ∧
    decodeFabric (0b01011000#8 ++ 0b10#2 ++ 0b1011#4 ++ 0b110000010#9 ++ 0b100111111#9) =
      .ok (.cvtN .bf16 (.i .int4) (.latch true .p 2) (.latch true .l 63)) ∧
    decodeFabric (0b0101100100#10 ++ 0b0101#4 ++ 0b011011000#9 ++ 0b001000001#9) =
      .ok (.cvtNW .e3m2 (.port 6) (.latch false .r 1)) ∧
    decodeFabric (0b0101101000#10 ++ 0b1010#4 ++ 0b011111111#9 ++ 0b110000010#9) =
      .ok (.cvtNI .uint8 .none (.latch true .p 2)) ∧
    decodeFabric (0b01011011#8 ++ 0b00#2 ++ 0b10#2 ++ 0b00#2 ++ 0b100111111#9 ++ 0b011011000#9) =
      .ok (.mul .byte .ifFalse (.latch true .l 63) (.port 6)) ∧
    decodeFabric (0b01011100#8 ++ 0b01#2 ++ 0b00#2 ++ 0b00#2 ++ 0b001000001#9 ++ 0b011111111#9) =
      .ok (.mulh .half .always (.latch false .r 1) .none) ∧
    decodeFabric (0b01011101#8 ++ 0b10#2 ++ 0b01#2 ++ 0b00#2 ++ 0b110000010#9 ++ 0b100111111#9) =
      .ok (.mulhU .word .ifTrue (.latch true .p 2) (.latch true .l 63)) ∧
    decodeFabric (0b01011110#8 ++ 0b01#2 ++ 0b00#2 ++ 0b11#2 ++ 0b011011000#9 ++ 0b001000001#9) =
      .ok (.facc (.bf16 true) (.port 6) (.latch false .r 1)) ∧
    decodeFabric (0b01011111#8 ++ 0b00#2 ++ 0b000#3 ++ 0b0#1 ++ 0b011111111#9 ++ 0b110000010#9) =
      .ok (.iacc .byte false .none (.latch true .p 2)) := by
  refine ⟨?_, ?_, ?_, ?_, ?_, ?_, ?_, ?_, ?_, ?_, ?_, ?_, ?_, ?_, ?_, ?_⟩ <;> rfl

theorem test_decode_router :
    decodeFabric (0b01100000000000#14 ++ 0b001000001#9 ++ 0b110000010#9) =
      .ok (.steer (.latch false .r 1) (.latch true .p 2)) ∧
    decodeFabric (0b01100001000000#14 ++ 0b001000001#9 ++ 0b011111111#9) =
      .ok (.merge (.latch false .r 1) .none) ∧
    decodeFabric (0b01100010000000#14 ++ 0b110000010#9 ++ 0b100111111#9) =
      .ok (.mergeRr (.latch true .p 2) (.latch true .l 63)) ∧
    decodeFabric (0b01100011000000#14 ++ 0b011011000#9 ++ 0b001000001#9) =
      .ok (.carry (.port 6) (.latch false .r 1)) ∧
    decodeFabric (0b01100100000000#14 ++ 0b000000101#9 ++ 0b110000010#9) =
      .ok (.carryI 5 (.latch true .p 2)) ∧
    decodeFabric (0b01100101000000#14 ++ 0b100111111#9 ++ 0b011011000#9) =
      .ok (.invar (.latch true .l 63) (.port 6)) ∧
    decodeFabric (0b01100110000000#14 ++ 0b001000001#9 ++ 0b011111111#9) =
      .ok (.gate (.latch false .r 1) .none) ∧
    decodeFabric (0b01101000000000#14 ++ 0b110000010#9 ++ 0b100111111#9) =
      .ok (.sinkA (.latch true .p 2) (.latch true .l 63)) ∧
    decodeFabric (0b01101001000000#14 ++ 0b011011000#9 ++ 0b001000001#9) =
      .ok (.ordj (.port 6) (.latch false .r 1)) ∧
    decodeFabric (0b0110101000#10 ++ 0b01#2 ++ 0b00#2 ++ 0b011111111#9 ++ 0b110000010#9) =
      .ok (.eos .ifTrue .none (.latch true .p 2)) ∧
    decodeFabric (0b0110101100#10 ++ 0b10#2 ++ 0b00#2 ++ 0b000000101#9 ++ 0b011011000#9) =
      .ok (.eosI .ifFalse 5 (.port 6)) ∧
    decodeFabric (0b0110110000#10 ++ 0b00#2 ++ 0b00#2 ++ 0b001000001#9 ++ 0b011111111#9) =
      .ok (.eot .always (.latch false .r 1) .none) ∧
    decodeFabric (0b0110110100#10 ++ 0b01#2 ++ 0b00#2 ++ 0b000000101#9 ++ 0b100111111#9) =
      .ok (.eotI .ifTrue 5 (.latch true .l 63)) ∧
    decodeFabric (0b0110111000#10 ++ 0b10#2 ++ 0b00#2 ++ 0b011011000#9 ++ 0b001000001#9) =
      .ok (.mark .ifFalse (.port 6) (.latch false .r 1)) ∧
    decodeFabric (0b0110111100#10 ++ 0b00#2 ++ 0b00#2 ++ 0b000000101#9 ++ 0b110000010#9) =
      .ok (.markI .always 5 (.latch true .p 2)) ∧
    decodeFabric (0b01100111000000011111111011111111#32) =
      .ok (.sink) := by
  refine ⟨?_, ?_, ?_, ?_, ?_, ?_, ?_, ?_, ?_, ?_, ?_, ?_, ?_, ?_, ?_, ?_⟩ <;> rfl

theorem test_decode_markers_division :
    decodeFabric (0b01110000#8 ++ 0b00#2 ++ 0b01#2 ++ 0b00#2 ++ 0b100111111#9 ++ 0b011011000#9) =
      .ok (.div .byte .ifTrue (.latch true .l 63) (.port 6)) ∧
    decodeFabric (0b01110001#8 ++ 0b01#2 ++ 0b10#2 ++ 0b00#2 ++ 0b001000001#9 ++ 0b011111111#9) =
      .ok (.divU .half .ifFalse (.latch false .r 1) .none) ∧
    decodeFabric (0b01110010#8 ++ 0b10#2 ++ 0b00#2 ++ 0b00#2 ++ 0b110000010#9 ++ 0b100111111#9) =
      .ok (.rem .word .always (.latch true .p 2) (.latch true .l 63)) ∧
    decodeFabric (0b01110011#8 ++ 0b11#2 ++ 0b01#2 ++ 0b00#2 ++ 0b011011000#9 ++ 0b001000001#9) =
      .ok (.remU .dword .ifTrue (.port 6) (.latch false .r 1)) ∧
    decodeFabric (0b01110100#8 ++ 0b01#2 ++ 0b10#2 ++ 0b00#2 ++ 0b011111111#9 ++ 0b110000010#9) =
      .ok (.fdiv (.f16 false) .ifFalse .none (.latch true .p 2)) ∧
    decodeFabric (0b01110101#8 ++ 0b01#2 ++ 0b00#2 ++ 0b01#2 ++ 0b100111111#9 ++ 0b011011000#9) =
      .ok (.fsqrt (.bf16 false) .always (.latch true .l 63) (.port 6)) ∧
    decodeFabric (0b01110110000000#14 ++ 0b001000001#9 ++ 0b011111111#9) =
      .ok (.ctnOpen (.latch false .r 1) .none) ∧
    decodeFabric (0b01110111000000#14 ++ 0b110000010#9 ++ 0b100111111#9) =
      .ok (.ctnClose (.latch true .p 2) (.latch true .l 63)) := by
  refine ⟨?_, ?_, ?_, ?_, ?_, ?_, ?_, ?_⟩ <;> rfl

theorem test_decode_system :
    decodeFabric (0b0111100000#10 ++ 0b00#2 ++ 0b00#2 ++ 0b000000101#9 ++ 0b001000001#9) =
      .ok (.trap .always 5 (.latch false .r 1)) ∧
    decodeFabric (0b0111100100#10 ++ 0b01#2 ++ 0b00#2 ++ 0b011111111#9 ++ 0b110000010#9) =
      .ok (.trapV .ifTrue .none (.latch true .p 2)) ∧
    decodeFabric (0b0111101000000#13 ++ 0b0#1 ++ 0b011111111011111111#18) =
      .ok (.halt false) ∧
    decodeFabric (0b01111100#8 ++ 0b010010#6 ++ 0b001000001#9 ++ 0b011111111#9) =
      .ok (.sysRd (.crec 2) (.latch false .r 1) .none) ∧
    decodeFabric (0b01111101#8 ++ 0b000111#6 ++ 0b110000010#9 ++ 0b100111111#9) =
      .ok (.sysWr (.meStatus 3) (.latch true .p 2) (.latch true .l 63)) ∧
    decodeFabric (0b011111101#9 ++ 0b1#1 ++ 0b10#2 ++ 0b00#2 ++ 0b011011000#9 ++ 0b001000001#9) =
      .ok (.sysRdA true .ifFalse (.port 6) (.latch false .r 1)) ∧
    decodeFabric (0b011111111#9 ++ 0b0#1 ++ 0b00#2 ++ 0b00#2 ++ 0b011111111#9 ++ 0b110000010#9) =
      .ok (.sysWrA false .always .none (.latch true .p 2)) ∧
    decodeFabric (0b01111011000000000000000011111111#32) =
      .ok (.nop) := by
  refine ⟨?_, ?_, ?_, ?_, ?_, ?_, ?_, ?_⟩ <;> rfl

theorem test_decode_loads_stores :
    decodeFabric (0b10000000#8 ++ 0b01#2 ++ 0b01#2 ++ 0b1#1 ++ 0b1#1 ++ 0b100111111#9 ++ 0b011011000#9) =
      .ok (.ld .half .ifTrue true true (.latch true .l 63) (.port 6)) ∧
    decodeFabric (0b1000000100#10 ++ 0b10#2 ++ 0b0#1 ++ 0b0#1 ++ 0b001000001#9 ++ 0b011111111#9) =
      .ok (.ldb .ifFalse false false (.latch false .r 1) .none) ∧
    decodeFabric (0b10000010#8 ++ 0b01#2 ++ 0b00#2 ++ 0b00#2 ++ 0b110000010#9 ++ 0b100111111#9) =
      .ok (.st .half .always (.latch true .p 2) (.latch true .l 63)) ∧
    decodeFabric (0b10000011000000#14 ++ 0b011011000#9 ++ 0b001000001#9) =
      .ok (.stb (.port 6) (.latch false .r 1)) ∧
    decodeFabric (0b100001001#9 ++ 0b1#1 ++ 0b10#2 ++ 0b00#2 ++ 0b011111111#9 ++ 0b110000010#9) =
      .ok (.pld true .ifFalse .none (.latch true .p 2)) ∧
    decodeFabric (0b100001011#9 ++ 0b0#1 ++ 0b0000#4 ++ 0b100111111#9 ++ 0b011011000#9) =
      .ok (.pst false (.latch true .l 63) (.port 6)) ∧
    decodeFabric (0b10000110#8 ++ 0b110010#6 ++ 0b001000001#9 ++ 0b011111111#9) =
      .ok (.step 50 (.latch false .r 1) .none) ∧
    decodeFabric (0b1000011100#10 ++ 0b10#2 ++ 0b000#3 ++ 0b10101110#8 ++ 0b100111111#9) =
      .ok (.acqX .ifFalse 174 (.latch true .l 63)) ∧
    decodeFabric (0b1000011100#10 ++ 0b00#2 ++ 0b010#3 ++ 0b10110101#8 ++ 0b001000001#9) =
      .ok (.acqS .always 181 (.latch false .r 1)) ∧
    decodeFabric (0b1000100000#10 ++ 0b01#2 ++ 0b000#3 ++ 0b10111100#8 ++ 0b110000010#9) =
      .ok (.rel .ifTrue 188 (.latch true .p 2)) ∧
    decodeFabric (0b10001001000000#14 ++ 0b100111111#9 ++ 0b011011000#9) =
      .ok (.fenceF (.latch true .l 63) (.port 6)) ∧
    decodeFabric (0b10001010000000#14 ++ 0b001000001#9 ++ 0b011111111#9) =
      .ok (.fenceD (.latch false .r 1) .none) ∧
    decodeFabric (0b10001011000000#14 ++ 0b110000010#9 ++ 0b100111111#9) =
      .ok (.fenceP (.latch true .p 2) (.latch true .l 63)) ∧
    decodeFabric (0b10001100000000#14 ++ 0b011011000#9 ++ 0b001000001#9) =
      .ok (.fenceS (.port 6) (.latch false .r 1)) ∧
    decodeFabric (0b100011011#9 ++ 0b1#1 ++ 0b00#2 ++ 0b00#2 ++ 0b011111111#9 ++ 0b110000010#9) =
      .ok (.amoAdd true .always .none (.latch true .p 2)) ∧
    decodeFabric (0b1000111010#10 ++ 0b01#2 ++ 0b00#2 ++ 0b100111111#9 ++ 0b011011000#9) =
      .ok (.amoFadd .ifTrue (.latch true .l 63) (.port 6)) ∧
    decodeFabric (0b100011111#9 ++ 0b1#1 ++ 0b10#2 ++ 0b0#1 ++ 0b1#1 ++ 0b001000001#9 ++ 0b011111111#9) =
      .ok (.amoMin true .ifFalse true (.latch false .r 1) .none) := by
  refine ⟨?_, ?_, ?_, ?_, ?_, ?_, ?_, ?_, ?_, ?_, ?_, ?_, ?_, ?_, ?_, ?_, ?_⟩ <;> rfl

theorem test_decode_atomics :
    decodeFabric (0b100100001#9 ++ 0b0#1 ++ 0b00#2 ++ 0b0#1 ++ 0b0#1 ++ 0b110000010#9 ++ 0b100111111#9) =
      .ok (.amoMax false .always false (.latch true .p 2) (.latch true .l 63)) ∧
    decodeFabric (0b100100011#9 ++ 0b1#1 ++ 0b01#2 ++ 0b00#2 ++ 0b011011000#9 ++ 0b001000001#9) =
      .ok (.amoAnd true .ifTrue (.port 6) (.latch false .r 1)) ∧
    decodeFabric (0b100100101#9 ++ 0b0#1 ++ 0b10#2 ++ 0b00#2 ++ 0b011111111#9 ++ 0b110000010#9) =
      .ok (.amoOr false .ifFalse .none (.latch true .p 2)) ∧
    decodeFabric (0b100100111#9 ++ 0b1#1 ++ 0b00#2 ++ 0b00#2 ++ 0b100111111#9 ++ 0b011011000#9) =
      .ok (.amoXor true .always (.latch true .l 63) (.port 6)) ∧
    decodeFabric (0b100101001#9 ++ 0b0#1 ++ 0b01#2 ++ 0b00#2 ++ 0b001000001#9 ++ 0b011111111#9) =
      .ok (.amoSwap false .ifTrue (.latch false .r 1) .none) ∧
    decodeFabric (0b100101011#9 ++ 0b1#1 ++ 0b0000#4 ++ 0b110000010#9 ++ 0b100111111#9) =
      .ok (.amoCas true (.latch true .p 2) (.latch true .l 63)) ∧
    decodeFabric (0b100101101#9 ++ 0b0#1 ++ 0b00#2 ++ 0b00#2 ++ 0b011011000#9 ++ 0b001000001#9) =
      .ok (.redAdd false .always (.port 6) (.latch false .r 1)) ∧
    decodeFabric (0b1001011110#10 ++ 0b01#2 ++ 0b00#2 ++ 0b011111111#9 ++ 0b110000010#9) =
      .ok (.redFadd .ifTrue .none (.latch true .p 2)) ∧
    decodeFabric (0b100110001#9 ++ 0b0#1 ++ 0b10#2 ++ 0b0#1 ++ 0b0#1 ++ 0b100111111#9 ++ 0b011011000#9) =
      .ok (.redMin false .ifFalse false (.latch true .l 63) (.port 6)) ∧
    decodeFabric (0b100110011#9 ++ 0b1#1 ++ 0b00#2 ++ 0b0#1 ++ 0b1#1 ++ 0b001000001#9 ++ 0b011111111#9) =
      .ok (.redMax true .always true (.latch false .r 1) .none) ∧
    decodeFabric (0b100110101#9 ++ 0b0#1 ++ 0b01#2 ++ 0b00#2 ++ 0b110000010#9 ++ 0b100111111#9) =
      .ok (.redAnd false .ifTrue (.latch true .p 2) (.latch true .l 63)) := by
  refine ⟨?_, ?_, ?_, ?_, ?_, ?_, ?_, ?_, ?_, ?_, ?_⟩ <;> rfl

theorem test_decode_prefetch_flush :
    decodeFabric (0b100110111#9 ++ 0b1#1 ++ 0b10#2 ++ 0b00#2 ++ 0b011011000#9 ++ 0b001000001#9) =
      .ok (.redOr true .ifFalse (.port 6) (.latch false .r 1)) ∧
    decodeFabric (0b1001110000#10 ++ 0b00#2 ++ 0b0#1 ++ 0b0#1 ++ 0b011111111011111111#18) =
      .ok (.pref .always false false) ∧
    decodeFabric (0b10011101000000#14 ++ 0b100111111#9 ++ 0b011011000#9) =
      .ok (.retain (.latch true .l 63) (.port 6)) ∧
    decodeFabric (0b10011110000000#14 ++ 0b001000001#9 ++ 0b011111111#9) =
      .ok (.unpin (.latch false .r 1) .none) ∧
    decodeFabric (0b1001111100#10 ++ 0b00#2 ++ 0b0#1 ++ 0b1#1 ++ 0b110000010#9 ++ 0b100111111#9) =
      .ok (.flush .always true (.latch true .p 2) (.latch true .l 63)) := by
  refine ⟨?_, ?_, ?_, ?_, ?_⟩ <;> rfl

theorem test_decode_engines :
    decodeFabric (0b1010000000#10 ++ 0b1011#4 ++ 0b011011000#9 ++ 0b001000001#9) =
      .ok (.mxCfg 11 (.port 6) (.latch false .r 1)) ∧
    decodeFabric (0b10100001000000#14 ++ 0b011111111#9 ++ 0b110000010#9) =
      .ok (.mxGath .none (.latch true .p 2)) ∧
    decodeFabric (0b1010001000#10 ++ 0b1010#4 ++ 0b100111111#9 ++ 0b011011000#9) =
      .ok (.mxBb 10 (.latch true .l 63) (.port 6)) ∧
    decodeFabric (0b1010001100#10 ++ 0b0010#4 ++ 0b001000001#9 ++ 0b011111111#9) =
      .ok (.mxMma 2 (.latch false .r 1) .none) ∧
    decodeFabric (0b1010010000#10 ++ 0b1001#4 ++ 0b110000010#9 ++ 0b100111111#9) =
      .ok (.mxZero 9 (.latch true .p 2) (.latch true .l 63)) ∧
    decodeFabric (0b10100101000#11 ++ 0b1#1 ++ 0b01#2 ++ 0b011011000#9 ++ 0b001000001#9) =
      .ok (.mxEpi true 1 (.port 6) (.latch false .r 1)) ∧
    decodeFabric (0b10100110000#11 ++ 0b0#1 ++ 0b10#2 ++ 0b011111111#9 ++ 0b110000010#9) =
      .ok (.mxCpy false 2 .none (.latch true .p 2)) ∧
    decodeFabric (0b101001110000#12 ++ 0b11#2 ++ 0b100111111#9 ++ 0b011011000#9) =
      .ok (.cpyHead 3 (.latch true .l 63) (.port 6)) ∧
    decodeFabric (0b10101000000#11 ++ 0b0#1 ++ 0b01#2 ++ 0b001000001#9 ++ 0b011111111#9) =
      .ok (.cpyStat false 1 (.latch false .r 1) .none) ∧
    decodeFabric (0b10101001000000#14 ++ 0b110000010#9 ++ 0b100111111#9) =
      .ok (.wlkCfg (.latch true .p 2) (.latch true .l 63)) ∧
    decodeFabric (0b1010101000000#13 ++ 0b0#1 ++ 0b011011000#9 ++ 0b001000001#9) =
      .ok (.wlkGo false (.port 6) (.latch false .r 1)) ∧
    decodeFabric (0b1010101100#10 ++ 0b00#2 ++ 0b00#2 ++ 0b011111111#9 ++ 0b110000010#9) =
      .ok (.qfence .always .none (.latch true .p 2)) ∧
    decodeFabric (0b10101100000#11 ++ 0b1#1 ++ 0b10#2 ++ 0b100111111#9 ++ 0b011011000#9) =
      .ok (.bufWait true 2 (.latch true .l 63) (.port 6)) ∧
    decodeFabric (0b10101101000000#14 ++ 0b001000001#9 ++ 0b011111111#9) =
      .ok (.bufRel (.latch false .r 1) .none) ∧
    decodeFabric (0b10101110000000#14 ++ 0b110000010#9 ++ 0b100111111#9) =
      .ok (.bufStat (.latch true .p 2) (.latch true .l 63)) ∧
    decodeFabric (0b10101111#8 ++ 0b011101#6 ++ 0b011011000#9 ++ 0b001000001#9) =
      .ok (.spawn 29 (.port 6) (.latch false .r 1)) := by
  refine ⟨?_, ?_, ?_, ?_, ?_, ?_, ?_, ?_, ?_, ?_, ?_, ?_, ?_, ?_, ?_, ?_⟩ <;> rfl

theorem test_decode_streams :
    decodeFabric (0b10110000000#11 ++ 0b101#3 ++ 0b011111111#9 ++ 0b110000010#9) =
      .ok (.slen 5 .none (.latch true .p 2)) ∧
    decodeFabric (0b101100010#9 ++ 0b11111#5 ++ 0b100111111#9 ++ 0b011011000#9) =
      .ok (.sld 31 (.latch true .l 63) (.port 6)) ∧
    decodeFabric (0b101100100#9 ++ 0b00111#5 ++ 0b001000001#9 ++ 0b011111111#9) =
      .ok (.sst 7 (.latch false .r 1) .none) ∧
    decodeFabric (0b101100110#9 ++ 0b01110#5 ++ 0b110000010#9 ++ 0b100111111#9) =
      .ok (.sgen 14 (.latch true .p 2) (.latch true .l 63)) ∧
    decodeFabric (0b10110100#8 ++ 0b10101#5 ++ 0b10101#5 ++ 0b10101#5 ++ 0b001000001#9) =
      .ok (.sand 21 21 21 (.latch false .r 1)) ∧
    decodeFabric (0b10110101#8 ++ 0b11100#5 ++ 0b11100#5 ++ 0b11100#5 ++ 0b110000010#9) =
      .ok (.sor 28 28 28 (.latch true .p 2)) ∧
    decodeFabric (0b10110110#8 ++ 0b00100#5 ++ 0b00100#5 ++ 0b00100#5 ++ 0b011011000#9) =
      .ok (.sxor 4 4 4 (.port 6)) ∧
    decodeFabric (0b10110111#8 ++ 0b01011#5 ++ 0b01011#5 ++ 0b00000#5 ++ 0b011111111#9) =
      .ok (.snot 11 11 .none) ∧
    decodeFabric (0b10111000#8 ++ 0b10010#5 ++ 0b10010#5 ++ 0b10010#5 ++ 0b100111111#9) =
      .ok (.smux 18 18 18 (.latch true .l 63)) ∧
    decodeFabric (0b10111001#8 ++ 0b11001#5 ++ 0b11001#5 ++ 0b11001#5 ++ 0b001000001#9) =
      .ok (.smin 25 25 25 (.latch false .r 1)) ∧
    decodeFabric (0b10111010#8 ++ 0b00001#5 ++ 0b00001#5 ++ 0b00001#5 ++ 0b110000010#9) =
      .ok (.smax 1 1 1 (.latch true .p 2)) ∧
    decodeFabric (0b101110110#9 ++ 0b01000#5 ++ 0b100111111#9 ++ 0b011011000#9) =
      .ok (.scnt 8 (.latch true .l 63) (.port 6)) ∧
    decodeFabric (0b101111000#9 ++ 0b01111#5 ++ 0b001000001#9 ++ 0b011111111#9) =
      .ok (.scntA 15 (.latch false .r 1) .none) ∧
    decodeFabric (0b101111010#9 ++ 0b10110#5 ++ 0b110000010#9 ++ 0b100111111#9) =
      .ok (.scvt 22 (.latch true .p 2) (.latch true .l 63)) ∧
    decodeFabric (0b10111110#8 ++ 0b11101#5 ++ 0b11101#5 ++ 0b1011#4 ++ 0b0#1 ++ 0b001000001#9) =
      .ok (.sregen 29 29 11 (.latch false .r 1)) ∧
    decodeFabric (0b10111111#8 ++ 0b00101#5 ++ 0b00101#5 ++ 0b00000#5 ++ 0b110000010#9) =
      .ok (.smov 5 5 (.latch true .p 2)) := by
  refine ⟨?_, ?_, ?_, ?_, ?_, ?_, ?_, ?_, ?_, ?_, ?_, ?_, ?_, ?_, ?_, ?_⟩ <;> rfl

theorem test_decode_xpyraro :
    decodeXpyraro (0b0000000#7 ++ 0b01100#5 ++ 0b01011#5 ++ 0b000#3 ++ 0b01010#5 ++ 0b0001011#7) =
      some (.xlnch 10 11 12) ∧
    decodeXpyraro (0b000000000000#12 ++ 0b01011#5 ++ 0b001#3 ++ 0b01010#5 ++ 0b0001011#7) =
      some (.xkscan 10 11) ∧
    decodeXpyraro (0b0000000#7 ++ 0b01100#5 ++ 0b01011#5 ++ 0b010#3 ++ 0b01010#5 ++ 0b0001011#7) =
      some (.xqpri 10 11 12) ∧
    decodeXpyraro (0b000000000000#12 ++ 0b01011#5 ++ 0b011#3 ++ 0b01010#5 ++ 0b0001011#7) =
      some (.xqstat 10 11) ∧
    decodeXpyraro (0b000000000000#12 ++ 0b01011#5 ++ 0b100#3 ++ 0b01010#5 ++ 0b0001011#7) =
      some (.xfltPop 10 11) ∧
    decodeXpyraro (0b0000000#7 ++ 0b01100#5 ++ 0b01011#5 ++ 0b101#3 ++ 0b01010#5 ++ 0b0001011#7) =
      some (.xfltRes 10 11 12) ∧
    decodeXpyraro (0b000000000000#12 ++ 0b01011#5 ++ 0b110#3 ++ 0b01010#5 ++ 0b0001011#7) =
      some (.xjnlW 10 11) ∧
    decodeXpyraro (0b000000000000#12 ++ 0b01011#5 ++ 0b111000000001011#15) =
      some (.xhbt 11) ∧
    decodeXpyraro (0b00000000000000000000#20 ++ 0b01010#5 ++ 0b0101011#7) =
      some (.xtake 10) ∧
    decodeXpyraro (0b000000000000#12 ++ 0b01011#5 ++ 0b001#3 ++ 0b01010#5 ++ 0b0101011#7) =
      some (.xpartQsc 10 11) ∧
    decodeXpyraro (0b0000000#7 ++ 0b01100#5 ++ 0b01011#5 ++ 0b010#3 ++ 0b01010#5 ++ 0b0101011#7) =
      some (.xpartIl 10 11 12) ∧
    decodeXpyraro (0b0000000#7 ++ 0b01100#5 ++ 0b01011#5 ++ 0b011#3 ++ 0b01010#5 ++ 0b0101011#7) =
      some (.xpartBnd 10 11 12) ∧
    decodeXpyraro (0b000000000000#12 ++ 0b01011#5 ++ 0b100#3 ++ 0b01010#5 ++ 0b0101011#7) =
      some (.xpartSd 10 11) ∧
    decodeXpyraro (0b000000000000#12 ++ 0b01011#5 ++ 0b101#3 ++ 0b01010#5 ++ 0b0101011#7) =
      some (.xpartCommit 10 11) ∧
    decodeXpyraro (0b000000000000#12 ++ 0b01011#5 ++ 0b110#3 ++ 0b01010#5 ++ 0b0101011#7) =
      some (.xsigVer 10 11) ∧
    decodeXpyraro (0b000000000000#12 ++ 0b01011#5 ++ 0b111#3 ++ 0b01010#5 ++ 0b0101011#7) =
      some (.xrdCnt 10 11) := by
  refine ⟨?_, ?_, ?_, ?_, ?_, ?_, ?_, ?_, ?_, ?_, ?_, ?_, ?_, ?_, ?_, ?_⟩ <;> rfl

/-- Words whose codes the chapters print in full. -/
theorem test_decode_printed :
    decodeFabric 0x00800501 = .ok (.add .word .always (.latch false .l 2) (.latch true .l 1)) ∧
    decodeFabric 0x3C01FE01 = .ok (.kset 0 .none (.latch false .l 1)) ∧
    decodeFabric 0x581DFE32 = .ok (.cvtN .f32 (.f .e2m1) .none (.latch false .l 50)) ∧
    decodeFabric 0x7C05FE01 = .ok (.sysRd .chst .none (.latch false .l 1)) ∧
    decodeFabric 0x8105FE01 = .ok (.ldb .always false true .none (.latch false .l 1)) ∧
    decodeFabric 0x9581FE01 = .ok (.amoCas false .none (.latch false .l 1)) ∧
    decodeFabric 0xA101FE01 = .ok (.mxGath .none (.latch false .l 1)) ∧
    decodeFabric 0xA705FE03 = .ok (.cpyHead 1 .none (.latch false .l 3)) ∧
    decodeFabric 0xAF15FE01 = .ok (.spawn 5 .none (.latch false .l 1)) ∧
    decodeFabric 0xAC19FE00 = .ok (.bufWait true 2 .none (.latch false .l 0)) ∧
    decodeFabric 0xBE314C39 = .ok (.sregen 6 5 3 (.latch false .l 57)) ∧
    decodeFabric 0x88000A01 = .ok (.rel .always 5 (.latch false .l 1)) ∧
    decodeFabric 0x7A05FEFF = .ok (.halt true) ∧ decodeFabric 0x7A01FEFF = .ok (.halt false) ∧
    decodeXpyraro 0x00C5D50B = some (.xfltRes 10 11 12) ∧ decodeXpyraro 0x0000052B = some (.xtake 10) ∧
    decodeXpyraro 0x0005952B = some (.xpartQsc 10 11) := by
  refine ⟨?_, ?_, ?_, ?_, ?_, ?_, ?_, ?_, ?_, ?_, ?_, ?_, ?_, ?_, ?_, ?_, ?_⟩ <;> rfl

/-- Reserved words are refused by name: no word, a free opcode, C = 1 with POS 0b11, a reserved format, a stray bit. -/
theorem test_decode_refused :
    decodeFabric 0 = .error .emptyWord ∧ decodeFabric 0xC0000001 = .error .badOpcode ∧
    decodeFabric 0x0081FFC0 = .error .badForm ∧ decodeFabric 0x4001FE01 = .error .badForm ∧
    decodeFabric 0x00840501 = .error .badForm ∧ decodeFabric 0x00B00501 = .error .badForm ∧
    decodeXpyraro 0x02C5850B = none := by
  refine ⟨?_, ?_, ?_, ?_, ?_, ?_, ?_⟩ <;> rfl

/-! ### States of one instruction -/

/-- A DATA token, and a token of a kind. -/
def dat (n : Nat) : Token := { kind := .data, data := BitVec.ofNat 64 n, psn := false }
def tok (k : Kind) (n : Nat) : Token := { kind := k, data := BitVec.ofNat 64 n, psn := false }

/-- Tokens that arrived before the cycle now. -/
def queue (ts : List Token) : Link := { q := ts.map fun t => { tok := t, cyc := 0, du := 0 }, resv := 0 }

/-- The slot that an instruction is placed in. -/
def slotFor (i : Instr) : Nat := placeSlot (((encode i).getD 0).toNat / 2 ^ 24)

/-- The machine with i placed, its slot's latches holding these tokens. -/
def ready (i : Instr) (l r p : List Token) : State :=
  let s := State.reset.withFetchWord 32 ((encode i).getD 0).toNat
  let x := slotFor i
  { s with
    foc := x, agenda := []
    links := SMap.put (SMap.put (SMap.put [] Link.empty (3 * x) (queue l)) Link.empty (3 * x + 1) (queue r))
      Link.empty (3 * x + 2) (queue p) }

/-- Memory holds bytes from an address on. -/
def putHome (s : State) (a : Nat) (bs : List Byte) : State := s.setHome a bs

/-- The next state of an outcome. -/
def nextOf : Out → Option State
  | .next t => some t
  | _ => none

/-- What stands in link k after i has fired, and in its slot's result latch. -/
def sent (i : Instr) (l r p : List Token) (k : Nat) : List Token :=
  match exec i (ready i l r p) with
  | .next t => (t.link k).q.map Entry.tok
  | _ => []
def held (i : Instr) (l r p : List Token) : Option (Token × Word) :=
  match exec i (ready i l r p) with
  | .next t => (t.slot (slotFor i)).result.map fun v => (v.tok, v.flags)
  | _ => none

/-- The first latch of slot 1. -/
def t1 : Target := .latch false .l 1

/-! ### Values -/

theorem test_adds_clamps : sent (.adds .byte .always .none t1) [dat 100] [dat 100] [] 3 = [dat 127] := by decide
theorem test_subs_clamps : sent (.subs .byte .always .none t1) [dat 0x80] [dat 1] [] 3 = [dat 0x80] := by decide
theorem test_shr_a_full : sent (.shrA .dword .always .none t1) [dat (2 ^ 63)] [dat 64] [] 3 = [dat (2 ^ 64 - 1)] := by decide
theorem test_shl_full : sent (.shl .word .always .none t1) [dat 1] [dat 32] [] 3 = [dat 0] := by decide
theorem test_extr_long : sent (.extr .word .always .none t1) [dat 0xABCD1234] [dat (0x7F00 + 16)] [] 3 = [dat 0xABCD] := by decide
theorem test_insf : sent (.insf .word .none t1) [dat 0xFFFFFFFF] [dat 0] [dat (0x0800 + 4)] 3 = [dat 0xFFFFF00F] := by decide
theorem test_lea_sign : sent (.lea .word .always 2 .none t1) [dat 0x1000] [dat 0xFFFFFFFF] [] 3 = [dat 0xFFC] := by decide
theorem test_cmp_signed : sent (.cmpLt .byte .always .none t1) [dat 0xFF] [dat 0] [] 3 = [dat 1] ∧
    sent (.cmpLtu .byte .always .none t1) [dat 0xFF] [dat 0] [] 3 = [dat 0] := by decide
theorem test_brev : sent (.brev .byte .always .none t1) [dat 0x01] [] [] 3 = [dat 0x80] := by decide
theorem test_clz_zero : sent (.clz .half .always .none t1) [dat 0] [] [] 3 = [dat 16] := by decide
theorem test_apph : sent (.apph 0x1234 t1) [dat 1] [] [] 3 = [dat (0x8000 + 0x1234)] := by decide
theorem test_gens : sent (.gens 0x7FFE t1) [dat 1] [] [] 3 = [dat (2 ^ 64 - 2)] := by decide
theorem test_div_overflow : held (.div .word .always .none t1) [dat 0x80000000] [dat 0xFFFFFFFF] [] =
    some (dat 0x80000000, 0) := by decide
theorem test_rem_by_zero : held (.rem .word .always .none t1) [dat 7] [dat 0] [] = some (dat 7, 0) := by decide
theorem test_div_by_zero : held (.divU .byte .always .none t1) [dat 7] [dat 0] [] = some (dat 0xFF, 0) := by decide
theorem test_mulh : (sent (.mulh .byte .always .none t1) [dat 0x80] [dat 0x80] [] 3, held (.mulh .byte .always .none t1)
    [dat 0x80] [dat 0x80] []) = ([dat 0x40], none) := by decide
theorem test_poison_spreads : sent (.add .word .always .none t1) [{ dat 1 with psn := true }] [dat 2] [] 3 =
    [{ dat 3 with psn := true }] := by decide
theorem test_suppressed : sent (.add .word .ifTrue .none t1) [dat 1] [dat 2] [dat 0] 3 = [] := by decide

/-! ### Floating point -/

theorem test_fadd : (sent (.fadd (.f32 .rne) .always .none t1) [dat 0x3F800000] [dat 0x3F800000] [] 3) = [dat 0x40000000] := by
  decide
theorem test_fadd_up : sent (.fadd (.f32 .rup) .always .none t1) [dat 0x3F800000] [dat 1] [] 3 = [dat 0x3F800001] := by decide
theorem test_fmul_invalid : sent (.fmul (.f32 .rne) .always .none t1) [dat 0x7F800000] [dat 0] [] 3 = [dat 0x7FC00000] := by
  decide
theorem test_fcmp_unordered : sent (.fcmpUn .f16 .always .none t1) [dat 0x7E00] [dat 0] [] 3 = [dat 1] := by decide
/-- The worked example of spec/06: 5.0 to E2M1 is a tie between 4 and 6, and 4.0 comes back. -/
theorem test_cvt_n : sent (.cvtN .f32 (.f .e2m1) .none t1) [dat 0x40A00000] [] [] 3 = [dat 6] ∧
    sent (.cvtNW .e2m1 .none t1) [dat 6] [] [] 3 = [dat 0x40800000] := by decide
theorem test_cvt_fi_clamps : sent (.cvtFiSw (.f32 .rtz) .always .none t1) [dat 0x4F800000] [] [] 3 = [dat 0x7FFFFFFF] := by decide

/-! ### Markers, accumulators, counters, router operators -/

theorem test_eos : sent (.eosI .always 9 t1) [dat 1] [] [] 3 = [tok .eos 9] := by decide
theorem test_marker_passes : sent (.add .word .always .none t1) [tok .eot 5] [dat 1] [] 3 = [tok .eot 5] := by decide
theorem test_iacc_then_eos : sent (.iacc .word false .none t1) [tok .eos 1] [] [] 3 = [dat 0] := by decide
theorem test_kset_refuses_chain_at_0 : sent (.kset 0 .none t1) [dat (2 ^ 32)] [] [] 3 = [] := by decide
theorem test_knext : sent (.knext 2 .none t1) [dat 1] [] [] 3 = [dat 0] := by decide
theorem test_kread_pass : sent (.kread .pass .none t1) [dat 1] [] [] 3 = [dat 1] := by decide
theorem test_steer : sent (.steer (.latch false .r 1) t1) [dat 7] [] [dat 1] 4 = [dat 7] ∧
    sent (.steer (.latch false .r 1) t1) [dat 7] [] [dat 0] 3 = [dat 7] := by decide
theorem test_merge : sent (.merge .none t1) [dat 1] [dat 2] [dat 1] 3 = [dat 2] := by decide
theorem test_carry_first : sent (.carry .none t1) [dat 4] [] [] 3 = [dat 4] := by decide
theorem test_gate_closed : sent (.gate .none t1) [dat 4] [] [dat 0] 3 = [] := by decide
theorem test_ordj : sent (.ordj .none t1) [dat 4] [tok .eot 1] [] 3 = [tok .ord 0] := by decide

/-! ### Witnesses: elements -/

theorem witness_SumsAndShifts : ∃ (s : State) (i : Instr) (r : List (Pos × Token)) (v : Nat), Ready s i r ∧ Passes i r ∧
    NotDeferred s i ∧ sumValue i (tokenAt r .l).data (tokenAt r .r).data = some v :=
  ⟨ready (.shl .dword .ifTrue .none t1) [dat 1] [dat 63] [dat 1], .shl .dword .ifTrue .none t1,
    [(.l, dat 1), (.r, dat 63), (.p, dat 1)], 2 ^ 63,
    ⟨by decide, by decide, by decide, by decide, .inl (by decide)⟩, ⟨rfl, by decide⟩, .inl (by decide), by decide⟩

theorem witness_ChoicesAndConstants : ∃ (s : State) (i : Instr) (r : List (Pos × Token)) (v : Nat), Ready s i r ∧ Passes i r ∧
    NotDeferred s i ∧ choiceValue i (tokenAt r .l).data (tokenAt r .r).data (tokenAt r .p).data = some v :=
  ⟨ready (.sel .byte .none t1) [dat 1] [dat 2] [dat 0], .sel .byte .none t1, [(.l, dat 1), (.r, dat 2), (.p, dat 0)], 2,
    ⟨by decide, by decide, by decide, by decide, .inl (by decide)⟩, trivial, .inl (by decide), by decide⟩

theorem witness_CountsAndProducts : ∃ (s : State) (i : Instr) (r : List (Pos × Token)) (v : Nat), Ready s i r ∧ Passes i r ∧
    NotDeferred s i ∧ countValue i (tokenAt r .l).data (tokenAt r .r).data (tokenAt r .p).data = some v :=
  ⟨ready (.div .word .always .none t1) [dat 0x80000000] [dat 0xFFFFFFFF] [], .div .word .always .none t1,
    [(.l, dat 0x80000000), (.r, dat 0xFFFFFFFF)], 0x80000000,
    ⟨by decide, by decide, by decide, by decide, .inl (by decide)⟩, trivial, .inl (by decide), by decide⟩

theorem witness_FloatElements : ∃ (s : State) (i : Instr) (r : List (Pos × Token)) (v : FRes), Ready s i r ∧ Passes i r ∧
    NotDeferred s i ∧ floatValue i (tokenAt r .l).data (tokenAt r .r).data = some v :=
  ⟨ready (.fmul (.f32 .rne) .always .none t1) [dat 0x7F800000] [dat 0] [], .fmul (.f32 .rne) .always .none t1,
    [(.l, dat 0x7F800000), (.r, dat 0)], (0x7FC00000, { nv := true }),
    ⟨by decide, by decide, by decide, by decide, .inl (by decide)⟩, trivial, .inl (by decide), by decide⟩

theorem witness_RoundsCorrectly : fp32 ∈ floatFmts ∧ (3 : Nat) ≠ 0 ∧ fp32.maxBits ≤ fp32.maxBits ∧
    (roundMag fp32 .rne false 3 (-1)).overflow = false ∧ (roundMag fp32 .rtz true 3 (-1)).overflow = false := by decide

theorem witness_MarkersMade : ∃ (s : State) (i : Instr) (r : List (Pos × Token)) (k : Kind) (v : DWord), Ready s i r ∧
    Passes i r ∧ NotDeferred s i ∧ markerOf i (tokenAt r .l).data = some (k, v) :=
  ⟨ready (.eosI .always 511 t1) [dat 1] [] [], .eosI .always 511 t1, [(.l, dat 1)], .eos, 511,
    ⟨by decide, by decide, by decide, by decide, .inl (by decide)⟩, trivial, .inl (by decide), by decide⟩

/-- A false predicate of an .IFT form, and a true one of an .IFF form. -/
theorem witness_PredicateSuppresses : ∃ (s u : State) (i j : Instr) (r q : List (Pos × Token)),
    (isPlain i = true ∧ Idle s i ∧ NotDeferred s i ∧ readAll s s.foc (latchesRead i) = some r ∧
      (∀ e ∈ r, e.2.kind = .data) ∧ (tokenAt r .p).psn = false ∧ predicateOf i = .ifTrue ∧ (tokenAt r .p).data = 0) ∧
    isPlain j = true ∧ Idle u j ∧ NotDeferred u j ∧ readAll u u.foc (latchesRead j) = some q ∧
      (∀ e ∈ q, e.2.kind = .data) ∧ (tokenAt q .p).psn = false ∧ predicateOf j = .ifFalse ∧ (tokenAt q .p).data ≠ 0 :=
  ⟨ready (.mov .byte .ifTrue .none t1) [dat 1] [] [dat 0], ready (.mov .byte .ifFalse .none t1) [dat 1] [] [dat 2],
    .mov .byte .ifTrue .none t1, .mov .byte .ifFalse .none t1, [(.l, dat 1), (.p, dat 0)], [(.l, dat 1), (.p, dat 2)],
    ⟨by decide, ⟨by decide, .inl (by decide)⟩, .inl (by decide), by decide, by decide, by decide, rfl, by decide⟩,
    by decide, ⟨by decide, .inl (by decide)⟩, .inl (by decide), by decide, by decide, by decide, rfl, by decide⟩

/-- An EOT behind a DATA operand; EOS on every input; EOS and DATA in a DRAIN block. -/
def drained (s : State) : State :=
  s.setTile 0 { s.tile 0 with cfg := match (s.tile 0).cfg with
    | h :: c => (h ||| 0x00040000) :: c
    | [] => [] }

theorem witness_MarkersPass_marker : ∃ (s : State) (i : Instr) (r : List (Pos × Token)), isPlain i = true ∧ Idle s i ∧
    NotDeferred s i ∧ readAll s s.foc (latchesRead i) = some r ∧ targetsFree s s.foc (targetsOf i) = true ∧
    r = [(.l, dat 1)] ++ (.r, tok .eot 2) :: [] :=
  ⟨ready (.add .byte .always .none t1) [dat 1] [tok .eot 2] [], .add .byte .always .none t1, [(.l, dat 1), (.r, tok .eot 2)],
    by decide, ⟨by decide, .inl (by decide)⟩, .inl (by decide), by decide, by decide, rfl⟩

theorem witness_MarkersPass_all : ∃ (s : State) (i : Instr) (r : List (Pos × Token)), isPlain i = true ∧ Idle s i ∧
    NotDeferred s i ∧ readAll s s.foc (latchesRead i) = some r ∧ targetsFree s s.foc (targetsOf i) = true ∧
    ∀ e ∈ r, e.2.kind = .eos :=
  ⟨ready (.add .byte .always .none t1) [tok .eos 1] [tok .eos 2] [], .add .byte .always .none t1,
    [(.l, tok .eos 1), (.r, tok .eos 2)],
    by decide, ⟨by decide, .inl (by decide)⟩, .inl (by decide), by decide, by decide, by decide⟩

theorem witness_MarkersPass_drain : ∃ (s : State) (i : Instr) (r : List (Pos × Token)), isPlain i = true ∧ Idle s i ∧
    NotDeferred s i ∧ readAll s s.foc (latchesRead i) = some r ∧ (∀ e ∈ r, e.2.kind = .data ∨ e.2.kind = .eos) ∧
    (∃ e ∈ r, e.2.kind = .data) ∧ (∃ e ∈ r, e.2.kind = .eos) ∧ hdrDrain (cfgHeader (s.tile (tileOf s.foc)).cfg) = true :=
  ⟨drained (ready (.add .byte .always .none t1) [dat 1] [tok .eos 2] []), .add .byte .always .none t1,
    [(.l, dat 1), (.r, tok .eos 2)],
    by decide, ⟨by decide, .inl (by decide)⟩, .inl (by decide), by decide, by decide, by decide, by decide, by decide⟩

/-- FACC and IACC on DATA, on the first and the second firing of an EOS, and on another marker. -/
def phase (n : Nat) (s : State) : State :=
  s.setSlot s.foc { s.slot s.foc with hold := { (s.slot s.foc).hold with phase := n } }

theorem witness_Accumulators_data : ∃ (s : State) (i : Instr) (e : Entry) (v : FRes), (sumStep i none 0).isSome = true ∧
    slotReady s s.foc = true ∧ (s.slot s.foc).mismatch = none ∧ headAt s s.foc .l = some e ∧ e.tok.kind = .data ∧
    sumStep i ((sumOf s s.foc).map Token.data) e.tok.data = some v :=
  ⟨ready (.facc (.f32 .rne) .none t1) [dat 0x3F800000] [] [], .facc (.f32 .rne) .none t1,
    { tok := dat 0x3F800000, cyc := 0, du := 0 }, (0x3F800000, Flags.none),
    by decide, by decide, by decide, by decide, rfl, by decide⟩

theorem witness_Accumulators_eos : ∃ (s u : State) (i : Instr) (e : Entry), (sumStep i none 0).isSome = true ∧
    (slotReady s s.foc = true ∧ (s.slot s.foc).mismatch = none ∧ headAt s s.foc .l = some e ∧
      targetsFree s s.foc (targetsOf i) = true ∧ (s.slot s.foc).hold.phase = 0) ∧
    slotReady u u.foc = true ∧ (u.slot u.foc).mismatch = none ∧ headAt u u.foc .l = some e ∧
      targetsFree u u.foc (targetsOf i) = true ∧ (u.slot u.foc).hold.phase = 1 ∧ e.tok.kind = .eos :=
  ⟨ready (.iacc .dword true .none t1) [tok .eos 3] [] [], phase 1 (ready (.iacc .dword true .none t1) [tok .eos 3] [] []),
    .iacc .dword true .none t1, { tok := tok .eos 3, cyc := 0, du := 0 }, by decide,
    ⟨by decide, by decide, by decide, by decide, by decide⟩, by decide, by decide, by decide, by decide, by decide, rfl⟩

theorem witness_Accumulators_marker : ∃ (s : State) (i : Instr) (e : Entry), (sumStep i none 0).isSome = true ∧
    slotReady s s.foc = true ∧ (s.slot s.foc).mismatch = none ∧ headAt s s.foc .l = some e ∧ e.tok.kind = .ord ∧
    targetsFree s s.foc (targetsOf i) = true :=
  ⟨ready (.iacc .dword true .none t1) [tok .ord 3] [] [], .iacc .dword true .none t1, { tok := tok .ord 3, cyc := 0, du := 0 },
    by decide, by decide, by decide, by decide, rfl, by decide⟩

/-- The highest counter, and one counter read and one written. -/
theorem witness_CountersCount : ∃ (s : State) (i : Instr) (e : Entry) (ks : List KCtr) (v : Nat), slotReady s s.foc = true ∧
    headAt s s.foc .l = some e ∧ e.tok.kind = .data ∧
    targetsFree s s.foc (targetsOf i) = true ∧ counterValue s i e.tok = some (ks, v) :=
  ⟨ready (.kset 7 .none t1) [dat 0x100000005] [] [], .kset 7 .none t1, { tok := dat 0x100000005, cyc := 0, du := 0 },
    List.replicate 7 KCtr.reset ++ [{ val := 0, lim := 5, chain := true, pmask := 0 }], 0,
    by decide, by decide, rfl, by decide, by decide⟩

theorem witness_CountersCount_reads : ∃ (s u : State) (i j : Instr) (e : Entry) (ks qs : List KCtr) (v w : Nat),
    (slotReady s s.foc = true ∧ headAt s s.foc .l = some e ∧
      targetsFree s s.foc (targetsOf i) = true ∧ counterValue s i e.tok = some (ks, v)) ∧
    slotReady u u.foc = true ∧ headAt u u.foc .l = some e ∧
      targetsFree u u.foc (targetsOf j) = true ∧ counterValue u j e.tok = some (qs, w) ∧ e.tok.kind = .data :=
  ⟨ready (.knext 0 .none t1) [dat 1] [] [], ready (.kread .kpack .none t1) [dat 1] [] [], .knext 0 .none t1,
    .kread .kpack .none t1, { tok := dat 1, cyc := 0, du := 0 },
    kAdvance 8 (List.replicate 8 KCtr.reset) 0, List.replicate 8 KCtr.reset, 0, 0,
    ⟨by decide, by decide, by decide, by decide⟩, by decide, by decide, by decide, by decide, rfl⟩

theorem witness_CountersCount_chain : ∃ (ks : List KCtr) (c : Nat), ks.length = 8 ∧ c < 8 ∧
    ∀ k ∈ ks, k.lim = 0 ∨ k.val.toNat < k.lim.toNat :=
  ⟨List.replicate 7 KCtr.reset ++ [{ val := 4, lim := 5, chain := true, pmask := 0 }], 7, by decide, by decide, by decide⟩

/-- A STEER that sends, and a CARRY that is closed by its condition and sends nothing. -/
theorem witness_RouterOperators : ∃ (s u : State) (i j : Instr) (ps qs : List Pos) (k : Token) (gs hs : List Target) (h m : Hold),
    (Idle s i ∧ NotDeferred s i ∧
      routerCase i (s.slot s.foc).hold (seen s .l) (seen s .r) (seen s .p) = some (ps, some k, gs, h) ∧
      targetsFree s s.foc gs = true) ∧
    Idle u j ∧ NotDeferred u j ∧
      routerCase j (u.slot u.foc).hold (seen u .l) (seen u .r) (seen u .p) = some (qs, none, hs, m) :=
  ⟨ready (.steer (.latch false .r 1) t1) [dat 7] [] [dat 0], phase 1 (ready (.carry .none t1) [] [] [dat 0]),
    .steer (.latch false .r 1) t1, .carry .none t1, [.l, .p], [.p], dat 7, [t1], [], _, _,
    ⟨⟨by decide, .inl (by decide)⟩, .inl (by decide), by rfl, by decide⟩,
    ⟨by decide, .inl (by decide)⟩, .inl (by decide), by rfl⟩

theorem witness_RouterOperators_markers : ∃ (s u : State) (i j : Instr) (ps qs : List Pos) (k m : Token) (gs hs : List Target)
    (h n : Hold),
    (Idle s i ∧ NotDeferred s i ∧
      routerCase i (s.slot s.foc).hold (seen s .l) (seen s .r) (seen s .p) = some (ps, some k, gs, h) ∧
      targetsFree s s.foc gs = true) ∧
    Idle u j ∧ NotDeferred u j ∧
      routerCase j (u.slot u.foc).hold (seen u .l) (seen u .r) (seen u .p) = some (qs, some m, hs, n) ∧
      targetsFree u u.foc hs = true :=
  ⟨ready (.sinkA .none t1) [tok .eos 7] [] [], phase 1 (ready (.carryI 511 t1) [] [] [tok .eos 4]),
    .sinkA .none t1, .carryI 511 t1, [.l], [.p], dat 0, tok .eos 4, [t1, .none], [t1], _, _,
    ⟨⟨by decide, .inl (by decide)⟩, .inl (by decide), by rfl, by decide⟩,
    ⟨by decide, .inl (by decide)⟩, .inl (by decide), by rfl, by decide⟩

theorem witness_ElementsKeepTheRest : ∃ (s t : State) (i : Instr), isElement i = true ∧ exec i s = .next t ∧
    t.nextId = s.nextId :=
  ⟨ready (.add .word .always .none t1) [dat 1] [dat 2] [], _, .add .word .always .none t1, by decide, rfl, by decide⟩

/-! ### Witnesses: memory, commands, system instructions -/

/-- The graph that withFetchWord places, and page 0 of its virtual space at DRAM page 1, every permission granted. -/
def placed : GraphSt := placeGraph State.reset
def mapped (s : State) : State :=
  let o := sliceOwner s 0 0
  s.setField o { s.field o with tlb := [(0, { vpn := 0, pte := 0xFFFFFFFF000000000020007F })] }

/-- A block of the most bytes, and a fence with a poisoned trigger. -/
theorem witness_AccessesFire : ∃ (s : State) (i : Instr) (o : MemOp) (r : List (Pos × Token)), memOp i = some o ∧
    isAccessOp o = true ∧ portReady s s.foc = true ∧ SeesData s i r ∧ (tokenAt r .l).psn = false ∧ OperandsOk o r :=
  ⟨ready (.ldb .always false false .none t1) [dat 64] [dat 4096] [], .ldb .always false false .none t1, .ldb false false,
    [(.l, dat 64), (.r, dat 4096)], by decide, by decide, by decide, ⟨by decide, by decide, trivial⟩, by decide,
    ⟨by decide, by decide⟩⟩

theorem witness_AccessesFire_atomic : ∃ (s : State) (i : Instr) (o : MemOp) (r : List (Pos × Token)), memOp i = some o ∧
    isAccessOp o = true ∧ portReady s s.foc = true ∧ SeesData s i r ∧ (tokenAt r .l).psn = false ∧ OperandsOk o r :=
  ⟨ready (.amoCas true .none t1) [dat 8] [dat 1] [dat 2], .amoCas true .none t1, .amo .cas 8,
    [(.l, dat 8), (.r, dat 1), (.p, dat 2)], by decide, by decide, by decide, ⟨by decide, by decide, trivial⟩, by decide,
    ⟨by decide, by decide, by decide⟩⟩

theorem witness_AccessesFire_fence : ∃ (s : State) (i : Instr) (r : List (Pos × Token)), i = .fenceF .none t1 ∧
    portReady s s.foc = true ∧ SeesData s i r ∧ (tokenAt r .l).psn = true :=
  ⟨ready (.fenceF .none t1) [{ dat 1 with psn := true }] [] [], .fenceF .none t1, [(.l, { dat 1 with psn := true })], rfl,
    by decide, ⟨by decide, by decide, trivial⟩, rfl⟩

theorem witness_FaultsRaised_misalign : ∃ (s : State) (i : Instr) (o : MemOp) (n : Nat) (r : List (Pos × Token)) (g : GraphSt),
    memOp i = some o ∧ o = .pld n ∧ portReady s s.foc = true ∧ SeesData s i r ∧ (tokenAt r .l).psn = false ∧
    (tokenAt r .l).data.toNat % n ≠ 0 ∧ Postable s g codeMisalign :=
  ⟨ready (.pld true .always .none t1) [dat 4] [] [], .pld true .always .none t1, .pld 8, 8, [(.l, dat 4)], placed,
    by decide, rfl, by decide, ⟨by decide, by decide, trivial⟩, by decide, by decide,
    ⟨by decide, by decide, by decide, .inl (by decide)⟩⟩

theorem witness_FaultsRaised_trap : ∃ (s u : State) (i j : Instr) (r q : List (Pos × Token)) (g : GraphSt),
    (i = .trap .ifTrue 511 t1 ∧ cmdReady s s.foc = true ∧ SeesData s i r ∧ CleanOperands i r ∧ Postable s g codeTrap) ∧
    j = .trapV .always .none t1 ∧ cmdReady u u.foc = true ∧ SeesData u j q ∧ CleanOperands j q ∧ Postable u g codeTrap :=
  ⟨ready (.trap .ifTrue 511 t1) [dat 4] [] [dat 1], ready (.trapV .always .none t1) [dat 4] [] [], .trap .ifTrue 511 t1,
    .trapV .always .none t1, [(.l, dat 4), (.p, dat 1)], [(.l, dat 4)], placed,
    ⟨rfl, by decide, ⟨by decide, by decide, ⟨rfl, by decide⟩⟩, by unfold CleanOperands; decide,
      ⟨by decide, by decide, by decide, .inl (by decide)⟩⟩,
    rfl, by decide, ⟨by decide, by decide, trivial⟩, by unfold CleanOperands; decide, ⟨by decide, by decide, by decide, .inl (by decide)⟩⟩

/-- Virtual page 0 at the stores of tiles 0 to 3, tile 1 an MT tile. -/
def tabled (s : State) : State :=
  let s := (putHome (putHome s 0x200000 (leBytes 16 0x220001)) 0x220000 (leBytes 16 (tileBase + 0x7F))).setTile 1
    { s.tile 1 with cfg := [0x02000000] }
  s.setQuarter 0 { s.quarter 0 with active := { (s.quarter 0).active with root := 16, rootV := true } }

/-- A group of one plane region with NMEM 255, a rank of 255, and no rank arrived or this one already. -/
def planeEntry : BitVec 128 := BitVec.ofNat 128 (0x2000 * 2 ^ 86 + 1 * 2 ^ 54 + 2 * 2 ^ 52 + 63 * 2 ^ 38 + 255 * 2 ^ 25)
def groupsOf (as : List Arrival) : GraphSt := { placed with groups := [(63, { stepn := 0, arrived := as, next := [] })] }
def planes (as : List Arrival) : State :=
  let s := tabled (ready (.step 63 .none t1) [dat 255] [] [])
  { s.setField 0 { s.field 0 with regions := [(0, planeEntry)] } with graphs := [groupsOf as] }
def arrival : Arrival := { rank := 255, x := 57, id := 7, cyc := 0 }

theorem plane_pieces : planePieces (planes []) 0 planeEntry = [(tileBase + 0x80000, 64)] := by decide +kernel
theorem plane_pieces_again : planePieces (planes [arrival]) 0 planeEntry = [(tileBase + 0x80000, 64)] := by decide +kernel
theorem plane_place : planePlace (planes []) (tileBase + 0x80000, 64) = true ∧
    planePlace (planes [arrival]) (tileBase + 0x80000, 64) = true := by decide

theorem witness_StepArrives : ∃ (s u : State) (sg : BitVec 6) (r : List (Pos × Token)) (g h : GraphSt) (e : BitVec 128),
    (portReady s s.foc = true ∧ SeesData s (.step sg .none t1) r ∧ ownGraph s = some g ∧ groupRegions s g sg.toNat = [e] ∧
      (tokenAt r .l).data.toNat % 256 ≤ regNmem e ∧ (∀ p ∈ planePieces s g.lead e, planePlace s p = true) ∧
      ∀ b ∈ (SMap.get g.groups Group.reset sg.toNat).arrived, b.rank ≠ (tokenAt r .l).data.toNat % 256) ∧
    portReady u u.foc = true ∧ SeesData u (.step sg .none t1) r ∧ ownGraph u = some h ∧ groupRegions u h sg.toNat = [e] ∧
      (∀ p ∈ planePieces u h.lead e, planePlace u p = true) ∧
      ∃ b ∈ (SMap.get h.groups Group.reset sg.toNat).arrived, b.rank = (tokenAt r .l).data.toNat % 256 := by
  refine ⟨planes [], planes [arrival], 63, [(.l, dat 255)], groupsOf [], groupsOf [arrival], planeEntry,
    ⟨by decide, ⟨by decide, by decide, trivial⟩, by decide, by decide, by decide, ?_, by decide⟩,
    by decide, ⟨by decide, by decide, trivial⟩, by decide, by decide, ?_, by decide⟩
  · intro p hp
    rw [show (groupsOf []).lead = 0 from rfl, plane_pieces, List.mem_singleton] at hp
    exact hp ▸ plane_place.1
  · intro p hp
    rw [show (groupsOf [arrival]).lead = 0 from rfl, plane_pieces_again, List.mem_singleton] at hp
    exact hp ▸ plane_place.2

def holding (g : Guard) (s : State) : State := { s with graphs := [{ placed with guards := [(255, g)] }] }

theorem witness_GuardsAskedAndLeft_waiting : ∃ (s : State) (g : GraphSt) (a : GuardReq), ownGraph s = some g ∧
    a ∈ (SMap.get g.guards Guard.free 255).queue ∧ a.x = s.foc :=
  ⟨holding { Guard.free with excl := some 1, queue := [⟨56, 7, false, 0⟩] } (ready (.acqX .always 255 t1) [dat 1] [] []),
    { placed with guards := [(255, { Guard.free with excl := some 1, queue := [⟨56, 7, false, 0⟩] })] }, ⟨56, 7, false, 0⟩,
    by decide, by decide, by decide⟩

theorem witness_ContainmentOpens_waiting : ∃ s : State, (s.slot s.foc).cmds ≠ [] :=
  ⟨State.setSlot (ready (.ctnOpen .none t1) [dat 1] [] []) 56 { SlotSt.reset with cmds := [7] }, by decide⟩

theorem witness_GuardsAskedAndLeft : ∃ (s u : State) (n : BitVec 8) (r : List (Pos × Token)) (g h : GraphSt),
    (portReady s s.foc = true ∧ SeesData s (.acqS .always n t1) r ∧ ownGraph s = some g ∧
      holdsGuard s (tileOf s.foc) n.toNat = false ∧ awaitsGuard (SMap.get g.guards Guard.free n.toNat) (tileOf s.foc) = false) ∧
    portReady u u.foc = true ∧ SeesData u (.rel .always n t1) r ∧ ownGraph u = some h ∧
      holdsGuard u (tileOf u.foc) n.toNat = true :=
  ⟨ready (.acqS .always 255 t1) [dat 1] [] [],
    holding { Guard.free with excl := some 0 } (ready (.rel .always 255 t1) [dat 1] [] []), 255, [(.l, dat 1)], placed,
    { placed with guards := [(255, { Guard.free with excl := some 0 })] },
    ⟨by decide, ⟨by decide, by decide, trivial⟩, by decide, by decide, by decide⟩,
    by decide, ⟨by decide, by decide, trivial⟩, by decide, by decide⟩

/-- A REL at the head of its slot's pending parts, its tile the holder. -/
def leaving : Access :=
  { id := 9, i := .rel .always 255 t1, va := 1, data := 0, p := 0, psn := false, block := [], ks := [0, 0, 0, 0], firedAt := 0,
    held := false, parts := some [actionPart] }
def left : State :=
  let s := holding { Guard.free with excl := some 0 } (ready (.rel .always 255 t1) [] [] [])
  s.setSlot 56 { s.slot 56 with accs := [leaving] }

theorem witness_GuardsAskedAndLeft_performed : ∃ g : GraphSt, (pendingParts (left.slot 56))[0]? = some (leaving, 0) ∧
    leaving.parts = some [actionPart] ∧ (left.tile (tileOf 56)).owner = some (g.id, g.id + 1) ∧ left.graph? g.id = some g ∧
    boundLoadPending left (tileOf 56) 255 = false ∧ (SMap.get g.guards Guard.free 255).excl = some 0 :=
  ⟨{ placed with guards := [(255, { Guard.free with excl := some 0 })] }, by decide, rfl, by decide, by decide, by decide, by decide⟩

/-- The ninth byte is still to come; the last byte of 8 is in; the first and the eighth index token. -/
def beats (k : Nat) (s : State) : State := s.setSlot s.foc { s.slot s.foc with burst := List.replicate k 1 }

theorem witness_BurstsTakeBeats_store : ∃ (s u : State) (l r p q : Entry),
    (portReady s s.foc = true ∧ headAt s s.foc .l = some l ∧ headAt s s.foc .r = some r ∧ headAt s s.foc .p = some p ∧
      8 * ((s.slot s.foc).burst ++ [r.tok.data]).length < (p.tok.data.extractLsb' 0 13).toNat) ∧
    portReady u u.foc = true ∧ headAt u u.foc .l = some l ∧ headAt u u.foc .r = some r ∧ headAt u u.foc .p = some q ∧
      (q.tok.data.extractLsb' 0 13).toNat ≤ 8 * ((u.slot u.foc).burst ++ [r.tok.data]).length ∧
      1 ≤ (q.tok.data.extractLsb' 0 13).toNat ∧ (p.tok.data.extractLsb' 0 13).toNat ≤ 4096 ∧
    l.tok.kind = .data ∧ r.tok.kind = .data ∧ p.tok.kind = .data ∧ q.tok.kind = .data ∧ l.tok.psn = false :=
  ⟨ready (.stb .none t1) [dat 64] [dat 5] [dat 9], ready (.stb .none t1) [dat 64] [dat 5] [dat 8],
    ⟨dat 64, 0, 0⟩, ⟨dat 5, 0, 0⟩, ⟨dat 9, 0, 0⟩, ⟨dat 8, 0, 0⟩,
    ⟨by decide, by decide, by decide, by decide, by decide⟩,
    by decide, by decide, by decide, by decide, by decide, by decide, by decide, rfl, rfl, rfl, rfl, rfl⟩

theorem witness_BurstsTakeBeats_gather : ∃ (s u : State) (l r : Entry),
    (cmdReady s s.foc = true ∧ headAt s s.foc .l = some l ∧ headAt s s.foc .r = some r ∧
      ((s.slot s.foc).burst ++ [l.tok.data]).length < 8) ∧
    cmdReady u u.foc = true ∧ headAt u u.foc .l = some l ∧ headAt u u.foc .r = some r ∧
      ((u.slot u.foc).burst ++ [l.tok.data]).length = 8 ∧
    l.tok.kind = .data ∧ r.tok.kind = .data ∧ l.tok.psn = false ∧ r.tok.psn = false :=
  ⟨ready (.mxGath .none t1) [dat 64] [dat 5] [], beats 7 (ready (.mxGath .none t1) [dat 64] [dat 5] []),
    ⟨dat 64, 0, 0⟩, ⟨dat 5, 0, 0⟩, ⟨by decide, by decide, by decide, by decide⟩,
    by decide, by decide, by decide, by decide, rfl, rfl, rfl, rfl⟩

/-- A command of every engine, and CTN.CLOSE of the region the tile owns. -/
theorem witness_CommandsFire : ∃ (s : State) (i : Instr) (r : List (Pos × Token)) (qs : List Nat) (lock : Bool),
    destination i = some (qs, lock) ∧ cmdReady s s.foc = true ∧ SeesData s i r ∧ CleanOperands i r ∧ CommandOk s i :=
  ⟨ready (.mxCfg 15 .none t1) [dat 1] [] [], .mxCfg 15 .none t1, [(.l, dat 1)], [0, 1, 2, 3], false, by decide, by decide,
    ⟨by decide, by decide, trivial⟩, by unfold CleanOperands; decide, trivial⟩

theorem witness_CommandsFire_stream : ∃ (s : State) (i : Instr) (r : List (Pos × Token)), destination i = some ([10], false) ∧
    cmdReady s s.foc = true ∧ SeesData s i r ∧ CleanOperands i r ∧ CommandOk s i ∧ targetsFree s s.foc (targetsOf i) = true :=
  ⟨ready (.slen 5 .none t1) [dat 1] [] [], .slen 5 .none t1, [(.l, dat 1)], by decide, by decide,
    ⟨by decide, by decide, trivial⟩, by unfold CleanOperands; decide, trivial, by decide⟩

theorem witness_CommandsFire_close : ∃ (s u : State) (i j : Instr) (r : List (Pos × Token)),
    (destination i = some ([], false) ∧ cmdReady s s.foc = true ∧ SeesData s i r ∧ CleanOperands i r ∧ CommandOk s i) ∧
    destination j = some ([], false) ∧ cmdReady u u.foc = true ∧ SeesData u j r ∧ CleanOperands j r ∧ CommandOk u j :=
  ⟨(ready (.ctnClose .none t1) [dat 1] [] []).setField 0
      { (State.reset.field 0) with ctn := { handler := 1, opened := true, early := false, owner := 0 } },
    ready (.bufWait false 3 .none t1) [dat 1] [] [], .ctnClose .none t1, .bufWait false 3 .none t1, [(.l, dat 1)],
    ⟨by decide, by decide, ⟨by decide, by decide, trivial⟩, by unfold CleanOperands; decide, ⟨by decide, by decide⟩⟩,
    by decide, by decide, ⟨by decide, by decide, trivial⟩, by unfold CleanOperands; decide, by unfold CommandOk; decide⟩

/-- What a read answers, and a record that it answers in full. -/
def okOf {ε α : Type} : Except ε α → Option α
  | .ok a => some a
  | .error _ => none
def bytesOf : EngRead → Option (List Byte)
  | .ok a => some a
  | _ => none
theorem eq_ok {ε α : Type} {x : Except ε α} {a : α} (h : okOf x = some a) : x = .ok a := by
  cases x <;> simp_all [okOf]
theorem eq_bytes {x : EngRead} {a : List Byte} (h : bytesOf x = some a) : x = .ok a := by
  cases x <;> simp_all [bytesOf]

theorem fst_eq {α β : Type} {p : α × β} {a : α} (h : p.1 = a) : p = (a, p.2) := by
  cases p
  simp_all
theorem snd_eq {α β : Type} {p : α × β} {b : β} (h : p.2 = b) : p = (p.1, b) := by
  cases p
  simp_all

/-- The graph's record 1 names a handler. -/
def handlerRec : State := putHome (mapped (ready (.ctnOpen .none t1) [dat 1] [] [])) 0x200040 [5]

theorem witness_ContainmentOpens : ∃ (s s' : State) (r r' : List (Pos × Token)) (g : GraphSt),
    cmdReady s s.foc = true ∧ (s.slot s.foc).cmds = [] ∧ SeesData s (.ctnOpen .none t1) r ∧ (tokenAt r .l).psn = false ∧ ownGraph s = some g ∧
    runRd (handlerRecord g (tileOf s.foc) ((tokenAt r .l).data.toNat % 65536)) (s.task (ownNode s)) = (.ok true, s') ∧ s'.foc = s.foc ∧
    (s'.slot s'.foc).cmds = [] ∧ cmdReady s' s'.foc = true ∧ SeesData s' (.ctnOpen .none t1) r' ∧ (tokenAt r' .l).psn = false ∧
    ownsRegion s' (tileOf s.foc) = false :=
  ⟨handlerRec, (runRd (handlerRecord placed 0 1) (handlerRec.task (ownNode handlerRec))).2, [(.l, dat 1)], [(.l, dat 1)], placed,
    by decide +kernel, by decide +kernel, ⟨by decide +kernel, by decide +kernel, trivial⟩, by decide +kernel, by decide +kernel, fst_eq (eq_ok (by decide +kernel)), by decide +kernel,
    by decide +kernel, by decide +kernel, ⟨by decide +kernel, by decide +kernel, trivial⟩, by decide +kernel, by decide +kernel⟩

theorem unchained_t1 (i : Instr) (h : targetsOf i = [t1, .none]) : Unchained i := by
  intro p m
  simp [h, t1]

theorem witness_SystemReads : ∃ (s : State) (reg : SysReg) (r : List (Pos × Token)), cmdReady s s.foc = true ∧
    SeesData s (.sysRd reg .none t1) r ∧ (tokenAt r .l).psn = false ∧ Immediate s (.sysRd reg .none t1) :=
  ⟨ready (.sysRd (.crec 7) .none t1) [dat 1] [] [], .crec 7, [(.l, dat 1)], by decide, ⟨by decide, by decide, trivial⟩,
    by decide, by decide, unchained_t1 _ rfl, by decide⟩

theorem witness_SystemWrites : ∃ (s : State) (reg : SysReg) (r : List (Pos × Token)), cmdReady s s.foc = true ∧
    SeesData s (.sysWr reg .none t1) r ∧ (tokenAt r .l).psn = false ∧ Immediate s (.sysWr reg .none t1) :=
  ⟨ready (.sysWr .chst .none t1) [dat 0x80000000] [] [], .chst, [(.l, dat 0x80000000)], by decide,
    ⟨by decide, by decide, trivial⟩, by decide, by decide, unchained_t1 _ rfl, by decide⟩

theorem witness_SystemAddressed : ∃ (s u : State) (r q : List (Pos × Token)),
    (cmdReady s s.foc = true ∧ regFault s s.foc 4 (tokenAt r .l).data = none ∧
      SeesData s (.sysRdA false .always .none t1) r ∧ CleanOperands (.sysRdA false .always .none t1) r) ∧
    cmdReady u u.foc = true ∧ regFault u u.foc 8 (tokenAt q .l).data = none ∧
      SeesData u (.sysWrA true .always .none t1) q ∧ CleanOperands (.sysWrA true .always .none t1) q :=
  ⟨ready (.sysRdA false .always .none t1) [dat 0x7F1000000604] [] [],
    ready (.sysWrA true .always .none t1) [dat 0x7F1000000100] [dat 5] [], [(.l, dat 0x7F1000000604)],
    [(.l, dat 0x7F1000000100), (.r, dat 5)],
    ⟨by decide, by decide, ⟨by decide, by decide, trivial⟩, by unfold CleanOperands; decide⟩,
    by decide, by decide, ⟨by decide, by decide, trivial⟩, by unfold CleanOperands; decide⟩

theorem witness_SystemAddressed_order : ∃ (s u : State) (o : OutE),
    (cmdReady s s.foc = true ∧ Immediate s (.sysWrA true .always .none t1)) ∧
    cmdReady u u.foc = true ∧ (u.slot u.foc).outs = [o] ∧ o.ready = false ∧ ∀ b ∈ [o], b.id ≠ u.nextId :=
  ⟨ready (.sysWrA true .always .none t1) [dat 0x7F1000000100] [dat 5] [],
    let s := ready (.sysWrA true .always .none t1) [dat 0x7F1000000100] [dat 5] []
    s.setSlot s.foc { s.slot s.foc with outs := [{ id := 0, toks := [], tgts := [t1], ready := false, lock := false, stale := false }] },
    { id := 0, toks := [], tgts := [t1], ready := false, lock := false, stale := false },
    ⟨by decide, by decide, unchained_t1 _ rfl, by decide⟩,
    by decide, by decide, by decide, by decide⟩

theorem witness_HaltsAndNop : ∃ (s u : State) (r : List (Pos × Token)) (g : GraphSt),
    (cmdReady s s.foc = true ∧ SeesData s (.halt false) r) ∧
    cmdReady u u.foc = true ∧ SeesData u (.halt true) r ∧ ownGraph u = some g ∧ g.ended = false :=
  ⟨ready (.halt false) [dat 1] [] [], ready (.halt true) [dat 1] [] [], [(.l, dat 1)], placed,
    ⟨by decide, ⟨by decide, by decide, trivial⟩⟩, by decide, ⟨by decide, by decide, trivial⟩, by decide, rfl⟩

/-- A record of zeros at virtual address 128, pushed into queue 63. -/
def spawning : State :=
  (mapped (ready (.spawn 63 .none t1) [dat 128] [] [])).setLq 0 63 { LqSt.reset with en := true, nent := 15 }

theorem witness_SpawnPushes : ∃ (s u : State) (n : BitVec 6) (r : List (Pos × Token)) (g : GraphSt) (rcd : List Byte),
    cmdReady s s.foc = true ∧ SeesData s (.spawn n .none t1) r ∧ (tokenAt r .l).psn = false ∧ ownGraph s = some g ∧
    (tokenAt r .l).data.toNat % 128 = 0 ∧ (s.lq (quarterOfDie (dieOfField (graphHome s g))) n.toNat).en = true ∧
    readStored ((s.by (slotSource s.foc)).task (ownNode s)) (fieldOf s.foc) (tileOf s.foc) (tokenAt r .l).data.toNat = (u, .ok rcd) ∧
    (u.lq (quarterOfDie (dieOfField (graphHome s g))) n.toNat).room (recEntries rcd) = true :=
  ⟨spawning, (readStored ((spawning.by (slotSource spawning.foc)).task (ownNode spawning)) (fieldOf spawning.foc) (tileOf spawning.foc) (tokenAt [(.l, dat 128)] .l).data.toNat).1, 63, [(.l, dat 128)], placed, List.replicate 128 0,
    by decide +kernel, ⟨by decide +kernel, by decide +kernel, trivial⟩, by decide +kernel, by decide +kernel, by decide +kernel, by decide +kernel, snd_eq (eq_bytes (by decide +kernel)), by decide +kernel⟩

/-- A firing that reads no memory, and one that does. -/
theorem witness_FiringsKeepTheRest : ∃ (s t u v : State) (i j : Instr),
    (firesAtX i = true ∧ exec i s = .next t ∧ readsMemory i = false) ∧
    firesAtX j = true ∧ exec j u = .next v ∧ readsMemory j = true ∧ AsWritten u :=
  ⟨ready (.ld .word .always false false .none t1) [dat 64] [] [], _, spawning, _, .ld .word .always false false .none t1,
    .spawn 63 .none t1, ⟨by decide, rfl, rfl⟩, by decide, rfl, rfl, rfl, rfl⟩

/-! ### Firings that change a register -/

theorem test_sys_wr_ovrc : (nextOf (exec (.sysWr .ovrc .none t1) (ready (.sysWr .ovrc .none t1) [dat 0x112345678] [] []))).map
    (fun t => ((t.tile 0).ovrc, (t.link 3).q.map Entry.tok)) = some (0x12345678, [tok .ord 0]) := by decide
theorem test_halt_graph : (nextOf (exec (.halt true) (ready (.halt true) [dat 9] [] []))).map
    (fun t => ((t.quarter 0).compl.map fun c => (c.status, c.result))) = some [(0, some (dat 9))] := by decide
theorem test_rel_not_held : (nextOf (exec (.rel .always 5 t1) (ready (.rel .always 5 t1) [dat 1] [] []))).map
    (fun t => ((t.quarter 0).fbuf.map FRec.code, (t.slot 56).wh.isSome)) = some ([0x22], true) := by decide
theorem test_trap_record : (nextOf (exec (.trap .always 5 t1) (ready (.trap .always 5 t1) [dat 1] [] []))).map
    (fun t => ((t.quarter 0).fbuf.map fun r => (r.code, r.detail), (t.quarter 0).cintPend)) = some ([(0x3A, 5)], 4) := by decide
theorem test_spawn_tail : (nextOf (exec (.spawn 63 .none t1) spawning)).map
    (fun t => ((t.link 3).q.map Entry.tok, (t.lq 0 63).tail)) = some ([dat 0], 1) := by decide +kernel

/-! ### Witnesses: Xpyraro -/

/-- A core that is to execute i, with these registers. -/
def xready (i : Instr) (xs : List (Nat × Nat)) : State :=
  let s := State.reset.withFetchWord 32 ((encode i).getD 0).toNat
  let c : Nat := match i with
    | .xtake _ => 1
    | .xsigVer _ _ => 8
    | _ => 0
  { s with agenda := [], core := c, cores := s.cores.map fun e =>
      (e.1, xs.foldl (fun v r => v.setReg (BitVec.ofNat 5 r.1) (BitVec.ofNat 64 r.2)) e.2) }

/-- XLNCH x10, x11, x12 with a selector and a source; queue 5 on, its kick map at 0x200100, both first entries in DRAM. -/
def launch : Instr := .xlnch 10 11 12
def launching (sel src : Nat) : State :=
  let s := (xready launch [(11, src), (12, sel)]).setLq 0 5 { LqSt.reset with en := true, nent := 15, base := 0x10000 }
  s.setQuarter 0 { s.quarter 0 with kmapa := 0x40020 }

theorem witness_LaunchAnswers_refused :
    (Schedules (launching 512 0) ∧ (creg (launching 512 0) 12).getLsbD 8 = false ∧
      (creg (launching 512 0) 12).extractLsb' 9 55 ≠ 0) ∧
    (Schedules (launching 0xC5 0) ∧ (creg (launching 0xC5 0) 12).extractLsb' 9 55 = 0 ∧
      samePart (launching 0xC5 0) 0 (selQuarter (creg (launching 0xC5 0) 12)) = false) ∧
    (Schedules (launching 5 64) ∧ samePart (launching 5 64) 0 (selQuarter (creg (launching 5 64) 12)) = true ∧
      (creg (launching 5 64) 11).toNat % 128 ≠ 0) ∧
    Schedules (launching 63 128) ∧ samePart (launching 63 128) 0 (selQuarter (creg (launching 63 128) 12)) = true ∧
      (creg (launching 63 128) 11).toNat % 128 = 0 ∧ ((launching 63 128).lq 0 63).en = false := by
  refine ⟨⟨⟨⟨?_, ?_⟩, ?_⟩, ?_, ?_⟩, ⟨⟨⟨?_, ?_⟩, ?_⟩, ?_, ?_⟩, ⟨⟨⟨?_, ?_⟩, ?_⟩, ?_, ?_⟩, ⟨⟨?_, ?_⟩, ?_⟩, ?_, ?_, ?_⟩ <;> decide

def valueOf : CoreMem → Option Nat
  | .ok _ v => some v
  | _ => none
def stateOf (s : State) : CoreMem → State
  | .ok u _ => u
  | _ => s
theorem eq_core {x : CoreMem} {v : Nat} (s : State) (h : valueOf x = some v) : x = .ok (stateOf s x) v := by
  cases x <;> simp_all [valueOf, stateOf]

/-- The state after the record at 128 has been read. -/
def launched (sel src : Nat) : State :=
  stateOf (launching sel src) (coreLoad (launching sel src) 0 (if sel < 256 then src else ((launching sel src).lq 0 5).kick) 128 .clean)
def full : State := (launching 5 128).setLq 0 5 { LqSt.reset with en := true, nent := 1, base := 0x10000, tail := 1 }

theorem reads_one {s u : State} {src w : Nat} (h : coreLoad s s.core src 128 .clean = .ok u w) (n : recNarg (leBytes 128 w) ≤ 12) :
    ReadsRecord s src u (leBytes 128 w) := .inl ⟨w, h, n, rfl⟩

theorem witness_LaunchAnswers_full : Schedules full ∧ (full.lq 0 5).en = true ∧
    ReadsRecord full 128 (stateOf full (coreLoad full 0 128 128 .clean)) (leBytes 128 0) ∧
    ((stateOf full (coreLoad full 0 128 128 .clean)).lq 0 5).room (recEntries (leBytes 128 0)) = false :=
  ⟨⟨⟨by decide, by decide⟩, by decide⟩, by decide, reads_one (eq_core _ (by decide)) (by decide), by decide⟩

theorem witness_LaunchAnswers_push : Schedules (launching 5 128) ∧ ((launching 5 128).lq 0 5).en = true ∧
    ReadsRecord (launching 5 128) 128 (launched 5 128) (leBytes 128 0) ∧
    ((launched 5 128).lq 0 5).room (recEntries (leBytes 128 0)) = true ∧
    anyBusy (launched 5 128) (((launched 5 128).lq 0 5).entry ((launched 5 128).lq 0 5).tail.toNat) 128 = false ∧
    anyBusy (launched 5 128) (((launched 5 128).lq 0 5).entry
      (ringNext ((launched 5 128).lq 0 5).nent ((launched 5 128).lq 0 5).tail 1).toNat) 128 = false :=
  ⟨⟨⟨by decide, by decide⟩, by decide⟩, by decide, reads_one (eq_core _ (by decide)) (by decide), by decide, by decide, by decide⟩

def kicking : State := { launching 0x105 0 with core := 0 }
def kicked : State := stateOf kicking (coreLoad kicking 0 (kicking.lq 0 5).kick 128 .clean)

theorem witness_LaunchAnswers_kick : Schedules kicking ∧ (creg kicking 12).getLsbD 8 = true ∧ (0 : BitVec 5) = 0 ∧
    (creg kicking 12).extractLsb' 9 55 = 0 ∧ (kicking.quarter 0).kmapa ≠ 0 ∧ (kicking.lq 0 5).kick % 128 = 0 ∧
    ReadsRecord kicking (kicking.lq 0 5).kick kicked (leBytes 128 0) ∧
    (kicked.lq 0 5).room (recEntries (leBytes 128 0)) = true ∧
    anyBusy kicked ((kicked.lq 0 5).entry (kicked.lq 0 5).tail.toNat) 128 = false ∧
    anyBusy kicked ((kicked.lq 0 5).entry (ringNext (kicked.lq 0 5).nent (kicked.lq 0 5).tail 1).toNat) 128 = false ∧
    anyBusy kicked (8 * (kicked.quarter 0).kmapa.toNat) 8 = false :=
  ⟨⟨⟨by decide, by decide⟩, by decide⟩, by decide, rfl, by decide, by decide, by decide,
    reads_one (eq_core _ (by decide +kernel)) (by decide +kernel), by decide +kernel, by decide +kernel, by decide +kernel, by decide +kernel⟩

/-- A record of 13 arguments takes two entries. -/
def twoEntries : State := putHome (launching 5 128) 146 [0xD0]
def twoOne : State := stateOf twoEntries (coreLoad twoEntries 0 128 128 .clean)
def twoRead : State := stateOf twoOne (coreLoad twoOne 0 256 128 .clean)

theorem two_first : coreLoad twoEntries 0 128 128 .clean = .ok twoOne (0xD0 * 2 ^ 144) := eq_core _ (by decide +kernel)
theorem two_second : coreLoad twoOne 0 256 128 .clean = .ok twoRead 0 := eq_core _ (by decide +kernel)
theorem two_room : (twoRead.lq 0 5).room (recEntries (leBytes 128 (0xD0 * 2 ^ 144) ++ leBytes 128 0)) = true := by decide +kernel
theorem two_free : anyBusy twoRead ((twoRead.lq 0 5).entry (twoRead.lq 0 5).tail.toNat) 128 = false ∧
    anyBusy twoRead ((twoRead.lq 0 5).entry (ringNext (twoRead.lq 0 5).nent (twoRead.lq 0 5).tail 1).toNat) 128 = false := by
  decide +kernel

theorem witness_LaunchAnswers_two : Schedules twoEntries ∧ (twoEntries.lq 0 5).en = true ∧
    ReadsRecord twoEntries 128 twoRead (leBytes 128 (0xD0 * 2 ^ 144) ++ leBytes 128 0) ∧
    (twoRead.lq 0 5).room (recEntries (leBytes 128 (0xD0 * 2 ^ 144) ++ leBytes 128 0)) = true ∧
    anyBusy twoRead ((twoRead.lq 0 5).entry (twoRead.lq 0 5).tail.toNat) 128 = false ∧
    anyBusy twoRead ((twoRead.lq 0 5).entry (ringNext (twoRead.lq 0 5).nent (twoRead.lq 0 5).tail 1).toNat) 128 = false :=
  ⟨⟨⟨by decide, by decide⟩, by decide⟩, by decide, .inr ⟨twoOne, _, 0, two_first, by decide, two_second, rfl⟩, two_room, two_free⟩

/-- An empty queue, and one that is not; a record of one entry and one of two, into the partition's memory and out of it. -/
theorem witness_PushAdvances : AsWritten (launching 5 128) ∧ ((launching 5 128).lq 0 5).used = 0 ∧ (full.lq 0 5).used ≠ 0 ∧
    recEntries (List.replicate 128 0) = 1 ∧ (List.replicate 128 (0 : Byte)).length = 128 ∧
    recEntries (leBytes 256 (0xD0 * 2 ^ 144)) = 2 ∧ (leBytes 256 (0xD0 * 2 ^ 144)).length = 256 ∧
    ownMemory (launching 5 128) 0 (((launching 5 128).lq 0 5).entry 0) 128 = true ∧
    ownMemory (launching 5 128) 1 (((launching 5 128).lq 0 5).entry 0) 128 = false := ⟨⟨by decide, by decide⟩, by decide⟩

/-- A push into an empty queue writes the record at entry 0. -/
theorem test_push_writes : (lqPush (launching 5 128) 0 5 [7, 8] 9).bytes (locOf State.reset (128 * 0x10000)) 3 = [7, 8, 0] := by decide

/-- No kick map; a map without a bit; a map whose bit 0 is found from 63. -/
def scanning (a : Nat) (map : List Byte) : State :=
  let s := putHome (xready (.xkscan 10 11) [(11, a)]) 0x200100 map
  s.setQuarter 0 { s.quarter 0 with kmapa := 0x40020 }

theorem witness_ScanFinds : (Schedules (xready (.xkscan 10 11) []) ∧ ((xready (.xkscan 10 11) []).quarter 0).kmapa = 0) ∧
    (Schedules (scanning 0 []) ∧ anyBusy (scanning 0 []) (8 * ((scanning 0 []).quarter 0).kmapa.toNat) 8 = false ∧
      leNat (homeRead (scanning 0 []) (8 * ((scanning 0 []).quarter 0).kmapa.toNat) 8) = 0) ∧
    Schedules (scanning 63 [1]) ∧ anyBusy (scanning 63 [1]) (8 * ((scanning 63 [1]).quarter 0).kmapa.toNat) 8 = false ∧
      (leNat (homeRead (scanning 63 [1]) (8 * ((scanning 63 [1]).quarter 0).kmapa.toNat) 8)).testBit
        (((creg (scanning 63 [1]) 11).toNat + 1) % 64) = true ∧
      ∀ h, h < 1 → (leNat (homeRead (scanning 63 [1]) (8 * ((scanning 63 [1]).quarter 0).kmapa.toNat) 8)).testBit
        (((creg (scanning 63 [1]) 11).toNat + h) % 64) = false := by
  refine ⟨⟨⟨⟨?_, ?_⟩, ?_⟩, ?_⟩, ⟨⟨⟨?_, ?_⟩, ?_⟩, ?_, ?_⟩, ⟨⟨?_, ?_⟩, ?_⟩, ?_, ?_, ?_⟩ <;> decide

/-- XQPRI on another partition, with a bad priority, on an empty queue, and on one that holds a record. -/
def ranking (sel pri : Nat) : State :=
  (xready (.xqpri 10 11 12) [(11, sel), (12, pri)]).setLq 0 5 { LqSt.reset with en := true, nent := 15, tail := 1 }

theorem witness_QueuePriorityAndStatus :
    (Schedules (ranking 0x45 0) ∧ (ranking 0x45 0).core < 8 ∧ samePart (ranking 0x45 0) 0 (selQuarter (creg (ranking 0x45 0) 11)) = false) ∧
    (Schedules (ranking 5 16) ∧ samePart (ranking 5 16) 0 (selQuarter (creg (ranking 5 16) 11)) = true ∧
      (creg (ranking 5 16) 12).extractLsb' 4 60 ≠ 0) ∧
    (Schedules (ranking 4 15) ∧ samePart (ranking 4 15) 0 (selQuarter (creg (ranking 4 15) 11)) = true ∧
      (creg (ranking 4 15) 12).extractLsb' 4 60 = 0 ∧ ((ranking 4 15).lq 0 4).en = false) ∧
    Schedules (ranking 5 15) ∧ samePart (ranking 5 15) 0 (selQuarter (creg (ranking 5 15) 11)) = true ∧
      (creg (ranking 5 15) 12).extractLsb' 4 60 = 0 ∧ ((ranking 5 15).lq 0 5).en = true ∧ ((ranking 5 15).lq 0 5).used ≠ 0 := by
  refine ⟨⟨⟨⟨?_, ?_⟩, ?_⟩, ?_, ?_⟩, ⟨⟨⟨?_, ?_⟩, ?_⟩, ?_, ?_⟩, ⟨⟨⟨?_, ?_⟩, ?_⟩, ?_, ?_, ?_⟩, ⟨⟨?_, ?_⟩, ?_⟩, ?_, ?_, ?_, ?_⟩ <;>
    decide

/-- A journal that is off; a misaligned entry; a free place. -/
def writing (a : Nat) : State :=
  let s := xready (.xjnlW 10 11) [(11, a)]
  s.setQuarter 0 { s.quarter 0 with jnb := 0x8000, jnp := { en := true, head := 0, tail := 14, nent := 15 } }

theorem witness_JournalWrites :
    (Schedules (xready (.xjnlW 10 11) []) ∧ ((xready (.xjnlW 10 11) []).quarter 0).jnp.en = false) ∧
    (Schedules (writing 31) ∧ ((writing 31).quarter 0).jnp.en = true ∧
      ringUsed ((writing 31).quarter 0).jnp.head ((writing 31).quarter 0).jnp.tail ((writing 31).quarter 0).jnp.nent < 15 ∧
      (creg (writing 31) 11).toNat % 32 ≠ 0) ∧
    Schedules (writing 32) ∧ ((writing 32).quarter 0).jnp.en = true ∧ (creg (writing 32) 11).toNat % 32 = 0 ∧
      anyBusy (writing 32) (64 * ((writing 32).quarter 0).jnb.toNat + 32 * ((writing 32).quarter 0).jnp.tail.toNat) 32 = false ∧
      coreLoad (writing 32) 0 44 20 .clean = .ok (stateOf (writing 32) (coreLoad (writing 32) 0 44 20 .clean)) 0 :=
  ⟨⟨⟨⟨by decide, by decide⟩, by decide⟩, by decide⟩, ⟨⟨⟨by decide, by decide⟩, by decide⟩, by decide, by decide, by decide⟩,
    ⟨⟨by decide, by decide⟩, by decide⟩, by decide, by decide, by decide, eq_core _ (by decide)⟩

/-- A record awaiting resolution; one whose limit has passed; one that is VOID for it. -/
def awaiting : FRec :=
  { rid := 3, stamp := 0, code := 0x10, acc := 0, kind := 0, esc := false, void := false, unit := 0, slot := 0, tile := 0,
    die := 0, field := 0, blkid := 0, fid := 65535, qtr := 0, lq := 0, va := 0, ks := [0, 0, 0, 0], detail := 0, tag := 0,
    src := .firing 56, graph := 1, raisedAt := 0, postedAt := 0, tlim := 500 }

/-- XFLT.POP to an address, with one record posted. -/
def popping (a : Nat) (rs : List FRec) : State :=
  let s := xready (.xfltPop 10 11) [(11, a)]
  s.setQuarter 0 { s.quarter 0 with fbuf := rs }

theorem witness_PopStoresRecord :
    (Schedules (popping 0 []) ∧ leadOf (popping 0 []) 0 = 0 ∧ ((popping 0 []).quarter 0).fbuf = []) ∧
    (Schedules (popping 63 [awaiting]) ∧ ((popping 63 [awaiting]).quarter 0).fbuf = [awaiting] ∧
      (creg (popping 63 [awaiting]) 11).toNat % 64 ≠ 0) ∧
    (Schedules (popping (2 ^ 63) [awaiting]) ∧ ((popping (2 ^ 63) [awaiting]).quarter 0).fbuf = [awaiting] ∧
      coreHome (popping (2 ^ 63) [awaiting]) 0 (creg (popping (2 ^ 63) [awaiting]) 11).toNat 64 = false) ∧
    Schedules (popping 64 [awaiting]) ∧ ((popping 64 [awaiting]).quarter 0).fbuf = [awaiting] ∧
      coreHome (popping 64 [awaiting]) 0 (creg (popping 64 [awaiting]) 11).toNat 64 = true ∧
      anyBusy (popping 64 [awaiting]) 64 64 = false := by
  refine ⟨⟨⟨⟨?_, ?_⟩, ?_⟩, ?_, ?_⟩, ⟨⟨⟨?_, ?_⟩, ?_⟩, ?_, ?_⟩, ⟨⟨⟨?_, ?_⟩, ?_⟩, ?_, ?_⟩, ⟨⟨?_, ?_⟩, ?_⟩, ?_, ?_, ?_⟩ <;> decide

def resolving (fid act : Nat) (r : FRec) (t : Nat) : State :=
  let s := { xready (.xfltRes 10 11 12) [(11, fid), (12, act)] with now := t, graphs := [placed] }
  s.setQuarter 0 { s.quarter 0 with popped := [r] }

theorem witness_ResolutionAnswers :
    (Schedules (resolving 65536 0 awaiting 0) ∧ 65536 ≤ (creg (resolving 65536 0 awaiting 0) 11).toNat) ∧
    (Schedules (resolving 0 2 awaiting 0) ∧ (∀ r ∈ [awaiting], outstandingRec r = true → r.fid ≠ 0) ∧
      ∀ r ∈ [awaiting], lateRec r = true → r.fid ≠ 0) ∧
    (Schedules (resolving 65535 0 { awaiting with void := true, tlim := 0 } 0) ∧
      outstandingRec { awaiting with void := true, tlim := 0 } = false ∧ lateRec { awaiting with void := true, tlim := 0 } = true) ∧
    (Schedules (resolving 65535 1 awaiting 1050000) ∧
      (((resolving 65535 1 awaiting 1050000).quarter 0).fbuf ++ ((resolving 65535 1 awaiting 1050000).quarter 0).popped).find?
        (fun r => outstandingRec r && decide (r.fid = 65535)) = some awaiting ∧
      recExpired (resolving 65535 1 awaiting 1050000) 0 awaiting = true) ∧
    Schedules (resolving 65535 2 awaiting 1049999) ∧
      (((resolving 65535 2 awaiting 1049999).quarter 0).fbuf ++ ((resolving 65535 2 awaiting 1049999).quarter 0).popped).find?
        (fun r => outstandingRec r && decide (r.fid = 65535)) = some awaiting ∧
      recExpired (resolving 65535 2 awaiting 1049999) 0 awaiting = false ∧ creg (resolving 65535 2 awaiting 1049999) 12 = 2 := by
  refine ⟨⟨⟨⟨?_, ?_⟩, ?_⟩, ?_⟩, ⟨⟨⟨?_, ?_⟩, ?_⟩, ?_, ?_⟩, ⟨⟨⟨?_, ?_⟩, ?_⟩, ?_, ?_⟩, ⟨⟨⟨?_, ?_⟩, ?_⟩, ?_, ?_⟩,
    ⟨⟨?_, ?_⟩, ?_⟩, ?_, ?_, ?_⟩ <;> decide

/-- A RETRY noted in a cycle, of a firing that still withholds, and of one that a kill has taken. -/
def noted (wh : Option Nat) : State :=
  let s := ready (.add .word .always .none t1) [] [] []
  { s.setSlot 0 { s.slot 0 with wh := wh } with
    resolves := [{ entry := { awaiting with src := .firing 0 }, skip := false, core := 0, rd := 10 }] }

theorem witness_ResolutionAnswers_edge :
    (((noted (some awaiting.rid)).slot 0).wh = some awaiting.rid ∧ awaiting.code ≠ codeTrap) ∧
    ∀ y ∈ (noted none).slots, y.2.wh ≠ some awaiting.rid := by decide

/-- A source whose last record a retry resolved, beside a record that awaits resolution. -/
def retrying' : QuarterSt := { State.reset.quarter 0 with popped := [awaiting], retried := [(.firing 56, 7)] }

theorem witness_ResolutionAnswers_fid : retrying'.records.length < 65535 ∧ (FSrc.firing 56, 7) ∈ retrying'.retried ∧
    ∀ e ∈ retrying'.retried, e.1 = .firing 56 → e.2 = 7 := by decide

/-- A resolution that a kill has overtaken answers 1 (R351). -/
theorem test_edge_overtaken : ((resolveEdge (noted none)).coreSt 0).reg 10 = 1 := by decide

/-- LAPSE while the SC still owns the quarter: XHBT has no effect, XTAKE takes over; a clear XHBT; an XTAKE with nothing
to take. -/
def lapsed (s : State) : State := s.setQuarter 0 { s.quarter 0 with hb := { (s.quarter 0).hb with lapse := true, hold := true } }

def onHold (s : State) : State := s.setQuarter 0 { s.quarter 0 with hb := { (s.quarter 0).hb with hold := true } }

theorem witness_HeartbeatAndTakeOver :
    (Schedules (xready (.xhbt 11) [(11, 2)]) ∧ (creg (xready (.xhbt 11) [(11, 2)]) 11).extractLsb' 1 63 ≠ 0) ∧
    (Schedules (lapsed (xready (.xhbt 11) [(11, 1)])) ∧ ((lapsed (xready (.xhbt 11) [(11, 1)])).quarter 0).hb.lapse = true) ∧
    (Schedules (xready (.xhbt 11) [(11, 1)]) ∧ (creg (xready (.xhbt 11) [(11, 1)]) 11).extractLsb' 1 63 = 0 ∧
      ((xready (.xhbt 11) [(11, 1)]).quarter 0).hb.lapse = false ∧ ((xready (.xhbt 11) [(11, 1)]).quarter 0).hb.hold = false) ∧
    (Schedules (onHold (xready (.xhbt 11) [(11, 1)])) ∧ ((onHold (xready (.xhbt 11) [(11, 1)])).quarter 0).hb.lapse = false ∧
      ((onHold (xready (.xhbt 11) [(11, 1)])).quarter 0).hb.hold = true ∧
      (creg (onHold (xready (.xhbt 11) [(11, 1)])) 11).getLsbD 0 = true) ∧
    (Runs (lapsed (xready (.xtake 10) [])) ∧ (lapsed (xready (.xtake 10) [])).core = 1 ∧
      ((lapsed (xready (.xtake 10) [])).quarter 0).hb.lapse = true ∧ ((lapsed (xready (.xtake 10) [])).quarter 0).hb.owner = false) ∧
    Runs (xready (.xtake 10) []) ∧ (xready (.xtake 10) []).core = 1 ∧ ((xready (.xtake 10) []).quarter 0).hb.lapse = false := by
  refine ⟨⟨⟨⟨?_, ?_⟩, ?_⟩, ?_⟩, ⟨⟨⟨?_, ?_⟩, ?_⟩, ?_⟩, ⟨⟨⟨?_, ?_⟩, ?_⟩, ?_, ?_, ?_⟩, ⟨⟨⟨?_, ?_⟩, ?_⟩, ?_, ?_, ?_⟩,
    ⟨⟨?_, ?_⟩, ?_, ?_, ?_⟩, ⟨?_, ?_⟩, ?_, ?_⟩ <;> decide

/-- XTAKE on an SC; XHBT on an SC whose quarter the SB owns. -/
def owned (s : State) : State := s.setQuarter 0 { s.quarter 0 with hb := { (s.quarter 0).hb with owner := true } }

theorem witness_XpyraroPrivilege :
    (Runs (xready (.xhbt 11) []) ∧ mayExecute (xready (.xhbt 11) []) (.xtake 10) = some false) ∧
    (owned (xready (.xhbt 11) [])).core < 8 ∧ (owned (xready (.xhbt 11) [])).core % 2 = 0 ∧
    ((owned (xready (.xhbt 11) [])).quarter (cquarter (owned (xready (.xhbt 11) [])))).hb.owner = true ∧
    (mayExecute (owned (xready (.xhbt 11) [])) (.xhbt 11)).isSome = true := by
  refine ⟨⟨⟨?_, ?_⟩, ?_⟩, ?_, ?_, ?_, ?_⟩ <;> decide

/-- A mask that leaves out the core's own quarter; a graph that runs; nothing in the way. -/
def running (m : Nat) : State := { xready (.xpartQsc 10 11) [(11, m)] with graphs := [placed] }

theorem witness_QuiesceAnswers :
    (Schedules (xready (.xpartQsc 10 11) [(11, 14)]) ∧ (creg (xready (.xpartQsc 10 11) [(11, 14)]) 11).getLsbD 0 = false) ∧
    (Schedules (running 1) ∧ (creg (running 1) 11).extractLsb' 4 60 = 0 ∧
      (∀ q ∈ [0], ((running 1).quarter (leadOf (running 1) q)).placing = none) ∧ busyQueues (running 1) [0] ≠ 0) ∧
    Schedules (xready (.xpartQsc 10 11) [(11, 15)]) ∧
      (∀ q ∈ [0, 1, 2, 3], ((xready (.xpartQsc 10 11) [(11, 15)]).quarter
        (leadOf (xready (.xpartQsc 10 11) [(11, 15)]) q)).placing = none) ∧
      busyQueues (xready (.xpartQsc 10 11) [(11, 15)]) [0, 1, 2, 3] = 0 := by
  refine ⟨⟨⟨⟨?_, ?_⟩, ?_⟩, ?_⟩, ⟨⟨⟨?_, ?_⟩, ?_⟩, ?_, ?_, ?_⟩, ⟨⟨?_, ?_⟩, ?_⟩, ?_, ?_⟩ <;> decide

/-- XPART.IL of a quarter that is not quiesced and of one that is; XPART.BND of a boundary with a reserved bit and without. -/
def quiesced (s : State) : State := s.setQuarter 0 { s.quarter 0 with hb := { (s.quarter 0).hb with qsc := true } }
def staging (a b : Nat) : State := quiesced (xready (.xpartIl 10 11 12) [(11, a), (12, b)])

theorem witness_StagingAndShootdown :
    (Schedules (staging 1 6) ∧ ((staging 1 6).quarter 1).hb.qsc = false) ∧
    (Schedules (staging 0 8) ∧ (creg (staging 0 8) 12).extractLsb' 3 61 ≠ 0) ∧
    (Schedules (staging 0 6) ∧ ((staging 0 6).quarter 0).hb.qsc = true ∧ (creg (staging 0 6) 12).extractLsb' 3 61 = 0 ∧
      (creg (staging 0 6) 12).extractLsb' 0 2 ≠ 3) ∧
    (Schedules (staging 0 255) ∧ (creg (staging 0 255) 12).extractLsb' 8 56 = 0) ∧
    Schedules (staging 1 2) ∧ (creg (staging 1 2) 12).extractLsb' 1 16 ≠ 0 := by
  refine ⟨⟨⟨⟨?_, ?_⟩, ?_⟩, ?_⟩, ⟨⟨⟨?_, ?_⟩, ?_⟩, ?_⟩, ⟨⟨⟨?_, ?_⟩, ?_⟩, ?_, ?_, ?_⟩, ⟨⟨⟨?_, ?_⟩, ?_⟩, ?_⟩, ⟨⟨?_, ?_⟩, ?_⟩, ?_⟩ <;>
    decide

/-- No quarter named; a quarter of another partition; its own. -/
def shooting (m : Nat) : State := xready (.xpartSd 10 11) [(11, m)]

theorem witness_StagingAndShootdown_sd :
    (Schedules (shooting 0) ∧ ([0, 1, 2, 3].filter fun q => (creg (shooting 0) 11).getLsbD q) = []) ∧
    (Schedules (shooting 9) ∧ (creg (shooting 9) 11).extractLsb' 4 60 = 0 ∧
      ∃ q ∈ [0, 1, 2, 3].filter fun q => (creg (shooting 9) 11).getLsbD q, samePart (shooting 9) 0 q = false) ∧
    Schedules (shooting 1) ∧ (creg (shooting 1) 11).extractLsb' 4 60 = 0 ∧
      ([0, 1, 2, 3].filter fun q => (creg (shooting 1) 11).getLsbD q) ≠ [] ∧
      ∀ q ∈ [0, 1, 2, 3].filter fun q => (creg (shooting 1) 11).getLsbD q, samePart (shooting 1) 0 q = true := by
  refine ⟨⟨⟨⟨?_, ?_⟩, ?_⟩, ?_⟩, ⟨⟨⟨?_, ?_⟩, ?_⟩, ?_, ?_⟩, ⟨⟨?_, ?_⟩, ?_⟩, ?_, ?_, ?_⟩ <;> decide

/-- A commit without the core's own quarter; of a quarter not quiesced; of registers that make no partition; of a boundary
open on one side alone; of what stands. -/
def committing (m : Nat) (st : Option DWord × Option DWord × Option DWord) : State :=
  let s := quiesced (xready (.xpartCommit 10 11) [(11, m)])
  s.setQuarter 0 { s.quarter 0 with staged := st }

theorem witness_CommitAnswers :
    (Schedules (committing 2 (none, none, none)) ∧ (creg (committing 2 (none, none, none)) 11).getLsbD 0 = false) ∧
    (Schedules (committing 3 (none, none, none)) ∧ (creg (committing 3 (none, none, none)) 11).getLsbD 0 = true ∧
      ((committing 3 (none, none, none)).quarter 1).hb.qsc = false) ∧
    (Schedules (committing 1 (none, some 7, none)) ∧ ((committing 1 (none, some 7, none)).quarter 0).hb.qsc = true ∧
      partitionsOk (afterCommit (committing 1 (none, some 7, none)) [0]) [0] = false) ∧
    (Schedules (committing 1 (none, some 0x88, none)) ∧
      partitionsOk (afterCommit (committing 1 (none, some 0x88, none)) [0]) [0] = true ∧
      opensOk (afterCommit (committing 1 (none, some 0x88, none)) [0]) [0] = false) ∧
    Schedules (committing 1 (some 4, none, none)) ∧
      partitionsOk (afterCommit (committing 1 (some 4, none, none)) [0]) [0] = true ∧
      opensOk (afterCommit (committing 1 (some 4, none, none)) [0]) [0] = true := by
  refine ⟨⟨⟨⟨?_, ?_⟩, ?_⟩, ?_⟩, ⟨⟨⟨?_, ?_⟩, ?_⟩, ?_, ?_⟩, ⟨⟨⟨?_, ?_⟩, ?_⟩, ?_, ?_⟩, ⟨⟨⟨?_, ?_⟩, ?_⟩, ?_, ?_⟩, ⟨⟨?_, ?_⟩, ?_⟩, ?_, ?_⟩ <;>
    decide

/-! ### Witnesses: registers, captures, the sequencer -/

/-- Quarters 0 and 1 as one partition, led by quarter 0. -/
def joined : State :=
  let p (l : Bool) : PartReg := { PartReg.reset 0 with lead := l, part := 4 }
  (State.reset.setQuarter 0 { State.reset.quarter 0 with active := p true }).setQuarter 1
    { State.reset.quarter 1 with active := p false }

/-- A lead and a quarter that is not; LAYC idle and busy; the highest quarter, queue, die and window. -/
def laying : State := State.reset.setDie 7 { State.reset.die 7 with layc := { busy := true, err := false, gran := 2, ppn := 1 } }

theorem witness_RegistersWritten : leadOf joined 0 = 0 ∧ leadOf joined 1 ≠ 1 ∧ (1 : DWord).getLsbD 0 = true ∧ 3 < 4 ∧ 63 < 64 ∧
    7 < 8 ∧ (State.reset.lq 3 63).en = false ∧ (2 ^ 31 : DWord).getLsbD 31 = true ∧ ((launching 5 0).lq 0 5).en = true ∧
    (State.reset.die 7).layc.busy = false ∧ (laying.die 7).layc.busy = true := by decide

/-- A deferred start that is due; results of each kind that are due; a checker mismatch of a slot and of an engine. -/
def resulting (k : ResKind) (cfg : Word) : State :=
  let s := ready (.add .word .always .none t1) [] [] []
  let s := s.setTile 0 { s.tile 0 with cfg := match (s.tile 0).cfg with
    | h :: c => (h ||| cfg) :: c
    | [] => [] }
  s.setSlot 0 { s.slot 0 with result := some ⟨k, dat 5, [.latch true .l 1, .none], 0, 0, 0, 32, 0, [0, 0, 0, 0]⟩ }
def deferring : State := State.reset.setSlot 9 { State.reset.slot 9 with deferred := some 0 }

/-- The same, in a region of the tile's own that is open and not early. -/
def resultingOpen : State :=
  let s := resulting .late 0x300000
  s.setField 0 { s.field 0 with ctn := { (s.field 0).ctn with opened := true, owner := 0, early := false } }

theorem witness_CapturesAct_strict : Withholdable (resulting .late 0x300000) 0 placed codeOverrun ∧
    Withholdable resultingOpen 0 placed codeOverrun ∧ (resultingOpen.field 0).ctn.opened = true ∧
    strictBlock resultingOpen 0 = true :=
  ⟨⟨by decide, by decide, by decide, by decide⟩, ⟨by decide, by decide, by decide, by decide⟩, by decide, by decide⟩

/-- The STRICT overrun keeps its result and posts OVERRUN, also where the region contains it, with KIND 3 (R165, R354). -/
theorem test_strict_overrun :
    ((nextOf (exec (.overrunCapture 0) resultingOpen)).map fun t =>
      (((t.slot 0).result.map Result.kind), (t.slot 0).wh, ((t.quarter 0).fbuf.map fun r => (r.code, r.kind, r.slot)))) =
      some (some .strict, some resultingOpen.nextId, [(codeOverrun, 3, 0)]) := by decide

theorem witness_CapturesAct : ∃ (r q : Result),
    ((deferring.slot 9).deferred = some 0 ∧ 0 ≤ deferring.now) ∧
    (((resulting .cycles 0).slot 0).result = some r ∧ r.due ≤ (resulting .cycles 0).now ∧ r.kind = .cycles) ∧
    (((resulting .late 0).slot 0).result = some q ∧ q.due ≤ (resulting .late 0).now ∧ q.kind = .late ∧
      strictBlock (resulting .late 0) 0 = false) ∧
    (((resulting .late 0x300000).slot 0).result = some q ∧ strictBlock (resulting .late 0x300000) 0 = true) ∧
    slotInstr (ready (.add .word .always .none t1) [] [] []) 0 = some (.add .word .always .none t1) ∧
    checkKind (.add .word .always .none t1) ≠ none ∧ ((ready (.add .word .always .none t1) [] [] []).slot 0).result = none :=
  ⟨⟨.cycles, dat 5, [.latch true .l 1, .none], 0, 0, 0, 32, 0, [0, 0, 0, 0]⟩, ⟨.late, dat 5, [.latch true .l 1, .none], 0, 0, 0, 32, 0, [0, 0, 0, 0]⟩,
    ⟨by decide, by decide⟩, ⟨by decide, by decide, by decide⟩, ⟨by decide, by decide, by decide, by decide⟩,
    ⟨by decide, by decide⟩, by decide, by decide, by decide⟩

/-- A graph of these nodes. -/
def node (id : Nat) (parent : Option Nat) (rcd : List Byte) (st : NodeSt) (done : Bool) : Node :=
  { id := id, parent := parent, pos := 0, idx := 0, rcd := rcd, iter := 0, st := st, done := done, result := none }
def graphOf (ns : List Node) : GraphSt := { placed with nodes := ns, imgLen := 156 }
def running' (ns : List Node) (s : State) : State := { s with graphs := [graphOf ns] }

/-- A SEQ of two children, run twice; a SEQ and a LEAF as they stand in memory. -/
def seqRec : List Byte := [0x10, 0, 2] ++ List.replicate 13 0 ++ [1, 0, 2] ++ List.replicate 45 0
def bytes64 (bs : List Byte) : List Byte := bs ++ List.replicate (64 - bs.length) 0
def pair (child rep : Nat) : State :=
  running' [node 5 none seqRec (.seq child rep none false) false, node 6 (some 5) [] .handler true] State.reset
def readable (r : List Byte) : State := putHome (mapped (running' [node 5 none [] .permit false] State.reset)) 0x200000 r
def seqOne : List Byte := [0, 0, 1] ++ List.replicate 13 0 ++ [1]
def leafOne : List Byte := [6, 0, 1]

theorem witness_NodesAdvance_done : ∃ (s : State) (a : GraphSt) (nd : Node), s.graph? a.id = some a ∧ a.ended = false ∧
    a.node? nd.id = some nd ∧ nd.done = true ∧ nd.parent = none :=
  ⟨running' [node 5 none seqRec (.seq 1 1 none false) true] State.reset, graphOf [node 5 none seqRec (.seq 1 1 none false) true],
    node 5 none seqRec (.seq 1 1 none false) true, by decide, rfl, by decide, rfl, rfl⟩

/-- The first child is done; the last of the first repetition; the last of all. -/
theorem witness_NodesAdvance_child : ∀ e ∈ [(0, 0), (1, 0), (1, 1)], ∃ (s : State) (a : GraphSt) (nd p : Node),
    s.graph? a.id = some a ∧ a.ended = false ∧ a.node? nd.id = some nd ∧ nd.done = true ∧ nd.parent = some p.id ∧ p.id ≠ nd.id ∧
    a.node? p.id = some p ∧ p.st = .seq e.1 e.2 none false ∧
    ((e = (0, 0) ∧ e.1 < kgNch p.rcd) ∨ (e = (1, 0) ∧ kgNch p.rcd ≤ e.1 ∧ e.2 + 1 ≠ kgCount p.rcd) ∨
      kgNch p.rcd ≤ e.1 ∧ e.2 + 1 = kgCount p.rcd) := by
  intro e he
  refine ⟨pair e.1 e.2, graphOf [node 5 none seqRec (.seq e.1 e.2 none false) false, node 6 (some 5) [] .handler true],
    node 6 (some 5) [] .handler true, node 5 none seqRec (.seq e.1 e.2 none false) false, ?_⟩
  simp only [List.mem_cons, List.not_mem_nil, or_false] at he
  rcases he with rfl | rfl | rfl <;> decide

theorem witness_NodesAdvance_permit : ∃ (s u v w : State) (a : GraphSt) (nd : Node) (r q : List Byte), a.ended = false ∧
    (s.graph? a.id = some a ∧ a.node? nd.id = some nd ∧ nd.done = false ∧ nd.st = .permit ∧
      runRd (readKg (graphHome s a) (recGraph a.rcd) nd.idx) (s.task nd.id) = (.ok r, u) ∧ kgOk (recCols a.rcd * recRows a.rcd) r = true ∧
      kgKind r = 0) ∧
    v.graph? a.id = some a ∧ runRd (readKg (graphHome v a) (recGraph a.rcd) nd.idx) (v.task nd.id) = (.ok q, w) ∧
      kgOk (recCols a.rcd * recRows a.rcd) q = true ∧ kgKind q = 6 ∧ kgCount q ≠ 0 :=
  ⟨readable seqOne, _, readable leafOne, _, graphOf [node 5 none [] .permit false], node 5 none [] .permit false,
    bytes64 seqOne, bytes64 leafOne, rfl,
    ⟨by decide, by decide, rfl, rfl, fst_eq (eq_ok (by decide)), by decide, by decide⟩,
    by decide, fst_eq (eq_ok (by decide)), by decide, by decide, by decide⟩

/-- Records of a kind, a number of children less one and a count: a PIPE, run twice and not at all; a STRM; a LEAF not run. -/
def recordOf (k n count : Nat) (children : List Nat) : List Byte :=
  bytes64 ([BitVec.ofNat 8 (k + 16 * n), 0, BitVec.ofNat 8 count] ++ List.replicate 13 0 ++ children.flatMap (leBytes 2))
def spawnOne : List Byte := bytes64 ([4] ++ List.replicate 7 0 ++ [128])

theorem witness_NodesAdvance_kinds : ∀ r ∈ [recordOf 1 1 2 [1, 2], recordOf 1 1 0 [1, 2], recordOf 2 1 0 [1, 2], recordOf 6 0 0 [],
      spawnOne],
    okOf (runRd (readKg (graphHome (readable r) (graphOf [node 5 none [] .permit false]))
      (recGraph (graphOf [node 5 none [] .permit false]).rcd) 0) ((readable r).task 5)).1 = some r ∧
    kgOk (recCols (graphOf [node 5 none [] .permit false]).rcd * recRows (graphOf [node 5 none [] .permit false]).rcd) r = true := by
  decide +kernel

/-- A COND behind the first child of its SEQ, whose token chooses; its children are nodes, or to skip it and to end the SEQ. -/
def condOf (c0 c1 : Nat) : List Byte := recordOf 3 1 0 [c0, c1]
def choosing : List Node :=
  [node 4 none seqRec (.seq 1 0 (some (dat 7)) true) false, { node 5 (some 4) [] .permit false with pos := 1 }]
def choosingFrom (r : List Byte) : State := putHome (mapped (running' choosing State.reset)) 0x200000 r

theorem witness_NodesAdvance_cond : ∀ r ∈ [condOf 1 2, condOf 0xFFFE 0xFFFF, condOf 0xFFFF 0xFFFE],
    okOf (runRd (readKg (graphHome (choosingFrom r) (graphOf choosing)) (recGraph (graphOf choosing).rcd) 0)
      ((choosingFrom r).task 5)).1 = some r ∧
    kgOk (recCols (graphOf choosing).rcd * recRows (graphOf choosing).rcd) r = true ∧ kgKind r = 3 ∧
    (graphOf choosing).node? 4 = some (node 4 none seqRec (.seq 1 0 (some (dat 7)) true) false) := by
  decide +kernel

/-- A COND reads 7 as true. -/
theorem test_cond_takes_second : (nextOf (exec (.nodeDone placed.id 5) (choosingFrom (condOf 1 2)))).map (fun t =>
    t.graphs.map fun g => g.nodes.map fun n => (n.id, n.idx, n.pos)) = some [[(4, 0, 0), (5, 0, 1), (1, 2, 0)]] := by decide +kernel

/-- Children done under a PIPE, in its first stage and, for the last time, in its last; under a STRM, first and last; under a COND;
under a HANDLER. -/
def under (p : Node) (pos : Nat) : GraphSt :=
  graphOf [node 4 none (bytes64 leafOne) (.leaf { Section.start with aborted := true }) false, p,
    { node 6 (some 5) [] .handler true with pos := pos }]

theorem witness_NodesAdvance_parents : ∀ e ∈ [(node 5 none (recordOf 1 1 2 [1, 2]) (.pipe [1, 0] [0, 0]) false, 0),
      (node 5 none (recordOf 1 1 2 [1, 2]) (.pipe [2, 2] [2, 1]) false, 1), (node 5 none (recordOf 2 1 0 [1, 2]) (.strm 2) false, 0),
      (node 5 none (recordOf 2 1 0 [1, 2]) (.strm 1) false, 1), (node 5 none (condOf 1 2) (.cond (dat 0)) false, 0),
      (node 5 (some 4) (recordOf 5 0 0 [1]) .handler false, 0)],
    let s : State := { State.reset with graphs := [under e.1 e.2] }
    s.graph? (under e.1 e.2).id = some (under e.1 e.2) ∧ (under e.1 e.2).ended = false ∧ (under e.1 e.2).node? 5 = some e.1 ∧
      ((under e.1 e.2).node? 6).map (fun n => (n.done, n.parent, n.pos)) = some (true, some 5, e.2) := by decide

/-- An aborted section whose handler's record is to be read. -/
def abortedLeaf : Node := node 5 none (bytes64 leafOne) (.leaf { Section.start with aborted := true }) false
def handling : GraphSt := { graphOf [abortedLeaf] with handlers := [⟨5, 0, 0, [], false⟩] }
def handlingState : State := { putHome (mapped State.reset) 0x200000 (recordOf 5 0 0 [1]) with graphs := [handling] }

theorem witness_NodesAdvance_handler : handlingState.graph? handling.id = some handling ∧
    okOf (runRd (readHandler handling abortedLeaf 0) (handlingState.task 5)).1 = some (recordOf 5 0 0 [1], 0) := by decide +kernel

/-- A SPAWN node of queue 63, off and on, its record readable at 128. -/
def spawnRec : List Byte := [4] ++ List.replicate 7 0 ++ [128] ++ List.replicate 39 0 ++ [63] ++ List.replicate 15 0
def spawner (on : Bool) : State :=
  (mapped (running' [node 5 none spawnRec .spawn false] State.reset)).setLq 0 63 { LqSt.reset with en := on, nent := 15 }

theorem witness_SequencerActs_spawn : ∃ (s u : State) (v w : State) (a : GraphSt) (nd : Node) (rcd : List Byte),
    a.ended = false ∧ a.node? nd.id = some nd ∧ nd.done = false ∧ nd.st = .spawn ∧
    (s.graph? a.id = some a ∧ nodeRecord s a (.spawn a.id nd.id) = false ∧
      readStored ((s.by (seqSource (graphHome s a))).task nd.id) (graphHome s a) (64 * graphHome s a) (kgArg nd.rcd) = (u, .ok rcd) ∧ (u.lq 0 63).en = false) ∧
    v.graph? a.id = some a ∧ nodeRecord v a (.spawn a.id nd.id) = false ∧
      readStored ((v.by (seqSource (graphHome v a))).task nd.id) (graphHome v a) (64 * graphHome v a) (kgArg nd.rcd) = (w, .ok rcd) ∧ (w.lq 0 63).en = true ∧
      (w.lq 0 63).room (recEntries rcd) = true ∧ kgExt0 nd.rcd % 64 = 63 :=
  ⟨spawner false, _, spawner true, _, graphOf [node 5 none spawnRec .spawn false], node 5 none spawnRec .spawn false,
    List.replicate 128 0, rfl, by decide, rfl, rfl,
    ⟨by decide, by decide, snd_eq (eq_bytes (by decide +kernel)), by decide +kernel⟩,
    by decide, by decide, snd_eq (eq_bytes (by decide +kernel)), by decide +kernel, by decide +kernel, by decide +kernel⟩

/-- A section whose watchdog period ends in this cycle; a section with a translation record whose limit ends in this cycle. -/
def sectionOf (loaded : Bool) : Section :=
  { loaded := loaded, tiles := [0], result := none, resultPort := none, entries := [], entryPorts := [], progress := 0,
    period := 100, aborted := false, handled := none, barked := false }
def watching : State := { running' [node 5 none [] (.leaf (sectionOf true)) false] State.reset with now := 210000 }
def expiring : State :=
  let s : State := { running' [node 5 none [] (.leaf (sectionOf true)) false] State.reset with now := 1050000 }
  s.setQuarter 0 { s.quarter 0 with fbuf := [awaiting] }

theorem witness_SequencerActs_watchdog : ∃ (s : State) (a : GraphSt) (nd : Node) (c : Section), s.graph? a.id = some a ∧
    a.ended = false ∧ a.node? nd.id = some nd ∧ nd.done = false ∧ nd.st = .leaf c ∧ c.loaded = true ∧ c.aborted = false ∧
    c.barked = false ∧ c.period ≠ 0 ∧ c.progress + c.period * 2100 ≤ s.now ∧ (∀ x, tileOf x ∈ c.tiles → (s.slot x).wh = none) ∧
    (s.quarter a.lead).fbuf.length < 1024 :=
  ⟨watching, graphOf [node 5 none [] (.leaf (sectionOf true)) false], node 5 none [] (.leaf (sectionOf true)) false,
    sectionOf true, by decide, rfl, by decide, rfl, rfl, rfl, rfl, rfl, by decide, by decide, fun _ _ => rfl, by decide⟩

theorem witness_SequencerActs_limit : ∃ (s : State) (a : GraphSt) (nd : Node) (c : Section) (d : Nat),
    s.graph? a.id = some a ∧ a.ended = false ∧ a.node? nd.id = some nd ∧ nd.st = .leaf c ∧
    sectionDeadline s a.lead a.id c = some d ∧ d ≤ s.now :=
  ⟨expiring, graphOf [node 5 none [] (.leaf (sectionOf true)) false], node 5 none [] (.leaf (sectionOf true)) false,
    sectionOf true, 1050000, by decide, rfl, by decide, rfl, by decide, by decide⟩

/-- A section of one tile whose one slot is a SINK fed by the entry port E0, and the image that holds it: its map at 0, its
configuration record at 64. -/
def sinkCfg : List Word := [0x01000000, 0x6701FEFF, 0xFF, 0xFF, 0xFF, 0xFF, 0x42000000] ++ List.replicate 11 0xFF ++ [0]
def sinkImage : List Byte :=
  [1, 0, 0, 0, 1] ++ List.replicate 19 0 ++ [64] ++ List.replicate 7 0 ++ [0, 0, 0, 4] ++ List.replicate 28 0 ++
    [76, 0, 0, 0] ++ leBytes 4 0xE87F352A ++ List.replicate 8 0 ++ sinkCfg.flatMap fun v => leBytes 4 v.toNat
def leafRec : List Byte := bytes64 [6, 0, 1]
def loadNode : Node := node 5 none leafRec (.leaf (sectionOf false)) false
def loading : State := putHome (mapped (running' [loadNode] State.reset)) 0x200000 sinkImage

theorem sink_config_accepted : tileErr 0 sinkCfg = none := by decide
theorem sink_config_fires : storeHost sinkCfg = false := by decide
theorem sink_crc : (crc32c (sinkCfg.flatMap fun v => leBytes 4 v.toNat)).toNat = 0xE87F352A := by decide
theorem sink_read : okOf (runRd (readSection (graphOf [loadNode]) loadNode) (loading.task 5)).1 =
    some { tiles := [{ t := 0, cfg := sinkCfg, passes := 1, faces := [4], eps := [4] }], result := none, eps := [(0, 0, 4)] } := by decide +kernel

theorem witness_SectionsRun_load : ∃ (s u : State) (a : GraphSt) (nd : Node) (c : Section) (p : SecLoad),
    s.graph? a.id = some a ∧ a.ended = false ∧ a.node? nd.id = some nd ∧ nd.done = false ∧ nd.st = .leaf c ∧ c.loaded = false ∧
    runRd (readSection a nd) (s.task nd.id) = (.ok p, u) ∧ (p.tiles.map TileLoad.t).Nodup ∧ ∃ e ∈ p.tiles, storeHost e.cfg = false :=
  ⟨loading, _, graphOf [loadNode], loadNode, sectionOf false,
    { tiles := [{ t := 0, cfg := sinkCfg, passes := 1, faces := [4], eps := [4] }], result := none, eps := [(0, 0, 4)] },
    by decide, rfl, by decide, rfl, rfl, rfl, fst_eq (eq_ok sink_read), by decide, _, List.mem_singleton.mpr rfl,
    sink_config_fires⟩

/-- An entry token for the L latch of slot 0, with room for one more there; a section that has run. -/
def entering : Section := { sectionOf true with entries := [(15, 0, dat 7)] }

theorem witness_SectionsRun_entry : ∃ (s : State) (a : GraphSt) (nd : Node) (c : Section), s.graph? a.id = some a ∧
    a.ended = false ∧ a.node? nd.id = some nd ∧ nd.st = .leaf c ∧ c.aborted = false ∧
    c.entries.find? (fun e => e.1 == 15) = some (15, 0, dat 7) ∧ (s.link 0).q.length + (s.link 0).resv < 2 :=
  ⟨(running' [node 5 none [] (.leaf entering) false] State.reset).setLink 0 (queue [dat 1]),
    graphOf [node 5 none [] (.leaf entering) false], node 5 none [] (.leaf entering) false, entering,
    by decide, rfl, by decide, rfl, rfl, by decide, by decide⟩

theorem witness_SectionsRun_done : ∃ (s : State) (a : GraphSt) (nd : Node) (c : Section), s.graph? a.id = some a ∧
    a.ended = false ∧ a.node? nd.id = some nd ∧ nd.done = false ∧ nd.st = .leaf c ∧ c.loaded = true ∧ c.aborted = false ∧
    tilesOutstanding s c.tiles = false ∧ ∀ u ∈ c.tiles, (s.tile u).armed = 0 :=
  ⟨running' [node 5 none [] (.leaf (sectionOf true)) false] State.reset, graphOf [node 5 none [] (.leaf (sectionOf true)) false],
    node 5 none [] (.leaf (sectionOf true)) false, sectionOf true,
    by decide, rfl, by decide, rfl, rfl, rfl, rfl, by decide, by decide⟩

/-! ### Witnesses: the arbiter, memory, engines, the module, the cores -/

/-- A launch record of one field, its graph at 128 and its image at 0: a header with one unknown section, and a LEAF. -/
def launchRec : List Byte := [128] ++ List.replicate 15 0 ++ [1, 1] ++ List.replicate 110 0
def image : List Byte :=
  [0x54, 0x48, 0x4B, 0x31, 1, 0, 0, 0, 1, 0, 0, 0, 0, 0, 0, 0, 96] ++ List.replicate 47 0 ++
    [9, 0, 0, 0, 0, 0, 0, 0, 96] ++ List.replicate 55 0 ++ [6]
def arbitrating (rcd : List Byte) : State :=
  let s := (putHome (mapped State.reset) 0x200000 image).setLq 0 5 { LqSt.reset with en := true, nent := 15, base := 0x10000 }
  lqPush { s with agenda := [] } 0 5 rcd 9
def passing (rcd : List Byte) : State := (arbitrating rcd).setQuarter 0 { (arbitrating rcd).quarter 0 with pass := some 0 }
/-- The state in which the pass looks for its candidates, and the one in which it has read them. -/
def begun (s : State) : State :=
  let w := markAt s (.partition 0) 1
  w.setQuarter 0 { w.quarter 0 with pass := none }
def looked (rcd : List Byte) : State := (candidates (begun (passing rcd)) 0).1
def cand (rcd : List Byte) : Cand :=
  { qtr := 0, lq := 5, rcd := rcd, stamp := 9, prio := 0, blk := false, restart := false, kills := 0 }
def noRec : List Byte := List.replicate 128 0

theorem launch_candidate : (candidates (begun (passing launchRec)) 0).2 = [cand launchRec] := by decide +kernel
theorem launch_admitted : okOf (runRd (checkAdmission 0 launchRec) ((looked launchRec).task 9)).1 =
    some { len := 96, idem := true, regions := [] } := by
  decide +kernel
theorem launch_origin : findOrigin (runRd (checkAdmission 0 launchRec) ((looked launchRec).task 9)).2 0 [] launchRec = some (0, 0) := by
  decide +kernel
theorem none_candidate : (candidates (begun (passing noRec)) 0).2 = [cand noRec] := by decide +kernel
def errOf {ε α : Type} : Except ε α → Option ε
  | .ok _ => none
  | .error e => some e
theorem eq_err {ε α : Type} {x : Except ε α} {e : ε} (h : errOf x = some e) : x = .error e := by
  cases x <;> simp_all [errOf]
theorem none_refused : errOf (runRd (checkAdmission 0 noRec) ((looked noRec).task 9)).1 = some (.status 1) := by decide +kernel

/-- A pass of partition 0 is due and free to run. -/
def PassRuns (s : State) : Prop :=
  (s.quarter 0).placing = none ∧ (s.quarter 0).pass = some 0 ∧ 0 ≤ s.now ∧ leadOf s 0 = 0 ∧
    (∀ r ∈ partQuarters s 0, (s.quarter r).hb.qsc = false) ∧ headsBusy s 0 = false

theorem witness_ArbiterActs_empty : ∃ s : State, PassRuns s ∧ (candidates (begun s) 0).2 = [] :=
  ⟨State.reset.setQuarter 0 { State.reset.quarter 0 with pass := some 0 },
    ⟨by decide, by decide, by decide, by decide, by decide, by decide⟩, by decide⟩

theorem pass_runs_none : PassRuns (passing noRec) := by unfold PassRuns; decide +kernel
theorem pass_runs_launch : PassRuns (passing launchRec) := by unfold PassRuns; decide +kernel

theorem witness_ArbiterActs_refused : ∃ (s v : State) (c : Cand), PassRuns s ∧ (candidates (begun s) 0).2 = [c] ∧ c.blk = false ∧
    runRd (checkAdmission 0 c.rcd) ((candidates (begun s) 0).1.task c.stamp.toNat) = (.error (.status 1), v) :=
  ⟨passing noRec, _, cand noRec, pass_runs_none, none_candidate, rfl, fst_eq (eq_err none_refused)⟩

theorem witness_ArbiterActs_placed : ∃ (s v : State) (c : Cand) (adm : Admission), PassRuns s ∧
    (candidates (begun s) 0).2 = [c] ∧ c.blk = false ∧
    runRd (checkAdmission 0 c.rcd) ((candidates (begun s) 0).1.task c.stamp.toNat) = (.ok adm, v) ∧
    findOrigin v 0 [] c.rcd = some (0, 0) ∧ recRes c.rcd = false :=
  ⟨passing launchRec, (runRd (checkAdmission 0 launchRec) ((looked launchRec).task 9)).2, cand launchRec,
    { len := 96, idem := true, regions := [] }, pass_runs_launch, launch_candidate, rfl, fst_eq (eq_ok launch_admitted),
    launch_origin, by decide⟩

/-- A completion whose graph has gone, one whose graph stands, and a ring with one place left. -/
def done : Compl :=
  { home := 0, since := 0, stamp := none, freed := false, qtr := 0, lq := 5, status := 1, rlx := 0, stray := 0, tag := 7,
    result := none, kills := 0, area := 0, pstamp := 2, graph := none }
def posting (c : Compl) (gs : List GraphSt) : State :=
  let s : State := { State.reset with now := 1, graphs := gs }
  s.setQuarter 0 { s.quarter 0 with
    compl := [c], crb := 0x8000, crp := { en := true, head := 1, tail := 15, nent := 15 } }
def ended : Compl := { done with status := 0, graph := some placed.id }

theorem witness_ArbiterActs_post : (nextHeld (posting done []) 0 = none ∧ nextCompl (posting done []) 0 = some done ∧
      ringOpen (posting done []) 0 = true ∧ AsWritten (posting done []) ∧ ownMemory (posting done []) 0 (64 * 0x8000 + 64 * 15) 64 = true ∧
      ∀ g, done.graph = some g → (posting done []).graph? g = none) ∧
    nextHeld (posting ended [placed]) 0 = none ∧ nextCompl (posting ended [placed]) 0 = some ended ∧
      ringOpen (posting ended [placed]) 0 = true ∧ ended.graph = some placed.id ∧
      (posting ended [placed]).graph? placed.id = some placed ∧ owesCaches (posting ended [placed]) placed ended = false ∧
      AsWritten (finishGraph (((posting ended [placed]).setQuarter 0
        { (posting ended [placed]).quarter 0 with compl := [] }).by (seqSource ended.home)) placed ended) := by
  refine ⟨⟨?_, ?_, ?_, ⟨?_, ?_⟩, ?_, fun _ h => nomatch h⟩, ?_, ?_, ?_, ?_, ?_, ?_, ⟨?_, ?_⟩⟩ <;> decide +kernel

/-- An access of slot 56 with one part, and one with two: the first of them still to come, or performed. -/
def part (pa n : Nat) : Part :=
  { off := 0, len := n, va := 0, pa := pa, gran := 0, et := false, remote := false, sent := false, done := false, bytes := [],
    bad := [] }
def access (i : Instr) (pa n : Nat) (v : DWord) : Access :=
  { id := 9, i := i, va := 0, data := v, p := 0, psn := false, block := [], ks := [0, 0, 0, 0], firedAt := 0, held := false,
    parts := some [part pa n] }
def withAcc (a : Access) : State := State.reset.setSlot 56 { State.reset.slot 56 with accs := [a] }
def storing (i : Instr) (pa n : Nat) (v : DWord) : State := withAcc (access i pa n v)
def place (i : Instr) : OutE := { id := 9, toks := [], tgts := targetsOf i, ready := false, lock := false, stale := false }
def halves (first : Bool) : List Part :=
  [{ part (tileBase + 60) 4 with done := first, bytes := if first then [1, 2, 3, 4] else [] },
   { part (tileBase + 64) 4 with off := 4 }]
def wide (i : Instr) (first : Bool) : Access :=
  { access i tileBase 8 8 with block := [1, 2, 3, 4, 5, 6, 7, 8], parts := some (halves first) }

/-- The last byte of a tile store, and its first; its last doubleword, and its first word. -/
theorem witness_AccessesPerform :
    InStore (storing (.ld .byte .always false true .none t1) (tileEnd - 1) 1 0) 56 0
      (access (.ld .byte .always false true .none t1) (tileEnd - 1) 1 0) (.ld 1 true false) [part (tileEnd - 1) 1] 0 (part (tileEnd - 1) 1) ∧
    InStore (storing (.st .half .always .none t1) tileBase 2 0xFFFF) 56 0 (access (.st .half .always .none t1) tileBase 2 0xFFFF)
      (.st 2) [part tileBase 2] 0 (part tileBase 2) ∧
    InStore (storing (.amoCas true .none t1) (tileEnd - 8) 8 5) 56 0 (access (.amoCas true .none t1) (tileEnd - 8) 8 5) (.amo .cas 8)
      [part (tileEnd - 8) 8] 0 (part (tileEnd - 8) 8) ∧
    InStore (storing (.redAdd false .always .none t1) tileBase 4 5) 56 0 (access (.redAdd false .always .none t1) tileBase 4 5)
      (.red .add 4) [part tileBase 4] 0 (part tileBase 4) := by
  refine ⟨⟨?_, ?_, ?_, ?_, ?_, ?_, ?_⟩, ⟨?_, ?_, ?_, ?_, ?_, ?_, ?_⟩, ⟨?_, ?_, ?_, ?_, ?_, ?_, ?_⟩, ⟨?_, ?_, ?_, ?_, ?_, ?_, ?_⟩⟩ <;>
    decide

/-- The first part of a load and the last of it; the last of a block load; the first of a block store. -/
theorem witness_AccessesPerform_parts :
    InStore (withAcc (wide (.ld .dword .always false false .none t1) false)) 56 0
      (wide (.ld .dword .always false false .none t1) false) (.ld 8 false false) (halves false) 0 (part (tileBase + 60) 4) ∧
    InStore (withAcc (wide (.ld .dword .always false false .none t1) true)) 56 0
      (wide (.ld .dword .always false false .none t1) true) (.ld 8 false false) (halves true) 1 { part (tileBase + 64) 4 with off := 4 } ∧
    InStore (withAcc (wide (.ldb .always false true .none t1) true)) 56 0
      (wide (.ldb .always false true .none t1) true) (.ldb true false) (halves true) 1 { part (tileBase + 64) 4 with off := 4 } ∧
    InStore (withAcc (wide (.stb .none t1) false)) 56 0 (wide (.stb .none t1) false) .stb (halves false) 0 (part (tileBase + 60) 4) ∧
    ((setAt (halves true) 1 { part (tileBase + 64) 4 with off := 4, done := true, bytes := [5, 6, 7, 8] }).flatMap (·.bytes)).length = 8 := by
  refine ⟨⟨?_, ?_, ?_, ?_, ?_, ?_, ?_⟩, ⟨?_, ?_, ?_, ?_, ?_, ?_, ?_⟩, ⟨?_, ?_, ?_, ?_, ?_, ?_, ?_⟩, ⟨?_, ?_, ?_, ?_, ?_, ?_, ?_⟩, ?_⟩ <;>
    decide

/-- A PLD and a PST at the last word of a plane; a PST under rule FAULT; PREF and FLUSH in a tile store. -/
def faultRegion : BitVec 128 := BitVec.ofNat 128 (1 * 2 ^ 54 + 2 * 2 ^ 52 + 6 * 2 ^ 35)
def planeAt : Nat := tileBase + 0x1FFF8
def colliding (flag : Byte) : State :=
  let s := (storing (.pst true .none t1) planeAt 8 7).setBytes (rankPlace planeAt) [3, flag]
  s.setField 0 { s.field 0 with regions := [(0, faultRegion)] }

theorem colliding_ready : ∀ flag ∈ [(0 : Byte), 1],
    InStore (colliding flag) 56 0 (access (.pst true .none t1) planeAt 8 7) (.pst 8) [part planeAt 8] 0 (part planeAt 8) ∧
      waitsForSwap (colliding flag) 56 (access (.pst true .none t1) planeAt 8 7) = false ∧ ((colliding flag).slot 56).wh = none ∧
      (settle (colliding flag) planeAt 8 6 0 7).isNone = decide (flag = 1) := by
  intro flag hf
  simp only [List.mem_cons, List.not_mem_nil, or_false] at hf
  rcases hf with rfl | rfl <;> refine ⟨⟨?_, ?_, ?_, ?_, ?_, ?_, ?_⟩, ?_, ?_, ?_⟩ <;> decide

theorem witness_AccessesPerform_planes :
    (InStore (storing (.pld true .always .none t1) planeAt 8 0) 56 0 (access (.pld true .always .none t1) planeAt 8 0) (.pld 8)
        [part planeAt 8] 0 (part planeAt 8) ∧
      waitsForSwap (storing (.pld true .always .none t1) planeAt 8 0) 56 (access (.pld true .always .none t1) planeAt 8 0) = false) ∧
    (∀ flag ∈ [(0 : Byte), 1], InStore (colliding flag) 56 0 (access (.pst true .none t1) planeAt 8 7) (.pst 8) [part planeAt 8] 0
        (part planeAt 8) ∧
      waitsForSwap (colliding flag) 56 (access (.pst true .none t1) planeAt 8 7) = false ∧ ((colliding flag).slot 56).wh = none ∧
      (settle (colliding flag) planeAt 8 6 0 7).isNone = decide (flag = 1)) ∧
    InStore (storing (.pref .always false true) planeAt 1 0) 56 0 (access (.pref .always false true) planeAt 1 0) (.pref true false)
      [part planeAt 1] 0 (part planeAt 1) ∧
    InStore (storing (.flush .always true .none t1) planeAt 1 0) 56 0 (access (.flush .always true .none t1) planeAt 1 0) (.flush true)
      [part planeAt 1] 0 (part planeAt 1) := by
  refine ⟨⟨⟨?_, ?_, ?_, ?_, ?_, ?_, ?_⟩, ?_⟩, colliding_ready, ⟨?_, ?_, ?_, ?_, ?_, ?_, ?_⟩, ⟨?_, ?_, ?_, ?_, ?_, ?_, ?_⟩⟩ <;> decide

/-- A PST of a word written in this step, under rule FAULT, raises PLANE-COLLIDE and leaves it. -/
theorem test_plane_collide : (nextOf (exec (.memoryAccessPerformed 56 0 .clean) { colliding 1 with graphs := [placed], tiles :=
    (ready (.pst true .none t1) [] [] []).tiles })).map (fun t => ((t.quarter 0).fbuf.map FRec.code, t.byte (planeAt + 0x20000))) =
    some ([codePlaneCollide], 0) := by decide +kernel

/-- The fences, with a dirty line in the cache, and with one word in the combining buffer. -/
def dirtyLine : List (Nat × CLine) :=
  [(lineNo 0x200040, { base := lineBase 0x200040, bytes := [(60, { v := 7, drt := true }), (64, { v := 8, drt := true })], tnt := [] })]
def fenceOf (i : Instr) : Access := { access i 0 0 0 with parts := some [actionPart] }
def fencing (i : Instr) (cache : List (Nat × CLine)) (rcb : List RcbEntry) : State :=
  let s := withAcc (fenceOf i)
  s.setField 0 { s.field 0 with cache := cache, rcb := rcb }

theorem dirty_in_place (f : FieldSt) (h : f.cache = dirtyLine) : LinesInPlace f := by
  intro g l hl
  rw [h] at hl
  have : g = lineNo 0x200040 ∧ l = { base := lineBase 0x200040, bytes := [(60, { v := 7, drt := true }), (64, { v := 8, drt := true })], tnt := [] } := by
    simp only [SMap.find, dirtyLine] at hl
    split at hl <;> simp_all
  obtain ⟨rfl, rfl⟩ := this
  decide

theorem witness_AccessesPerform_fences : ∀ e ∈ [(Instr.fenceF .none t1, false, false), (.fenceD .none t1, true, false),
      (.fenceP .none t1, false, true), (.fenceS .none t1, true, false)],
    ∀ s ∈ [fencing e.1 dirtyLine [], fencing e.1 [] [⟨0x200040, .add, true, 5, false⟩]],
      (pendingParts (s.slot 56))[0]? = some (fenceOf e.1, 0) ∧ memOp e.1 = some (.fence e.2.1 e.2.2) ∧
      earlierAccess s 0 9 (if e.2.2 then MemOp.isPlane else MemOp.isAccess) (!e.2.2) = false ∧ s.flips = [] ∧ s.under = [] ∧
      ((s.field 0).cache = dirtyLine ∨ (s.field 0).rcb = [⟨0x200040, .add, true, 5, false⟩]) := by decide

/-- FENCE.D takes the dirty bytes home and keeps none of them. -/
theorem test_fence_publishes : (nextOf (exec (.memoryAccessPerformed 56 0 .clean) (fencing (.fenceD .none t1) dirtyLine []))).map
    (fun t => (t.home (lineBase 0x200040 + 60) 5, (t.field 0).cache.map fun l => l.2.bytes)) = some ([7, 0, 0, 0, 8], [[]]) := by
  decide +kernel

/-- Performing them behind another place of the emission order, or at its head. -/
def performing (i : Instr) (pa n : Nat) (v : DWord) : State :=
  let s := storing i pa n v
  s.setSlot 56 { s.slot 56 with outs := [{ place i with id := 8 }, place i] }
def leading (met : Bool) : State :=
  let s := storing (.st .half .always .none t1) tileBase 2 0xFFFF
  (s.setSlot 56 { s.slot 56 with outs := [place (.st .half .always .none t1)] }).setTile 0 { s.tile 0 with met := met }

theorem witness_AccessesPerform_place : ((performing (.st .half .always .none t1) tileBase 2 0xFFFF).slot 56).outs =
    { place (.st .half .always .none t1) with id := 8 } :: [place (.st .half .always .none t1)] ∧ (8 : Nat) ≠ 9 ∧
    ({ place (.st .half .always .none t1) with id := 8 } : OutE).ready = false := by decide

theorem witness_AccessesPerform_head : ∀ met : Bool, ((leading met).slot 56).outs = place (.st .half .always .none t1) :: [] ∧
    (place (.st .half .always .none t1)).id = 9 ∧ (place (.st .half .always .none t1)).stale = false ∧
    (((leading met).slot 56).wh.isSome || ((leading met).tile 0).met || !targetsFree (leading met) 56 [.none, t1]) = met := by
  decide

/-- Line 0x200040 in the field's cache with its first eight bytes; the same in DRAM alone; and there with its sector poisoned. -/
def dramLine : List (Nat × CLine) :=
  [(lineNo 0x200040, { base := lineBase 0x200040, bytes := (List.range 8).map fun i => (0x200040 - lineBase 0x200040 + i, { v := 7, drt := false }), tnt := [] })]
def dramAccess (i : Instr) (n : Nat) (psn : Bool) : Access := { access i 0x200040 n 5 with psn := psn }
def inDram (i : Instr) (n : Nat) (psn : Bool) (cache : List (Nat × CLine)) : State :=
  let s := withAcc (dramAccess i n psn)
  s.setField 0 { s.field 0 with cache := cache }

theorem room_small (s : State) (f pa : Nat) (h : (s.field f).cache.length < 8) : Room s f pa :=
  .inr (Nat.lt_of_le_of_lt (List.length_filter_le _ _) h)
theorem in_dram (i : Instr) (n : Nat) (psn : Bool) (cache : List (Nat × CLine)) (o : MemOp) (h : memOp i = some o)
    (w : n = o.len (dramAccess i n psn) ∧ 0 < n)
    (b : lineBase (0x200040 + n - 1) = lineBase 0x200040)
    (f : mayPerform (inDram i n psn cache) 56 (dramAccess i n psn) o (part 0x200040 n) = true)
    (e : (pendingParts ((inDram i n psn cache).slot 56))[0]? = some (dramAccess i n psn, 0))
    (u : ((inDram i n psn cache).field 0).rcb = []) :
    InDram (inDram i n psn cache) 56 (dramAccess i n psn) o (part 0x200040 n) where
  next := e
  op := h
  part := rfl
  whole := ⟨rfl, w.1, w.2, rfl, by show (0 : Nat) ≤ 2; decide⟩
  place := ⟨by show isDram 0x200040 = true; decide, by rfl, b⟩
  sound := ⟨rfl, rfl⟩
  free := f
  noUpdate := by show (((inDram i n psn cache).field 0).rcb.any _) = false; rw [u]; rfl

theorem witness_DramAccesses_load : (∀ c ∈ [dramLine, []],
      InDram (inDram (.ld .dword .always false false .none t1) 8 false c) 56
        (dramAccess (.ld .dword .always false false .none t1) 8 false) (.ld 8 false false) (part 0x200040 8)) ∧
    (∀ b, Room (inDram (.ld .dword .always false false .none t1) 8 false dramLine) 0 b) ∧
    cacheHolds ((inDram (.ld .dword .always false false .none t1) 8 false dramLine).field 0) 0x200040 8 = true ∧
    cacheHolds ((inDram (.ld .dword .always false false .none t1) 8 false []).field 0) 0x200040 8 = false ∧
    0x200040 + 8 ≤ (granUnit 0 0x200040).1 + (granUnit 0 0x200040).2 := by
  refine ⟨?_, fun b => room_small _ _ _ (by decide), by decide, by decide, by decide⟩
  intro c hc
  simp only [List.mem_cons, List.not_mem_nil, or_false] at hc
  rcases hc with rfl | rfl <;> exact in_dram _ _ _ _ _ rfl (by decide) (by decide) (by decide) (by decide) (by decide)

theorem witness_DramAccesses_store : ∀ psn : Bool,
    InDram (inDram (.st .half .always .none t1) 2 psn dramLine) 56 (dramAccess (.st .half .always .none t1) 2 psn) (.st 2)
      (part 0x200040 2) ∧
    inRegion (inDram (.st .half .always .none t1) 2 psn dramLine) 56 = false ∧
    meetsTentative (inDram (.st .half .always .none t1) 2 psn dramLine) 56 0x200040 2 = false := by
  intro psn
  cases psn <;>
    exact ⟨in_dram _ _ _ _ _ rfl (by decide) (by decide) (by decide) (by decide) (by decide), by decide, by decide⟩

theorem witness_DramAccesses_atomic :
    (InDram (inDram (.amoCas true .none t1) 8 false dramLine) 56 (dramAccess (.amoCas true .none t1) 8 false) (.amo .cas 8)
      (part 0x200040 8) ∧
      meetsTentative (inDram (.amoCas true .none t1) 8 false dramLine) 56 0x200040 8 = false ∧
      (∀ i, i < 8 → cachedByte ((inDram (.amoCas true .none t1) 8 false dramLine).field 0) (0x200040 + i) =
        some { v := 7, drt := false }) ∧
      (inDram (.amoCas true .none t1) 8 false dramLine).poisoned 0x200040 8 = false) ∧
    InDram (inDram (.redAdd false .always .none t1) 4 true []) 56 (dramAccess (.redAdd false .always .none t1) 4 true) (.red .add 4)
      (part 0x200040 4) ∧
    meetsTentative (inDram (.redAdd false .always .none t1) 4 true []) 56 0x200040 4 = false ∧
    (∀ i, i < 4 → cachedByte ((inDram (.redAdd false .always .none t1) 4 true []).field 0) (0x200040 + i) = none) ∧
    ((inDram (.redAdd false .always .none t1) 4 true []).field 0).rcb.length < 64 :=
  ⟨⟨in_dram _ _ _ _ _ rfl (by decide) (by decide) (by decide) (by decide) (by decide), by decide, by decide, by decide⟩,
    in_dram _ _ _ _ _ rfl (by decide) (by decide) (by decide) (by decide) (by decide), by decide, by decide, by decide⟩

/-- A block load and a block store of 5 bytes, a PREF and a FLUSH of a line in the cache. -/
def blockAccess (i : Instr) : Access := { dramAccess i 5 false with block := [9, 8, 7, 6, 5] }
def inBlock (i : Instr) (cache : List (Nat × CLine)) : State :=
  let s := withAcc (blockAccess i)
  s.setField 0 { s.field 0 with cache := cache }

theorem witness_DramAccesses_blocks : ∀ e ∈ [(Instr.ldb .always true true .none t1, MemOp.ldb true true), (.stb .none t1, .stb)],
    ∀ c ∈ [dramLine, []], (pendingParts ((inBlock e.1 c).slot 56))[0]? = some (blockAccess e.1, 0) ∧ memOp e.1 = some e.2 ∧
      e.2.len (blockAccess e.1) = 5 ∧ mayPerform (inBlock e.1 c) 56 (blockAccess e.1) e.2 (part 0x200040 5) = true ∧
      pageBusy (inBlock e.1 c) 0x200040 = false ∧ inRegion (inBlock e.1 c) 56 = false ∧
      meetsTentative (inBlock e.1 c) 56 0x200040 5 = false := by decide

theorem witness_DramAccesses_lines : (∀ l2 : Bool, ∀ c ∈ [dramLine, []],
      InDram (inDram (.pref .always false l2) 1 false c) 56 (dramAccess (.pref .always false l2) 1 false) (.pref l2 false)
        (part 0x200040 1)) ∧
    (∀ d : Bool, InDram (inDram (.flush .always d .none t1) 1 false dirtyLine) 56 (dramAccess (.flush .always d .none t1) 1 false)
        (.flush d) (part 0x200040 1) ∧
      inRegion (inDram (.flush .always d .none t1) 1 false dirtyLine) 56 = false ∧
      LinesInPlace ((inDram (.flush .always d .none t1) 1 false dirtyLine).field 0)) := by
  constructor
  · intro l2 c hc
    simp only [List.mem_cons, List.not_mem_nil, or_false] at hc
    cases l2 <;> rcases hc with rfl | rfl <;> exact in_dram _ _ _ _ _ rfl (by decide) (by decide) (by decide) (by decide) (by decide)
  · intro d
    cases d <;>
      exact ⟨in_dram _ _ _ _ _ rfl (by decide) (by decide) (by decide) (by decide) (by decide), by decide, dirty_in_place _ rfl⟩

/-- RETAIN and UNPIN of 64 bytes that lie in one line, on a mapped page. -/
def naming (i : Instr) : State :=
  let s := mapped (running' [] State.reset)
  s.setSlot 56 { s.slot 56 with accs := [{ fenceOf i with va := 64, data := 64 }] }

theorem witness_DramAccesses_named : ∀ e ∈ [(Instr.retain .none t1, MemOp.retain), (.unpin .none t1, .unpin)],
    (pendingParts ((naming e.1).slot 56))[0]? = some ({ fenceOf e.1 with va := 64, data := 64 }, 0) ∧ memOp e.1 = some e.2 ∧
    (namedLines ((naming e.1).by (slotSource 56)) 56 false (namedParts 64 64)).2 = .lines [lineBase 0x200040] ∧
    pageBusy (naming e.1) (lineBase 0x200040) = false ∧ isDram (lineBase 0x200040) = true := by decide +kernel

/-- PREF.L2 in a WIDE768 page takes the four lines of its granule as one request, which misses once (R211, R247). -/
theorem test_pref_l2_counts_once :
    let s := { inDram (.pref .always false true) 1 false [] with tags := [(1, 2)] }
    let d := homeDie s 0x200040
    let s := s.setDie d (modWindow (s.die d) 0 fun v => { v with en := true, limit := 0xFFFFFFFFF })
    let s := s.setSlot 56 { s.slot 56 with accs := [{ dramAccess (.pref .always false true) 1 false with parts := some [{ part 0x200040 1 with gran := 2 }] }] }
    (nextOf (exec (.memoryAccessPerformed 56 0 .clean) s)).map (fun t =>
      let w := SMap.get (t.die d).retw RetwSt.reset 0
      (w.miss, w.hits)) = some (1, 0) := by decide +kernel

/-- An AMO on a poisoned word has no effect: the open region of its owner is not committed early, and contains the fault (R230, R353). -/
theorem test_amo_poison_first :
    let i : Instr := .amoAdd false .always .none t1
    let s := inDram i 4 false []
    let s := { s.setField 0 { s.field 0 with ctn := { (s.field 0).ctn with opened := true, owner := 0 } } with
      poison := [sectorOf (locOf s 0x200040)], graphs := [placed], tiles := (ready i [] [] []).tiles }
    (nextOf (exec (.memoryAccessPerformed 56 0 .clean) s)).map (fun t => ((t.field 0).ctn.early, (t.quarter 0).fbuf.map fun r => (r.code, r.kind))) =
      some (false, [(codePoison, 3)]) := by decide +kernel

theorem test_store_bytes : (nextOf (exec (.memoryAccessPerformed 56 0 .clean) (performing (.st .word .always .none t1) tileBase 4
    0x1122334455667788))).map (fun t => (t.bytes tileBase 5, t.mem.map (·.1))) =
    some ([0x88, 0x77, 0x66, 0x55, 0], [tileBase, tileBase + 1, tileBase + 2, tileBase + 3]) := by decide
theorem test_load_signed : (nextOf (exec (.memoryAccessPerformed 56 0 .clean) ((performing (.ld .byte .always false true .none t1)
    (tileBase + 3) 1 0).setBytes (tileBase + 3) [0x80]))).map (fun t => ((t.slot 56).outs.map OutE.toks)) =
    some [[], [dat 0xFFFFFFFFFFFFFF80]] := by decide
theorem test_cas_writes : (nextOf (exec (.memoryAccessPerformed 56 0 .clean) (performing (.amoCas false .none t1) tileBase 4
    7))).map (fun t => (t.bytes tileBase 4, (t.slot 56).outs.map OutE.toks)) = some ([7, 0, 0, 0], [[], [dat 0]]) := by decide
theorem test_cas_keeps : (nextOf (exec (.memoryAccessPerformed 56 0 .clean) ((performing (.amoCas false .none t1) tileBase 4
    7).setBytes tileBase [1]))).map (fun t => (t.bytes tileBase 4, (t.slot 56).outs.map OutE.toks)) =
    some ([1, 0, 0, 0], [[], [dat 1]]) := by decide

/-- A free guard that slots ask for; a group whose rank 0, of NMEM 0, has arrived twice. -/
def asking (q : List GuardReq) : GraphSt := { placed with guards := [(255, { Guard.free with queue := q })] }
def guardRegion : BitVec 128 := BitVec.ofNat 128 (1 * 2 ^ 86 + 1 * 2 ^ 54 + 1 * 2 ^ 52 + 255 * 2 ^ 44)
def asked (q : List GuardReq) : State :=
  let s := mapped { State.reset with graphs := [asking q], now := 1 }
  s.setField 0 { s.field 0 with regions := [(0, guardRegion)], cache := dirtyLine }
def stepping : GraphSt :=
  { placed with groups := [(63, { stepn := 0, arrived := [⟨0, 56, 7, 0⟩], next := [⟨0, 57, 8, 0⟩, ⟨0, 58, 9, 0⟩] })] }

theorem witness_GuardsAndPlanesAct : ∃ (s u : State) (a b : GraphSt) (r : GuardReq) (rs : List GuardReq),
    (s.graph? a.id = some a ∧ (SMap.get a.guards Guard.free 255).queue = r :: rs ∧ r.cyc < s.now ∧ r.shared = false ∧
      (SMap.get a.guards Guard.free 255).excl = none ∧ (SMap.get a.guards Guard.free 255).shared = [] ∧
      AsWritten s ∧ LinesInPlace (s.field (fieldOf r.x))) ∧
    u.graph? b.id = some b ∧ swapReady u b 63 = true :=
  ⟨asked [⟨56, 7, false, 0⟩],
    { State.reset.setField 0 { State.reset.field 0 with
        regions := [(0, BitVec.ofNat 128 (1 * 2 ^ 86 + 1 * 2 ^ 54 + 2 * 2 ^ 52 + 63 * 2 ^ 38))] } with graphs := [stepping] },
    asking [⟨56, 7, false, 0⟩], stepping, ⟨56, 7, false, 0⟩, [],
    ⟨by decide, by decide, by decide, rfl, rfl, rfl, ⟨rfl, rfl⟩, dirty_in_place _ rfl⟩, by decide, by decide⟩

/-- Two shared requests before an exclusive one. -/
theorem witness_GuardsAndPlanesAct_shared : ∃ (s : State) (a : GraphSt) (rs rest : List GuardReq), s.graph? a.id = some a ∧ rs ≠ [] ∧
    (SMap.get a.guards Guard.free 255).queue = rs ++ rest ∧ (∀ r ∈ rs, r.shared = true ∧ r.cyc < s.now) ∧
    (∀ r, rest.head? = some r → r.shared = false ∨ s.now ≤ r.cyc) ∧ ((rs ++ rest).map GuardReq.id).Nodup ∧
    (SMap.get a.guards Guard.free 255).excl = none :=
  ⟨asked [⟨56, 7, true, 0⟩, ⟨120, 8, true, 0⟩, ⟨184, 9, false, 0⟩], asking [⟨56, 7, true, 0⟩, ⟨120, 8, true, 0⟩, ⟨184, 9, false, 0⟩],
    [⟨56, 7, true, 0⟩, ⟨120, 8, true, 0⟩], [⟨184, 9, false, 0⟩], by decide, by decide, rfl, by decide,
    fun r h => .inl (by cases h; rfl), by decide, rfl⟩

/-- The grant takes the dirty byte of the bound region home; the byte before the region stays dirty (R240). -/
theorem test_grant_publishes : (nextOf (exec (.guardGrant placed.id 255) (asked [⟨56, 7, false, 0⟩]))).map
    (fun t => (t.home (lineBase 0x200040 + 60) 5, (t.field 0).cache.map fun l => l.2.bytes)) =
    some ([0, 0, 0, 0, 8], [[(60, { v := 7, drt := true })]]) := by decide +kernel

/-- The last word of a tile's plane: written at rank 255 and not; the first store and the last. -/
def plane (pa : Nat) (flag : Byte) : State := State.reset.setBytes (rankPlace pa) [255, flag]

theorem settle_again : (settle (plane (tileBase + 0x1FFF8) 1) (tileBase + 0x1FFF8) 8 0 255 (2 ^ 64 - 1)).isSome = true := by decide
theorem settle_first : (settle (plane (tileBase + 0x1FFF8) 0) (tileBase + 0x1FFF8) 8 1 0 0).isSome = true := by decide

theorem witness_GuardsAndPlanesAct_settle : tileBase ≤ tileBase + 0x1FFF8 ∧ tileBase + 0x1FFF8 < tileEnd ∧
    (tileBase + 0x1FFF8 - tileBase) % 0x80000 + 8 ≤ 0x20000 ∧ (tileBase + 0x1FFF8 - tileBase) % 8 = 0 ∧
    (∃ t, settle (plane (tileBase + 0x1FFF8) 1) (tileBase + 0x1FFF8) 8 0 255 (2 ^ 64 - 1) = some t) ∧
    (∃ t, settle (plane (tileBase + 0x1FFF8) 0) (tileBase + 0x1FFF8) 8 1 0 0 = some t) ∧
    ((plane (tileBase + 0x1FFF8) 1).byte (rankPlace (tileBase + 0x1FFF8) + 1)).getLsbD 0 = true ∧
    ((plane (tileBase + 0x1FFF8) 0).byte (rankPlace (tileBase + 0x1FFF8) + 1)).getLsbD 0 = false :=
  ⟨by decide, by decide, by decide, by decide, Option.isSome_iff_exists.mp settle_again, Option.isSome_iff_exists.mp settle_first,
    by decide, by decide⟩

/-- An access on a mapped page and one on an absent one; a remote load answered, refused and overdue; a peer's read and write. -/
def walking (va : DWord) : State :=
  let s := mapped (running' [] State.reset)
  s.setSlot 56 { s.slot 56 with accs := [{ access (.ld .word .always false false .none t1) 0 4 0 with va := va, parts := none }] }
def partsOf : AccXl → Option (List Part)
  | .ok ps => some ps
  | _ => none
def faultOf : AccXl → Option (Nat × Nat × Nat)
  | .fault c a v => some (c, a, v)
  | _ => none
theorem eq_parts {x : AccXl} {ps : List Part} (h : partsOf x = some ps) : x = .ok ps := by
  cases x <;> simp_all [partsOf]
theorem eq_fault {x : AccXl} {c a v : Nat} (h : faultOf x = some (c, a, v)) : x = .fault c a v := by
  cases x <;> simp_all [faultOf]
def walkAccess (va : DWord) : Access := { access (.ld .word .always false false .none t1) 0 4 0 with va := va, parts := none }

theorem walk_parts : partsOf (translateAccess ((walking 64).by (slotSource 56)) 56 (.ld 4 false false) (walkAccess 64)).2 =
    some [{ part 0x200040 4 with va := 64 }] := by decide +kernel

theorem witness_WalksAndPeersAct_walk : ∃ (u : State) (ps : List Part), ((walking 64).slot 56).wh = none ∧
    (∀ b ∈ ((walking 64).slot 56).accs, b.held = false) ∧ ((walking 64).slot 56).accs.find? (fun b => b.parts.isNone) = some (walkAccess 64) ∧
    memOp (walkAccess 64).i = some (.ld 4 false false) ∧
    translateAccess ((walking 64).by (slotSource 56)) 56 (.ld 4 false false) (walkAccess 64) = (u, .ok ps) :=
  ⟨_, [{ part 0x200040 4 with va := 64 }], by decide, by decide, by decide, by decide, snd_eq (eq_parts walk_parts)⟩

theorem witness_WalksAndPeersAct_fault : ∃ (u : State), ((walking 0x200000).slot 56).wh = none ∧
    (∀ b ∈ ((walking 0x200000).slot 56).accs, b.held = false) ∧ ((walking 0x200000).slot 56).accs.find? (fun b => b.parts.isNone) = some (walkAccess 0x200000) ∧
    memOp (walkAccess 0x200000).i = some (.ld 4 false false) ∧
    translateAccess ((walking 0x200000).by (slotSource 56)) 56 (.ld 4 false false) (walkAccess 0x200000) = (u, .fault 0x11 1 0x200000) :=
  ⟨_, by decide, by decide, by decide, by decide, snd_eq (eq_fault (by decide))⟩

/-- Port 1 of die 7 on and up. -/
def linked : State :=
  State.reset.setDie 7 { State.reset.die 7 with ue := SMap.put [] UeSt.reset 1 { UeSt.reset with en := true, up := true } }

def remote : RemoteAcc :=
  { id := 4, x := 56, acc := 9, part := 0, lead := 0, peer := 1, req := ⟨15, 3, 1, 0x40, .read 4⟩, carried := true, deadline := 2100 }
def waiting (now : Nat) : State :=
  let a := access (.ld .word .always false false .none t1) tileBase 4 0
  { linked.setSlot 56 { linked.slot 56 with accs := [a] } with remotes := [remote], now := now }

theorem witness_WalksAndPeersAct_remote : ∃ (a : Access) (p : Part), (waiting 0).remotes.find? (fun b => b.id == 4) = some remote ∧
    ((waiting 0).slot 56).accs.find? (fun b => b.id == 9) = some a ∧ memOp a.i = some (.ld 4 false false) ∧ a.parts = some [p] ∧
    remote.part = 0 ∧ p.len = 4 ∧ ((waiting 0).slot 56).wh = none ∧ remote.carried = true ∧ portUp (waiting 0) remote.req.port = true ∧
    remote.deadline ≤ (waiting 2100).now ∧ ∀ b ∈ (waiting 2100).remotes, b ≠ remote → (waiting 2100).now < b.deadline :=
  ⟨access (.ld .word .always false false .none t1) tileBase 4 0, part tileBase 4, by decide, by decide, by decide, rfl, rfl, rfl,
    by decide, by decide, by decide, by decide, by decide⟩

/-- Accesses of a peer at homes of its partition: the last that a page holds, and an atomic. -/
theorem witness_WalksAndPeersAct_peer : AsWritten linked ∧ linked.soft = [] ∧ (port linked 7 1).en = true ∧ (port linked 7 1).up = true ∧
    inboundOk linked 7 (.atomic (3 * blockSize + 8) .cas true 5 0) = true ∧ inboundOk linked 7 (.write (3 * blockSize) 8 5 true) = true ∧
    inboundOk linked 7 (.read (3 * blockSize + 63) 1) = true ∧
    (∀ a ∈ [Inbound.atomic (3 * blockSize + 8) .cas true 5 0, .write (3 * blockSize) 8 5 true, .read (3 * blockSize + 63) 1],
      ∀ i, i < (Inbound.span a).2 → pageBusy linked ((Inbound.span a).1 + i) = false) :=
  ⟨⟨rfl, rfl⟩, by decide⟩

/-- A command of slot 56 at the head of a queue of field 0. -/
def command (i : Instr) (l r : DWord) (q : Nat) : Cmd :=
  { id := 3, x := 56, i := i, l := l, r := r, p := 0, idx := [], psn := false, ks := [0, 0, 0, 0], firedAt := 0, todo := [q], parts := [],
    started := false, zlen := 0, wh := none }
def commanding (c : Cmd) (q : Nat) : State :=
  { State.reset.setField 0 { State.reset.field 0 with queues := [(q, [c])] } with now := 1 }

theorem atHead (c : Cmd) (q : Nat) (h : cmdQueue (commanding c q) 0 q = [c]) (w : c.wh = none) (f : c.firedAt = 0)
    (o : c.todo = [q]) : AtHead (commanding c q) 0 q c :=
  ⟨by rw [h]; rfl, ⟨w, by rw [f]; exact Nat.one_pos⟩, o⟩

/-- A legal and a mixed configuration of engine 3; rows up to the last, and one beyond; 32 rows up to the last in the
integer class, with the latch full and the panel there. -/
theorem witness_EngineCommandsAct_cfg : AtHead (commanding (command (.mxCfg 8 .none t1) 0x88 0 3) 3) 0 3
      (command (.mxCfg 8 .none t1) 0x88 0 3) ∧ cfgCheck 0x88 = none ∧
    AtHead (commanding (command (.mxCfg 8 .none t1) 0x18 0 3) 3) 0 3 (command (.mxCfg 8 .none t1) 0x18 0 3) ∧
    intClass (((0x18 : DWord).toNat) % 16) ≠ intClass ((0x18 : DWord).toNat / 16 % 16) ∧ (0x18 : DWord).toNat / 2 ^ 15 % 2 ^ 17 = 0 ∧
    (0x18 : DWord).toNat / 2 ^ 12 % 8 ≤ 1 ∧ ((commanding (command (.mxCfg 8 .none t1) 0x18 0 3) 3).slot 56).wh = none :=
  ⟨atHead _ _ (by decide) rfl rfl rfl, by decide, atHead _ _ (by decide) rfl rfl rfl, by decide, by decide, by decide, by decide⟩

theorem witness_EngineCommandsAct_zero : AtHead (commanding (command (.mxZero 8 .none t1) 2047 0 3) 3) 0 3
      (command (.mxZero 8 .none t1) 2047 0 3) ∧ (2047 : DWord).toNat % 2048 + ((2047 : DWord).toNat / 2048 % 2048 + 1) ≤ 2048 ∧
    AtHead (commanding (command (.mxZero 8 .none t1) 4095 0 3) 3) 0 3 (command (.mxZero 8 .none t1) 4095 0 3) ∧
    2048 < (4095 : DWord).toNat % 2048 + ((4095 : DWord).toNat / 2048 % 2048 + 1) ∧
    ((commanding (command (.mxZero 8 .none t1) 4095 0 3) 3).slot 56).wh = none :=
  ⟨atHead _ _ (by decide) rfl rfl rfl, by decide, atHead _ _ (by decide) rfl rfl rfl, by decide, by decide⟩

/-- Engine 3 of field 0 in these formats with this panel, and the operand latch of the field full, in the integer class and not. -/
def multiplying (fmt : Nat) (cfg : DWord) : State :=
  let s := commanding (command (.mxMma 8 .none t1) 2016 0 3) 3
  s.setField 0 { s.field 0 with
    oplatch := some ⟨fmt, List.replicate 32 1⟩
    mes := SMap.put [] MeSt.reset 3 { MeSt.reset with cfg := cfg, panel := some ⟨fmt, List.replicate 32 1, 0⟩ } }

theorem atHeads (s : State) (c : Cmd) (h : (cmdQueue s 0 3)[0]? = some c) (r : c.wh = none ∧ c.firedAt < s.now) : AtHeads s 0 3 8 c where
  head := h
  ready := r
  mine := by decide
  all := by
    intro k hk hm
    have : k = 3 := by
      interval_cases k <;> simp_all
    simp [this, h]

theorem witness_EngineCommandsAct_mma : ∀ e ∈ [((8 : Nat), (0x88 : DWord)), (0, 0)],
    AtHeads (multiplying e.1 e.2) 0 3 8 (command (.mxMma 8 .none t1) 2016 0 3) ∧
    ((multiplying e.1 e.2).field 0).oplatch = some ⟨e.1, List.replicate 32 1⟩ ∧
    (∀ k, k < 4 → (8 : BitVec 4).getLsbD k = true →
      (engine (multiplying e.1 e.2) 0 k).panel = some ⟨e.1, List.replicate 32 1, 0⟩ ∧
      (engine (multiplying e.1 e.2) 0 k).mismatch = none ∧ e.1 = cfgA (engine (multiplying e.1 e.2) 0 k).cfg ∧
      e.1 = cfgB (engine (multiplying e.1 e.2) 0 k).cfg) ∧
    intClass e.1 = decide (e.1 = 8) ∧ (2016 : DWord).toNat % 2048 + 31 ≤ 2047 := by
  intro e he
  simp only [List.mem_cons, List.not_mem_nil, or_false] at he
  rcases he with rfl | rfl <;>
    exact ⟨atHeads _ _ (by decide) ⟨rfl, by decide⟩, by decide, by decide, by decide, by decide⟩

/-- An accumulator element takes 1.0 x 2.0 from lane 0 and 2.0 x 2.0 from lane 1 onto 1.0 (R73). -/
theorem test_mma_float : kElement 0 0 0x3F800000 0x400000003F800000 0x4000000040000000 = (0x40E00000, Flags.none) := by
  decide +kernel

/-- The last row to tokens with an EOS, and to a buffer at the end of its tile's store; the panel of tile 63; the last row to and
from a tile store; index tokens that name two rows. -/
def epilogue (toBuf : Bool) : Cmd := command (.mxEpi toBuf 3 .none t1) (2 ^ 28 + 2047) 255 3
def handle (st : Nat) : BufSt :=
  { entry := BitVec.ofNat 128 (128 * 2 ^ 96 + 63 * 2 ^ 83 + 0x7FF80 * 2 ^ 64 + st), declared := true, atile := 1, aport := 0 }
def panelCmd : Cmd := command (.mxBb 8 .none t1) (BitVec.ofNat 64 (63 * 2 ^ 19)) 0 3
def copyCmd (d : Bool) (done : SMap (List Byte)) : Cmd :=
  { command (.mxCpy d 3 .none t1) 2047 (BitVec.ofNat 64 (63 * 2 ^ 19 + 0x7FF80)) 3 with parts := done, started := decide (done ≠ []) }
def gatherCmd : Cmd :=
  { command (.mxGath .none t1) 0 (BitVec.ofNat 64 (8 * 2 ^ 48 + 0x20 * 2 ^ 32 + 63 * 2 ^ 19 + 0x10)) 4 with
    idx := [0x10000FFFFFFFF] ++ List.replicate 7 0xFFFFFFFFFFFFFFFF }

theorem witness_EngineCommandsAct_rows : (∀ b : Bool, AtHead (commanding (epilogue b) 3) 0 3 (epilogue b)) ∧
    (epilogue true).l.toNat % 2048 + ((epilogue true).l.toNat / 2048 % 32 + 1) ≤ 2048 ∧
    (let s := (commanding (epilogue true) 3).setBuf 0 255 (handle 0)
     (s.buf 0 255).busy = false ∧ eotRoom s 0 (s.buf 0 255) = true ∧ (s.buf 0 255).st = 0 ∧ 128 ≤ (s.buf 0 255).size ∧
       inShadow s ((s.buf 0 255).base 0) 128 = false) ∧
    (AtHeads (commanding panelCmd 3) 0 3 8 panelCmd ∧ panelCmd.l.extractLsb' 25 7 = 0 ∧ panelCmd.l.extractLsb' 48 16 = 0 ∧
      inShadow (commanding panelCmd 3) (tileStore 63) (32 * runBytes 0) = false) ∧
    (cmdQueue (commanding gatherCmd 4) 0 4)[0]? = some gatherCmd ∧ gatherCmd.r.getLsbD 31 = false ∧
      gatherCmd.r.extractLsb' 52 12 = 0 ∧ ((commanding gatherCmd 4).field 0).oplatch = none ∧
      (List.range 32).filterMap (gatherAt gatherCmd) = [(63, 0x10), (63, 0x30)] ∧
      ∀ p ∈ [(63, 0x10), (63, 0x30)], inShadow (commanding gatherCmd 4) (tileStore (64 * 0 + p.1) + p.2) (runBytes 8) = false :=
  ⟨fun b => atHead _ _ (by cases b <;> decide) rfl rfl rfl, by decide, by decide,
    ⟨atHeads _ _ (by decide) ⟨rfl, by decide⟩, by decide, by decide, by decide⟩, by decide, by decide, by decide, by decide, by decide,
    by decide⟩

/-- The first part of a copy each way, and its last. -/
theorem witness_EngineCommandsAct_parts : ∀ d : Bool, ∀ e ∈ [([], (0, 64)), ([(0, List.replicate 64 (1 : Byte))], (64, 64))],
    AtHead (commanding (copyCmd d e.1) 3) 0 3 (copyCmd d e.1) ∧
    ((copyCmd d e.1).started = false → cpyCheck (commanding (copyCmd d e.1) 3) 0 d (copyCmd d e.1) = none) ∧
    ((cpyParts 0 (copyCmd d e.1)).filter fun p => (SMap.find (copyCmd d e.1).parts p.1).isNone)[0]? = some e.2 := by
  intro d e he
  simp only [List.mem_cons, List.not_mem_nil, or_false] at he
  cases d <;> rcases he with rfl | rfl <;> exact ⟨atHead _ _ (by decide) rfl rfl rfl, by decide, by decide⟩

/-- A walk of one hop from vertex 0 in context 4095 of stack 3: to be configured, to start, and started, over the graph at 64. -/
def walkCfg : Cmd := command (.wlkCfg .none t1) 0x41 0x3FFF 9
def walkGo (on : Bool) : Cmd := { command (.wlkGo true .none t1) 0 7 9 with p := 0x13FFF, started := on }
def walkingOn (c : Cmd) (on : Bool) : State :=
  let s := mapped (running' [] (commanding c 9))
  let s := putHome (putHome (putHome s 0x200040 (leBytes 8 1024 ++ leBytes 8 2048 ++ [2])) 0x200400 [0, 0, 0, 0, 1]) 0x200800 [1]
  s.setWalk 16383 { cfg := 0x41, run := if on then some 3 else none }

theorem walk_outputs : okOf (walkRun (((walkingOn (walkGo true) true).by (engineSource 0 9)).task 3) 0 16383 (walkGo true)).2 =
    some [0, 1] := by decide +kernel

theorem witness_EngineCommandsAct_walks :
    ((cmdQueue (walkingOn walkCfg false) 0 9)[0]? = some walkCfg ∧ walkContext (walkingOn walkCfg false) 0 walkCfg.r = some 16383 ∧
      walkCfg.l.extractLsb' 48 16 = 0 ∧ walkCfg.l.extractLsb' 1 5 = 0 ∧ ((walkingOn walkCfg false).walk 16383).run = none) ∧
    (∀ on : Bool, (cmdQueue (walkingOn (walkGo on) on) 0 9)[0]? = some (walkGo on) ∧
      walkContext (walkingOn (walkGo on) on) 0 (walkGo on).p = some 16383 ∧
      ((walkingOn (walkGo on) on).walk 16383).run = if on then some 3 else none) ∧
    ∃ u, walkRun (((walkingOn (walkGo true) true).by (engineSource 0 9)).task (walkGo true).id) 0 16383 (walkGo true) = (u, .ok [0, 1]) :=
  ⟨by decide, by decide, _, snd_eq (eq_ok walk_outputs)⟩

/-- Requests on the bus: CPY.STAT, QFENCE with nothing before it and with an earlier MX.GATH; those of a handle in each state. -/
def onBus (i : Instr) (l : DWord) : Cmd := { command i l 0 0 with todo := [], started := isBufReq i }
def busy (i : Instr) (l : DWord) (qs : SMap (List Cmd)) (st : Nat) : State :=
  let s : State := { State.reset with now := 1 }
  (s.setField 0 { s.field 0 with bus := [onBus i l], queues := qs }).setBuf 0 255 (handle st)

theorem witness_EngineCommandsAct_bus :
    (∀ i ∈ [Instr.cpyStat true 3 .none t1, .cpyStat false 3 .none t1, .qfence .always .none t1],
      ((busy i 0x7FF [] 0).field 0).bus[0]? = some (onBus i 0x7FF) ∧ (onBus i 0x7FF).todo = []) ∧
    qfenceClear (busy (.qfence .always .none t1) 0x7FF [] 0) 0 (onBus (.qfence .always .none t1) 0x7FF) = true ∧
    qfenceClear (busy (.qfence .always .none t1) 0x7FF [(4, [{ gatherCmd with id := 2 }])] 0) 0 (onBus (.qfence .always .none t1) 0x7FF) = false ∧
    ∀ i ∈ [Instr.bufWait true 2 .none t1, .bufRel .none t1, .bufStat .none t1], ∀ st ∈ [0, 2, 3],
      ((busy i 255 [] st).field 0).bus.filter (fun d => d.started && isBufReq d.i) = [onBus i 255] ∧
      ((busy i 255 [] st).field 0).eosNow = [] ∧ ((busy i 255 [] st).buf 0 255).declared = true ∧
      ((busy i 255 [] st).buf 0 255).st = st := by decide

/-- BUF.WAIT of FULL takes a full handle, emits it as it was, and leaves it DRAINING (R192). -/
theorem test_buf_wait_takes : (let t := bufferEdge (busy (.bufWait true 2 .none t1) 255 [] 2) 0
    ((t.buf 0 255).st, (t.field 0).bus)) = (3, []) := by decide +kernel

/-- Channel 3 has begun a record at 64 that is software's, and one that is its own. -/
def copying (own : Byte) : State :=
  let c := { command (.cpyHead 3 .none t1) 64 0 8 with started := true }
  let s := putHome (mapped (running' [] (commanding c 8))) 0x200040 [own]
  s.setField 0 { s.field 0 with chans := SMap.put [] ⟨0, 0, 0, 0, none⟩ 3 ⟨64, 1, 0, 0, none⟩ }
def recordRead (own : Byte) : State × EngRead :=
  engRead (copying own) 0 0 (((copying own).field 0).chan 3).rcd.toNat 64 Need.engine true
def recordChecked : State × Except EngRead (List Run) :=
  engCheck (recordRead 1).1 0 0 (((copying 1).field 0).chan 3).rcd.toNat 64 Need.record true

theorem copy_software : bytesOf (recordRead 0).2 = some (bytes64 []) := by decide +kernel
theorem copy_device : bytesOf (recordRead 1).2 = some (bytes64 [1]) := by decide +kernel
theorem copy_checked : (okOf recordChecked.2).isSome = true := by decide +kernel

theorem witness_EngineCommandsAct_copy : ∃ c : Cmd,
    (∀ own : Byte, own = 0 ∨ own = 1 → (cmdQueue (copying own) 0 8)[0]? = some c ∧ c.started = true ∧ c.wh = none ∧
      (((copying own).field 0).chan 3).st = 1 ∧ (((copying own).field 0).chan 3).read = none) ∧
    (recordRead 0 = ((recordRead 0).1, .ok (bytes64 [])) ∧ (leNat ((bytes64 []).take 8)).testBit 0 = false) ∧
    recordRead 1 = ((recordRead 1).1, .ok (bytes64 [1])) ∧ (leNat ((bytes64 [1]).take 8)).testBit 0 = true ∧
    ∃ rs, recordChecked = (recordChecked.1, .ok rs) := by
  refine ⟨{ command (.cpyHead 3 .none t1) 64 0 8 with started := true }, ?_, ⟨snd_eq (eq_bytes copy_software), by decide⟩,
    snd_eq (eq_bytes copy_device), by decide, ?_⟩
  · rintro own (rfl | rfl) <;> decide
  · obtain ⟨rs, h⟩ := Option.isSome_iff_exists.mp copy_checked
    exact ⟨rs, snd_eq (eq_ok h)⟩

theorem witness_EngineCommandsAct_fill : (BitVec.ofNat 32 0xFFFFFFFF).toInt + (0 / (1 * 2 ^ 16 / 2 ^ 16 % 2 ^ 16) : Nat) < 0 := by
  decide

/-- Stream registers of 128 bits, z0 all ones of row 0, z1 one bit of row 1. -/
def lanesOf (v : Nat) : List Nat := List.replicate 16 v
def streaming (i : Instr) : State :=
  let s := commanding (command i 3 0 10) 10
  s.setField 0 { s.field 0 with zregs := [(0, ⟨lanesOf (2 ^ 64 - 1), 1, 0⟩), (1, ⟨lanesOf 1, 2, 0⟩), (2, ⟨lanesOf 1, 1, 1⟩)] }

theorem witness_StreamCommandsAct : ∀ i ∈ [Instr.slen 5 .none t1, .sand 31 0 1 t1, .sor 31 0 1 t1, .sxor 31 0 0 t1,
      .smin 31 0 0 t1, .smax 31 0 0 t1, .smux 31 31 31 t1, .snot 31 0 t1, .smov 31 0 t1, .sgen 31 .none t1, .sregen 31 0 15 t1,
      .sst 0 .none t1, .sld 0 .none t1, .smin 31 0 1 t1, .sor 31 0 2 t1],
    eligible (streaming i) 0 [] (cmdQueue (streaming i) 0 10) = some (command i 3 0 10) ∧ ((streaming i).slot 56).wh = none := by decide

/-- Equal tags, masks apart and equal; a tag that differs; lanes of their length; and a control token of SGEN's last group. -/
theorem witness_StreamCommandsAct_operands :
    let s := streaming .nop
    let z (k : BitVec 5) : ZReg := (s.field 0).zreg k
    (z 0).tag = (z 1).tag ∧ (z 0).mask &&& (z 1).mask = 0 ∧ (z 0).mask ≠ (z 1).mask ∧ (z 31).tag = (z 31).tag ∧
      (z 31).mask &&& ((z 31).mask ||| (z 31).mask) = 0 ∧ (z 0).tag ≠ (z 2).tag ∧ (z 0).tag.toNat ≤ 5 ∧ (z 0).lanes.length = 16 ∧
      (∀ i, i < 16 → lane s 0 1 i < 2 ^ lenOf (z 1).tag) ∧ (s.field 0).zlen.toNat ≤ 5 ∧ (0x3F : DWord).toNat / 16 % 4 = 3 ∧
      (64 : DWord).toNat % 32 = 0 ∧ (63 : DWord).toNat % 32 ≠ 0 := by decide

/-- SGEN's last group writes lanes 12 to 15, half of the bits of lane 15 at length 16, and adds its generator to the mask (R140). -/
theorem test_sgen_last_group :
    let s := streaming (.sgen 1 .none t1)
    let s := s.setField 0 { s.field 0 with queues := [(10, [command (.sgen 1 .none t1) 0x8000FFFF00000001 0x3F 10])] }
    (nextOf (exec (.msuCommandPerformed 0) s)).map (fun t => (((t.field 0).zreg 1).mask, (lane t 0 1 11, lane t 0 1 12),
      popCount 16 (lane t 0 1 14), popCount 16 (lane t 0 1 15))) = some (0x8002, (1, 0), 15, 8) := by decide +kernel

/-- An SLD whose access has read its last part. -/
def sliding : State :=
  let c := { command (.sld 31 .none t1) 0 1 10 with zlen := 0 }
  let s := State.reset.setField 0 { State.reset.field 0 with slds := [c] }
  s.setSlot 56 { s.slot 56 with accs := [{ access (.sld 31 .none t1) tileBase 8 0 with id := 3, parts := some [{ part tileBase 8 with done := true, bytes := List.replicate 8 5 }] }] }

theorem witness_StreamCommandsAct_load : ∃ (c : Cmd) (a : Access) (ps : List Part), (sliding.field 0).slds[0]? = some c ∧
    c.i = .sld 31 .none t1 ∧ (sliding.slot c.x).accs.find? (fun b => b.id == c.id) = some a ∧ a.parts = some ps ∧
    ∀ p ∈ ps, p.done = true :=
  ⟨{ command (.sld 31 .none t1) 0 1 10 with zlen := 0 }, _, _, by decide, rfl, rfl, rfl, by decide⟩

theorem witness_CountsOfStreams : ∀ i ∈ [Instr.scnt 0 .none t1, .scntA 0 .none t1, .scvt 0 .none t1], ∃ c : Cmd, c.i = i ∧
    eligible (streaming i) 0 [] (cmdQueue (streaming i) 0 10) = some c ∧ ((streaming i).slot c.x).wh = none ∧
    (((streaming i).field 0).zreg 0).lanes.length = 16 ∧ (((streaming i).field 0).zreg 0).tag.toNat ≤ 5 := by
  intro i hi
  refine ⟨command i 3 0 10, rfl, ?_⟩
  simp only [List.mem_cons, List.not_mem_nil, or_false] at hi
  rcases hi with rfl | rfl | rfl <;> decide

theorem test_scvt_full : (nextOf (exec (.msuCommandPerformed 0) (streaming (.scvt 0 .none t1)))).map (fun t =>
    (t.slot 56).outs.map OutE.toks) = some [] := by decide

/-- Bring-up at its last phase with every die synchronised; a flit due; a link; a free field; a leak due; a bucket one
short of its mark; a heartbeat overdue. -/
def synced : State := { (List.range 8).foldl (fun s d => s.setDie d { s.die d with synced := true }) State.reset with bootst := 4 }
def flitting : State := State.reset.setDie 7 { State.reset.die 7 with flitAt := some 0 }
def leaking : State :=
  State.reset.setDie 0 { State.reset.die 0 with synced := true, gcyc := 2099999, dramFill := [(3, 5)] }
def retrying : State := State.reset.setDie 7 { State.reset.die 7 with ghlFill := [(65535, 15)] }
def overdue : State := { State.reset.setCore 0 { State.reset.coreSt 0 with released := true } with now := 2100000 }

theorem witness_ModuleActs : synced.bootst = 4 ∧ (∀ d, d < 8 → (synced.die d).synced = true) ∧
    (synced.coreSt (2 * 3 + 1)).released = false ∧ (flitting.die 7).flitAt = some flitting.now ∧
    (∀ e, e < 7 → (flitting.die e).flitAt = none) ∧ (port linked 7 1).en = true := by decide

theorem witness_ModuleActs_leak : ∀ k, k < 3 → leakDue leaking 0 k = true ∧ leaking.fields.wf FieldSt.reset = true ∧
    (leaking.die 0).dramFill.wf 0 = true ∧ (leaking.die 0).ghlFill.wf 0 = true := by decide

theorem witness_ModuleActs_more : (∀ j, j < 64 → (State.reset.tile (64 * 2559 + j)).owner = none) ∧
    SMap.get (retrying.die 7).ghlFill 0 65535 + 1 = (SMap.get (retrying.die 7).leak LeakCfg.reset 1).mark ∧
    SMap.get (retrying.die 7).ghlFill 0 65535 < 65535 ∧ SMap.get (retrying.die 7).ghlFill 0 0 < 65535 ∧
    SMap.get (retrying.die 7).ghlFill 0 0 + 1 ≠ (SMap.get (retrying.die 7).leak LeakCfg.reset 1).mark ∧
    (retrying.quarter (leadOf retrying (quarterOfDie 7))).fbuf.length < 1024 ∧
    stamped retrying (predSource 7 1 65535).toNat = false ∧
    (overdue.quarter 0).hb.lapse = false ∧ (overdue.coreSt 0).released = true ∧
    (overdue.quarter 0).hb.last + (overdue.quarter 0).hb.period * 2100 ≤ overdue.now :=
  ⟨fun _ _ => rfl, by decide, by decide, by decide, by decide, by decide, by decide, by decide, by decide, by decide⟩

/-- Core 0 at a word, with x5 at an address. -/
def core (w : Word) (a : Nat) : State :=
  State.reset.setCore 0 { CoreSt.reset with
    imem := Memory.write [] 0x3FFFC (leBytes 4 w.toNat), released := true, pc := 0x3FFFC, xs := [(5, BitVec.ofNat 64 a)] }
theorem fetches (w : Word) (a : Nat) (h : coreInterrupted (core w a) 0 = false)
    (b : leNat (Memory.read ((core w a).coreSt 0).imem 0x3FFFC 4) = w.toNat) (l : w.toNat % 4 = 3) : Fetches (core w a) 0 w :=
  ⟨rfl, h, by show (0x3FFFC : DWord).toNat + 4 ≤ 0x40000; decide, b, l, rfl⟩

theorem witness_CoresAct_load : Fetches (core (iWord 0xFFF 5 3 6 3) 9) 0 (iWord 0xFFF 5 3 6 3) ∧
    coreLoad (core (iWord 0xFFF 5 3 6 3) 9) 0 8 8 .clean =
      .ok (stateOf State.reset (coreLoad (core (iWord 0xFFF 5 3 6 3) 9) 0 8 8 .clean)) 0 ∧
    Fetches (core (iWord 0 5 3 6 3) (2 ^ 43)) 0 (iWord 0 5 3 6 3) ∧ 2 ^ 43 < remoteBase ∧
    coreHome (core (iWord 0 5 3 6 3) (2 ^ 43)) 0 (2 ^ 43) 8 = false :=
  ⟨fetches _ _ (by decide) (by decide) (by decide), eq_core _ (by decide), fetches _ _ (by decide) (by decide) (by decide),
    by decide, by decide⟩

theorem witness_CoresAct_store : AsWritten (core (sWord 0xFF8 6 5 3) 16) ∧ Fetches (core (sWord 0xFF8 6 5 3) 16) 0 (sWord 0xFF8 6 5 3) ∧
    (((core (sWord 0xFF8 6 5 3) 16).coreSt 0).reg 5 + (0xFF8 : BitVec 12).signExtend 64).toNat = 8 ∧
    coreHome (core (sWord 0xFF8 6 5 3) 16) 0 8 8 = true ∧ anyBusy (core (sWord 0xFF8 6 5 3) 16) 8 8 = false ∧
    Fetches (core (sWord 0 6 5 3) (2 ^ 43)) 0 (sWord 0 6 5 3) ∧ coreHome (core (sWord 0 6 5 3) (2 ^ 43)) 0 (2 ^ 43) 8 = false :=
  ⟨⟨rfl, rfl⟩, fetches _ _ (by decide) (by decide) (by decide), by decide, by decide, by decide,
    fetches _ _ (by decide) (by decide) (by decide), by decide⟩

def interrupted : State :=
  let s := (core 0x13 0).setQuarter 0 { (core 0x13 0).quarter 0 with cintPend := 4, cintIe := 4 }
  s.setCore 0 { s.coreSt 0 with mie := 0x800, mstatus := 8 }
def beyond : State := (core 0x13 0).setCore 0 { (core 0x13 0).coreSt 0 with pc := 0x40000 }

theorem witness_CoresAct : (coreRuns interrupted 0 = true ∧ coreInterrupted interrupted 0 = true) ∧
    Fetches (core (iWord 0x800 5 0 6 0x13) 0) 0 (iWord 0x800 5 0 6 0x13) ∧ Fetches (core 0x73 0) 0 0x73 ∧
    Fetches (core 0x30200073 0) 0 0x30200073 ∧ coreRuns beyond 0 = true ∧ coreInterrupted beyond 0 = false ∧
    0x40000 ≤ (beyond.coreSt 0).pc.toNat :=
  ⟨⟨by decide, by decide⟩, fetches _ _ (by decide) (by decide) (by decide), fetches _ _ (by decide) (by decide) (by decide),
    fetches _ _ (by decide) (by decide) (by decide), by decide, by decide, by decide⟩

/-! ### Witnesses: the whole machine -/

theorem witness_StepRunsInstruction : ∃ (s u v : State) (x : Nat) (w : Word) (i j k : Instr),
    (s.agenda = .fire x :: [] ∧ cfgSlot (s.tile (tileOf x)).cfg (slotNo x) ≠ 0 ∧
      decodeFabric (cfgSlot (s.tile (tileOf x)).cfg (slotNo x)) = .ok i) ∧
    (u.agenda = .core 0 .clean .uncorrectable :: [] ∧ Fetches u 0 w ∧ decodeXpyraro w = some j ∧ isXpyraro w = true) ∧
    v.agenda = .event k :: [] ∧ encode k = none :=
  ⟨State.reset.withFetchWord 32 0x7B0000FF, { core 0x0005F00B 0 with agenda := [.core 0 .clean .uncorrectable] },
    { State.reset with agenda := [.event .heartbeatLapse] }, 56, 0x0005F00B, .nop, .xhbt 11, .heartbeatLapse,
    ⟨by decide, by decide, by rfl⟩,
    ⟨rfl, ⟨rfl, by decide, by decide, by decide, by decide, rfl⟩, by decide, by decide⟩, rfl, by decide⟩

theorem nop_placed : slotInstr (State.reset.withFetchWord 32 0x7B0000FF) 56 = some .nop := by decide

/-- The schedule is free, so the last clause is met by a state whose slot is the one it names. -/
theorem witness_StepRunsInstruction_free (n : Nat) (h : Config.schedule n = .fire 56) :
    ({ (State.reset.withFetchWord 32 0x7B0000FF) with turns := n, agenda := [] } : State).agenda = [] ∧
    Config.schedule ({ (State.reset.withFetchWord 32 0x7B0000FF) with turns := n, agenda := [] } : State).turns = .fire 56 ∧
    slotInstr { (State.reset.withFetchWord 32 0x7B0000FF) with turns := n, agenda := [] } 56 = some .nop :=
  ⟨rfl, h, nop_placed⟩

/-- An ADDI that fires; a KREAD of slot 1 behind one of slot 0 that can still fire in the cycle. -/
def adding : State := { State.reset.withFetchWord 32 0x06800A01 with agenda := [], foc := 0 }
def kreading : Word := ((encode (.kread .pass .none t1)).getD 0)
def counting : State :=
  let s := State.reset.withFetchWord 32 kreading.toNat
  { s.setTile 0 { s.tile 0 with cfg := (s.tile 0).cfg.set 2 kreading } with agenda := [.fire 1] }

theorem witness_StepRunsInstruction_fires : slotInstr adding 0 = some (.addi .word .always 5 (.latch false .l 1)) ∧
    heldBack adding 0 = false ∧ ∃ t, exec (.addi .word .always 5 (.latch false .l 1)) adding = .next t ∧
      (t.slot 0).fired ≠ (adding.slot 0).fired ∧ t.late = false ∧ tookHeld adding t 0 = false ∧ settled t 0 = true :=
  ⟨by decide, by decide, _, rfl, by decide +kernel, by decide +kernel, by decide +kernel, by decide +kernel⟩

theorem witness_StepRunsInstruction_order : ∃ u : State, u = { counting with agenda := [], foc := 1 } ∧
    counting.agenda = .fire 1 :: [] ∧ cfgSlot (counting.tile 0).cfg 1 ≠ 0 ∧
    decodeFabric (cfgSlot (counting.tile 0).cfg 1) = .ok (.kread .pass .none t1) ∧
    isCounterOp (.kread .pass .none t1) = true ∧ tileOf 0 = tileOf 1 ∧ counterSlot u 0 = true ∧ (counting.slot 0).fired ≠ counting.now + 1 ∧
    canFire u 0 = true ∧ counting.late = false :=
  ⟨_, rfl, rfl, by decide, by decide, by decide, by decide, by decide, by decide, by decide +kernel, by decide⟩

theorem witness_EncodeDecodes : wellFormed (.slen 5 .none (.port 15)) = true ∧
    encode (.slen 5 .none (.port 15)) = some 0xB015FEFC ∧ isCoreRow (.slen 5 .none (.port 15)) = false ∧
    encode (.xtake 31) = some 0x00000FAB ∧ isCoreRow (.xtake 31) = true := by decide

theorem witness_CanonicalKept : ∃ s t : State, Canonical s ∧ step s = .next t :=
  ⟨State.reset.withFetchWord 32 0x7B0000FF, _, by unfold Canonical; decide, rfl⟩

theorem witness_FusesStand : ∃ (s t : State), SMap.find s.keys 3 = some 7 ∧ step s = .next t :=
  ⟨{ State.reset with keys := [(3, 7)], agenda := [.event (.moduleReset .reset)] }, _, by decide, rfl⟩

theorem test_keys_stand : (nextOf (step { State.reset with keys := [(3, 7)], agenda := [.event (.moduleReset (.fuse 3 9))] })).map
    State.keys = some [(3, 7)] := by decide

/-- A descriptor at 64: message address, length, signature address, slot. -/
def descriptor (len sig : Nat) (slot : Byte) : List Byte := leBytes 8 0x1000 ++ leBytes 8 len ++ leBytes 8 sig ++ [slot]
def verifying (d sig : List Byte) : State :=
  let s := putHome (putHome (xready (.xsigVer 10 11) [(11, 64)]) 64 d) 0x2000 sig
  { s with keys := [(3, 5)] }
def described (d sig : List Byte) : State := stateOf (verifying d sig) (coreLoad (verifying d sig) 8 64 32 .clean)
def signed (d sig : List Byte) : State :=
  stateOf (described d sig) (coreLoad (described d sig) (described d sig).core 0x2000 2820 .clean)

theorem described_empty : valueOf (coreLoad (verifying (descriptor 0 0x2000 3) []) 8 64 32 .clean) =
    some (leNat (descriptor 0 0x2000 3)) := by decide +kernel
theorem described_far : valueOf (coreLoad (verifying (descriptor 4096 0x2000 3) [0xFF]) 8 64 32 .clean) =
    some (leNat (descriptor 4096 0x2000 3)) := by decide +kernel
theorem signed_empty : valueOf (coreLoad (described (descriptor 0 0x2000 3) []) (described (descriptor 0 0x2000 3) []).core 0x2000 2820
    .clean) = some 0 := by decide +kernel
theorem signed_far : valueOf (coreLoad (described (descriptor 4096 0x2000 3) [0xFF])
    (described (descriptor 4096 0x2000 3) [0xFF]).core 0x2000 2820 .clean) = some 0xFF := by decide +kernel

/-- A slot beyond the four; a length of 0 under key slot 3; an index beyond the tree; a message of 4,096 bytes. -/
theorem witness_SignatureAndCounters : Runs (verifying (descriptor 0 0x2000 3) []) ∧ (verifying (descriptor 0 0x2000 3) []).core = 8 ∧
    coreLoad (verifying (descriptor 0 0x2000 3) []) 8 64 32 .clean = .ok (described (descriptor 0 0x2000 3) []) (leNat (descriptor 0 0x2000 3)) ∧
    leNat ((leBytes 32 (leNat (descriptor 0 0x2000 3))).drop 25) = 0 ∧ SMap.find (described (descriptor 0 0x2000 3) []).keys 3 = some 5 ∧
    coreLoad (described (descriptor 0 0x2000 3) []) (described (descriptor 0 0x2000 3) []).core 0x2000 2820 .clean =
      .ok (signed (descriptor 0 0x2000 3) []) 0 ∧ sigIndex (leBytes 2820 0) < 2 ^ 20 :=
  ⟨⟨by decide +kernel, by decide +kernel⟩, by decide +kernel, eq_core _ described_empty, by decide +kernel, by decide +kernel, eq_core _ signed_empty, by decide +kernel⟩

theorem witness_SignatureAndCounters_slot : Runs (verifying (descriptor 0 0 4) []) ∧ (verifying (descriptor 0 0 4) []).core = 8 ∧
    coreLoad (verifying (descriptor 0 0 4) []) 8 64 32 .clean = .ok (described (descriptor 0 0 4) []) (leNat (descriptor 0 0 4)) ∧
    3 < leNat (((leBytes 32 (leNat (descriptor 0 0 4))).drop 24).take 1) :=
  ⟨⟨by decide +kernel, by decide +kernel⟩, by decide +kernel, eq_core _ (by decide +kernel), by decide +kernel⟩

theorem witness_SignatureAndCounters_index : Runs (verifying (descriptor 4096 0x2000 3) [0xFF]) ∧
    coreLoad (verifying (descriptor 4096 0x2000 3) [0xFF]) 8 64 32 .clean =
      .ok (described (descriptor 4096 0x2000 3) [0xFF]) (leNat (descriptor 4096 0x2000 3)) ∧
    coreLoad (described (descriptor 4096 0x2000 3) [0xFF]) (described (descriptor 4096 0x2000 3) [0xFF]).core 0x2000 2820 .clean =
      .ok (signed (descriptor 4096 0x2000 3) [0xFF]) 0xFF ∧ 2 ^ 20 ≤ sigIndex (leBytes 2820 0xFF) :=
  ⟨⟨by decide +kernel, by decide +kernel⟩, eq_core _ described_far, eq_core _ signed_far, by decide +kernel⟩

theorem message_read : valueOf (coreLoad (signed (descriptor 1 0x2000 3) []) 8 0x1000 1 .clean) = some 0 := by decide +kernel

theorem witness_SignatureAndCounters_message : Runs (verifying (descriptor 1 0x2000 3) []) ∧
    coreLoad (verifying (descriptor 1 0x2000 3) []) 8 64 32 .clean = .ok (described (descriptor 1 0x2000 3) []) (leNat (descriptor 1 0x2000 3)) ∧
    coreLoad (described (descriptor 1 0x2000 3) []) (described (descriptor 1 0x2000 3) []).core 0x2000 2820 .clean =
      .ok (signed (descriptor 1 0x2000 3) []) 0 ∧
    coreLoad (signed (descriptor 1 0x2000 3) []) 8 0x1000 1 .clean =
      .ok (stateOf State.reset (coreLoad (signed (descriptor 1 0x2000 3) []) 8 0x1000 1 .clean)) 0 :=
  ⟨⟨by decide +kernel, by decide +kernel⟩, eq_core _ (by decide +kernel), eq_core _ (by decide +kernel), eq_core _ message_read⟩

theorem witness_InvalidGivesNaN : (1 : Nat) ≠ 0 := by decide

/-! ### Published values of the sums the machine computes -/

/-- CRC-32C of the digits 1 to 9. -/
theorem test_crc32c : crc32c [0x31, 0x32, 0x33, 0x34, 0x35, 0x36, 0x37, 0x38, 0x39] = 0xE3069283 := by decide

/-- SHAKE256 of the empty message (FIPS 202). -/
theorem test_shake256 : (shake256 []).take 8 = [0x46, 0xB9, 0xDD, 0x2B, 0x0B, 0xA8, 0x8D, 0x13] := by decide

/-! ### Chains (R148, R155, R162): a producer that feeds two arms of one consumer, one of them deferred past its cycle -/

/-- Tile 0 runs an EAGER block of these slots, with these links. -/
def eagerBlock (ws : List (Nat × Instr)) (links : SMap Link) : State :=
  let s := State.reset.withFetchWord 32 0x06800A01
  let t := s.tile 0
  let cfg := (ws.foldl (fun c w => c.set (w.1 + 1) ((encode w.2).getD 0)) (t.cfg.set 1 0)).set 0 ((t.cfg.headD 0) ||| 0x200000)
  { s.setTile 0 { t with cfg := cfg } with links := links, agenda := [] }

def diamond : State :=
  eagerBlock [(0, .mul .word .always (.latch true .l 1) (.latch true .l 2)), (1, .mul .word .always (.latch true .l 3) .none),
      (2, .addi .word .always 6 (.latch true .r 3)), (3, .add .word .always (.latch false .l 4) .none)]
    [(0, queue [dat 7]), (1, queue [dat 3]), (4, queue [dat 2])]

/-- The producer and the arm in time run in cycle 0; the deferred arm and the consumer in cycle 1: 7 * 3 * 2 + (7 * 3 + 6). -/
theorem test_diamond_deferred :
    let a := fireTurn 2 (fireTurn 1 (fireTurn 0 diamond))
    let b := fireTurn 3 (fireTurn 1 { a with now := 1 })
    ((a.slot 0).fired, (a.slot 2).fired, (a.slot 3).fired, (b.slot 3).fired, (b.link 12).q.map fun e => (e.tok.data.toNat, e.cyc)) =
      (1, 1, 0, 2, [(69, 2)]) := by decide +kernel

/-- A miss asked ahead of need alone ends at the edge: the slice has the page, the queue is empty (R176 to R178). -/
theorem test_ahead_miss_ends :
    let s := tabled (ready (.ld .dword .always false false .none t1) [dat 64] [] [])
    let o := sliceOwner s 0 0
    let t := walksEdge (askAhead { s with now := 5 } o { tile := 0, port := 0, va := 64, need := Need.read }) o
    ((t.field o).walks, (sliceFind (t.field o) 0).isSome) = ([], true) := by decide +kernel

/-- A miss in a WIDE768 page fetches the four lines of the burst and counts once (R206, R209, R211, R344). -/
theorem test_wide_miss_counts_once :
    let s := { State.reset with tags := [(0, 2)] }
    let d := homeDie s 0
    let s := s.setDie d (modWindow (s.die d) 0 fun v => { v with en := true, limit := 1 })
    let t := l2Touch s 0 [0] false false
    let w := SMap.get (t.die d).retw RetwSt.reset 0
    (w.miss, w.hits, l2Has t 576 [3], l2Has t 768 [0]) = (1, 0, true, false) := by decide +kernel

end Sys2Proof.Tests
end

section

namespace Sys2Proof.Machine

/-! ### Sparse tables -/

namespace SMap

variable {α : Type}

/-- Of two writes to one key the second stands. -/
theorem insert_insert (n : Nat) (x y : α) : ∀ m : SMap α, insert (insert m n x) n y = insert m n y
  | [] => by simp [insert]
  | (k, v) :: m => by
    rcases lt_trichotomy n k with h | h | h
    · simp [insert, h]
    · simp [insert, h]
    · simp [insert, h.not_gt, h.ne', insert_insert n x y m]

theorem put_put [DecidableEq α] (m : SMap α) {d : α} (n : Nat) {x y : α} (hx : x ≠ d) (hy : y ≠ d) :
    put (put m d n x) d n y = put m d n y := by
  simp only [put, if_neg hx, if_neg hy, insert_insert]

theorem get_cons (k : Nat) (v : α) (m : SMap α) (d : α) (n : Nat) :
    get ((k, v) :: m) d n = if n = k then v else get m d n := by
  unfold get
  rw [find_cons]
  split <;> rfl

/-- A key below all those of a rising list is not listed. -/
theorem find_below {n : Nat} : ∀ {b : Nat} (m : SMap α), sortedFrom b m = true → n < b → find m n = none
  | _, [], _, _ => rfl
  | b, (k, v) :: m, hm, hn => by
    simp only [sortedFrom, Bool.and_eq_true, decide_eq_true_eq] at hm
    rw [find_cons, if_neg (by omega), find_below m hm.2 (by omega)]

theorem sortedFrom_of_wf [DecidableEq α] {d : α} {m : SMap α} (h : wf d m = true) : sortedFrom 0 m = true := by
  simp only [wf, Bool.and_eq_true] at h
  exact h.1

end SMap

/-! ### Updates of a die and of a quarter -/

@[simp] theorem modDie_same (s : State) (d : Nat) (f : DieSt → DieSt) : (modDie s d f).die d = f (s.die d) :=
  State.setDie_same s d _

theorem modDie_other (s : State) {d e : Nat} (f : DieSt → DieSt) (h : e ≠ d) : (modDie s d f).die e = s.die e :=
  State.setDie_other s _ h

@[simp] theorem modDie_field (s : State) (d : Nat) (f : DieSt → DieSt) (k : Nat) : (modDie s d f).field k = s.field k := rfl

/-! ### Leaks (R342) -/

/-- One drop leaves every bucket of a table. -/
theorem get_leakAll (n : Nat) : ∀ {b : Nat} (m : SMap Nat), SMap.sortedFrom b m = true →
    SMap.get (leakAll m) 0 n = SMap.get m 0 n - 1
  | _, [], _ => rfl
  | b, (k, v) :: m, hm => by
    simp only [SMap.sortedFrom, Bool.and_eq_true, decide_eq_true_eq] at hm
    have ih := get_leakAll n m hm.2
    have hc : leakAll ((k, v) :: m) = if v - 1 = 0 then leakAll m else (k, v - 1) :: leakAll m := by
      by_cases hv : v - 1 = 0 <;> simp [leakAll, hv]
    have hk : n = k → SMap.get m 0 n = 0 := fun h => by
      rw [SMap.get, SMap.find_below m hm.2 (by omega)]; rfl
    rw [hc, SMap.get_cons]
    split
    · rw [ih]
      split
      · rw [hk ‹_›]; omega
      · rfl
    · rw [SMap.get_cons, ih]
      split <;> rfl

/-- The leak of one field's bucket, where the field lies on die d. -/
def leakField (d : Nat) (s : State) (e : Nat × FieldSt) : State :=
  if e.1 / 320 = d then s.setField e.1 { s.field e.1 with fill := (s.field e.1).fill - 1 } else s

theorem leakField_die (d : Nat) (s : State) (e : Nat × FieldSt) (k : Nat) : (leakField d s e).die k = s.die k := by
  unfold leakField
  split <;> rfl

theorem leakField_fill (d : Nat) (s : State) (e : Nat × FieldSt) (f : Nat) :
    ((leakField d s e).field f).fill = (s.field f).fill - if e.1 / 320 = d ∧ f = e.1 then 1 else 0 := by
  unfold leakField
  by_cases hd : e.1 / 320 = d <;> by_cases hf : f = e.1
  · subst hf; simp [hd]
  · simp [hd, hf, State.setField_other _ _ hf]
  · simp [hd]
  · simp [hd]

/-- The fields of a rising list leak once each. -/
theorem fold_leakField_fill (d f : Nat) : ∀ {b : Nat} (es : SMap FieldSt) (s : State), SMap.sortedFrom b es = true →
    ((foldState (leakField d) s es).field f).fill =
      (s.field f).fill - if f / 320 = d ∧ (SMap.find es f).isSome then 1 else 0
  | _, [], s, _ => by simp [foldState]
  | b, (k, v) :: es, s, hs => by
    simp only [SMap.sortedFrom, Bool.and_eq_true, decide_eq_true_eq] at hs
    rw [foldState, fold_leakField_fill d f es _ hs.2, leakField_fill, SMap.find_cons]
    by_cases hf : f = k
    · subst hf
      simp [SMap.find_below es hs.2 (Nat.lt_succ_self f)]
    · simp [hf]

/-- A field that is not listed has an empty bucket: the leak of the listed fields is that of all. -/
theorem leakFields_fill (s u : State) (d f : Nat) (hu : u.field f = s.field f) (h : s.fields.wf FieldSt.reset = true) :
    ((foldState (leakField d) u s.fields).field f).fill = (s.field f).fill - if f / 320 = d then 1 else 0 := by
  rw [fold_leakField_fill d f _ _ (SMap.sortedFrom_of_wf h), hu]
  rcases hf : SMap.find s.fields f with _ | v
  · have h0 : (s.field f).fill = 0 := by simp [State.field, SMap.get, hf, FieldSt.reset]
    simp [h0]
  · simp

theorem leakFields_die (s : State) (d : Nat) (es : SMap FieldSt) (e : Nat) :
    (foldState (leakField d) s es).die e = s.die e :=
  foldState_ind (fun t => t.die e = s.die e) _ (fun _ _ h => (leakField_die _ _ _ _).trans h) es s rfl

/-- A leak that is due is noted in its die. -/
def noteTick (s : State) (d k : Nat) : State :=
  modDie s d fun v => { v with ticked := SMap.put v.ticked 0 k (s.now + 1) }

theorem exec_leakTick_dram {s : State} {d : Nat} (h : leakDue s d 0 = true) : exec (.leakTick d 0) s =
    .next (modDie (noteTick s d 0) d fun v => { v with dramFill := leakAll v.dramFill }) := by
  change Host.Outcome.next (ite _ _ _) = _
  rw [h]
  rfl

theorem exec_leakTick_ghl {s : State} {d : Nat} (h : leakDue s d 1 = true) : exec (.leakTick d 1) s =
    .next (modDie (noteTick s d 1) d fun v => { v with ghlFill := leakAll v.ghlFill }) := by
  change Host.Outcome.next (ite _ _ _) = _
  rw [h]
  rfl

theorem exec_leakTick_fields {s : State} {d : Nat} (h : leakDue s d 2 = true) : exec (.leakTick d 2) s =
    .next (foldState (leakField d) (noteTick s d 2) s.fields) := by
  change Host.Outcome.next (ite _ _ _) = _
  rw [h]
  rfl

@[simp] theorem noteTick_same (s : State) (d k : Nat) :
    (noteTick s d k).die d = { s.die d with ticked := SMap.put (s.die d).ticked 0 k (s.now + 1) } := modDie_same _ _ _

theorem noteTick_other (s : State) {d e : Nat} (k : Nat) (h : e ≠ d) : (noteTick s d k).die e = s.die e := modDie_other _ _ h

@[simp] theorem noteTick_field (s : State) (d k f : Nat) : (noteTick s d k).field f = s.field f := rfl

theorem leakTick_drains (s : State) (d k : Nat) (hk : k < 3) (hdue : leakDue s d k = true)
    (hf : s.fields.wf FieldSt.reset = true) (hdram : (s.die d).dramFill.wf 0 = true) (hghl : (s.die d).ghlFill.wf 0 = true) :
    ∃ t, exec (.leakTick d k) s = .next t ∧
      (∀ b, SMap.get (t.die d).dramFill 0 b = SMap.get (s.die d).dramFill 0 b - if k = 0 then 1 else 0) ∧
      (∀ b, SMap.get (t.die d).ghlFill 0 b = SMap.get (s.die d).ghlFill 0 b - if k = 1 then 1 else 0) ∧
      (∀ f, (t.field f).fill = (s.field f).fill - if k = 2 ∧ f / 320 = d then 1 else 0) ∧
      ∀ e, e ≠ d → t.die e = s.die e := by
  obtain rfl | rfl | rfl : k = 0 ∨ k = 1 ∨ k = 2 := by omega
  · refine ⟨_, exec_leakTick_dram hdue, fun b => ?_, fun b => ?_, fun f => ?_, fun e he => ?_⟩
    · simp [get_leakAll b _ (SMap.sortedFrom_of_wf hdram)]
    · simp
    · simp
    · rw [modDie_other _ _ he, noteTick_other _ _ he]
  · refine ⟨_, exec_leakTick_ghl hdue, fun b => ?_, fun b => ?_, fun f => ?_, fun e he => ?_⟩
    · simp
    · simp [get_leakAll b _ (SMap.sortedFrom_of_wf hghl)]
    · simp
    · rw [modDie_other _ _ he, noteTick_other _ _ he]
  · refine ⟨_, exec_leakTick_fields hdue, fun b => ?_, fun b => ?_, fun f => ?_, fun e he => ?_⟩
    · simp [leakFields_die]
    · simp [leakFields_die]
    · simp [leakFields_fill s (noteTick s d 2) d f rfl hf]
    · rw [leakFields_die, noteTick_other _ _ he]

end Sys2Proof.Machine
end

section

namespace Sys2Proof.Machine

/-! ### Module reset and the release of a core (R386, R389) -/

theorem exec_moduleReset_reset (s : State) :
    exec (.moduleReset .reset) s = .next { State.reset with turns := s.turns, keys := s.keys } := rfl

/-- A number of n bytes is the little-endian number of its bytes. -/
theorem leNat_leBytes : ∀ n v : Nat, v < 256 ^ n → leNat (leBytes n v) = v
  | 0, v, h => by simp at h; simp [leBytes, leNat, h]
  | n + 1, v, h => by
    have hv : v / 256 < 256 ^ n := by rw [pow_succ] at h; omega
    rw [leBytes, leNat, leNat_leBytes n _ hv, BitVec.toNat_ofNat]
    omega

theorem leBytes_length : ∀ n v : Nat, (leBytes n v).length = n
  | 0, _ => rfl
  | n + 1, v => congrArg (· + 1) (leBytes_length n (v / 256))

/-- What a listing written at address 0 reads as from address a on. -/
theorem Memory.read_write_zero (m : List Host.Cell) (bs : List Byte) : ∀ n a : Nat, a + n ≤ bs.length →
    Memory.read (Memory.write m 0 bs) a n = (bs.drop a).take n
  | 0, _, _ => by simp [Memory.read]
  | n + 1, a, h => by
    rw [Memory.read, Memory.read_write_zero m bs n (a + 1) (by omega), Memory.get_write, if_pos ⟨Nat.zero_le a, by omega⟩,
      List.drop_eq_getElem_cons (by omega : a < bs.length), List.take_succ_cons, Nat.sub_zero, List.getElem?_eq_getElem]
    rfl

/-- The bytes of a program's words: those of word n stand at 4 n. -/
def listing (words : List Word) : List Byte := words.flatMap fun w => leBytes 4 w.toNat

theorem listing_length (words : List Word) : (listing words).length = 4 * words.length := by
  simp [listing, List.length_flatMap, leBytes_length, mul_comm]

theorem listing_word : ∀ (words : List Word) (n : Nat) (h : n < words.length),
    ((listing words).drop (4 * n)).take 4 = leBytes 4 (words[n]).toNat
  | w :: ws, 0, _ => by
    simpa [listing] using List.take_left' (l₂ := listing ws) (leBytes_length 4 w.toNat)
  | w :: ws, n + 1, h => by
    have hd : (listing (w :: ws)).drop (4 * (n + 1)) = (listing ws).drop (4 * n) := by
      rw [show 4 * (n + 1) = 4 + 4 * n by omega, ← List.drop_drop]
      exact congrArg _ (List.drop_left' (l₂ := listing ws) (leBytes_length 4 w.toNat))
    rw [hd, List.getElem_cons_succ]
    exact listing_word ws n (by simpa using h)

/-- Instruction memory of a released core holds the first 65,536 words of its listing. -/
theorem releasedCore_word (words : List Word) (n : Nat) (hn : n < words.length) (hm : n < 65536) :
    leNat (Memory.read (releasedCore words).imem (4 * n) 4) = ((words[n]?).getD 0).toNat := by
  have hl := listing_length words
  change leNat (Memory.read (Memory.write [] 0 ((listing words).take 0x40000)) (4 * n) 4) = _
  rw [Memory.read_write_zero _ _ _ _ (by rw [List.length_take, hl]; omega), List.drop_take, List.take_take,
    min_eq_left (by omega), listing_word words n hn, leNat_leBytes _ _ (by omega), List.getElem?_eq_getElem hn]
  rfl

/-- A release is taken where bring-up has come to the cores, every die is synchronised and the core is not yet released. -/
theorem bringUp_release (s : State) (q core : Nat) (words : List Word) (hq : q < 4) (hc : core < 2)
    (hb : s.bootst = 4 ∨ s.bootst = 5) (hd : ∀ d, d < 8 → (s.die d).synced = true)
    (hr : (s.coreSt (2 * q + core)).released = false) :
    bringUp s (.release q core words) =
      let u := (bootNote s 5 0).setCore (2 * q + core) (releasedCore words)
      if core = 0 then modQuarter u q fun a => { a with hb := { a.hb with last := u.now } } else u := by
  have h1 : (bootAt s 4 || bootAt s 5) = true := by
    rcases hb with hb | hb <;> simp [bootAt, bootPhase, bootFail, bitsOf, hb]
  have h2 : allSynced s = true := by simpa [allSynced] using hd
  rw [bringUp]
  simp only [h1, h2, hr, hq, hc]
  rfl

theorem moduleReset_release (s : State) (q core : Nat) (words : List Word) (hq : q < 4) (hc : core < 2)
    (hb : s.bootst = 4 ∨ s.bootst = 5) (hd : ∀ d, d < 8 → (s.die d).synced = true)
    (hr : (s.coreSt (2 * q + core)).released = false) :
    ∃ t, exec (.moduleReset (.release q core words)) s = .next t ∧ t.bootst = 5 ∧
      t.coreSt (2 * q + core) = releasedCore words := by
  refine ⟨_, congrArg Host.Outcome.next (bringUp_release s q core words hq hc hb hd hr), ?_⟩
  dsimp only
  split
  · exact ⟨rfl, State.setCore_same _ _ _⟩
  · exact ⟨rfl, State.setCore_same _ _ _⟩

/-! ### The synchronisation flit (R387) -/

theorem exec_gcycSyncFlit (s : State) (d : Nat) (hd : d < 8) (hat : (s.die d).flitAt = some s.now)
    (hbefore : ∀ e, e < d → (s.die e).flitAt = none) :
    exec .gcycSyncFlit s = .next (s.setDie d { s.die d with
      gcyc := BitVec.ofNat 64 (40 * dieHops 0 d), synced := true, flitAt := none }) := by
  have hf : (List.range 8).find? (flitDue s) = some d := by
    rw [List.find?_range_eq_some]
    refine ⟨by simp [flitDue, hat], by simpa using hd, fun e he => ?_⟩
    simp [flitDue, hbefore e he]
  change execGcycSyncFlit s = _
  rw [execGcycSyncFlit, hf]
  rfl

/-! ### Ports and voltage classes (R20, R383) -/

theorem exec_ueLinkTraining (s : State) (d k : Nat) (lanes : BitVec 8) (hd : d < 8) (hk : k < 2)
    (hen : (uePort s d k).en = true) :
    exec (.ueLinkTraining d k lanes) s = .next (s.setDie d { s.die d with
      ue := SMap.put (s.die d).ue UeSt.reset k { uePort s d k with lanes := lanes, up := decide (lanes = 0xFF) } }) :=
  congrArg Host.Outcome.next (if_pos ⟨hd, hk, hen⟩)

theorem exec_uncorrectableCodeword (s : State) (d k : Nat) (hd : d < 8) (hk : k < 2) :
    exec (.uncorrectableCodeword d k) s = .next (s.setDie d { s.die d with
      ue := SMap.put (s.die d).ue UeSt.reset k { uePort s d k with fecu := (uePort s d k).fecu + 1 } }) :=
  congrArg Host.Outcome.next (if_pos ⟨hd, hk⟩)

theorem exec_voltageClassChange (s : State) (f : Nat) (c : VClass) (hf : f < 2560)
    (hfree : ∀ j, j < 64 → (s.tile (64 * f + j)).owner = none) :
    exec (.voltageClassChange f c) s = .next (s.setField f { s.field f with vclass := c }) := by
  refine congrArg Host.Outcome.next (if_neg ?_)
  rintro (h | h)
  · omega
  · obtain ⟨j, hj, ho⟩ := List.any_eq_true.mp h
    simp [hfree j (List.mem_range.mp hj)] at ho

/-! ### A heartbeat lapses (R377) -/

/-- A lapse writes the quarter once. -/
theorem lapse_eq (s : State) (q : Nat) : lapse s q = s.setQuarter q { s.quarter q with
    hb := { (s.quarter q).hb with lapse := true, hold := true }, cintPend := (s.quarter q).cintPend ||| 8 } := by
  have hne : ∀ v : QuarterSt, v.hb.lapse = true → v ≠ QuarterSt.reset q := fun v hv h => by
    subst h; exact Bool.false_ne_true hv
  unfold lapse raiseCint modQuarter
  rw [State.setQuarter_same]
  unfold State.setQuarter
  dsimp only
  rw [SMap.put_put _ _ (hne _ rfl) (hne _ rfl)]
  rfl

theorem exec_heartbeatLapse (s : State) (q : Nat) (hq : q < 4) (hl : (s.quarter q).hb.lapse = false)
    (hr : (s.coreSt (2 * q)).released = true) (hdue : (s.quarter q).hb.last + (s.quarter q).hb.period * 2100 ≤ s.now)
    (hbefore : ∀ p, p < q → (s.quarter p).hb.lapse = true ∨ (s.coreSt (2 * p)).released = false) :
    exec .heartbeatLapse s = .next (lapse s q) := by
  have hf : (List.range 4).find? (lapseDue s) = some q := by
    rw [List.find?_range_eq_some]
    refine ⟨by simp [lapseDue, hl, hr, Config.usCycles, hdue], by simpa using hq, fun p hp => ?_⟩
    rcases hbefore p hp with h | h <;> simp [lapseDue, h]
  change execHeartbeatLapse s = _
  rw [execHeartbeatLapse, show [0, 1, 2, 3] = List.range 4 from rfl, hf]

/-! ### A retried flit (R341, R342) -/

/-- A record that finds room enters FBUF, with CINT.FLT, and CINT.PRED for a PRED-FAIL. -/
theorem postRec_predFail (s : State) (q : Nat) (r : FRec) (hr : r.code = codePredFail)
    (hroom : (s.quarter q).fbuf.length < 1024) :
    ((postRec s q r).quarter q).fbuf = insertNew s.now (postedRec s q r) (s.quarter q).fbuf ∧
      ((postRec s q r).quarter q).cintPend.getLsbD 2 = true ∧ ((postRec s q r).quarter q).cintPend.getLsbD 4 = true := by
  have hl : (insertNew s.now (postedRec s q r) (s.quarter q).fbuf).length ≤ 1024 := by
    rw [insertNew_length]; omega
  refine ⟨(postRec_room s q r hl).1, ?_⟩
  unfold postRec
  have hc : (postedRec s q r).code = codePredFail := hr
  simp only [markStamp_now, markAt_now, List.drop_eq_nil_of_le hl, enterFbuf, if_pos hc, raiseCint, State.setQuarter_same]
  constructor <;> simp

theorem postRec_dies (s : State) (q : Nat) (r : FRec) : (postRec s q r).dies = s.dies := by
  have he : ∀ (u : State) (a : FRec), (enterFbuf u q a).dies = u.dies := fun u a => by
    unfold enterFbuf; dsimp only; split <;> rfl
  unfold postRec
  dsimp only
  split
  · rw [he]; simp
  · split
    · simp
    · rw [he]; simp

theorem predFail_dies (s : State) (d kind index fill : Nat) : (predFail s d kind index fill).dies = s.dies := by
  unfold predFail postSoon
  split
  · rfl
  · exact postRec_dies _ _ _

/-- A die's bucket of lane k of its GHL interfaces with one more, and EVT 8 counted. -/
def ghlCounted (s : State) (d k : Nat) : State :=
  pmcCount (s.setDie d { s.die d with
    ghlFill := SMap.put (s.die d).ghlFill 0 k (SMap.get (s.die d).ghlFill 0 k + 1) }) d 8 1

@[simp] theorem ghlCounted_fill (s : State) (d k : Nat) :
    SMap.get ((ghlCounted s d k).die d).ghlFill 0 k = SMap.get (s.die d).ghlFill 0 k + 1 := by
  simp [ghlCounted, pmcCount]

@[simp] theorem ghlCounted_leak (s : State) (d k : Nat) : ((ghlCounted s d k).die d).leak = (s.die d).leak := by
  simp [ghlCounted, pmcCount]

/-- A lane's bucket that is not full takes one more; as it comes to MARK, PRED-FAIL is raised. -/
theorem bucketAdd_ghl (s : State) (d k : Nat) (hfull : SMap.get (s.die d).ghlFill 0 k < 65535) :
    bucketAdd s d 1 k = if SMap.get (s.die d).ghlFill 0 k + 1 = (leakOf s d 1).mark
      then predFail (ghlCounted s d k) d 1 k (SMap.get (s.die d).ghlFill 0 k + 1) else ghlCounted s d k := by
  have hsat : satInc (SMap.get (s.die d).ghlFill 0 k) 0xFFFF 1 = SMap.get (s.die d).ghlFill 0 k + 1 := by
    unfold satInc; rw [if_pos (by omega)]
  have hbucket : bucketAdd s d 1 k =
      if SMap.get (s.die d).ghlFill 0 k < (leakOf (ghlCounted s d k) d 1).mark ∧
          (leakOf (ghlCounted s d k) d 1).mark ≤ SMap.get (s.die d).ghlFill 0 k + 1
        then predFail (ghlCounted s d k) d 1 k (SMap.get (s.die d).ghlFill 0 k + 1) else ghlCounted s d k := by
    unfold bucketAdd ghlCounted
    simp only [if_neg one_ne_zero, if_true, hsat]
  have hmark : leakOf (ghlCounted s d k) d 1 = leakOf s d 1 := by simp [leakOf]
  rw [hbucket, hmark]
  exact if_congr (by omega) rfl rfl

theorem exec_ghlFlitRetry (s : State) (d k : Nat) (hd : d < 8) (hk : k < 65536) :
    exec (.ghlFlitRetry d k) s = .next (bucketAdd s d 1 k) :=
  congrArg Host.Outcome.next (if_pos ⟨hd, hk⟩)

/-- PRED-FAIL of a lane of die d is posted now where its source has recorded no event in this cycle. -/
theorem predFail_posts (s : State) (d kind index fill : Nat) (hfree : stamped s (predSource d kind index).toNat = false)
    (hroom : (s.quarter (leadOf s (quarterOfDie d))).fbuf.length < 1024) :
    let q := leadOf s (quarterOfDie d)
    let t := predFail s d kind index fill
    ∃ r, (t.quarter q).fbuf = insertNew s.now r (s.quarter q).fbuf ∧ r.code = codePredFail ∧ r.kind = 1 ∧
      r.detail = BitVec.ofNat 64 (kind * 2 ^ 62 + fill * 2 ^ 16 + index) ∧
      (t.quarter q).cintPend.getLsbD 2 = true ∧ (t.quarter q).cintPend.getLsbD 4 = true := by
  dsimp only
  unfold predFail postSoon
  rw [hfree, if_neg Bool.false_ne_true]
  exact ⟨_, (postRec_predFail _ _ _ (by rfl) hroom).1, rfl, rfl, rfl, (postRec_predFail _ _ _ (by rfl) hroom).2⟩

/-- What a retry of lane k of die d comes to. -/
theorem ghlFlitRetry_counts (s : State) (d k : Nat) (hd : d < 8) (hk : k < 65536)
    (hfull : SMap.get (s.die d).ghlFill 0 k < 65535) :
    let fill := SMap.get (s.die d).ghlFill 0 k
    let mark := (leakOf s d 1).mark
    let q := leadOf s (quarterOfDie d)
    ∃ t, exec (.ghlFlitRetry d k) s = .next t ∧ SMap.get (t.die d).ghlFill 0 k = fill + 1 ∧
      (fill + 1 ≠ mark → t.quarters = s.quarters) ∧
      (fill + 1 = mark → (s.quarter q).fbuf.length < 1024 → stamped s (predSource d 1 k).toNat = false →
        ∃ r, (t.quarter q).fbuf = insertNew s.now r (s.quarter q).fbuf ∧ r.code = 0x50 ∧ r.kind = 1 ∧
          r.detail = BitVec.ofNat 64 (2 ^ 62 + (fill + 1) * 2 ^ 16 + k) ∧
          (t.quarter q).cintPend.getLsbD 2 = true ∧ (t.quarter q).cintPend.getLsbD 4 = true) := by
  intro fill mark q
  refine ⟨_, exec_ghlFlitRetry s d k hd hk, ?_⟩
  rw [bucketAdd_ghl s d k hfull]
  by_cases hm : fill + 1 = mark
  · rw [if_pos hm]
    refine ⟨?_, fun h => absurd hm h, fun _ hroom hfree => ?_⟩
    · rw [State.die, predFail_dies]
      exact ghlCounted_fill s d k
    · obtain ⟨r, hbuf, hcode, hkind, hdetail, hcint⟩ := predFail_posts (ghlCounted s d k) d 1 k (fill + 1) hfree hroom
      exact ⟨r, hbuf, hcode, hkind, by rw [hdetail, one_mul], hcint⟩
  · rw [if_neg hm]
    exact ⟨ghlCounted_fill s d k, fun _ => rfl, fun h => absurd h hm⟩

end Sys2Proof.Machine

open Sys2Proof Sys2Proof.Machine Sys2Proof.Claims

/-- Settles O53: reset, release, flit, ports, class, leak, retry and lapse, each by the equation of its row. -/
theorem moduleActs : Obligations.ModuleActs := by
  unfold Obligations.ModuleActs
  refine ⟨exec_moduleReset_reset, ?release, exec_gcycSyncFlit, ?port, exec_voltageClassChange, ?leak, ghlFlitRetry_counts, ?lapse⟩
  case release =>
    intro s q core words hq hc hb hd hr
    obtain ⟨t, ht, hboot, hcore⟩ := moduleReset_release s q core words hq hc hb hd hr
    refine ⟨t, ht, hboot, ?_⟩
    rw [hcore]
    exact ⟨rfl, rfl, fun r => ite_self _, rfl, rfl, rfl, (by decide : BitVec.getLsbD (0x1800 : DWord) 3 = false),
      releasedCore_word words⟩
  case port =>
    exact fun s d k hd hk => ⟨fun lanes => exec_ueLinkTraining s d k lanes hd hk, exec_uncorrectableCodeword s d k hd hk⟩
  case leak =>
    exact fun s d k _ => leakTick_drains s d k
  case lapse =>
    intro s q hq hl hr hdue hbefore
    rw [exec_heartbeatLapse s q hq hl hr hdue hbefore, lapse_eq]

end

section

namespace Sys2Proof.Machine

/-! ### Writes in register space (R26, R312) -/

/-- The row of the opcode table that a 64-bit write of a register is, if it is one. -/
def ownRow (v : DWord) : RegName → Option Instr
  | .lqc q n => some (.lqcWrite q n v)
  | .crp q => some (.crpWrite q v)
  | .jnp q => some (.jnpWrite q v)
  | .retw d k r => if r = 2 then some (.retwControlWrite d k v) else none
  | .layc d => if v.getLsbD 0 then some (.laycGo d v) else none
  | _ => none

/-- A 64-bit write of a register that this quarter keeps becomes the next turn, or takes place. -/
theorem regStore_kept {s : State} {pa : Nat} {v : DWord} {a : RegName} (ha : regAt (pa / 8 * 8) = a)
    (hl : ∀ q, leadOnly a = some q → leadOf s q = q) :
    regStore s pa 8 v = ((ownRow v a).map s.due).getD (regPut s v a) := by
  unfold regStore regForm
  rw [ha]
  cases a
  case retw d k r => by_cases hr : r = 2 <;> simp [ownRow, leadOnly, hr]
  case layc d => by_cases hv : v.getLsbD 0 = true <;> simp_all [ownRow, leadOnly]
  all_goals simp_all [ownRow, leadOnly]

/-- A write of a register that another quarter keeps has no effect. -/
theorem regStore_elsewhere {s : State} {pa q : Nat} {v : DWord} {a : RegName} (ha : regAt (pa / 8 * 8) = a)
    (hq : leadOnly a = some q) (hl : leadOf s q ≠ q) : regStore s pa 8 v = s := by
  unfold regStore
  rw [ha]
  simp [hq, hl]

theorem regAt_quarterUnit {q o : Nat} (hq : q < 4) (ho : o < 2 ^ 32) (h8 : o % 8 = 0) :
    regAt (Claims.quarterUnit q o / 8 * 8) = quarterReg q o := by
  have h : Claims.quarterUnit q o / 8 * 8 = Claims.quarterUnit q o := by unfold Claims.quarterUnit; omega
  have hu : regUnit (Claims.quarterUnit q o) = 0x10 + q := by unfold regUnit Claims.quarterUnit; omega
  have hm : Claims.quarterUnit q o % 2 ^ 32 = o := by unfold Claims.quarterUnit; omega
  unfold regAt
  simp (disch := omega) only [h, hu, hm, if_neg, if_pos, Nat.add_sub_cancel_left]

theorem regAt_dieUnit {d o : Nat} (hd : d < 8) (ho : o < 2 ^ 32) (h8 : o % 8 = 0) :
    regAt (Claims.dieUnit d o / 8 * 8) = dieReg d o := by
  have h : Claims.dieUnit d o / 8 * 8 = Claims.dieUnit d o := by unfold Claims.dieUnit; omega
  have hu : regUnit (Claims.dieUnit d o) = d := by unfold regUnit Claims.dieUnit; omega
  have hm : Claims.dieUnit d o % 2 ^ 32 = o := by unfold Claims.dieUnit; omega
  unfold regAt
  simp (disch := omega) only [h, hu, hm, if_pos]

theorem quarterReg_lqc {q n : Nat} (hn : n < 64) : quarterReg q (0x1008 + 0x20 * n) = .lqc q n := by
  have hr : (0x1008 + 0x20 * n) % 0x20 = 8 := by omega
  have hk : (0x1008 + 0x20 * n - 0x1000) / 0x20 = n := by omega
  unfold quarterReg
  simp (disch := omega) only [hr, hk, if_neg, if_pos, if_true]

theorem dieReg_retwControl {d k : Nat} (hk : k < 8) : dieReg d (0x100010 + 0x20 * k) = .retw d k 2 := by
  have hr : (0x100010 + 0x20 * k) % 0x20 = 0x10 := by omega
  have hw : (0x100010 + 0x20 * k - 0x100000) / 0x20 = k := by omega
  unfold dieReg
  simp (disch := omega) only [hr, hw, if_neg, if_pos]

/-- A 64-bit write of a register of quarter q's unit that q keeps. -/
theorem write_quarterUnit {s : State} {q o : Nat} {a : RegName} (v : DWord) (hq : q < 4) (ho : o < 2 ^ 32 ∧ o % 8 = 0)
    (ha : quarterReg q o = a) (hl : ∀ r, leadOnly a = some r → leadOf s r = r) :
    exec (.registerWrite (Claims.quarterUnit q o) 8 v) s = .next (((ownRow v a).map s.due).getD (regPut s v a)) :=
  congrArg Host.Outcome.next (regStore_kept ((regAt_quarterUnit hq ho.1 ho.2).trans ha) hl)

theorem write_quarterUnit_elsewhere {s : State} {q o : Nat} (v : DWord) (hq : q < 4) (ho : o < 2 ^ 32 ∧ o % 8 = 0)
    (hr : leadOnly (quarterReg q o) = some q) (hl : leadOf s q ≠ q) :
    exec (.registerWrite (Claims.quarterUnit q o) 8 v) s = .next s :=
  congrArg Host.Outcome.next (regStore_elsewhere (regAt_quarterUnit hq ho.1 ho.2) hr hl)

/-- A 64-bit write of a register of die d's unit. -/
theorem write_dieUnit {s : State} {d o : Nat} {a : RegName} (v : DWord) (hd : d < 8) (ho : o < 2 ^ 32 ∧ o % 8 = 0)
    (ha : dieReg d o = a) (hl : leadOnly a = none) :
    exec (.registerWrite (Claims.dieUnit d o) 8 v) s = .next (((ownRow v a).map s.due).getD (regPut s v a)) :=
  congrArg Host.Outcome.next (regStore_kept ((regAt_dieUnit hd ho.1 ho.2).trans ha) fun q hq => by rw [hl] at hq; cases hq)

/-! ### What the values written become (R181, R312, R359, R376) -/

theorem bitsOf_zero (v len : Nat) : bitsOf v 0 len = v % 2 ^ len := by
  unfold bitsOf
  rw [pow_zero, Nat.div_one]

/-- A write of TLIM is clamped to 10 and 100,000 microseconds. -/
theorem regPut_tlim (s : State) (q : Nat) (v : DWord) : regPut s v (.tlim q) =
    s.setQuarter q { s.quarter q with tlim := max 10 (min (v.toNat % 2 ^ 17) 100000) } := by
  have h : (if v.toNat % 2 ^ 17 < 10 then 10 else Nat.min (v.toNat % 2 ^ 17) 100000) =
      max 10 (min (v.toNat % 2 ^ 17) 100000) := by
    change ite _ _ (min _ _) = _
    split <;> omega
  simp only [regPut, modQuarter, bitsOf_zero, h]

theorem regPut_wdog (s : State) (q : Nat) (v : DWord) : regPut s v (.wdog q) =
    s.setQuarter q { s.quarter q with
      wdog := if v.toNat % 2 ^ 24 = 0 then 0 else max (v.toNat % 2 ^ 24) 100 } := by
  simp only [regPut, modQuarter, bitsOf_zero]

theorem regPut_hbtc (s : State) (q : Nat) (v : DWord) : regPut s v (.hbtc q) =
    s.setQuarter q { s.quarter q with hb := { (s.quarter q).hb with period := max (v.toNat % 2 ^ 32) 10 } } := by
  simp only [regPut, modQuarter, bitsOf_zero]

/-- A write of CRP or JNP as the claim puts it: a HEAD within the ring and not beyond TAIL. -/
theorem RingSt.write_eq (r : RingSt) (v : DWord) : r.write v = Claims.ringWritten r v := by
  unfold RingSt.write Claims.ringWritten ringUsed
  dsimp only
  by_cases h : r.en = false ∧ v.getLsbD 63 = true
  · simp [h]
  · have hb : ¬(v.getLsbD 63 && !r.en) = true := by simpa [and_comm] using h
    rw [if_neg hb, if_neg h, ← ite_not]
    exact if_congr (by push Not; omega) rfl rfl

/-! ### The rows of launch queues and rings (R312, R319) -/

@[simp] theorem modQuarter_same (s : State) (q : Nat) (f : QuarterSt → QuarterSt) :
    (modQuarter s q f).quarter q = f (s.quarter q) := State.setQuarter_same s q _

/-- A change of a quarter that leaves its partition leaves every lead. -/
theorem leadOf_modQuarter (s : State) (q k : Nat) (f : QuarterSt → QuarterSt) (hf : (f (s.quarter q)).active = (s.quarter q).active) :
    leadOf (modQuarter s q f) k = leadOf s k := by
  have hp : ∀ r, partOf (modQuarter s q f) r = partOf s r := fun r => by
    by_cases hr : r = q
    · subst hr; simp [partOf, hf]
    · simp only [partOf, modQuarter, State.setQuarter_other _ _ hr]
  simp only [leadOf, partQuarters, samePart, hp]

/-- Wanting a pass changes no launch queue. -/
@[simp] theorem wantPass_lq (s : State) (q k n : Nat) : (wantPass s q).lq k n = s.lq k n := by
  by_cases hk : k = leadOf s q
  · subst hk; simp [State.lq, wantPass]
  · simp only [State.lq, wantPass, State.setQuarter_other _ _ hk]

@[simp] theorem wantPass_pass (s : State) (q : Nat) : ((wantPass s q).quarter (leadOf s q)).pass.isSome = true := by
  simp [wantPass]

/-- A write of LQC leaves the queue as LqSt.writeC says. -/
theorem lqcPut_lq (s : State) (q n : Nat) (v : DWord) : (lqcPut s q n v).lq q n = (s.lq q n).writeC v := by
  have h : (modQuarter s q fun a =>
      { a with lqs := SMap.put a.lqs LqSt.reset n ((s.lq q n).writeC v) }).lq q n = (s.lq q n).writeC v := by simp [State.lq]
  unfold lqcPut
  dsimp only
  split
  · exact (wantPass_lq _ _ _ _).trans h
  · exact h

/-- Enabling a launch queue wants a pass of its partition. -/
theorem lqcPut_pass (s : State) (q n : Nat) (v : DWord) (hoff : (s.lq q n).en = false) (hon : v.getLsbD 31 = true) :
    ((lqcPut s q n v).quarter (leadOf s q)).pass.isSome = true := by
  have hc : (v.getLsbD 31 && !(SMap.get (s.quarter q).lqs LqSt.reset n).en) = true := by
    rw [hon]; exact congrArg (!·) hoff
  unfold lqcPut
  rw [if_pos hc]
  have h := wantPass_pass (modQuarter s q fun a => { a with
    lqs := SMap.put a.lqs LqSt.reset n ((SMap.get (s.quarter q).lqs LqSt.reset n).writeC v) }) q
  rwa [leadOf_modQuarter _ _ _ _ rfl] at h

/-- A queue that is enabled is empty; NENT takes what is written. -/
theorem LqSt.writeC_enables {l : LqSt} {v : DWord} (hoff : l.en = false) (hon : v.getLsbD 31 = true) :
    l.writeC v = { l with
      en := true, nent := v.extractLsb' 0 12, head := 0, tail := 0, hpri := 0, blk := false, byp := 0, stamps := [] } := by
  simp [LqSt.writeC, hoff, hon]

/-- Any other write changes EN, and NENT of a queue that is off. -/
theorem LqSt.writeC_other {l : LqSt} {v : DWord} (h : l.en = true ∨ v.getLsbD 31 = false) :
    l.writeC v = { l with en := v.getLsbD 31, nent := if l.en then l.nent else v.extractLsb' 0 12 } := by
  have hb : ¬(v.getLsbD 31 && !l.en) = true := by
    rcases h with h | h <;> rw [h] <;> simp
  exact if_neg hb

theorem LqSt.used_empty (l : LqSt) (hh : l.head = 0) (ht : l.tail = 0) : l.used = 0 := by
  simp [LqSt.used, ringUsed, hh, ht]

theorem lqcWrite_writes (s : State) (q n : Nat) (v : DWord) :
    let l := s.lq q n
    ∃ t, exec (.lqcWrite q n v) s = .next t ∧
      let l' := t.lq q n
      l'.en = v.getLsbD 31 ∧ l'.base = l.base ∧ l'.nent = (if l.en then l.nent else v.extractLsb' 0 12) ∧
        (l.en = false → v.getLsbD 31 = true →
          l'.used = 0 ∧ l'.hpri = 0 ∧ l'.byp = 0 ∧ l'.blk = false ∧ (t.quarter (leadOf s q)).pass.isSome = true) ∧
        ((l.en = true ∨ v.getLsbD 31 = false) →
          l'.head = l.head ∧ l'.tail = l.tail ∧ l'.hpri = l.hpri ∧ l'.byp = l.byp ∧ l'.blk = l.blk) := by
  refine ⟨lqcPut s q n v, rfl, ?_⟩
  dsimp only
  rw [lqcPut_lq]
  by_cases h : (s.lq q n).en = true ∨ v.getLsbD 31 = false
  · rw [LqSt.writeC_other h]
    refine ⟨rfl, rfl, rfl, fun hoff hon => absurd h ?_, fun _ => ⟨rfl, rfl, rfl, rfl, rfl⟩⟩
    rw [hoff, hon]
    decide
  · obtain ⟨hoff, hon⟩ : (s.lq q n).en = false ∧ v.getLsbD 31 = true := by simpa using h
    rw [LqSt.writeC_enables hoff hon]
    exact ⟨hon.symm, rfl, by simp [hoff], fun _ _ => ⟨LqSt.used_empty _ rfl rfl, rfl, rfl, rfl, lqcPut_pass s q n v hoff hon⟩,
      fun hk => absurd hk h⟩

/-! ### Retention windows (R210, R211) -/

@[simp] theorem modWindow_same (d : DieSt) (k : Nat) (f : RetwSt → RetwSt) :
    SMap.get (modWindow d k f).retw RetwSt.reset k = f (SMap.get d.retw RetwSt.reset k) := SMap.get_put_same _ _ _ _

theorem modWindow_other (d : DieSt) {k w : Nat} (f : RetwSt → RetwSt) (h : w ≠ k) :
    SMap.get (modWindow d k f).retw RetwSt.reset w = SMap.get d.retw RetwSt.reset w := SMap.get_put_other _ _ _ h

/-- EWAYS after a write of a list of windows. -/
theorem get_foldl_eways (es : Nat → Nat) (w : Nat) : ∀ (ks : List Nat) (m : SMap RetwSt), ks.Nodup →
    SMap.get (ks.foldl (fun m k => SMap.put m RetwSt.reset k { SMap.get m RetwSt.reset k with eways := es k }) m) RetwSt.reset w =
      if w ∈ ks then { SMap.get m RetwSt.reset w with eways := es w } else SMap.get m RetwSt.reset w
  | [], m, _ => by simp
  | k :: ks, m, h => by
    obtain ⟨hk, hks⟩ := List.nodup_cons.mp h
    rw [List.foldl_cons, get_foldl_eways es w ks _ hks, SMap.get_put]
    by_cases hw : w = k
    · subst hw; simp [hk]
    · simp [hw]

/-- The ways left for a window are those its predecessors have not taken. -/
theorem effWays_get : ∀ (ws : List (Bool × Nat)) (free w : Nat) (v : Bool × Nat), ws[w]? = some v →
    (effWays ws free)[w]? = some (if v.1 then min v.2 (free - ((effWays ws free).take w).sum) else 0)
  | [], _, _, _, h => by simp at h
  | (en, k) :: ws, free, 0, v, h => by
    obtain rfl : (en, k) = v := by simpa using h
    simp [effWays]
  | (en, k) :: ws, free, w + 1, v, h => by
    rw [effWays]
    simp only [List.getElem?_cons_succ, List.take_succ_cons, List.sum_cons]
    rw [effWays_get ws _ w v (by simpa using h), Nat.sub_sub]

theorem effWays_length : ∀ (ws : List (Bool × Nat)) (free : Nat), (effWays ws free).length = ws.length
  | [], _ => rfl
  | _ :: ws, _ => congrArg (· + 1) (effWays_length ws _)

/-- EN and WAYS of the eight windows of a die. -/
def wayRequests (die : DieSt) : List (Bool × Nat) :=
  ((List.range 8).map fun k => SMap.get die.retw RetwSt.reset k).map fun v => (v.en, v.ways)

/-- EWAYS of window w as a write to a control register computes it. -/
def windowEways (die : DieSt) (w : Nat) : Nat := ((effWays (wayRequests die) 12)[w]?).getD 0

theorem recomputeEways_window (die : DieSt) (w : Nat) :
    SMap.get (recomputeEways die).retw RetwSt.reset w =
      if w < 8 then { SMap.get die.retw RetwSt.reset w with eways := windowEways die w } else SMap.get die.retw RetwSt.reset w := by
  have h := get_foldl_eways (windowEways die) w (List.range 8) die.retw List.nodup_range
  simp only [List.mem_range] at h
  rw [← h]
  unfold recomputeEways windowEways wayRequests
  dsimp only

/-- A window has the ways it asks for, within the 12 that those before it leave. -/
theorem windowEways_eq (die : DieSt) {w : Nat} (hw : w < 8) :
    windowEways die w = if (SMap.get die.retw RetwSt.reset w).en
      then min (SMap.get die.retw RetwSt.reset w).ways (12 - ((List.range w).map (windowEways die)).sum) else 0 := by
  have hreq : (wayRequests die)[w]? =
      some ((SMap.get die.retw RetwSt.reset w).en, (SMap.get die.retw RetwSt.reset w).ways) := by
    simp [wayRequests, List.getElem?_range hw]
  have hlen : (effWays (wayRequests die) 12).length = 8 := by simp [effWays_length, wayRequests]
  have htake : (effWays (wayRequests die) 12).take w = (List.range w).map (windowEways die) := by
    refine List.ext_getElem (by simp [hlen]; omega) fun i hi hj => ?_
    have hi8 : i < (effWays (wayRequests die) 12).length := by simp at hj; omega
    simp [windowEways, List.getElem?_eq_getElem hi8]
  rw [← htake]
  nth_rewrite 1 [windowEways]
  rw [effWays_get _ _ _ _ hreq]
  rfl

theorem retwControlWrite_writes (s : State) (d k : Nat) (v : DWord) (hk : k < 8) :
    ∃ t, exec (.retwControlWrite d k v) s = .next t ∧
      (Claims.window t d k).en = v.getLsbD 4 ∧ (Claims.window t d k).ways = min (v.toNat % 16) 12 ∧
      (∀ w, (Claims.window t d w).base = (Claims.window s d w).base ∧ (Claims.window t d w).limit = (Claims.window s d w).limit) ∧
      (∀ w, w ≠ k →
        (Claims.window t d w).en = (Claims.window s d w).en ∧ (Claims.window t d w).ways = (Claims.window s d w).ways) ∧
      ∀ w, w < 8 → (Claims.window t d w).eways =
        if (Claims.window t d w).en
          then min (Claims.window t d w).ways (12 - ((List.range w).map fun u => (Claims.window t d u).eways).sum) else 0 := by
  refine ⟨retwControlPut s d k v, rfl, ?_⟩
  let die := modWindow (s.die d) k fun w => { w with en := v.getLsbD 4, ways := min (v.toNat % 16) 12 }
  have hput : (retwControlPut s d k v).die d = recomputeEways die := by
    rw [retwControlPut, bitsOf_zero, modDie_same]
    rfl
  have hwin : ∀ w, Claims.window (retwControlPut s d k v) d w =
      if w < 8 then { SMap.get die.retw RetwSt.reset w with eways := windowEways die w } else SMap.get die.retw RetwSt.reset w :=
    fun w => by rw [Claims.window, hput, recomputeEways_window]
  have hsame : SMap.get die.retw RetwSt.reset k =
      { Claims.window s d k with en := v.getLsbD 4, ways := min (v.toNat % 16) 12 } := modWindow_same _ _ _
  have hother : ∀ w, w ≠ k → SMap.get die.retw RetwSt.reset w = Claims.window s d w := fun w h => modWindow_other _ _ h
  refine ⟨?_, ?_, fun w => ?_, fun w hw => ?_, fun w hw => ?_⟩
  · rw [hwin, if_pos hk, hsame]
  · rw [hwin, if_pos hk, hsame]
  · rw [hwin, apply_ite RetwSt.base, apply_ite RetwSt.limit, ite_self, ite_self]
    by_cases h : w = k
    · rw [h, hsame]; exact ⟨rfl, rfl⟩
    · rw [hother w h]; exact ⟨rfl, rfl⟩
  · rw [hwin, apply_ite RetwSt.en, apply_ite RetwSt.ways, ite_self, ite_self, hother w hw]
    exact ⟨rfl, rfl⟩
  · have hsum : ((List.range w).map fun u => (Claims.window (retwControlPut s d k v) d u).eways) =
        (List.range w).map (windowEways die) := by
      refine List.map_congr_left fun u hu => ?_
      rw [hwin, if_pos (by have := List.mem_range.mp hu; omega)]
    rw [hsum, hwin, if_pos hw]
    exact windowEways_eq die hw

/-! ### LAYC (R215) -/

theorem exec_laycGo_busy (s : State) (d : Nat) (v : DWord) (h : (s.die d).layc.busy = true) :
    exec (.laycGo d v) s = .next s := congrArg Host.Outcome.next (if_pos h)

theorem exec_laycGo_idle (s : State) (d : Nat) (v : DWord) (h : (s.die d).layc.busy = false) :
    let pa := (v.extractLsb' 21 27).toNat * pageSize
    let ok := decide (v.extractLsb' 48 2 ≠ 3) && isDram pa && decide (homeDie s pa = d)
    exec (.laycGo d v) s = .next (s.setDie d { s.die d with
      layc := { busy := ok, err := !ok, gran := v.extractLsb' 48 2, ppn := v.extractLsb' 21 27 } }) :=
  congrArg Host.Outcome.next (if_neg (by rw [h]; exact Bool.false_ne_true))

end Sys2Proof.Machine
end

section

namespace Sys2Proof.Machine

/-! ### What a re-layout leaves (R213 to R215) -/

/-- LAYC of every die is as it was. -/
structure LaycKept (s t : State) : Prop where
  layc : ∀ d, (t.die d).layc = (s.die d).layc

namespace LaycKept

theorem refl (s : State) : LaycKept s s := ⟨fun _ => rfl⟩

theorem trans {s t u : State} (h : LaycKept s t) (k : LaycKept t u) : LaycKept s u :=
  ⟨fun d => (k.layc d).trans (h.layc d)⟩

/-- What leaves the dies leaves LAYC. -/
theorem of_dies {s t : State} (h : t.dies = s.dies) : LaycKept s t := ⟨fun d => by rw [State.die, h]; rfl⟩

theorem fold {α : Type} (f : State → α → State) (hf : ∀ s a, LaycKept s (f s a)) (as : List α) (s : State) :
    LaycKept s (foldState f s as) :=
  foldState_ind (LaycKept s) f (fun t a h => h.trans (hf t a)) as s (refl s)

theorem ite {s t u : State} {p : Prop} [Decidable p] (ht : LaycKept s t) (hu : LaycKept s u) :
    LaycKept s (if p then t else u) := by
  split <;> assumption

/-- A write of a die that keeps its LAYC. -/
theorem setDie {s : State} {d : Nat} {v : DieSt} (h : v.layc = (s.die d).layc) : LaycKept s (s.setDie d v) := by
  refine ⟨fun e => ?_⟩
  by_cases he : e = d
  · subst he; rw [State.setDie_same, h]
  · rw [State.setDie_other _ _ he]

theorem setField (s : State) (n : Nat) (v : FieldSt) : LaycKept s (s.setField n v) := of_dies rfl
theorem setBytes (s : State) (a : Nat) (bs : List Byte) : LaycKept s (s.setBytes a bs) := of_dies rfl
theorem flips (s : State) (m : SMap (List Flip)) : LaycKept s { s with flips := m } := of_dies rfl
theorem under (s : State) (m : SMap (List Byte × Bool)) : LaycKept s { s with under := m } := of_dies rfl

theorem pmcCount (s : State) (d e n : Nat) : LaycKept s (pmcCount s d e n) := setDie rfl

theorem bucketAdd (s : State) (d k i : Nat) : LaycKept s (bucketAdd s d k i) := by
  unfold Machine.bucketAdd
  dsimp only
  have h : ∀ a b w, LaycKept s (Machine.pmcCount
      (if k = 0 then s.setDie d { s.die d with dramFill := a } else if k = 1 then s.setDie d { s.die d with ghlFill := b }
        else s.setField (320 * d + i) w) d 8 1) :=
    fun a b _ => trans (ite (setDie (v := { s.die d with dramFill := a }) rfl)
      (ite (setDie (v := { s.die d with ghlFill := b }) rfl) (setField _ _ _))) (pmcCount _ _ _ _)
  exact ite ((h _ _ _).trans (of_dies (predFail_dies _ _ _ _ _))) (h _ _ _)

theorem setPoison (s : State) (n : Nat) (p : Bool) : LaycKept s (s.setPoison n p) := by
  cases p <;> exact of_dies rfl

theorem keepUnder (s : State) (k : Nat) : LaycKept s (keepUnder s k) := ite (refl s) (under _ _)

theorem uncover (s : State) (k : Nat) : LaycKept s (uncover s k) := by
  unfold Machine.uncover
  split
  · exact refl s
  · exact ((under _ _).trans (setBytes _ _ _)).trans (setPoison _ _ _)

theorem beneath (s : State) (g : Nat × Nat) (k : Nat → Bool) {act : State → State} (h : ∀ u, LaycKept u (act u)) :
    LaycKept s (beneath s g k act) :=
  ((fold _ (fun _ _ => uncover _ _) _ _).trans (h _)).trans
    (fold _ (fun _ _ => ite (refl _) (((keepUnder _ _).trans (setBytes _ _ _)).trans (setPoison _ _ _))) _ _)

theorem flipData (g : Nat) (s : State) (e : Flip) : LaycKept s (flipData g s e) := by
  unfold Machine.flipData
  split
  · exact setBytes _ _ _
  · exact refl s

theorem scrubGranule (s : State) (g : Nat × Nat) : LaycKept s (scrubGranule s g) := by
  unfold Machine.scrubGranule
  dsimp only
  have h : ∀ (m : SMap (List Flip)) (es : List Flip), LaycKept s (foldState (Machine.flipData g.1) { s with flips := m } es) :=
    fun _ _ => (flips _ _).trans (fold _ (fun _ _ => flipData _ _ _) _ _)
  exact ite (refl s) (ite ((h _ _).trans (fold _ (fun _ _ => setPoison _ _ _) _ _)) ((h _ _).trans (bucketAdd _ _ _ _)))

theorem encodeGranule (s : State) (g : Nat × Nat) (w k : Nat → Bool) : LaycKept s (encodeGranule s g w k) :=
  ite (refl s) (beneath s g _ fun u => ((ite (refl u) (scrubGranule _ _)).trans (flips _ _)).trans
    (fold _ (fun _ _ => setPoison _ _ _) _ _))

theorem poisonGranule (s : State) (a : Nat) : LaycKept s (poisonGranule s a) := by
  unfold Machine.poisonGranule
  exact beneath s _ _ fun _ => (flips _ _).trans (fold _ (fun _ _ => setPoison _ _ _) _ _)

theorem eccOutcome (s : State) (a : Nat) (e : Ecc) : LaycKept s (eccOutcome s a e) := by
  cases e
  · exact refl s
  · exact bucketAdd _ _ _ _
  · exact poisonGranule _ _

end LaycKept

/-- The granules of the page at pa are read and decoded in the old layout. -/
def pageDecoded (s : State) (pa : Nat) : State :=
  foldState (fun s a => eccOutcome s a (Config.relayoutEcc s.turns a)) s (pageGranules (pageTag s pa) pa)

/-- They are written, with codes that are new. -/
def pageEncoded (s : State) (pa : Nat) : State :=
  foldState (fun s g => encodeGranule s g (fun _ => false) fun b => l2Holds s (paOfLoc pa b)) s
    (granulesOf s (locOf s pa) pageSize)

/-- The page's tag takes GRAN. -/
def pageTagged (s : State) (pa gran : Nat) : State := { s with tags := SMap.put s.tags 0 (locOf s pa / pageSize) gran }

/-- The page at pa with its new codes and its new tag, and die d idle. -/
def relaid (s : State) (d pa gran : Nat) : State :=
  modDie (pageTagged (pageEncoded (pageDecoded s pa) pa) pa gran) d fun die =>
    { die with layc := { die.layc with busy := false } }

theorem exec_relayoutComplete {s : State} {d : Nat} (h : (s.die d).layc.busy = true) :
    exec (.relayoutComplete d) s =
      .next (relaid s d ((s.die d).layc.ppn.toNat * pageSize) (s.die d).layc.gran.toNat) := by
  change execRelayoutComplete d s = _
  unfold execRelayoutComplete relaid pageTagged pageEncoded pageDecoded
  simp only [h, Bool.not_true, Bool.false_eq_true, if_false]

theorem pageDecoded_layc (s : State) (pa : Nat) : LaycKept s (pageDecoded s pa) :=
  LaycKept.fold _ (fun _ _ => LaycKept.eccOutcome _ _ _) _ _

theorem pageEncoded_layc (s : State) (pa : Nat) : LaycKept s (pageEncoded s pa) :=
  LaycKept.fold _ (fun _ _ => LaycKept.encodeGranule _ _ _ _) _ _

theorem pageTagged_tag (s : State) (pa gran : Nat) : pageTag (pageTagged s pa gran) pa = gran := SMap.get_put_same _ _ _ _

@[simp] theorem pageTagged_die (s : State) (pa gran d : Nat) : (pageTagged s pa gran).die d = s.die d := rfl
@[simp] theorem pageTagged_mem (s : State) (pa gran : Nat) : (pageTagged s pa gran).mem = s.mem := rfl
@[simp] theorem modDie_mem (s : State) (d : Nat) (f : DieSt → DieSt) : (modDie s d f).mem = s.mem := rfl
@[simp] theorem modDie_pageTag (s : State) (d pa : Nat) (f : DieSt → DieSt) : pageTag (modDie s d f) pa = pageTag s pa := rfl

/-- A granule in which no bit has flipped is written as it stands. -/
theorem pageEncoded_of_noFlips {s : State} (h : s.flips = []) (pa : Nat) : pageEncoded s pa = s := by
  unfold pageEncoded
  generalize granulesOf s (locOf s pa) pageSize = gs
  refine foldState_ind (fun t => t = s) _ (fun t g ht => ?_) gs s rfl
  subst ht
  exact if_pos (by rw [h]; rfl)

theorem relaid_layc (s : State) (d pa gran : Nat) : ((relaid s d pa gran).die d).layc = { (s.die d).layc with busy := false } := by
  have h := ((pageDecoded_layc s pa).trans (pageEncoded_layc _ pa)).layc d
  rw [relaid, modDie_same, pageTagged_die, h]

theorem relaid_tag (s : State) (d pa gran : Nat) : pageTag (relaid s d pa gran) pa = gran := by
  rw [relaid, modDie_pageTag, pageTagged_tag]

/-- Where no bit has flipped once the page is decoded, memory is what the decoder leaves. -/
theorem relaid_mem_of_noFlips (s : State) (d pa gran : Nat) (h : (pageDecoded s pa).flips = []) :
    (relaid s d pa gran).mem = (pageDecoded s pa).mem := by
  rw [relaid, modDie_mem, pageTagged_mem, pageEncoded_of_noFlips h]

end Sys2Proof.Machine
end

section

namespace Sys2Proof.Machine

/-! ### Bytes written back where they stand -/

namespace SMap

variable {α : Type}

theorem insert_of_find {n : Nat} {x : α} : ∀ {b : Nat} (m : SMap α), sortedFrom b m = true → find m n = some x → insert m n x = m
  | _, [], _, h => by simp at h
  | b, (k, v) :: m, hm, h => by
    simp only [sortedFrom, Bool.and_eq_true, decide_eq_true_eq] at hm
    rw [find_cons] at h
    by_cases hk : n = k
    · rw [if_pos hk] at h
      cases h
      simp [insert, hk]
    · rw [if_neg hk] at h
      have hlt : ¬n < k := fun hn => by rw [find_below m hm.2 (by omega)] at h; cases h
      simp [insert, hlt, hk, insert_of_find m hm.2 h]

theorem erase_of_find_none (n : Nat) : ∀ m : SMap α, find m n = none → erase m n = m
  | [], _ => rfl
  | (k, v) :: m, h => by
    rw [find_cons] at h
    split at h
    · cases h
    · rw [erase_cons, if_neg (Ne.symm ‹_›), erase_of_find_none n m h]

theorem ne_of_find [DecidableEq α] {d x : α} {n : Nat} : ∀ m : SMap α, (m.all fun e => decide (e.2 ≠ d)) = true →
    find m n = some x → x ≠ d
  | [], _, h => by simp at h
  | (k, v) :: m, hm, h => by
    simp only [List.all_cons, Bool.and_eq_true, decide_eq_true_eq] at hm
    rw [find_cons] at h
    split at h
    · cases h; exact hm.1
    · exact ne_of_find m hm.2 h

/-- A table in canonical form does not change where what it holds is written again. -/
theorem put_get [DecidableEq α] {d : α} {m : SMap α} (n : Nat) (hw : wf d m = true) : put m d n (get m d n) = m := by
  have hs := sortedFrom_of_wf hw
  have ha : (m.all fun e => decide (e.2 ≠ d)) = true := by
    simp only [wf, Bool.and_eq_true] at hw
    exact hw.2
  unfold put get
  rcases hf : find m n with _ | x
  · exact (if_pos rfl).trans (erase_of_find_none n m hf)
  · exact (if_neg (ne_of_find m ha hf)).trans (insert_of_find m hs hf)

theorem mem_insert {n : Nat} {x : α} {e : Nat × α} : ∀ m : SMap α, e ∈ insert m n x → e = (n, x) ∨ e ∈ m
  | [], h => by simpa [insert] using h
  | (k, v) :: m, h => by
    rw [insert] at h
    split at h
    · simpa using h
    · split at h
      · exact (List.mem_cons.mp h).imp id fun h => List.mem_cons_of_mem _ h
      · rcases List.mem_cons.mp h with rfl | h
        · exact .inr List.mem_cons_self
        · exact (mem_insert m h).imp id fun h => List.mem_cons_of_mem _ h

theorem mem_of_find {n : Nat} {x : α} : ∀ m : SMap α, find m n = some x → (n, x) ∈ m
  | [], h => by simp at h
  | (k, v) :: m, h => by
    rw [find_cons] at h
    split at h
    · cases h; subst_vars; exact List.mem_cons_self
    · exact List.mem_cons_of_mem _ (mem_of_find m h)

end SMap

theorem Memory.write_read : ∀ (n : Nat) {m : List Host.Cell} (a : Nat), Memory.wf m = true →
    Memory.write m a (Memory.read m a n) = m
  | 0, _, _, _ => rfl
  | n + 1, m, a, h => by
    have hput : Memory.put m a (Memory.get m a) = m := SMap.put_get a h
    rw [Memory.read, Memory.write, hput, Memory.write_read n (a + 1) h]

/-! ### What the decoder leaves of a page that holds what was written to it (R213, R214) -/

/-- Memory is m, no stored bit has flipped, and what DRAM holds beneath a sector is the bytes of that sector. -/
structure Rests (m : List Host.Cell) (s : State) : Prop where
  mem : s.mem = m
  flips : s.flips = []
  under : ∀ e ∈ s.under, e.2.1 = Memory.read m e.1 e.2.1.length

namespace Rests

variable {m : List Host.Cell} {s : State}

theorem of_held {t : State} (hs : Rests m s) (h : Held s t) : Rests m t :=
  ⟨h.mem.trans hs.mem, h.flips.trans hs.flips, fun e he => hs.under e (h.under ▸ he)⟩

theorem of_asWritten (h : Claims.AsWritten s) : Rests s.mem s :=
  ⟨rfl, h.1, fun e he => by rw [h.2] at he; cases he⟩

theorem fold {α : Type} {f : State → α → State} : ∀ (as : List α) {s : State},
    (∀ s, ∀ a ∈ as, Rests m s → Rests m (f s a)) → Rests m s → Rests m (foldState f s as)
  | [], _, _, hs => hs
  | a :: as, s, hf, hs =>
    fold as (fun s b hb => hf s b (List.mem_cons_of_mem _ hb)) (hf s a List.mem_cons_self hs)

theorem setPoison (hs : Rests m s) (n : Nat) (p : Bool) : Rests m (s.setPoison n p) := by
  cases p <;> exact ⟨hs.mem, hs.flips, hs.under⟩

/-- Bytes that memory holds are written where they stand. -/
theorem setBytes (hw : Memory.wf m = true) (hs : Rests m s) {a : Nat} {bs : List Byte} (h : bs = Memory.read m a bs.length) :
    Rests m (s.setBytes a bs) := by
  refine ⟨?_, hs.flips, hs.under⟩
  change Memory.write s.mem a bs = m
  rw [hs.mem, h, Memory.write_read _ _ hw]

theorem keepUnder (hs : Rests m s) (k : Nat) : Rests m (keepUnder s k) := by
  unfold Machine.keepUnder
  split
  · exact hs
  · refine ⟨hs.mem, hs.flips, fun e he => ?_⟩
    rcases SMap.mem_insert s.under he with rfl | he
    · change s.bytes k _ = Memory.read m k (s.bytes k _).length
      rw [State.bytes, hs.mem, Memory.read_length]
    · exact hs.under e he

theorem uncover (hw : Memory.wf m = true) (hs : Rests m s) (k : Nat) : Rests m (uncover s k) := by
  unfold Machine.uncover
  split
  · exact hs
  · rename_i u hu
    have hr : Rests m { s with under := SMap.erase s.under k } :=
      ⟨hs.mem, hs.flips, fun e he => hs.under e (List.mem_of_mem_filter he)⟩
    exact (hr.setBytes hw (hs.under _ (SMap.mem_of_find _ hu))).setPoison _ _

/-- What is done beneath held sectors, where it lets memory rest. -/
theorem beneath (hw : Memory.wf m = true) (hs : Rests m s) (g : Nat × Nat) (k : Nat → Bool) {act : State → State}
    (hact : ∀ u, Rests m u → Rests m (act u)) : Rests m (beneath s g k act) := by
  unfold Machine.beneath
  dsimp only
  generalize hh : List.map _ (List.filter k (granuleSectors g)) = held
  have hb : ∀ o ∈ held, o.2.1 = Memory.read m o.1 o.2.1.length := by
    intro o ho
    rw [← hh] at ho
    obtain ⟨b, -, rfl⟩ := List.mem_map.mp ho
    change s.bytes b _ = Memory.read m b (s.bytes b _).length
    rw [State.bytes, hs.mem, Memory.read_length]
  clear hh
  refine fold held (fun u o ho hu => ?_) (hact _ (fold held (fun _ o _ hu => hu.uncover hw o.1) hs))
  split
  · exact hu
  · exact ((hu.keepUnder o.1).setBytes hw (hb o ho)).setPoison _ _

theorem poisonGranule (hw : Memory.wf m = true) (hs : Rests m s) (a : Nat) : Rests m (poisonGranule s a) := by
  unfold Machine.poisonGranule
  refine hs.beneath hw _ _ fun u hu => fold _ (fun _ b _ h => h.setPoison b true) ⟨hu.mem, ?_, hu.under⟩
  rw [hu.flips]
  rfl

/-- Whatever the ECC finds, memory in canonical form rests. -/
theorem eccOutcome (hw : Memory.wf m = true) (hs : Rests m s) (a : Nat) (e : Ecc) : Rests m (eccOutcome s a e) := by
  cases e
  · exact hs
  · exact hs.of_held (Held.bucketAdd _ _ _ _)
  · exact hs.poisonGranule hw a

/-- Where the ECC finds nothing that it cannot correct, memory of any form rests. -/
theorem eccOutcome_correctable (hs : Rests m s) (a : Nat) {e : Ecc} (he : e ≠ .uncorrectable) : Rests m (Machine.eccOutcome s a e) := by
  cases e
  · exact hs
  · exact hs.of_held (Held.bucketAdd _ _ _ _)
  · exact absurd rfl he

end Rests

theorem pageDecoded_rests {m : List Host.Cell} {s : State} (hw : Memory.wf m = true) (hs : Rests m s) (pa : Nat) :
    Rests m (pageDecoded s pa) :=
  Rests.fold _ (fun _ _ _ h => h.eccOutcome hw _ _) hs

theorem pageDecoded_rests_correctable {m : List Host.Cell} {s : State} (hc : ∀ n a, Config.relayoutEcc n a ≠ .uncorrectable)
    (hs : Rests m s) (pa : Nat) : Rests m (pageDecoded s pa) :=
  Rests.fold _ (fun _ _ _ h => h.eccOutcome_correctable _ (hc _ _)) hs

/-- A finished re-layout changes no byte of a memory in canonical form that holds what has been written to it. -/
theorem relayoutComplete_mem (s : State) (d : Nat) (h : (s.die d).layc.busy = true) (hw : Memory.wf s.mem = true)
    (hs : Claims.AsWritten s) : ∃ t, exec (.relayoutComplete d) s = .next t ∧ t.mem = s.mem := by
  have hr := pageDecoded_rests hw (Rests.of_asWritten hs) ((s.die d).layc.ppn.toNat * pageSize)
  exact ⟨_, exec_relayoutComplete h, (relaid_mem_of_noFlips _ _ _ _ hr.flips).trans hr.mem⟩

theorem relaid_mem_correctable (s : State) (d pa gran : Nat) (hc : ∀ n a, Config.relayoutEcc n a ≠ .uncorrectable)
    (hs : Claims.AsWritten s) : (relaid s d pa gran).mem = s.mem := by
  have h := pageDecoded_rests_correctable hc (Rests.of_asWritten hs) pa
  rw [relaid_mem_of_noFlips _ _ _ _ h.flips, h.mem]

/-! ### A list of cells that re-layout does change -/

/-- Page 0 is being re-laid out, its first line is held in the second-level cache, and memory lists byte 0 though it reads as
an unlisted byte does. -/
def listedZero : State :=
  { State.reset with
    mem := [(0, Config.fillByte)]
    dies := [(0, { DieSt.reset with
      layc := { LaycSt.reset with busy := true }
      l2 := [(0, [{ way := 0, base := 0, valid := [0], dirty := [] }])] })] }

theorem listedZero_asWritten : Claims.AsWritten listedZero := ⟨rfl, rfl⟩

theorem listedZero_busy : (listedZero.die 0).layc.busy = true := by decide

theorem exec_listedZero : exec (.relayoutComplete 0) listedZero = .next (relaid listedZero 0 0 0) := by
  have hpa : (listedZero.die 0).layc.ppn.toNat * pageSize = 0 := by decide
  have hgran : (listedZero.die 0).layc.gran.toNat = 0 := by decide
  rw [exec_relayoutComplete listedZero_busy, hpa, hgran]

/-- An uncorrectable error in its first granule unlists that byte. -/
theorem listedZero_poisoned : Rests [] (eccOutcome listedZero 0 .uncorrectable) := by
  have hmem : (eccOutcome listedZero 0 .uncorrectable).mem = [] := by decide +kernel
  have hflips : (eccOutcome listedZero 0 .uncorrectable).flips = [] := by decide +kernel
  have hunder : (eccOutcome listedZero 0 .uncorrectable).under = [(0, Memory.read [] 0 48, true)] := by decide +kernel
  refine ⟨hmem, hflips, fun e he => ?_⟩
  rw [hunder] at he
  obtain rfl := List.mem_singleton.mp he
  rw [Memory.read_length]

/-- The first granule of a page stands at its first byte. -/
theorem pageGranules_first (gran pa : Nat) : ∃ as, pageGranules gran pa = pa :: as := by
  unfold pageGranules
  generalize hn : (if gran = 0 then 48 else if gran = 1 then 192 else 768) = n
  have hpos : 0 < n := by rw [← hn]; split_ifs <;> decide
  obtain ⟨k, hk⟩ := Nat.exists_eq_succ_of_ne_zero (Nat.div_pos (by unfold pageSize; omega : n ≤ pageSize + n - 1) hpos).ne'
  refine ⟨((List.range k).map Nat.succ).map fun i => pa + n * i, ?_⟩
  simp only [hk, List.range_succ_eq_map, List.map_cons, Nat.mul_zero, Nat.add_zero]

/-- A re-layout whose first granule the ECC finds uncorrectable changes the list. -/
theorem listedZero_relaid (h : Config.relayoutEcc 0 0 = .uncorrectable) : (relaid listedZero 0 0 0).mem ≠ listedZero.mem := by
  have hrests : Rests [] (pageDecoded listedZero 0) := by
    obtain ⟨as, has⟩ := pageGranules_first (pageTag listedZero 0) 0
    unfold pageDecoded
    rw [has, foldState]
    refine Rests.fold as (fun _ _ _ hu => hu.eccOutcome Memory.wf_nil _ _) ?_
    change Rests [] (eccOutcome listedZero 0 (Config.relayoutEcc 0 0))
    rw [h]
    exact listedZero_poisoned
  rw [relaid_mem_of_noFlips _ _ _ _ hrests.flips, hrests.mem]
  exact (List.cons_ne_nil _ _).symm

end Sys2Proof.Machine

open Sys2Proof Sys2Proof.Machine Sys2Proof.Claims

/-- The registers that a lead quarter keeps. -/
theorem leadOnly_quarterReg (q o : Nat) (ho : o ∈ [0x200, 0x208, 0x210, 0x300, 0x320, 0x328, 0x500]) :
    leadOnly (quarterReg q o) = some q := by
  simp only [List.mem_cons, List.not_mem_nil, or_false] at ho
  rcases ho with rfl | rfl | rfl | rfl | rfl | rfl | rfl <;> rfl

/-- RegistersWritten holds where the ECC finds no uncorrectable error in a page that is re-laid out. Its last clause takes memory
in any form, also a list that is not canonical, and that clause alone needs the premise. -/
theorem registersWritten_of_correctable (hc : ∀ n a, Config.relayoutEcc n a ≠ .uncorrectable) : Obligations.RegistersWritten := by
  unfold Obligations.RegistersWritten
  refine ⟨?write, lqcWrite_writes, ?ring, retwControlWrite_writes, ?layc, ?relayout⟩
  case write =>
    intro s q n d k v hq hn hd hk
    have free : ∀ {a : RegName}, leadOnly a = none → ∀ r, leadOnly a = some r → leadOf s r = r :=
      fun h r hr => by rw [h] at hr; cases hr
    have kept : ∀ {a : RegName}, leadOf s q = q → leadOnly a = some q → ∀ r, leadOnly a = some r → leadOf s r = r :=
      fun hl h r hr => by rw [h] at hr; cases hr; exact hl
    refine ⟨write_quarterUnit (a := .kmapa q) v hq (by decide) rfl (free rfl),
      write_quarterUnit (a := .jnb q) v hq (by decide) rfl (free rfl),
      (write_quarterUnit v hq (by decide) rfl (free rfl)).trans (congrArg _ (regPut_hbtc s q v)),
      write_quarterUnit (a := .cint q) v hq (by decide) rfl (free rfl),
      write_quarterUnit v hq (by omega) (quarterReg_lqc hn) (free rfl),
      write_quarterUnit (a := .jnp q) v hq (by decide) rfl (free rfl),
      write_dieUnit v hd (by omega) (dieReg_retwControl hk) rfl,
      fun hgo => (write_dieUnit (a := .layc d) v hd (by decide) rfl rfl).trans ?go,
      fun hl => ⟨(write_quarterUnit v hq (by decide) rfl (kept hl rfl)).trans (congrArg _ (regPut_tlim s q v)),
        (write_quarterUnit v hq (by decide) rfl (kept hl rfl)).trans (congrArg _ (regPut_wdog s q v)),
        write_quarterUnit (a := .crb q) v hq (by decide) rfl (kept hl rfl),
        write_quarterUnit (a := .crp q) v hq (by decide) rfl (kept hl rfl)⟩,
      fun hl o ho => write_quarterUnit_elsewhere v hq ?_ (leadOnly_quarterReg q o ho) hl⟩
    case go => rw [ownRow, if_pos hgo]; rfl
    · revert o; decide
  case ring =>
    intro s q v
    rw [← RingSt.write_eq, ← RingSt.write_eq]
    exact ⟨rfl, rfl⟩
  case layc =>
    exact fun s d v => ⟨exec_laycGo_busy s d v, exec_laycGo_idle s d v⟩
  case relayout =>
    exact fun s d h => ⟨_, exec_relayoutComplete h, relaid_layc _ _ _ _, relaid_tag _ _ _ _, relaid_mem_correctable _ _ _ _ hc⟩

/-- The converse, for one granule: were the first granule of page 0 found uncorrectable in turn 0, RegistersWritten would fail at
listedZero. Config.relayoutEcc has no body, so the model decides neither. -/
theorem correctable_of_registersWritten (h : Obligations.RegistersWritten) : Config.relayoutEcc 0 0 ≠ .uncorrectable := by
  intro hecc
  unfold Obligations.RegistersWritten at h
  obtain ⟨-, -, -, -, -, hrelayout⟩ := h
  obtain ⟨t, ht, -, -, hmem⟩ := hrelayout listedZero 0 listedZero_busy
  have hrelaid : relaid listedZero 0 0 0 = t := Host.Outcome.next.inj (exec_listedZero.symm.trans ht)
  rw [← hrelaid] at hmem
  exact listedZero_relaid hecc (hmem listedZero_asWritten)

end

section

namespace Sys2Proof.Machine

/-! ### A step is the turn that is due, or the schedule's (R51) -/

theorem step_of_agenda {s : State} {t : Turn} {ts : List Turn} (h : s.agenda = t :: ts) :
    step s = takeTurn true { s with agenda := ts } t := by
  simp only [step, h]

theorem step_of_schedule {s : State} (h : s.agenda = []) :
    step s = takeTurn false { s with turns := s.turns + 1 } (Config.schedule s.turns) := by
  simp only [step, h]

/-- What the machine put on its agenda takes place. -/
theorem takeTurn_due {s u : State} {t : Turn} (h : turnOf true s t = .next u) :
    takeTurn true s t = .next { u with late := false } := by
  unfold takeTurn
  rw [h]
  cases hl : u.late
  · simp [← hl]
  · simp [hl]

/-- A turn of the schedule gives way where it comes too late for the order of its cycle. -/
theorem takeTurn_schedule {s u : State} {t : Turn} (h : turnOf false s t = .next u) :
    takeTurn false s t = .next (if u.late || (movable s t && tooLateFor s u) then s else u) := by
  unfold takeTurn
  rw [h]
  simp

/-- A slot's turn is never put off: where it is not late, its outcome stands, due or not. -/
theorem takeTurn_fire {due : Bool} {s : State} {x : Nat} (h : (fireTurn x s).late = false) :
    takeTurn due s (.fire x) = .next (fireTurn x s) := by
  simp [takeTurn, turnOf, movable, h]

/-- Where a step's turn is that of slot x, it is that turn at the state with the slot in focus. -/
theorem step_fire {s u : State} {ts : List Turn} {x : Nat}
    (hu : (s.agenda = .fire x :: ts ∧ u = { s with agenda := ts, foc := x }) ∨
      (s.agenda = [] ∧ Config.schedule s.turns = .fire x ∧ u = { s with turns := s.turns + 1, foc := x }))
    {v : State} (hv : fireTurn x u = v) (hl : v.late = false) : step s = .next v := by
  rcases hu with ⟨ha, rfl⟩ | ⟨ha, hs, rfl⟩
  · rw [step_of_agenda ha, takeTurn_fire (hv ▸ hl)]
    exact congrArg _ hv
  · rw [step_of_schedule ha, hs, takeTurn_fire (hv ▸ hl)]
    exact congrArg _ hv

/-! ### A slot fires the instruction its configuration holds (R44, R47, R80, R335) -/

theorem slotInstr_of_decode {s : State} {x : Nat} {i : Instr} (h0 : cfgSlot (s.tile (tileOf x)).cfg (slotNo x) ≠ 0)
    (hd : decodeFabric (cfgSlot (s.tile (tileOf x)).cfg (slotNo x)) = .ok i) : slotInstr s x = some i := by
  simp only [slotInstr, cfgInstr, h0, hd, if_false]

/-- The firing of slot x that changes the state in time stands, with its note of a value held before. -/
theorem rawFire_of_exec {s t : State} {x : Nat} {i : Instr} (hfoc : s.foc = x) (hi : slotInstr s x = some i)
    (he : exec i s = .next t) (hne : t ≠ s) (hl : t.late = false) :
    rawFire s x = some (if tookHeld s t x then t.setSlot x { t.slot x with dstart := s.now + 1 } else t) := by
  subst hfoc
  have hf : fireOnce s s.foc =
      some (if tookHeld s t s.foc then t.setSlot s.foc { t.slot s.foc with dstart := s.now + 1 } else t) := by
    simp only [fireOnce, hi, Option.map_some, he, hl, hne, decide_false, Bool.or_self, Bool.false_eq_true, if_false]
  rw [rawFire, hf]

theorem fireTurn_of_rawFire {s v : State} {x : Nat} (hfoc : s.foc = x) (hb : heldBack s x = false)
    (hr : rawFire s x = some v) (hset : settled v x = true) : fireTurn x s = v := by
  subst hfoc
  change (if heldBack s s.foc then s else match rawFire s s.foc with
    | some t => if settled t s.foc then t else s
    | none => (fireThrough s s.foc).getD s) = v
  simp [hb, hr, hset]

theorem fireTurn_of_heldBack {s : State} {x : Nat} (hfoc : s.foc = x) (hb : heldBack s x = true) : fireTurn x s = s := by
  subst hfoc
  unfold fireTurn
  dsimp only
  rw [if_pos hb]

/-- A counter operation waits for one of a lower slot of its tile that can still fire (R335). -/
theorem heldBack_of_lower {s : State} {x y : Nat} (hx : counterSlot s x = true) (ht : tileOf y = tileOf x) (hyx : y < x)
    (hy : counterSlot s y = true) (hf : (s.slot y).fired ≠ s.now + 1) (hc : canFire s y = true) : heldBack s x = true := by
  have hy' : 64 * tileOf x + slotNo y = y := by rw [← ht]; unfold tileOf slotNo; omega
  have hlt : slotNo y < 64 := Nat.mod_lt _ (by decide)
  simp only [heldBack, hx, Bool.true_and, Bool.or_eq_true, List.any_eq_true, List.mem_range]
  refine .inr ⟨slotNo y, hlt, ?_⟩
  simp [hy', hy, hyx, hf, hc]

/-! ### A core runs the word it fetches (R51, R370) -/

theorem leNat_read_two (m : List Host.Cell) (a : Nat) : leNat (Memory.read m a 2) % 4 = leNat (Memory.read m a 4) % 4 := by
  simp only [Memory.read, leNat]
  omega

open Claims in
theorem coreFetch_of_fetches {s : State} {c : Nat} {w : Word} (h : Fetches s c w) :
    coreFetch (s.coreSt c) = .word (some w) 4 w.toNat := by
  obtain ⟨-, -, hpc, hword, hlong, hsound⟩ := h
  have h2 : leNat (Memory.read (s.coreSt c).imem (s.coreSt c).pc.toNat 2) % 4 = 3 := by
    rw [leNat_read_two, hword, hlong]
  unfold Machine.coreFetch
  simp [imemSize, h2, hword, hsound, show ¬0x40000 ≤ (s.coreSt c).pc.toNat by omega,
    show ¬0x40000 ≤ (s.coreSt c).pc.toNat + 2 by omega]

/-- The two opcodes of Xpyraro are none of the base's loads, stores and atomics. -/
theorem not_isCoreAccess_of_isXpyraro {w : Word} (h : isXpyraro w = true) : isCoreAccess w = false := by
  have hop : wOp w = 0x0B ∨ wOp w = 0x2B := by
    have key : ∀ k : BitVec 7, w.extractLsb' 0 7 = k → w.toNat % 128 = k.toNat := fun k hk => by
      rw [← hk]; simp
    simp only [isXpyraro, Bool.or_eq_true, decide_eq_true_eq] at h
    exact h.imp (fun h => by simpa [wOp, bitsOf] using key _ h) fun h => by simpa [wOp, bitsOf] using key _ h
  rcases hop with hop | hop <;> simp [isCoreAccess, hop]

open Claims in
theorem coreInstr_of_fetches {s : State} {c : Nat} {data : Ecc} {w : Word} {i : Instr} (h : Fetches s c w)
    (hd : decodeXpyraro w = some i) (hx : isXpyraro w = true) : coreInstr s c .clean data = i := by
  simp [coreInstr, h.calm, coreFetch_of_fetches h, not_isCoreAccess_of_isXpyraro hx, hx, hd]

open Claims in
/-- What a core fetches does not hang on the turns that are due or have been taken. -/
theorem fetches_of_turns {s : State} {c : Nat} {w : Word} (h : Fetches s c w) (ts : List Turn) (n : Nat) :
    Fetches { s with agenda := ts, turns := n } c w :=
  ⟨h.runs, h.calm, h.pc, h.word, h.long, h.sound⟩

open Claims in
theorem coreTurn_of_fetches {s : State} {c : Nat} {data : Ecc} {w : Word} {i : Instr} (h : Fetches s c w)
    (hd : decodeXpyraro w = some i) (hx : isXpyraro w = true) :
    coreTurn c .clean data s = exec i (markStamp (({ s with core := c }).by (coreSource c)) (coreSource c).toNat) := by
  rw [coreTurn, coreInstr_of_fetches h hd hx]

theorem turnOf_event {due : Bool} {s : State} {i : Instr} (he : encode i = none) (hd : due = true ∨ isInternal i = false) :
    turnOf due s (.event i) = exec i s := by
  rcases hd with rfl | hd <;> simp [turnOf, isEvent, *]

end Sys2Proof.Machine

open Sys2Proof Sys2Proof.Machine Sys2Proof.Claims

/-- Settles O55: a step is one turn, and a turn of a slot, a core or an event runs the instruction that stands there. -/
theorem stepRunsInstruction : Obligations.StepRunsInstruction := by
  unfold Obligations.StepRunsInstruction
  refine ⟨fun s u ts x i hu h0 hd => ⟨fun t hb he hne hl => ?_, fun y hc ht hyx hy hf hcan hl => ?_⟩,
    fun s t ts c data w i hw hd hx => ⟨fun ha he => ?_, fun ha hs => ?_⟩,
    fun s t ts i henc => ⟨fun ha he => ?_, fun ha hs hint => ?_⟩⟩
  case' refine_1 | refine_2 =>
    have hfoc : u.foc = x := by rcases hu with ⟨-, rfl⟩ | ⟨-, -, rfl⟩ <;> rfl
    have hnow : u.now = s.now := by rcases hu with ⟨-, rfl⟩ | ⟨-, -, rfl⟩ <;> rfl
    have hslot : ∀ y, u.slot y = s.slot y := by rcases hu with ⟨-, rfl⟩ | ⟨-, -, rfl⟩ <;> exact fun _ => rfl
    have htile : ∀ n, u.tile n = s.tile n := by rcases hu with ⟨-, rfl⟩ | ⟨-, -, rfl⟩ <;> exact fun _ => rfl
    have hlate : u.late = s.late := by rcases hu with ⟨-, rfl⟩ | ⟨-, -, rfl⟩ <;> rfl
    have hi : slotInstr u x = some i := slotInstr_of_decode (by rwa [htile]) (by rwa [htile])
  · intro v hset
    have hr := rawFire_of_exec hfoc hi he hne hl
    rw [hnow] at hr
    refine step_fire hu (fireTurn_of_rawFire hfoc hb hr hset) ?_
    change State.late (if _ then _ else _) = false
    split <;> simpa using hl
  · have hx : counterSlot u x = true := by simp [counterSlot, hi, hc]
    have hb := heldBack_of_lower hx ht hyx hy (by rwa [hslot, hnow]) hcan
    exact step_fire hu (fireTurn_of_heldBack hfoc hb) (hlate.trans hl)
  · rw [step_of_agenda ha]
    exact takeTurn_due ((coreTurn_of_fetches (fetches_of_turns hw ts s.turns) hd hx).trans he)
  · intro u he
    rw [step_of_schedule ha, hs]
    exact takeTurn_schedule ((coreTurn_of_fetches (fetches_of_turns hw s.agenda (s.turns + 1)) hd hx).trans he)
  · rw [step_of_agenda ha]
    exact takeTurn_due ((turnOf_event henc (.inl rfl)).trans he)
  · intro u he
    rw [step_of_schedule ha, hs]
    exact takeTurn_schedule ((turnOf_event henc (.inr hint)).trans he)

end

section

namespace Sys2Proof.Machine

/-! ### What is read at the latches is what stands there (R44 to R48) -/

theorem readAll_latches {s : State} {x : Nat} : ∀ {ps : List Pos} {r : List (Pos × Token)}, readAll s x ps = some r → r.map Prod.fst = ps
  | [], r, h => by cases h; rfl
  | p :: ps, r, h => by
    unfold readAll at h
    split at h
    · rename_i e r' he hr
      cases h
      rw [List.map_cons, readAll_latches hr]
    · cases h

/-! ### Consuming: what it takes, and what it leaves (R44, R46) -/

theorem latchNo_inj {x : Nat} {p q : Pos} (h : latchNo x p = latchNo x q) : p = q := by
  cases p <;> cases q <;> simp [latchNo, posNo] at h ⊢

section
variable (s : State) (x : Nat) (p : Pos)

theorem consume_q (l : Nat) : ((consume s x p).link l).q = if l = latchNo x p then (s.link l).q.drop 1 else (s.link l).q := by
  have hset : ∀ es, ((s.setLink (latchNo x p) { s.link (latchNo x p) with q := es }).link l).q =
      if l = latchNo x p then es else (s.link l).q := fun es => by
    split
    · subst l; simp
    · rw [State.setLink_other _ _ ‹_›]
  unfold consume
  dsimp only
  split
  · rename_i hq
    split
    · subst l; simp [hq]
    · rfl
  · rename_i e es hq
    have hd : (if l = latchNo x p then es else (s.link l).q) = if l = latchNo x p then (s.link l).q.drop 1 else (s.link l).q := by
      split
      · subst l; simp [hq]
      · rfl
    split
    · exact (hset es).trans hd
    · split <;> exact (hset es).trans hd

@[simp] theorem consume_slot (y : Nat) : (consume s x p).slot y = s.slot y := by
  unfold consume; dsimp only
  split
  · rfl
  · split
    · rfl
    · split <;> rfl

@[simp] theorem consume_now : (consume s x p).now = s.now := (Held.consume s x p).now

/-- Of its own tile, consuming changes what the firing has taken of the port rates alone. -/
theorem consume_tile : { (consume s x p).tile (tileOf x) with inCnt := [] } = { s.tile (tileOf x) with inCnt := [] } := by
  unfold consume; dsimp only
  split
  · rfl
  · split
    · rfl
    · split
      · simp
      · rfl

end

theorem consumeAll_slot (x y : Nat) : ∀ (ps : List Pos) (s : State), (consumeAll s x ps).slot y = s.slot y
  | [], _ => rfl
  | p :: ps, s => (consumeAll_slot x y ps _).trans (consume_slot s x p y)

theorem consumeAll_tile (x : Nat) : ∀ (ps : List Pos) (s : State),
    { (consumeAll s x ps).tile (tileOf x) with inCnt := [] } = { s.tile (tileOf x) with inCnt := [] }
  | [], _ => rfl
  | p :: ps, s => (consumeAll_tile x ps _).trans (consume_tile s x p)

theorem taken_cons (s : State) (x : Nat) (p : Pos) (ps : List Pos) (l : Nat) :
    Sys2Proof.taken s x (p :: ps) l = if l = latchNo x p then (s.link l).q.drop 1 else Sys2Proof.taken s x ps l := by
  unfold Sys2Proof.taken
  by_cases hl : l = latchNo x p
  · simp [hl]
  · simp [hl, Ne.symm hl]

theorem taken_of_ne {s : State} {x : Nat} {ps : List Pos} {l : Nat} (h : ∀ p ∈ ps, latchNo x p ≠ l) :
    Sys2Proof.taken s x ps l = (s.link l).q := by
  unfold Sys2Proof.taken
  exact if_neg (by simpa using h)

/-- Consuming from distinct latches takes the head of each, and leaves every other link as it was. -/
theorem takes_consumeAll {x : Nat} : ∀ {ps : List Pos} (s : State), ps.Nodup → Takes s (consumeAll s x ps) x ps
  | [], s, _ => fun l => rfl
  | p :: ps, s, h => fun l => by
    obtain ⟨hp, hps⟩ := List.nodup_cons.mp h
    rw [consumeAll, takes_consumeAll (consume s x p) hps l, taken_cons]
    by_cases hl : l = latchNo x p
    · have hne : ∀ q ∈ ps, latchNo x q ≠ l := fun q hq hql => hp (latchNo_inj (hql.trans hl) ▸ hq)
      rw [taken_of_ne hne, consume_q, if_pos hl, if_pos hl]
    · rw [if_neg hl]
      unfold Sys2Proof.taken
      rw [consume_q, if_neg hl]

/-! ### A firing is noted (R41, R52, R345) -/

@[simp] theorem noteProgress_slot (s : State) (t y : Nat) : (noteProgress s t).slot y = s.slot y := by
  unfold noteProgress; dsimp only; split <;> rfl

@[simp] theorem noteProgress_link (s : State) (t l : Nat) : (noteProgress s t).link l = s.link l := by
  unfold noteProgress; dsimp only; split <;> rfl

@[simp] theorem noteProgress_tile (s : State) (t u : Nat) : (noteProgress s t).tile u = s.tile u := by
  unfold noteProgress; dsimp only; split <;> rfl

@[simp] theorem noteFiring_link (s : State) (x l : Nat) : (noteFiring s x).link l = s.link l := by
  simp [noteFiring, pmcCount]

@[simp] theorem noteFiring_slot (s : State) (x : Nat) : (noteFiring s x).slot x = { s.slot x with fired := s.now + 1 } := by
  have hn : ∀ u : State, (noteProgress u (tileOf x)).now = u.now := fun u => (Held.noteProgress u _).now
  simp [noteFiring, pmcCount, hn]

@[simp] theorem noteFiring_tile (s : State) (x : Nat) :
    (noteFiring s x).tile (tileOf x) = { s.tile (tileOf x) with begun := true } := by
  simp [noteFiring, pmcCount]

/-! ### The elements that follow R124 -/

/-- Each of them is carried out by the firing of an element, with a rule of its own on the data. -/
theorem exec_of_isPlain {i : Instr} (h : Claims.isPlain i = true) : ∃ rule, ∀ s, exec i s = element s i rule := by
  cases i <;> first
    | exact ⟨_, fun _ => rfl⟩
    | exact (Bool.false_ne_true h).elim

/-- They read L, or L and R, or all three latches, P then as data. -/
theorem operandsOf_of_isPlain {i : Instr} (h : Claims.isPlain i = true) :
    operandsOf i = [.l] ∨ operandsOf i = [.l, .r] ∨ operandsOf i = [.l, .r, .p] ∧ predicateOf i = .always := by
  cases i <;> first
    | exact .inl rfl
    | exact .inr (.inl rfl)
    | exact .inr (.inr ⟨rfl, rfl⟩)
    | exact (Bool.false_ne_true h).elim

theorem latchesRead_nodup_of_isPlain {i : Instr} (h : Claims.isPlain i = true) : (latchesRead i).Nodup := by
  unfold latchesRead
  rcases operandsOf_of_isPlain h with ho | ho | ⟨ho, hp⟩
  · rw [ho]; split <;> decide
  · rw [ho]; split <;> decide
  · rw [ho, if_pos hp]; decide

/-- Where every input holds DATA no marker case of R124 applies. -/
theorem markerPlan_data {drain : Bool} {gs : List Target} {r : List (Pos × Token)} (hr : r ≠ [])
    (hd : ∀ e ∈ r, e.2.kind = .data) : markerPlan drain gs r = none := by
  have hfind : (r.find? fun a => decide (a.2.kind = .eot) || decide (a.2.kind = .ord)) = none :=
    List.find?_eq_none.mpr fun e he => by simp [hd e he]
  have hany : (r.any fun a => decide (a.2.kind = .eos)) = false :=
    List.any_eq_false.mpr fun e he => by simp [hd e he]
  have hall : (r.all fun a => decide (a.2.kind = .eos)) = false := by
    obtain ⟨e, r, rfl⟩ := List.exists_cons_of_ne_nil hr
    simp [hd e List.mem_cons_self]
  simp [markerPlan, hfind, hany, hall]

/-- The plan of an element whose clean predicate fails: it consumes all that it reads, and no more (R48, R98). -/
theorem elementPlan_suppressed {s : State} {i : Instr} {r : List (Pos × Token)} (rule : List (Pos × Token) → Token × Flags)
    (hread : readAll s s.foc (latchesRead i) = some r) (hdata : ∀ e ∈ r, e.2.kind = .data) (hpsn : (tokenAt r .p).psn = false)
    (hfail : suppressed (predicateOf i) (tokenAt r .p).data = true) :
    elementPlan s i rule = .act { take := latchesRead i, emit := none, outs := targetsOf i, flags := Flags.none, computed := false,
                                  marker := false } := by
  have hmap := readAll_latches hread
  have hp : predicateOf i ≠ .always := fun h => by rw [h] at hfail; cases hfail
  have hne : r ≠ [] := by
    rintro rfl
    rw [latchesRead, if_neg hp] at hmap
    simp at hmap
  simp [elementPlan, hread, markerPlan_data hne hdata, hpsn, hfail, hmap]

/-- A firing that emits nothing, and that its block does not put off, consumes and is noted, and that is all. -/
theorem performPlan_silent {s : State} {i : Instr} {a : Act} (hidle : slotReady s s.foc = true) (hnow : NotDeferred s i)
    (ha : a.emit = none) : performPlan s i (.act a) = noteFiring (consumeAll s s.foc a.take) s.foc := by
  have hdefer : (hdrEager (cfgHeader (s.tile (tileOf s.foc)).cfg) && (startOf s s.foc (latchesRead i)).2 &&
      decide (31 < startDU s i + earlyDelay (classOf s s.foc) i)) = false := by
    rcases hnow with h | h | h
    · simp [h]
    · simp [h]
    · simp [Nat.not_lt.mpr h]
  unfold startDU at hdefer
  unfold performPlan
  simp only [hidle, ha, captureAct, Option.isSome_none, Bool.false_and, Bool.not_true, Bool.false_eq_true, if_false]
  rw [if_neg (by rw [hdefer]; exact Bool.false_ne_true)]

end Sys2Proof.Machine

open Sys2Proof Sys2Proof.Machine Sys2Proof.Claims

/-- Settles O8: the plan of a suppressed firing takes every input and emits nothing, and taking is all that it does. -/
theorem predicateSuppresses : Obligations.PredicateSuppresses := by
  unfold Obligations.PredicateSuppresses
  intro s i r hplain hidle hnow hread hdata hpsn hpred
  obtain ⟨rule, hexec⟩ := exec_of_isPlain hplain
  have hfail : suppressed (predicateOf i) (tokenAt r .p).data = true := by
    rcases hpred with ⟨hp, hd⟩ | ⟨hp, hd⟩
    · simp [hp, suppressed, Machine.isTrue, hd]
    · simpa [hp, suppressed, Machine.isTrue] using hd
  have ht : exec i s = .next (noteFiring (consumeAll s s.foc (latchesRead i)) s.foc) := by
    rw [hexec, element, elementPlan_suppressed rule hread hdata hpsn hfail, performPlan_silent hidle.1 hnow rfl]
  have htakes := takes_consumeAll (x := s.foc) s (latchesRead_nodup_of_isPlain hplain)
  refine ⟨_, ht, fun l => ?_, ?_, ?_, ?_⟩
  · rw [noteFiring_link]
    exact htakes l
  · simp [consumeAll_slot]
  · simp [(Held.consumeAll _ _ s).now]
  · simpa using congrArg TileSt.fresh (consumeAll_tile s.foc (latchesRead i) s)

end

section

namespace Sys2Proof.Machine

/-! ### Reading the graphs after one has been changed -/

theorem State.graph?_modGraph (s : State) (g k : Nat) {f : GraphSt → GraphSt} (hf : ∀ a, (f a).id = a.id) :
    (s.modGraph g f).graph? k = (s.graph? k).map fun a => if a.id = g then f a else a := by
  have hp : ((fun a : GraphSt => a.id == k) ∘ fun a => if a.id = g then f a else a) = fun a => a.id == k := by
    funext a
    simp only [Function.comp_apply]
    split <;> simp [hf]
  rw [State.graph?, State.modGraph, List.find?_map, hp]
  rfl

theorem GraphSt.node?_modNode (a : GraphSt) (n k : Nat) {f : Node → Node} (hf : ∀ b, (f b).id = b.id) :
    (a.modNode n f).node? k = (a.node? k).map fun b => if b.id = n then f b else b := by
  have hp : ((fun b : Node => b.id == k) ∘ fun b => if b.id = n then f b else b) = fun b => b.id == k := by
    funext b
    simp only [Function.comp_apply]
    split <;> simp [hf]
  rw [GraphSt.node?, GraphSt.modNode, List.find?_map, hp]
  rfl

@[simp] theorem Node.modSection_id (b : Node) (f : Section → Section) : (b.modSection f).id = b.id := by
  unfold Node.modSection; split <;> rfl

theorem nodeSection_modSection (b : Node) (f : Section → Section) : nodeSection (b.modSection f) = (nodeSection b).map f := by
  cases b with
  | mk id parent pos idx rcd iter st done result => cases st <;> rfl

/-! ### The part of a section that no firing changes (R36 to R39) -/

/-- A section but for its result so far and the mark of its progress. -/
def Section.fixed (c : Section) : Section := { c with result := none, progress := 0, period := 0 }

/-- The section that a tile belongs to, so far as no firing changes it. -/
def fixedSection (s : State) (t : Nat) : Option Section := (ownerSection s t).map Section.fixed

theorem State.graph?_id {s : State} {g : Nat} {a : GraphSt} (h : s.graph? g = some a) : a.id = g := by
  simpa using List.find?_some h

theorem GraphSt.node?_id {a : GraphSt} {n : Nat} {b : Node} (h : a.node? n = some b) : b.id = n := by
  simpa using List.find?_some h

/-- A change of one section is seen at its tiles alone. -/
theorem ownerSection_modSection (s : State) (g n : Nat) (f : Section → Section) (t : Nat) :
    ownerSection (s.modSection g n f) t = if (s.tile t).owner = some (g, n) then (ownerSection s t).map f else ownerSection s t := by
  unfold ownerSection State.modSection
  rw [State.modGraph_tile]
  rcases (s.tile t).owner with _ | ⟨k, m⟩
  · rfl
  · dsimp only
    rw [State.graph?_modGraph s g k (f := fun a => a.modNode n fun b => b.modSection f) (fun _ => rfl)]
    rcases hk : s.graph? k with _ | a
    · simp
    · dsimp only [Option.map_some]
      rw [State.graph?_id hk]
      by_cases hg : k = g
      · rw [if_pos hg, GraphSt.node?_modNode a n m (fun b => Node.modSection_id b f)]
        rcases hm : a.node? m with _ | b
        · simp
        · dsimp only [Option.map_some, Option.bind_some]
          rw [GraphSt.node?_id hm]
          by_cases hn : m = n
          · simp [hg, hn, nodeSection_modSection]
          · simp [hg, hn]
      · simp [hg]

theorem fixedSection_modSection {s : State} {g n : Nat} {f : Section → Section} (hf : ∀ c, (f c).fixed = c.fixed) (t : Nat) :
    fixedSection (s.modSection g n f) t = fixedSection s t := by
  unfold fixedSection
  rw [ownerSection_modSection]
  split
  · rw [Option.map_map]
    exact congrArg (Option.map · (ownerSection s t)) (funext hf)
  · rfl

theorem outside_modSection (s : State) (g n : Nat) (f : Section → Section) :
    (s.modSection g n f).graphs.map outside = s.graphs.map outside := by
  simp only [State.modSection, State.modGraph, List.map_map]
  refine List.map_congr_left fun a _ => ?_
  dsimp only [Function.comp_apply]
  split <;> rfl

/-! ### What a firing of slot x with targets among gs does at most (R40, R41, R46, R49, R122, R127, R333) -/

open Claims in
/-- It holds memory, takes identifiers for fault records alone, and where it takes none keeps to the frame of an element; of the
sections it changes progress and results. -/
structure Fires (x : Nat) (gs : List Target) (s t : State) : Prop where
  held : Held s t
  le : s.nextId ≤ t.nextId
  frame : t.nextId = s.nextId → ElementFrame s t x gs
  sections : t.nextId = s.nextId → ∀ u, fixedSection t u = fixedSection s u

open Claims in
theorem elementFrame_refl (s : State) (x : Nat) (gs : List Target) : ElementFrame s s x gs where
  quarters := rfl
  remotes := rfl
  walks := rfl
  sent := rfl
  awaits := rfl
  job := rfl
  resolves := rfl
  order := rfl
  late := rfl
  pending := List.prefix_refl _
  tiles _ _ := rfl
  own := rfl
  slots _ _ := rfl
  links _ _ _ := rfl
  fields _ := rfl
  dies _ := rfl
  graphs := rfl

theorem isResultPort_fixed (s : State) (t k : Nat) :
    isResultPort s t k = ((fixedSection s t).map fun c => decide (c.resultPort = some (t, k))).getD false := by
  unfold isResultPort fixedSection
  rcases ownerSection s t with _ | c <;> rfl

theorem facesSequencer_fixed (s : State) (t k : Nat) :
    facesSequencer s t k =
      ((fixedSection s t).map fun c => decide (c.resultPort = some (t, k)) || c.entryPorts.contains (t, k)).getD false := by
  unfold facesSequencer fixedSection
  rcases ownerSection s t with _ | c <;> rfl

/-- Configurations, owners and sections stand as they did, so far as they say where a token goes; the cycle is the same. -/
structure SameWiring (s t : State) : Prop where
  cfg : ∀ u, (t.tile u).cfg = (s.tile u).cfg
  relaxed : ∀ u, (t.tile u).relaxed = (s.tile u).relaxed
  owner : ∀ u, (t.tile u).owner = (s.tile u).owner
  sections : ∀ u, fixedSection t u = fixedSection s u
  now : t.now = s.now

namespace SameWiring

variable {s t : State} (h : SameWiring s t)
include h

theorem isResultPort (u k : Nat) : isResultPort t u k = isResultPort s u k := by
  rw [isResultPort_fixed, isResultPort_fixed, h.sections]

/-- A port leads to the link that it led to. -/
theorem portLink (u k : Nat) : portLink t u k = portLink s u k := by
  unfold Machine.portLink
  rcases facing u k with _ | ⟨v, j⟩
  · rfl
  · simp only [facesSequencer_fixed, h.sections, h.cfg, h.owner]

theorem targetLink (x : Nat) (g : Target) : targetLink t x g = targetLink s x g := by
  unfold Machine.targetLink
  rcases g with _ | ⟨c, p, m⟩ | k
  · rfl
  · rfl
  · simp only [h.isResultPort, h.portLink]

/-- A token that slot x emits arrives where it would have, as the entry that it would have been. -/
theorem arriving (x : Nat) (tok : Token) (ccyc du : Nat) (gs : List Target) (l : Nat) :
    arriving t x tok ccyc du gs l = arriving s x tok ccyc du gs l := by
  have harr : arrival t x tok ccyc du = arrival s x tok ccyc du := by
    funext g
    rcases g with _ | ⟨c, p, m⟩ | k
    · rfl
    · simp only [arrival, chainedNow, h.relaxed, h.now]
      rfl
    · simp only [arrival, h.isResultPort, h.portLink, h.now]
  unfold Sys2Proof.arriving
  rw [harr]

end SameWiring

open Claims in
/-- A tile keeps its configuration, its relaxed edges and its owner. -/
theorem elementFrame_tile {s t : State} {x : Nat} {gs : List Target} (h : ElementFrame s t x gs) (u : Nat) :
    (t.tile u).cfg = (s.tile u).cfg ∧ (t.tile u).relaxed = (s.tile u).relaxed ∧ (t.tile u).owner = (s.tile u).owner := by
  by_cases hu : u = tileOf x
  · subst hu
    have hcfg := congrArg TileSt.cfg h.own
    have hrelaxed := congrArg TileSt.relaxed h.own
    have howner := congrArg TileSt.owner h.own
    exact ⟨hcfg, hrelaxed, howner⟩
  · rw [h.tiles u hu]
    exact ⟨rfl, rfl, rfl⟩

namespace Fires

variable {x : Nat} {gs : List Target} {s t u : State}

theorem wiring (h : Fires x gs s t) (hid : t.nextId = s.nextId) : SameWiring s t where
  cfg u := (elementFrame_tile (h.frame hid) u).1
  relaxed u := (elementFrame_tile (h.frame hid) u).2.1
  owner u := (elementFrame_tile (h.frame hid) u).2.2
  sections := h.sections hid
  now := h.held.now

@[refl] theorem refl (s : State) : Fires x gs s s :=
  ⟨Held.refl s, le_refl _, fun _ => elementFrame_refl s x gs, fun _ _ => rfl⟩

@[trans] theorem trans (h : Fires x gs s t) (k : Fires x gs t u) : Fires x gs s u := by
  have hids : u.nextId = s.nextId → t.nextId = s.nextId ∧ u.nextId = t.nextId := fun hu => by
    have := h.le
    have := k.le
    omega
  refine ⟨h.held.trans k.held, h.le.trans k.le, fun hu => ?_, fun hu n => ?_⟩
  · obtain ⟨hst, htu⟩ := hids hu
    have a := h.frame hst
    have b := k.frame htu
    exact {
      quarters := b.quarters.trans a.quarters
      remotes := b.remotes.trans a.remotes
      walks := b.walks.trans a.walks
      sent := b.sent.trans a.sent
      awaits := b.awaits.trans a.awaits
      job := b.job.trans a.job
      resolves := b.resolves.trans a.resolves
      order := b.order.trans a.order
      late := b.late.trans a.late
      pending := a.pending.trans b.pending
      tiles := fun n hn => (b.tiles n hn).trans (a.tiles n hn)
      own := b.own.trans a.own
      slots := fun y hy => (b.slots y hy).trans (a.slots y hy)
      links := fun l hl hg => (b.links l hl fun g hg' => by rw [(h.wiring hst).targetLink]; exact hg g hg').trans (a.links l hl hg)
      fields := fun f => (b.fields f).trans (a.fields f)
      dies := fun d => (b.dies d).trans (a.dies d)
      graphs := b.graphs.trans a.graphs }
  · obtain ⟨hst, htu⟩ := hids hu
    exact (k.sections htu n).trans (h.sections hst n)

theorem ite {p : Prop} [Decidable p] (ht : Fires x gs s t) (hu : Fires x gs s u) : Fires x gs s (if p then t else u) := by
  split <;> assumption

theorem fold {α : Type} {f : State → α → State} : ∀ (as : List α) {s : State}, (∀ s, ∀ a ∈ as, Fires x gs s (f s a)) →
    Fires x gs s (foldState f s as)
  | [], s, _ => refl s
  | a :: as, s, hf => (hf s a List.mem_cons_self).trans (fold as fun s b hb => hf s b (List.mem_cons_of_mem _ hb))

/-- Fewer targets lead to fewer links. -/
theorem mono {gs' : List Target} (hsub : gs ⊆ gs') (h : Fires x gs s t) : Fires x gs' s t :=
  ⟨h.held, h.le, fun hid => { h.frame hid with
    links := fun l hl hg => (h.frame hid).links l hl fun g hg' => hg g (hsub hg') }, h.sections⟩

/-- What raises a fault record takes an identifier. -/
theorem of_record (h : Held s t) (hid : s.nextId < t.nextId) : Fires x gs s t :=
  ⟨h, hid.le, fun he => absurd he hid.ne', fun he => absurd he hid.ne'⟩

/-! ### The places that a firing writes -/

theorem setSlot (v : SlotSt) : Fires x gs s (s.setSlot x v) :=
  ⟨Held.setSlot _ _ _, le_refl _, fun _ => { elementFrame_refl s x gs with
    slots := fun _ hy => State.setSlot_other _ _ hy }, fun _ _ => rfl⟩

theorem setTile {v : TileSt} (hv : { v with fresh := 0, defNow := 0, ks := [], begun := false, inCnt := [], outCnt := [] } =
    { s.tile (tileOf x) with fresh := 0, defNow := 0, ks := [], begun := false, inCnt := [], outCnt := [] }) :
    Fires x gs s (s.setTile (tileOf x) v) := by
  have hframe : Claims.ElementFrame s (s.setTile (tileOf x) v) x gs := { elementFrame_refl s x gs with
    tiles := fun _ hu => State.setTile_other _ _ hu
    own := by rw [State.setTile_same]; exact hv }
  refine ⟨Held.setTile _ _ _, le_refl _, fun _ => hframe, fun _ u => ?_⟩
  unfold fixedSection ownerSection
  rw [(elementFrame_tile hframe u).2.2]
  rfl

theorem setLatch (p : Pos) (v : Link) : Fires x gs s (s.setLink (latchNo x p) v) :=
  ⟨Held.setLink _ _ _, le_refl _, fun _ => { elementFrame_refl s x gs with
    links := fun _ hl _ => State.setLink_other _ _ (hl p) }, fun _ _ => rfl⟩

theorem setTarget {g : Target} {l : Nat} (hg : g ∈ gs) (hl : Machine.targetLink s x g = some l) (v : Link) :
    Fires x gs s (s.setLink l v) :=
  ⟨Held.setLink _ _ _, le_refl _, fun _ => { elementFrame_refl s x gs with
    links := fun _ _ hk => State.setLink_other _ _ fun h => hk g hg (h ▸ hl) }, fun _ _ => rfl⟩

theorem setField {f : Nat} {v : FieldSt} (hv : { v with eosNow := [], fill := 0 } = { s.field f with eosNow := [], fill := 0 }) :
    Fires x gs s (s.setField f v) :=
  ⟨Held.setField _ _ _, le_refl _, fun _ => { elementFrame_refl s x gs with
    fields := fun k => by
      by_cases hk : k = f
      · subst hk; rw [State.setField_same]; exact hv
      · rw [State.setField_other _ _ hk] }, fun _ _ => rfl⟩

theorem setDie {d : Nat} {v : DieSt} (hv : { v with pmc := [] } = { s.die d with pmc := [] }) : Fires x gs s (s.setDie d v) :=
  ⟨Held.setDie _ _ _, le_refl _, fun _ => { elementFrame_refl s x gs with
    dies := fun k => by
      by_cases hk : k = d
      · subst hk; rw [State.setDie_same]; exact hv
      · rw [State.setDie_other _ _ hk] }, fun _ _ => rfl⟩

theorem modSection (g n : Nat) {f : Section → Section} (hf : ∀ c, (f c).fixed = c.fixed) : Fires x gs s (s.modSection g n f) :=
  ⟨Held.modSection _ _ _ _, le_refl _, fun _ => { elementFrame_refl s x gs with
    graphs := outside_modSection s g n f }, fun _ => fixedSection_modSection hf⟩

end Fires

end Sys2Proof.Machine
end

section

namespace Sys2Proof.Machine

/-! ### Records take identifiers (R330, R349, R354, R355) -/

@[simp] theorem enterFbuf_nextId (s : State) (q : Nat) (r : FRec) : (enterFbuf s q r).nextId = s.nextId := by
  unfold enterFbuf; dsimp only; split <;> rfl

@[simp] theorem postRec_nextId (s : State) (q : Nat) (r : FRec) : (postRec s q r).nextId = s.nextId + 1 := by
  unfold postRec; dsimp only
  split
  · simp
  · split <;> simp

@[simp] theorem clearGraph_nextId (s : State) (g : GraphSt) : (clearGraph s g).nextId = s.nextId := by
  unfold clearGraph
  rw [State.modGraph_nextId]
  exact foldState_ind (fun v => v.nextId = s.nextId) (fun v f => v.setField f (killField (v.field f))) (fun _ _ h => h) _ _ rfl

@[simp] theorem killGraph_nextId (s : State) (g n : Nat) : (killGraph s g n).nextId = s.nextId := by
  unfold killGraph
  split
  · rfl
  · simp [killDiscards, mapRecs, queueCompl]

/-- A fault of a tile that a graph owns takes an identifier; one of another tile does nothing (R349). -/
theorem raiseFault_nextId {s : State} {t : Nat} {r : FRec} {g : GraphSt}
    (hg : ((s.tile t).owner.bind fun o => s.graph? o.1) = some g) : (raiseFault s t r).nextId = s.nextId + 1 := by
  unfold raiseFault
  rcases ho : (s.tile t).owner with _ | ⟨gid, nid⟩
  · rw [ho] at hg; cases hg
  · rw [ho, Option.bind_some] at hg
    dsimp only at hg ⊢
    rw [hg]
    dsimp only
    split
    · split
      · simp
      · exact postRec_nextId _ _ _
    · exact postRec_nextId _ _ _

/-! ### A token leaves through a port (R39, R40, R46, R191) -/

/-- A token that leaves slot x through port k is counted towards the port's rate; an EOS frees tied buffers. -/
def countedOut (s : State) (x : Nat) (tok : Token) (k : BitVec 4) : State :=
  let t := tileOf x
  let ti := s.tile t
  let u := if countsFor (cfgPort ti.cfg k.toNat) tok.kind then
      s.setTile t { ti with outCnt := SMap.put ti.outCnt 0 k.toNat (SMap.get ti.outCnt 0 k.toNat + 1) }
    else s
  if tok.kind = .eos then bufferEos u t k.toNat else u

theorem emitTo_port (s : State) (x : Nat) (tok : Token) (cyc ccyc du : Nat) (r : Bool) (k : BitVec 4) :
    emitTo s x tok cyc ccyc du r (.port k) =
      if isResultPort (countedOut s x tok k) (tileOf x) k.toNat then
        match (s.tile (tileOf x)).owner with
        | some (g, n) =>
          if tok.kind = .data then (countedOut s x tok k).modSection g n fun c => { c with result := some tok }
          else countedOut s x tok k
        | none => countedOut s x tok k
      else
        match portLink (countedOut s x tok k) (tileOf x) k.toNat with
        | none => countedOut s x tok k
        | some (l, _) =>
          pushLink (crossFlits (countedOut s x tok k) (dieOfTile (tileOf x)) (dieOfTile (l / 192)) 1) l
            { tok := tok, cyc := cyc + Config.hopCycles * dieHops (dieOfTile (tileOf x)) (dieOfTile (l / 192)), du := 0 } r := rfl

@[simp] theorem crossFlits_nextId (s : State) (a b n : Nat) : (crossFlits s a b n).nextId = s.nextId := by
  unfold crossFlits
  refine foldState_ind (fun u => u.nextId = s.nextId) _ ?_ _ _ rfl
  exact fun _ _ h => h

namespace Fires

variable {x : Nat} {gs : List Target} {s : State}

/-! ### The shared operations of firings -/

theorem pmcCount (d e n : Nat) : Fires x gs s (pmcCount s d e n) := setDie rfl

theorem crossFlits (a b n : Nat) : Fires x gs s (crossFlits s a b n) := fold _ fun _ _ _ => pmcCount _ _ _

theorem noteProgress (t : Nat) : Fires x gs s (noteProgress s t) := by
  unfold Machine.noteProgress
  dsimp only
  split
  · exact modSection _ _ fun _ => rfl
  · exact refl s

theorem consume (p : Pos) : Fires x gs s (consume s x p) := by
  unfold Machine.consume
  dsimp only
  split
  · exact refl s
  · split
    · exact setLatch _ _
    · exact trans (setLatch _ _) (ite (setTile rfl) (refl _))

theorem consumeAll : ∀ (ps : List Pos) {s : State}, Fires x gs s (consumeAll s x ps)
  | [], s => refl s
  | p :: ps, _ => (consume p).trans (consumeAll ps)

theorem noteFiring : Fires x gs s (noteFiring s x) :=
  (((setTile (v := { s.tile (tileOf x) with begun := true }) rfl).trans (noteProgress _)).trans (pmcCount _ _ _)).trans (setSlot _)

theorem captureFlags (fl : Word) : Fires x gs s (captureFlags s (tileOf x) fl) := ite (refl s) (setTile rfl)

theorem bufferEos (t k : Nat) : Fires x gs s (bufferEos s t k) := by
  unfold Machine.bufferEos
  dsimp only
  split
  · exact setField rfl
  · exact refl s

theorem pushLink {g : Target} {l : Nat} (hg : g ∈ gs) (hl : Machine.targetLink s x g = some l) (e : Entry) (r : Bool) :
    Fires x gs s (pushLink s l e r) := setTarget hg hl _

theorem countedOut (tok : Token) (k : BitVec 4) : Fires x gs s (Machine.countedOut s x tok k) := by
  unfold Machine.countedOut
  exact ite (trans (ite (setTile (by rfl)) (refl s)) (bufferEos _ _)) (ite (setTile rfl) (refl s))

theorem emitTo {g : Target} (hg : g ∈ gs) (tok : Token) (cyc ccyc du : Nat) (r : Bool) :
    Fires x gs s (emitTo s x tok cyc ccyc du r g) := by
  rcases g with _ | ⟨c, p, m⟩ | k
  · exact refl s
  · exact ite (pushLink hg rfl _ _) (pushLink hg rfl _ _)
  · rw [emitTo_port]
    have h : Fires x gs s (Machine.countedOut s x tok k) := countedOut tok k
    generalize Machine.countedOut s x tok k = u at h ⊢
    split
    · split
      · exact ite (h.trans (modSection _ _ fun _ => rfl)) h
      · exact h
    · rename_i hres
      split
      · exact h
      · rename_i l n hl
        have hlink : Machine.targetLink u x (.port k) = some l := by
          unfold Machine.targetLink
          dsimp only
          rw [if_neg hres, hl]
          rfl
        have hc : Fires x gs u (Machine.crossFlits u (dieOfTile (tileOf x)) (dieOfTile (l / 192)) 1) := crossFlits _ _ _
        refine (h.trans hc).trans (pushLink hg ?_ _ _)
        rw [(hc.wiring (crossFlits_nextId _ _ _ _)).targetLink, hlink]

theorem emitAll (tok : Token) (cyc ccyc du : Nat) (r : Bool) : Fires x gs s (emitAll s x tok cyc ccyc du r gs) :=
  fold _ fun _ _ hg => emitTo hg _ _ _ _ _

theorem reserveAll (b : Bool) : Fires x gs s (reserveAll s x gs b) :=
  fold _ fun u g hg => by
    dsimp only
    split
    · exact refl u
    · exact setTarget hg ‹_› _

theorem captureTo (tok : Token) (cyc ccyc du : Nat) (r : Bool) : Fires x gs s (captureTo s x tok cyc ccyc du r gs) :=
  ite (ite (reserveAll _) (refl s)) (emitAll _ _ _ _ _)

theorem holdResult (k : ResKind) (tok : Token) (a : Act) (due start done run busy : Nat) :
    Fires x a.outs s (holdResult s x k tok a due start done run busy) := (reserveAll _).trans (setSlot _)

/-- A PRED-FAIL waits, or is posted and takes an identifier (R296, R342). -/
theorem postSoon (q n : Nat) (r : FRec) : Fires x gs s (postSoon s q n r) := by
  have hheld := Held.postSoon s q n r
  unfold Machine.postSoon at hheld ⊢
  split
  · exact ⟨by simpa [*] using hheld, le_refl _, fun _ => { elementFrame_refl s x gs with
      pending := List.prefix_append _ _ }, fun _ _ => rfl⟩
  · exact of_record (Held.postRec _ _ _) (by simp)

/-- An event in a field's bucket (R341, R357). -/
theorem bucketAdd_field (d n : Nat) : Fires x gs s (bucketAdd s d 2 n) := by
  unfold Machine.bucketAdd
  dsimp only
  have h : ∀ k, Fires x gs s (Machine.pmcCount (s.setField (320 * d + n) { s.field (320 * d + n) with fill := k }) d 8 1) :=
    fun k => trans (setField (by rfl)) (pmcCount _ _ _)
  exact ite ((h _).trans (postSoon _ _ _)) (h _)

/-- A fault of a firing changes nothing, or takes an identifier (R125, R179). -/
theorem firingFault (c a n : Nat) (va d : DWord) : Fires x gs s (firingFault s x c a n va d) := by
  have hheld := Held.firingFault s x c a n va d
  unfold Machine.firingFault at hheld ⊢
  dsimp only at hheld ⊢
  split
  · exact refl s
  · rename_i g hg
    refine of_record (by simpa only [hg] using hheld) (lt_of_lt_of_eq (Nat.lt_succ_self _) (Eq.symm ?_))
    exact raiseFault_nextId (g := g) (by exact hg)

/-! ### The firing of an element, an accumulation, a counter instruction, a router operator -/

theorem captureAct (i : Instr) (a : Act) (start : Nat) (v w : DWord) : Fires x a.outs s (captureAct s x i a start v w) := by
  unfold Machine.captureAct
  dsimp only
  have h : ∀ (fl : Word) (tok : Token) (c d e : Nat) (b : Bool),
      Fires x a.outs s (Machine.captureTo (Machine.captureFlags s (tileOf x) fl) x tok c d e b a.outs) :=
    fun _ _ _ _ _ _ => (captureFlags _).trans (captureTo _ _ _ _ _)
  split
  · exact refl s
  · split
    · exact (bucketAdd_field _ _).trans (holdResult _ _ _ _ _ _ _ _)
    · split
      · exact ite (holdResult _ _ _ _ _ _ _ _) (h _ _ _ _ _ _)
      · exact ite (holdResult _ _ _ _ _ _ _ _) (h _ _ _ _ _ _)

/-- A plan emits to some of these targets alone. -/
def Within (gs : List Target) : Plan → Prop
  | .act a => a.outs ⊆ gs
  | _ => True

theorem performPlan {i : Instr} {pl : Plan} (h : Within gs pl) : Fires s.foc gs s (performPlan s i pl) := by
  unfold Machine.performPlan
  dsimp only
  split
  · exact refl s
  · cases pl with
    | wait => exact refl s
    | fault c d => exact firingFault _ _ _ _ _
    | act a =>
      refine ite (refl s) (ite (trans (setTile (by rfl)) (setSlot _)) ?_)
      exact ((consumeAll _).trans noteFiring).trans ((captureAct _ _ _ _ _).mono h)

theorem within_markerPlan {drain : Bool} {r : List (Pos × Token)} {pl : Plan} (h : markerPlan drain gs r = some pl) : Within gs pl := by
  unfold markerPlan at h
  split at h
  · cases h; exact List.Subset.refl _
  · split at h
    · cases h; exact List.Subset.refl _
    · split at h
      · split at h <;> cases h
        · exact List.Subset.refl _
        · trivial
      · cases h

theorem within_elementPlan (s : State) (i : Instr) (rule : List (Pos × Token) → Token × Flags) :
    Within (targetsOf i) (elementPlan s i rule) := by
  unfold elementPlan
  dsimp only
  split
  · trivial
  · split
    · exact within_markerPlan ‹_›
    · split
      · trivial
      · split <;> exact List.Subset.refl _

theorem counterOp (i : Instr) (onEos : List KCtr → List KCtr) (rule : Token → List KCtr → (List KCtr × DWord) ⊕ (Nat × DWord))
    (psnOf : Token → Bool) : Fires s.foc (targetsOf i) s (counterOp s i onEos rule psnOf) := by
  unfold Machine.counterOp
  dsimp only
  split
  · exact refl s
  · split
    · exact refl s
    · have hfire : Fires s.foc (targetsOf i) s (Machine.noteFiring (Machine.consume s s.foc .l) s.foc) := (consume _).trans noteFiring
      split
      · refine ite (refl s) (trans ?_ (captureTo _ _ _ _ _))
        exact ite (hfire.trans (setTile (by rfl))) hfire
      · split
        · exact firingFault _ _ _ _ _
        · exact ite (refl s) (trans (hfire.trans (setTile (by rfl))) (captureTo _ _ _ _ _))

theorem accumulate (i : Instr) (addTo : Option Nat → Nat → FRes) : Fires s.foc (targetsOf i) s (accumulate s i addTo) := by
  unfold Machine.accumulate
  dsimp only
  split
  · exact refl s
  · split
    · exact refl s
    · have hfire : Fires s.foc (targetsOf i) s (Machine.noteFiring (Machine.consumeAll s s.foc [.l]) s.foc) :=
        (consumeAll _).trans noteFiring
      split
      · refine trans (hfire.trans ?_) (setSlot _)
        split
        · exact bucketAdd_field _ _
        · exact captureFlags _
      · refine ite (refl s) (ite ?_ ?_)
        · exact trans (noteFiring.trans (setSlot _)) (captureTo _ _ _ _ _)
        · exact trans (hfire.trans (setSlot _)) (captureTo _ _ _ _ _)
      · exact ite (refl s) (hfire.trans (captureTo _ _ _ _ _))

theorem accFault (i : Instr) : Fires s.foc (targetsOf i) s (accFault s i) := by
  unfold Machine.accFault
  dsimp only
  split
  · split
    · exact ((bucketAdd_field _ _).trans (setSlot _)).trans (firingFault _ _ _ _ _)
    · exact accumulate _ _
  · exact refl s

/-! ### Router operators emit to targets of their word -/

theorem within_skipPlan {h : Hold} : ∀ {p : RouterPlan}, Within gs p.1 → Within gs (skipPlan h p).1
  | (.act _, _), hp => hp
  | (.wait, _), _ => trivial
  | (.fault _ _, _), _ => trivial

theorem within_control {h : Hold} {p : Option Token} {k : Token → RouterPlan} (hk : ∀ t, Within gs (k t).1) :
    Within gs (control h p k).1 := by
  unfold control
  split
  · trivial
  · split
    · split
      · exact within_skipPlan (hk _)
      · trivial
    · exact hk _

theorem within_carryLoop (h : Hold) (look : Pos → Option Token) (home : Nat) : Within gs (carryLoop h look home gs).1 := by
  refine within_control fun t => ?_
  split
  · split
    · split
      · trivial
      · exact List.Subset.refl _
    · exact List.nil_subset _
  · exact List.Subset.refl _
  · exact List.Subset.refl _

theorem routerOp {t : State} {i : Instr} {plan : Hold → (Pos → Option Token) → RouterPlan} (hp : ∀ h look, Within gs (plan h look).1)
    (h : routerOp s i plan = .next t) : Fires s.foc gs s t := by
  have hfire := performPlan (s := s) (i := i) (hp (s.slot s.foc).hold fun p => (headAt s s.foc p).map Entry.tok)
  unfold Machine.routerOp at h
  dsimp only at h
  split at h <;> cases h
  · exact hfire.trans (setSlot _)
  · exact hfire

theorem steer {t1 t0 : Target} {t : State} (h : execSteer t1 t0 s = .next t) : Fires s.foc [t0, t1] s t := by
  refine routerOp (fun c look => ?_) h
  split
  · trivial
  · split
    · exact List.Subset.refl _
    · refine within_control fun p => ?_
      split
      · exact List.nil_subset _
      · change [if Machine.isTrue p.data then t1 else t0] ⊆ [t0, t1]
        split <;> simp

theorem merge {t1 t0 : Target} {t : State} (h : execMerge t1 t0 s = .next t) : Fires s.foc [t0, t1] s t := by
  refine routerOp (fun c look => within_control fun p => ?_) h
  split
  · exact List.Subset.refl _
  · dsimp only
    split
    · trivial
    · exact List.Subset.refl _

theorem mergeRr {t1 t0 : Target} {t : State} (h : execMergeRr t1 t0 s = .next t) : Fires s.foc [t0, t1] s t := by
  refine routerOp (fun c look => ?_) h
  dsimp only
  split
  · trivial
  · exact List.Subset.refl _

theorem carry {t1 t0 : Target} {t : State} (h : execCarry t1 t0 s = .next t) : Fires s.foc [t0, t1] s t := by
  refine routerOp (fun c look => ?_) h
  split
  · split
    · trivial
    · exact List.Subset.refl _
  · exact within_carryLoop _ _ _

theorem carryI {n : BitVec 9} {t0 : Target} {t : State} (h : execCarryI n t0 s = .next t) : Fires s.foc [t0] s t := by
  refine routerOp (fun c look => ?_) h
  split
  · exact List.Subset.refl _
  · split
    · exact within_carryLoop _ _ _
    · trivial

theorem invar {t1 t0 : Target} {t : State} (h : execInvar t1 t0 s = .next t) : Fires s.foc [t0, t1] s t := by
  refine routerOp (fun c look => ?_) h
  split
  · split
    · trivial
    · exact List.nil_subset _
  · refine within_control fun p => ?_
    split
    · split
      · exact List.Subset.refl _
      · exact List.nil_subset _
    · exact List.Subset.refl _
    · exact List.Subset.refl _

theorem gate {t1 t0 : Target} {t : State} (h : execGate t1 t0 s = .next t) : Fires s.foc [t0, t1] s t := by
  refine routerOp (fun c look => within_control fun p => ?_) h
  split
  · exact List.Subset.refl _
  · split
    · trivial
    · exact List.Subset.refl _

theorem sink {t : State} (h : execSink s = .next t) : Fires s.foc [] s t := by
  refine routerOp (fun c look => ?_) h
  split
  · trivial
  · exact List.nil_subset _

theorem sinkA {t1 t0 : Target} {t : State} (h : execSinkA t1 t0 s = .next t) : Fires s.foc [t0, t1] s t := by
  refine routerOp (fun c look => ?_) h
  split
  · trivial
  · split
    · exact List.nil_subset _
    · exact List.Subset.refl _
    · exact List.Subset.refl _

theorem ordj {t1 t0 : Target} {t : State} (h : execOrdj t1 t0 s = .next t) : Fires s.foc [t0, t1] s t := by
  refine routerOp (fun c look => ?_) h
  split
  · exact List.Subset.refl _
  · trivial

end Fires

open Claims in
/-- An element, a counter instruction, an accumulation or a router operator does no more than a firing may. -/
theorem Fires.of_exec {s t : State} {i : Instr} (hi : isElement i = true) (h : exec i s = .next t) : Fires s.foc (targetsOf i) s t := by
  by_cases hp : isPlain i = true
  · obtain ⟨rule, hexec⟩ := exec_of_isPlain hp
    rw [hexec] at h
    cases h
    exact performPlan (within_elementPlan s i rule)
  cases i
  case kset | knext | klast | kread => cases h; exact counterOp _ _ _ _
  case facc | iacc =>
    change (if _ then Host.Outcome.next _ else Host.Outcome.next _) = _ at h
    split at h <;> cases h
    · exact accFault _
    · exact accumulate _ _
  case steer => exact steer h
  case merge => exact merge h
  case mergeRr => exact mergeRr h
  case carry => exact carry h
  case carryI => exact carryI h
  case invar => exact invar h
  case gate => exact gate h
  case sink => exact sink h
  case sinkA => exact sinkA h
  case ordj => exact ordj h
  case cvtN d _ _ => cases d <;> exact absurd rfl hp
  all_goals first
    | exact absurd rfl hp
    | exact (Bool.false_ne_true hi).elim

end Sys2Proof.Machine

open Sys2Proof Sys2Proof.Machine Sys2Proof.Claims

/-- Settles O13: every row of an element is a composition of operations that each keep to what a firing may do. -/
theorem elementsKeepTheRest : Obligations.ElementsKeepTheRest := by
  unfold Obligations.ElementsKeepTheRest
  intro s t i hi h
  have hfires := Fires.of_exec hi h
  have held := hfires.held
  exact ⟨held.byte, held.poison, held.flips, held.under, held.soft, held.tags, held.cores, held.saved, held.bootst, held.keys,
    held.now, hfires.frame⟩

end

section

namespace Sys2Proof.Machine

/-! ### Where an emitted token arrives (R39, R46, R148, R161) -/

theorem ownerSection_congr {s t : State} {u : Nat} (hg : t.graphs = s.graphs) (ho : (t.tile u).owner = (s.tile u).owner) :
    ownerSection t u = ownerSection s u := by
  unfold ownerSection State.graph?
  rw [hg, ho]

theorem ownerSection_owner {s : State} {u : Nat} {c : Section} (h : ownerSection s u = some c) : ∃ o, (s.tile u).owner = some o := by
  unfold ownerSection at h
  split at h
  · cases h
  · exact ⟨_, ‹_›⟩

section
variable (s : State) (x : Nat) (tok : Token) (k : BitVec 4)

@[simp] theorem bufferEos_link (t j l : Nat) : (bufferEos s t j).link l = s.link l := by
  unfold bufferEos; dsimp only; split <;> rfl

@[simp] theorem bufferEos_slot (t j y : Nat) : (bufferEos s t j).slot y = s.slot y := by
  unfold bufferEos; dsimp only; split <;> rfl

@[simp] theorem bufferEos_tile (t j u : Nat) : (bufferEos s t j).tile u = s.tile u := by
  unfold bufferEos; dsimp only; split <;> rfl

@[simp] theorem bufferEos_graphs (t j : Nat) : (bufferEos s t j).graphs = s.graphs := by
  unfold bufferEos; dsimp only; split <;> rfl

@[simp] theorem bufferEos_nextId (t j : Nat) : (bufferEos s t j).nextId = s.nextId := by
  unfold bufferEos; dsimp only; split <;> rfl

@[simp] theorem countedOut_link (l : Nat) : (countedOut s x tok k).link l = s.link l := by
  unfold countedOut; dsimp only; split <;> split <;> simp

@[simp] theorem countedOut_slot (y : Nat) : (countedOut s x tok k).slot y = s.slot y := by
  unfold countedOut; dsimp only; split <;> split <;> simp

@[simp] theorem countedOut_graphs : (countedOut s x tok k).graphs = s.graphs := by
  unfold countedOut; dsimp only; split <;> split <;> simp

@[simp] theorem countedOut_nextId : (countedOut s x tok k).nextId = s.nextId := by
  unfold countedOut; dsimp only; split <;> split <;> simp

/-- Of the tile, only what the firing has taken of the port rates changes. -/
theorem countedOut_tile (u : Nat) : { (countedOut s x tok k).tile u with outCnt := [] } = { s.tile u with outCnt := [] } := by
  have hset : ∀ v : TileSt, { v with outCnt := [] } = { s.tile (tileOf x) with outCnt := [] } →
      { (s.setTile (tileOf x) v).tile u with outCnt := [] } = { s.tile u with outCnt := [] } := fun v hv => by
    by_cases hu : u = tileOf x
    · subst hu; rw [State.setTile_same]; exact hv
    · rw [State.setTile_other _ _ hu]
  unfold countedOut; dsimp only
  rw [show ∀ v : State, (if tok.kind = .eos then bufferEos v (tileOf x) k.toNat else v).tile u = v.tile u from
    fun v => by split <;> simp]
  split
  · exact hset _ rfl
  · rfl

@[simp] theorem crossFlits_link (a b n l : Nat) : (crossFlits s a b n).link l = s.link l := by
  unfold crossFlits
  refine foldState_ind (fun u => u.link l = s.link l) _ ?_ _ _ rfl
  exact fun _ _ h => h

@[simp] theorem crossFlits_slot (a b n y : Nat) : (crossFlits s a b n).slot y = s.slot y := by
  unfold crossFlits
  refine foldState_ind (fun u => u.slot y = s.slot y) _ ?_ _ _ rfl
  exact fun _ _ h => h

@[simp] theorem crossFlits_tile (a b n u : Nat) : (crossFlits s a b n).tile u = s.tile u := by
  unfold crossFlits
  refine foldState_ind (fun v => v.tile u = s.tile u) _ ?_ _ _ rfl
  exact fun _ _ h => h

@[simp] theorem crossFlits_graphs (a b n : Nat) : (crossFlits s a b n).graphs = s.graphs := by
  unfold crossFlits
  refine foldState_ind (fun u => u.graphs = s.graphs) _ ?_ _ _ rfl
  exact fun _ _ h => h

end

theorem pushLink_q (s : State) (l m : Nat) (e : Entry) (r : Bool) :
    ((pushLink s l e r).link m).q = (s.link m).q ++ if l = m then [e] else [] := by
  unfold pushLink
  by_cases h : l = m
  · subst h; simp
  · rw [State.setLink_other _ _ (Ne.symm h), if_neg h, List.append_nil]

theorem arriving_cons (s : State) (x : Nat) (tok : Token) (ccyc du : Nat) (g : Target) (gs : List Target) (l : Nat) :
    arriving s x tok ccyc du (g :: gs) l = arriving s x tok ccyc du [g] l ++ arriving s x tok ccyc du gs l := by
  unfold arriving
  rw [← List.filterMap_append, List.singleton_append]

theorem arriving_of_arrival {s : State} {x : Nat} {tok : Token} {ccyc du : Nat} {g : Target} {a : Option (Nat × Entry)}
    (h : arrival s x tok ccyc du g = a) (l : Nat) :
    arriving s x tok ccyc du [g] l = (a.map fun b => if b.1 = l then [b.2] else []).getD [] := by
  rcases a with _ | b
  · simp [arriving, h]
  · by_cases hb : b.1 = l <;> simp [arriving, h, hb]

section
variable (s : State) (x : Nat) (tok : Token) (cyc ccyc du : Nat) (r : Bool)

@[simp] theorem emitTo_nextId (g : Target) : (emitTo s x tok cyc ccyc du r g).nextId = s.nextId := by
  rcases g with _ | ⟨c, p, m⟩ | k
  · rfl
  · unfold emitTo; dsimp only; split <;> rfl
  · rw [emitTo_port]
    split
    · split
      · split
        · exact countedOut_nextId _ _ _ _
        · exact countedOut_nextId _ _ _ _
      · exact countedOut_nextId _ _ _ _
    · split
      · exact countedOut_nextId _ _ _ _
      · exact (crossFlits_nextId _ _ _ _).trans (countedOut_nextId _ _ _ _)

@[simp] theorem emitTo_slot (g : Target) (y : Nat) : (emitTo s x tok cyc ccyc du r g).slot y = s.slot y := by
  rcases g with _ | ⟨c, p, m⟩ | k
  · rfl
  · unfold emitTo; dsimp only; split <;> rfl
  · rw [emitTo_port]
    split
    · split
      · split
        · exact countedOut_slot _ _ _ _ _
        · exact countedOut_slot _ _ _ _ _
      · exact countedOut_slot _ _ _ _ _
    · split
      · exact countedOut_slot _ _ _ _ _
      · exact (crossFlits_slot _ _ _ _ _).trans (countedOut_slot _ _ _ _ _)

/-- Of the tiles, only what a firing has taken of the port rates changes. -/
theorem emitTo_tile (g : Target) (u : Nat) :
    { (emitTo s x tok cyc ccyc du r g).tile u with outCnt := [] } = { s.tile u with outCnt := [] } := by
  rcases g with _ | ⟨c, p, m⟩ | k
  · rfl
  · unfold emitTo; dsimp only; split <;> rfl
  · rw [emitTo_port]
    split
    · split
      · split
        · exact countedOut_tile _ _ _ _ _
        · exact countedOut_tile _ _ _ _ _
      · exact countedOut_tile _ _ _ _ _
    · split
      · exact countedOut_tile _ _ _ _ _
      · refine Eq.trans ?_ (countedOut_tile s x tok k u)
        exact congrArg (fun v : TileSt => { v with outCnt := [] }) (crossFlits_tile _ _ _ _ _)

theorem emitTo_now (g : Target) : (emitTo s x tok cyc ccyc du r g).now = s.now := (Held.emitTo s x tok cyc ccyc du r g).now

/-- The wiring stands while slot x emits. -/
theorem emitTo_wiring (g : Target) : SameWiring s (emitTo s x tok cyc ccyc du r g) :=
  (Fires.emitTo (gs := [g]) List.mem_cons_self tok cyc ccyc du r).wiring (emitTo_nextId s x tok cyc ccyc du r g)

theorem countedOut_wiring (k : BitVec 4) : SameWiring s (countedOut s x tok k) :=
  (Fires.countedOut (gs := []) tok k).wiring (countedOut_nextId s x tok k)

/-- A token stands at the end of the link that its target leads to. -/
theorem emitTo_q (g : Target) (l : Nat) :
    ((emitTo s x tok (s.now + 1) ccyc du r g).link l).q = (s.link l).q ++ arriving s x tok ccyc du [g] l := by
  rcases g with _ | ⟨c, p, m⟩ | k
  · rw [arriving_of_arrival (a := none) rfl]
    simp [emitTo]
  · rw [arriving_of_arrival rfl]
    unfold emitTo
    dsimp only [arrival, Option.map_some, Option.getD_some]
    split <;> exact pushLink_q _ _ _ _ _
  · have hwire := countedOut_wiring s x tok k
    rw [emitTo_port, hwire.isResultPort, hwire.portLink]
    by_cases hres : isResultPort s (tileOf x) k.toNat
    · rw [if_pos hres, arriving_of_arrival (a := none) (by simp [arrival, hres])]
      dsimp only [Option.map_none, Option.getD_none]
      rw [List.append_nil]
      split
      · split
        · exact congrArg Link.q (countedOut_link s x tok k l)
        · exact congrArg Link.q (countedOut_link s x tok k l)
      · exact congrArg Link.q (countedOut_link s x tok k l)
    · rw [if_neg hres]
      rcases hl : portLink s (tileOf x) k.toNat with _ | ⟨j, n⟩
      · rw [arriving_of_arrival (a := none) (by simp [arrival, hl])]
        simp
      · rw [arriving_of_arrival (by simp only [arrival, hl, if_neg hres]; rfl)]
        dsimp only [Option.map_some, Option.getD_some]
        rw [pushLink_q, crossFlits_link, countedOut_link]
        rfl

/-- The section's result so far (R39). -/
def sectionResult (s : State) (x : Nat) : Option (Option Token) := (ownerSection s (tileOf x)).map Section.result

theorem sectionResult_congr {s t : State} {x : Nat} (hg : t.graphs = s.graphs)
    (ho : (t.tile (tileOf x)).owner = (s.tile (tileOf x)).owner) : sectionResult t x = sectionResult s x :=
  congrArg (Option.map Section.result) (ownerSection_congr hg ho)

theorem sectionResult_countedOut (k : BitVec 4) : sectionResult (countedOut s x tok k) x = sectionResult s x :=
  sectionResult_congr (countedOut_graphs s x tok k) ((countedOut_wiring s x tok k).owner _)

/-- A DATA token on the result port is the section's result so far. -/
theorem sectionResult_emitTo {k : BitVec 4} (hres : isResultPort s (tileOf x) k.toNat = true) (hd : tok.kind = .data) :
    sectionResult (emitTo s x tok cyc ccyc du r (.port k)) x = some (some tok) := by
  have hwire := countedOut_wiring s x tok k
  rw [emitTo_port, hwire.isResultPort, if_pos hres]
  obtain ⟨c, hc⟩ : ∃ c, ownerSection s (tileOf x) = some c := by
    unfold isResultPort at hres
    split at hres
    · exact ⟨_, ‹_›⟩
    · cases hres
  obtain ⟨⟨g, n⟩, ho⟩ := ownerSection_owner hc
  rw [ho]
  dsimp only
  rw [if_pos hd]
  unfold sectionResult
  rw [ownerSection_modSection, hwire.owner, if_pos ho,
    ownerSection_congr (countedOut_graphs s x tok k) (hwire.owner _), hc]
  rfl

/-- A result that has left stays the section's result so far while the same token is emitted. -/
theorem sectionResult_emitTo_of_eq (h : sectionResult s x = some (some tok)) (g : Target) :
    sectionResult (emitTo s x tok cyc ccyc du r g) x = some (some tok) := by
  rcases g with _ | ⟨c, p, m⟩ | k
  · exact h
  · refine Eq.trans ?_ h
    refine sectionResult_congr ?_ ((emitTo_wiring _ _ _ _ _ _ _ _).owner _)
    unfold emitTo; dsimp only; split <;> rfl
  · have hcount := (sectionResult_countedOut s x tok k).trans h
    by_cases hres : isResultPort s (tileOf x) k.toNat
    · by_cases hd : tok.kind = .data
      · exact sectionResult_emitTo s x tok cyc ccyc du r hres hd
      · rw [emitTo_port, (countedOut_wiring s x tok k).isResultPort, if_pos hres]
        split
        · rw [if_neg hd]; exact hcount
        · exact hcount
    · rw [emitTo_port, (countedOut_wiring s x tok k).isResultPort, if_neg hres]
      split
      · exact hcount
      · refine Eq.trans (sectionResult_congr ?_ ?_) hcount
        · exact crossFlits_graphs _ _ _ _
        · exact congrArg TileSt.owner (crossFlits_tile _ _ _ _ _)

end

section
variable (x : Nat) (tok : Token) (ccyc du : Nat) (r : Bool)

theorem sectionResult_emitAll_of_eq (cyc : Nat) : ∀ (gs : List Target) (s : State), sectionResult s x = some (some tok) →
    sectionResult (emitAll s x tok cyc ccyc du r gs) x = some (some tok)
  | [], _, h => h
  | g :: gs, s, h => sectionResult_emitAll_of_eq cyc gs _ (sectionResult_emitTo_of_eq s x tok cyc ccyc du r h g)

/-- What slot x emits to its targets stands at the ends of their links. -/
theorem emitAll_q : ∀ (gs : List Target) (s : State) (l : Nat),
    ((emitAll s x tok (s.now + 1) ccyc du r gs).link l).q = (s.link l).q ++ arriving s x tok ccyc du gs l
  | [], s, l => (List.append_nil _).symm
  | g :: gs, s, l => by
    have ih := emitAll_q gs (emitTo s x tok (s.now + 1) ccyc du r g) l
    rw [emitTo_now, (emitTo_wiring s x tok (s.now + 1) ccyc du r g).arriving, emitTo_q] at ih
    rw [arriving_cons, ← List.append_assoc, ← ih]
    rfl

theorem sectionResult_emitAll (cyc : Nat) {k : BitVec 4} (hd : tok.kind = .data) : ∀ (gs : List Target) (s : State),
    Target.port k ∈ gs → isResultPort s (tileOf x) k.toNat = true →
      sectionResult (emitAll s x tok cyc ccyc du r gs) x = some (some tok)
  | g :: gs, s, hk, hres => by
    rcases List.mem_cons.mp hk with rfl | hk
    · exact sectionResult_emitAll_of_eq x tok ccyc du r cyc gs _ (sectionResult_emitTo s x tok cyc ccyc du r hres hd)
    · exact sectionResult_emitAll cyc hd gs (emitTo s x tok cyc ccyc du r g) hk
        (((emitTo_wiring s x tok cyc ccyc du r g).isResultPort _ _).trans hres)

theorem emitAll_tile (cyc u : Nat) : ∀ (gs : List Target) (s : State),
    { (emitAll s x tok cyc ccyc du r gs).tile u with outCnt := [] } = { s.tile u with outCnt := [] }
  | [], _ => rfl
  | g :: gs, s => (emitAll_tile cyc u gs _).trans (emitTo_tile s x tok cyc ccyc du r g u)

theorem reserveAll_q (b : Bool) (l : Nat) : ∀ (gs : List Target) (s : State), ((reserveAll s x gs b).link l).q = (s.link l).q
  | [], _ => rfl
  | g :: gs, s => by
    refine (reserveAll_q b l gs _).trans ?_
    dsimp only
    split
    · rfl
    · rename_i k _
      by_cases hk : l = k
      · subst hk; rw [State.setLink_same]
      · rw [State.setLink_other _ _ hk]

theorem reserveAll_tile (b : Bool) (u : Nat) : ∀ (gs : List Target) (s : State), (reserveAll s x gs b).tile u = s.tile u
  | [], _ => rfl
  | g :: gs, s => by
    refine (reserveAll_tile b u gs _).trans ?_
    dsimp only
    split <;> rfl

theorem taken_nil (s : State) (l : Nat) : Sys2Proof.taken s x [] l = (s.link l).q := rfl

/-- A capture delivers the token, or nothing once every port rate of the firing is met (R97). -/
theorem captures_captureTo (s : State) (gs : List Target) :
    Captures s (captureTo s x tok (s.now + 1) ccyc du r gs) x [] tok ccyc du gs := by
  unfold Captures captureTo
  by_cases hmet : (s.tile (tileOf x)).met = true
  · rw [if_pos hmet, if_pos hmet]
    intro l
    split
    · exact reserveAll_q _ _ _ _ _
    · rfl
  · rw [if_neg hmet, if_neg hmet]
    exact ⟨fun l => emitAll_q _ _ _ _ _ _ _ _, fun k hk hres hd => sectionResult_emitAll _ _ _ _ _ _ hd _ _ hk hres⟩

/-- Of the tiles, a capture changes only what the firing has taken of the port rates. -/
theorem captureTo_tile (s : State) (cyc u : Nat) (gs : List Target) :
    { (captureTo s x tok cyc ccyc du r gs).tile u with outCnt := [] } = { s.tile u with outCnt := [] } := by
  unfold captureTo
  split
  · split
    · rw [reserveAll_tile]
    · rfl
  · exact emitAll_tile _ _ _ _ _ _ _ _ _

end

end Sys2Proof.Machine
end

section

namespace Sys2Proof.Machine

/-! ### The identifier of a fault record is free (R346, R349) -/

/-- Distinct numbers that all occur in a list are no more than its entries. -/
theorem le_length_of_injOn {l : List Nat} {f : Nat → Nat} {n : Nat} (hmem : ∀ i < n, f i ∈ l)
    (hinj : Set.InjOn f (Finset.range n)) : n ≤ l.length := by
  have hsub : (Finset.range n).image f ⊆ l.toFinset := fun y hy => by
    obtain ⟨i, hi, rfl⟩ := Finset.mem_image.mp hy
    exact List.mem_toFinset.mpr (hmem i (Finset.mem_range.mp hi))
  calc n = ((Finset.range n).image f).card := by rw [Finset.card_image_of_injOn hinj, Finset.card_range]
    _ ≤ l.toFinset.card := Finset.card_le_card hsub
    _ ≤ l.length := List.toFinset_card_le l

/-- After d values that records hold, k more suffice to find one that none holds. -/
theorem freshFid_free_from (rs : List FRec) (n d : Nat) : ∀ k, d + k < 65536 → rs.length ≤ d + k →
    (∀ i < d, (n + i) % 65536 ∈ rs.map FRec.fid) → freshFid k ((n + d) % 65536) rs ∉ rs.map FRec.fid := by
  intro k
  induction k generalizing d with
  | zero =>
    intro hd hlen hmem hin
    have hall : ∀ i < d + 1, (n + i) % 65536 ∈ rs.map FRec.fid := fun i hi => by
      rcases Nat.lt_succ_iff_lt_or_eq.mp hi with h | rfl
      · exact hmem i h
      · exact hin
    have hle := le_length_of_injOn hall fun i hi j hj hij => by
      simp only [Finset.coe_range, Set.mem_Iio] at hi hj
      omega
    rw [List.length_map] at hle
    omega
  | succ k ih =>
    intro hd hlen hmem
    unfold freshFid
    split
    · rename_i hany
      have hin : (n + d) % 65536 ∈ rs.map FRec.fid := by
        obtain ⟨r, hr, he⟩ := List.any_eq_true.mp hany
        exact List.mem_map.mpr ⟨r, hr, beq_iff_eq.mp he⟩
      have h := ih (d + 1) (by omega) (by omega) fun i hi => by
        rcases Nat.lt_succ_iff_lt_or_eq.mp hi with h | rfl
        · exact hmem i h
        · exact hin
      rwa [show (n + (d + 1)) % 65536 = ((n + d) % 65536 + 1) % 65536 by omega] at h
    · rename_i hany
      intro hin
      obtain ⟨r, hr, he⟩ := List.mem_map.mp hin
      exact hany (List.any_eq_true.mpr ⟨r, hr, beq_iff_eq.mpr he⟩)

theorem freshFid_free {rs : List FRec} (h : rs.length < 65536) (n : Nat) :
    ∀ r ∈ rs, r.fid ≠ freshFid rs.length (n % 65536) rs := fun r hr he =>
  freshFid_free_from rs n 0 rs.length (by omega) (by omega) (fun i hi => absurd hi (Nat.not_lt_zero i))
    (List.mem_map.mpr ⟨r, hr, he⟩)

/-- While fewer than 65,536 records await resolution, a new one has an identifier that none of them holds. -/
theorem nextFid_free {v : QuarterSt} (h : v.records.length < 65536) (id : Nat) (src : FSrc) :
    ∀ r ∈ v.records, r.fid ≠ nextFid v id src := by
  unfold nextFid
  dsimp only
  split
  · exact freshFid_free h _
  · exact freshFid_free h _

/-! ### What raising a record leaves alone (R331, R349, R354) -/

section
variable (s : State) (q : Nat) (r : FRec)

@[simp] theorem enterFbuf_links : (enterFbuf s q r).links = s.links := by unfold enterFbuf; dsimp only; split <;> rfl
@[simp] theorem enterFbuf_slots : (enterFbuf s q r).slots = s.slots := by unfold enterFbuf; dsimp only; split <;> rfl
@[simp] theorem enterFbuf_tiles : (enterFbuf s q r).tiles = s.tiles := by unfold enterFbuf; dsimp only; split <;> rfl

theorem postRec_links : (postRec s q r).links = s.links := by
  unfold postRec; dsimp only
  split
  · simp
  · split <;> simp

theorem postRec_slots : (postRec s q r).slots = s.slots := by
  unfold postRec; dsimp only
  split
  · simp
  · split <;> simp

theorem postRec_tiles : (postRec s q r).tiles = s.tiles := by
  unfold postRec; dsimp only
  split
  · simp
  · split <;> simp

end

/-- An open containment region of tile t takes the fault codes that it contains (R354). -/
def containing (s : State) (t c : Nat) : Bool :=
  (s.field (fieldOfTile t)).ctn.opened && decide ((s.field (fieldOfTile t)).ctn.owner = jOfTile t) && isContainedCode c

/-- A fault that kills no graph is posted; only the graphs note besides that it was contained. -/
theorem raiseFault_posts {β : Type} (p : State → β) (hp : ∀ u g f, p (State.modGraph u g f) = p u) {s : State} {t : Nat} {r : FRec}
    {g : GraphSt} (hg : ((s.tile t).owner.bind fun o => s.graph? o.1) = some g)
    (hearly : containing s t r.code = true → (s.field (fieldOfTile t)).ctn.early = false) :
    p (raiseFault s t r) = p (postRec s g.lead { r with kind := if containing s t r.code then 3 else r.kind }) := by
  obtain ⟨⟨a, n⟩, ho, ha⟩ := Option.bind_eq_some_iff.mp hg
  dsimp only at ha
  unfold raiseFault
  rw [ho]
  dsimp only
  rw [ha]
  dsimp only
  by_cases hc : containing s t r.code = true
  · rw [if_pos hc]
    unfold containing at hc hearly
    rw [if_pos hc, hearly hc, if_neg Bool.false_ne_true, hp]
  · rw [if_neg hc]
    unfold containing at hc
    rw [if_neg hc]

/-- A tile's counts are no wiring. -/
theorem SameWiring.setTile {s : State} {n : Nat} {v : TileSt} (hcfg : v.cfg = (s.tile n).cfg)
    (hrelaxed : v.relaxed = (s.tile n).relaxed) (howner : v.owner = (s.tile n).owner) : SameWiring s (s.setTile n v) := by
  have h : ∀ {β : Type} (p : TileSt → β), p v = p (s.tile n) → ∀ u, p ((s.setTile n v).tile u) = p (s.tile u) := fun p hp u => by
    by_cases hu : u = n
    · subst hu; rw [State.setTile_same]; exact hp
    · rw [State.setTile_other _ _ hu]
  exact {
    cfg := h TileSt.cfg hcfg
    relaxed := h TileSt.relaxed hrelaxed
    owner := h TileSt.owner howner
    sections := fun u => congrArg (Option.map Section.fixed) (ownerSection_congr rfl (h TileSt.owner howner u))
    now := rfl }

/-! ### Overruns (R161, R164, R165) -/

theorem mem_insertSlot (e : Nat × DWord) : ∀ l, e ∈ insertSlot e l
  | [] => List.mem_singleton_self e
  | a :: as => by
    unfold insertSlot
    split
    · exact List.mem_cons_self
    · exact List.mem_cons_of_mem _ (mem_insertSlot e as)

theorem insertSlot_length (e : Nat × DWord) : ∀ l, (insertSlot e l).length = l.length + 1
  | [] => rfl
  | a :: as => by
    unfold insertSlot
    split
    · rfl
    · exact congrArg (· + 1) (insertSlot_length e as)

/-- CHST's record of the overrun of slot x, with STR for a STRICT block that is EAGER (R163). -/
def overrunRec (s : State) (x : Nat) (r : Result) : DWord :=
  chstRecord s x r ||| if Claims.strictBlock s x then 0x20000000 else 0

/-- The overrun of slot x has been counted for the closing edge of its tile. -/
def overrunNoted (s : State) (x : Nat) (r : Result) : State :=
  s.setTile (tileOf x) { s.tile (tileOf x) with
    ovrNow := insertSlot (slotNo x, overrunRec s x r) (s.tile (tileOf x)).ovrNow }

/-- The overrun has been counted, its result stays in the result latch. -/
def overrunHeld (s : State) (x : Nat) (r : Result) : State :=
  (overrunNoted s x r).setSlot x { s.slot x with result := some { r with kind := .strict } }

theorem exec_overrunCapture {s : State} {x : Nat} {r : Result} (hr : (s.slot x).result = some r) (hk : r.kind = .late)
    (hdue : r.due ≤ s.now) : exec (.overrunCapture x) s = .next (if Claims.strictBlock s x then
      heldFault (overrunHeld s x r) x r codeOverrun ((overrunRec s x r ||| chstV) &&& 0xFFFFFFFF#64)
      else deliverResult (overrunNoted s x r) x) := by
  change execOverrunCapture x s = _
  unfold execOverrunCapture
  have hnot : (decide (r.kind ≠ .late) || decide (s.now < r.due)) = false := by simp [hk, hdue]
  rw [hr]
  dsimp only
  rw [hnot]
  rfl

theorem overrunNoted_wiring (s : State) (x : Nat) (r : Result) : SameWiring s (overrunNoted s x r) :=
  SameWiring.setTile rfl rfl rfl

/-- A token that slot x captured in one state it would have captured in another of the same wiring and links. -/
theorem SameWiring.captures {s s' t : State} (h : SameWiring s s') (hl : ∀ l, s'.link l = s.link l) {x : Nat} {tok : Token}
    {ccyc du : Nat} {gs : List Target} (hmet : (s'.tile (tileOf x)).met = (s.tile (tileOf x)).met)
    (hc : Captures s' t x [] tok ccyc du gs) : Captures s t x [] tok ccyc du gs := by
  have htaken : ∀ l, Sys2Proof.taken s' x [] l = Sys2Proof.taken s x [] l := fun l => congrArg Link.q (hl l)
  unfold Captures Takes Sends at hc ⊢
  rw [hmet] at hc
  simpa only [htaken, h.arriving, h.isResultPort] using hc

theorem captureFlags_tile (s : State) (t : Nat) (fl : Word) :
    (captureFlags s t fl).tile t = { s.tile t with fresh := (s.tile t).fresh ||| fl } := by
  unfold captureFlags
  split
  · subst fl; simp
  · simp

theorem captureFlags_wiring (s : State) (t : Nat) (fl : Word) : SameWiring s (captureFlags s t fl) := by
  unfold captureFlags
  split
  · exact ⟨fun _ => rfl, fun _ => rfl, fun _ => rfl, fun _ => rfl, rfl⟩
  · exact SameWiring.setTile rfl rfl rfl

@[simp] theorem captureFlags_link (s : State) (t l : Nat) (fl : Word) : (captureFlags s t fl).link l = s.link l := by
  unfold captureFlags; split <;> rfl

/-- Delivering a result captures its flags and its token, and empties the result latch. -/
theorem deliverResult_eq {s : State} {x : Nat} {r : Result} (hr : (s.slot x).result = some r) :
    ∃ v : SlotSt, deliverResult s x =
      (captureTo (captureFlags s (tileOf x) r.flags) x r.tok (s.now + 1) (s.now + 1) 0 true r.tgts).setSlot x { v with result := none } := by
  have hnow := (captureFlags_wiring s (tileOf x) r.flags).now
  unfold deliverResult
  rw [hr]
  dsimp only
  rw [hnow]
  exact ⟨_, rfl⟩

open Claims in
theorem delivered_deliverResult {s : State} {x : Nat} {r : Result} (hr : (s.slot x).result = some r) :
    Delivered s (deliverResult s x) x r := by
  have hbytes := (Held.deliverResult s x).byte
  obtain ⟨v, he⟩ := deliverResult_eq hr
  have hwire := captureFlags_wiring s (tileOf x) r.flags
  have hcap := captures_captureTo x r.tok (s.now + 1) 0 true (captureFlags s (tileOf x) r.flags) r.tgts
  have htile := captureTo_tile x r.tok (s.now + 1) 0 true (captureFlags s (tileOf x) r.flags) (s.now + 1) (tileOf x) r.tgts
  rw [hwire.now] at hcap
  rw [captureFlags_tile] at htile
  have hmet : ((captureFlags s (tileOf x) r.flags).tile (tileOf x)).met = (s.tile (tileOf x)).met := by rw [captureFlags_tile]
  rw [he] at hbytes ⊢
  exact {
    result := by rw [State.setSlot_same]
    sends := hwire.captures (captureFlags_link s (tileOf x) · r.flags) hmet hcap
    flags := congrArg TileSt.fresh htile
    bytes := hbytes }

/-- What a delivery leaves of its tile's overruns noted in this cycle. -/
theorem deliverResult_ovrNow (s : State) (x : Nat) :
    ((deliverResult s x).tile (tileOf x)).ovrNow = (s.tile (tileOf x)).ovrNow := by
  rcases hr : (s.slot x).result with _ | r
  · unfold deliverResult; rw [hr]
  · obtain ⟨v, he⟩ := deliverResult_eq hr
    have htile := captureTo_tile x r.tok (s.now + 1) 0 true (captureFlags s (tileOf x) r.flags) (s.now + 1) (tileOf x) r.tgts
    rw [captureFlags_tile] at htile
    have hovr := congrArg TileSt.ovrNow htile
    rw [he]
    exact hovr

end Sys2Proof.Machine
end

section

namespace Sys2Proof.Machine

/-! ### A result that a STRICT block holds (R165, R346, R354) -/

theorem cfgHeader_extract (cfg : List Word) : ((cfg.head?).getD 0).extractLsb' 0 16 = (cfgHeader cfg).setWidth 16 := by
  rw [cfgHeader, ← List.head?_eq_getElem?, BitVec.setWidth_eq_extractLsb' (by omega)]

/-- The record of a held result, before it is posted. -/
def heldRec (s : State) (x : Nat) (r : Result) (g : GraphSt) (c : Nat) (d : DWord) : FRec :=
  { tileRec s (tileOf x) g with
    code := c, unit := 0xF, slot := slotNo x, ks := r.ks, detail := d, stamp := slotStamp s x, src := .held x,
    kind := if containing s (tileOf x) c then 3 else 0 }

/-- The slot of a held result withholds on the next identifier. -/
def withheldSlot (s : State) (x : Nat) : State := s.setSlot x { s.slot x with wh := some s.nextId }

open Claims in
/-- A held result that kills no graph has its record posted. -/
theorem heldFault_posts {β : Type} (p : State → β) (hp : ∀ u g f, p (State.modGraph u g f) = p u) {s : State} {x : Nat} {r : Result}
    {g : GraphSt} {c : Nat} {d : DWord} (hw : Withholdable s x g c) :
    p (heldFault s x r c d) = p (postRec (withheldSlot s x) g.lead (heldRec s x r g c d)) := by
  have hraise : heldFault s x r c d = raiseFault (withheldSlot s x) (tileOf x)
      { tileRec s (tileOf x) g with
        code := c, unit := 0xF, slot := slotNo x, ks := r.ks, detail := d, stamp := slotStamp s x, src := .held x } := by
    unfold heldFault
    dsimp only
    rw [hw.own]
    rfl
  rw [hraise]
  refine (raiseFault_posts p hp (s := withheldSlot s x) (g := g) hw.own ?_).trans rfl
  · intro hc
    change containing s (tileOf x) c = true at hc
    simp only [containing, Bool.and_eq_true, decide_eq_true_eq] at hc
    exact hw.late hc.2 hc.1.1 hc.1.2

theorem containing_iff (s : State) (x c : Nat) : containing s (tileOf x) c = true ↔
    (s.field (fieldOf x)).ctn.opened = true ∧ (s.field (fieldOf x)).ctn.owner = jOfTile (tileOf x) ∧ isContainedCode c = true := by
  simp [containing, fieldOf, and_assoc]

open Claims in
theorem withholdable_overrunHeld {s : State} {x : Nat} (r : Result) {g : GraphSt} {c : Nat} (hw : Withholdable s x g c) :
    Withholdable (overrunHeld s x r) x g c where
  own := by
    have howner : ((overrunHeld s x r).tile (tileOf x)).owner = (s.tile (tileOf x)).owner := (overrunNoted_wiring s x r).owner _
    rw [howner]
    exact hw.own
  room := hw.room
  few := hw.few
  late := hw.late

open Claims in
/-- An overrun that is held withholds its slot on the record of OVERRUN. -/
theorem holdsOverrun_heldFault {s : State} {x : Nat} {r : Result} {g : GraphSt} {c : DWord} (hw : Withholdable s x g codeOverrun) :
    HoldsOverrun s (heldFault (overrunHeld s x r) x r codeOverrun (c &&& 0xFFFFFFFF#64)) x r g c := by
  have hw' := withholdable_overrunHeld r hw
  set a := heldRec (overrunHeld s x r) x r g codeOverrun (c &&& 0xFFFFFFFF#64)
  set w := withheldSlot (overrunHeld s x r) x
  have hposts : ∀ {β : Type} (p : State → β), (∀ u g f, p (State.modGraph u g f) = p u) →
      p (heldFault (overrunHeld s x r) x r codeOverrun (c &&& 0xFFFFFFFF#64)) = p (postRec w g.lead a) :=
    fun p hp => heldFault_posts p hp hw'
  have hslot := (hposts (·.slot x) fun _ _ _ => rfl).trans
    ((congrArg (SMap.get · SlotSt.reset x) (postRec_slots w g.lead a)).trans (State.setSlot_same _ _ _))
  have hroom : (insertNew w.now (postedRec w g.lead a) (w.quarter g.lead).fbuf).length ≤ 1024 := by
    rw [insertNew_length]
    exact hw.room
  have hblk : (((overrunHeld s x r).tile (tileOf x)).cfg.head?.getD 0).extractLsb' 0 16 =
      (cfgHeader (s.tile (tileOf x)).cfg).setWidth 16 := by
    have hcfg : ((overrunHeld s x r).tile (tileOf x)).cfg = (s.tile (tileOf x)).cfg := (overrunNoted_wiring s x r).cfg _
    rw [hcfg, cfgHeader_extract]
  exact {
    result := by rw [hslot]; exact congrArg SlotSt.result (State.setSlot_same _ _ _)
    withheld := by rw [hslot]; rfl
    links := (hposts State.links fun _ _ _ => rfl).trans (postRec_links _ _ _)
    record := ⟨_, (hposts (fun v => (v.quarter g.lead).fbuf) fun _ _ _ => rfl).trans (postRec_room w g.lead a hroom).1, rfl, rfl,
      if_congr (containing_iff s x codeOverrun) rfl rfl, rfl, rfl, rfl, rfl, rfl, rfl, hblk, rfl, rfl, rfl, rfl, rfl,
      nextFid_free hw.few _ _⟩ }

open Claims in
/-- Of the tiles, raising the record of a held result changes none. -/
theorem heldFault_tiles {s : State} {x : Nat} {r : Result} {g : GraphSt} {c : Nat} {d : DWord} (hw : Withholdable s x g c) :
    (heldFault s x r c d).tiles = s.tiles :=
  (heldFault_posts State.tiles (fun _ _ _ => rfl) hw).trans (postRec_tiles _ _ _)

/-- A result that is due by the clock or by its repeat is delivered. -/
theorem exec_resultDelivery {s : State} {x : Nat} {r : Result} (hr : (s.slot x).result = some r) (hdue : r.due ≤ s.now)
    (hk : r.kind = .cycles ∨ r.kind = .recheck) : exec (.resultDelivery x) s = .next (deliverResult s x) := by
  change execResultDelivery x s = _
  unfold execResultDelivery
  rw [hr]
  dsimp only
  rw [if_neg (Nat.not_lt.mpr hdue)]
  rcases hk with h | h <;> rw [h]

/-- The overrun stands among those that the closing edge of its tile records. -/
theorem overrunNoted_ovrNow (s : State) (x : Nat) (r : Result) :
    (slotNo x, overrunRec s x r) ∈ ((overrunNoted s x r).tile (tileOf x)).ovrNow ∧
      ((overrunNoted s x r).tile (tileOf x)).ovrNow.length = (s.tile (tileOf x)).ovrNow.length + 1 := by
  unfold overrunNoted
  rw [State.setTile_same]
  exact ⟨mem_insertSlot _ _, insertSlot_length _ _⟩

open Claims in
/-- An overrun that a STRICT block does not hold is counted and delivered. -/
theorem delivered_overrun {s : State} {x : Nat} {r : Result} (hr : (s.slot x).result = some r) :
    Delivered s (deliverResult (overrunNoted s x r) x) x r where
  result := (delivered_deliverResult (s := overrunNoted s x r) hr).result
  sends := (overrunNoted_wiring s x r).captures (fun _ => rfl) (by simp [overrunNoted]) (delivered_deliverResult (s := overrunNoted s x r) hr).sends
  flags := (delivered_deliverResult (s := overrunNoted s x r) hr).flags.trans (by simp [overrunNoted])
  bytes := (delivered_deliverResult (s := overrunNoted s x r) hr).bytes

end Sys2Proof.Machine

open Sys2Proof Sys2Proof.Machine Sys2Proof.Claims

/-- Settles O41: a delivery emits along the wiring of before it; an overrun is counted first, and delivered or withheld on. -/
theorem capturesAct : Obligations.CapturesAct := by
  unfold Obligations.CapturesAct
  refine ⟨fun s x d hd hdue => ?_, fun s x r hr hdue => ⟨fun hk => ?_, fun hk => ?_⟩, fun s x again i hx hi hc hr => ?_,
    fun s f m again hf hm => ?_⟩
  · change execDeferredStart x s = _
    have hstart : startDue s x = true := by simp [startDue, hd, hdue]
    unfold execDeferredStart
    rw [hstart]
    rfl
  · exact ⟨_, exec_resultDelivery hr hdue hk, delivered_deliverResult hr⟩
  · obtain ⟨hmem, hlen⟩ := overrunNoted_ovrNow s x r
    refine ⟨_, exec_overrunCapture hr hk hdue, fun hs => ?_, fun g hs hw => ?_⟩
    · have hlax : ∀ t u : State, (if strictBlock s x = true then t else u) = u := fun _ _ => if_neg (by simp [hs])
      rw [hlax, deliverResult_ovrNow]
      exact ⟨delivered_overrun hr, hmem, hlen⟩
    · have hstrict : ∀ t u : State, (if strictBlock s x = true then t else u) = t := fun _ _ => if_pos hs
      rw [hstrict]
      refine ⟨holdsOverrun_heldFault hw, ?_⟩
      have htile : (heldFault (overrunHeld s x r) x r codeOverrun ((overrunRec s x r ||| chstV) &&& 0xFFFFFFFF#64)).tile (tileOf x) =
          (overrunNoted s x r).tile (tileOf x) :=
        congrArg (SMap.get · TileSt.reset (tileOf x)) (heldFault_tiles (withholdable_overrunHeld r hw))
      rw [htile]
      exact ⟨hmem, hlen⟩
  · change execCheckerMismatch x again s = _
    unfold execCheckerMismatch
    rw [if_pos hx, hi, hr, if_pos]
    rw [Option.bind_some, Option.isSome_iff_ne_none.mpr hc]
    rfl
  · change execCheckerMismatch _ again s = _
    have hfield : (10485760 + 4 * f + m - 10485760) / 4 = f := by omega
    have hme : (10485760 + 4 * f + m - 10485760) % 4 = m := by omega
    unfold execCheckerMismatch
    rw [if_neg (by omega), hfield, hme]
    dsimp only
    rw [if_pos hf]
    rfl

end

section

namespace Sys2Proof.Machine

/-! ### The memories and the translation stand apart from the graphs (R168 to R178, R204 to R214)

What reads, writes, caches and translates changes bytes, caches, counters and cores' reservations; no graph, slot or link. -/

/-- The graphs, the slots and the links are as they were, and the cycle is the same. -/
structure Stands (s t : State) : Prop where
  graphs : t.graphs = s.graphs
  slots : t.slots = s.slots
  links : t.links = s.links
  now : t.now = s.now

namespace Stands

@[refl] theorem refl (s : State) : Stands s s := ⟨rfl, rfl, rfl, rfl⟩

@[trans] theorem trans {s t u : State} (h : Stands s t) (k : Stands t u) : Stands s u :=
  ⟨k.graphs.trans h.graphs, k.slots.trans h.slots, k.links.trans h.links, k.now.trans h.now⟩

theorem fold {α : Type} (f : State → α → State) (hf : ∀ s a, Stands s (f s a)) (as : List α) (s : State) :
    Stands s (foldState f s as) :=
  foldState_ind (Stands s) f (fun t a h => h.trans (hf t a)) as s (refl s)

theorem ite {s t u : State} {p : Prop} [Decidable p] (ht : Stands s t) (hu : Stands s u) : Stands s (if p then t else u) := by
  split <;> assumption

/-! ### The tables beside them -/

section
variable (s : State)

theorem setTile (n : Nat) (v : TileSt) : Stands s (s.setTile n v) := ⟨rfl, rfl, rfl, rfl⟩
theorem setField (n : Nat) (v : FieldSt) : Stands s (s.setField n v) := ⟨rfl, rfl, rfl, rfl⟩
theorem setDie (n : Nat) (v : DieSt) : Stands s (s.setDie n v) := ⟨rfl, rfl, rfl, rfl⟩
theorem setQuarter (n : Nat) (v : QuarterSt) : Stands s (s.setQuarter n v) := ⟨rfl, rfl, rfl, rfl⟩
theorem setBytes (a : Nat) (bs : List Byte) : Stands s (s.setBytes a bs) := ⟨rfl, rfl, rfl, rfl⟩
theorem setHome (a : Nat) (bs : List Byte) : Stands s (s.setHome a bs) := setBytes _ _ _
theorem setPoison (n : Nat) (p : Bool) : Stands s (s.setPoison n p) := by cases p <;> exact ⟨rfl, rfl, rfl, rfl⟩
theorem flips (m : SMap (List Flip)) : Stands s { s with flips := m } := ⟨rfl, rfl, rfl, rfl⟩
theorem under (m : SMap (List Byte × Bool)) : Stands s { s with under := m } := ⟨rfl, rfl, rfl, rfl⟩
theorem underLate (m : SMap (List Byte × Bool)) (b : Bool) : Stands s { s with under := m, late := b } := ⟨rfl, rfl, rfl, rfl⟩
theorem soft (m : SMap Bool) : Stands s { s with soft := m } := ⟨rfl, rfl, rfl, rfl⟩
theorem late (b : Bool) : Stands s { s with late := b } := ⟨rfl, rfl, rfl, rfl⟩
theorem nextId (n : Nat) : Stands s { s with nextId := n } := ⟨rfl, rfl, rfl, rfl⟩
theorem pending (l : List (Nat × Nat × FRec)) : Stands s { s with pending := l } := ⟨rfl, rfl, rfl, rfl⟩
theorem source (k : Nat) : Stands s { s with src := k } := ⟨rfl, rfl, rfl, rfl⟩
theorem by_ (k : BitVec 32) : Stands s (s.by k) := source _ _
theorem task (j : Nat) : Stands s (s.task j) := ⟨rfl, rfl, rfl, rfl⟩
theorem asked (q : Option Sent) (as : List Awaited) : Stands s { s with sent := q, awaits := as } := ⟨rfl, rfl, rfl, rfl⟩

theorem markAt (p : Point) (k : Nat) : Stands s (markAt s p k) := by constructor <;> simp
theorem markStamp (k : Nat) : Stands s (markStamp s k) := by constructor <;> simp

theorem pmcCount (d e n : Nat) : Stands s (pmcCount s d e n) := setDie _ _ _
theorem crossFlits (a b n : Nat) : Stands s (crossFlits s a b n) := fold _ (fun _ _ => pmcCount _ _ _ _) _ _
theorem countFlits (h u d : Nat) : Stands s (countFlits s h u d) := (crossFlits _ _ _ _).trans (crossFlits _ _ _ _)
theorem raiseCint (q b : Nat) : Stands s (raiseCint s q b) := setQuarter _ _ _
theorem mapRecs (q : Nat) (f : FRec → FRec) : Stands s (mapRecs s q f) := setQuarter _ _ _
theorem queueCompl (q : Nat) (c : Compl) : Stands s (queueCompl s q c) := setQuarter _ _ _
theorem wantPass (q : Nat) : Stands s (wantPass s q) := setQuarter _ _ _

/-! ### Records (R330, R331, R341) -/

theorem enterFbuf (q : Nat) (r : FRec) : Stands s (enterFbuf s q r) :=
  ite ((raiseCint _ _ _).trans (raiseCint _ _ _)) (raiseCint _ _ _)

theorem postRec (q : Nat) (r : FRec) : Stands s (postRec s q r) := by
  unfold Machine.postRec
  have h := ((nextId s (s.nextId + 1)).trans (markAt _ (.faults q) 2)).trans (markStamp _ (stampSource (postedRec s q r).stamp))
  dsimp only
  split
  · exact (h.trans (setQuarter _ _ _)).trans (enterFbuf _ _ _)
  · exact ite (h.trans (setQuarter _ _ _)) ((h.trans (setQuarter _ _ _)).trans (enterFbuf _ _ _))

theorem predFail (d k i n : Nat) : Stands s (predFail s d k i n) := by
  unfold Machine.predFail Machine.postSoon
  exact ite (pending _ _) (postRec _ _ _)

theorem bucketAdd (d k i : Nat) : Stands s (bucketAdd s d k i) := by
  unfold Machine.bucketAdd
  dsimp only
  have h : ∀ (u v : DieSt) (w : FieldSt), Stands s (Machine.pmcCount
      (if k = 0 then s.setDie d u else if k = 1 then s.setDie d v else s.setField (320 * d + i) w) d 8 1) :=
    fun _ _ _ => (ite (setDie _ _ _) (ite (setDie _ _ _) (setField _ _ _))).trans (pmcCount _ _ _ _)
  exact ite ((h _ _ _).trans (predFail _ _ _ _ _)) (h _ _ _)

/-! ### What is stored, and its errors (R204, R213, R214) -/

theorem noteKick (a n : Nat) : Stands s (noteKick s a n) := fold _ (fun s _ => ite (raiseCint _ _ _) (refl s)) _ _

theorem breakReservations (a n : Nat) : Stands s (breakReservations s a n) := ⟨rfl, rfl, rfl, rfl⟩

theorem storeTouch (a n : Nat) (w : Bool) : Stands s (storeTouch s a n w) :=
  (countFlits _ _ _ _).trans (fold _ (fun _ _ => markAt _ _ _) _ _)

theorem softScrub (a n : Nat) : Stands s (softScrub s a n) :=
  ite (refl s) (fold _ (fun s _ => ite (refl s) ((soft s _).trans (bucketAdd _ _ _ _))) _ _)

theorem softWrite (a n : Nat) : Stands s (softWrite s a n) := ite (refl s) ((softScrub _ _ _).trans (soft _ _))

theorem storeRead (a n : Nat) (e : Ecc) : Stands s (storeRead s a n e).1 :=
  ((storeTouch _ _ _ _).trans (softScrub _ _ _)).trans (ite (bucketAdd _ _ _ _) (refl _))

theorem keepUnder (k : Nat) : Stands s (keepUnder s k) := ite (refl s) (under _ _)

theorem uncover (k : Nat) : Stands s (uncover s k) := by
  unfold Machine.uncover
  split
  · exact refl s
  · exact ((under _ _).trans (setBytes _ _ _)).trans (setPoison _ _ _)

theorem beneath (g : Nat × Nat) (k : Nat → Bool) {act : State → State} (h : ∀ u, Stands u (act u)) : Stands s (beneath s g k act) :=
  ((fold _ (fun _ _ => uncover _ _) _ _).trans (h _)).trans
    (fold _ (fun _ _ => ite (refl _) (((keepUnder _ _).trans (setBytes _ _ _)).trans (setPoison _ _ _))) _ _)

theorem flipData (g : Nat) (e : Flip) : Stands s (flipData g s e) := by
  unfold Machine.flipData
  split
  · exact setBytes _ _ _
  · exact refl s

theorem scrubGranule (g : Nat × Nat) : Stands s (scrubGranule s g) := by
  unfold Machine.scrubGranule
  dsimp only
  refine ite (refl s) (ite ?_ ?_)
  · exact ((flips _ _).trans (fold _ (fun _ _ => flipData _ _ _) _ _)).trans (fold _ (fun _ _ => setPoison _ _ _) _ _)
  · exact ((flips _ _).trans (fold _ (fun _ _ => flipData _ _ _) _ _)).trans (bucketAdd _ _ _ _)

theorem decodeGranule (g : Nat × Nat) (k : Nat → Bool) : Stands s (decodeGranule s g k) :=
  ite (refl s) (beneath s g k fun _ => scrubGranule _ _)

theorem encodeGranule (g : Nat × Nat) (w k : Nat → Bool) : Stands s (encodeGranule s g w k) :=
  ite (refl s) (beneath s g _ fun u => ((ite (refl u) (scrubGranule _ _)).trans (flips _ _)).trans
    (fold _ (fun _ _ => setPoison _ _ _) _ _))

theorem settleFlag (n : Nat) : Stands s (settleFlag s n) :=
  ite (refl s) (ite (refl s) ((flips _ _).trans (setPoison _ _ _)))

theorem fetchSector (a : Nat) : Stands s (fetchSector s a) := (decodeGranule _ _ _).trans (settleFlag _ _)

theorem prepareWrite (a n : Nat) : Stands s (prepareWrite s a n) :=
  ite (refl s) (fold _ (fun _ _ => encodeGranule _ _ _ _) _ _)

theorem homeReady (a n : Nat) : Stands s (homeReady s a n) :=
  ite ((ite (refl s) (prepareWrite _ _ _)).trans (setDie _ _ _)) (softWrite _ _ _)

theorem homeWrite (a : Nat) (bs : List Byte) (p : Bool) : Stands s (homeWrite s a bs p) := by
  unfold Machine.homeWrite
  dsimp only
  refine trans (trans ?_ (breakReservations _ _ _)) (noteKick _ _ _)
  have h := (homeReady s a bs.length).trans (setHome _ a bs)
  refine ite (trans h (fold _ (fun s _ => ?_) _ _)) h
  exact ite (setPoison _ _ _) (ite (setPoison _ _ _) (refl s))

/-! ### The second-level cache (R209 to R212) -/

theorem l2WriteBack (l : L2Line) : Stands s (l2WriteBack s l) := by
  unfold Machine.l2WriteBack
  exact (fold _ (fun _ _ => uncover _ _) _ _).trans ((fold _ (fun _ _ => encodeGranule _ _ _ _) _ _).trans
    (underLate _ _ _))

theorem l2Line (b : Nat) (v d : List Nat) (e c : Bool) : Stands s (l2Line s b v d e c) := by
  unfold Machine.l2Line
  dsimp only
  split
  · exact setDie _ _ _
  · exact (fold _ (fun _ _ => l2WriteBack _ _) _ _).trans (setDie _ _ _)

theorem l2Count (a : Nat) (h : Bool) : Stands s (l2Count s a h) := by
  unfold Machine.l2Count
  dsimp only
  generalize windowOf _ _ = w
  cases w <;> cases h
  · exact pmcCount _ _ _ _
  · exact refl s
  · exact (setDie _ _ _).trans (pmcCount _ _ _ _)
  · exact setDie _ _ _

theorem l2Request (a : Nat) (ls : List (Nat × List Nat)) (w e : Bool) : Stands s (l2Request s a ls w e) :=
  ite (refl s) ((late s (s.late || pageBusy s a)).trans (((((markAt _ _ _).trans (countFlits _ _ _ _)).trans (l2Count _ _ _)).trans
    (fold _ (fun _ _ => fetchSector _ _) _ _)).trans (fold _ (fun _ _ => l2Line _ _ _ _ _ _) _ _)))

theorem l2Touch (a : Nat) (l : List Nat) (w e : Bool) : Stands s (l2Touch s a l w e) := l2Request _ _ _ _ _

theorem l2Read (a n : Nat) (w e : Bool) : Stands s (l2Read s a n w e) := fold _ (fun s _ => ite (l2Touch _ _ _ _ _) (refl s)) _ _

theorem asCache {f : Nat} {go : State → State} (h : ∀ u, Stands u (go u)) : Stands s (asCache s f go) :=
  ((source s _).trans (h _)).trans (source _ _)

/-! ### The field's cache and its combining buffer (R205 to R208, R241) -/

theorem writeBackSector (b k : Nat) (bs : List (Nat × CByte)) : Stands s (writeBackSector s b k bs) :=
  ite (homeWrite _ _ _ _) (fold _ (fun _ _ => homeWrite _ _ _ _) _ _)

theorem writeBackLine (f g : Nat) (sel : Nat → Bool) (d : Bool) : Stands s (writeBackLine s f g sel d) := by
  unfold Machine.writeBackLine
  dsimp only
  split
  · exact refl s
  · refine ite (refl s) ?_
    exact ((asCache s fun _ => l2Touch _ _ _ _ _).trans (fold _ (fun _ _ => writeBackSector _ _ _ _) _ _)).trans (setField _ _ _)

theorem writeBackAll (f : Nat) (sel : Nat → Bool) (d : Bool) : Stands s (writeBackAll s f sel d) :=
  fold _ (fun _ _ => writeBackLine _ _ _ _ _) _ _

theorem performRcb (e : RcbEntry) : Stands s (performRcb s e) := (l2Touch _ _ _ _ _).trans (homeWrite _ _ _ _)

theorem performRcbs (f : Nat) (sel : RcbEntry → Bool) : Stands s (performRcbs s f sel) :=
  (setField _ _ _).trans (asCache _ fun u => fold Machine.performRcb performRcb _ u)

theorem releaseCache (f g : Nat) : Stands s (releaseCache s f g) :=
  ((markAt _ _ _).trans (performRcbs _ _ _)).trans (writeBackAll _ _ _ _)

/-! ### Translation (R170, R173, R176, R177) -/

theorem walkReads (q va : Nat) : Stands s (walkReads s q va) := by
  unfold Machine.walkReads
  dsimp only
  exact ite (refl s) (ite (l2Touch _ _ _ _ _) ((l2Touch _ _ _ _ _).trans (l2Touch _ _ _ _ _)))

theorem walkTables (q va : Nat) (n : Need) (c : Bool) : Stands s (walkTables s q va n c).1 := by
  unfold Machine.walkTables
  dsimp only
  have h := walkReads s q va
  split
  · exact h
  · split
    · exact h
    · rw [apply_ite Prod.fst]
      exact ite h (ite h (h.trans (homeWrite _ _ _ _)))

theorem latchInstall (l : Option (Nat × Nat)) (v : Nat) (p : BitVec 128) : Stands s (latchInstall s l v p) := by
  rcases l with _ | ⟨t, k⟩
  · exact refl s
  · exact setTile _ _ _

theorem sliceAsk (f o : Nat) : Stands s (sliceAsk s f o) := (crossFlits _ _ _ _).trans (crossFlits _ _ _ _)

theorem noteMiss (o v : Nat) : Stands s (noteMiss s o v) := ite (refl s) (pmcCount _ _ _ _)

theorem answerAhead (a : Ahead) (p : BitVec 128) : Stands s (answerAhead s a p) := ite (setTile _ _ _) (refl s)

theorem walkedAhead (q : Nat) (a : Ahead) : Stands s (walkedAhead q s a) := by
  unfold Machine.walkedAhead
  split
  · exact refl s
  · exact ite ((setField _ _ _).trans (answerAhead _ _ _)) (refl s)

theorem closeMiss (q o v : Nat) : Stands s (closeMiss s q o v) :=
  (setField _ _ _).trans (fold _ (fun _ _ => walkedAhead _ _ _) _ _)

theorem walkMiss (q va : Nat) (n : Need) (c : Bool) : Stands s (walkMiss s q va n c).1 := by
  unfold Machine.walkMiss
  dsimp only
  have h := noteMiss s (sliceOwner s q (vpnOf va)) (vpnOf va)
  refine h.trans ?_
  split
  · exact setField _ _ _
  have k := walkTables (Machine.noteMiss s (sliceOwner s q (vpnOf va)) (vpnOf va)) q va n c
  split <;> rename_i he <;> rw [he] at k
  · exact k.trans (setField _ _ _)
  · exact k.trans (closeMiss _ _ _ _)

theorem translate (f : Nat) (l : Option (Nat × Nat)) (va : Nat) (n : Need) (c : Bool) : Stands s (translate s f l va n c).1 := by
  unfold Machine.translate
  dsimp only
  split
  · exact refl s
  · split
    · exact ite (latchInstall _ _ _ _) (refl s)
    · split
      · exact (sliceAsk _ _ _).trans (ite (latchInstall _ _ _ _) (refl _))
      · have h : ∀ u, Stands s u → Stands s (Machine.walkMiss u (leadOf s (quarterOfDie (dieOfField f))) va n c).1 :=
          fun u k => k.trans (walkMiss _ _ _ _ _)
        generalize hu : (if hasMiss s _ _ = true then s else Machine.sliceAsk s f _) = u
        have k := h u (hu ▸ ite (refl s) (sliceAsk _ _ _))
        split <;> rename_i he <;> rw [he] at k
        · refine k.trans ?_
          cases c
          · exact refl _
          · exact (setField _ _ _).trans (latchInstall _ _ _ _)
        · exact k

end

theorem translateRuns (f : Nat) (l : Option (Nat × Nat)) (va : Nat) (n : Need) (c : Bool) :
    ∀ (rs : List (Nat × Nat)) (s : State), Stands s (translateRuns s f l va n c rs).1
  | [], s => refl s
  | (o, k) :: rs, s => by
    unfold Machine.translateRuns
    have h := translate s f l (va + o) n c
    split <;> rename_i he <;> rw [he] at h
    · exact h
    · exact h
    · rename_i u p
      have k := translateRuns f l va n c rs u
      split <;> rename_i hr <;> rw [hr] at k <;> exact h.trans k

/-! ### Reads of engines, of the sequencer and of queues (R178, R256, R313, R324, R413) -/

theorem countZeros (s : State) (f k : Nat) : Stands s (countZeros s f k) := setField _ _ _

theorem askRemote (s : State) (l : Nat) (p : PeerSt) (va : Nat) (r : Sent) : Stands s (askRemote s l p va r).1 := by
  unfold Machine.askRemote
  dsimp only
  split
  · split <;> exact asked _ _ _
  · split <;> exact asked _ _ _
  · rw [apply_ite Prod.fst]
    refine ite ?_ ?_ <;> split <;> exact asked _ _ _

theorem engRemote (s : State) (f va a n : Nat) (z : Bool) : Stands s (engRemote s f va a n z).1 := by
  unfold Machine.engRemote
  dsimp only
  split
  · exact refl s
  · rename_i p _
    have h := askRemote s (leadOf s (quarterOfDie (dieOfField f))) p va
      (requestTo s (leadOf s (quarterOfDie (dieOfField f))) p a (.read n))
    split <;> rename_i he <;> rw [he] at h
    · exact h
    · exact h
    · split
      · exact h
      · split
        · exact h.trans (countZeros _ _ _)
        · exact h

theorem engRun (s : State) (f va : Nat) (z : Bool) (r : Run) : Stands s (engRun s f va z r).1 := by
  obtain ⟨o, n, p, m⟩ := r
  unfold Machine.engRun
  dsimp only
  have h := storeRead s (ptePpn p * pageSize + (va + o) % pageSize) n .clean
  have l := l2Read s (ptePpn p * pageSize + (va + o) % pageSize) n false false
  split
  · exact engRemote _ _ _ _ _ _
  · split
    · exact refl s
    · split
      · exact refl s
      · split
        · split <;> rename_i he <;> rw [he] at h <;> exact h
        · split
          · exact l
          · split
            · exact l.trans (countZeros _ _ _)
            · exact l

theorem engRuns (f va : Nat) (z : Bool) : ∀ (rs : List Run) (s : State), Stands s (engRuns s f va z rs).1
  | [], s => refl s
  | r :: rs, s => by
    unfold Machine.engRuns
    have h := engRun s f va z r
    split <;> rename_i he <;> rw [he] at h
    · rename_i u bs
      have k := engRuns f va z rs u
      split <;> rename_i hr <;> rw [hr] at k <;> exact h.trans k
    · exact h

theorem engCheck (s : State) (f t va n : Nat) (need : Need) (g : Bool) : Stands s (engCheck s f t va n need g).1 := by
  unfold Machine.engCheck
  dsimp only
  have h := translateRuns f none va need false (cutAt 0x10000 va (n + 1) 0 n) s
  split <;> rename_i he <;> rw [he] at h
  · exact h
  · exact h
  · split
    · exact h
    · split
      · exact h
      · split
        · exact h
        · split <;> exact h

theorem engRead (s : State) (f t va n : Nat) (need : Need) (z : Bool) : Stands s (engRead s f t va n need z).1 := by
  unfold Machine.engRead
  have h := engCheck s f t va n need false
  split
  · rename_i he
    rw [he] at h
    exact h
  · exact (translateRuns _ _ _ _ _ _ _).trans (engRuns _ _ _ _ _)

/-- Unfolded as a function: where it is applied, comparing it with its body makes the kernel evaluate the read. -/
theorem readStored (s : State) (f t va : Nat) : Stands s (readStored s f t va).1 := by
  have hread : Machine.readStored = Machine.readStored := rfl
  conv at hread => rhs; delta Machine.readStored
  rw [congrFun (congrFun (congrFun (congrFun hread s) f) t) va]
  have h := engRead s f t va 128 Need.stored false
  generalize Machine.engRead s f t va 128 Need.stored false = x at h ⊢
  obtain ⟨u, e⟩ := x
  cases e with
  | ok a =>
    have k := engRead u f t (va + 128) 128 Need.stored false
    dsimp only
    generalize Machine.engRead u f t (va + 128) 128 Need.stored false = y at k ⊢
    obtain ⟨v, e⟩ := y
    split
    · cases e <;> exact h.trans k
    · exact h
  | wait => exact h
  | fault c a b d => exact h

theorem seqReadAt (s : State) (f va n : Nat) : Stands s (seqReadAt s f va n).1 := by
  unfold Machine.seqReadAt
  dsimp only
  have h := (by_ s (seqSource f)).trans (translateRuns f none va Need.read false (cutAt 0x10000 va (n + 1) 0 n) _)
  split <;> rename_i he <;> rw [he] at h
  · exact h
  · exact h
  · exact ((by_ s _).trans (translateRuns _ _ _ _ _ _ _)).trans (engRuns _ _ _ _ _)

theorem writeEntry (s : State) (q a : Nat) (bs : List Byte) : Stands s (writeEntry s q a bs) := by
  have h : Stands s (homeTouch s a bs.length true).1 := by
    unfold homeTouch
    split
    · exact l2Read _ _ _ _ _
    · exact storeTouch _ _ _ _
  exact ite (h.trans (homeWrite _ _ _ _)) (refl s)

theorem setLq (s : State) (q n : Nat) (l : LqSt) : Stands s (s.setLq q n l) := setQuarter _ _ _

theorem lqPush (s : State) (q n : Nat) (r : List Byte) (p : BitVec 96) : Stands s (lqPush s q n r p) := by
  unfold Machine.lqPush
  dsimp only
  refine trans (trans ?_ (setLq _ _ _ _)) (wantPass _ _)
  have h := (markAt s (.queue q n) p.toNat).trans (writeEntry _ q ((s.lq q n).entry (s.lq q n).tail.toNat) (r.take 128))
  exact trans h (ite (writeEntry _ _ _ _) (refl _))

end Stands

end Sys2Proof.Machine
end

section

namespace Sys2Proof.Machine

/-! ### Readings of the sequencer (R36, R89, R91, R196, R338, R396, R399) -/

/-- A reading computation leaves the graphs, the slots and the links alone. -/
def Rd.Stands {α : Type} (m : Rd α) : Prop := ∀ s, Machine.Stands s (runRd m s).2

namespace Rd

theorem stands_pure {α : Type} (a : α) : Rd.Stands (pure a) := fun s => .refl s
theorem stands_stop {α : Type} (e : LoadErr) : Rd.Stands (stop e : Rd α) := fun s => .refl s
theorem stands_get : Rd.Stands (get : Rd State) := fun s => .refl s

theorem stands_bind {α β : Type} {m : Rd α} {k : α → Rd β} (hm : Rd.Stands m) (hk : ∀ a, Rd.Stands (k a)) :
    Rd.Stands (m >>= k) := by
  intro s
  have h := hm s
  have hrun : runRd (m >>= k) s = (ExceptT.bindCont k (runRd m s).1 : StateM State (Except LoadErr β)) (runRd m s).2 := rfl
  rw [hrun]
  generalize runRd m s = p at h ⊢
  obtain ⟨a | a, u⟩ := p
  · exact h
  · exact h.trans (hk a u)

theorem stands_ite {α : Type} {p : Prop} [Decidable p] {m k : Rd α} (hm : Rd.Stands m) (hk : Rd.Stands k) :
    Rd.Stands (if p then m else k) := by
  split <;> assumption

theorem stands_check (c : Bool) (e : LoadErr) : Rd.Stands (check c e) := stands_ite (stands_pure _) (stands_stop _)

theorem stands_seqRead (f va n : Nat) : Rd.Stands (seqRead f va n) := by
  intro s
  have h := Stands.seqReadAt s f va n
  unfold runRd seqRead ExceptT.run ExceptT.mk
  dsimp only
  split <;> rename_i he <;> rw [he] at h <;> exact h

theorem stands_mapM {α β : Type} {k : α → Rd β} (hk : ∀ a, Rd.Stands (k a)) : ∀ as : List α, Rd.Stands (as.mapM k)
  | [] => by rw [List.mapM_nil]; exact stands_pure _
  | a :: as => by
    rw [List.mapM_cons]
    exact stands_bind (hk a) fun _ => stands_bind (stands_mapM hk as) fun _ => stands_pure _

theorem stands_orElseRd {α : Type} {m : Rd α} (d : α) (hm : Rd.Stands m) : Rd.Stands (orElseRd m d) := by
  intro s
  have h := hm s
  unfold runRd orElseRd ExceptT.mk at *
  change Machine.Stands s (match m.run s with
    | (Except.error .wait, s) => (Except.error LoadErr.wait, s)
    | (.error (.read va), s) => (.error (.read va), s)
    | (.error _, s) => (.ok d, s)
    | (.ok a, s) => (.ok a, s)).2
  generalize m.run s = p at h ⊢
  obtain ⟨e | a, u⟩ := p
  · cases e <;> exact h
  · exact h

theorem stands_readKg (f b i : Nat) : Rd.Stands (readKg f b i) := stands_seqRead _ _ _

theorem stands_readMap (f img len off leaf : Nat) : Rd.Stands (readMap f img len off leaf) := by
  unfold readMap
  refine stands_bind (stands_check _ _) fun _ => stands_bind (stands_seqRead _ _ _) fun _ =>
    stands_bind (stands_check _ _) fun _ => stands_bind (stands_seqRead _ _ _) fun _ => ?_
  dsimp only
  split
  · exact stands_stop _
  · exact stands_bind (stands_check _ _) fun _ => stands_pure _

theorem stands_readConfig (f img len off t : Nat) : Rd.Stands (readConfig f img len off t) :=
  stands_bind (stands_check _ _) fun _ => stands_bind (stands_seqRead _ _ _) fun _ => stands_bind (stands_check _ _) fun _ =>
    stands_bind (stands_seqRead _ _ _) fun _ => stands_bind (stands_check _ _) fun _ =>
      stands_bind (stands_check _ _) fun _ => stands_pure _

theorem stands_loadTile (f img len passes : Nat) (faces eps : Nat → List Nat) (e : Nat × Nat) :
    Rd.Stands (loadTile f img len passes faces eps e) := by
  unfold loadTile
  refine stands_bind (stands_readConfig _ _ _ _ _) fun _ => stands_bind stands_get fun _ => ?_
  split
  · exact stands_stop _
  · exact stands_pure _

theorem stands_peekLeaf (g : GraphSt) (r : List Byte) (m : Nat) (c : Bool) : Rd.Stands (peekLeaf g r m c) := by
  unfold peekLeaf
  refine stands_bind stands_get fun s => stands_bind (stands_readMap _ _ _ _ _) fun _ => ?_
  split
  · exact stands_pure _
  · refine stands_mapM (fun _ => ?_) _
    split
    · exact stands_bind (stands_readConfig _ _ _ _ _) fun _ => stands_pure _
    · exact stands_pure _

theorem stands_leavesUnder (g : GraphSt) (c : Bool) : ∀ (fuel : Nat) (todo : List (Nat × Nat)), Rd.Stands (leavesUnder g c fuel todo)
  | 0, _ => stands_pure _
  | _ + 1, [] => stands_pure _
  | fuel + 1, (idx, mult) :: todo => by
    unfold leavesUnder
    refine stands_bind stands_get fun s => stands_bind (stands_orElseRd _ (stands_readKg _ _ _)) fun r => ?_
    refine stands_ite (stands_leavesUnder g c fuel todo) (stands_ite ?_ (stands_ite (stands_leavesUnder g c fuel todo) ?_))
    · have hrest : ∀ own, Rd.Stands (leavesUnder g c fuel todo >>= fun rest => pure (own ++ rest)) := fun _ =>
        stands_bind (stands_leavesUnder g c fuel todo) fun _ => stands_pure _
      split
      · exact stands_bind (stands_pure _) hrest
      · exact stands_bind (stands_orElseRd _ (stands_peekLeaf _ _ _ _)) hrest
    · exact stands_leavesUnder g c fuel _

theorem stands_reaches (g : GraphSt) (h : Nat) : ∀ (fuel : Nat) (todo : List Nat), Rd.Stands (reaches g h fuel todo)
  | 0, _ => stands_pure _
  | _ + 1, [] => stands_pure _
  | fuel + 1, idx :: todo => by
    unfold reaches
    refine stands_ite (stands_pure _) (stands_bind stands_get fun s => stands_bind (stands_orElseRd _ (stands_readKg _ _ _)) fun r => ?_)
    exact stands_reaches g h fuel _

theorem stands_childWith (g : GraphSt) (h : Nat) (p : Node) : ∀ (j : Nat) (cs : List Nat), Rd.Stands (childWith g h p j cs)
  | _, [] => stands_pure _
  | j, _ :: cs => stands_bind (stands_reaches _ _ _ _) fun _ => stands_ite (stands_pure _) (stands_childWith g h p (j + 1) cs)

theorem stands_surrounding (g : GraphSt) : ∀ (fuel : Nat) (n : Node), Rd.Stands (surrounding g fuel n)
  | 0, _ => stands_pure _
  | fuel + 1, n => by
    unfold surrounding
    dsimp only
    split
    · exact stands_pure _
    · exact stands_bind (stands_surrounding g fuel _) fun _ =>
        stands_bind (stands_mapM (fun _ => stands_childWith _ _ _ _ _) _) fun _ => stands_pure _

theorem stands_readSection (g : GraphSt) (n : Node) : Rd.Stands (readSection g n) := by
  unfold readSection
  refine stands_bind stands_get fun s => stands_bind (stands_readMap _ _ _ _ _) fun m => ?_
  split
  · exact stands_stop _
  · refine stands_bind (stands_check _ _) fun _ => stands_bind (stands_surrounding _ _ _) fun p => ?_
    refine stands_bind (stands_check _ _) fun _ => stands_bind (stands_leavesUnder _ _ _ _) fun _ =>
      stands_bind (stands_leavesUnder _ _ _ _) fun _ => stands_bind (stands_check _ _) fun _ =>
      stands_bind (stands_mapM (fun _ => stands_loadTile _ _ _ _ _ _ _) _) fun _ => stands_bind stands_get fun _ => ?_
    split
    · exact stands_stop _
    · exact stands_pure _

theorem stands_iterIn (g : GraphSt) (h : Nat) : ∀ ps : List (List Byte × Nat), Rd.Stands (iterIn g h ps)
  | [] => stands_pure _
  | _ :: ps => stands_bind (stands_reaches _ _ _ _) fun _ => stands_ite (stands_pure _) (stands_iterIn g h ps)

theorem stands_readHandler (g : GraphSt) (leaf : Node) (h : Nat) : Rd.Stands (readHandler g leaf h) :=
  stands_bind stands_get fun _ => stands_bind (stands_readKg _ _ _) fun _ => stands_bind (stands_check _ _) fun _ =>
    stands_bind (stands_iterIn _ _ _) fun _ => stands_pure _

end Rd

end Sys2Proof.Machine
end

section

namespace Sys2Proof.Machine

/-! ### One graph after an operation of the sequencer (R28, R29) -/

section
variable {s : State} {g : Nat} {a : GraphSt}

theorem graph?_modGraph_same {f : GraphSt → GraphSt} (h : s.graph? g = some a) (hf : ∀ b, (f b).id = b.id := by exact fun _ => rfl) :
    (s.modGraph g f).graph? g = some (f a) := by
  rw [State.graph?_modGraph s g g hf, h, Option.map_some, State.graph?_id h, if_pos rfl]

theorem graph?_modNode (n : Nat) (f : Node → Node) (h : s.graph? g = some a) : (s.modNode g n f).graph? g = some (a.modNode n f) :=
  graph?_modGraph_same h

/-- A graph that has given one more permit. -/
def GraphSt.permitting (a : GraphSt) (b : Node) : GraphSt := { a with nodes := a.nodes ++ [b] }

theorem graph?_permit (p : Option Nat) (pos idx it : Nat) (h : s.graph? g = some a) :
    (permit s g p pos idx it).graph? g = some (a.permitting (newNode s.nextId p pos idx it)) :=
  graph?_modGraph_same h

/-- A graph without one of its nodes. -/
def GraphSt.without (a : GraphSt) (n : Nat) : GraphSt := { a with nodes := a.nodes.filter fun b => b.id ≠ n }

theorem graph?_dropNode (n : Nat) (h : s.graph? g = some a) : (dropNode s g n).graph? g = some (a.without n) :=
  graph?_modGraph_same h

end

/-! ### One node of a graph after an operation -/

theorem node?_modNode_same {a : GraphSt} {n : Nat} {b : Node} {f : Node → Node} (h : a.node? n = some b)
    (hf : ∀ b, (f b).id = b.id := by exact fun _ => rfl) :
    (a.modNode n f).node? n = some (f b) := by
  rw [GraphSt.node?_modNode a n n hf, h, Option.map_some, GraphSt.node?_id h, if_pos rfl]

theorem node?_modNode_other {a : GraphSt} {n m : Nat} {f : Node → Node} (hm : m ≠ n) (hf : ∀ b, (f b).id = b.id := by exact fun _ => rfl) :
    (a.modNode n f).node? m = a.node? m := by
  rw [GraphSt.node?_modNode a n m hf]
  rcases h : a.node? m with _ | b
  · rfl
  · rw [Option.map_some, GraphSt.node?_id h, if_neg hm]

theorem node?_without_other {a : GraphSt} {n m : Nat} (hm : m ≠ n) : (a.without n).node? m = a.node? m := by
  unfold GraphSt.node? GraphSt.without
  rw [List.find?_filter]
  refine congrArg (List.find? · a.nodes) (funext fun b => ?_)
  by_cases hb : b.id = m
  · simp [hb, hm]
  · simp [hb]

theorem node?_append {a : GraphSt} {n : Nat} {b : Node} {ns : List Node} (h : a.node? n = some b) :
    ({ a with nodes := a.nodes ++ ns } : GraphSt).node? n = some b := by
  unfold GraphSt.node? at h ⊢
  rw [List.find?_append, h]
  rfl

/-! ### No node of an identifier -/

/-- Graph g has no node n, and will be given none of that identifier. -/
def Absent (s : State) (g n : Nat) : Prop := n < s.nextId ∧ ∀ a, s.graph? g = some a → ∀ b ∈ a.nodes, b.id ≠ n

namespace Absent

variable {s : State} {g n : Nat}

theorem modGraph (h : Absent s g n) {f : GraphSt → GraphSt} (hid : ∀ b, (f b).id = b.id)
    (hf : ∀ a, ∀ b ∈ (f a).nodes, ∃ c ∈ a.nodes, c.id = b.id) : Absent (s.modGraph g f) g n := by
  refine ⟨h.1, fun a' ha' b hb => ?_⟩
  rw [State.graph?_modGraph s g g hid] at ha'
  obtain ⟨a, ha, rfl⟩ := Option.map_eq_some_iff.mp ha'
  rw [if_pos (State.graph?_id ha)] at hb
  obtain ⟨c, hc, he⟩ := hf a b hb
  exact he ▸ h.2 a ha c hc

theorem modNode (h : Absent s g n) (m : Nat) {f : Node → Node} (hf : ∀ b, (f b).id = b.id := by exact fun _ => rfl) : Absent (s.modNode g m f) g n :=
  h.modGraph (fun _ => rfl) fun a b hb => by
    obtain ⟨c, hc, rfl⟩ := List.mem_map.mp hb
    refine ⟨c, hc, ?_⟩
    split
    · exact (hf c).symm
    · rfl

theorem finishNode (h : Absent s g n) (m : Nat) (r : Option Token) : Absent (finishNode s g m r) g n := h.modNode m

theorem modSection (h : Absent s g n) (m : Nat) (f : Section → Section) : Absent (s.modSection g m f) g n :=
  h.modNode m fun b => Node.modSection_id b f

theorem dropNode (h : Absent s g n) (m : Nat) : Absent (dropNode s g m) g n :=
  h.modGraph (fun _ => rfl) fun _ b hb => ⟨b, (List.mem_filter.mp hb).1, rfl⟩

theorem permit (h : Absent s g n) (p : Option Nat) (pos idx it : Nat) : Absent (permit s g p pos idx it) g n := by
  refine ⟨Nat.lt_succ_of_lt h.1, fun a' ha' b hb => ?_⟩
  rw [show (Machine.permit s g p pos idx it).graph? g = _ from
    State.graph?_modGraph s g g (f := fun a => a.permitting (newNode s.nextId p pos idx it)) fun _ => rfl] at ha'
  obtain ⟨a, ha, rfl⟩ := Option.map_eq_some_iff.mp ha'
  rw [if_pos (State.graph?_id ha)] at hb
  rcases List.mem_append.mp hb with hb | hb
  · exact h.2 a ha b hb
  · rw [List.mem_singleton.mp hb]
    exact Nat.ne_of_gt h.1

theorem foldPermit (p : Option Nat) (idx it : Nat → Nat) : ∀ (js : List Nat) {s : State}, Absent s g n →
    Absent (foldState (fun s j => Machine.permit s g p j (idx j) (it j)) s js) g n
  | [], _, h => h
  | j :: js, _, h => foldPermit p idx it js (h.permit p j (idx j) (it j))

theorem pipeIssue (h : Absent s g n) (m : Nat) (r : List Byte) (st dn : List Nat) : Absent (pipeIssue s g m r st dn) g n :=
  foldPermit _ _ _ _ (h.modNode m)

theorem nodeOf_eq (h : Absent s g n) : Claims.nodeOf s g n = none := by
  unfold Claims.nodeOf
  rcases ha : s.graph? g with _ | a
  · rfl
  · exact List.find?_eq_none.mpr fun b hb he => h.2 a ha b hb (beq_iff_eq.mp he)

end Absent

theorem absent_dropNode {s : State} {n : Nat} (g : Nat) (hn : n < s.nextId) : Absent (dropNode s g n) g n := by
  refine ⟨hn, fun a' ha' b hb => ?_⟩
  rw [show (dropNode s g n).graph? g = _ from State.graph?_modGraph s g g (f := fun a => a.without n) fun _ => rfl] at ha'
  obtain ⟨a, ha, rfl⟩ := Option.map_eq_some_iff.mp ha'
  rw [if_pos (State.graph?_id ha)] at hb
  simpa using (List.mem_filter.mp hb).2

/-! ### What the claims say of these operations -/

open Claims

section
variable {s : State} {g : Nat} {a : GraphSt}

theorem nodeOf_of {n : Nat} {b : Node} (h : s.graph? g = some a) (hn : a.node? n = some b) : nodeOf s g n = some b := by
  unfold nodeOf
  rw [h]
  exact hn

theorem nodeOf_dropNode (n : Nat) (h : s.graph? g = some a) : nodeOf (dropNode s g n) g n = none := by
  unfold nodeOf
  rw [graph?_dropNode n h]
  exact List.find?_eq_none.mpr fun b hb he => by
    have hne := (List.mem_filter.mp hb).2
    simp only [ne_eq, decide_not, Bool.not_eq_true', decide_eq_false_iff_not] at hne
    exact hne (beq_iff_eq.mp he)

/-- A permit goes to a node of the next identifier. -/
theorem permits_permit {u : State} (hid : u.nextId = s.nextId) (p : Option Nat) (pos idx it : Nat) (h : u.graph? g = some a) :
    Permits s (permit u g p pos idx it) g p pos idx it :=
  ⟨_, graph?_permit p pos idx it h, hid ▸ List.mem_append_right _ (List.mem_singleton_self _)⟩

theorem isDone_finishNode {n : Nat} {b : Node} (r : Option Token) (h : s.graph? g = some a) (hn : a.node? n = some b) :
    IsDone (finishNode s g n r) g n r :=
  ⟨_, nodeOf_of (graph?_modNode n _ h) (node?_modNode_same hn), rfl, rfl⟩

theorem nodesFrom_of {t : State} {ns : List Node} {ids : List Nat} {ok : Node → Prop} {b : GraphSt} (h : t.graph? g = some b)
    (hb : ∀ n ∈ b.nodes, n ∈ ns ∨ n.id ∈ ids ∨ ok n) : NodesFrom t g ns ids ok := fun c hc n hn => by
  rw [h] at hc
  cases hc
  exact hb n hn

/-- The nodes of a graph after one of them changed. -/
theorem mem_modNode {n : Nat} {f : Node → Node} {m : Node} (h : m ∈ (a.modNode n f).nodes)
    (hf : ∀ b, (f b).id = b.id := by exact fun _ => rfl) :
    m ∈ a.nodes ∨ m.id = n := by
  obtain ⟨c, hc, rfl⟩ := List.mem_map.mp h
  split
  · exact .inr ((hf c).trans ‹_›)
  · exact .inl hc

/-- Permits given one after another. -/
theorem graph?_foldPermit (p : Option Nat) (idx it : Nat → Nat) : ∀ (js : List Nat) {s : State} {a : GraphSt}, s.graph? g = some a →
    ∃ ns, (foldState (fun s j => permit s g p j (idx j) (it j)) s js).graph? g = some { a with nodes := a.nodes ++ ns } ∧
      (∀ j ∈ js, ∃ id, newNode id p j (idx j) (it j) ∈ ns) ∧ ∀ n ∈ ns, ∃ j ∈ js, n = newNode n.id p j (idx j) (it j)
  | [], s, a, h => ⟨[], by rw [List.append_nil]; exact h, fun _ hj => absurd hj List.not_mem_nil, fun _ hn => absurd hn List.not_mem_nil⟩
  | j :: js, s, a, h => by
    obtain ⟨ns, hg, hall, hfrom⟩ := graph?_foldPermit p idx it js (graph?_permit p j (idx j) (it j) h)
    refine ⟨newNode s.nextId p j (idx j) (it j) :: ns, ?_, fun k hk => ?_, fun n hn => ?_⟩
    · refine hg.trans ?_
      simp [GraphSt.permitting]
    · rcases List.mem_cons.mp hk with rfl | hk
      · exact ⟨_, List.mem_cons_self⟩
      · obtain ⟨id, hid⟩ := hall k hk
        exact ⟨id, List.mem_cons_of_mem _ hid⟩
    · rcases List.mem_cons.mp hn with rfl | hn
      · exact ⟨j, List.mem_cons_self, rfl⟩
      · obtain ⟨k, hk, he⟩ := hfrom n hn
        exact ⟨k, List.mem_cons_of_mem _ hk, he⟩

end

end Sys2Proof.Machine
end

section

namespace Sys2Proof.Machine

open Claims

/-! ### The permits of a PIPE (R32) -/

/-- The stage may start its next iteration. -/
def stageMay (r : List Byte) (started done : List Nat) (j : Nat) : Bool :=
  let k := kgNch r + 1
  let st (j : Nat) : Nat := (started[j]?).getD 0
  let dn (j : Nat) : Nat := (done[j]?).getD 0
  let i := st j + 1
  decide (i ≤ kgCount r) && decide (i ≤ dn j + 1) && (decide (j = 0) || decide (i ≤ dn (j - 1))) &&
    (decide (k ≤ j + 1) || decide (i ≤ dn (j + 1) + kgDepth r (j + 1)))

theorem pipeIssue_eq (s : State) (g n : Nat) (r : List Byte) (started done : List Nat) :
    pipeIssue s g n r started done =
      foldState (fun s j => permit s g (some n) j (kgChild r j) ((started[j]?).getD 0))
        (s.modNode g n fun b => { b with
          st := .pipe ((List.range (kgNch r + 1)).map fun j =>
            if stageMay r started done j then (started[j]?).getD 0 + 1 else (started[j]?).getD 0) done })
        ((List.range (kgNch r + 1)).filter (stageMay r started done)) := rfl

/-- The stages that the model starts are those that R32 allows. -/
theorem mem_stages (r : List Byte) (started done : List Nat) (j : Nat) :
    j ∈ (List.range (kgNch r + 1)).filter (stageMay r started done) ↔
      StageMay r (fun j => (started[j]?).getD 0) (fun j => (done[j]?).getD 0) j := by
  unfold StageMay stageMay
  rw [List.mem_filter, List.mem_range, Nat.lt_succ_iff]
  simp only [Bool.and_eq_true, Bool.or_eq_true, decide_eq_true_eq]
  refine and_congr_right fun hj => ?_
  rw [and_assoc, and_assoc, ← or_iff_not_imp_left, ← not_le, ← or_iff_not_imp_left]
  refine and_congr_right fun _ => and_congr_right fun _ => and_congr_right fun _ => or_congr_left ?_
  omega

/-- A PIPE gives a permit to every stage that may start, and to no other. -/
theorem stages_pipeIssue {s : State} {g : Nat} {a : GraphSt} (n : Nat) (r : List Byte) {started done : List Nat} {st dn : Nat → Nat}
    (hst : st = fun j => (started[j]?).getD 0) (hdn : dn = fun j => (done[j]?).getD 0) (h : s.graph? g = some a) :
    (∀ j, StageMay r st dn j → ∃ b id, (pipeIssue s g n r started done).graph? g = some b ∧
        permitted id (some n) j (kgChild r j) (st j) ∈ b.nodes) ∧
      NodesFrom (pipeIssue s g n r started done) g a.nodes [n] fun m => ∃ j, StageMay r st dn j ∧
        m = permitted m.id (some n) j (kgChild r j) (st j) := by
  subst hst hdn
  rw [pipeIssue_eq]
  obtain ⟨ns, hg, hall, hfrom⟩ := graph?_foldPermit (some n) (kgChild r) (fun j => (started[j]?).getD 0)
    ((List.range (kgNch r + 1)).filter (stageMay r started done)) (graph?_modNode n (fun b => { b with
      st := .pipe ((List.range (kgNch r + 1)).map fun j =>
        if stageMay r started done j then (started[j]?).getD 0 + 1 else (started[j]?).getD 0) done }) h)
  refine ⟨fun j hj => ?_, nodesFrom_of hg fun m hm => ?_⟩
  · obtain ⟨id, hid⟩ := hall j ((mem_stages r started done j).mpr hj)
    exact ⟨_, id, hg, List.mem_append_right _ hid⟩
  · rcases List.mem_append.mp hm with hm | hm
    · rcases mem_modNode hm with hm | hm
      · exact .inl hm
      · exact .inr (.inl (List.mem_singleton.mpr hm))
    · obtain ⟨j, hj, he⟩ := hfrom m hm
      exact .inr (.inr ⟨j, (mem_stages r started done j).mp hj, he⟩)

/-! ### What a parent does on a done token (R29, R31 to R33, R35, R354) -/

theorem getElem?_setAt (l : List Nat) (p v j : Nat) : (setAt l p v)[j]? = if p = j ∧ p < l.length then some v else l[j]? := by
  induction l generalizing p j with
  | nil => simp [setAt]
  | cons x xs ih =>
    cases p with
    | zero => cases j <;> simp [setAt]
    | succ p => cases j <;> simp [setAt, ih]

/-- One more iteration of a stage is done. -/
theorem getD_setAt_succ {l : List Nat} {p : Nat} (hp : p < l.length) (j : Nat) :
    ((setAt l p ((l[p]?).getD 0 + 1))[j]?).getD 0 = (l[j]?).getD 0 + if j = p then 1 else 0 := by
  rw [getElem?_setAt]
  by_cases h : p = j
  · subst h; simp [hp]
  · simp [h, Ne.symm h]

section
variable {s : State} {a : GraphSt} {nd p : Node} (hs : s.graph? a.id = some a) (hparent : nd.parent = some p.id)
  (hne : p.id ≠ nd.id) (hp : a.node? p.id = some p)
include hs hparent hne hp

theorem parentActs_spec : ParentActs s (parentActs s a nd) a nd p := by
  have hdrop := graph?_dropNode nd.id hs
  have hpar : (a.without nd.id).node? p.id = some p := (node?_without_other hne).trans hp
  have hdone := fun r => isDone_finishNode r hdrop hpar
  unfold parentActs
  rw [hparent]
  dsimp only
  rw [hp]
  dsimp only
  refine ⟨fun child rep prev has hst => ?_, fun started done hst hlen hpos => ?_, fun left hst => ?_, fun pred hst => ?_,
    fun l c hst hl hleaf hlst hlp hln => ?_⟩
  · have hpermit := fun (f : Node → Node) pos idx => permits_permit (s := s) (u := (dropNode s a.id nd.id).modNode a.id p.id f) rfl
      (some p.id) pos idx p.iter (graph?_modNode p.id f hdrop)
    rw [hst]
    refine ⟨fun h => ?_, fun h hrep => ?_, fun h hrep => ?_⟩
    · dsimp only; rw [if_pos h]; exact hpermit _ _ _
    · dsimp only; rw [if_neg (Nat.not_lt.mpr h), if_neg hrep]; exact hpermit _ _ _
    · dsimp only; rw [if_neg (Nat.not_lt.mpr h), if_pos hrep]; exact hdone _
  · rw [hst]
    have hdn := getD_setAt_succ (l := done) (p := nd.pos) (by omega)
    dsimp only
    rw [hdn]
    refine ⟨fun h => ?_, fun h => ?_⟩
    · rw [if_pos h]; exact hdone _
    · rw [if_neg h]
      obtain ⟨hall, hfrom⟩ := stages_pipeIssue p.id p.rcd (st := fun j => (started[j]?).getD 0) rfl (funext fun j => (hdn j).symm) hdrop
      exact ⟨hall, fun b hb n hn => (hfrom b hb n hn).imp_left fun h => (List.mem_filter.mp h).1⟩
  · rw [hst]
    dsimp only
    refine ⟨fun h => ?_, fun h => ?_⟩
    · rw [if_pos h]; exact hdone _
    · rw [if_neg (Nat.not_le.mpr h)]
      exact ⟨_, nodeOf_of (graph?_modNode _ _ hdrop) (node?_modNode_same hpar), rfl, rfl⟩
  · rw [hst]; exact hdone _
  · rw [hst, hl]
    have hgone := graph?_dropNode p.id hdrop
    have hleft : ((a.without nd.id).without p.id).node? l.id = some l :=
      (node?_without_other hlp).trans ((node?_without_other hln).trans hleaf)
    have hsec := graph?_modNode l.id (fun b => b.modSection fun c => { c with
      handled := some (nd.result.getD (dataTok 0 false)) }) hgone
    have hlast := graph?_modGraph_same (f := fun b => { b with handlers := b.handlers.drop 1 }) hsec
    refine ⟨⟨_, nodeOf_of hlast (node?_modNode_same hleft fun b => Node.modSection_id b _), ?_⟩, ?_, ?_⟩
    · unfold Node.modSection
      rw [hlst]
      rfl
    · refine (congrArg (Option.bind · _) hlast).trans ?_
      exact (node?_modNode_other (Ne.symm hlp) fun b => Node.modSection_id b _).trans (by
        have h := nodeOf_dropNode p.id hdrop
        unfold nodeOf at h
        rwa [hgone] at h)
    · exact congrArg (Option.map GraphSt.handlers) hlast

omit hs hne in
/-- The child has left. -/
theorem nodeOf_parentActs (hid : nd.id < s.nextId) : nodeOf (parentActs s a nd) a.id nd.id = none := by
  have h := absent_dropNode a.id hid
  refine Absent.nodeOf_eq ?_
  unfold parentActs
  rw [hparent]
  dsimp only
  rw [hp]
  dsimp only
  split
  · split
    · exact Absent.permit (h.modNode _) _ _ _ _
    · split
      · exact h.finishNode _ _
      · exact Absent.permit (h.modNode _) _ _ _ _
  · split
    · exact h.finishNode _ _
    · exact h.pipeIssue _ _ _ _
  · split
    · exact h.finishNode _ _
    · exact h.modNode _
  · exact h.finishNode _ _
  · refine Absent.modGraph ?_ (fun _ => rfl) fun _ b hb => ⟨b, hb, rfl⟩
    split
    · exact h.dropNode _
    · exact (h.dropNode _).modSection _ _
  · exact h

end

end Sys2Proof.Machine
end

section

namespace Sys2Proof.Machine

open Claims

/-! ### What a node starts (R29 to R36) -/

/-- At its first permits a PIPE starts its first stage alone: the others wait for it. -/
theorem stages_start {r : List Byte} (hc : kgCount r ≠ 0) :
    (List.range (kgNch r + 1)).filter (stageMay r (List.replicate (kgNch r + 1) 0) (List.replicate (kgNch r + 1) 0)) = [0] := by
  have hzero : ∀ j, ((List.replicate (kgNch r + 1) 0)[j]?).getD 0 = 0 := fun j => by
    rw [List.getElem?_replicate]
    split <;> rfl
  have hdepth : ∀ j, 1 ≤ kgDepth r j := fun j => by
    unfold kgDepth
    dsimp only
    split <;> omega
  have hmay : ∀ j, stageMay r (List.replicate (kgNch r + 1) 0) (List.replicate (kgNch r + 1) 0) j = decide (j = 0) := fun j => by
    unfold stageMay
    simp only [hzero]
    have := hdepth (0 + 1)
    by_cases hj : j = 0
    · subst hj
      simp only [decide_true, Bool.true_or, Bool.and_true, Bool.and_eq_true, Bool.or_eq_true, decide_eq_true_eq]
      omega
    · simp [hj]
  rw [funext hmay, List.range_succ_eq_map]
  simp

section
variable {u : State} {a : GraphSt} {nd : Node} {r : List Byte}

/-- The node has taken its record and a state. -/
def putNode (u : State) (a : GraphSt) (nd : Node) (r : List Byte) (st : NodeSt) : State :=
  u.modNode a.id nd.id fun b => { b with rcd := r, st := st }

/-! How a node starts, by its kind. -/

theorem startNode_seq (hk : kgKind r = 0) : startNode u a nd r =
    permit (putNode u a nd r (.seq 0 0 none false)) a.id (some nd.id) 0 (kgChild r 0) nd.iter := by
  unfold startNode; rw [hk]; rfl

theorem startNode_noPipe (hk : kgKind r = 1) (hc : kgCount r = 0) : startNode u a nd r =
    finishNode (putNode u a nd r (.pipe (List.replicate (kgNch r + 1) 0) (List.replicate (kgNch r + 1) 0))) a.id nd.id none := by
  unfold startNode; rw [hk]; exact if_pos hc

theorem startNode_pipe (hk : kgKind r = 1) (hc : kgCount r ≠ 0) : startNode u a nd r =
    pipeIssue (putNode u a nd r (.pipe (List.replicate (kgNch r + 1) 0) (List.replicate (kgNch r + 1) 0))) a.id nd.id r
      (List.replicate (kgNch r + 1) 0) (List.replicate (kgNch r + 1) 0) := by
  unfold startNode; rw [hk]; exact if_neg hc

theorem startNode_strm (hk : kgKind r = 2) : startNode u a nd r =
    foldState (fun s j => permit s a.id (some nd.id) j (kgChild r j) nd.iter) (putNode u a nd r (.strm (kgNch r + 1)))
      (List.range (kgNch r + 1)) := by
  unfold startNode; rw [hk]; rfl

theorem startNode_cond (hk : kgKind r = 3) {p : Token} (hp : condPred a nd = some p) : startNode u a nd r =
    condChoose (putNode u a nd r (.cond p)) a { nd with rcd := r } p := by
  unfold startNode
  rw [hk]
  dsimp only
  rw [show condPred a { nd with rcd := r } = some p from hp]
  rfl

theorem startNode_spawn (hk : kgKind r = 4) : startNode u a nd r = putNode u a nd r .spawn := by
  unfold startNode; rw [hk]; rfl

theorem startNode_noLeaf (hk : kgKind r = 6) (hc : kgCount r = 0) : startNode u a nd r =
    finishNode (putNode u a nd r (.leaf Section.start)) a.id nd.id
      (if (kgResult r).isSome then some (dataTok 0 false) else none) := by
  unfold startNode; rw [hk]; exact if_pos hc

theorem startNode_leaf (hk : kgKind r = 6) (hc : kgCount r ≠ 0) : startNode u a nd r = putNode u a nd r (.leaf Section.start) := by
  unfold startNode; rw [hk]; exact if_neg hc

section
variable (hu : u.graph? a.id = some a) (hn : a.node? nd.id = some nd) (r : List Byte) (st : NodeSt)

include hu in
theorem graph?_putNode :
    (putNode u a nd r st).graph? a.id = some (a.modNode nd.id fun b => { b with rcd := r, st := st }) := graph?_modNode _ _ hu

include hn in
theorem node?_putNode :
    (a.modNode nd.id fun b => { b with rcd := r, st := st }).node? nd.id = some { nd with rcd := r, st := st } :=
  node?_modNode_same hn

include hu hn in
theorem nodeOf_putNode : nodeOf (putNode u a nd r st) a.id nd.id = some { nd with rcd := r, st := st } :=
  nodeOf_of (graph?_putNode hu r st) (node?_putNode hn r st)

include hu hn in
theorem isDone_putNode (res : Option Token) : IsDone (finishNode (putNode u a nd r st) a.id nd.id res) a.id nd.id res :=
  isDone_finishNode res (graph?_putNode hu r st) (node?_putNode hn r st)

include hu in
theorem permits_putNode (p : Option Nat) (pos idx it : Nat) :
    Permits u (permit (putNode u a nd r st) a.id p pos idx it) a.id p pos idx it :=
  permits_permit rfl _ _ _ _ (graph?_putNode hu r st)

end

theorem condPred_of_parent {p : Node} {c k : Nat} {prev : Option Token} (hparent : nd.parent = some p.id)
    (hp : a.node? p.id = some p) (hst : p.st = .seq c k prev true) (hpos : nd.pos ≠ 0) :
    condPred a nd = some (prev.getD (dataTok 0 false)) := by
  unfold condPred
  rw [hparent, Option.bind_some, hp]
  dsimp only
  rw [hst]
  exact if_neg (by simp [hpos])

/-- A COND has its predicate. -/
def holdPred (s : State) (a : GraphSt) (nd : Node) (pred : Token) : State := s.modNode a.id nd.id fun b => { b with st := .cond pred }

section
variable {s : State} {pred : Token}

theorem condChoose_poisoned (hpsn : pred.psn = true) : condChoose s a nd pred = condPoison (holdPred s a nd pred) a nd := by
  unfold condChoose
  dsimp only
  rw [if_pos hpsn]
  rfl

variable (hpsn : pred.psn = false)
include hpsn

theorem condChoose_done (hc : kgChild nd.rcd (if pred.data = 0 then 0 else 1) = 0xFFFE) :
    condChoose s a nd pred = finishNode (holdPred s a nd pred) a.id nd.id none := by
  unfold condChoose
  dsimp only
  rw [hpsn, if_neg Bool.false_ne_true, if_pos hc]
  rfl

theorem condChoose_parentDone (hc : kgChild nd.rcd (if pred.data = 0 then 0 else 1) = 0xFFFF) {p : Nat} (hp : nd.parent = some p) :
    condChoose s a nd pred = finishNode (dropNode (holdPred s a nd pred) a.id nd.id) a.id p (some pred) := by
  unfold condChoose
  dsimp only
  rw [hpsn, if_neg Bool.false_ne_true, if_neg (by rw [hc]; decide), if_pos hc, hp]
  rfl

theorem condChoose_child (h1 : kgChild nd.rcd (if pred.data = 0 then 0 else 1) ≠ 0xFFFE)
    (h2 : kgChild nd.rcd (if pred.data = 0 then 0 else 1) ≠ 0xFFFF) : condChoose s a nd pred =
    permit (holdPred s a nd pred) a.id (some nd.id) 0 (kgChild nd.rcd (if pred.data = 0 then 0 else 1)) nd.iter := by
  unfold condChoose
  dsimp only
  rw [hpsn, if_neg Bool.false_ne_true, if_neg h1, if_neg h2]
  rfl

end

/-- A record of the sequencer that finds room stands in FBUF (R330). -/
theorem fbuf_condPoison {s : State} (h : (s.quarter a.lead).fbuf.length < 1024) :
    ∃ e, ((condPoison s a nd).quarter a.lead).fbuf = insertNew s.now e (s.quarter a.lead).fbuf ∧ e.code = codePoison ∧
      e.graph = a.id ∧ e.src = .cond a.id nd.id := by
  refine ⟨_, (postRec_room s a.lead _ ?_).1, rfl, rfl, rfl⟩
  rw [insertNew_length]
  exact h

section
variable (hu : u.graph? a.id = some a) (hn : a.node? nd.id = some nd)
include hu hn

/-- A COND with its predicate raises POISON, is done, or gives the child it chooses its permit. -/
theorem starts_cond (hk : kgKind r = 3) {p : Node} {c k : Nat} {prev : Option Token} (hparent : nd.parent = some p.id)
    (hp : a.node? p.id = some p) (hst : p.st = .seq c k prev true) (hpos : nd.pos ≠ 0) :
    let pred := prev.getD { kind := .data, data := 0, psn := false }
    let child := kgChild r (if pred.data = 0 then 0 else 1)
    let t := startNode u a nd r
    (pred.psn = true → (u.quarter a.lead).fbuf.length < 1024 →
      (∃ e, (t.quarter a.lead).fbuf = insertNew u.now e (u.quarter a.lead).fbuf ∧ e.code = codePoison ∧ e.graph = a.id ∧
        e.src = .cond a.id nd.id) ∧ NodesFrom t a.id a.nodes [nd.id] fun _ => False) ∧
    (pred.psn = false → child = 0xFFFE → IsDone t a.id nd.id none) ∧
    (pred.psn = false → child = 0xFFFF → p.id ≠ nd.id → IsDone t a.id p.id (some pred) ∧ nodeOf t a.id nd.id = none) ∧
    (pred.psn = false → child ≠ 0xFFFE → child ≠ 0xFFFF → Permits u t a.id (some nd.id) 0 child nd.iter) := by
  intro pred child t
  have ht : t = condChoose (putNode u a nd r (.cond pred)) a { nd with rcd := r } pred :=
    startNode_cond hk (condPred_of_parent hparent hp hst hpos)
  set v := putNode u a nd r (.cond pred)
  have hput : (holdPred v a { nd with rcd := r } pred).graph? a.id = some _ := graph?_modNode _ _ (graph?_putNode hu r (.cond pred))
  have hown := node?_modNode_same (f := fun b => { b with st := .cond pred }) (node?_putNode hn r (.cond pred))
  rw [ht]
  refine ⟨fun hpsn hroom => ?_, fun hpsn hc => ?_, fun hpsn hc hne => ?_, fun hpsn h1 h2 => ?_⟩
  · rw [condChoose_poisoned hpsn]
    refine ⟨fbuf_condPoison (s := holdPred v a { nd with rcd := r } pred) hroom,
      nodesFrom_of ((congrArg (List.find? _) (Stands.postRec _ _ _).graphs).trans hput) fun m hm => ?_⟩
    rcases mem_modNode hm with hm | hm
    · exact (mem_modNode hm).imp_right fun h => .inl (List.mem_singleton.mpr h)
    · exact .inr (.inl (List.mem_singleton.mpr hm))
  · rw [condChoose_done hpsn hc]
    exact isDone_finishNode none hput hown
  · rw [condChoose_parentDone (nd := { nd with rcd := r }) hpsn hc hparent]
    have hpar : (((a.modNode nd.id fun b => { b with rcd := r, st := .cond pred }).modNode nd.id fun b => { b with
        st := .cond pred }).without nd.id).node? p.id = some p :=
      (node?_without_other hne).trans ((node?_modNode_other hne).trans
        ((node?_modNode_other hne).trans hp))
    have hdrop := graph?_dropNode nd.id hput
    refine ⟨isDone_finishNode _ hdrop hpar, ?_⟩
    have hgone := nodeOf_dropNode nd.id hput
    unfold nodeOf at hgone ⊢
    rw [hdrop, Option.bind_some] at hgone
    rw [show (finishNode _ a.id p.id _).graph? a.id = _ from graph?_modNode _ _ hdrop, Option.bind_some,
      node?_modNode_other (Ne.symm hne)]
    exact hgone
  · rw [condChoose_child hpsn h1 h2]
    exact permits_permit rfl _ _ _ _ hput

theorem nodeStarts_startNode : NodeStarts u (startNode u a nd r) a nd r := by
  refine ⟨fun hk => ?_, fun hk hc => ?_, fun hk hc => ?_, fun hk => ?_, fun p c k prev hk hparent hp hst hpos =>
    starts_cond hu hn hk hparent hp hst hpos, fun hk => ?_, fun hk hc => ?_, fun hk hc => ?_⟩
  · rw [startNode_seq hk]
    exact permits_putNode hu r _ _ _ _ _
  · rw [startNode_pipe hk hc, pipeIssue_eq, stages_start hc]
    have hset := fun f => graph?_modNode nd.id f (graph?_putNode (nd := nd) hu r
      (.pipe (List.replicate (kgNch r + 1) 0) (List.replicate (kgNch r + 1) 0)))
    refine ⟨permits_permit rfl _ _ _ _ (hset _), nodesFrom_of (graph?_permit _ _ _ _ (hset _)) fun m hm => ?_⟩
    rcases List.mem_append.mp hm with hm | hm
    · rcases mem_modNode hm with hm | hm
      · exact (mem_modNode hm).imp_right fun h => .inl (by simp [h])
      · exact .inr (.inl (by simp [hm]))
    · rw [List.mem_singleton.mp hm]
      exact .inr (.inl (List.mem_cons_of_mem _ (List.mem_singleton_self _)))
  · rw [startNode_noPipe hk hc]
    refine ⟨isDone_putNode hu hn r _ _, nodesFrom_of (graph?_modNode _ _ (graph?_putNode hu r _)) fun m hm => ?_⟩
    rcases mem_modNode hm with hm | hm
    · exact (mem_modNode hm).imp_right fun h => .inl (List.mem_singleton.mpr h)
    · exact .inr (.inl (List.mem_singleton.mpr hm))
  · rw [startNode_strm hk]
    obtain ⟨ns, hg, hall, -⟩ := graph?_foldPermit (some nd.id) (kgChild r) (fun _ => nd.iter) (List.range (kgNch r + 1))
      (graph?_putNode (nd := nd) hu r (.strm (kgNch r + 1)))
    refine ⟨fun j hj => ?_, _, nodeOf_of hg (node?_append (node?_putNode hn r (.strm (kgNch r + 1)))), rfl⟩
    obtain ⟨id, hid⟩ := hall j (List.mem_range.mpr (Nat.lt_succ_of_le hj))
    exact ⟨_, id, hg, List.mem_append_right _ hid⟩
  · rw [startNode_spawn hk]
    exact ⟨_, nodeOf_putNode hu hn r _, rfl, rfl⟩
  · rw [startNode_leaf hk hc]
    exact ⟨_, nodeOf_putNode hu hn r _, rfl, rfl⟩
  · rw [startNode_noLeaf hk hc]
    exact isDone_putNode hu hn r _ _

end

end

/-! ### The sequencer's act at a node (R29) -/

section
variable {s : State} {a : GraphSt} {nd : Node} (hs : s.graph? a.id = some a) (hended : a.ended = false) (hn : a.node? nd.id = some nd)
include hs hended hn

theorem exec_nodeDone_done (hd : nd.done = true) : exec (.nodeDone a.id nd.id) s = .next (parentActs s a nd) := by
  change execNodeDone a.id nd.id s = _
  unfold execNodeDone
  rw [hs]
  dsimp only
  rw [hended, hn, if_neg Bool.false_ne_true]
  dsimp only
  rw [hd, if_pos rfl]

theorem exec_nodeDone_permit (hd : nd.done = false) (hst : nd.st = .permit) :
    exec (.nodeDone a.id nd.id) s = .next (readNode s a nd) := by
  change execNodeDone a.id nd.id s = _
  unfold execNodeDone
  rw [hs]
  dsimp only
  rw [hended, hn, if_neg Bool.false_ne_true]
  dsimp only
  rw [hd, if_neg Bool.false_ne_true, hst]

theorem exec_nodeDone_aborted (hd : nd.done = false) {c : Section} (hst : nd.st = .leaf c) (hc : c.aborted = true) :
    exec (.nodeDone a.id nd.id) s = .next (startHandler s a nd) := by
  change execNodeDone a.id nd.id s = _
  unfold execNodeDone
  rw [hs]
  dsimp only
  rw [hended, hn, if_neg Bool.false_ne_true]
  dsimp only
  rw [hd, if_neg Bool.false_ne_true, hst]
  dsimp only
  rw [hc, if_pos rfl]

end

/-- A graph that ends leaves its completion to be posted (R329). -/
theorem completes_endGraph {s : State} {a b : GraphSt} (hb : s.graph? a.id = some b) (status : Nat) (result : Option Token) (area : DWord) :
    Completes (endGraph s a status result area) a status result area := by
  have hend : (endGraph s a status result area).graph? a.id = some { b with ended := true } :=
    graph?_modGraph_same (f := fun b => { b with ended := true }) hb
  refine ⟨fun c hc => ?_, graphCompl s a status result area, ?_, rfl, rfl, rfl, rfl, rfl, rfl, rfl⟩
  · rw [hend] at hc
    cases hc
    rfl
  · unfold endGraph queueCompl
    dsimp only
    rw [State.setQuarter_same]
    exact List.mem_append_right _ (List.mem_singleton_self _)

/-- A node is started with the record that is read for it. Unfolded as a function: where `readNode` is applied, comparing it with
its body makes the kernel evaluate the read. -/
theorem readNode_reads {s u : State} {a : GraphSt} {nd : Node} {r : List Byte}
    (hread : runRd (readKg (graphHome s a) (recGraph a.rcd) nd.idx) (s.task nd.id) = (.ok r, u))
    (hok : kgOk (recCols a.rcd * recRows a.rcd) r = true) : readNode s a nd = startNode u a nd r := by
  have hnode : readNode = readNode := rfl
  have hhome : graphHome (s.task nd.id) a = graphHome s a := rfl
  conv at hnode => rhs; delta readNode
  rw [congrFun (congrFun (congrFun hnode s) a) nd]
  dsimp only
  rw [hhome, hread]
  exact if_pos hok

/-- The state in which a handler's node has been made (R354). -/
def handlerMade (u : State) (a : GraphSt) (nd : Node) (h : HandlerRun) (hs : List HandlerRun) (r : List Byte) (it : Nat) : State :=
  ({ u with nextId := u.nextId + 1 } : State).modGraph a.id fun b => { b with
    handlers := { h with started := true } :: hs
    nodes := b.nodes ++ [{ newNode u.nextId (some nd.id) 0 h.idx it with rcd := r, st := .handler }] }

/-- The handler that is read for the first contained error is started; the read is kept out of the comparison of terms here too. -/
theorem startHandler_reads {s u : State} {a : GraphSt} {nd : Node} {h : HandlerRun} {hs : List HandlerRun} {r : List Byte} {it : Nat}
    (hh : a.handlers = h :: hs) (hstarted : h.started = false) (hleaf : h.leaf = nd.id)
    (hread : runRd (readHandler a nd h.idx) (s.task nd.id) = (.ok (r, it), u)) :
    startHandler s a nd = permit (handlerMade u a nd h hs r it) a.id (some u.nextId) 0 (kgChild r 0) it := by
  have hstart : startHandler = startHandler := rfl
  conv at hstart => rhs; delta startHandler
  generalize @runRd (List Byte × Nat) = run at hstart hread
  rw [congrFun (congrFun (congrFun hstart s) a) nd]
  split
  · rename_i hnil
    rw [hh] at hnil
    cases hnil
  · rename_i hcons
    rw [hh] at hcons
    cases hcons
    rw [if_neg (by simp [hstarted, hleaf])]
    extract_lets v
    change run (readHandler a nd h.idx) v = _ at hread
    clear_value v
    rw [hread]
    rfl

/-- What a reading has found, the graphs stand as they did. -/
theorem graph?_runRd {α : Type} {m : Rd α} {s u : State} {j : Nat} {x : Except LoadErr α} (hm : Rd.Stands m)
    (h : runRd m (s.task j) = (x, u)) (g : Nat) : u.graph? g = s.graph? g := by
  have hgraphs := (hm (s.task j)).graphs
  rw [h] at hgraphs
  exact congrArg (List.find? fun a => a.id == g) hgraphs

end Sys2Proof.Machine

open Sys2Proof Sys2Proof.Machine Sys2Proof.Claims

/-- Settles O42: every act of the sequencer changes one graph, whose nodes it leaves in place, drops, or adds permits to. -/
theorem nodesAdvance : Obligations.NodesAdvance := by
  unfold Obligations.NodesAdvance
  intro s a nd hs hended hn
  refine ⟨fun hd hroot => ?_, fun p hd hparent hne hp => ?_, fun u r hd hst hread hok => ?_,
    fun c h hs' u r it hd hst hc hh hstarted hleaf hread => ?_⟩
  · have hroot' : parentActs s a nd = endGraph (dropNode s a.id nd.id) a 0 nd.result 0 := by
      unfold parentActs
      rw [hroot]
    exact ⟨_, exec_nodeDone_done hs hended hn hd, hroot' ▸ completes_endGraph (graph?_dropNode nd.id hs) 0 nd.result 0⟩
  · exact ⟨_, exec_nodeDone_done hs hended hn hd, parentActs_spec hs hparent hne hp, nodeOf_parentActs hparent hp⟩
  · have hu := (graph?_runRd (Rd.stands_readKg _ _ _) hread a.id).trans hs
    exact ⟨_, exec_nodeDone_permit hs hended hn hd hst, readNode_reads hread hok ▸ nodeStarts_startNode hu hn⟩
  · have hu := (graph?_runRd (Rd.stands_readHandler _ _ _) hread a.id).trans hs
    have hmade : (handlerMade u a nd h hs' r it).graph? a.id = _ := graph?_modGraph_same hu
    have hpermit := graph?_permit (some u.nextId) 0 (kgChild r 0) it hmade
    rw [← startHandler_reads hh hstarted hleaf hread] at hpermit
    exact ⟨_, _, exec_nodeDone_aborted hs hended hn hd hst hc, hpermit, rfl, List.mem_append_right _ (List.mem_singleton_self _),
      List.mem_append_left _ (List.mem_append_right _ (List.mem_singleton_self _))⟩

end

section

namespace Sys2Proof.Machine

/-! ### A watchdog whose section's slots are listed twice (R52, R359) -/

/-- A section of tile 0 that has made no progress for its period of 1 microsecond. -/
def stalled : Section :=
  { Section.start with loaded := true, tiles := [0], period := 1 }

def stalledNode : Node := { newNode 0 none 0 0 0 with st := .leaf stalled }

def stalledGraph : GraphSt :=
  { id := 0, qtr := 0, lq := 0, rcd := [], stamp := 0, lead := 0, col := 0, row := 0, imgLen := 0, idem := false,
    nodes := [stalledNode], guards := [], groups := [], handlers := [], errs := [], stray := 0, rlx := 0, kills := 0, ended := false }

/-- The table of slots holds an entry of slot 0 that withholds on no record, and behind it one that does. -/
def doubled : State :=
  { State.reset with
    now := 2100, graphs := [stalledGraph]
    slots := [(0, SlotSt.reset), (0, { SlotSt.reset with wh := some 0 })] }

theorem doubled_wh (x : Nat) : (doubled.slot x).wh = none := by
  unfold State.slot SMap.get doubled
  rw [SMap.find_cons, SMap.find_cons]
  by_cases h : x = 0
  · rw [if_pos h]; rfl
  · rw [if_neg h, if_neg h]; rfl

/-- The watchdog looks through the entries of the table, not through what the table answers, and sees a record outstanding. -/
theorem exec_watchdog_doubled : exec (.watchdog 0 0) doubled = .next doubled := rfl

end Sys2Proof.Machine

open Sys2Proof Sys2Proof.Machine Sys2Proof.Claims

/-- Refutes O43: the statement asks of each slot of a section that the table of slots answers no record for it, and does not ask
the table's canonical form. Where a second entry of a slot withholds, the watchdog posts nothing. -/
theorem not_sequencerActs : ¬ Obligations.SequencerActs := by
  unfold Obligations.SequencerActs
  rintro ⟨-, hwatchdog, -⟩
  obtain ⟨t, r, hexec, hfbuf, -⟩ := hwatchdog doubled stalledGraph stalledNode stalled rfl rfl rfl rfl rfl rfl rfl rfl
    (by decide) (by decide) (fun x _ => doubled_wh x) (by decide)
  rw [show exec (.watchdog stalledGraph.id stalledNode.id) doubled = _ from exec_watchdog_doubled] at hexec
  cases hexec
  have hlen := congrArg List.length hfbuf
  rw [insertNew_length] at hlen
  omega

end

section

namespace Sys2Proof.Machine

open Claims

/-! ### Entries of a table (a table answers the first entry of a key) -/

theorem SMap.find_filter_key {α : Type} (p : Nat → Bool) (n : Nat) : ∀ m : SMap α,
    SMap.find (m.filter fun e => p e.1) n = if p n then SMap.find m n else none
  | [] => by simp
  | (k, w) :: m => by
    have ih := SMap.find_filter_key p n m
    by_cases hk : p k
    · rw [List.filter_cons_of_pos (by exact hk), SMap.find_cons, SMap.find_cons, ih]
      split
      · subst n; rw [if_pos hk]
      · rfl
    · rw [List.filter_cons_of_neg (by exact hk), ih, SMap.find_cons]
      by_cases hn : n = k
      · subst n; rw [if_neg hk, if_neg hk]
      · rw [if_neg hn]

/-- Entries of a key that is struck out answer the default. -/
theorem SMap.get_filter_key {α : Type} (p : Nat → Bool) (n : Nat) (m : SMap α) (d : α) :
    SMap.get (m.filter fun e => p e.1) d n = if p n then SMap.get m d n else d := by
  unfold SMap.get
  rw [SMap.find_filter_key]
  split <;> rfl

/-! ### The nodes stand -/

/-- Every graph has the nodes that it had. -/
def SameNodes (s t : State) : Prop := ∀ g n, nodeOf t g n = nodeOf s g n

namespace SameNodes

@[refl] theorem refl (s : State) : SameNodes s s := fun _ _ => rfl

@[trans] theorem trans {s t u : State} (h : SameNodes s t) (k : SameNodes t u) : SameNodes s u := fun g n => (k g n).trans (h g n)

theorem of_graphs {s t : State} (h : t.graphs = s.graphs) : SameNodes s t := fun g n => by
  unfold nodeOf State.graph?
  rw [h]

theorem fold {α : Type} {f : State → α → State} (hf : ∀ s a, SameNodes s (f s a)) (as : List α) (s : State) :
    SameNodes s (foldState f s as) := foldState_ind (SameNodes s) f (fun t a h => h.trans (hf t a)) as s (refl s)

theorem modGraph (s : State) (g : Nat) {f : GraphSt → GraphSt} (hid : ∀ a, (f a).id = a.id) (hnodes : ∀ a, (f a).nodes = a.nodes) :
    SameNodes s (s.modGraph g f) := fun k n => by
  unfold nodeOf
  rw [State.graph?_modGraph s g k hid]
  rcases s.graph? k with _ | a
  · rfl
  · rw [Option.map_some, Option.bind_some, Option.bind_some]
    unfold GraphSt.node?
    split
    · rw [hnodes]
    · rfl

theorem releaseHolds (s : State) (g t : Nat) : SameNodes s (releaseHolds s g t) := by
  unfold Machine.releaseHolds
  split
  · exact refl s
  · refine fold (fun s e => ?_) _ _
    split
    · exact (of_graphs (Stands.releaseCache _ _ _).graphs).trans (modGraph _ _ (fun _ => rfl) fun _ => rfl)
    · exact refl s

theorem closeRegions (s : State) (ts : List Nat) : SameNodes s (closeRegions s ts) := by
  refine fold (fun s t => ?_) _ _
  split
  · exact of_graphs rfl
  · exact refl s

theorem source (s : State) (r : BitVec 32) : SameNodes s (s.by r) := of_graphs rfl

theorem leaveTiles (s : State) (ts : List Nat) : SameNodes s (leaveTiles s ts).1 := of_graphs rfl

theorem dropPanels (s : State) (ts : List Nat) : SameNodes s (dropPanels s ts) := of_graphs rfl

theorem voidWatchdog (s : State) (a : GraphSt) (n : Nat) : SameNodes s (voidWatchdog s a n) := of_graphs rfl

theorem endSection (s : State) (a : GraphSt) (n : Nat) (c : Section) : SameNodes s (endSection s a n c) :=
  (fold (fun s t => releaseHolds s a.id t) (ascending c.tiles) s).trans <| (closeRegions _ c.tiles).trans <|
    (dropPanels _ c.tiles).trans <| (leaveTiles _ c.tiles).trans <|
    (modGraph _ a.id (f := fun b => { b with stray := satInc b.stray 0xFFFF _ }) (fun _ => rfl) fun _ => rfl).trans (voidWatchdog _ a n)

theorem commitTile (g : GraphSt) (n : Node) (s : State) (e : TileLoad) : SameNodes s (commitTile g n s e) :=
  (of_graphs rfl).trans (modGraph _ _ (fun _ => rfl) fun _ => rfl)

end SameNodes

/-! ### The start state of a tile (R36, R157, R338) -/

/-- A tile stands in the start state of a section, with the configuration and the pass count of its load. -/
def AtStart (a : GraphSt) (nd : Node) (e : TileLoad) (t : State) : Prop :=
  (t.tile e.t).cfg = e.cfg ∧ (t.tile e.t).owner = some (a.id, nd.id) ∧ (t.tile e.t).tfst = 0 ∧
  (t.tile e.t).armed = BitVec.ofNat 32 (kgCount nd.rcd) ∧ (t.tile e.t).iter = BitVec.ofNat 32 nd.iter ∧
  (t.tile e.t).ks = List.replicate 8 KCtr.reset ∧ (∀ x, tileOf x = e.t → t.slot x = SlotSt.reset) ∧
  ∀ l, l / 192 = e.t → (t.link l).q = []

section
variable (a : GraphSt) (nd : Node) (s : State) (e : TileLoad)

theorem slot_commitTile (x : Nat) :
    (commitTile a nd s e).slot x = if decide (x / 64 ≠ e.t) then s.slot x else SlotSt.reset :=
  SMap.get_filter_key (fun k => decide (k / 64 ≠ e.t)) x s.slots SlotSt.reset

theorem link_commitTile (l : Nat) :
    (commitTile a nd s e).link l = if decide (l / 192 ≠ e.t) then s.link l else Link.empty :=
  SMap.get_filter_key (fun k => decide (k / 192 ≠ e.t)) l s.links Link.empty

theorem tile_commitTile_other {t : Nat} (h : t ≠ e.t) : (commitTile a nd s e).tile t = s.tile t := State.setTile_other s _ h

theorem now_commitTiles (es : List TileLoad) : (foldState (commitTile a nd) s es).now = s.now :=
  foldState_ind (fun t => t.now = s.now) (commitTile a nd) (fun _ _ h => h) es s rfl

variable {a nd s e}

theorem atStart_commitTile (h : storeHost e.cfg = false) : AtStart a nd e (commitTile a nd s e) := by
  have htile : (commitTile a nd s e).tile e.t = _ := State.setTile_same s e.t _
  unfold AtStart
  rw [htile, h]
  refine ⟨rfl, rfl, rfl, rfl, rfl, rfl, fun x hx => ?_, fun l hl => ?_⟩
  · rw [slot_commitTile, if_neg (by simpa [tileOf] using hx)]
  · rw [link_commitTile, if_neg (by simpa using hl)]
    rfl

theorem AtStart.commitTile {k : TileLoad} (h : AtStart a nd e s) (hk : e.t ≠ k.t) : AtStart a nd e (commitTile a nd s k) := by
  unfold AtStart at h ⊢
  rw [tile_commitTile_other a nd s k hk]
  obtain ⟨hcfg, howner, htfst, harmed, hiter, hks, hslots, hlinks⟩ := h
  refine ⟨hcfg, howner, htfst, harmed, hiter, hks, fun x hx => ?_, fun l hl => ?_⟩
  · rw [slot_commitTile, if_pos (by simpa [← hx, tileOf] using hk)]
    exact hslots x hx
  · rw [link_commitTile, if_pos (by simpa [← hl] using hk)]
    exact hlinks l hl

theorem AtStart.commitTiles : ∀ (es : List TileLoad) {s : State}, AtStart a nd e s → (∀ k ∈ es, e.t ≠ k.t) →
    AtStart a nd e (foldState (Machine.commitTile a nd) s es)
  | [], _, h, _ => h
  | k :: es, _, h, hne =>
    AtStart.commitTiles es (h.commitTile (hne k List.mem_cons_self)) fun j hj => hne j (List.mem_cons_of_mem _ hj)

/-- Each tile of a load is at its start where no other of the load is the same. -/
theorem atStart_commitTiles (hhost : storeHost e.cfg = false) : ∀ (es : List TileLoad) {s : State}, e ∈ es →
    (es.map TileLoad.t).Nodup → AtStart a nd e (foldState (commitTile a nd) s es)
  | k :: es, s, hmem, hnodup => by
    obtain ⟨hfresh, hrest⟩ := List.nodup_cons.mp hnodup
    rcases List.mem_cons.mp hmem with rfl | hmem
    · exact AtStart.commitTiles es (atStart_commitTile (s := s) hhost) fun j hj hne =>
        hfresh (hne ▸ List.mem_map_of_mem hj)
    · exact atStart_commitTiles hhost es hmem hrest

end

theorem AtStart.commitSection {a : GraphSt} {nd : Node} {e : TileLoad} {s : State} {p : SecLoad}
    (h : AtStart a nd e (foldState (Machine.commitTile a nd) s p.tiles)) : AtStart a nd e (Machine.commitSection s a nd p) := h

/-! ### The nodes of a leaf's section -/

theorem nodeOf_modSection (s : State) (g n : Nat) (f : Section → Section) :
    nodeOf (s.modSection g n f) g n = (nodeOf s g n).map fun b => b.modSection f := by
  unfold nodeOf
  rcases ha : s.graph? g with _ | a
  · rw [State.modSection, State.graph?_modGraph s g g (f := fun a => a.modNode n fun b => b.modSection f) fun _ => rfl, ha]
    rfl
  · rw [State.modSection, graph?_modGraph_same ha]
    rw [Option.bind_some, Option.bind_some]
    rw [GraphSt.node?_modNode a n n fun b => Node.modSection_id b f]
    rcases hb : a.node? n with _ | b
    · rfl
    · rw [Option.map_some, Option.map_some, GraphSt.node?_id hb, if_pos rfl]

theorem modSection_leaf {b : Node} {c : Section} (h : b.st = .leaf c) (f : Section → Section) :
    (b.modSection f).st = .leaf (f c) := by
  unfold Node.modSection
  rw [h]

theorem nodeSection_leaf {b : Node} {c : Section} (h : b.st = .leaf c) : nodeSection b = some c := by
  unfold nodeSection
  rw [h]

/-- A node that stands can be finished. -/
theorem SameNodes.isDone_finishNode {s t : State} (h : SameNodes s t) {a : GraphSt} {nd : Node} (hs : s.graph? a.id = some a)
    (hn : a.node? nd.id = some nd) (r : Option Token) : IsDone (finishNode t a.id nd.id r) a.id nd.id r := by
  obtain ⟨b, hb, hbn⟩ := Option.bind_eq_some_iff.mp ((h a.id nd.id).trans (nodeOf_of hs hn))
  exact Machine.isDone_finishNode r hb hbn

theorem now_runRd {α : Type} {m : Rd α} {s u : State} {j : Nat} {x : Except LoadErr α} (hm : Rd.Stands m)
    (h : runRd m (s.task j) = (x, u)) : u.now = s.now := by
  have hnow := (hm (s.task j)).now
  rw [h] at hnow
  exact hnow

/-- The leaf of a section that is committed holds its tiles and no result, and its progress begins. -/
theorem loaded_commitSection {s : State} {a : GraphSt} {nd b : Node} {c : Section} {p : SecLoad} (hs : s.graph? a.id = some a)
    (hn : a.node? nd.id = some nd) (hst : nd.st = .leaf c) (hb : nodeOf (commitSection s a nd p) a.id nd.id = some b) :
    ∃ c', b.st = .leaf c' ∧ c'.loaded = true ∧ c'.tiles = p.tiles.map TileLoad.t ∧ c'.result = none ∧ c'.progress = s.now := by
  have hnode := (SameNodes.fold (SameNodes.commitTile a nd) p.tiles s a.id nd.id).trans (nodeOf_of hs hn)
  unfold commitSection at hb
  rw [nodeOf_modSection, hnode, Option.map_some] at hb
  cases hb
  exact ⟨_, modSection_leaf hst _, rfl, rfl, rfl, now_commitTiles a nd s p.tiles⟩

/-! ### The acts of a section -/

section
variable {s : State} {a : GraphSt} {nd : Node} {c : Section} (hs : s.graph? a.id = some a) (hended : a.ended = false)
  (hn : a.node? nd.id = some nd) (hst : nd.st = .leaf c)
include hs hended hn hst

/-- The reading is kept out of the comparison of terms, as in `readNode_reads`. -/
theorem exec_sectionLoad_reads {u : State} {p : SecLoad} (hd : nd.done = false) (hc : c.loaded = false)
    (hread : runRd (readSection a nd) (s.task nd.id) = (.ok p, u)) :
    exec (.sectionLoad a.id nd.id) s = .next (commitSection u a nd p) := by
  change execSectionLoad a.id nd.id s = _
  have hload : execSectionLoad = execSectionLoad := rfl
  conv at hload => rhs; delta execSectionLoad
  generalize @runRd SecLoad = run at hload hread
  rw [congrFun (congrFun (congrFun hload a.id) nd.id) s, hs]
  dsimp only
  rw [hn]
  dsimp only
  rw [nodeSection_leaf hst]
  dsimp only
  rw [hended, hc, hd, if_neg (by decide), hread]

theorem exec_entryTokenDelivery {ep latch : Nat} {tok : Token} (hc : c.aborted = false)
    (hfind : c.entries.find? (fun e => e.1 == ep) = some (ep, latch, tok)) (hroom : linkRoom s latch 2 = true) :
    exec (.entryTokenDelivery a.id nd.id ep) s =
      .next ((pushLink s latch { tok := tok, cyc := s.now + 1, du := 0 } false).modSection a.id nd.id fun c => { c with
        entries := execEntryTokenDelivery.dropFirst ep c.entries }) := by
  change execEntryTokenDelivery a.id nd.id ep s = _
  unfold execEntryTokenDelivery
  rw [hs, Option.bind_some, hended, if_neg Bool.false_ne_true, hn, Option.bind_some, nodeSection_leaf hst]
  dsimp only
  rw [hfind]
  dsimp only
  rw [hc, hroom, if_neg (by decide)]

theorem exec_sectionDone (hd : nd.done = false) (hl : c.loaded = true) (hc : c.aborted = false)
    (hout : tilesOutstanding s c.tiles = false) (harmed : ∀ u ∈ c.tiles, (s.tile u).armed = 0) :
    exec (.sectionDone a.id nd.id) s = .next (finishNode (endSection (s.by (cacheSource (graphHome s a))) a nd.id c) a.id nd.id
      (if c.resultPort.isSome then some (c.result.getD (dataTok 0 false)) else none)) := by
  have hall : (c.tiles.any fun t => decide ((s.tile t).armed ≠ 0)) = false :=
    List.any_eq_false.mpr fun t ht => by simp [harmed t ht]
  change execSectionDone a.id nd.id s = _
  unfold execSectionDone
  rw [hs]
  dsimp only
  rw [hn]
  dsimp only
  rw [nodeSection_leaf hst]
  dsimp only
  rw [hended, hd, hl, hout, if_neg (by decide), hc, if_neg Bool.false_ne_true, hall, if_neg Bool.false_ne_true]

end

/-! ### The tiles that are left (R36 to R38) -/

/-- Whatever holds of the default and of every entry holds of what a table answers. -/
theorem SMap.get_ind {α : Type} (P : α → Prop) {m : SMap α} {d : α} (hd : P d) {n : Nat} (hm : ∀ v, (n, v) ∈ m → P v) :
    P (SMap.get m d n) := by
  unfold SMap.get
  rcases h : SMap.find m n with _ | v
  · exact hd
  · exact hm v (SMap.mem_of_find m h)

section
variable (s : State) {ts : List Nat} {u : Nat} (h : u ∈ ts)
include h

theorem owner_leaveTiles : ((leaveTiles s ts).1.tile u).owner = none := by
  refine SMap.get_ind (fun v : TileSt => v.owner = none) rfl fun v hv => ?_
  obtain ⟨⟨k, w⟩, -, he⟩ := List.mem_map.mp (List.mem_filter.mp hv).1
  dsimp only at he
  split at he
  · cases he
    rfl
  · rename_i hk
    cases he
    exact absurd (List.contains_iff_mem.mpr h) hk

theorem slot_leaveTiles {x : Nat} (hx : tileOf x = u) : (leaveTiles s ts).1.slot x = SlotSt.reset :=
  (SMap.get_filter_key (fun k => !ts.contains (tileOf k)) x s.slots SlotSt.reset).trans (if_neg (by simp [hx, h]))

theorem link_leaveTiles {l : Nat} (hl : l / 192 = u) : (leaveTiles s ts).1.link l = Link.empty :=
  (SMap.get_filter_key (fun k => !ts.contains (k / 192)) l s.links Link.empty).trans (if_neg (by simp [hl, h]))

end

/-- Tile u is free, its slots and links empty. -/
def IsFree (u : Nat) (t : State) : Prop :=
  (t.tile u).owner = none ∧ (∀ x, tileOf x = u → t.slot x = SlotSt.reset) ∧ ∀ l, l / 192 = u → (t.link l).q = []

theorem IsFree.finishNode {u : Nat} {t : State} (h : IsFree u t) (g n : Nat) (r : Option Token) :
    IsFree u (finishNode t g n r) := h

/-- After its tiles are left, the end of a section changes no tile, slot or link. -/
theorem endSection_left (s : State) (a : GraphSt) (n : Nat) (c : Section) : ∃ w : State,
    (endSection s a n c).tiles = (leaveTiles w c.tiles).1.tiles ∧ (endSection s a n c).slots = (leaveTiles w c.tiles).1.slots ∧
    (endSection s a n c).links = (leaveTiles w c.tiles).1.links := ⟨_, rfl, rfl, rfl⟩

theorem isFree_endSection (s : State) (a : GraphSt) (n : Nat) (c : Section) {u : Nat} (h : u ∈ c.tiles) :
    IsFree u (endSection s a n c) := by
  obtain ⟨w, htiles, hslots, hlinks⟩ := endSection_left s a n c
  refine ⟨?_, fun x hx => ?_, fun l hl => ?_⟩
  · rw [State.tile, htiles]
    exact owner_leaveTiles w h
  · rw [State.slot, hslots]
    exact slot_leaveTiles w h hx
  · rw [State.link, hlinks]
    exact congrArg Link.q (link_leaveTiles w h hl)

end Sys2Proof.Machine

open Sys2Proof Sys2Proof.Machine Sys2Proof.Claims

/-- Settles O44: the load puts one tile after another into its start state and none disturbs another; an entry token is one push;
the end of a section strikes its tiles' slots and links out of the tables, and no step of it touches a node but the last. -/
theorem sectionsRun : Obligations.SectionsRun := by
  unfold Obligations.SectionsRun
  refine ⟨fun s u a nd c p hs hended hn hd hst hc hread => ?_, fun s a nd c ep latch tok hs hended hn hst hc hfind hroom => ?_,
    fun s a nd c hs hended hn hd hst hl hc hout harmed => ?_⟩
  · refine ⟨_, exec_sectionLoad_reads hs hended hn hst hd hc hread, fun b hb => ?_, fun e he hnodup hhost => ?_⟩
    · have hu := (graph?_runRd (Rd.stands_readSection a nd) hread a.id).trans hs
      obtain ⟨c', hc', hloaded, htiles, hresult, hprogress⟩ := loaded_commitSection (p := p) hu hn hst hb
      exact ⟨c', hc', hloaded, htiles, hresult, hprogress.trans (now_runRd (Rd.stands_readSection a nd) hread)⟩
    · exact AtStart.commitSection (atStart_commitTiles hhost p.tiles he hnodup)
  · refine ⟨_, exec_entryTokenDelivery hs hended hn hst hc hfind (decide_eq_true hroom), ?_, fun l hl => ?_, fun _ => rfl⟩
    · exact (pushLink_q s latch latch _ false).trans (by rw [if_pos rfl])
    · exact State.setLink_other _ _ hl
  · have hnodes := (SameNodes.source s (cacheSource (graphHome s a))).trans (SameNodes.endSection _ a nd.id c)
    exact ⟨_, exec_sectionDone hs hended hn hst hd hl hc hout harmed, hnodes.isDone_finishNode hs hn _,
      fun u hu => (isFree_endSection _ a nd.id c hu).finishNode a.id nd.id _⟩

end

section

namespace Sys2Proof.Machine

open Claims

/-! ### The magnitudes of a format in the order of their patterns (R56)

The patterns without sign count up through the values of a format: each is a number of steps of its binade, the subnormals of the
lowest normal one, whose step they share. -/

/-- The value of k steps of size 2^q. -/
def stepVal (q : Int) (k : Nat) : ℚ := (k : ℚ) * (2 : ℚ) ^ q

theorem stepVal_succ (q : Int) (k : Nat) : stepVal q (k + 1) = stepVal q k + 2 ^ q := by
  simp [stepVal, add_mul]

theorem stepVal_strictMono (q : Int) : StrictMono (stepVal q) :=
  strictMono_nat_of_lt_succ fun k => by
    rw [stepVal_succ]
    exact lt_add_of_pos_right _ (zpow_pos two_pos q)

/-- The exponent of the step between the subnormals of a format. -/
def leastExp (f : FloatFmt) : Int := 1 - (f.bias : Int) - f.fBits

/-- The binade of a pattern, counted from the lowest; the subnormals are in the lowest. -/
def binade (f : FloatFmt) (p : Nat) : Nat := p / 2 ^ f.fBits - 1

/-- The value of pattern p of a format, as if its exponent field had no end. -/
def magVal (f : FloatFmt) (p : Nat) : ℚ :=
  stepVal (leastExp f + binade f p) (p - binade f p * 2 ^ f.fBits)

/-- k counts steps of binade d: from 2^fBits upwards, or in the lowest binade from 0. -/
def OnGrid (f : FloatFmt) (d k : Nat) : Prop := d = 0 ∨ 2 ^ f.fBits ≤ k

theorem binade_grid {f : FloatFmt} {d k : Nat} (h : OnGrid f d k) (hk : k < 2 * 2 ^ f.fBits) :
    binade f (d * 2 ^ f.fBits + k) = d := by
  have hpos : 0 < 2 ^ f.fBits := Nat.two_pow_pos _
  rw [binade, Nat.add_comm, Nat.add_mul_div_right _ _ hpos]
  rcases h with rfl | h
  · have : k / 2 ^ f.fBits < 2 := Nat.div_lt_of_lt_mul (by omega)
    omega
  · have : k / 2 ^ f.fBits = 1 := Nat.div_eq_of_lt_le (by omega) (by omega)
    omega

/-- Pattern d * 2^fBits + k is k steps of binade d, up to and with the first pattern of the next binade. -/
theorem magVal_grid {f : FloatFmt} {d k : Nat} (h : OnGrid f d k) (hk : k ≤ 2 * 2 ^ f.fBits) :
    magVal f (d * 2 ^ f.fBits + k) = stepVal (leastExp f + d) k := by
  rcases hk.lt_or_eq with hlt | rfl
  · rw [magVal, binade_grid h hlt, Nat.add_sub_cancel_left]
  · have hpos : 0 < 2 ^ f.fBits := Nat.two_pow_pos _
    have hnext : d * 2 ^ f.fBits + 2 * 2 ^ f.fBits = (d + 1) * 2 ^ f.fBits + 2 ^ f.fBits := by ring
    rw [hnext, magVal, binade_grid (.inr le_rfl) (by omega), Nat.add_sub_cancel_left]
    have hexp : leastExp f + ((d + 1 : Nat) : Int) = (leastExp f + d) + 1 := by push_cast; ring
    rw [hexp, stepVal, stepVal, zpow_add_one₀ two_ne_zero]
    push_cast
    ring

/-- Every pattern is on the grid of its binade. -/
theorem exists_grid (f : FloatFmt) (p : Nat) :
    ∃ d k, p = d * 2 ^ f.fBits + k ∧ OnGrid f d k ∧ k < 2 * 2 ^ f.fBits := by
  have hdiv := Nat.div_add_mod p (2 ^ f.fBits)
  have hmod := Nat.mod_lt p (Nat.two_pow_pos f.fBits)
  rw [Nat.mul_comm] at hdiv
  rcases hq : p / 2 ^ f.fBits with _ | d
  · rw [hq] at hdiv
    exact ⟨0, p, by omega, .inl rfl, by omega⟩
  · rw [hq, Nat.succ_mul] at hdiv
    exact ⟨d, 2 ^ f.fBits + p % 2 ^ f.fBits, by omega, .inr (by omega), by omega⟩

theorem magVal_strictMono (f : FloatFmt) : StrictMono (magVal f) := by
  refine strictMono_nat_of_lt_succ fun p => ?_
  obtain ⟨d, k, rfl, hgrid, hk⟩ := exists_grid f p
  have hsucc : OnGrid f d (k + 1) := hgrid.imp_right (by omega)
  rw [Nat.add_assoc, magVal_grid hgrid hk.le, magVal_grid hsucc hk]
  exact stepVal_strictMono _ (Nat.lt_succ_self k)

/-- A pattern up to the largest finite one has no sign bit, and an exponent field that is not the reserved one, or in E4M3 a
fraction that is not the reserved one. -/
theorem finite_of_le_maxBits {f : FloatFmt} (hf : f ∈ floatFmts) {p : Nat} (hp : p ≤ f.maxBits) :
    p < f.signBit ∧ (f.special = .ieee → p / 2 ^ f.fBits < 2 ^ f.eBits - 1) ∧
      (f.special = .e4m3 → p % 2 ^ f.fBits = 7 → p / 2 ^ f.fBits < 2 ^ f.eBits - 1) := by
  simp only [floatFmts, List.mem_cons, List.not_mem_nil, or_false] at hf
  rcases hf with rfl | rfl | rfl | rfl | rfl | rfl | rfl | rfl <;>
    simp [FloatFmt.maxBits, FloatFmt.signBit, fp32, fp16, bf16, e5m2, e4m3, e3m2, e2m3, e2m1] at hp ⊢ <;> omega

theorem decodeF_of_le_maxBits {f : FloatFmt} (hf : f ∈ floatFmts) {p : Nat} (hp : p ≤ f.maxBits) :
    decodeF f p = if p / 2 ^ f.fBits = 0 then .fin false (p % 2 ^ f.fBits) (leastExp f)
      else .fin false (2 ^ f.fBits + p % 2 ^ f.fBits) (((p / 2 ^ f.fBits : Nat) : Int) - f.bias - f.fBits) := by
  obtain ⟨hsign, hieee, he4m3⟩ := finite_of_le_maxBits hf hp
  have hneg : decide (p / f.signBit % 2 = 1) = false := by simp [Nat.div_eq_of_lt hsign]
  have hfield : p / 2 ^ f.fBits % 2 ^ f.eBits = p / 2 ^ f.fBits :=
    Nat.mod_eq_of_lt (Nat.div_lt_of_lt_mul (by rwa [Nat.mul_comm, ← Nat.pow_add]))
  simp only [decodeF, hneg, hfield]
  split
  · rename_i h
    exact if_neg (hieee h).ne
  · rename_i h
    exact if_neg fun ⟨htop, hfrac⟩ => (he4m3 h hfrac).ne htop
  · rfl

theorem ratOf_decodeF {f : FloatFmt} (hf : f ∈ floatFmts) {p : Nat} (hp : p ≤ f.maxBits) :
    ratOf (decodeF f p) = magVal f p := by
  rw [decodeF_of_le_maxBits hf hp, magVal, binade]
  have hdiv := Nat.div_add_mod' p (2 ^ f.fBits)
  rcases hq : p / 2 ^ f.fBits with _ | d
  · rw [hq] at hdiv
    rw [if_pos rfl]
    have hmant : p - (0 - 1) * 2 ^ f.fBits = p % 2 ^ f.fBits := by omega
    rw [hmant]
    simp [ratOf, stepVal]
  · rw [if_neg d.succ_ne_zero]
    have hmant : p - (d + 1 - 1) * 2 ^ f.fBits = 2 ^ f.fBits + p % 2 ^ f.fBits := by
      rw [hq, Nat.succ_mul] at hdiv
      rw [Nat.add_sub_cancel]
      omega
    have hexp : ((d + 1 : Nat) : Int) - f.bias - f.fBits = leastExp f + ((d + 1 - 1 : Nat) : Int) := by
      rw [leastExp]
      omega
    rw [hmant, hexp]
    simp [ratOf, stepVal]

/-! ### The one rounding between two neighbours (R65, R66) -/

/-- Of the neighbours v lo and v (lo + 1) of x, v k is the nearer one, and where both are equally near k is even. -/
def NearestEven (v : Nat → ℚ) (x : ℚ) (lo k : Nat) : Prop :=
  (k = lo ∧ 2 * x ≤ v lo + v (lo + 1) ∨ k = lo + 1 ∧ v lo + v (lo + 1) ≤ 2 * x) ∧
  (2 * x = v lo + v (lo + 1) → k % 2 = 0)

/-- In a strictly increasing row of values, the nearer of the two neighbours is nearest of all. -/
theorem NearestEven.nearest {v : Nat → ℚ} {x : ℚ} {lo k : Nat} (h : NearestEven v x lo k) (hv : StrictMono v) (hlo : v lo ≤ x)
    (hhi : x < v (lo + 1)) (p : Nat) : |v k - x| ≤ |v p - x| ∧ (|v k - x| = |v p - x| → p = k ∨ k % 2 = 0) := by
  obtain ⟨hside, heven⟩ := h
  have hbelow : |v lo - x| = x - v lo := abs_sub_comm x _ ▸ abs_of_nonneg (by linarith)
  have habove : |v (lo + 1) - x| = v (lo + 1) - x := abs_of_nonneg (by linarith)
  rcases Nat.lt_or_ge lo p with hp | hp
  · have hvp : v (lo + 1) ≤ v p := hv.monotone hp
    rw [abs_of_nonneg (show 0 ≤ v p - x by linarith)]
    rcases hside with ⟨rfl, hnear⟩ | ⟨rfl, hnear⟩
    · rw [hbelow]
      exact ⟨by linarith, fun heq => .inr (heven (by linarith))⟩
    · rw [habove]
      exact ⟨by linarith, fun heq => .inl (hv.injective (by linarith))⟩
  · have hvp : v p ≤ v lo := hv.monotone hp
    rw [abs_sub_comm (v p), abs_of_nonneg (show 0 ≤ x - v p by linarith)]
    rcases hside with ⟨rfl, hnear⟩ | ⟨rfl, hnear⟩
    · rw [hbelow]
      exact ⟨by linarith, fun heq => .inl (hv.injective (by linarith))⟩
    · rw [habove]
      exact ⟨by linarith, fun heq => .inr (heven (by linarith))⟩

@[simp] theorem roundShift_rtz (neg : Bool) (m k : Nat) : (roundShift .rtz neg m k).1 = m / 2 ^ k := by
  simp [roundShift]

theorem roundShift_rne (neg : Bool) (m k : Nat) :
    ((roundShift .rne neg m k).1 = m / 2 ^ k ∧ 2 * (m % 2 ^ k) ≤ 2 ^ k ∨
      (roundShift .rne neg m k).1 = m / 2 ^ k + 1 ∧ 2 ^ k ≤ 2 * (m % 2 ^ k)) ∧
    (2 * (m % 2 ^ k) = 2 ^ k → (roundShift .rne neg m k).1 % 2 = 0) := by
  have hpos : 0 < 2 ^ k := Nat.two_pow_pos k
  simp only [roundShift]
  generalize m / 2 ^ k = q
  generalize m % 2 ^ k = r at *
  generalize 2 ^ k = c at *
  split
  case isTrue h =>
    simp only [Bool.and_eq_true, Bool.or_eq_true, decide_eq_true_eq] at h
    omega
  case isFalse h =>
    simp only [Bool.and_eq_true, Bool.or_eq_true, decide_eq_true_eq] at h
    omega

theorem roundAt_of_le {q e : Int} (h : q ≤ e) (dir : Dir) (neg : Bool) (m : Nat) :
    stepVal q (roundAt dir neg m e q).1 = stepVal e m := by
  have he : e = ((e - q).toNat : Int) + q := by omega
  rw [roundAt, if_pos h, stepVal, stepVal]
  conv_rhs => rw [he, zpow_add₀ two_ne_zero, zpow_natCast]
  push_cast
  ring

theorem roundAt_of_lt {q e : Int} (h : e < q) (dir : Dir) (neg : Bool) (m : Nat) :
    (roundAt dir neg m e q).1 = (roundShift dir neg m (q - e).toNat).1 := by
  rw [roundAt, if_neg (not_le.mpr h)]

/-- A step of size 2^q is 2^(q - e) steps of size 2^e. -/
theorem zpow_of_lt {q e : Int} (h : e < q) : (2 : ℚ) ^ q = (2 : ℚ) ^ (q - e).toNat * (2 : ℚ) ^ e := by
  rw [← zpow_natCast, ← zpow_add₀ two_ne_zero]
  congr 1
  omega

/-- m steps of size 2^e, as whole steps of size 2^q and a rest. -/
theorem stepVal_div_mod {q e : Int} (h : e < q) (m : Nat) :
    stepVal e m = ((m / 2 ^ (q - e).toNat : Nat) : ℚ) * (2 : ℚ) ^ q + ((m % 2 ^ (q - e).toNat : Nat) : ℚ) * (2 : ℚ) ^ e := by
  have hm : (m : ℚ) = ((2 ^ (q - e).toNat * (m / 2 ^ (q - e).toNat) + m % 2 ^ (q - e).toNat : Nat) : ℚ) := by
    rw [Nat.div_add_mod]
  rw [stepVal, hm, zpow_of_lt h]
  push_cast
  ring

/-- How far m steps of size 2^e lie from the middle of their two neighbours, twice over. -/
theorem two_mul_stepVal {q e : Int} (h : e < q) (m : Nat) :
    2 * stepVal e m = stepVal q (m / 2 ^ (q - e).toNat) + stepVal q (m / 2 ^ (q - e).toNat + 1) +
      (2 * ((m % 2 ^ (q - e).toNat : Nat) : ℚ) - 2 ^ (q - e).toNat) * (2 : ℚ) ^ e := by
  rw [stepVal_succ, stepVal_div_mod h, stepVal, zpow_of_lt h]
  ring

theorem roundAt_rtz_bracket (neg : Bool) (m : Nat) (e q : Int) :
    stepVal q (roundAt .rtz neg m e q).1 ≤ stepVal e m ∧ stepVal e m < stepVal q ((roundAt .rtz neg m e q).1 + 1) := by
  have hq : (0 : ℚ) < 2 ^ q := zpow_pos two_pos q
  have he : (0 : ℚ) < 2 ^ e := zpow_pos two_pos e
  rw [stepVal_succ]
  rcases le_or_gt q e with h | h
  · rw [roundAt_of_le h]
    exact ⟨le_rfl, by linarith⟩
  · rw [roundAt_of_lt h, roundShift_rtz, stepVal_div_mod h, stepVal]
    have hrest : ((m % 2 ^ (q - e).toNat : Nat) : ℚ) * 2 ^ e < 2 ^ q := by
      rw [zpow_of_lt h]
      exact mul_lt_mul_of_pos_right (by exact_mod_cast Nat.mod_lt m (Nat.two_pow_pos _)) he
    exact ⟨le_add_of_nonneg_right (by positivity), by linarith⟩

theorem roundAt_rne_nearestEven (neg : Bool) (m : Nat) (e q : Int) :
    NearestEven (stepVal q) (stepVal e m) (roundAt .rtz neg m e q).1 (roundAt .rne neg m e q).1 := by
  have hq : (0 : ℚ) < 2 ^ q := zpow_pos two_pos q
  have he : (0 : ℚ) < 2 ^ e := zpow_pos two_pos e
  rcases le_or_gt q e with h | h
  · have hexact := roundAt_of_le h .rtz neg m
    have hsame : (roundAt .rne neg m e q).1 = (roundAt .rtz neg m e q).1 := by simp only [roundAt, if_pos h]
    rw [hsame, NearestEven, stepVal_succ, hexact]
    exact ⟨.inl ⟨rfl, by linarith⟩, fun _ => by linarith⟩
  · obtain ⟨hside, heven⟩ := roundShift_rne neg m (q - e).toNat
    have hdist := two_mul_stepVal h m
    rw [roundAt_of_lt h, roundAt_of_lt h, roundShift_rtz, NearestEven, hdist]
    refine ⟨hside.imp (.imp_right fun hle => ?_) (.imp_right fun hge => ?_), fun htie => heven ?_⟩
    · have : 2 * ((m % 2 ^ (q - e).toNat : Nat) : ℚ) ≤ 2 ^ (q - e).toNat := by exact_mod_cast hle
      linarith [mul_nonneg (sub_nonneg.mpr this) he.le]
    · have : (2 : ℚ) ^ (q - e).toNat ≤ 2 * ((m % 2 ^ (q - e).toNat : Nat) : ℚ) := by exact_mod_cast hge
      linarith [mul_nonneg (sub_nonneg.mpr this) he.le]
    · have := (mul_eq_zero.mp (add_eq_left.mp htie)).resolve_right he.ne'
      exact_mod_cast sub_eq_zero.mp this

/-! ### The rounded magnitude is a pattern (R65) -/

/-- The binade of the exact magnitude m * 2^e, counted from the lowest; what lies below is in the lowest. -/
def binadeOf (f : FloatFmt) (m : Nat) (e : Int) : Nat := ((natBits m : Int) - 1 + e - f.fBits - leastExp f).toNat

/-- The magnitude is rounded to a multiple of its binade's step. -/
theorem roundMag_mag (f : FloatFmt) (dir : Dir) (neg : Bool) (m : Nat) (e : Int) :
    (roundMag f dir neg m e).mag =
      binadeOf f m e * 2 ^ f.fBits + (roundAt dir neg m e (leastExp f + binadeOf f m e)).1 := by
  have hstep : (if (natBits m : Int) - 1 + e - f.fBits < leastExp f then leastExp f else (natBits m : Int) - 1 + e - f.fBits) =
      leastExp f + binadeOf f m e := by
    rw [binadeOf]
    split <;> omega
  simp only [roundMag]
  rw [← leastExp, hstep]
  congr 2
  omega

/-- A magnitude of n bits lies between 2^(n - 1) and 2^n of its steps. -/
theorem stepVal_natBits {m : Nat} (hm : m ≠ 0) (e : Int) :
    (2 : ℚ) ^ ((natBits m : Int) - 1 + e) ≤ stepVal e m ∧ stepVal e m < (2 : ℚ) ^ ((natBits m : Int) + e) := by
  have hbits : (natBits m : Int) - 1 = (m.log2 : Int) := by simp [natBits, hm]
  have hpos : (0 : ℚ) < 2 ^ e := zpow_pos two_pos e
  rw [hbits, natBits, if_neg hm, zpow_add₀ two_ne_zero, zpow_add₀ two_ne_zero, zpow_natCast, zpow_natCast, stepVal]
  exact ⟨mul_le_mul_of_nonneg_right (by exact_mod_cast Nat.log2_self_le hm) hpos.le,
    mul_lt_mul_of_pos_right (by exact_mod_cast Nat.lt_log2_self) hpos⟩

/-- Towards zero, the multiple of the step is a pattern of the magnitude's binade. -/
theorem onGrid_roundAt (f : FloatFmt) (neg : Bool) {m : Nat} (hm : m ≠ 0) (e : Int) :
    OnGrid f (binadeOf f m e) (roundAt .rtz neg m e (leastExp f + binadeOf f m e)).1 ∧
      (roundAt .rtz neg m e (leastExp f + binadeOf f m e)).1 < 2 * 2 ^ f.fBits := by
  obtain ⟨hlow, hhigh⟩ := stepVal_natBits hm e
  obtain ⟨hle, hlt⟩ := roundAt_rtz_bracket neg m e (leastExp f + binadeOf f m e)
  have hpow (n : Nat) : (2 : ℚ) ^ ((n : Int) + (leastExp f + binadeOf f m e)) = stepVal (leastExp f + binadeOf f m e) (2 ^ n) := by
    rw [zpow_add₀ two_ne_zero, zpow_natCast, stepVal]
    push_cast
    rfl
  refine ⟨or_iff_not_imp_left.mpr fun hd => ?_, ?_⟩
  · have hexp : (natBits m : Int) - 1 + e = (f.fBits : Int) + (leastExp f + binadeOf f m e) := by
      rw [binadeOf] at hd ⊢
      omega
    rw [hexp, hpow] at hlow
    exact Nat.lt_succ_iff.mp ((stepVal_strictMono _).lt_iff_lt.mp (hlow.trans_lt hlt))
  · have hexp : (natBits m : Int) + e ≤ ((f.fBits + 1 : Nat) : Int) + (leastExp f + binadeOf f m e) := by
      rw [binadeOf]
      omega
    have htop := hhigh.trans_le (zpow_le_zpow_right₀ one_le_two hexp)
    rw [hpow, Nat.pow_succ'] at htop
    exact (stepVal_strictMono _).lt_iff_lt.mp (hle.trans_lt htop)

theorem magVal_roundMag_rtz (f : FloatFmt) (neg : Bool) {m : Nat} (hm : m ≠ 0) (e : Int) :
    magVal f (roundMag f .rtz neg m e).mag ≤ stepVal e m ∧ stepVal e m < magVal f ((roundMag f .rtz neg m e).mag + 1) := by
  obtain ⟨hgrid, hk⟩ := onGrid_roundAt f neg hm e
  rw [roundMag_mag, Nat.add_assoc, magVal_grid hgrid hk.le, magVal_grid (hgrid.imp_right (Nat.le_succ_of_le)) hk]
  exact roundAt_rtz_bracket neg m e _

/-- Neighbours counted from a multiple of two. -/
theorem NearestEven.shift {v w : Nat → ℚ} {x : ℚ} {lo k a : Nat} (h : NearestEven v x lo k) (ha : a % 2 = 0)
    (hlo : w (a + lo) = v lo) (hhi : w (a + lo + 1) = v (lo + 1)) : NearestEven w x (a + lo) (a + k) := by
  obtain ⟨hside, heven⟩ := h
  rw [NearestEven, hlo, hhi]
  refine ⟨hside.imp (.imp_left (by omega)) (.imp_left (by omega)), fun htie => ?_⟩
  have := heven htie
  omega

theorem nearestEven_roundMag {f : FloatFmt} (hf : f.fBits ≠ 0) (neg : Bool) {m : Nat} (hm : m ≠ 0) (e : Int) :
    NearestEven (magVal f) (stepVal e m) (roundMag f .rtz neg m e).mag (roundMag f .rne neg m e).mag := by
  obtain ⟨hgrid, hk⟩ := onGrid_roundAt f neg hm e
  have heven : binadeOf f m e * 2 ^ f.fBits % 2 = 0 := by
    simp [Nat.mul_mod, Nat.pow_mod, hf]
  rw [roundMag_mag, roundMag_mag]
  refine (roundAt_rne_nearestEven neg m e _).shift heven (magVal_grid hgrid hk.le) ?_
  rw [Nat.add_assoc]
  exact magVal_grid (hgrid.imp_right Nat.le_succ_of_le) hk

theorem le_maxBits_of_no_overflow {f : FloatFmt} {dir : Dir} {neg : Bool} {m : Nat} {e : Int}
    (h : (roundMag f dir neg m e).overflow = false) : (roundMag f dir neg m e).mag ≤ f.maxBits :=
  not_lt.mp (of_decide_eq_false h)

theorem fBits_ne_zero : ∀ f ∈ floatFmts, f.fBits ≠ 0 := by decide

end Sys2Proof.Machine

open Sys2Proof Sys2Proof.Machine Sys2Proof.Claims

/-- Settles O5: the patterns of a format count up through its values, so the exact magnitude lies between two neighbours; what the
rounding delivers is the lower one towards zero, the nearer or else the even one to nearest, and no other pattern lies between. -/
theorem roundsCorrectly : Obligations.RoundsCorrectly := by
  unfold Obligations.RoundsCorrectly
  intro f hf neg m e p hm hp
  obtain ⟨hlo, hhi⟩ := magVal_roundMag_rtz f neg hm e
  refine ⟨fun hno => ?_, fun hno => ?_⟩
  · rw [ratOf_decodeF hf (le_maxBits_of_no_overflow hno), ratOf_decodeF hf hp]
    exact (nearestEven_roundMag (fBits_ne_zero f hf) neg hm e).nearest (magVal_strictMono f) hlo hhi p
  · rw [ratOf_decodeF hf (le_maxBits_of_no_overflow hno), ratOf_decodeF hf hp]
    refine ⟨hlo, fun hbelow => (magVal_strictMono f).monotone ?_⟩
    exact Nat.lt_succ_iff.mp ((magVal_strictMono f).lt_iff_lt.mp (hbelow.trans_lt hhi))

end

section

namespace Sys2Proof.Machine

/-! ### Invalid operations (R68)

An operand that is a signalling NaN decides the result whatever the other operand is, a NaN of either kind included. -/

theorem faddV_sNaN_left (f : FloatFmt) (d : Dir) (x : FVal) : faddV f d (.nan true) x = nanRes f true := by
  cases x <;> rfl

theorem faddV_sNaN_right (f : FloatFmt) (d : Dir) (x : FVal) : faddV f d x (.nan true) = nanRes f true := by
  cases x with
  | nan s => rw [faddV, Bool.or_true]
  | inf n => rfl
  | fin n m e => rfl

theorem fmulV_sNaN_left (f : FloatFmt) (d : Dir) (x : FVal) : fmulV f d (.nan true) x = nanRes f true := by
  cases x <;> rfl

theorem fmulV_sNaN_right (f : FloatFmt) (d : Dir) (x : FVal) : fmulV f d x (.nan true) = nanRes f true := by
  cases x with
  | nan s => rw [fmulV, Bool.or_true]
  | inf n => rfl
  | fin n m e => rfl

theorem fdivV_sNaN_left (f : FloatFmt) (d : Dir) (x : FVal) : fdivV f d (.nan true) x = nanRes f true := by
  cases x <;> rfl

theorem fdivV_sNaN_right (f : FloatFmt) (d : Dir) (x : FVal) : fdivV f d x (.nan true) = nanRes f true := by
  cases x with
  | nan s => rw [fdivV, Bool.or_true]
  | inf n => rfl
  | fin n m e => rfl

/-- Infinities of opposite sign have no sum. -/
theorem faddV_inf_inf_of_ne (f : FloatFmt) (d : Dir) {n k : Bool} (h : n ≠ k) : faddV f d (.inf n) (.inf k) = nanRes f true :=
  if_neg h

theorem fmulV_inf_zero (f : FloatFmt) (d : Dir) (n k : Bool) (e : Int) : fmulV f d (.inf n) (.fin k 0 e) = nanRes f true := by
  rw [fmulV, if_pos rfl]

theorem fmulV_zero_inf (f : FloatFmt) (d : Dir) (n k : Bool) (e : Int) : fmulV f d (.fin n 0 e) (.inf k) = nanRes f true := by
  rw [fmulV, if_pos rfl]

theorem fdivV_zero_zero (f : FloatFmt) (d : Dir) (n k : Bool) (e g : Int) :
    fdivV f d (.fin n 0 e) (.fin k 0 g) = nanRes f true := by
  rw [fdivV, if_pos rfl, if_pos rfl]

theorem fdivV_inf_inf (f : FloatFmt) (d : Dir) (n k : Bool) : fdivV f d (.inf n) (.inf k) = nanRes f true := rfl

theorem fsqrtV_neg (f : FloatFmt) (d : Dir) {m : Nat} (hm : m ≠ 0) (e : Int) : fsqrtV f d (.fin true m e) = nanRes f true :=
  (if_neg hm).trans (if_pos rfl)

end Sys2Proof.Machine

open Sys2Proof Sys2Proof.Machine

/-- Settles O6: a signalling NaN decides by itself; of the other invalid cases each is one branch of its operation, and FSUB's
infinities of like sign are FADD's of opposite sign. -/
theorem invalidGivesNaN : Obligations.InvalidGivesNaN := by
  unfold Obligations.InvalidGivesNaN
  intro f d n k x m e e'
  have hsign : n ≠ !n := by cases n <;> decide
  exact ⟨faddV_inf_inf_of_ne f d hsign, faddV_inf_inf_of_ne f d hsign, fmulV_inf_zero f d n k e, fmulV_zero_inf f d n k e,
    fdivV_zero_zero f d n k e e', fdivV_inf_inf f d n k, fun hm => fsqrtV_neg f d hm e, rfl,
    faddV_sNaN_left f d x, faddV_sNaN_right f d x, fmulV_sNaN_left f d x, fmulV_sNaN_right f d x,
    fdivV_sNaN_left f d x, fdivV_sNaN_right f d x, rfl⟩

end

section

namespace Sys2Proof

/-! ### Fields of a word (R80, R81)

A reader of the fields undoes the writer that put them side by side. -/

section
variable (op : BitVec 8) (m : BitVec 6) (b a : BitVec 9)

theorem opField_packWord : opField (packWord op m b a) = op :=
  (BitVec.extractLsb'_append_eq_of_le (by decide)).trans
    ((BitVec.extractLsb'_append_eq_of_le (by decide)).trans BitVec.extractLsb'_append_eq_left)

@[simp] theorem mField_packWord : mField (packWord op m b a) = m :=
  (BitVec.extractLsb'_append_eq_of_le (by decide)).trans
    ((BitVec.extractLsb'_append_eq_of_le (by decide)).trans BitVec.extractLsb'_append_eq_right)

@[simp] theorem bField_packWord : bField (packWord op m b a) = b :=
  (BitVec.extractLsb'_append_eq_of_le (by decide)).trans BitVec.extractLsb'_append_eq_right

@[simp] theorem aField_packWord : aField (packWord op m b a) = a := BitVec.extractLsb'_append_eq_right

end

section
variable (w p x : BitVec 2)

@[simp] theorem mW_mOf : mW (mOf w p x) = w :=
  (BitVec.extractLsb'_append_eq_of_le (by decide)).trans BitVec.extractLsb'_append_eq_left

@[simp] theorem mP_mOf : mP (mOf w p x) = p :=
  (BitVec.extractLsb'_append_eq_of_le (by decide)).trans BitVec.extractLsb'_append_eq_right

@[simp] theorem mX_mOf : mX (mOf w p x) = x := BitVec.extractLsb'_append_eq_right

end

/-! What stands in the high and in the low bits of M, and in the low bits of IMM9. -/

@[simp] theorem mW_append (hi : BitVec 2) (lo : BitVec 4) : mW (hi ++ lo) = hi := BitVec.extractLsb'_append_eq_left

@[simp] theorem mX_append (hi : BitVec 4) (lo : BitVec 2) : mX (hi ++ lo) = lo := BitVec.extractLsb'_append_eq_right

@[simp] theorem high4_append (hi : BitVec 4) (lo : BitVec 2) : (hi ++ lo : BitVec 6).extractLsb' 2 4 = hi :=
  BitVec.extractLsb'_append_eq_left

@[simp] theorem low4_append (hi : BitVec 2) (lo : BitVec 4) : (hi ++ lo : BitVec 6).extractLsb' 0 4 = lo :=
  BitVec.extractLsb'_append_eq_right

@[simp] theorem high3_append (hi lo : BitVec 3) : (hi ++ lo : BitVec 6).extractLsb' 3 3 = hi :=
  BitVec.extractLsb'_append_eq_left

@[simp] theorem low3_append (hi lo : BitVec 3) : (hi ++ lo : BitVec 6).extractLsb' 0 3 = lo :=
  BitVec.extractLsb'_append_eq_right

@[simp] theorem low5_append (hi : BitVec 1) (lo : BitVec 5) : (hi ++ lo : BitVec 6).extractLsb' 0 5 = lo :=
  BitVec.extractLsb'_append_eq_right

@[simp] theorem high5_append (hi : BitVec 5) (lo : BitVec 1) : (hi ++ lo : BitVec 6).extractLsb' 1 5 = hi :=
  BitVec.extractLsb'_append_eq_left

@[simp] theorem low8_append (hi : BitVec 1) (lo : BitVec 8) : (hi ++ lo : BitVec 9).extractLsb' 0 8 = lo :=
  BitVec.extractLsb'_append_eq_right

/-! Single bits. -/

section
variable (w p x : BitVec 2)

@[simp] theorem mOf_bit0 : (mOf w p x)[0] = x[0] := BitVec.getElem_append (by decide)
@[simp] theorem mOf_bit1 : (mOf w p x)[1] = x[1] := BitVec.getElem_append (by decide)
@[simp] theorem mOf_bit4 : (mOf w p x)[4] = w[0] := (BitVec.getElem_append (by decide)).trans (BitVec.getElem_append (by decide))
@[simp] theorem mOf_bit5 : (mOf w p x)[5] = w[1] := (BitVec.getElem_append (by decide)).trans (BitVec.getElem_append (by decide))

end

@[simp] theorem pair_bit0 (hi lo : BitVec 1) : (hi ++ lo : BitVec 2)[0] = lo[0] := BitVec.getElem_append (by decide)
@[simp] theorem pair_bit1 (hi lo : BitVec 1) : (hi ++ lo : BitVec 2)[1] = hi[0] := BitVec.getElem_append (by decide)
@[simp] theorem append_bit0 (hi : BitVec 5) (lo : BitVec 1) : (hi ++ lo : BitVec 6)[0] = lo[0] := BitVec.getElem_append (by decide)
@[simp] theorem append_bit4 (hi : BitVec 2) (lo : BitVec 4) : (hi ++ lo : BitVec 6)[4] = hi[0] := BitVec.getElem_append (by decide)
@[simp] theorem append_bit5 (hi : BitVec 2) (lo : BitVec 4) : (hi ++ lo : BitVec 6)[5] = hi[1] := BitVec.getElem_append (by decide)
@[simp] theorem append5_bit5 (hi : BitVec 1) (lo : BitVec 5) : (hi ++ lo : BitVec 6)[5] = hi[0] := BitVec.getElem_append (by decide)
@[simp] theorem append_bit8 (hi : BitVec 1) (lo : BitVec 8) : (hi ++ lo : BitVec 9)[8] = hi[0] := BitVec.getElem_append (by decide)

/-- The layout of IACC's M (R122): W, three zeros, a flag. -/
theorem iacc_layout (w : BitVec 2) (s : Bool) : mW (w ++ 0#3 ++ BitVec.ofBool s) = w ∧
    (w ++ 0#3 ++ BitVec.ofBool s : BitVec 6).extractLsb' 1 3 = 0#3 ∧ (w ++ 0#3 ++ BitVec.ofBool s : BitVec 6)[0] = s := by
  revert w s
  decide

/-- A reserved top, a flag, a code of two bits (R265, R272, R192). -/
theorem e3_layout (d : Bool) (m : BitVec 2) : (0#3 ++ BitVec.ofBool d ++ m : BitVec 6).extractLsb' 3 3 = 0#3 ∧
    (0#3 ++ BitVec.ofBool d ++ m : BitVec 6)[2] = d := by
  revert d m
  decide

section
variable (op : BitVec 8) (d u : Bool) (p : Pred) (t1 t0 : Target)

theorem eD_eq_eM : eD op d p t1 t0 = eM op (mOf (1#1 ++ BitVec.ofBool d) (predBits p) 0#2) t1 t0 := rfl

theorem eDu_eq_eM : eDu op d p u t1 t0 =
    eM op (mOf (1#1 ++ BitVec.ofBool d) (predBits p) (0#1 ++ BitVec.ofBool u)) t1 t0 :=
  congrArg (eM op · t1 t0) BitVec.append_assoc

end

/-! The fifteen bits of M and IMM9 together (R109, R142, R143). -/

@[simp] theorem imm15_eG (op : BitVec 8) (i : BitVec 15) (t0 : Target) : mField (eG op i t0) ++ bField (eG op i t0) = i := by
  rw [eG, mField_packWord, bField_packWord]
  exact (BitVec.extractLsb'_append_extractLsb'_eq_extractLsb' rfl).trans BitVec.extractLsb'_eq_self

@[simp] theorem aField_eG (op : BitVec 8) (i : BitVec 15) (t0 : Target) : aField (eG op i t0) = targetBits t0 :=
  aField_packWord ..

section
variable (x y z : BitVec 5)

@[simp] theorem imm15_high : (x ++ y ++ z : BitVec 15).extractLsb' 10 5 = x :=
  (BitVec.extractLsb'_append_eq_of_le (by decide)).trans BitVec.extractLsb'_append_eq_left
@[simp] theorem imm15_mid : (x ++ y ++ z : BitVec 15).extractLsb' 5 5 = y :=
  (BitVec.extractLsb'_append_eq_of_le (by decide)).trans BitVec.extractLsb'_append_eq_right
@[simp] theorem imm15_low : (x ++ y ++ z : BitVec 15).extractLsb' 0 5 = z := BitVec.extractLsb'_append_eq_right

end

@[simp] theorem bField_eG_bit0 (op : BitVec 8) (i : BitVec 15) (t0 : Target) : (bField (eG op i t0))[0] = i[0] := by
  rw [eG, bField_packWord]
  simp

@[simp] theorem imm15_bit0 (hi : BitVec 10) (lo : BitVec 5) : (hi ++ lo : BitVec 15)[0] = lo[0] :=
  BitVec.getElem_append (by decide)
@[simp] theorem imm15_bits4 (hi : BitVec 10) (lo : BitVec 5) :
    (hi ++ lo : BitVec 15).extractLsb' 1 4 = lo.extractLsb' 1 4 := BitVec.extractLsb'_append_eq_of_add_le (by decide)

@[simp] theorem bits5_bit0 (hi : BitVec 4) (lo : BitVec 1) : (hi ++ lo : BitVec 5)[0] = lo[0] :=
  BitVec.getElem_append (by decide)
@[simp] theorem bits5_high4 (hi : BitVec 4) (lo : BitVec 1) :
    (hi ++ lo : BitVec 5).extractLsb' 1 4 = hi := BitVec.extractLsb'_append_eq_left

theorem eZg_eq_eG (op : BitVec 8) (zd zs : BitVec 5) (g : BitVec 4) (t0 : Target) :
    eZg op zd zs g t0 = eG op (zd ++ zs ++ (g ++ 0#1)) t0 :=
  congrArg (eG op · t0) BitVec.append_assoc

/-! ### Codes of operands -/

@[simp] theorem widthOf_widthBits (w : Width) : widthOf (widthBits w) = w := by cases w <;> rfl

@[simp] theorem predOf_predBits (p : Pred) : predOf (predBits p) = some p := by cases p <;> rfl

@[simp] theorem dirOf_dirBits (d : Dir) : dirOf (dirBits d) = d := by cases d <;> rfl

@[simp] theorem fselOf_fselBits (f : FSel) : fselOf (fselBits f).1 (fselBits f).2 = some f := by
  cases f with
  | f32 d => exact congrArg (fun d => some (FSel.f32 d)) (dirOf_dirBits d)
  | f16 z => cases z <;> rfl
  | bf16 z => cases z <;> rfl

@[simp] theorem fkindOf_fkindBits (f : FKind) : fkindOf (fkindBits f).1 (fkindBits f).2 = some f := by cases f <;> rfl

@[simp] theorem nsrcOf_nsrcBits (s : FKind) : nsrcOf (nsrcBits s) = some s := by cases s <;> rfl

@[simp] theorem narrowFOf_narrowFBits (n : NarrowF) : narrowFOf (narrowFBits n) = some n := by cases n <;> rfl

@[simp] theorem narrowIOf_narrowIBits (n : NarrowI) : narrowIOf (narrowIBits n) = some n := by cases n <;> rfl

@[simp] theorem narrowOf_narrowBits (d : Narrow) : narrowOf (narrowBits d) = some d := by
  cases d with
  | f n => cases n <;> rfl
  | i n => cases n <;> rfl

@[simp] theorem ksrcOf_ksrcBits (s : KSrc) : ksrcOf (ksrcBits s) = some s := by
  cases s with
  | k c => revert c; decide
  | kpack => rfl
  | iter => rfl
  | pass => rfl

@[simp] theorem sysRegOf_sysRegBits (r : SysReg) : sysRegOf (sysRegBits r) = some r := by
  cases r
  case meStatus m => revert m; decide
  case meConfig m => revert m; decide
  case crec n => revert n; decide
  all_goals rfl

/-- The three parts of a latch's target field: C, POS and the slot. -/
theorem targetOf_append (c : Bool) (pos : BitVec 2) (n : BitVec 6) (h : pos ≠ 3) :
    targetOf (BitVec.ofBool c ++ pos ++ n) =
      some (.latch c (if pos = 0 then .l else if pos = 1 then .r else .p) n) := by
  have hpos : (BitVec.ofBool c ++ pos ++ n : BitVec 9).extractLsb' 6 2 = pos :=
    (BitVec.extractLsb'_append_eq_of_le (by decide)).trans BitVec.extractLsb'_append_eq_right
  have hn : (BitVec.ofBool c ++ pos ++ n : BitVec 9).extractLsb' 0 6 = n := BitVec.extractLsb'_append_eq_right
  have hc : (BitVec.ofBool c ++ pos ++ n : BitVec 9).getLsbD 8 = c := by
    rw [BitVec.getLsbD_append, BitVec.getLsbD_append]
    simp
  have hnone : (BitVec.ofBool c ++ pos ++ n : BitVec 9) ≠ 0x0FF := by
    intro he
    rw [he] at hpos
    exact h hpos.symm
  simp only [targetOf, hpos, hn, hc, if_neg hnone, if_neg h]

@[simp] theorem targetOf_targetBits (t : Target) : targetOf (targetBits t) = some t := by
  cases t with
  | none => rfl
  | latch c pos n => cases pos <;> exact targetOf_append c _ n (by decide)
  | port n => revert n; decide

@[simp] theorem two_targetBits (t1 t0 : Target) (k : Target → Target → Instr) :
    two (targetBits t1) (targetBits t0) k = some (k t1 t0) := by
  simp [two]

@[simp] theorem one_targetBits (t0 : Target) (k : Target → Instr) : one (targetBits t0) k = some (k t0) := by
  simp [one]

/-! ### Operand shapes: each reader undoes its writer -/

/-- A reader of M, IMM9 or T1, and T0, at the fields of a word. -/
abbrev readAs {α : Type} (read : BitVec 6 → BitVec 9 → BitVec 9 → α) (v : Word) : α :=
  read (mField v) (bField v) (aField v)

section
variable (op : BitVec 8) (w : Width) (p : Pred) (f : FSel) (fk : FKind) (d e s u : Bool) (i : BitVec 9) (t1 t0 : Target)

theorem pT_eT (k : Width → Pred → Target → Target → Instr) :
    readAs pT (eT op w p t1 t0) k = some (k w p t1 t0) := by
  simp [pT, eT, eM]

theorem pI_eI (k : Width → Pred → BitVec 9 → Target → Instr) :
    readAs pI (eI op w p i t0) k = some (k w p i t0) := by
  simp [pI, eI]

theorem pW_eW (k : Width → Target → Target → Instr) :
    readAs pW (eW op w t1 t0) k = some (k w t1 t0) := by
  simp [pW, eW, eM]

theorem pLea_eLea (x : BitVec 2) (k : Width → Pred → BitVec 2 → Target → Target → Instr) :
    readAs pLea (eLea op w p x t1 t0) k = some (k w p x t1 t0) := by
  simp [pLea, eLea, eM]

theorem pF_eF (k : FSel → Pred → Target → Target → Instr) :
    readAs pF (eF op f p t1 t0) k = some (k f p t1 t0) := by
  simp [pF, eF, eM]

theorem pF0_eF0 (k : FKind → Pred → Target → Target → Instr) :
    readAs pF0 (eF0 op fk p t1 t0) k = some (k fk p t1 t0) := by
  simp [pF0, eF0, eM]

theorem pK_eK (c : BitVec 3) (k : BitVec 3 → Target → Target → Instr) :
    readAs pK (eK op c t1 t0) k = some (k c t1 t0) := by
  simp [pK, eK, eM]

theorem pKR_eKR (r : KSrc) (k : KSrc → Target → Target → Instr) :
    readAs pKR (eKR op r t1 t0) k = some (k r t1 t0) := by
  simp [pKR, eKR, eM]

theorem pN_eN (n : Narrow) (k : FKind → Narrow → Target → Target → Instr) :
    readAs pN (eN op fk n t1 t0) k = some (k fk n t1 t0) := by
  simp [pN, eN, eM]

theorem pNW_eNW (n : NarrowF) (k : NarrowF → Target → Target → Instr) :
    readAs pNW (eNW op n t1 t0) k = some (k n t1 t0) := by
  simp [pNW, eNW, eM]

theorem pNI_eNI (n : NarrowI) (k : NarrowI → Target → Target → Instr) :
    readAs pNI (eNI op n t1 t0) k = some (k n t1 t0) := by
  simp [pNI, eNI, eM]

theorem pFA_eFA (k : FSel → Target → Target → Instr) :
    readAs pFA (eFA op f t1 t0) k = some (k f t1 t0) := by
  simp [pFA, eFA, eM]

theorem pIA_eIA (k : Width → Bool → Target → Target → Instr) :
    readAs pIA (eIA op w s t1 t0) k = some (k w s t1 t0) := by
  simp [pIA, eIA, eM, iacc_layout]

theorem pR_eR (k : Target → Target → Instr) :
    readAs pR (eR op t1 t0) k = some (k t1 t0) := by
  simp [pR, eR, eM]

theorem pRI_eRI (k : BitVec 9 → Target → Instr) :
    readAs pRI (eRI op i t0) k = some (k i t0) := by
  simp [pRI, eRI]

theorem pZ_eZ (k : Instr) : readAs pZ (eZ op i) i k = some k := by
  simp [pZ, eZ]

theorem pP_eP (k : Pred → Target → Target → Instr) :
    readAs pP (eP op p t1 t0) k = some (k p t1 t0) := by
  simp [pP, eP, eM]

theorem pP2_eP2 (k : Pred → Target → Target → Instr) :
    readAs pP2 (eP2 op p t1 t0) k = some (k p t1 t0) := by
  simp [pP2, eP2, eM]

theorem pPI_ePI (k : Pred → BitVec 9 → Target → Instr) :
    readAs pPI (ePI op p i t0) k = some (k p i t0) := by
  simp [pPI, ePI]

theorem pHlt_eHlt (k : Bool → Instr) :
    readAs pHlt (eHlt op d) k = some (k d) := by
  simp [pHlt, eHlt]

theorem pSys_eSys (r : SysReg) (k : SysReg → Target → Target → Instr) :
    readAs pSys (eSys op r t1 t0) k = some (k r t1 t0) := by
  simp [pSys, eSys, eM]

theorem pB6_eB6 (n : BitVec 6) (k : BitVec 6 → Target → Target → Instr) :
    readAs pB6 (eB6 op n t1 t0) k = some (k n t1 t0) := by
  simp [pB6, eB6, eM]

theorem pD_eD (k : Bool → Pred → Target → Target → Instr) :
    readAs pD (eD op d p t1 t0) k = some (k d p t1 t0) := by
  simp [pD, eD_eq_eM, eM]

theorem pLd_eLd (k : Width → Pred → Bool → Bool → Target → Target → Instr) :
    readAs pLd (eLd op w p e s t1 t0) k = some (k w p e s t1 t0) := by
  simp [pLd, eLd, eM]

theorem pLdb_eLdb (k : Pred → Bool → Bool → Target → Target → Instr) :
    readAs pLdb (eLdb op p e s t1 t0) k = some (k p e s t1 t0) := by
  simp [pLdb, eLdb, eM]

theorem pDn_eDn (k : Bool → Target → Target → Instr) :
    readAs pDn (eDn op d t1 t0) k = some (k d t1 t0) := by
  simp [pDn, eDn, eM]

theorem pAcq_eAcq (g : BitVec 8) (k : Pred → BitVec 8 → Target → Instr) :
    readAs pAcq (eAcq op p g t0) k = some (k p g t0) := by
  simp [pAcq, eAcq]

theorem pAcqS_eAcqS (g : BitVec 8) (k : Pred → BitVec 8 → Target → Instr) :
    readAs pAcqS (eAcqS op p g t0) k = some (k p g t0) := by
  simp [pAcqS, eAcqS]

theorem pAcq_eAcqS (g : BitVec 8) (k : Pred → BitVec 8 → Target → Instr) : readAs pAcq (eAcqS op p g t0) k = none := by
  simp [pAcq, eAcqS]

theorem pDu_eDu (k : Bool → Pred → Bool → Target → Target → Instr) :
    readAs pDu (eDu op d p u t1 t0) k = some (k d p u t1 t0) := by
  simp [pDu, eDu_eq_eM, eM]

theorem pPf_ePf (k : Pred → Bool → Bool → Instr) :
    readAs pPf (ePf op p e s) k = some (k p e s) := by
  simp [pPf, ePf]

theorem pFl_eFl (k : Pred → Bool → Target → Target → Instr) :
    readAs pFl (eFl op p d t1 t0) k = some (k p d t1 t0) := by
  simp [pFl, eFl, eM]

theorem pM4_eM4 (n : BitVec 4) (k : BitVec 4 → Target → Target → Instr) :
    readAs pM4 (eM4 op n t1 t0) k = some (k n t1 t0) := by
  simp [pM4, eM4, eM]

theorem pE3_eE3 (n : BitVec 2) (k : Bool → BitVec 2 → Target → Target → Instr) :
    readAs pE3 (eE3 op d n t1 t0) k = some (k d n t1 t0) := by
  simp [pE3, eE3, eM, e3_layout]

theorem pB2_eB2 (n : BitVec 2) (k : BitVec 2 → Target → Target → Instr) :
    readAs pB2 (eB2 op n t1 t0) k = some (k n t1 t0) := by
  simp [pB2, eB2, eM]

theorem pB1_eB1 (k : Bool → Target → Target → Instr) :
    readAs pB1 (eB1 op e t1 t0) k = some (k e t1 t0) := by
  simp [pB1, eB1, eM]

theorem pB3_eB3 (n : BitVec 3) (k : BitVec 3 → Target → Target → Instr) :
    readAs pB3 (eB3 op n t1 t0) k = some (k n t1 t0) := by
  simp [pB3, eB3, eM]

theorem pB5_eB5 (z : BitVec 5) (k : BitVec 5 → Target → Target → Instr) :
    readAs pB5 (eB5 op z t1 t0) k = some (k z t1 t0) := by
  simp [pB5, eB5, eM]

theorem pG_eG (j : BitVec 15) (k : BitVec 15 → Target → Instr) :
    readAs pG (eG op j t0) k = some (k j t0) := by
  simp [pG]

theorem pZ3_eZ3 (zd za zb : BitVec 5) (k : BitVec 5 → BitVec 5 → BitVec 5 → Target → Instr) :
    readAs pZ3 (eZ3 op zd za zb t0) k = some (k zd za zb t0) := by
  simp [pZ3, eZ3]

theorem pZ2_eZ2 (zd za : BitVec 5) (k : BitVec 5 → BitVec 5 → Target → Instr) :
    readAs pZ2 (eZ2 op zd za t0) k = some (k zd za t0) := by
  simp [pZ2, eZ2]

theorem pZg_eZg (zd zs : BitVec 5) (g : BitVec 4) (k : BitVec 5 → BitVec 5 → BitVec 4 → Target → Instr) :
    readAs pZg (eZg op zd zs g t0) k = some (k zd zs g t0) := by
  simp [pZg, eZg_eq_eG]

end

/-! ### The opcode map (R85) -/

/-- The opcode map gives i at the fields of v. -/
def Parses (v : Word) (i : Instr) : Prop :=
  (opField v).toNat < 0xC0 ∧ parseFields (opField v).toNat (mField v) (bField v) (aField v) = some i

theorem Parses.of_opField {v : Word} {op : BitVec 8} {i : Instr} (ho : opField v = op) (hop : op.toNat < 0xC0)
    (hi : readAs (parseFields op.toNat) v = some i) : Parses v i := by
  subst ho
  exact ⟨hop, hi⟩

/-- Each row's opcode leads the map to the reader of the row's operand shape, which undoes the row's writer. ACQ.X and ACQ.S share
an opcode (R240): the map tries the reader of ACQ.X first, and it reads no word of ACQ.S. -/
theorem parses_encode {i : Instr} {v : Word} (he : encode i = some v) (hf : Claims.isCoreRow i = false) : Parses v i := by
  cases i <;> cases he <;> cases hf
  all_goals refine Parses.of_opField (opField_packWord ..) (by decide) ?_
  case add | sub | adds | addsU | subs | subsU | and | or | xor | andn | not | shl | shr | shrA | rot | clz | popc | brev | min
      | minU | max | maxU | abs | neg | cmpEq | cmpNe | cmpLt | cmpLe | cmpLtu | cmpLeu | test | testZ | mov | extr | extrS |
      absS | negS | mul | mulh | mulhU | div | divU | rem | remU | st => exact pT_eT ..
  case addi | rsbi | shli | shri | shriA | cmpiEq | cmpiNe | cmpiLt | cmpiLe | cmpiGt | cmpiGe | cmpiLtu | cmpiLeu | cmpiGtu |
      cmpiGeu | addiS | rsbiS => exact pI_eI ..
  case sel | insf => exact pW_eW ..
  case gens | genu | apph => exact pG_eG ..
  case lea => exact pLea_eLea ..
  case kset | knext | klast => exact pK_eK ..
  case kread => exact pKR_eKR ..
  case fadd | fsub | fmul | frnd | cvtIfSw | cvtIfSd | cvtIfUw | cvtIfUd | cvtFiSw | cvtFiSd | cvtFiUw | cvtFiUd | cvtFfF32 |
      cvtFfF16 | cvtFfBf16 | fdiv | fsqrt => exact pF_eF ..
  case fmin | fmax | fabs | fneg | fcmpEq | fcmpNe | fcmpLt | fcmpLe | fcmpUn => exact pF0_eF0 ..
  case cvtN => exact pN_eN ..
  case cvtNW => exact pNW_eNW ..
  case cvtNI => exact pNI_eNI ..
  case facc => exact pFA_eFA ..
  case iacc => exact pIA_eIA ..
  case steer | merge | mergeRr | carry | invar | gate | sinkA | ordj | ctnOpen | ctnClose | stb | fenceF | fenceD | fenceP |
      fenceS | retain | unpin | mxGath | wlkCfg | bufRel | bufStat => exact pR_eR ..
  case carryI => exact pRI_eRI ..
  case sink | nop => exact pZ_eZ ..
  case eos | eot | mark | trapV | qfence => exact pP_eP ..
  case eosI | eotI | markI | trap => exact pPI_ePI ..
  case halt => exact pHlt_eHlt ..
  case sysRd | sysWr => exact pSys_eSys ..
  case sysRdA | sysWrA | pld | amoAdd | amoAnd | amoOr | amoXor | amoSwap | redAdd | redAnd | redOr => exact pD_eD ..
  case ld => exact pLd_eLd ..
  case ldb => exact pLdb_eLdb ..
  case pst | amoCas => exact pDn_eDn ..
  case step | spawn => exact pB6_eB6 ..
  case acqX => exact congrArg (Option.or · _) (pAcq_eAcq ..)
  case acqS => exact (congrArg (Option.or · _) (pAcq_eAcqS ..)).trans (pAcqS_eAcqS ..)
  case rel => exact pAcq_eAcq ..
  case amoFadd | redFadd => exact pP2_eP2 ..
  case amoMin | amoMax | redMin | redMax => exact pDu_eDu ..
  case pref => exact pPf_ePf ..
  case flush => exact pFl_eFl ..
  case mxCfg | mxBb | mxMma | mxZero => exact pM4_eM4 ..
  case mxEpi | mxCpy | cpyStat | bufWait => exact pE3_eE3 ..
  case cpyHead => exact pB2_eB2 ..
  case wlkGo => exact pB1_eB1 ..
  case slen => exact pB3_eB3 ..
  case sld | sst | sgen | scnt | scntA | scvt => exact pB5_eB5 ..
  case sand | sor | sxor | smux | smin | smax => exact pZ3_eZ3 ..
  case snot | smov => exact pZ2_eZ2 ..
  case sregen => exact pZg_eZg ..

theorem Parses.decodeFabric {v : Word} {i : Instr} (h : Parses v i) (hv : v ≠ 0) (hwf : wellFormed i = true) :
    decodeFabric v = .ok i := by
  obtain ⟨hop, hi⟩ := h
  rw [Sys2Proof.decodeFabric, if_neg hv, if_neg (Nat.not_le.mpr hop), hi]
  exact if_pos hwf

/-! ### Words of a control core (R370) -/

section
variable (op : BitVec 7) (f3 : BitVec 3) (rd rs1 rs2 : BitVec 5)

@[simp] theorem opcode_packX : (packX op f3 rd rs1 rs2).extractLsb' 0 7 = op := BitVec.extractLsb'_append_eq_right

@[simp] theorem xRd_packX : xRd (packX op f3 rd rs1 rs2) = rd :=
  (BitVec.extractLsb'_append_eq_of_le (by decide)).trans BitVec.extractLsb'_append_eq_right

@[simp] theorem funct3_packX : (packX op f3 rd rs1 rs2).extractLsb' 12 3 = f3 :=
  (BitVec.extractLsb'_append_eq_of_le (by decide)).trans
    ((BitVec.extractLsb'_append_eq_of_le (by decide)).trans BitVec.extractLsb'_append_eq_right)

@[simp] theorem xRs1_packX : xRs1 (packX op f3 rd rs1 rs2) = rs1 := by
  rw [xRs1, packX]
  iterate 3 rw [BitVec.extractLsb'_append_eq_of_le (by decide)]
  exact BitVec.extractLsb'_append_eq_right

@[simp] theorem xRs2_packX : xRs2 (packX op f3 rd rs1 rs2) = rs2 := by
  rw [xRs2, packX]
  iterate 4 rw [BitVec.extractLsb'_append_eq_of_le (by decide)]
  exact BitVec.extractLsb'_append_eq_right

@[simp] theorem funct7_packX : (packX op f3 rd rs1 rs2).extractLsb' 25 7 = 0#7 := by
  rw [packX]
  iterate 4 rw [BitVec.extractLsb'_append_eq_of_le (by decide)]
  exact BitVec.extractLsb'_append_eq_left

end

theorem decodeXpyraro_encode {i : Instr} {v : Word} (he : encode i = some v) (hc : Claims.isCoreRow i = true) :
    decodeXpyraro v = some i ∧ isXpyraro v = true := by
  cases i <;> cases hc <;> cases he
  case xlnch | xqpri | xfltRes | xpartIl | xpartBnd => simp [decodeXpyraro, isXpyraro, xEncX3, xX3]
  case xkscan | xqstat | xfltPop | xjnlW | xpartQsc | xpartSd | xpartCommit | xsigVer | xrdCnt =>
    simp [decodeXpyraro, isXpyraro, xEncX2, xX2]
  case xhbt => simp [decodeXpyraro, isXpyraro, xEncX1, xX1]
  case xtake => simp [decodeXpyraro, isXpyraro, xEncX0, xX0]

/-! ### The empty word (R78) -/

/-- ADD.B with every field 0: always, and slot 0's latch L as both targets. -/
def addOfZero : Instr := .add .byte .always (.latch false .l 0) (.latch false .l 0)

theorem encode_eq_zero_iff {i : Instr} : encode i = some 0 ↔ i = addOfZero := by
  constructor
  · intro he
    cases hc : Claims.isCoreRow i with
    | true => exact absurd (decodeXpyraro_encode he hc).2 (by decide)
    | false =>
      obtain ⟨-, hi⟩ := parses_encode he hc
      exact (Option.some.inj hi).symm
  · rintro rfl
    rfl

/-- R78 never decodes the empty word, so the one instruction that has it as its word does not come back; every other does. -/
theorem decodes_encode_iff {i : Instr} {w : Word} (hwf : wellFormed i = true) (he : encode i = some w) :
    ((Claims.isCoreRow i = false → decodeFabric w = .ok i) ∧
      (Claims.isCoreRow i = true → decodeXpyraro w = some i ∧ isXpyraro w = true)) ↔ i ≠ addOfZero := by
  constructor
  · rintro ⟨hfabric, -⟩ rfl
    cases he
    cases hfabric rfl
  · intro hne
    have hw : w ≠ 0 := fun h => hne (encode_eq_zero_iff.mp (h ▸ he))
    exact ⟨fun hf => (parses_encode he hf).decodeFabric hw hwf, decodeXpyraro_encode he⟩

end Sys2Proof

open Sys2Proof

/-- Refutes O57: ADD.B of byte width, always, with slot 0's latch L as both targets is well-formed, and its word is the empty word,
which decodeFabric refuses (R78). By decodes_encode_iff it is the only instruction that does not come back. -/
theorem not_encodeDecodes : ¬ Obligations.EncodeDecodes := by
  unfold Obligations.EncodeDecodes
  intro h
  have hzero : encode addOfZero = some 0 := rfl
  exact (decodes_encode_iff rfl hzero).mp (h addOfZero 0 rfl hzero) rfl

/-- Settles O56: each word is a closed term and the decoder runs on it. The word of SLEN is refused for its code 6, above 5 (R139),
and the core word for its funct7 of 1 (R370). -/
theorem wordsDecode : Obligations.WordsDecode := by
  unfold Obligations.WordsDecode
  exact ⟨rfl, rfl, rfl, rfl, rfl, rfl, rfl, rfl, rfl, rfl, ⟨.badForm, rfl⟩, rfl⟩

end

section

namespace Sys2Proof.Machine

/-! ### What a capture leaves of the slots (R49, R97) -/

section
variable (x : Nat) (tok : Token) (ccyc du : Nat) (r : Bool)

@[simp] theorem captureFlags_slot (s : State) (t y : Nat) (fl : Word) : (captureFlags s t fl).slot y = s.slot y := by
  unfold captureFlags; split <;> rfl

theorem reserveAll_slot (b : Bool) (y : Nat) : ∀ (gs : List Target) (s : State), (reserveAll s x gs b).slot y = s.slot y
  | [], _ => rfl
  | g :: gs, s => by
    refine (reserveAll_slot b y gs _).trans ?_
    dsimp only
    split <;> rfl

theorem emitAll_slot (cyc y : Nat) : ∀ (gs : List Target) (s : State), (emitAll s x tok cyc ccyc du r gs).slot y = s.slot y
  | [], _ => rfl
  | g :: gs, s => (emitAll_slot cyc y gs _).trans (emitTo_slot s x tok cyc ccyc du r g y)

@[simp] theorem captureTo_slot (s : State) (cyc y : Nat) (gs : List Target) :
    (captureTo s x tok cyc ccyc du r gs).slot y = s.slot y := by
  unfold captureTo
  split
  · split
    · exact reserveAll_slot _ _ _ _ _
    · rfl
  · exact emitAll_slot _ _ _ _ _ _ _ _ _

end

/-! ### An element has consumed its inputs (R44, R46, R47) -/

@[simp] theorem consume_nextId (s : State) (x : Nat) (p : Pos) : (consume s x p).nextId = s.nextId := by
  unfold consume; dsimp only
  split
  · rfl
  · split
    · rfl
    · split <;> rfl

@[simp] theorem consumeAll_nextId (x : Nat) : ∀ (ps : List Pos) (s : State), (consumeAll s x ps).nextId = s.nextId
  | [], _ => rfl
  | p :: ps, s => (consumeAll_nextId x ps _).trans (consume_nextId s x p)

@[simp] theorem noteFiring_nextId (s : State) (x : Nat) : (noteFiring s x).nextId = s.nextId := by
  have hprogress : ∀ (u : State) (t : Nat), (noteProgress u t).nextId = u.nextId := fun u t => by
    unfold noteProgress; dsimp only; split <;> rfl
  exact hprogress _ _

/-- Slot x has consumed from the latches ps, and the firing is noted. -/
def begunFiring (s : State) (x : Nat) (ps : List Pos) : State := noteFiring (consumeAll s x ps) x

section
variable (s : State) (x : Nat) (ps : List Pos)

theorem fires_begunFiring (gs : List Target) : Fires x gs s (begunFiring s x ps) := (Fires.consumeAll ps).trans Fires.noteFiring

theorem begunFiring_nextId : (begunFiring s x ps).nextId = s.nextId := by simp [begunFiring]

theorem begunFiring_wiring : SameWiring s (begunFiring s x ps) :=
  (fires_begunFiring s x ps []).wiring (begunFiring_nextId s x ps)

theorem begunFiring_class : classOf (begunFiring s x ps) x = classOf s x := by
  have hfields := ((fires_begunFiring s x ps []).frame (begunFiring_nextId s x ps)).fields (fieldOf x)
  have hclass := congrArg FieldSt.vclass hfields
  exact congrArg classCode hclass

theorem begunFiring_q {ps : List Pos} (h : ps.Nodup) (l : Nat) : ((begunFiring s x ps).link l).q = Sys2Proof.taken s x ps l := by
  rw [begunFiring, noteFiring_link]
  exact takes_consumeAll s h l

theorem begunFiring_slot : (begunFiring s x ps).slot x = { s.slot x with fired := s.now + 1 } := by
  rw [begunFiring, noteFiring_slot, consumeAll_slot, (Held.consumeAll x ps s).now]

theorem begunFiring_tile :
    { (begunFiring s x ps).tile (tileOf x) with inCnt := [] } = { s.tile (tileOf x) with begun := true, inCnt := [] } := by
  rw [begunFiring, noteFiring_tile]
  exact congrArg (fun v : TileSt => { v with begun := true }) (consumeAll_tile x ps s)

theorem begunFiring_met : ((begunFiring s x ps).tile (tileOf x)).met = (s.tile (tileOf x)).met := by
  have hmet := congrArg TileSt.met (begunFiring_tile s x ps)
  exact hmet

theorem begunFiring_fresh : ((begunFiring s x ps).tile (tileOf x)).fresh = (s.tile (tileOf x)).fresh := by
  have hfresh := congrArg TileSt.fresh (begunFiring_tile s x ps)
  exact hfresh

end

/-! ### An element has computed (R48, R49, R97, R148, R161) -/

/-- What a firing does that has computed tok with the flags fl: it consumes all that it reads. -/
def computedAct (i : Instr) (tok : Token) (fl : Flags) : Act :=
  { take := latchesRead i, emit := some tok, outs := targetsOf i, flags := fl, computed := true, marker := false }

/-- A predicate that lets the firing through neither faults nor suppresses it (R48, R98). -/
theorem not_suppressed_of_passes {i : Instr} {r : List (Pos × Token)} (h : Passes i r) :
    ¬ (predicateOf i ≠ .always ∧ (tokenAt r .p).psn = true) ∧ suppressed (predicateOf i) (tokenAt r .p).data = false := by
  unfold Passes at h
  split at h
  case h_1 hp => simp [hp, suppressed]
  case h_2 hp =>
    obtain ⟨hpsn, htrue⟩ := h
    simpa [hp, suppressed, Machine.isTrue, hpsn] using htrue
  case h_3 hp =>
    obtain ⟨hpsn, hfalse⟩ := h
    simp [hp, suppressed, Machine.isTrue, hpsn, hfalse]

theorem latchesRead_ne_nil_of_isPlain {i : Instr} (h : Claims.isPlain i = true) : latchesRead i ≠ [] := by
  unfold latchesRead
  rcases operandsOf_of_isPlain h with ho | ho | ⟨ho, -⟩ <;> simp [ho]

/-- On DATA alone, with a predicate that passes, an element computes by its rule. -/
theorem elementPlan_computed {s : State} {i : Instr} {r : List (Pos × Token)} (rule : List (Pos × Token) → Token × Flags)
    (hi : Claims.isPlain i = true) (hready : Ready s i r) (hpass : Passes i r) :
    elementPlan s i rule = .act (computedAct i (rule r).1 (rule r).2) := by
  have hmap := readAll_latches hready.read
  have hr : r ≠ [] := by
    rintro rfl
    exact latchesRead_ne_nil_of_isPlain hi hmap.symm
  obtain ⟨hpsn, hsup⟩ := not_suppressed_of_passes hpass
  simp only [elementPlan, hready.read, markerPlan_data hr hready.data]
  rw [if_neg hpsn, hsup, if_neg Bool.false_ne_true, hmap]
  rfl

/-- A block that does not put the firing off admits it (R158, R159). -/
theorem admitted_of_notDeferred {s : State} {i : Instr} (h : NotDeferred s i) :
    (hdrEager (cfgHeader (s.tile (tileOf s.foc)).cfg) && (startOf s s.foc (latchesRead i)).2 &&
      decide (31 < startDU s i + earlyDelay (classOf s s.foc) i)) = false := by
  rcases h with h | h | h
  · simp [h]
  · simp [h]
  · simp [Nat.not_lt.mpr h]

/-- A ready firing that its block does not put off consumes its inputs and has its result captured. -/
theorem performPlan_computed {s : State} {i : Instr} {r : List (Pos × Token)} (tok : Token) (fl : Flags) (hready : Ready s i r)
    (hnow : NotDeferred s i) :
    performPlan s i (.act (computedAct i tok fl)) =
      captureAct (begunFiring s s.foc (latchesRead i)) s.foc i (computedAct i tok fl) (startDU s i)
        (Sys2Proof.headData s .l) (Sys2Proof.headData s .r) := by
  have hroom : ((computedAct i tok fl).emit.isSome && !targetsFree s s.foc (computedAct i tok fl).outs) = false := by
    simp [computedAct, hready.room]
  have hdefer := admitted_of_notDeferred hnow
  unfold startDU at hdefer
  unfold performPlan
  simp only [hready.idle, hroom, hdefer, Bool.not_true, Bool.false_eq_true, if_false]
  rfl

/-- Among the elements that follow R124, those with a cycle count take more than one cycle (R154). -/
theorem one_lt_springCycles {i : Instr} (hi : Claims.isPlain i = true) {n : Nat} (h : springCycles i = some n) : 1 < n := by
  cases i
  case mul w _ _ _ | mulh w _ _ _ | mulhU w _ _ _ =>
    change (if w = .dword then some 2 else none) = some n at h
    split at h <;> cases h
    decide
  case div w _ _ _ | divU w _ _ _ | rem w _ _ _ | remU w _ _ _ => cases h; cases w <;> decide
  case fdiv f _ _ _ | fsqrt f _ _ _ => cases h; cases f <;> simp [byKind, FSel.kind]
  case facc | iacc | kset | knext | klast | kread => exact (Bool.false_ne_true hi).elim
  all_goals cases h

theorem one_lt_cycleCount {i : Instr} (hi : Claims.isPlain i = true) {cls n : Nat} (h : cycleCount cls i = some n) : 1 < n := by
  obtain ⟨m, hm, rfl⟩ := Option.map_eq_some_iff.mp h
  have := one_lt_springCycles hi hm
  unfold scaleCycles
  split
  · assumption
  · split <;> omega

/-- Holding a result moves no token and puts the result into the result latch. -/
theorem holdResult_holds (s : State) (x : Nat) (k : ResKind) (tok : Token) (a : Act) (due start done run busy : Nat) :
    (∀ l, ((holdResult s x k tok a due start done run busy).link l).q = (s.link l).q) ∧
      ((holdResult s x k tok a due start done run busy).slot x).fired = (s.slot x).fired ∧
      Holds (holdResult s x k tok a due start done run busy) x k tok a.outs due a.flags.toWord := by
  refine ⟨fun l => reserveAll_q x false l a.outs s, ?_, ?_⟩
  · unfold holdResult
    have hfired := congrArg SlotSt.fired (reserveAll_slot x false x a.outs s)
    rw [State.setSlot_same]
    exact hfired
  · unfold Holds holdResult
    rw [State.setSlot_same]
    rfl

theorem SameWiring.trans {s t u : State} (h : SameWiring s t) (k : SameWiring t u) : SameWiring s u where
  cfg n := (k.cfg n).trans (h.cfg n)
  relaxed n := (k.relaxed n).trans (h.relaxed n)
  owner n := (k.owner n).trans (h.owner n)
  sections n := (k.sections n).trans (h.sections n)
  now := k.now.trans h.now

/-- What slot x captures behind a firing that has begun, it delivers in the firing's own cycle. -/
theorem captures_begunFiring (s : State) (x : Nat) {ps : List Pos} (hps : ps.Nodup) (tok : Token) (ccyc du : Nat) (gs : List Target)
    (fl : Word) :
    Captures s (captureTo (captureFlags (begunFiring s x ps) (tileOf x) fl) x tok (s.now + 1) ccyc du false gs) x ps tok ccyc du
      gs := by
  set u := captureFlags (begunFiring s x ps) (tileOf x) fl with hu
  have hwire : SameWiring s u := (begunFiring_wiring s x ps).trans (captureFlags_wiring _ _ _)
  have hmet : (u.tile (tileOf x)).met = (s.tile (tileOf x)).met := by
    rw [hu, captureFlags_tile]
    exact begunFiring_met s x ps
  have htaken : ∀ l, Sys2Proof.taken u x [] l = Sys2Proof.taken s x ps l := fun l => by
    rw [taken_nil, hu, captureFlags_link]
    exact begunFiring_q s x hps l
  have hcap := captures_captureTo x tok ccyc du false u gs
  rw [hwire.now] at hcap
  unfold Captures Takes Sends at hcap ⊢
  rw [hmet] at hcap
  simpa only [htaken, hwire.arriving, hwire.isResultPort] using hcap

/-- The flags of a capture are set in the tile's own cycle (R71). -/
theorem captureTo_fresh (s : State) (x : Nat) (ps : List Pos) (tok : Token) (cyc ccyc du : Nat) (gs : List Target) (fl : Word) :
    ((captureTo (captureFlags (begunFiring s x ps) (tileOf x) fl) x tok cyc ccyc du false gs).tile (tileOf x)).fresh =
      (s.tile (tileOf x)).fresh ||| fl := by
  have htile := captureTo_tile x tok ccyc du false (captureFlags (begunFiring s x ps) (tileOf x) fl) cyc (tileOf x) gs
  rw [captureFlags_tile] at htile
  have hfresh := congrArg TileSt.fresh htile
  exact hfresh.trans (congrArg (· ||| fl) (begunFiring_fresh s x ps))

/-- The capture of a firing that computed and that no checker holds back: an operation with cycles holds its result, and so does one
that completes after DU 31; any other captures it. -/
theorem captureAct_computed {s : State} {x : Nat} {i : Instr} (hi : Claims.isPlain i = true) (tok : Token) (fl : Flags)
    (start : Nat) (a b : DWord) (hcheck : (s.slot x).mismatch = none ∨ checkKind i = none) :
    captureAct s x i (computedAct i tok fl) start a b =
      match cycleCount (classOf s x) i with
      | some n => holdResult s x .cycles tok (computedAct i tok fl) (s.now + n - 1) start
          (start + (actualDelay (classOf s x) i a b).1) 0 (s.now + n)
      | none =>
        if 31 < start + (actualDelay (classOf s x) i a b).1 then
          holdResult s x .late tok (computedAct i tok fl) (s.now + 1) start (start + (actualDelay (classOf s x) i a b).1)
            (actualDelay (classOf s x) i a b).2 (s.now + 2)
        else captureTo (captureFlags s (tileOf x) fl.toWord) x tok (s.now + 1) s.now
          (start + (actualDelay (classOf s x) i a b).1 + 1) false (targetsOf i) := by
  unfold captureAct
  simp only [computedAct, if_true, Bool.true_and, and_true, decide_eq_true_eq]
  split
  · rename_i hmis hkind
    rcases hcheck with h | h
    · rw [h] at hmis; cases hmis
    · rw [h] at hkind; cases hkind
  · rcases hcycles : cycleCount (classOf s x) i with _ | n
    · rfl
    · exact if_pos (one_lt_cycleCount hi hcycles)

open Claims in
/-- The firing of an element that computes: it consumes its inputs, and its result is captured or held as R49 and R161 say. -/
theorem fired_performPlan {s : State} {i : Instr} {r : List (Pos × Token)} (hi : isPlain i = true) (tok : Token) (fl : Flags)
    (hready : Ready s i r) (hnow : NotDeferred s i) :
    Fired s (performPlan s i (.act (computedAct i tok fl))) i (latchesRead i) tok (targetsOf i) fl.toWord
      (Sys2Proof.headData s .l) (Sys2Proof.headData s .r) := by
  have hnodup := latchesRead_nodup_of_isPlain hi
  have hbegun := begunFiring_wiring s s.foc (latchesRead i)
  have hslot := begunFiring_slot s s.foc (latchesRead i)
  have hfired : ((begunFiring s s.foc (latchesRead i)).slot s.foc).fired = s.now + 1 := by rw [hslot]
  have hcheck : ((begunFiring s s.foc (latchesRead i)).slot s.foc).mismatch = none ∨ checkKind i = none := by
    rw [hslot]
    exact hready.checked
  rw [performPlan_computed tok fl hready hnow, captureAct_computed hi tok fl _ _ _ hcheck, begunFiring_class, hbegun.now]
  unfold Fired
  dsimp only
  rcases hcycles : cycleCount (classOf s s.foc) i with _ | n <;> dsimp only
  · split
    · obtain ⟨hq, hf, hholds⟩ := holdResult_holds _ s.foc .late tok (computedAct i tok fl) _ _ _ _ _
      exact ⟨hf.trans hfired, fun l => (hq l).trans (begunFiring_q s s.foc hnodup l), hholds⟩
    · exact ⟨by simpa using hfired, captures_begunFiring s s.foc hnodup _ _ _ _ _, captureTo_fresh s s.foc _ _ _ _ _ _ _⟩
  · obtain ⟨hq, hf, hholds⟩ := holdResult_holds _ s.foc .cycles tok (computedAct i tok fl) _ _ _ _ _
    exact ⟨hf.trans hfired, fun l => (hq l).trans (begunFiring_q s s.foc hnodup l), hholds⟩

end Sys2Proof.Machine
end

section

namespace Sys2Proof.Machine

open Claims

/-! ### The readings of a token's DATA are those of its low bits (R59, R99) -/

theorem bits_pos (w : Width) : 0 < w.bits := by cases w <;> decide

theorem bits_le (w : Width) : w.bits ≤ 64 := by cases w <;> decide

theorem two_mul_half (w : Width) : 2 * 2 ^ (w.bits - 1) = 2 ^ w.bits := by cases w <;> rfl

@[simp] theorem uv_bits (w : Width) (a : DWord) : uv w.bits a = (low w a).toNat := by simp [uv, low]

theorem signedOf_eq_toInt {n : Nat} (hn : 0 < n) (x : Nat) : signedOf n x = (BitVec.ofNat n x).toInt := by
  have hhalf : 2 * 2 ^ (n - 1) = 2 ^ n := by rw [← Nat.pow_succ', Nat.succ_eq_add_one, Nat.sub_add_cancel hn]
  rw [signedOf, BitVec.toInt_eq_toNat_cond, BitVec.toNat_ofNat]
  exact if_congr (by omega) rfl rfl

@[simp] theorem sv_bits (w : Width) (a : DWord) : sv w.bits a = (low w a).toInt := by
  rw [sv, signedOf_eq_toInt (bits_pos w), BitVec.ofNat_toNat, low]

theorem trunc_eq (n : Nat) (v : Int) : trunc n v = (BitVec.ofInt n v).toNat := rfl

theorem ofInt_sub (n : Nat) (v u : Int) : BitVec.ofInt n (v - u) = BitVec.ofInt n v - BitVec.ofInt n u := by
  rw [Int.sub_eq_add_neg, BitVec.ofInt_add, BitVec.ofInt_neg, BitVec.sub_eq_add_neg]

theorem ofInt_toNat {n : Nat} (x : BitVec n) : BitVec.ofInt n x.toNat = x := by
  rw [BitVec.ofInt_natCast, BitVec.ofNat_toNat, BitVec.setWidth_eq]

/-- A signed immediate, cut or extended to a width. -/
theorem ofInt_toInt_signExtend {n : Nat} (m : Nat) (x : BitVec n) : BitVec.ofInt m x.toInt = x.signExtend m := rfl

theorem satS_eq_clampS (w : Width) (v : Int) : satS w.bits v = clampS w v := by
  have hhalf := two_mul_half w
  have hpos : 0 < 2 ^ (w.bits - 1) := Nat.two_pow_pos _
  rw [satS, clampS, ← trunc_eq]
  split
  · have hwrap : -((2 ^ (w.bits - 1) : Nat) : Int) = (2 ^ (w.bits - 1) : Nat) + (2 ^ w.bits : Nat) * (-1) := by omega
    rw [min_eq_right (by omega), max_eq_left (by omega), trunc, hwrap, Int.add_mul_emod_self_left,
      Int.emod_eq_of_lt (by omega) (by omega), Int.toNat_natCast]
  · split
    · rw [min_eq_left (by omega), max_eq_right (by omega), trunc, Int.emod_eq_of_lt (by omega) (by omega)]
      omega
    · rw [min_eq_right (by omega), max_eq_right (by omega)]

/-! ### Sums, differences, the lesser and the greater (R101, R102) -/

section
variable (w : Width) (a b : DWord) {m : Nat} (n : BitVec m)

theorem addW_eq : addW w.bits a b = (low w a + low w b).toNat := by
  rw [addW, uv_bits, uv_bits, trunc_eq, BitVec.ofInt_add, ofInt_toNat, ofInt_toNat]

theorem subW_eq : subW w.bits a b = (low w a - low w b).toNat := by
  rw [subW, uv_bits, uv_bits, trunc_eq, ofInt_sub, ofInt_toNat, ofInt_toNat]

theorem addsW_eq : addsW w.bits a b = clampS w ((low w a).toInt + (low w b).toInt) := by
  rw [addsW, satS_eq_clampS, sv_bits, sv_bits]

theorem addsuW_eq : addsuW w.bits a b = min ((low w a).toNat + (low w b).toNat) (2 ^ w.bits - 1) := by
  have hpos : 0 < 2 ^ w.bits := Nat.two_pow_pos _
  rw [addsuW, satU, uv_bits, uv_bits]
  split
  · omega
  · split <;> omega

theorem subsW_eq : subsW w.bits a b = clampS w ((low w a).toInt - (low w b).toInt) := by
  rw [subsW, satS_eq_clampS, sv_bits, sv_bits]

theorem subsuW_eq : subsuW w.bits a b = (low w a).toNat - (low w b).toNat := by
  have := (low w a).isLt
  rw [subsuW, satU, uv_bits, uv_bits]
  split
  · omega
  · split <;> omega

theorem minW_eq : minW w.bits a b = (if (low w a).toInt ≤ (low w b).toInt then low w a else low w b).toNat := by
  rw [minW, sv_bits, sv_bits]
  split <;> rw [trunc_eq, BitVec.ofInt_toInt]

theorem maxW_eq : maxW w.bits a b = (if (low w a).toInt ≤ (low w b).toInt then low w b else low w a).toNat := by
  rw [maxW, sv_bits, sv_bits]
  split <;> rw [trunc_eq, BitVec.ofInt_toInt]

theorem minuW_eq : minuW w.bits a b = min (low w a).toNat (low w b).toNat := by
  rw [minuW, uv_bits, uv_bits, Nat.min_def]

theorem maxuW_eq : maxuW w.bits a b = max (low w a).toNat (low w b).toNat := by
  rw [maxuW, uv_bits, uv_bits, Nat.max_def]

theorem addiW_eq : addiW w.bits a n.toInt = (low w a + n.signExtend w.bits).toNat := by
  rw [addiW, uv_bits, trunc_eq, BitVec.ofInt_add, ofInt_toNat, ofInt_toInt_signExtend]

theorem rsbiW_eq : rsbiW w.bits a n.toInt = (n.signExtend w.bits - low w a).toNat := by
  rw [rsbiW, uv_bits, trunc_eq, ofInt_sub, ofInt_toNat, ofInt_toInt_signExtend]

theorem addisW_eq : addisW w.bits a n.toInt = clampS w ((low w a).toInt + n.toInt) := by
  rw [addisW, satS_eq_clampS, sv_bits]

theorem rsbisW_eq : rsbisW w.bits a n.toInt = clampS w (n.toInt - (low w a).toInt) := by
  rw [rsbisW, satS_eq_clampS, sv_bits]

/-! ### Logic (R103) -/

theorem andW_eq : andW w.bits a b = (low w a &&& low w b).toNat := by
  rw [andW, uv_bits, low, BitVec.setWidth_and]; rfl

theorem orW_eq : orW w.bits a b = (low w a ||| low w b).toNat := by
  rw [orW, uv_bits, low, BitVec.setWidth_or]; rfl

theorem xorW_eq : xorW w.bits a b = (low w a ^^^ low w b).toNat := by
  rw [xorW, uv_bits, low, BitVec.setWidth_xor]; rfl

theorem andnW_eq : andnW w.bits a b = (low w a &&& ~~~low w b).toNat := by
  rw [andnW, uv_bits, low, BitVec.setWidth_and, BitVec.setWidth_not (bits_le w)]; rfl

theorem notW_eq : notW w.bits a = (~~~low w a).toNat := by
  rw [notW, uv_bits, low, BitVec.setWidth_not (bits_le w)]; rfl

/-! ### Shifts and rotation (R104) -/

variable (k : Nat)

theorem shlW_eq : shlW w.bits k a = shiftUp w a k := by
  rw [shlW, shiftUp, uv_bits, BitVec.toNat_shiftLeft, Nat.shiftLeft_eq]

theorem shrW_eq : shrW w.bits k a = shiftDown w a k := by
  rw [shrW, shiftDown, uv_bits, BitVec.toNat_ushiftRight, Nat.shiftRight_eq_div_pow]

theorem shraW_eq : shraW w.bits k a = ((low w a).sshiftRight (min k (w.bits - 1))).toNat := by
  rw [shraW, sv_bits, trunc_eq, BitVec.sshiftRight, Int.shiftRight_eq_div_pow]

/-- The bits that a rotation moves up and those that come round from the top do not meet. -/
theorem rotate_add_eq_or {x i j : Nat} (h : x < 2 ^ (i + j)) :
    (x * 2 ^ i + x / 2 ^ j) % 2 ^ (i + j) = x * 2 ^ i % 2 ^ (i + j) ||| x / 2 ^ j := by
  have hround : x / 2 ^ j < 2 ^ i := Nat.div_lt_of_lt_mul (by rwa [← Nat.pow_add, Nat.add_comm j])
  have hmoved : x * 2 ^ i % 2 ^ (i + j) = 2 ^ i * (x % 2 ^ j) := by rw [Nat.pow_add, Nat.mul_comm, Nat.mul_mod_mul_left]
  have hsum : 2 ^ i * (x % 2 ^ j) + x / 2 ^ j < 2 ^ (i + j) :=
    calc 2 ^ i * (x % 2 ^ j) + x / 2 ^ j < 2 ^ i * (x % 2 ^ j + 1) := by rw [Nat.mul_succ]; exact Nat.add_lt_add_left hround _
      _ ≤ 2 ^ i * 2 ^ j := Nat.mul_le_mul_left _ (Nat.mod_lt _ (Nat.two_pow_pos j))
      _ = 2 ^ (i + j) := (Nat.pow_add 2 i j).symm
  rw [← Nat.mod_add_mod, hmoved, Nat.mod_eq_of_lt hsum, Nat.two_pow_add_eq_or_of_lt hround]

theorem rotW_eq : rotW w.bits k a = ((low w a).rotateLeft k).toNat := by
  have hsum : k % w.bits + (w.bits - k % w.bits) = w.bits := Nat.add_sub_cancel' (Nat.mod_lt _ (bits_pos w)).le
  have hor := rotate_add_eq_or (x := (low w a).toNat) (i := k % w.bits) (j := w.bits - k % w.bits)
    (by rw [hsum]; exact (low w a).isLt)
  rw [hsum] at hor
  rw [rotW, uv_bits, BitVec.toNat_rotateLeft, Nat.shiftLeft_eq, Nat.shiftRight_eq_div_pow, hor]

end

/-! ### Absolute value, negation, comparisons, selection and constants (R106 to R109) -/

section
variable (w : Width) (a b c : DWord) {m : Nat} (n : BitVec m)

theorem absW_eq : absW w.bits a = (if (low w a).toInt < 0 then -low w a else low w a).toNat := by
  rw [absW, sv_bits, trunc_eq]
  split
  · rw [Int.ofNat_natAbs_of_nonpos (by omega), BitVec.ofInt_neg, BitVec.ofInt_toInt]
  · rw [Int.natAbs_of_nonneg (by omega), BitVec.ofInt_toInt]

theorem negW_eq : negW w.bits a = (-low w a).toNat := by
  rw [negW, uv_bits, trunc_eq, BitVec.ofInt_neg, ofInt_toNat]

theorem abssW_eq : abssW w.bits a = clampS w (max (low w a).toInt (-(low w a).toInt)) := by
  rw [abssW, satS_eq_clampS, sv_bits, Int.natCast_natAbs, abs_eq_max_neg]

theorem negsW_eq : negsW w.bits a = clampS w (-(low w a).toInt) := by
  rw [negsW, satS_eq_clampS, sv_bits]

theorem uv_inj : uv w.bits a = uv w.bits b ↔ low w a = low w b := by
  rw [uv_bits, uv_bits, BitVec.toNat_inj]

theorem uv_eq_trunc : uv w.bits a = trunc w.bits n.toInt ↔ low w a = n.signExtend w.bits := by
  rw [uv_bits, trunc_eq, ofInt_toInt_signExtend, BitVec.toNat_inj]

theorem andW_eq_zero : andW w.bits a b = 0 ↔ low w a &&& low w b = 0 := by
  rw [andW_eq, ← BitVec.toNat_inj]
  rfl

/-- A condition that is decided is 1 or 0. -/
theorem b2n_decide {p : Prop} [Decidable p] {d : Bool} (h : p ↔ d = true) : b2n (decide p) = truth d := by
  have hd : decide p = d := by simp [h]
  rw [hd]
  rfl

theorem selW_eq : (if Machine.isTrue c then uv w.bits a else uv w.bits b) = (if c ≠ 0 then low w a else low w b).toNat := by
  rw [uv_bits, uv_bits, apply_ite BitVec.toNat]
  exact if_congr bne_iff_ne rfl rfl

theorem apphW_eq (n : BitVec 15) : (a.toNat * 2 ^ 15 + n.toNat) % 2 ^ 64 = (a <<< 15 ||| n.setWidth 64).toNat := by
  have hn : n.toNat < 2 ^ 15 := n.isLt
  have hword : 2 ^ 64 = 2 ^ 15 * 2 ^ 49 := rfl
  have hor : a.toNat * 2 ^ 15 % 2 ^ 64 ||| n.toNat = a.toNat * 2 ^ 15 % 2 ^ 64 + n.toNat := by
    rw [hword, Nat.mul_comm, Nat.mul_mod_mul_left, Nat.two_pow_add_eq_or_of_lt hn]
  rw [BitVec.toNat_or, BitVec.toNat_shiftLeft, Nat.shiftLeft_eq, BitVec.toNat_setWidth_of_le (by decide), hor]
  omega

end

/-! ### Bit counts and reversal (R105) -/

theorem bitLen_eq {n x : Nat} (h : x < 2 ^ n) : bitLen n x = if x = 0 then 0 else x.log2 + 1 := by
  induction n generalizing x with
  | zero =>
    have : x = 0 := by omega
    simp [this, bitLen]
  | succ n ih =>
    rw [bitLen]
    split
    · rfl
    · rw [ih (by omega), Nat.log2_def x]
      split <;> split <;> omega

theorem popCount_eq (n x : Nat) : popCount n x = (List.range n).countP fun k => x.testBit k := by
  induction n generalizing x with
  | zero => rfl
  | succ n ih =>
    have htail : ((fun k => x.testBit k) ∘ Nat.succ) = fun k => (x / 2).testBit k := by
      funext k
      exact Nat.testBit_succ x k
    rw [popCount, ih, List.range_succ_eq_map, List.countP_cons, List.countP_map, htail, Nat.testBit_zero, Nat.add_comm]
    have := Nat.mod_two_eq_zero_or_one x
    rcases this with h | h <;> simp [h]

theorem reverseBits_lt (n x : Nat) : reverseBits n x < 2 ^ n := by
  induction n generalizing x with
  | zero => exact Nat.one_pos
  | succ n ih =>
    have hrest := ih (x / 2)
    have htop : x % 2 * 2 ^ n ≤ 1 * 2 ^ n := Nat.mul_le_mul_right _ (by omega)
    rw [reverseBits, Nat.pow_succ]
    omega

theorem testBit_reverseBits (n x i : Nat) : (reverseBits n x).testBit i = (decide (i < n) && x.testBit (n - 1 - i)) := by
  induction n generalizing x i with
  | zero => simp [reverseBits]
  | succ n ih =>
    rw [reverseBits, Nat.mul_comm, Nat.testBit_two_pow_mul_add _ (reverseBits_lt n _), ih]
    rcases Nat.lt_trichotomy i n with h | rfl | h
    · have hnext : n + 1 - 1 - i = (n - 1 - i) + 1 := by omega
      rw [if_pos h, hnext, Nat.testBit_succ, decide_eq_true h, decide_eq_true (by omega)]
    · simp
    · have hbelow : x % 2 < 2 ^ (i - n) := (Nat.mod_lt x two_pos).trans_le (Nat.le_self_pow (by omega) 2)
      rw [if_neg (by omega), Nat.testBit_lt_two_pow hbelow, decide_eq_false (by omega), Bool.false_and]

section
variable (w : Width) (a : DWord)

theorem clzW_eq : clzW w.bits a = if low w a = 0 then w.bits else w.bits - 1 - (low w a).toNat.log2 := by
  have hzero : (low w a).toNat = 0 ↔ low w a = 0 := BitVec.toNat_inj (y := 0)
  rw [clzW, uv_bits, bitLen_eq (low w a).isLt, if_congr hzero rfl rfl]
  split <;> omega

theorem popcW_eq : popcW w.bits a = (List.range w.bits).countP fun k => (low w a).getLsbD k := by
  rw [popcW, uv_bits, popCount_eq]
  rfl

theorem brevW_eq : brevW w.bits a = (low w a).reverse.toNat := by
  refine Nat.eq_of_testBit_eq fun i => ?_
  rw [brevW, uv_bits, testBit_reverseBits, BitVec.testBit_toNat, BitVec.testBit_toNat, BitVec.getLsbD_reverse, BitVec.getMsbD]

end

/-! ### Bit fields (R110) -/

theorem specPos_eq (c : DWord) : (c.extractLsb' 0 6).toNat = fieldPos c := by
  rw [BitVec.extractLsb'_toNat, Nat.shiftRight_zero]
  rfl

theorem specLen_eq (c : DWord) : specLen c = fieldLen c := by
  rw [specLen, BitVec.extractLsb'_toNat, Nat.shiftRight_eq_div_pow]
  rfl

theorem ofNat_field {m : Nat} (x : BitVec m) (p n : Nat) : BitVec.ofNat n (x.toNat / 2 ^ p % 2 ^ n) = x.extractLsb' p n := by
  refine BitVec.eq_of_toNat_eq ?_
  rw [BitVec.toNat_ofNat, BitVec.extractLsb'_toNat, Nat.mod_mod, Nat.shiftRight_eq_div_pow]

/-- The bits of a field's mask. -/
theorem getLsbD_fieldMask {m p n : Nat} (h : p + n ≤ m) (i : Nat) :
    ((BitVec.allOnes n).setWidth m <<< p).getLsbD i = (decide (p ≤ i) && decide (i < p + n)) := by
  simp only [BitVec.getLsbD_shiftLeft, BitVec.getLsbD_setWidth, BitVec.getLsbD_allOnes]
  grind

/-- A number whose bits p to p + n - 1 are those of y, and its others those of x. -/
theorem testBit_insert (x y p n i : Nat) :
    (x % 2 ^ p + y % 2 ^ n * 2 ^ p + x / 2 ^ (p + n) * 2 ^ (p + n)).testBit i =
      if p ≤ i ∧ i < p + n then y.testBit (i - p) else x.testBit i := by
  have hlow : x % 2 ^ p < 2 ^ p := Nat.mod_lt _ (Nat.two_pow_pos p)
  have hfield : y % 2 ^ n < 2 ^ n := Nat.mod_lt _ (Nat.two_pow_pos n)
  have hsum : x % 2 ^ p + y % 2 ^ n * 2 ^ p + x / 2 ^ (p + n) * 2 ^ (p + n) =
      2 ^ p * (2 ^ n * (x / 2 ^ (p + n)) + y % 2 ^ n) + x % 2 ^ p := by
    rw [Nat.pow_add]; ring
  rw [hsum, Nat.testBit_two_pow_mul_add _ hlow, Nat.testBit_two_pow_mul_add _ hfield, Nat.testBit_mod_two_pow,
    Nat.testBit_mod_two_pow, Nat.testBit_div_two_pow]
  by_cases hi : i < p
  · rw [if_pos hi, if_neg (by omega), decide_eq_true hi, Bool.true_and]
  · rw [if_neg hi]
    by_cases hn : i - p < n
    · rw [if_pos hn, if_pos (by omega), decide_eq_true hn, Bool.true_and]
    · have hpos : i - p - n + (p + n) = i := by omega
      rw [if_neg hn, if_neg (by omega), hpos]

/-- A field of x, given by its mask, replaced by the low bits of y. -/
theorem toNat_insert {m p n : Nat} (h : p + n ≤ m) (x y : BitVec m) :
    ((x &&& ~~~((BitVec.allOnes n).setWidth m <<< p)) ||| ((y <<< p) &&& ((BitVec.allOnes n).setWidth m <<< p))).toNat =
      x.toNat % 2 ^ p + y.toNat % 2 ^ n * 2 ^ p + x.toNat / 2 ^ (p + n) * 2 ^ (p + n) := by
  refine Nat.eq_of_testBit_eq fun i => ?_
  rw [testBit_insert, BitVec.testBit_toNat, BitVec.testBit_toNat, BitVec.testBit_toNat]
  simp only [BitVec.getLsbD_or, BitVec.getLsbD_and, BitVec.getLsbD_not, BitVec.getLsbD_shiftLeft, getLsbD_fieldMask h]
  by_cases hi : p ≤ i ∧ i < p + n
  · have hm : i < m := by omega
    have hp : ¬ i < p := by omega
    simp [hi, hm, hp]
  · have hmask : (decide (p ≤ i) && decide (i < p + n)) = false := by rw [← Bool.decide_and, decide_eq_false hi]
    rw [hmask, if_neg hi]
    simpa using fun hx : x.getLsbD i = true => BitVec.lt_of_getLsbD hx

section
variable (w : Width) (a b c : DWord)

theorem fieldAtSpec_empty (h : fieldEmpty w.bits c = true) : fieldAtSpec w a c = none := by
  rw [fieldAtSpec, specPos_eq, specLen_eq]
  exact if_pos (by simpa [fieldEmpty] using h)

theorem fieldAtSpec_some (h : ¬ fieldEmpty w.bits c = true) :
    fieldAtSpec w a c = some ⟨fieldEff w.bits c, (low w a).extractLsb' (fieldPos c) (fieldEff w.bits c)⟩ := by
  rw [fieldAtSpec, specPos_eq, specLen_eq]
  exact if_neg (by simpa [fieldEmpty] using h)

/-- A field that is not empty lies within the width. -/
theorem fieldEff_bounds (h : ¬ fieldEmpty w.bits c = true) :
    0 < fieldEff w.bits c ∧ fieldPos c + fieldEff w.bits c ≤ w.bits := by
  simp only [fieldEmpty, Bool.or_eq_true, decide_eq_true_eq] at h
  unfold fieldEff
  omega

theorem countValue_extr (p : Pred) (t1 t0 : Target) : countValue (.extr w p t1 t0) a c b = some (extrW w.bits a c) := by
  rw [countValue, extrW]
  by_cases h : fieldEmpty w.bits c = true
  · rw [fieldAtSpec_empty w a c h, if_pos h]
  · rw [fieldAtSpec_some w a c h, if_neg h, uv_bits]
    dsimp only
    rw [BitVec.extractLsb'_toNat, Nat.shiftRight_eq_div_pow]

theorem countValue_extrS (p : Pred) (t1 t0 : Target) : countValue (.extrS w p t1 t0) a c b = some (extrsW w.bits a c) := by
  rw [countValue, extrsW]
  by_cases h : fieldEmpty w.bits c = true
  · rw [fieldAtSpec_empty w a c h, if_pos h]
  · obtain ⟨hpos, -⟩ := fieldEff_bounds w c h
    rw [fieldAtSpec_some w a c h, if_neg h, signExt, uv_bits, signedOf_eq_toInt hpos, ofNat_field, trunc_eq, ofInt_toInt_signExtend]

theorem countValue_insf (t1 t0 : Target) : countValue (.insf w t1 t0) a b c = some (insfW w.bits a b c) := by
  rw [countValue, insfW]
  by_cases h : fieldEmpty w.bits c = true
  · rw [fieldAtSpec_empty w a c h, if_pos h, uv_bits]
  · obtain ⟨-, hin⟩ := fieldEff_bounds w c h
    have hb : (low w b).toNat % 2 ^ fieldEff w.bits c = b.toNat % 2 ^ fieldEff w.bits c := by
      rw [low, BitVec.toNat_setWidth, Nat.mod_mod_of_dvd _ (Nat.pow_dvd_pow 2 (by omega))]
    rw [fieldAtSpec_some w a c h, if_neg h, uv_bits, specPos_eq]
    dsimp only
    rw [toNat_insert hin, hb]

/-! ### Addresses, division and products (R111, R112, R119) -/

theorem ofNat_two_pow (m k : Nat) : BitVec.ofNat m (2 ^ k) = BitVec.twoPow m k :=
  BitVec.eq_of_toNat_eq (by rw [BitVec.toNat_ofNat, BitVec.toNat_twoPow])

theorem leaW_eq (k : Nat) : leaW w.bits k a b = (a + ((low w b).signExtend 64 <<< k)).toNat := by
  rw [leaW, sv_bits, trunc_eq, BitVec.ofInt_add, BitVec.ofInt_mul, ofInt_toNat, ofInt_toInt_signExtend, BitVec.ofInt_natCast,
    ofNat_two_pow, BitVec.shiftLeft_eq_mul_twoPow]

theorem ofInt_tdiv {m : Nat} (x y : BitVec m) : BitVec.ofInt m (x.toInt.tdiv y.toInt) = x.sdiv y := by
  rw [← BitVec.toInt_inj, BitVec.toInt_ofInt, BitVec.toInt_sdiv]

theorem ofInt_tmod {m : Nat} (x y : BitVec m) : BitVec.ofInt m (x.toInt.tmod y.toInt) = x.srem y := by
  rw [← BitVec.toInt_srem, BitVec.ofInt_toInt]

theorem sv_eq_zero : sv w.bits b = 0 ↔ low w b = 0 := by
  rw [sv_bits, ← BitVec.toInt_inj]
  simp

theorem uv_eq_zero : uv w.bits b = 0 ↔ low w b = 0 := by
  rw [uv_bits]
  exact BitVec.toNat_inj (y := 0)

/-- The least value of a width is its own negation. -/
theorem neg_eq_self_of_least {x : BitVec w.bits} (h : x.toInt = -(2 ^ (w.bits - 1) : Nat)) : -x = x := by
  have hmin : x = BitVec.intMin w.bits := by
    rw [← BitVec.toInt_inj, h, BitVec.toInt_intMin_of_pos (bits_pos w)]
    simp
  rw [hmin, BitVec.neg_intMin]

theorem divS_eq : divS w.bits a b = (if low w b = 0 then BitVec.allOnes w.bits else (low w a).sdiv (low w b)).toNat := by
  rw [divS, if_congr (sv_eq_zero w b) rfl rfl, apply_ite BitVec.toNat, BitVec.toNat_allOnes]
  refine if_congr Iff.rfl rfl ?_
  rw [trunc_eq, sv_bits, sv_bits, ofInt_tdiv]
  split
  · rename_i h
    obtain ⟨ha, hb⟩ := h
    rw [uv_bits, ← ofInt_tdiv, hb, Int.tdiv_neg, Int.tdiv_one, BitVec.ofInt_neg, BitVec.ofInt_toInt, neg_eq_self_of_least w ha]
  · rfl

theorem remS_eq : remS w.bits a b = (if low w b = 0 then low w a else (low w a).srem (low w b)).toNat := by
  rw [remS, if_congr (sv_eq_zero w b) rfl rfl, apply_ite BitVec.toNat, uv_bits]
  refine if_congr Iff.rfl rfl ?_
  rw [trunc_eq, sv_bits, sv_bits, Int.mul_comm, ← Int.tmod_def, ofInt_tmod]
  split
  · rename_i h
    obtain ⟨-, hb⟩ := h
    rw [← ofInt_tmod, hb, Int.tmod_neg, Int.tmod_one]
    rfl
  · rfl

theorem divU_eq : Machine.divU w.bits a b = (if low w b = 0 then BitVec.allOnes w.bits else low w a / low w b).toNat := by
  rw [Machine.divU, if_congr (uv_eq_zero w b) rfl rfl, apply_ite BitVec.toNat, BitVec.toNat_allOnes, uv_bits, uv_bits,
    BitVec.toNat_udiv]

theorem remU_eq : Machine.remU w.bits a b = (if low w b = 0 then low w a else low w a % low w b).toNat := by
  rw [Machine.remU, if_congr (uv_eq_zero w b) rfl rfl, apply_ite BitVec.toNat, uv_bits, uv_bits, BitVec.toNat_umod]

theorem mulW_eq : mulW w.bits a b = (low w a * low w b).toNat := by
  rw [mulW, uv_bits, uv_bits, BitVec.toNat_mul]

theorem mulhW_eq : mulhW w.bits a b = (BitVec.ofInt w.bits ((low w a).toInt * (low w b).toInt / (2 ^ w.bits : Nat))).toNat := by
  rw [mulhW, sv_bits, sv_bits, trunc_eq]

theorem mulhuW_eq : mulhuW w.bits a b = (low w a).toNat * (low w b).toNat / 2 ^ w.bits := by
  rw [mulhuW, uv_bits, uv_bits]

end

end Sys2Proof.Machine
end

section

namespace Sys2Proof.Machine

open Claims

/-! ### The integer elements and their values (R99 to R112, R119) -/

/-- Instruction i is an integer element that answers v on the data a, b and c of L, R and P. -/
def Answers (i : Instr) (a b c : DWord) (v : Nat) : Prop :=
  isPlain i = true ∧ ∃ f : DWord → DWord → DWord → Nat, (∀ s, exec i s = intElement s i f) ∧ f a b c = v

/-- A ready integer element that its block does not put off sends its value, poisoned where some token read was. -/
theorem Answers.computes {s : State} {i : Instr} {r : List (Pos × Token)} {v : Nat}
    (h : Answers i (tokenAt r .l).data (tokenAt r .r).data (tokenAt r .p).data v) (hready : Ready s i r) (hpass : Passes i r)
    (hnow : NotDeferred s i) : Computes s i r v 0 := by
  obtain ⟨hi, f, hexec, rfl⟩ := h
  have hplan := elementPlan_computed (fun q : List (Pos × Token) =>
    (dataTok (dataOf (f (tokenAt q .l).data (tokenAt q .r).data (tokenAt q .p).data)) (anyPsn q), Flags.none))
    hi hready hpass
  exact ⟨_, (hexec s).trans (congrArg (fun pl => Host.Outcome.next (performPlan s i pl)) hplan),
    fired_performPlan hi _ Flags.none hready hnow⟩

theorem answers_of_sumValue {i : Instr} {a b : DWord} {v : Nat} (h : sumValue i a b = some v) (c : DWord) : Answers i a b c v := by
  cases i <;> cases h
  all_goals refine ⟨rfl, ?_⟩
  case add w _ _ _ => exact ⟨fun a b _ => addW w.bits a b, fun _ => rfl, addW_eq w a b⟩
  case sub w _ _ _ => exact ⟨fun a b _ => subW w.bits a b, fun _ => rfl, subW_eq w a b⟩
  case adds w _ _ _ => exact ⟨fun a b _ => addsW w.bits a b, fun _ => rfl, addsW_eq w a b⟩
  case addsU w _ _ _ => exact ⟨fun a b _ => addsuW w.bits a b, fun _ => rfl, addsuW_eq w a b⟩
  case subs w _ _ _ => exact ⟨fun a b _ => subsW w.bits a b, fun _ => rfl, subsW_eq w a b⟩
  case subsU w _ _ _ => exact ⟨fun a b _ => subsuW w.bits a b, fun _ => rfl, subsuW_eq w a b⟩
  case addi w _ n _ => exact ⟨fun a _ _ => addiW w.bits a n.toInt, fun _ => rfl, addiW_eq w a n⟩
  case rsbi w _ n _ => exact ⟨fun a _ _ => rsbiW w.bits a n.toInt, fun _ => rfl, rsbiW_eq w a n⟩
  case addiS w _ n _ => exact ⟨fun a _ _ => addisW w.bits a n.toInt, fun _ => rfl, addisW_eq w a n⟩
  case rsbiS w _ n _ => exact ⟨fun a _ _ => rsbisW w.bits a n.toInt, fun _ => rfl, rsbisW_eq w a n⟩
  case and w _ _ _ => exact ⟨fun a b _ => andW w.bits a b, fun _ => rfl, andW_eq w a b⟩
  case or w _ _ _ => exact ⟨fun a b _ => orW w.bits a b, fun _ => rfl, orW_eq w a b⟩
  case xor w _ _ _ => exact ⟨fun a b _ => xorW w.bits a b, fun _ => rfl, xorW_eq w a b⟩
  case andn w _ _ _ => exact ⟨fun a b _ => andnW w.bits a b, fun _ => rfl, andnW_eq w a b⟩
  case not w _ _ _ => exact ⟨fun a _ _ => notW w.bits a, fun _ => rfl, notW_eq w a⟩
  case min w _ _ _ => exact ⟨fun a b _ => minW w.bits a b, fun _ => rfl, minW_eq w a b⟩
  case minU w _ _ _ => exact ⟨fun a b _ => minuW w.bits a b, fun _ => rfl, minuW_eq w a b⟩
  case max w _ _ _ => exact ⟨fun a b _ => maxW w.bits a b, fun _ => rfl, maxW_eq w a b⟩
  case maxU w _ _ _ => exact ⟨fun a b _ => maxuW w.bits a b, fun _ => rfl, maxuW_eq w a b⟩
  case shl w _ _ _ => exact ⟨fun a b _ => shlW w.bits (uv w.bits b) a, fun _ => rfl, by simp only [uv_bits, shlW_eq]⟩
  case shr w _ _ _ => exact ⟨fun a b _ => shrW w.bits (uv w.bits b) a, fun _ => rfl, by simp only [uv_bits, shrW_eq]⟩
  case shrA w _ _ _ => exact ⟨fun a b _ => shraW w.bits (uv w.bits b) a, fun _ => rfl, by simp only [uv_bits, shraW_eq]⟩
  case rot w _ _ _ => exact ⟨fun a b _ => rotW w.bits (uv w.bits b) a, fun _ => rfl, by simp only [uv_bits, rotW_eq]⟩
  case shli w _ n _ => exact ⟨fun a _ _ => shlW w.bits n.toNat a, fun _ => rfl, shlW_eq w a _⟩
  case shri w _ n _ => exact ⟨fun a _ _ => shrW w.bits n.toNat a, fun _ => rfl, shrW_eq w a _⟩
  case shriA w _ n _ => exact ⟨fun a _ _ => shraW w.bits n.toNat a, fun _ => rfl, shraW_eq w a _⟩

theorem answers_of_choiceValue {i : Instr} {a b c : DWord} {v : Nat} (h : choiceValue i a b c = some v) : Answers i a b c v := by
  cases i <;> cases h
  all_goals refine ⟨rfl, ?_⟩
  case abs w _ _ _ => exact ⟨fun a _ _ => absW w.bits a, fun _ => rfl, absW_eq w a⟩
  case neg w _ _ _ => exact ⟨fun a _ _ => negW w.bits a, fun _ => rfl, negW_eq w a⟩
  case absS w _ _ _ => exact ⟨fun a _ _ => abssW w.bits a, fun _ => rfl, abssW_eq w a⟩
  case negS w _ _ _ => exact ⟨fun a _ _ => negsW w.bits a, fun _ => rfl, negsW_eq w a⟩
  case cmpEq w _ _ _ => exact ⟨fun a b _ => b2n (decide (uv w.bits a = uv w.bits b)), fun _ => rfl,
    b2n_decide (by rw [uv_inj, beq_iff_eq])⟩
  case cmpNe w _ _ _ => exact ⟨fun a b _ => b2n (decide (uv w.bits a ≠ uv w.bits b)), fun _ => rfl,
    b2n_decide (by rw [Ne, uv_inj, bne_iff_ne])⟩
  case cmpLt w _ _ _ => exact ⟨fun a b _ => b2n (decide (sv w.bits a < sv w.bits b)), fun _ => rfl,
    b2n_decide (by rw [sv_bits, sv_bits, BitVec.slt_iff_toInt_lt])⟩
  case cmpLe w _ _ _ => exact ⟨fun a b _ => b2n (decide (sv w.bits a ≤ sv w.bits b)), fun _ => rfl,
    b2n_decide (by rw [sv_bits, sv_bits, BitVec.sle_iff_toInt_le])⟩
  case cmpLtu w _ _ _ => exact ⟨fun a b _ => b2n (decide (uv w.bits a < uv w.bits b)), fun _ => rfl,
    b2n_decide (by rw [uv_bits, uv_bits, BitVec.ult_iff_toNat_lt])⟩
  case cmpLeu w _ _ _ => exact ⟨fun a b _ => b2n (decide (uv w.bits a ≤ uv w.bits b)), fun _ => rfl,
    b2n_decide (by rw [uv_bits, uv_bits, BitVec.ule_iff_toNat_le])⟩
  case cmpiEq w _ n _ => exact ⟨fun a _ _ => b2n (decide (uv w.bits a = trunc w.bits n.toInt)), fun _ => rfl,
    b2n_decide (by rw [uv_eq_trunc, beq_iff_eq])⟩
  case cmpiNe w _ n _ => exact ⟨fun a _ _ => b2n (decide (uv w.bits a ≠ trunc w.bits n.toInt)), fun _ => rfl,
    b2n_decide (by rw [Ne, uv_eq_trunc, bne_iff_ne])⟩
  case cmpiLt w _ n _ => exact ⟨fun a _ _ => b2n (decide (sv w.bits a < n.toInt)), fun _ => rfl,
    b2n_decide (by rw [sv_bits, decide_eq_true_iff])⟩
  case cmpiLe w _ n _ => exact ⟨fun a _ _ => b2n (decide (sv w.bits a ≤ n.toInt)), fun _ => rfl,
    b2n_decide (by rw [sv_bits, decide_eq_true_iff])⟩
  case cmpiGt w _ n _ => exact ⟨fun a _ _ => b2n (decide (n.toInt < sv w.bits a)), fun _ => rfl,
    b2n_decide (by rw [sv_bits, decide_eq_true_iff])⟩
  case cmpiGe w _ n _ => exact ⟨fun a _ _ => b2n (decide (n.toInt ≤ sv w.bits a)), fun _ => rfl,
    b2n_decide (by rw [sv_bits, decide_eq_true_iff])⟩
  case cmpiLtu w _ n _ => exact ⟨fun a _ _ => b2n (decide (uv w.bits a < n.toNat)), fun _ => rfl,
    b2n_decide (by rw [uv_bits, decide_eq_true_iff])⟩
  case cmpiLeu w _ n _ => exact ⟨fun a _ _ => b2n (decide (uv w.bits a ≤ n.toNat)), fun _ => rfl,
    b2n_decide (by rw [uv_bits, decide_eq_true_iff])⟩
  case cmpiGtu w _ n _ => exact ⟨fun a _ _ => b2n (decide (n.toNat < uv w.bits a)), fun _ => rfl,
    b2n_decide (by rw [uv_bits, decide_eq_true_iff])⟩
  case cmpiGeu w _ n _ => exact ⟨fun a _ _ => b2n (decide (n.toNat ≤ uv w.bits a)), fun _ => rfl,
    b2n_decide (by rw [uv_bits, decide_eq_true_iff])⟩
  case test w _ _ _ => exact ⟨fun a b _ => b2n (decide (andW w.bits a b ≠ 0)), fun _ => rfl,
    b2n_decide (by rw [Ne, andW_eq_zero, bne_iff_ne])⟩
  case testZ w _ _ _ => exact ⟨fun a b _ => b2n (decide (andW w.bits a b = 0)), fun _ => rfl,
    b2n_decide (by rw [andW_eq_zero, beq_iff_eq])⟩
  case sel w _ _ => exact ⟨fun a b c => if isTrue c then uv w.bits a else uv w.bits b, fun _ => rfl, selW_eq w a b c⟩
  case mov w _ _ _ => exact ⟨fun a _ _ => uv w.bits a, fun _ => rfl, uv_bits w a⟩
  case gens n _ => exact ⟨fun _ _ _ => trunc 64 n.toInt, fun _ => rfl, rfl⟩
  case genu n _ => exact ⟨fun _ _ _ => n.toNat, fun _ => rfl, rfl⟩
  case apph n _ => exact ⟨fun a _ _ => (a.toNat * 2 ^ 15 + n.toNat) % 2 ^ 64, fun _ => rfl, apphW_eq a n⟩

theorem answers_of_countValue {i : Instr} {a b c : DWord} {v : Nat} (h : countValue i a b c = some v) : Answers i a b c v := by
  cases i <;> cases h
  all_goals refine ⟨rfl, ?_⟩
  case clz w _ _ _ => exact ⟨fun a _ _ => clzW w.bits a, fun _ => rfl, clzW_eq w a⟩
  case popc w _ _ _ => exact ⟨fun a _ _ => popcW w.bits a, fun _ => rfl, popcW_eq w a⟩
  case brev w _ _ _ => exact ⟨fun a _ _ => brevW w.bits a, fun _ => rfl, brevW_eq w a⟩
  case extr w p t1 t0 => exact ⟨fun a b _ => extrW w.bits a b, fun _ => rfl,
    Option.some.inj (countValue_extr w a c b p t1 t0).symm⟩
  case extrS w p t1 t0 => exact ⟨fun a b _ => extrsW w.bits a b, fun _ => rfl,
    Option.some.inj (countValue_extrS w a c b p t1 t0).symm⟩
  case insf w t1 t0 => exact ⟨fun a b c => insfW w.bits a b c, fun _ => rfl,
    Option.some.inj (countValue_insf w a b c t1 t0).symm⟩
  case lea w _ x _ _ => exact ⟨fun a b _ => leaW w.bits x.toNat a b, fun _ => rfl, leaW_eq w a b _⟩
  case div w _ _ _ => exact ⟨fun a b _ => divS w.bits a b, fun _ => rfl, divS_eq w a b⟩
  case rem w _ _ _ => exact ⟨fun a b _ => remS w.bits a b, fun _ => rfl, remS_eq w a b⟩
  case divU w _ _ _ => exact ⟨fun a b _ => Machine.divU w.bits a b, fun _ => rfl, divU_eq w a b⟩
  case remU w _ _ _ => exact ⟨fun a b _ => Machine.remU w.bits a b, fun _ => rfl, remU_eq w a b⟩
  case mul w _ _ _ => exact ⟨fun a b _ => mulW w.bits a b, fun _ => rfl, mulW_eq w a b⟩
  case mulh w _ _ _ => exact ⟨fun a b _ => mulhW w.bits a b, fun _ => rfl, mulhW_eq w a b⟩
  case mulhU w _ _ _ => exact ⟨fun a b _ => mulhuW w.bits a b, fun _ => rfl, mulhuW_eq w a b⟩

end Sys2Proof.Machine

open Sys2Proof Sys2Proof.Machine Sys2Proof.Claims

/-- Settles O1: each of these rows is an integer element, and the operation it runs is the one on bit vectors of its width. -/
theorem sumsAndShifts : Obligations.SumsAndShifts := by
  unfold Obligations.SumsAndShifts
  exact fun s i r v hready hpass hnow hv => (answers_of_sumValue hv _).computes hready hpass hnow

/-- Settles O2: a condition is decided on the exact integers that the operands read as, and its truth is sent. -/
theorem choicesAndConstants : Obligations.ChoicesAndConstants := by
  unfold Obligations.ChoicesAndConstants
  exact fun s i r v hready hpass hnow hv => (answers_of_choiceValue hv).computes hready hpass hnow

/-- Settles O3: counts and fields are read bit by bit, and the one quotient beyond the width is its own negation. -/
theorem countsAndProducts : Obligations.CountsAndProducts := by
  unfold Obligations.CountsAndProducts
  exact fun s i r v hready hpass hnow hv => (answers_of_countValue hv).computes hready hpass hnow

end

section

namespace Sys2Proof.Machine

open Claims

/-! ### A ready element computes by its rule (R47, R48, R99, R114, R123) -/

theorem Flags.toWord_none : Flags.none.toWord = 0 := rfl

/-- A ready element that its block does not put off sends what its rule answers, or holds it, and its flags come with it. -/
theorem fired_element {s : State} {i : Instr} {r : List (Pos × Token)} {rule : List (Pos × Token) → Token × Flags}
    (hi : isPlain i = true) (hexec : exec i s = element s i rule) (hready : Ready s i r) (hpass : Passes i r)
    (hnow : NotDeferred s i) :
    ∃ t, exec i s = .next t ∧
      Fired s t i (latchesRead i) (rule r).1 (targetsOf i) (rule r).2.toWord (Sys2Proof.headData s .l) (Sys2Proof.headData s .r) := by
  refine ⟨_, ?_, fired_performPlan hi (rule r).1 (rule r).2 hready hnow⟩
  rw [hexec, element, elementPlan_computed rule hi hready hpass]

/-! ### The floating-point elements and their results (R114 to R121) -/

/-- Instruction i is a floating-point element that answers v on the data a and b of L and R. -/
def FloatAnswers (i : Instr) (a b : DWord) (v : FRes) : Prop :=
  isPlain i = true ∧ ∃ f : Nat → Nat → FRes, (∀ s, exec i s = floatElement s i f) ∧ f a.toNat b.toNat = v

theorem FloatAnswers.computes {s : State} {i : Instr} {r : List (Pos × Token)} {v : FRes}
    (h : FloatAnswers i (tokenAt r .l).data (tokenAt r .r).data v) (hready : Ready s i r) (hpass : Passes i r)
    (hnow : NotDeferred s i) : Computes s i r v.1 v.2.toWord := by
  obtain ⟨hi, f, hexec, rfl⟩ := h
  exact fired_element hi (hexec s) hready hpass hnow

theorem signedOf_word (a : DWord) : signedOf 32 a.toNat = (a.setWidth 32).toInt := by
  rw [signedOf_eq_toInt (by decide), BitVec.ofNat_toNat]

theorem signedOf_dword (a : DWord) : signedOf 64 a.toNat = a.toInt := by
  rw [signedOf_eq_toInt (by decide), BitVec.ofNat_toNat, BitVec.setWidth_eq]

theorem unsigned_word (a : DWord) : ((a.toNat % 2 ^ 32 : Nat) : Int) = ((a.setWidth 32).toNat : Nat) := by
  rw [BitVec.toNat_setWidth]

theorem unsigned_dword (a : DWord) : ((a.toNat % 2 ^ 64 : Nat) : Int) = (a.toNat : Nat) := by
  rw [Nat.mod_eq_of_lt a.isLt]

theorem floatAnswers_cvtN {f : FKind} {n : Narrow} {t1 t0 : Target} {a b : DWord} {v : FRes}
    (h : floatValue (.cvtN f n t1 t0) a b = some v) : FloatAnswers (.cvtN f n t1 t0) a b v := by
  cases n <;> cases h
  all_goals exact ⟨rfl, fun a _ => narrowRes (fmtOf f) _ (patOf f a), fun _ => rfl, rfl⟩

/-- Of the integers that CVT.IF and CVT.N.I convert each is the one that its operand's low bits spell (R59, R120, R121); every other
row of R115 to R121 hands its operand's pattern to the operation as it stands. -/
theorem floatAnswers_of_floatValue {i : Instr} {a b : DWord} {v : FRes} (h : floatValue i a b = some v) : FloatAnswers i a b v := by
  cases i
  case cvtN f n _ _ => exact floatAnswers_cvtN h
  all_goals cases h
  all_goals refine ⟨rfl, ?_⟩
  case fadd f _ _ _ => exact ⟨fun a b => faddV (fmtOf f.kind) f.dir (valOf f.kind a) (valOf f.kind b), fun _ => rfl, rfl⟩
  case fsub f _ _ _ => exact ⟨fun a b => faddV (fmtOf f.kind) f.dir (valOf f.kind a) (valOf f.kind b).neg, fun _ => rfl, rfl⟩
  case fmul f _ _ _ => exact ⟨fun a b => fmulV (fmtOf f.kind) f.dir (valOf f.kind a) (valOf f.kind b), fun _ => rfl, rfl⟩
  case fdiv f _ _ _ => exact ⟨fun a b => fdivV (fmtOf f.kind) f.dir (valOf f.kind a) (valOf f.kind b), fun _ => rfl, rfl⟩
  case fmin f _ _ _ => exact ⟨fun a b => fminmax (fmtOf f) false (patOf f a) (patOf f b), fun _ => rfl, rfl⟩
  case fmax f _ _ _ => exact ⟨fun a b => fminmax (fmtOf f) true (patOf f a) (patOf f b), fun _ => rfl, rfl⟩
  case fcmpEq f _ _ _ => exact ⟨fun a b => boolRes (fcmp (fmtOf f) .eq (patOf f a) (patOf f b)), fun _ => rfl, rfl⟩
  case fcmpNe f _ _ _ => exact ⟨fun a b => boolRes (fcmp (fmtOf f) .ne (patOf f a) (patOf f b)), fun _ => rfl, rfl⟩
  case fcmpLt f _ _ _ => exact ⟨fun a b => boolRes (fcmp (fmtOf f) .lt (patOf f a) (patOf f b)), fun _ => rfl, rfl⟩
  case fcmpLe f _ _ _ => exact ⟨fun a b => boolRes (fcmp (fmtOf f) .le (patOf f a) (patOf f b)), fun _ => rfl, rfl⟩
  case fcmpUn f _ _ _ => exact ⟨fun a b => boolRes (fcmp (fmtOf f) .un (patOf f a) (patOf f b)), fun _ => rfl, rfl⟩
  case fsqrt f _ _ _ => exact ⟨fun a _ => fsqrtV (fmtOf f.kind) f.dir (valOf f.kind a), fun _ => rfl, rfl⟩
  case fabs f _ _ _ => exact ⟨fun a _ => fsignOp (fmtOf f) false (patOf f a), fun _ => rfl, rfl⟩
  case fneg f _ _ _ => exact ⟨fun a _ => fsignOp (fmtOf f) true (patOf f a), fun _ => rfl, rfl⟩
  case frnd f _ _ _ => exact ⟨fun a _ => Machine.frnd (fmtOf f.kind) f.dir (patOf f.kind a), fun _ => rfl, rfl⟩
  case cvtIfSw f _ _ _ => exact ⟨fun a _ => cvtIF (fmtOf f.kind) f.dir (intArg true 32 a), fun _ => rfl,
    congrArg (cvtIF _ _) (signedOf_word a)⟩
  case cvtIfSd f _ _ _ => exact ⟨fun a _ => cvtIF (fmtOf f.kind) f.dir (intArg true 64 a), fun _ => rfl,
    congrArg (cvtIF _ _) (signedOf_dword a)⟩
  case cvtIfUw f _ _ _ => exact ⟨fun a _ => cvtIF (fmtOf f.kind) f.dir (intArg false 32 a), fun _ => rfl,
    congrArg (cvtIF _ _) (unsigned_word a)⟩
  case cvtIfUd f _ _ _ => exact ⟨fun a _ => cvtIF (fmtOf f.kind) f.dir (intArg false 64 a), fun _ => rfl,
    congrArg (cvtIF _ _) (unsigned_dword a)⟩
  case cvtFiSw f _ _ _ => exact ⟨fun a _ => cvtFI (fmtOf f.kind) f.dir true 32 (patOf f.kind a), fun _ => rfl, rfl⟩
  case cvtFiSd f _ _ _ => exact ⟨fun a _ => cvtFI (fmtOf f.kind) f.dir true 64 (patOf f.kind a), fun _ => rfl, rfl⟩
  case cvtFiUw f _ _ _ => exact ⟨fun a _ => cvtFI (fmtOf f.kind) f.dir false 32 (patOf f.kind a), fun _ => rfl, rfl⟩
  case cvtFiUd f _ _ _ => exact ⟨fun a _ => cvtFI (fmtOf f.kind) f.dir false 64 (patOf f.kind a), fun _ => rfl, rfl⟩
  case cvtFfF32 f _ _ _ => exact ⟨fun a _ => cvtFF (fmtOf f.kind) (fmtOf .f32) f.dir (patOf f.kind a), fun _ => rfl, rfl⟩
  case cvtFfF16 f _ _ _ => exact ⟨fun a _ => cvtFF (fmtOf f.kind) (fmtOf .f16) f.dir (patOf f.kind a), fun _ => rfl, rfl⟩
  case cvtFfBf16 f _ _ _ => exact ⟨fun a _ => cvtFF (fmtOf f.kind) (fmtOf .bf16) f.dir (patOf f.kind a), fun _ => rfl, rfl⟩
  case cvtNW n _ _ => exact ⟨fun a _ => cvtWiden (narrowFmt n) (a % 2 ^ (narrowFmt n).width), fun _ => rfl, rfl⟩
  case cvtNI n _ _ => exact ⟨fun a _ => cvtNI n.signed n.bits (signedOf 32 a), fun _ => rfl,
    congrArg (cvtNI _ _) (signedOf_word a)⟩

/-! ### The marker instructions and their tokens (R123) -/

/-- A marker instruction is an element whose rule makes the token of its kind, poisoned where a token read was. -/
theorem markerOp_of_markerOf {i : Instr} {a : DWord} {k : Kind} {v : DWord} (h : markerOf i a = some (k, v)) :
    isPlain i = true ∧ ∃ payload : DWord → DWord, payload a = v ∧ ∀ s, exec i s = markerOp s i k payload := by
  cases i <;> cases h
  case eos | eot | mark => exact ⟨rfl, id, rfl, fun _ => rfl⟩
  case eosI p n _ | eotI p n _ | markI p n _ =>
    exact ⟨rfl, fun _ => BitVec.ofNat 64 n.toNat, BitVec.ofNat_toNat 64 n, fun _ => rfl⟩

end Sys2Proof.Machine

open Sys2Proof Sys2Proof.Machine Sys2Proof.Claims

/-- Settles O4: each of these rows is a floating-point element, and its rule hands the operands' patterns, or the integers they
spell, to the operation of its row. -/
theorem floatElements : Obligations.FloatElements := by
  unfold Obligations.FloatElements
  exact fun s i r v hready hpass hnow hv => (floatAnswers_of_floatValue hv).computes hready hpass hnow

/-- Settles O7: a marker instruction is an element whose result is the token of its kind. -/
theorem markersMade : Obligations.MarkersMade := by
  unfold Obligations.MarkersMade
  intro s i r k v hready hpass hnow hv
  obtain ⟨hi, payload, rfl, hexec⟩ := markerOp_of_markerOf hv
  have hfire := fired_element hi (hexec s) hready hpass hnow
  rw [Flags.toWord_none] at hfire
  exact hfire

end

section

namespace Sys2Proof.Machine

open Claims

/-! ### An admitted firing consumes and captures (R47, R97, R158) -/

/-- A firing that is ready, that has room for what it emits and that its block does not put off, consumes and captures. -/
theorem performPlan_act {s : State} {i : Instr} {a : Act} (hidle : slotReady s s.foc = true) (hnow : NotDeferred s i)
    (hroom : a.emit.isSome = true → targetsFree s s.foc a.outs = true) :
    performPlan s i (.act a) = captureAct (begunFiring s s.foc a.take) s.foc i a (startDU s i)
      (Sys2Proof.headData s .l) (Sys2Proof.headData s .r) := by
  have hfree : (a.emit.isSome && !targetsFree s s.foc a.outs) = false := by
    cases h : a.emit.isSome
    · rfl
    · simp [hroom h]
  have hdefer := admitted_of_notDeferred hnow
  unfold startDU at hdefer
  unfold performPlan
  simp only [hidle, hfree, hdefer, Bool.not_true, Bool.false_eq_true, if_false]
  rfl

theorem takes_begunFiring (s : State) (x : Nat) {ps : List Pos} (h : ps.Nodup) : Takes s (begunFiring s x ps) x ps :=
  begunFiring_q s x h

/-! ### An element moves a marker (R76, R124, R155) -/

/-- What a firing does that moves a marker, or discards what DRAIN discards. -/
def markerAct (ps : List Pos) (o : Option Token) (gs : List Target) : Act :=
  { take := ps, emit := o, outs := gs, flags := Flags.none, computed := false, marker := true }

/-- From when on a chained reader may take a marker that i sends: at once and one delay unit after its start where i is timed by
delay units, in the next cycle where it has a cycle count. -/
def markerTime (s : State) (i : Instr) : Nat × Nat :=
  match cycleCount (classOf s s.foc) i with
  | some _ => (s.now + 1, 0)
  | none => (s.now, startDU s i + min 1 ((lateDelay (classOf s s.foc) i).getD 1) + 1)

theorem captureAct_marker (s : State) (i : Instr) (ps : List Pos) (tok : Token) (gs : List Target) (a b : DWord) :
    captureAct (begunFiring s s.foc ps) s.foc i (markerAct ps (some tok) gs) (startDU s i) a b =
      captureTo (captureFlags (begunFiring s s.foc ps) (tileOf s.foc) Flags.none.toWord) s.foc tok (s.now + 1)
        (markerTime s i).1 (markerTime s i).2 false gs := by
  unfold captureAct markerTime
  simp only [markerAct, begunFiring_class, (begunFiring_wiring s s.foc ps).now, Bool.false_eq_true, if_false, if_true,
    Bool.false_and, and_false]
  cases cycleCount (classOf s s.foc) i <;> rfl

/-- A marker that a ready firing moves leaves at the element's own time. -/
theorem captures_marker {s : State} {i : Instr} {ps : List Pos} (tok : Token) {gs : List Target} (hps : ps.Nodup)
    (hidle : slotReady s s.foc = true) (hnow : NotDeferred s i) (hroom : targetsFree s s.foc gs = true) :
    Captures s (performPlan s i (.act (markerAct ps (some tok) gs))) s.foc ps tok (markerTime s i).1 (markerTime s i).2 gs := by
  rw [performPlan_act hidle hnow fun _ => hroom, show (markerAct ps (some tok) gs).take = ps from rfl, captureAct_marker]
  exact captures_begunFiring s s.foc hps _ _ _ _ _

section
variable {drain : Bool} {gs : List Target} {r : List (Pos × Token)}

theorem find_passing_eq_none (h : ∀ e ∈ r, e.2.kind = .data ∨ e.2.kind = .eos) :
    (r.find? fun a => decide (a.2.kind = .eot) || decide (a.2.kind = .ord)) = none :=
  List.find?_eq_none.mpr fun e he => by rcases h e he with h | h <;> simp [h]

/-- The first passing marker, with DATA or EOS before it, is what moves: case 1 of R124. -/
theorem markerPlan_passing {before after : List (Pos × Token)} {p : Pos} {m : Token} (hr : r = before ++ (p, m) :: after)
    (hbefore : ∀ e ∈ before, e.2.kind = .data ∨ e.2.kind = .eos) (hm : m.kind = .eot ∨ m.kind = .ord) :
    markerPlan drain gs r = some (.act (markerAct [p] (some m) gs)) := by
  have hfind : (r.find? fun a => decide (a.2.kind = .eot) || decide (a.2.kind = .ord)) = some (p, m) := by
    rw [hr, List.find?_append, find_passing_eq_none hbefore, Option.none_or, List.find?_cons_of_pos (by simpa using hm)]
  unfold markerPlan
  rw [hfind]
  rfl

/-- EOS on every input pairs: case 2 of R124. -/
theorem markerPlan_eos (h : ∀ e ∈ r, e.2.kind = .eos) :
    markerPlan drain gs r = some (.act (markerAct (r.map (·.1))
      (some { tokenAt r ((r.map (·.1)).headD .l) with psn := anyPsn r }) gs)) := by
  have hall : (r.all fun a => decide (a.2.kind = .eos)) = true := List.all_eq_true.mpr fun e he => by simp [h e he]
  unfold markerPlan
  rw [find_passing_eq_none fun e he => .inr (h e he)]
  dsimp only
  rw [if_pos hall]
  rfl

/-- EOS on some inputs and DATA on the others in a DRAIN block: case 3 of R124. -/
theorem markerPlan_drain (h : ∀ e ∈ r, e.2.kind = .data ∨ e.2.kind = .eos) (hdata : ∃ e ∈ r, e.2.kind = .data)
    (heos : ∃ e ∈ r, e.2.kind = .eos) :
    markerPlan true gs r = some (.act (markerAct ((r.filter fun a => decide (a.2.kind = .data)).map (·.1)) none gs)) := by
  have hall : ¬ (r.all fun a => decide (a.2.kind = .eos)) = true := by
    obtain ⟨e, he, hk⟩ := hdata
    exact fun hall => by simpa [hk] using List.all_eq_true.mp hall e he
  have hany : (r.any fun a => decide (a.2.kind = .eos)) = true := by
    obtain ⟨e, he, hk⟩ := heos
    exact List.any_eq_true.mpr ⟨e, he, by simp [hk]⟩
  unfold markerPlan
  rw [find_passing_eq_none h]
  dsimp only
  rw [if_neg hall, if_pos hany, if_pos rfl]
  rfl

/-- The token read at a latch is one of those read. -/
theorem tokenAt_mem {p : Pos} (h : p ∈ r.map (·.1)) : (p, tokenAt r p) ∈ r := by
  obtain ⟨e, he, hp⟩ := List.mem_map.mp h
  unfold tokenAt
  rcases hfind : r.find? fun a => decide (a.1 = p) with _ | ⟨q, k⟩
  · exact absurd hp (by simpa using List.find?_eq_none.mp hfind e he)
  · obtain rfl : q = p := by simpa using List.find?_some hfind
    rw [hfind]
    exact List.mem_of_find?_eq_some hfind

end

/-- The elements that follow R124 read L before any other latch. -/
theorem latchesRead_cons_of_isPlain {i : Instr} (h : isPlain i = true) : ∃ ps, latchesRead i = .l :: ps := by
  unfold latchesRead
  rcases operandsOf_of_isPlain h with ho | ho | ⟨ho, -⟩ <;> exact ⟨_, by rw [ho]; rfl⟩

/-- The one EOS of case 2 of R124 has L's payload. -/
theorem pairedEos {s : State} {i : Instr} {r : List (Pos × Token)} (hi : isPlain i = true)
    (hread : readAll s s.foc (latchesRead i) = some r) (h : ∀ e ∈ r, e.2.kind = .eos) :
    { tokenAt r ((r.map (·.1)).headD .l) with psn := anyPsn r } =
      ({ kind := .eos, data := (tokenAt r .l).data, psn := r.any fun e => e.2.psn } : Token) := by
  obtain ⟨ps, hps⟩ := latchesRead_cons_of_isPlain hi
  have hmap := (readAll_latches hread).trans hps
  have hmem : (Pos.l, tokenAt r .l) ∈ r := tokenAt_mem (hmap ▸ List.mem_cons_self)
  have hkind : (tokenAt r .l).kind = .eos := h _ hmem
  rw [hmap, List.headD_cons, ← hkind]
  rfl

/-- Where a marker case of R124 applies an element carries it out. -/
theorem exec_of_markerPlan {s : State} {i : Instr} {r : List (Pos × Token)} {pl : Plan} (hi : isPlain i = true)
    (hread : readAll s s.foc (latchesRead i) = some r)
    (hplan : markerPlan (hdrDrain (cfgHeader (s.tile (tileOf s.foc)).cfg)) (targetsOf i) r = some pl) :
    exec i s = .next (performPlan s i pl) := by
  obtain ⟨rule, hexec⟩ := exec_of_isPlain hi
  have hpl : elementPlan s i rule = pl := by
    simp only [elementPlan, hread, drainOf, hplan]
  rw [hexec, element, hpl]

end Sys2Proof.Machine

open Sys2Proof Sys2Proof.Machine Sys2Proof.Claims

/-- Settles O9: the plan of R124 takes the first passing marker, or pairs the EOS, or drains the DATA, and a marker that moves
leaves at the element's own time. -/
theorem markersPass : Obligations.MarkersPass := by
  unfold Obligations.MarkersPass
  intro s i r hi hidle hnow hread
  have hmap := readAll_latches hread
  have hnodup := latchesRead_nodup_of_isPlain hi
  refine ⟨fun before after p m hr hbefore hm hroom => ?_, fun heos hroom => ?_, fun hkinds hdata heos hdrain => ?_⟩
  · exact ⟨_, exec_of_markerPlan hi hread (markerPlan_passing hr hbefore hm),
      captures_marker m (List.nodup_singleton p) hidle.1 hnow hroom⟩
  · refine ⟨_, exec_of_markerPlan hi hread (markerPlan_eos heos), ?_⟩
    rw [pairedEos hi hread heos, hmap]
    exact captures_marker _ hnodup hidle.1 hnow hroom
  · have hsub : ((r.filter fun e => decide (e.2.kind = .data)).map Prod.fst).Nodup :=
      ((List.filter_sublist).map _).nodup (hmap ▸ hnodup)
    have hexec := exec_of_markerPlan hi hread (hdrain ▸ markerPlan_drain hkinds hdata heos)
    rw [performPlan_silent hidle.1 hnow rfl] at hexec
    have hresult := congrArg SlotSt.result
      (begunFiring_slot s s.foc ((r.filter fun e => decide (e.2.kind = .data)).map Prod.fst))
    exact ⟨_, hexec, takes_begunFiring s s.foc hsub, hresult⟩

end

section

namespace Sys2Proof.Machine

open Claims

/-! ### A router operator's firing (R47, R126, R127) -/

/-- What a firing of a router operator does that moves a token, or consumes alone. -/
def movedAct (ps : List Pos) (o : Option Token) (gs : List Target) : Act :=
  { take := ps, emit := o, outs := gs, flags := Flags.none, computed := true, marker := false }

theorem cycleCount_eq_none {i : Instr} (h : springCycles i = none) (cls : Nat) : cycleCount cls i = none := by
  rw [cycleCount, h, Option.map_none]

/-- An operation without a checker and without a cycle count holds a token beyond DU 31, and captures any other. -/
theorem captureAct_moved {s : State} {x : Nat} {i : Instr} {ps : List Pos} {tok : Token} {gs : List Target}
    (hcheck : checkKind i = none) (hcycles : springCycles i = none) (start : Nat) (a b : DWord) :
    captureAct s x i (movedAct ps (some tok) gs) start a b =
      if 31 < start + (actualDelay (classOf s x) i a b).1 then
        holdResult s x .late tok (movedAct ps (some tok) gs) (s.now + 1) start (start + (actualDelay (classOf s x) i a b).1)
          (actualDelay (classOf s x) i a b).2 (s.now + 2)
      else captureTo (captureFlags s (tileOf x) Flags.none.toWord) x tok (s.now + 1) s.now
        (start + (actualDelay (classOf s x) i a b).1 + 1) false gs := by
  have hcount := cycleCount_eq_none hcycles (classOf s x)
  unfold captureAct
  simp only [movedAct, hcheck, hcount, if_true, and_true]
  cases (s.slot x).mismatch <;> rfl

/-- The firing of a router operator that emits a token: the latches of its case are consumed, the token is sent or held. -/
theorem fired_moved {s : State} {i : Instr} {ps : List Pos} {tok : Token} {gs : List Target} (hcheck : checkKind i = none)
    (hcycles : springCycles i = none) (hidle : slotReady s s.foc = true) (hnow : NotDeferred s i) (hps : ps.Nodup)
    (hroom : targetsFree s s.foc gs = true) :
    Fired s (performPlan s i (.act (movedAct ps (some tok) gs))) i ps tok gs Flags.none.toWord
      (Sys2Proof.headData s .l) (Sys2Proof.headData s .r) := by
  have hbegun := begunFiring_wiring s s.foc ps
  have hfired : ((begunFiring s s.foc ps).slot s.foc).fired = s.now + 1 := by rw [begunFiring_slot]
  rw [performPlan_act hidle hnow fun _ => hroom, captureAct_moved hcheck hcycles, show (movedAct ps (some tok) gs).take = ps from rfl,
    begunFiring_class, hbegun.now]
  unfold Fired
  dsimp only
  rw [cycleCount_eq_none hcycles]
  dsimp only
  split
  · obtain ⟨hq, hf, hholds⟩ := holdResult_holds (begunFiring s s.foc ps) s.foc .late tok (movedAct ps (some tok) gs) _ _ _ _ _
    exact ⟨hf.trans hfired, fun l => (hq l).trans (begunFiring_q s s.foc hps l), hholds⟩
  · exact ⟨by simpa using hfired, captures_begunFiring s s.foc hps _ _ _ _ _, captureTo_fresh s s.foc _ _ _ _ _ _ _⟩

/-- The hold value is no part of what a firing leaves in the latches, the links and the result latch. -/
theorem fired_setHold {s t : State} {i : Instr} {ps : List Pos} {tok : Token} {gs : List Target} {fl : Word} {a b : DWord}
    (h : Fired s t i ps tok gs fl a b) (v : Hold) :
    Fired s (t.setSlot s.foc { t.slot s.foc with hold := v }) i ps tok gs fl a b := by
  unfold Fired Holds at h ⊢
  dsimp only at h ⊢
  rw [State.setSlot_same]
  exact h

/-- A ready slot has not fired in this cycle. -/
theorem fired_ne_of_slotReady {s : State} {x : Nat} (h : slotReady s x = true) : (s.slot x).fired ≠ s.now + 1 := by
  simp only [slotReady, slotIdle, Bool.and_eq_true, decide_eq_true_eq] at h
  obtain ⟨-, ⟨⟨⟨⟨-, hfired⟩, -⟩, -⟩, -⟩, -⟩ := h
  exact hfired

/-- An operator that fires takes the hold value of its plan. -/
theorem routerOp_fires {s : State} {i : Instr} {plan : Hold → (Pos → Option Token) → RouterPlan} {pl : Plan} {h : Hold}
    (hidle : slotReady s s.foc = true) (hplan : plan (s.slot s.foc).hold (seen s) = (pl, h))
    (hfired : ((performPlan s i pl).slot s.foc).fired = s.now + 1) :
    routerOp s i plan =
      .next ((performPlan s i pl).setSlot s.foc { (performPlan s i pl).slot s.foc with hold := h }) := by
  have hplan' : plan (s.slot s.foc).hold (fun p => (headAt s s.foc p).map Entry.tok) = (pl, h) := hplan
  unfold routerOp
  dsimp only
  rw [hplan']
  exact if_pos ⟨hfired, fired_ne_of_slotReady hidle⟩

/-! ### The cases of the operators' rows (R126) -/

/-- A plan carries out a case of a row: it moves what the case says, from latches that are distinct. -/
def Carries (row : Option (List Pos × Option Token × List Target × Hold)) (pl : RouterPlan) : Prop :=
  ∀ ps o gs v, row = some (ps, o, gs, v) → ps.Nodup ∧ pl = moveTok ps o gs v

@[simp] theorem carries_none (pl : RouterPlan) : Carries none pl := fun _ _ _ _ h => nomatch h

@[simp] theorem carries_some {ps : List Pos} {o : Option Token} {gs : List Target} {v : Hold} :
    Carries (some (ps, o, gs, v)) (moveTok ps o gs v) ↔ ps.Nodup := by
  refine ⟨fun h => (h _ _ _ _ rfl).1, fun h ps' o' gs' v' he => ?_⟩
  cases he
  exact ⟨h, rfl⟩

/-- Instruction i is a router operator that moves tokens as its row of R126 says, untimed by cycles and unchecked. -/
def IsRouter (i : Instr) : Prop :=
  checkKind i = none ∧ springCycles i = none ∧ ∃ plan : Hold → (Pos → Option Token) → RouterPlan,
    (∀ s, exec i s = routerOp s i plan) ∧ ∀ h look, Carries (routerCase i h (look .l) (look .r) (look .p)) (plan h look)

@[simp] theorem control_none (h : Hold) (k : Token → RouterPlan) : control h none k = (.wait, h) := rfl

@[simp] theorem control_clean {h : Hold} {c : Token} {k : Token → RouterPlan} (hc : c.psn = false) : control h (some c) k = k c := by
  unfold control
  simp [hc]

@[simp] theorem isTrue_iff {a : DWord} : Machine.isTrue a = true ↔ ¬ a = 0#64 := by
  simp [Machine.isTrue]

@[simp] theorem cleanToken_none : cleanToken none = none := rfl

@[simp] theorem cleanToken_clean {c : Token} (hc : c.psn = false) : cleanToken (some c) = some c := by
  simp [cleanToken, Option.filter, hc]

@[simp] theorem cleanToken_poisoned {c : Token} (hc : c.psn = true) : cleanToken (some c) = none := by
  simp [cleanToken, Option.filter, hc]

/-- The cases of phase LOOP of CARRY and CARRY.I, on the tokens at R and P; home is the phase to return to (R126). -/
def loopCase (h : Hold) (home : Nat) (gs : List Target) (b c : Option Token) :
    Option (List Pos × Option Token × List Target × Hold) :=
  match cleanToken c with
  | none => none
  | some c =>
    match c.kind with
    | .data => if c.data ≠ 0 then b.map fun k => ([.p, .r], some k, gs, h) else some ([.p], none, [], { h with phase := home })
    | .eos => some ([.p], some c, gs, { h with phase := home })
    | _ => some ([.p], some c, gs, h)

theorem routerCase_carry_loop {h : Hold} (hp : h.phase ≠ 0) (t1 t0 : Target) (a b c : Option Token) :
    routerCase (.carry t1 t0) h a b c = loopCase h 0 [t0, t1] b c := by
  simp only [routerCase, if_neg hp]
  rfl

theorem routerCase_carryI_loop {h : Hold} (hp : h.phase = 1) (n : BitVec 9) (t0 : Target) (a b c : Option Token) :
    routerCase (.carryI n t0) h a b c = loopCase h 2 [t0] b c := by
  simp only [routerCase, hp, if_true, Nat.one_ne_zero, if_false]
  rfl

theorem carries_carryLoop (h : Hold) (look : Pos → Option Token) (home : Nat) (gs : List Target) :
    Carries (loopCase h home gs (look .r) (look .p)) (carryLoop h look home gs) := by
  unfold loopCase carryLoop
  rcases look .p with _ | c
  · simp
  · cases hpsn : c.psn
    · cases hk : c.kind
      · by_cases hd : c.data = 0#64
        · simp [hpsn, hk, hd]
        · cases look .r <;> simp [hpsn, hk, hd]
      all_goals simp [hpsn, hk]
    · simp [hpsn]

section
variable (t1 t0 : Target)

theorem isRouter_steer : IsRouter (.steer t1 t0) := by
  refine ⟨rfl, rfl, _, fun s => (rfl : execSteer t1 t0 s = _), fun h look => ?_⟩
  rcases look .l with _ | a
  · simp [routerCase]
  · by_cases ha : a.kind = .data
    · rcases look .p with _ | c
      · simp [routerCase, ha]
      · cases hpsn : c.psn
        · by_cases hc : c.kind = .data
          · by_cases hd : c.data = 0#64 <;> simp [routerCase, ha, hpsn, hc, hd]
          · simp [routerCase, ha, hpsn, hc]
        · simp [routerCase, ha, hpsn]
    · cases look .p <;> simp [routerCase, ha]

theorem isRouter_merge : IsRouter (.merge t1 t0) := by
  refine ⟨rfl, rfl, _, fun s => (rfl : execMerge t1 t0 s = _), fun h look => ?_⟩
  dsimp only
  rcases look .p with _ | c
  · simp [routerCase]
  · cases hpsn : c.psn
    · by_cases hc : c.kind = .data
      · by_cases hd : c.data = 0#64
        · cases hl : look .l <;> simp [routerCase, hpsn, hc, hd, hl]
        · cases hr : look .r <;> simp [routerCase, hpsn, hc, hd, hr]
      · simp [routerCase, hpsn, hc]
    · simp [routerCase, hpsn]

theorem isRouter_mergeRr : IsRouter (.mergeRr t1 t0) := by
  refine ⟨rfl, rfl, _, fun s => (rfl : execMergeRr t1 t0 s = _), fun h look => ?_⟩
  dsimp only
  by_cases hl : h.phase = 0
  · cases ha : look .l <;> simp [routerCase, hl, ha]
  · by_cases hr : h.phase = 1
    · cases hb : look .r <;> simp [routerCase, hr, hb]
    · simp [routerCase, hl, hr]

theorem isRouter_carry : IsRouter (.carry t1 t0) := by
  refine ⟨rfl, rfl, _, fun s => (rfl : execCarry t1 t0 s = _), fun h look => ?_⟩
  by_cases hp : h.phase = 0
  · cases look .l <;> simp [routerCase, hp]
  · rw [routerCase_carry_loop hp, if_neg hp]
    exact carries_carryLoop h look 0 [t0, t1]

theorem isRouter_carryI (n : BitVec 9) : IsRouter (.carryI n t0) := by
  refine ⟨rfl, rfl, _, fun s => (rfl : execCarryI n t0 s = _), fun h look => ?_⟩
  by_cases hinit : h.phase = 0
  · simp [routerCase, hinit, dataTok]
  · by_cases hloop : h.phase = 1
    · rw [routerCase_carryI_loop hloop, if_neg hinit, if_pos hloop]
      exact carries_carryLoop h look 2 [t0]
    · simp [routerCase, hinit, hloop]

theorem isRouter_invar : IsRouter (.invar t1 t0) := by
  refine ⟨rfl, rfl, _, fun s => (rfl : execInvar t1 t0 s = _), fun h look => ?_⟩
  by_cases hempty : h.phase = 0
  · cases look .l <;> simp [routerCase, hempty]
  · rcases look .p with _ | c
    · simp [routerCase, hempty]
    · cases hpsn : c.psn
      · cases hk : c.kind
        · by_cases hd : c.data = 0#64 <;> simp [routerCase, hempty, hpsn, hk, hd]
        all_goals simp [routerCase, hempty, hpsn, hk]
      · simp [routerCase, hempty, hpsn]

theorem isRouter_gate : IsRouter (.gate t1 t0) := by
  refine ⟨rfl, rfl, _, fun s => (rfl : execGate t1 t0 s = _), fun h look => ?_⟩
  rcases look .p with _ | c
  · simp [routerCase]
  · cases hpsn : c.psn
    · by_cases hc : c.kind = .data
      · cases look .l
        · simp [routerCase, hpsn, hc]
        · by_cases hd : c.data = 0#64 <;> simp [routerCase, hpsn, hc, hd]
      · simp [routerCase, hpsn, hc]
    · simp [routerCase, hpsn]

theorem isRouter_sink : IsRouter .sink := by
  refine ⟨rfl, rfl, _, fun s => (rfl : execSink s = _), fun h look => ?_⟩
  cases look .l <;> simp [routerCase]

theorem isRouter_sinkA : IsRouter (.sinkA t1 t0) := by
  refine ⟨rfl, rfl, _, fun s => (rfl : execSinkA t1 t0 s = _), fun h look => ?_⟩
  rcases look .l with _ | a
  · simp [routerCase]
  · cases hk : a.kind <;> simp [routerCase, hk, dataTok]

theorem isRouter_ordj : IsRouter (.ordj t1 t0) := by
  refine ⟨rfl, rfl, _, fun s => (rfl : execOrdj t1 t0 s = _), fun h look => ?_⟩
  cases look .l <;> cases look .r <;> simp [routerCase, ordTok]

end

/-- An instruction for which R126 has a row is a router operator of that row. -/
theorem isRouter_of_routerCase {i : Instr} {h v : Hold} {a b c : Option Token} {ps : List Pos} {o : Option Token}
    {gs : List Target} (hc : routerCase i h a b c = some (ps, o, gs, v)) : IsRouter i := by
  cases i
  case steer => exact isRouter_steer _ _
  case merge => exact isRouter_merge _ _
  case mergeRr => exact isRouter_mergeRr _ _
  case carry => exact isRouter_carry _ _
  case carryI => exact isRouter_carryI _ _
  case invar => exact isRouter_invar _ _
  case gate => exact isRouter_gate _ _
  case sink => exact isRouter_sink
  case sinkA => exact isRouter_sinkA _ _
  case ordj => exact isRouter_ordj _ _
  all_goals simp [routerCase] at hc

end Sys2Proof.Machine

open Sys2Proof Sys2Proof.Machine Sys2Proof.Claims

/-- Settles O12: each operator's plan moves what its case of R126 says, and a firing that moves keeps to its plan's hold value. -/
theorem routerOperators : Obligations.RouterOperators := by
  unfold Obligations.RouterOperators
  intro s i ps o gs v hidle hnow hcase hroom
  obtain ⟨hcheck, hcycles, plan, hexec, hrow⟩ := isRouter_of_routerCase hcase
  obtain ⟨hps, hplan⟩ := hrow _ (seen s) ps o gs v hcase
  have hset : ∀ t : State, ((t.setSlot s.foc { t.slot s.foc with hold := v }).slot s.foc).hold = v := fun t => by
    rw [State.setSlot_same]
  rw [hexec]
  cases o with
  | some tok =>
    have hmoved := fired_moved (tok := tok) hcheck hcycles hidle.1 hnow hps (hroom rfl)
    refine ⟨_, routerOp_fires hidle.1 hplan hmoved.1, hset _, ?_⟩
    rw [Flags.toWord_none] at hmoved
    exact fired_setHold hmoved v
  | none =>
    have hsilent : performPlan s i (.act (movedAct ps none gs)) = begunFiring s s.foc ps := performPlan_silent hidle.1 hnow rfl
    have hfired : ((performPlan s i (.act (movedAct ps none gs))).slot s.foc).fired = s.now + 1 := by
      rw [hsilent, begunFiring_slot]
    have htakes : Takes s (performPlan s i (.act (movedAct ps none gs))) s.foc ps := hsilent ▸ takes_begunFiring s s.foc hps
    refine ⟨_, routerOp_fires hidle.1 hplan hfired, hset _, htakes, ?_⟩
    rw [State.setSlot_same]
    exact hfired

end

section

namespace Sys2Proof.Machine

open Claims

/-! ### What a slot captures behind a firing that has begun and has settled its own registers (R44, R97) -/

/-- A capture behind a state whose latches ps are consumed delivers what it would have delivered of the state before. -/
theorem SameWiring.captures_of_taken {s u t : State} (h : SameWiring s u) {x : Nat} {ps : List Pos} {tok : Token} {ccyc du : Nat}
    {gs : List Target} (hq : Takes s u x ps) (hmet : (u.tile (tileOf x)).met = (s.tile (tileOf x)).met)
    (hc : Captures u t x [] tok ccyc du gs) : Captures s t x ps tok ccyc du gs := by
  have htaken : ∀ l, Sys2Proof.taken u x [] l = Sys2Proof.taken s x ps l := hq
  unfold Captures Takes Sends at hc ⊢
  rw [hmet] at hc
  simpa only [htaken, h.arriving, h.isResultPort] using hc

/-- The slot's own registers say nothing of where its token goes. -/
theorem captures_settled (s : State) (x : Nat) {ps : List Pos} (hps : ps.Nodup) (v : SlotSt) (tok : Token) (ccyc du : Nat)
    (gs : List Target) :
    Captures s (captureTo ((begunFiring s x ps).setSlot x v) x tok (s.now + 1) ccyc du false gs) x ps tok ccyc du gs := by
  have hbegun := begunFiring_wiring s x ps
  have hwire : SameWiring s ((begunFiring s x ps).setSlot x v) :=
    ⟨hbegun.cfg, hbegun.relaxed, hbegun.owner, hbegun.sections, hbegun.now⟩
  have hcap := captures_captureTo x tok ccyc du false ((begunFiring s x ps).setSlot x v) gs
  rw [hwire.now] at hcap
  exact hwire.captures_of_taken (takes_begunFiring s x hps) (begunFiring_met s x ps) hcap

theorem slot_settled (s : State) (x : Nat) (v : SlotSt) (tok : Token) (cyc ccyc du : Nat) (gs : List Target) :
    (captureTo (s.setSlot x v) x tok cyc ccyc du false gs).slot x = v := by
  rw [captureTo_slot, State.setSlot_same]

/-! ### FACC and IACC (R122) -/

/-- The open sum, as a firing writes it into the result latch. -/
def sumResult (tok : Token) : Result :=
  { kind := .acc, tok := tok, tgts := [], due := 0, flags := 0, start := 0, done := 0, run := 0, ks := [] }

/-- The sum once the token k is in, by the addition f, with its flags. -/
def sumWith (s : State) (f : Option Nat → Nat → FRes) (k : Token) : FRes :=
  f ((sumOf s s.foc).map fun t => t.data.toNat) k.data.toNat

/-- The token of the sum once k is in: poisoned where k is, or where the sum was (R43, R122). -/
def sumToken (s : State) (f : Option Nat → Nat → FRes) (k : Token) : Token :=
  dataTok (dataOf (sumWith s f k).1) (k.psn || ((sumOf s s.foc).map Token.psn).getD false)

/-- Slot s.foc has consumed the token k from L, and the flags of its addition are set. -/
def addedTo (s : State) (f : Option Nat → Nat → FRes) (k : Token) : State :=
  captureFlags (begunFiring s s.foc [.l]) (tileOf s.foc) (sumWith s f k).2.toWord

theorem addedTo_slot (s : State) (f : Option Nat → Nat → FRes) (k : Token) :
    (addedTo s f k).slot s.foc = { s.slot s.foc with fired := s.now + 1 } := by
  rw [addedTo, captureFlags_slot, begunFiring_slot]

theorem takes_addedTo (s : State) (f : Option Nat → Nat → FRes) (k : Token) : Takes s (addedTo s f k) s.foc [.l] := fun l => by
  rw [addedTo, captureFlags_link]
  exact takes_begunFiring s s.foc (List.nodup_singleton _) l

theorem addedTo_fresh (s : State) (f : Option Nat → Nat → FRes) (k : Token) :
    ((addedTo s f k).tile (tileOf s.foc)).fresh = (s.tile (tileOf s.foc)).fresh ||| (sumWith s f k).2.toWord := by
  rw [addedTo, captureFlags_tile, begunFiring_fresh]

theorem sumOf_eq_openSum (s : State) (x : Nat) : sumOf s x = openSum s x := rfl

theorem sumOf_of_result {s : State} {x : Nat} {tok : Token} (h : (s.slot x).result = some (sumResult tok)) : sumOf s x = some tok := by
  unfold sumOf
  rw [h]
  rfl

theorem sumOf_of_none {s : State} {x : Nat} (h : (s.slot x).result = none) : sumOf s x = none := by
  unfold sumOf
  rw [h]

theorem sumOf_congr {s t : State} {x : Nat} (h : (t.slot x).result = (s.slot x).result) : sumOf t x = sumOf s x := by
  unfold sumOf
  rw [h]

section
variable {s : State} {i : Instr} {e : Entry} (f : Option Nat → Nat → FRes) (hready : slotReady s s.foc = true)
  (hhead : headAt s s.foc .l = some e)
include hready hhead

/-- A DATA token is consumed into the sum, which stands in the result latch. -/
theorem accumulate_data (hmis : (s.slot s.foc).mismatch = none) (hk : e.tok.kind = .data) :
    accumulate s i f =
      (addedTo s f e.tok).setSlot s.foc { (addedTo s f e.tok).slot s.foc with
        result := some (sumResult (sumToken s f e.tok))
        mismatch := none
        busy := (addedTo s f e.tok).now + 1 } := by
  unfold accumulate
  simp only [hready, hhead, hk, hmis, Bool.not_true, Bool.false_eq_true, if_false]
  simp only [addedTo, sumToken, sumWith, sumOf_eq_openSum]
  cases openSum s s.foc <;> rfl

/-- The first firing on an EOS closes the sum and sends it. -/
theorem accumulate_eos_close (hk : e.tok.kind = .eos) (hroom : targetsFree s s.foc (targetsOf i) = true)
    (hphase : (s.slot s.foc).hold.phase = 0) :
    accumulate s i f =
      captureTo ((begunFiring s s.foc []).setSlot s.foc { (begunFiring s s.foc []).slot s.foc with
          result := none
          hold := { (s.slot s.foc).hold with phase := 1 } })
        s.foc ((sumOf s s.foc).getD (dataTok 0 false)) (s.now + 1) (s.now + 1) 0 false (targetsOf i) := by
  unfold accumulate
  simp only [hready, hhead, hk, hroom, hphase, Bool.not_true, Bool.false_eq_true, if_false, if_true]
  rw [← (begunFiring_wiring s s.foc []).now, sumOf_eq_openSum]
  cases openSum s s.foc <;> rfl

/-- The second firing on an EOS passes it on. -/
theorem accumulate_eos_pass (hk : e.tok.kind = .eos) (hroom : targetsFree s s.foc (targetsOf i) = true)
    (hphase : (s.slot s.foc).hold.phase = 1) :
    accumulate s i f =
      captureTo ((begunFiring s s.foc [.l]).setSlot s.foc { (begunFiring s s.foc [.l]).slot s.foc with hold := Hold.start })
        s.foc e.tok (s.now + 1) (s.now + 1) 0 false (targetsOf i) := by
  unfold accumulate
  simp only [hready, hhead, hk, hroom, hphase, Bool.not_true, Bool.false_eq_true, if_false, Nat.one_ne_zero]
  rw [← (begunFiring_wiring s s.foc [.l]).now]
  rfl

/-- A passing marker passes. -/
theorem accumulate_passing (hk : e.tok.kind = .eot ∨ e.tok.kind = .ord) (hroom : targetsFree s s.foc (targetsOf i) = true) :
    accumulate s i f =
      captureTo (begunFiring s s.foc [.l]) s.foc e.tok (s.now + 1) (s.now + 1) 0 false (targetsOf i) := by
  unfold accumulate
  rw [← (begunFiring_wiring s s.foc [.l]).now]
  rcases hk with hk | hk <;> simp only [hready, hhead, hk, hroom, Bool.not_true, Bool.false_eq_true, if_false] <;> rfl

end

/-- Instruction i accumulates by the addition f, and f adds what R122 adds. -/
def SumsBy (i : Instr) (f : Option Nat → Nat → FRes) : Prop :=
  (∀ s, (s.slot s.foc).mismatch = none → exec i s = .next (accumulate s i f)) ∧
    ∀ (old : Option DWord) (a : DWord), sumStep i old a = some (f (old.map BitVec.toNat) a.toNat)

theorem sumsBy_facc (m : FSel) (t1 t0 : Target) : SumsBy (.facc m t1 t0) (faccStep m) := by
  refine ⟨fun s hmis => ?_, fun old a => ?_⟩
  · change execFacc m t1 t0 s = _
    unfold execFacc
    rw [hmis]
    rfl
  · cases old with
    | some o => rfl
    | none =>
      have hval : valOf m.kind a.toNat = fval (fmtOf m.kind) a := rfl
      unfold sumStep faccStep
      dsimp only [Option.map_none]
      rw [hval]
      cases fval (fmtOf m.kind) a <;> rfl

theorem sumsBy_iacc (w : Width) (sat : Bool) (t1 t0 : Target) : SumsBy (.iacc w sat t1 t0) (iaccStep w sat) := by
  refine ⟨fun s hmis => ?_, fun old a => ?_⟩
  · change execIacc w sat t1 t0 s = _
    unfold execIacc
    rw [hmis]
    rfl
  · have hold : signedOf w.bits ((old.map BitVec.toNat).getD 0) = (low w (old.getD 0)).toInt := by
      rw [← sv_bits]
      cases old <;> rfl
    have ha : signedOf w.bits a.toNat = (low w a).toInt := sv_bits w a
    unfold sumStep iaccStep
    dsimp only
    rw [hold, ha, satS_eq_clampS, trunc_eq, BitVec.ofInt_add, BitVec.ofInt_toInt, BitVec.ofInt_toInt]

theorem exists_sumsBy {i : Instr} (h : (sumStep i none 0).isSome = true) : ∃ f, SumsBy i f := by
  cases i
  case facc m t1 t0 => exact ⟨_, sumsBy_facc m t1 t0⟩
  case iacc w sat t1 t0 => exact ⟨_, sumsBy_iacc w sat t1 t0⟩
  all_goals exact (Bool.false_ne_true h).elim

/-- The addition of an accumulation is the one of R122 on the open sum. -/
theorem SumsBy.sumWith_eq {s : State} {i : Instr} {f : Option Nat → Nat → FRes} (h : SumsBy i f) {k : Token} {v : FRes}
    (hv : sumStep i ((sumOf s s.foc).map Token.data) k.data = some v) : sumWith s f k = v := by
  have hstep := h.2 ((sumOf s s.foc).map Token.data) k.data
  rw [hv, Option.map_map] at hstep
  exact (Option.some.inj hstep).symm

end Sys2Proof.Machine

open Sys2Proof Sys2Proof.Machine Sys2Proof.Claims

/-- Settles O10: a DATA token goes into the result latch, the first firing on an EOS empties the latch and sends the sum, and the
second, like a passing marker's, sends the token that it consumes. -/
theorem accumulators : Obligations.Accumulators := by
  unfold Obligations.Accumulators
  intro s i e hi hready hmis hhead
  obtain ⟨f, hsums⟩ := exists_sumsBy hi
  have hexec := hsums.1 s hmis
  have hone : [Pos.l].Nodup := List.nodup_singleton _
  refine ⟨fun v hk hv => ?_, fun hk hroom hphase => ?_, fun hk hroom hphase => ?_, fun hk hroom => ?_⟩
  · have hsum : sumWith s f e.tok = v := hsums.sumWith_eq hv
    rw [accumulate_data f hready hhead hmis hk] at hexec
    refine ⟨_, hexec, takes_addedTo s f e.tok, ?_, ?_, hsum ▸ addedTo_fresh s f e.tok⟩
    · rw [← hsum]
      exact sumOf_of_result (by rw [State.setSlot_same]; rfl)
    · rw [State.setSlot_same, addedTo_slot]
  · rw [accumulate_eos_close f hready hhead hk hroom hphase] at hexec
    refine ⟨_, hexec, captures_settled s s.foc List.nodup_nil _ _ _ _ _, sumOf_of_none ?_, ?_⟩ <;> rw [slot_settled]
  · rw [accumulate_eos_pass f hready hhead hk hroom hphase] at hexec
    refine ⟨_, hexec, captures_settled s s.foc hone _ _ _ _ _, ?_⟩
    rw [slot_settled]
    rfl
  · rw [accumulate_passing f hready hhead hk hroom] at hexec
    refine ⟨_, hexec, captures_begunFiring s s.foc hone _ _ _ _ 0, sumOf_congr ?_⟩
    rw [captureTo_slot, begunFiring_slot]

end

section

namespace Sys2Proof.Machine

open Claims

/-! ### What is left while tokens leave a slot (R226) -/

/-- Tokens leave: of the fields only the EOS noted for tied buffers and the bucket may change, of the slots only the emission order. -/
structure Emitting (s t : State) : Prop where
  held : Held s t
  field : ∀ f, { t.field f with eosNow := [], fill := 0 } = { s.field f with eosNow := [], fill := 0 }
  slot : ∀ y, { t.slot y with outs := [] } = { s.slot y with outs := [] }

namespace Emitting

@[refl] theorem refl (s : State) : Emitting s s := ⟨Held.refl s, fun _ => rfl, fun _ => rfl⟩

@[trans] theorem trans {s t u : State} (h : Emitting s t) (k : Emitting t u) : Emitting s u :=
  ⟨h.held.trans k.held, fun f => (k.field f).trans (h.field f), fun y => (k.slot y).trans (h.slot y)⟩

theorem ite {s t u : State} {p : Prop} [Decidable p] (ht : Emitting s t) (hu : Emitting s u) : Emitting s (if p then t else u) := by
  split <;> assumption

variable (s : State)

theorem setOuts (x : Nat) (os : List OutE) : Emitting s (s.setSlot x { s.slot x with outs := os }) :=
  ⟨Held.setSlot _ _ _, fun _ => rfl, fun y => by
    by_cases hy : y = x
    · subst hy; rw [State.setSlot_same]
    · rw [State.setSlot_other _ _ hy]⟩

theorem addStray (t k : Nat) : Emitting s (addStray s t k) := by
  refine ⟨Held.addStray s t k, fun f => ?_, fun y => ?_⟩ <;> unfold Machine.addStray <;> split <;> rfl

theorem noteProgress (t : Nat) : Emitting s (noteProgress s t) := by
  refine ⟨Held.noteProgress s t, fun f => ?_, fun y => by rw [noteProgress_slot]⟩
  unfold Machine.noteProgress
  dsimp only
  split <;> rfl

theorem emitTo (x : Nat) (tok : Token) (cyc ccyc du : Nat) (r : Bool) (g : Target) :
    Emitting s (emitTo s x tok cyc ccyc du r g) :=
  ⟨Held.emitTo _ _ _ _ _ _ _ _,
    ((Fires.emitTo (gs := [g]) List.mem_cons_self tok cyc ccyc du r).frame (emitTo_nextId s x tok cyc ccyc du r g)).fields,
    fun y => by rw [emitTo_slot]⟩

theorem emitAll (x : Nat) (tok : Token) (cyc ccyc du : Nat) (r : Bool) (gs : List Target) :
    Emitting s (emitAll s x tok cyc ccyc du r gs) :=
  foldState_ind (Emitting s) _ (fun t g h => h.trans (emitTo t x tok cyc ccyc du r g)) gs s (refl s)

theorem emitOut (x : Nat) : Emitting s (emitOut s x) := by
  unfold Machine.emitOut
  dsimp only
  split
  · exact refl s
  · refine ite (refl s) (ite ((setOuts s x _).trans (addStray _ _ _)) (ite (refl s) ?_))
    split
    · exact setOuts s x _
    · exact ite ((setOuts s x _).trans (emitAll _ _ _ _ _ _ _ _)) (refl s)

theorem readyOut (x id : Nat) (toks : List Token) : Emitting s (readyOut s x id toks) :=
  (setOuts s x _).trans (emitOut _ x)

end Emitting

namespace Emitting

variable {s t : State} (h : Emitting s t)
include h

theorem zregs (f : Nat) : (t.field f).zregs = (s.field f).zregs := by
  have hfield := congrArg FieldSt.zregs (h.field f)
  exact hfield

theorem zlen (f : Nat) : (t.field f).zlen = (s.field f).zlen := by
  have hfield := congrArg FieldSt.zlen (h.field f)
  exact hfield

theorem cmdQueue (f q : Nat) : cmdQueue t f q = cmdQueue s f q := by
  have hfield := congrArg FieldSt.queues (h.field f)
  exact congrArg (SMap.get · [] q) hfield

theorem cmds (y : Nat) : (t.slot y).cmds = (s.slot y).cmds := by
  have hslot := congrArg SlotSt.cmds (h.slot y)
  exact hslot

theorem accs (y : Nat) : (t.slot y).accs = (s.slot y).accs := by
  have hslot := congrArg SlotSt.accs (h.slot y)
  exact hslot

end Emitting

/-! ### The tokens of a performed access or command (R226, R253) -/

/-- A target has room where it had it, while the wiring and the links stand. -/
theorem SameWiring.targetsFree {s u : State} (h : SameWiring s u) (hlink : ∀ l, u.link l = s.link l) (x : Nat) (gs : List Target) :
    targetsFree u x gs = targetsFree s x gs := by
  refine congrArg gs.all (funext fun g => ?_)
  rcases g with _ | ⟨c, pos, m⟩ | k
  · rfl
  · have hchain : chainedNow (u.tile (tileOf x)) c pos m.toNat = chainedNow (s.tile (tileOf x)) c pos m.toNat := by
      unfold chainedNow
      rw [h.relaxed]
    simp only [targetFree, linkRoom, hchain, hlink, h.cfg]
  · simp only [targetFree, linkRoom, hlink, h.isResultPort, h.portLink]

/-- State u differs from s in nothing that decides where the tokens of slot x go and whether they may leave. -/
structure SameOutlet (s u : State) (x : Nat) : Prop where
  wiring : SameWiring s u
  link : ∀ l, u.link l = s.link l
  wh : (u.slot x).wh = (s.slot x).wh
  met : (u.tile (tileOf x)).met = (s.tile (tileOf x)).met

namespace SameOutlet

variable {s t u : State} {x : Nat}

theorem trans (h : SameOutlet s t x) (k : SameOutlet t u x) : SameOutlet s u x where
  wiring := ⟨fun v => (k.wiring.cfg v).trans (h.wiring.cfg v), fun v => (k.wiring.relaxed v).trans (h.wiring.relaxed v),
    fun v => (k.wiring.owner v).trans (h.wiring.owner v), fun v => (k.wiring.sections v).trans (h.wiring.sections v),
    k.wiring.now.trans h.wiring.now⟩
  link l := (k.link l).trans (h.link l)
  wh := k.wh.trans h.wh
  met := k.met.trans h.met

theorem setField (s : State) (x f : Nat) (v : FieldSt) : SameOutlet s (s.setField f v) x :=
  ⟨⟨fun _ => rfl, fun _ => rfl, fun _ => rfl, fun _ => rfl, rfl⟩, fun _ => rfl, rfl, rfl⟩

theorem setSlot (s : State) (x : Nat) {v : SlotSt} (hw : v.wh = (s.slot x).wh) : SameOutlet s (s.setSlot x v) x :=
  ⟨⟨fun _ => rfl, fun _ => rfl, fun _ => rfl, fun _ => rfl, rfl⟩, fun _ => rfl, by rw [State.setSlot_same, hw], rfl⟩

theorem noteProgress (s : State) (x t : Nat) : SameOutlet s (noteProgress s t) x where
  wiring := (Fires.noteProgress (x := x) (gs := []) t).wiring (by unfold Machine.noteProgress; dsimp only; split <;> rfl)
  link l := noteProgress_link s t l
  wh := by rw [noteProgress_slot]
  met := by rw [noteProgress_tile]

variable (h : SameOutlet s u x)
include h

/-- The first token of the slot's order waits for the same causes. -/
theorem waits (gs : List Target) :
    ((u.slot x).wh.isSome || (u.tile (tileOf x)).met || !targetsFree u x gs) =
      ((s.slot x).wh.isSome || (s.tile (tileOf x)).met || !targetsFree s x gs) := by
  rw [h.wh, h.met, h.wiring.targetsFree h.link]

/-- What slot x emits arrives where it would have. -/
theorem sends (tok : Token) (ccyc du : Nat) (r : Bool) (gs : List Target) :
    Sends s (emitAll u x tok (s.now + 1) ccyc du r gs) x [] tok ccyc du gs := by
  rw [← h.wiring.now]
  refine ⟨fun l => ?_, fun k hk hres hd => ?_⟩
  · rw [emitAll_q, h.wiring.arriving, h.link, taken_nil]
  · exact sectionResult_emitAll x tok ccyc du r _ hd gs u hk ((h.wiring.isResultPort _ _).trans hres)

end SameOutlet

section
variable {s : State} {x : Nat} {o : OutE} {os : List OutE} (h : (s.slot x).outs = o :: os)
include h

theorem emitOut_of_unready (hr : o.ready = false) : emitOut s x = s := by
  unfold emitOut
  simp [h, hr]

variable {tok : Token} {more : List Token} (hr : o.ready = true) (hs : o.stale = false) (ht : o.toks = tok :: more)
include hr hs ht

/-- The first token of a ready place stays while the slot withholds, its tile's rates are met or its targets lack room. -/
theorem emitOut_of_waits (hw : ((s.slot x).wh.isSome || (s.tile (tileOf x)).met || !targetsFree s x o.tgts) = true) :
    emitOut s x = s := by
  unfold emitOut
  simp only [h, hr, hs, ht, Bool.not_true, Bool.false_eq_true, if_false]
  split
  · rfl
  · rename_i hopen
    have hfull : targetsFree s x o.tgts = false := by simpa [hopen] using hw
    rw [hfull]
    rfl

/-- The first token of a ready place leaves to its targets. -/
theorem emitOut_of_leaves (hw : ((s.slot x).wh.isSome || (s.tile (tileOf x)).met || !targetsFree s x o.tgts) = false) :
    emitOut s x =
      emitAll (s.setSlot x { s.slot x with outs := if more = [] then os else { o with toks := more } :: os }) x tok
        (s.now + 1) (s.now + 1) 0 false o.tgts := by
  obtain ⟨hopen, hfull⟩ := Bool.or_eq_false_iff.mp hw
  have hfree : targetsFree s x o.tgts = true := by simpa using hfull
  unfold emitOut
  simp only [h, hr, hs, ht, hopen, hfree, Bool.not_true, Bool.false_eq_true, if_false]
  rfl

end

/-- A place of the emission order once the tokens of firing id are known. -/
def readied (id : Nat) (toks : List Token) (o : OutE) : OutE := if o.id = id then { o with toks := toks, ready := true } else o

/-- Slot x once the tokens of firing id are known, before any leaves. -/
def readyAt (s : State) (x id : Nat) (toks : List Token) : State :=
  s.setSlot x { s.slot x with outs := (s.slot x).outs.map (readied id toks) }

theorem readyOut_eq (s : State) (x id : Nat) (toks : List Token) : readyOut s x id toks = emitOut (readyAt s x id toks) x := rfl

theorem readyAt_outs (s : State) (x id : Nat) (toks : List Token) :
    ((readyAt s x id toks).slot x).outs = (s.slot x).outs.map (readied id toks) := by rw [readyAt, State.setSlot_same]

/-- Where a slot's outlet stands, a place in its order that becomes ready is answered as from the state before. -/
theorem SameOutlet.answered {s u : State} {x : Nat} (h : SameOutlet s u x) (houts : (u.slot x).outs = (s.slot x).outs)
    (id : Nat) (toks : List Token) : Answered s (readyOut u x id toks) x id toks := by
  have hsame : SameOutlet s (readyAt u x id toks) x := h.trans (setSlot u x rfl)
  have hready : ((readyAt u x id toks).slot x).outs = (s.slot x).outs.map (readied id toks) := houts ▸ readyAt_outs u x id toks
  rw [readyOut_eq]
  refine ⟨fun o os ho hid hr => ?_, fun o os tok more ho hid hs ht => ⟨fun hw => ?_, fun hw => ?_⟩⟩
  · have hfirst : readied id toks o = o := if_neg hid
    have hhead : ((readyAt u x id toks).slot x).outs = o :: os.map (readied id toks) := by rw [hready, ho, List.map_cons, hfirst]
    rw [emitOut_of_unready hhead hr]
    exact hready
  all_goals
    have hfirst : readied id toks o = { o with toks := toks, ready := true } := if_pos hid
    have hhead : ((readyAt u x id toks).slot x).outs = { o with toks := toks, ready := true } :: os.map (readied id toks) := by
      rw [hready, ho, List.map_cons, hfirst]
  · rw [emitOut_of_waits hhead rfl hs ht ((hsame.waits o.tgts).trans hw)]
    exact ⟨hready, fun l => congrArg Link.q (hsame.link l)⟩
  · rw [emitOut_of_leaves hhead rfl hs ht ((hsame.waits o.tgts).trans hw)]
    refine ⟨?_, ?_⟩
    · rw [emitAll_slot, State.setSlot_same]
      dsimp only
      split <;> rfl
    · rw [hsame.wiring.now]
      refine (hsame.trans (setSlot _ x ?_)).sends tok _ 0 false o.tgts
      rfl

/-! ### A command or an access that has been performed (R226, R253) -/

/-- Slot x with a command performed: it counts it no more, and its section has progressed. -/
def uncounted (s : State) (x id : Nat) : State :=
  noteProgress (s.setSlot x { s.slot x with cmds := (s.slot x).cmds.filter fun c => c ≠ id }) (tileOf x)

theorem finishCmd_eq (s : State) (x id : Nat) (toks : List Token) : finishCmd s x id toks = readyOut (uncounted s x id) x id toks := rfl

section
variable (s : State) (x id : Nat)

theorem sameOutlet_uncounted : SameOutlet s (uncounted s x id) x := by
  refine SameOutlet.trans (SameOutlet.setSlot s x ?_) (SameOutlet.noteProgress _ x _)
  rfl

theorem uncounted_slot :
    (uncounted s x id).slot x = { s.slot x with cmds := (s.slot x).cmds.filter fun c => c ≠ id } := by
  rw [uncounted, noteProgress_slot, State.setSlot_same]

theorem uncounted_outs : ((uncounted s x id).slot x).outs = (s.slot x).outs := by rw [uncounted_slot]

theorem uncounted_cmds : ((uncounted s x id).slot x).cmds = (s.slot x).cmds.filter fun c => c ≠ id := by
  rw [uncounted_slot]

theorem uncounted_queue (f q : Nat) : cmdQueue (uncounted s x id) f q = cmdQueue s f q := (Emitting.noteProgress _ _).cmdQueue f q

end

/-- A command that its queue has given up is done once it is finished, where nothing else about its slot has changed. -/
theorem cmdDone_finishCmd {s u : State} {f q : Nat} {c : Cmd} (hsame : SameOutlet s u c.x) (hslot : u.slot c.x = s.slot c.x)
    (hqueue : ∀ d ∈ cmdQueue u f q, d.id ≠ c.id) (toks : List Token) : CmdDone s (finishCmd u c.x c.id toks) f q c toks := by
  have hemit : Emitting (uncounted u c.x c.id) (finishCmd u c.x c.id toks) := Emitting.readyOut _ _ _ _
  have houts : ((uncounted u c.x c.id).slot c.x).outs = (s.slot c.x).outs := by rw [uncounted_outs, hslot]
  refine ⟨?_, ?_, (hsame.trans (sameOutlet_uncounted u c.x c.id)).answered houts c.id toks⟩
  · rw [hemit.cmdQueue, uncounted_queue]
    exact hqueue
  · rw [hemit.cmds, uncounted_cmds, hslot]

/-- Finishing a command leaves the registers of the fields as they are. -/
theorem finishCmd_zregs (s : State) (x id f : Nat) (toks : List Token) :
    ((finishCmd s x id toks).field f).zregs = (s.field f).zregs := by
  rw [finishCmd_eq, (Emitting.readyOut _ _ _ _).zregs, uncounted, (Emitting.noteProgress _ _).zregs, State.setSlot_field]

theorem finishCmd_zlen (s : State) (x id f : Nat) (toks : List Token) :
    ((finishCmd s x id toks).field f).zlen = (s.field f).zlen := by
  rw [finishCmd_eq, (Emitting.readyOut _ _ _ _).zlen, uncounted, (Emitting.noteProgress _ _).zlen, State.setSlot_field]

theorem finishAccess_zregs (s : State) (x id f : Nat) (toks : List Token) :
    ((finishAccess s x id toks).field f).zregs = (s.field f).zregs :=
  ((Emitting.readyOut _ _ _ _).zregs f).trans ((Emitting.noteProgress _ _).zregs f)

/-- An access that is finished has left its slot. -/
theorem finishAccess_accs (s : State) (x id : Nat) (toks : List Token) :
    ((finishAccess s x id toks).slot x).accs = (s.slot x).accs.filter fun a => a.id ≠ id := by
  unfold finishAccess
  rw [(Emitting.readyOut _ _ _ _).accs, (Emitting.noteProgress _ _).accs, State.setSlot_same]

end Sys2Proof.Machine

end

section

namespace Sys2Proof.Machine

open Claims

/-! ### Registers and SQ (R129, R134, R135) -/

theorem FieldSt.zreg_setZ (fs : FieldSt) (z y : BitVec 5) (v : ZReg) : (fs.setZ z v).zreg y = if y = z then v else fs.zreg y := by
  unfold zreg setZ
  rw [SMap.get_put]
  simp only [BitVec.toNat_inj]

theorem zreg_congr {fs gs : FieldSt} (h : gs.zregs = fs.zregs) (z : BitVec 5) : gs.zreg z = fs.zreg z :=
  congrArg (SMap.get · ZReg.reset z.toNat) h

section
variable (s : State) (f : Nat) (c : Cmd)

theorem leaveSq_field : (leaveSq s f c).field f =
    { s.field f with queues := SMap.put (s.field f).queues [] 10 ((cmdQueue s f 10).filter fun a => a.id ≠ c.id) } := by
  rw [leaveSq, setQueue, State.setField_same]

theorem leaveSq_queue : ∀ d ∈ cmdQueue (leaveSq s f c) f 10, d.id ≠ c.id := by
  intro d hd
  rw [cmdQueue, leaveSq_field, SMap.get_put_same] at hd
  simpa using (List.mem_filter.mp hd).2

theorem sameOutlet_leaveSq (x : Nat) : SameOutlet s (leaveSq s f c) x := SameOutlet.setField _ _ _ _

theorem held_leaveSq : Held s (leaveSq s f c) := Held.setQueue _ _ _ _

end

/-! ### The oldest eligible command is performed (R135 to R137) -/

/-- The state after a command that writes the field and answers a token. -/
def zPerformed (s : State) (f : Nat) (c : Cmd) (fs : FieldSt) (tok : Token) : State :=
  finishCmd (leaveSq (s.setField f fs) f c) c.x c.id [tok]

/-- The state after a command that makes no access: performed whole, or its fault raised. -/
def zOutcome (s : State) (f : Nat) (c : Cmd) : ZRes → State
  | .error (code, d) => cmdFault s f 10 c code 0 0 d
  | .ok (fs, tok) => zPerformed s f c fs tok

theorem exec_msuCommandPerformed (s : State) (f : Nat) : exec (.msuCommandPerformed f) s = .next (msuPerform s f) := rfl

section
variable {s : State} {f : Nat} {c : Cmd} (hel : eligible s f [] (cmdQueue s f 10) = some c)
include hel

/-- A field with an eligible command is not in its reset state. -/
theorem field_ne_reset_of_eligible : s.field f ≠ FieldSt.reset := by
  intro h
  have hnone : cmdQueue s f 10 = [] := by rw [cmdQueue, h]; rfl
  rw [hnone] at hel
  cases hel

section
variable (hreg : msuAccess c.i = false)
include hreg

theorem exec_msu_of_register : exec (.msuCommandPerformed f) s = .next (zOutcome s f c (msuEffect (s.field f) c)) := by
  rw [exec_msuCommandPerformed]
  unfold msuPerform
  rw [hel]
  dsimp only
  split
  · simp [msuAccess, *] at hreg
  · simp [msuAccess, *] at hreg
  · rcases msuEffect (s.field f) c with ⟨code, d⟩ | ⟨fs, tok⟩ <;> rfl

theorem exec_msu_of_effect {fs : FieldSt} {tok : Token} (he : msuEffect (s.field f) c = .ok (fs, tok)) :
    exec (.msuCommandPerformed f) s = .next (zPerformed s f c fs tok) := by
  rw [exec_msu_of_register hel hreg, he]
  rfl

theorem exec_msu_of_fault {code : Nat} {d : DWord} (he : msuEffect (s.field f) c = .error (code, d)) :
    exec (.msuCommandPerformed f) s = .next (cmdFault s f 10 c code 0 0 d) := by
  rw [exec_msu_of_register hel hreg, he]
  rfl

end

end

/-! ### What a performed command leaves (R134, R135) -/

theorem SMap.erase_insert {α : Type} (n : Nat) (x : α) : ∀ m : SMap α, erase (insert m n x) n = erase m n
  | [] => by simp [insert, erase]
  | (k, v) :: m => by
    have ih := erase_insert n x m
    rw [insert]
    split
    · simp [erase]
    · split
      · simp [erase, *]
      · simp only [erase_cons, ih]

/-- Of two writes to one field the second stands. -/
theorem State.setField_setField (s : State) (f : Nat) {v : FieldSt} (hv : v ≠ FieldSt.reset) (w : FieldSt) :
    (s.setField f v).setField f w = s.setField f w := by
  have hput : SMap.put (SMap.put s.fields FieldSt.reset f v) FieldSt.reset f w = SMap.put s.fields FieldSt.reset f w := by
    by_cases hw : w = FieldSt.reset
    · simp only [SMap.put, if_pos hw, if_neg hv, SMap.erase_insert]
    · exact SMap.put_put _ _ hv hw
  unfold State.setField
  dsimp only
  rw [hput]

/-- A command that leaves the field's registers does no more than leave its queue. -/
theorem leaveSq_setField_self {s : State} {f : Nat} {c : Cmd} (hel : eligible s f [] (cmdQueue s f 10) = some c) :
    leaveSq (s.setField f (s.field f)) f c = leaveSq s f c := by
  have hfield : (s.setField f (s.field f)).field f = s.field f := State.setField_same _ _ _
  unfold leaveSq setQueue cmdQueue
  rw [hfield, State.setField_setField _ _ (field_ne_reset_of_eligible hel)]

section
variable (s : State) (f : Nat) (c : Cmd) (fs : FieldSt) (tok : Token)

theorem zPerformed_zregs : ((zPerformed s f c fs tok).field f).zregs = fs.zregs := by
  rw [zPerformed, finishCmd_zregs, leaveSq_field, State.setField_same]

theorem zPerformed_zlen : ((zPerformed s f c fs tok).field f).zlen = fs.zlen := by
  rw [zPerformed, finishCmd_zlen, leaveSq_field, State.setField_same]

theorem zPerformed_zreg (z : BitVec 5) : ((zPerformed s f c fs tok).field f).zreg z = fs.zreg z :=
  zreg_congr (zPerformed_zregs s f c fs tok) z

theorem zPerformed_byte (b : Nat) : (zPerformed s f c fs tok).byte b = s.byte b :=
  (((Held.setField s f fs).trans (held_leaveSq _ f c)).trans (Held.finishCmd _ _ _ _)).byte b

theorem cmdDone_zPerformed : CmdDone s (zPerformed s f c fs tok) f 10 c [tok] :=
  cmdDone_finishCmd ((SameOutlet.setField s c.x f fs).trans (sameOutlet_leaveSq _ f c c.x)) rfl (leaveSq_queue _ f c) [tok]

end

/-- The completion token of R134. -/
theorem zToken_eq (tag : BitVec 3) (mask : BitVec 16) :
    zToken tag mask = dataOut (BitVec.ofNat 64 (tag.toNat * 2 ^ 16 + mask.toNat)) := rfl

section
variable {s : State} {f : Nat} {c : Cmd} (hel : eligible s f [] (cmdQueue s f 10) = some c) (hreg : msuAccess c.i = false)
include hel hreg

/-- A command that writes one register writes it alone. -/
theorem zWritten_of_zWrite {zd : BitVec 5} {v : ZReg} (he : msuEffect (s.field f) c = zWrite (s.field f) zd v)
    {word : Nat → Nat → Prop} (hword : ∀ i, i < 16 → word i ((v.lanes[i]?).getD 0)) :
    ZWritten s f c zd v.tag v.mask word := by
  have hz : ((zPerformed s f c ((s.field f).setZ zd v) (zToken v.tag v.mask)).field f).zreg zd = v := by
    rw [zPerformed_zreg, FieldSt.zreg_setZ, if_pos rfl]
  refine ⟨_, exec_msu_of_effect hel hreg he, by rw [hz], by rw [hz], fun i hi => ?_, zPerformed_zlen _ _ _ _ _,
    fun y hy => ?_, zPerformed_byte _ _ _ _ _, zToken_eq v.tag v.mask ▸ cmdDone_zPerformed _ _ _ _ _⟩
  · rw [lane, hz]
    exact hword i hi
  · rw [zPerformed_zreg, FieldSt.zreg_setZ, if_neg hy]

end

/-! ### SCNT, SCNT.A and SCVT (R144) -/

theorem toNat_append_add {m n : Nat} (x : BitVec m) (y : BitVec n) : (x ++ y).toNat = x.toNat * 2 ^ n + y.toNat := by
  rw [BitVec.toNat_append, ← Nat.shiftLeft_add_eq_or_of_lt y.isLt, Nat.shiftLeft_eq]

theorem toNat_append_four (a b c d : BitVec 16) :
    (a ++ b ++ c ++ d).toNat = ((a.toNat * 2 ^ 16 + b.toNat) * 2 ^ 16 + c.toNat) * 2 ^ 16 + d.toNat := by
  rw [toNat_append_add, toNat_append_add, toNat_append_add]

theorem sum_range_four (w : Nat → Nat) : ((List.range 4).map w).sum = w 0 + (w 1 + (w 2 + w 3)) := by
  rw [show List.range 4 = [0, 1, 2, 3] from rfl]
  simp only [List.map_cons, List.map_nil, List.sum_cons, List.sum_nil, Nat.add_zero]

theorem dataOf_four (w : Nat → Nat) :
    dataOf (((List.range 4).map fun j => w j % 65536 * 2 ^ (16 * j)).sum) =
      (BitVec.ofNat 16 (w 3) ++ BitVec.ofNat 16 (w 2) ++ BitVec.ofNat 16 (w 1) ++ BitVec.ofNat 16 (w 0) : BitVec 64) := by
  have hfour := toNat_append_four (BitVec.ofNat 16 (w 3)) (BitVec.ofNat 16 (w 2)) (BitVec.ofNat 16 (w 1)) (BitVec.ofNat 16 (w 0))
  simp only [BitVec.toNat_ofNat] at hfour
  refine BitVec.eq_of_toNat_eq (Eq.trans ?_ hfour.symm)
  rw [dataOf, BitVec.toNat_ofNat, sum_range_four]
  omega

/-- The four values of a lane group stand side by side, that of the lowest lane in the low bits. -/
theorem pack4_eq (vs : List Nat) (q : Nat) {v : Nat → Nat} (hv : ∀ j, j < 4 → (vs[4 * q + j]?).getD 0 = v (4 * q + j)) :
    pack4 vs q = (BitVec.ofNat 16 (v (4 * q + 3)) ++ BitVec.ofNat 16 (v (4 * q + 2)) ++ BitVec.ofNat 16 (v (4 * q + 1)) ++
      BitVec.ofNat 16 (v (4 * q)) : BitVec 64) := by
  rw [pack4, dataOf_four fun j => (vs[4 * q + j]?).getD 0, hv 0 (by omega), hv 1 (by omega), hv 2 (by omega), hv 3 (by omega)]
  rfl

section
variable {z : ZReg} (hlanes : z.lanes.length = 16)
include hlanes

/-- The count of a lane is the number of its bits, up to the register's length, that are one. -/
theorem zCounts_getElem? {i : Nat} (hi : i < 16) : (zCounts z)[i]? =
    some ((List.range (lenOf z.tag)).countP fun k => ((z.lanes[i]?).getD 0).testBit k) := by
  have hlane : i < z.lanes.length := by omega
  rw [zCounts, List.getElem?_map, List.getElem?_eq_getElem hlane]
  exact congrArg some (popCount_eq _ _)

theorem zCounts_eq : zCounts z =
    (List.range 16).map fun i => (List.range (lenOf z.tag)).countP fun k => ((z.lanes[i]?).getD 0).testBit k := by
  refine List.ext_getElem? fun i => ?_
  by_cases hi : i < 16
  · rw [zCounts_getElem? hlanes hi, List.getElem?_map, List.getElem?_range hi]
    rfl
  · rw [List.getElem?_eq_none (by simpa [zCounts, hlanes] using hi), List.getElem?_eq_none (by simpa using hi)]

end

/-- A command that answers a value and leaves the field leaves its queue, and its slot is answered. -/
theorem exec_msu_of_answer {s : State} {f : Nat} {c : Cmd} (hel : eligible s f [] (cmdQueue s f 10) = some c)
    (hreg : msuAccess c.i = false) {d : DWord} (he : msuEffect (s.field f) c = .ok (s.field f, dataTok d false)) :
    exec (.msuCommandPerformed f) s =
      .next (finishCmd (setQueue s f 10 ((cmdQueue s f 10).filter fun a => a.id ≠ c.id)) c.x c.id
        [{ kind := .data, data := d, psn := false }]) := by
  rw [exec_msu_of_effect hel hreg he, zPerformed, leaveSq_setField_self hel]
  rfl

end Sys2Proof.Machine

open Sys2Proof Sys2Proof.Machine Sys2Proof.Claims

/-- Settles O52: each count is a population count of its lane, and a command that leaves the field does no more than leave its
queue. -/
theorem countsOfStreams : Obligations.CountsOfStreams := by
  unfold Obligations.CountsOfStreams
  intro s f c z hel _ hlanes _ len ones q four answers
  have hcount : ∀ j, j < 4 → (zCounts ((s.field f).zreg z))[4 * q + j]? = some (ones (4 * q + j)) := fun j hj =>
    zCounts_getElem? hlanes (by omega)
  have hanswers : ∀ d e, msuAccess c.i = false → msuEffect (s.field f) c = .ok (s.field f, dataTok e false) → e = d → answers d :=
    fun d e hreg he hd => exec_msu_of_answer hel hreg (hd ▸ he)
  refine ⟨fun t1 t0 hi => ?_, fun t1 t0 hi => ?_, fun t1 t0 hi => ?_⟩
  · refine hanswers _ (countZ (s.field f) z c.l) (by rw [hi]; rfl) (by rw [msuEffect, hi]) ?_
    exact pack4_eq _ q (v := ones) fun j hj => by rw [hcount j hj]; rfl
  · refine hanswers _ (countAllZ (s.field f) z) (by rw [hi]; rfl) (by rw [msuEffect, hi]) ?_
    exact congrArg (fun vs : List Nat => dataOf vs.sum) (zCounts_eq hlanes)
  · refine hanswers _ (fractionZ (s.field f) z c.l) (by rw [hi]; rfl) (by rw [msuEffect, hi]) ?_
    exact pack4_eq _ q (v := fun i => min (ones i * 65536 / len) 65535) fun j hj => by rw [List.getElem?_map, hcount j hj]; rfl

end

section

namespace Sys2Proof.Machine

open Claims

/-! ### Lanes bit by bit (R133, R140, R142, R143) -/

theorem zip3_getElem (g : Nat → Nat → Nat → Nat) (m a b : ZReg) {i : Nat} (hi : i < 16) :
    ((zip3 g m a b)[i]?).getD 0 = g ((m.lanes[i]?).getD 0) ((a.lanes[i]?).getD 0) ((b.lanes[i]?).getD 0) := by
  rw [zip3, List.getElem?_map, List.getElem?_range hi]
  rfl

theorem map_lanes_getElem (g : Nat → Nat) {vs : List Nat} (h : vs.length = 16) {i : Nat} (hi : i < 16) :
    ((vs.map g)[i]?).getD 0 = g ((vs[i]?).getD 0) := by
  rw [List.getElem?_map, List.getElem?_eq_getElem (by omega : i < vs.length)]
  rfl

/-- Bits that are set one after another, each once. -/
theorem testBit_foldl_pow (p : Nat → Bool) : ∀ n : Nat,
    ((List.range n).filter p).foldl (fun v k => v + 2 ^ k) 0 < 2 ^ n ∧
      ∀ i, (((List.range n).filter p).foldl (fun v k => v + 2 ^ k) 0).testBit i = (decide (i < n) && p i)
  | 0 => ⟨Nat.one_pos, fun i => by simp⟩
  | n + 1 => by
    obtain ⟨hlt, hbit⟩ := testBit_foldl_pow p n
    rw [List.range_succ, List.filter_append, List.foldl_append]
    generalize ((List.range n).filter p).foldl (fun v k => v + 2 ^ k) 0 = v at hlt hbit
    have hnext : (List.filter p [n]).foldl (fun v k => v + 2 ^ k) v = 2 ^ n * (if p n then 1 else 0) + v := by
      cases hp : p n <;> simp [hp, Nat.add_comm]
    rw [hnext]
    refine ⟨?_, fun i => ?_⟩
    · rw [Nat.pow_succ]
      split <;> omega
    · rw [Nat.testBit_two_pow_mul_add _ hlt]
      rcases Nat.lt_trichotomy i n with h | rfl | h
      · rw [if_pos h, hbit, decide_eq_true h, decide_eq_true (by omega)]
      · rw [if_neg (Nat.lt_irrefl i), Nat.sub_self, decide_eq_true (Nat.lt_succ_self i), Bool.true_and]
        cases p i <;> rfl
      · rw [if_neg (by omega), decide_eq_false (by omega), Bool.false_and]
        refine Nat.testBit_lt_two_pow (lt_of_lt_of_le (b := 2) ?_ (Nat.le_self_pow (by omega) 2))
        split <;> omega

/-- Bit k of a generated lane is 1 where the generator's permutation lies below the threshold. -/
theorem testBit_genLane (g : Nat) (tag : BitVec 3) (th : Nat) {k : Nat} (hk : k < lenOf tag) :
    (genLane g tag th).testBit k = decide (genPerm g tag k < th) := by
  rw [genLane, (testBit_foldl_pow _ _).2, decide_eq_true hk, Bool.true_and]

/-- All bits below the length are turned round. -/
theorem testBit_flipped (v n : Nat) {k : Nat} (hk : k < n) : (Nat.xor v (2 ^ n - 1)).testBit k = !v.testBit k := by
  have hflip : (Nat.xor v (2 ^ n - 1)).testBit k = (v.testBit k ^^ (2 ^ n - 1).testBit k) := Nat.testBit_xor v _ k
  rw [hflip, Nat.testBit_two_pow_sub_one, decide_eq_true hk, Bool.xor_true]

/-- The bit of one operand or of the other, as the select bit says. -/
theorem testBit_picked (v x y n : Nat) {k : Nat} (hk : k < n) :
    (Nat.lor (Nat.land v x) (Nat.land (Nat.xor v (2 ^ n - 1)) y)).testBit k = if v.testBit k then x.testBit k else y.testBit k := by
  have hpick : (Nat.lor (Nat.land v x) (Nat.land (Nat.xor v (2 ^ n - 1)) y)).testBit k =
      ((v.testBit k && x.testBit k) || ((Nat.xor v (2 ^ n - 1)).testBit k && y.testBit k)) := by
    refine (Nat.testBit_or _ _ k).trans ?_
    exact congrArg₂ or (Nat.testBit_and v x k) (Nat.testBit_and _ y k)
  rw [hpick, testBit_flipped v n hk]
  cases v.testBit k <;> simp

theorem oneHot_eq {g : Nat} (hg : g < 16) : BitVec.ofNat 16 (2 ^ g) = 1#16 <<< g := by
  have hpow : 2 ^ g < 2 ^ 16 := Nat.pow_lt_pow_right (by omega) hg
  refine BitVec.eq_of_toNat_eq ?_
  rw [BitVec.toNat_ofNat, BitVec.toNat_shiftLeft, Nat.shiftLeft_eq, BitVec.toNat_ofNat, Nat.one_mod_eq_one.mpr (by decide), Nat.one_mul]

/-! ### The checks of the bit-combining instructions (R133, R137) -/

section
variable (fs : FieldSt) (zd za zb : BitVec 5) (apart : Bool) (op : Nat → Nat → Nat)

/-- Whether the masks are as an instruction requires: apart, or equal. -/
def MasksFit (apart : Bool) (a b : BitVec 16) : Prop := if apart then a &&& b = 0 else a = b

theorem tagClash_pair (a b : ZReg) : tagClash [a, b] = if a.tag = b.tag then none else some (a.tag, b.tag) := by
  by_cases h : a.tag = b.tag
  · simp [tagClash, h]
  · simp [tagClash, h, Ne.symm h]

theorem combine2_of_tags (h : (fs.zreg za).tag ≠ (fs.zreg zb).tag) :
    combine2 fs zd za zb apart op = .error (codeStreamLen, lenDetail (fs.zreg za).tag (fs.zreg zb).tag) := by
  unfold combine2
  dsimp only
  rw [tagClash_pair, if_neg h]

variable (h : (fs.zreg za).tag = (fs.zreg zb).tag)
include h

theorem combine2_of_masks (hm : ¬MasksFit apart (fs.zreg za).mask (fs.zreg zb).mask) :
    combine2 fs zd za zb apart op = .error (codeCorrelated, maskDetail (fs.zreg za).mask (fs.zreg zb).mask) := by
  unfold combine2
  dsimp only
  rw [tagClash_pair, if_pos h]
  refine if_pos ?_
  cases apart <;> simpa [MasksFit] using hm

theorem combine2_of_fits (hm : MasksFit apart (fs.zreg za).mask (fs.zreg zb).mask) :
    combine2 fs zd za zb apart op = zWrite fs zd {
      lanes := zip3 (fun _ => op) (fs.zreg za) (fs.zreg za) (fs.zreg zb)
      mask := if apart then (fs.zreg za).mask ||| (fs.zreg zb).mask else (fs.zreg za).mask
      tag := (fs.zreg za).tag } := by
  unfold combine2
  dsimp only
  rw [tagClash_pair, if_pos h]
  refine if_neg ?_
  cases apart <;> simpa [MasksFit] using hm

end

/-- The instructions on two sources make no access, and combine their sources by the operation of their row, bit by bit. -/
theorem msuEffect_of_twoSource {zd za zb : BitVec 5} {t0 : Target} {i : Instr} {apart : Bool} {op : Bool → Bool → Bool}
    (h : (i, apart, op) ∈ twoSource zd za zb t0) : msuAccess i = false ∧ ∃ word : Nat → Nat → Nat,
      (∀ x y k, (word x y).testBit k = op (x.testBit k) (y.testBit k)) ∧
        ∀ (fs : FieldSt) (c : Cmd), c.i = i → msuEffect fs c = combine2 fs zd za zb apart word := by
  simp only [twoSource, List.mem_cons, List.not_mem_nil, or_false, Prod.mk.injEq] at h
  rcases h with ⟨rfl, rfl, rfl⟩ | ⟨rfl, rfl, rfl⟩ | ⟨rfl, rfl, rfl⟩ | ⟨rfl, rfl, rfl⟩ | ⟨rfl, rfl, rfl⟩
  · exact ⟨rfl, Nat.land, Nat.testBit_and, fun fs c hi => by rw [msuEffect, hi]⟩
  · exact ⟨rfl, Nat.lor, Nat.testBit_or, fun fs c hi => by rw [msuEffect, hi]⟩
  · exact ⟨rfl, Nat.xor, Nat.testBit_xor, fun fs c hi => by rw [msuEffect, hi]⟩
  · exact ⟨rfl, Nat.land, Nat.testBit_and, fun fs c hi => by rw [msuEffect, hi]⟩
  · exact ⟨rfl, Nat.lor, Nat.testBit_or, fun fs c hi => by rw [msuEffect, hi]⟩

/-- SMUX on three registers of one tag, the select's mask apart from the others. -/
theorem combineMux_of_fits {fs : FieldSt} {zd za zb : BitVec 5} (ha : (fs.zreg zd).tag = (fs.zreg za).tag)
    (hb : (fs.zreg zd).tag = (fs.zreg zb).tag) (hm : (fs.zreg zd).mask &&& ((fs.zreg za).mask ||| (fs.zreg zb).mask) = 0) :
    combineMux fs zd za zb = zWrite fs zd {
      lanes := zip3 (fun v x y => Nat.lor (Nat.land v x) (Nat.land (Nat.xor v (2 ^ lenOf (fs.zreg zd).tag - 1)) y))
        (fs.zreg zd) (fs.zreg za) (fs.zreg zb)
      mask := (fs.zreg zd).mask ||| (fs.zreg za).mask ||| (fs.zreg zb).mask
      tag := (fs.zreg zd).tag } := by
  have htags : tagClash [fs.zreg zd, fs.zreg za, fs.zreg zb] = none := by simp [tagClash, ← ha, ← hb]
  unfold combineMux
  dsimp only
  rw [htags]
  exact if_neg (not_not_intro hm)

/-! ### The register that SGEN writes (R140) -/

/-- The register that SGEN writes: the four lanes of its group generated, the others cleared by the first group alone. -/
def generated (n : BitVec 3) (d : ZReg) (vals ctl : DWord) : ZReg :=
  let g := ctl.toNat % 16
  let q := ctl.toNat / 16 % 4
  { lanes := (List.range 16).map fun i =>
      if i / 4 = q then genLane g n (bitsOf vals.toNat (16 * (i % 4)) 16 * 2 ^ lenLog n / 65536)
      else if q = 0 then 0 else (d.lanes[i]?).getD 0
    mask := if q = 0 then BitVec.ofNat 16 (2 ^ g) else d.mask ||| BitVec.ofNat 16 (2 ^ g)
    tag := n }

theorem generated_lane (n : BitVec 3) (d : ZReg) (vals ctl : DWord) {i : Nat} (hi : i < 16) :
    ((generated n d vals ctl).lanes[i]?).getD 0 =
      if i / 4 = ctl.toNat / 16 % 4 then
        genLane (ctl.toNat % 16) n (bitsOf vals.toNat (16 * (i % 4)) 16 * 2 ^ lenLog n / 65536)
      else if ctl.toNat / 16 % 4 = 0 then 0 else (d.lanes[i]?).getD 0 := by
  rw [generated, List.getElem?_map, List.getElem?_range hi]
  rfl

theorem generated_mask (n : BitVec 3) (d : ZReg) (vals ctl : DWord) : (generated n d vals ctl).mask =
    if ctl.toNat / 16 % 4 = 0 then 1#16 <<< (ctl.toNat % 16) else d.mask ||| 1#16 <<< (ctl.toNat % 16) := by
  rw [← oneHot_eq (Nat.mod_lt _ (by decide))]
  rfl

/-! ### The memory image of a register (R141) -/

theorem eight_dvd_lenOf (tag : BitVec 3) : 8 ∣ lenOf tag := by
  have hlog : 3 ≤ lenLog tag := by unfold lenLog; omega
  exact Nat.pow_dvd_pow 2 hlog

/-- Of blocks of one size laid end to end, the one at a multiple of the size. -/
theorem flatMap_block {α β : Type} {g : α → List β} {n : Nat} (hg : ∀ a, (g a).length = n) : ∀ (as : List α) (i : Nat)
    (hi : i < as.length), ((as.flatMap g).drop (i * n)).take n = g as[i]
  | a :: as, 0, _ => by
    rw [Nat.zero_mul, List.drop_zero, List.flatMap_cons]
    exact List.take_left' (hg a)
  | a :: as, i + 1, hi => by
    rw [List.flatMap_cons, Nat.succ_mul, Nat.add_comm, ← List.drop_drop, List.drop_left' (hg a)]
    exact flatMap_block hg as i (Nat.lt_of_succ_lt_succ hi)

section
variable {z : ZReg} (hlanes : z.lanes.length = 16)
include hlanes

theorem zImage_length : (zImage z).length = 2 * lenOf z.tag := by
  obtain ⟨m, hm⟩ := eight_dvd_lenOf z.tag
  simp only [zImage, List.length_flatMap, leBytes_length, List.map_const', List.sum_replicate, hlanes, smul_eq_mul]
  omega

theorem zImage_ne_nil : zImage z ≠ [] := by
  have hpos : 0 < lenOf z.tag := Nat.two_pow_pos _
  have hlen := zImage_length hlanes
  intro h
  rw [h, List.length_nil] at hlen
  omega

/-- The bytes of lane i in the image are the lane. -/
theorem zImage_lane {i : Nat} (hi : i < 16) (hlane : (z.lanes[i]?).getD 0 < 2 ^ lenOf z.tag) :
    leNat (((zImage z).drop (i * (lenOf z.tag / 8))).take (lenOf z.tag / 8)) = (z.lanes[i]?).getD 0 := by
  have hin : i < z.lanes.length := by omega
  have hpow : 256 ^ (lenOf z.tag / 8) = 2 ^ lenOf z.tag := by
    rw [show 256 = 2 ^ 8 from rfl, ← Nat.pow_mul, Nat.mul_div_cancel' (eight_dvd_lenOf z.tag)]
  rw [List.getElem?_eq_getElem hin, Option.getD_some] at hlane ⊢
  rw [zImage, flatMap_block (fun v => leBytes_length _ v) z.lanes i hin, leNat_leBytes _ _ (hpow ▸ hlane)]

end

theorem zFromImage_lane (tag : BitVec 3) (mask : BitVec 16) (bs : List Byte) {i : Nat} (hi : i < 16) :
    (((zFromImage tag mask bs).lanes)[i]?).getD 0 = leNat ((bs.drop (i * (lenOf tag / 8))).take (lenOf tag / 8)) := by
  rw [zFromImage, List.getElem?_map, List.getElem?_range hi]
  rfl

/-! ### SST and the first place of SLD (R136, R137, R141) -/

/-- The access that command c issues through its slot's port. -/
def issued (s : State) (c : Cmd) (len token : Nat) (block : List Byte) : Access :=
  { id := c.id, i := c.i, va := BitVec.ofNat 64 (c.l.toNat % 2 ^ 48), data := c.r,
    p := dataOf (if block = [] then len else token), psn := false, block := block, ks := c.ks, firedAt := s.now,
    held := false, parts := none }

theorem msuPort_eq (s : State) (c : Cmd) (len token : Nat) (block : List Byte) : msuPort s c len token block =
    s.setSlot c.x { s.slot c.x with accs := (s.slot c.x).accs ++ [issued s c len token block] } := rfl

theorem msuAccess_msuPort {s u : State} {c : Cmd} (hslot : u.slot c.x = s.slot c.x) (len token : Nat) (block : List Byte) :
    MsuAccess s (msuPort u c len token block) c (issued u c len token block) := by
  refine ⟨?_, rfl, rfl, ?_, rfl⟩
  · rw [msuPort_eq, State.setSlot_same, hslot]
  · rw [issued, BitVec.toNat_ofNat]
    omega

/-- SLD at its first place has left SQ, and stands among those between their places with the length that it read. -/
def betweenPlaces (s : State) (f : Nat) (c : Cmd) : State :=
  (leaveSq s f c).setField f { (leaveSq s f c).field f with
    slds := ((leaveSq s f c).field f).slds ++ [{ c with zlen := (s.field f).zlen, started := true }] }

theorem betweenPlaces_field (s : State) (f : Nat) (c : Cmd) : (betweenPlaces s f c).field f =
    { (leaveSq s f c).field f with
      slds := ((leaveSq s f c).field f).slds ++ [{ c with zlen := (s.field f).zlen, started := true }] } := by
  rw [betweenPlaces, State.setField_same]

section
variable {s : State} {f : Nat} {c : Cmd} (hel : eligible s f [] (cmdQueue s f 10) = some c)
include hel

/-- SLD and SST fault on an address that is no multiple of 32. -/
theorem exec_msu_of_misaligned (hacc : msuAccess c.i = true) (ha : c.l.toNat % 32 ≠ 0) :
    exec (.msuCommandPerformed f) s =
      .next (cmdFault s f 10 c codeMisalign 6 (c.l.toNat % 2 ^ 48) (BitVec.ofNat 64 (c.l.toNat % 2 ^ 48))) := by
  have hva : c.l.toNat % 2 ^ 48 % 32 ≠ 0 := by omega
  have hne : c.l.toNat % 2 ^ 48 ≠ 0 := by omega
  rw [exec_msuCommandPerformed]
  unfold msuPerform
  rw [hel]
  dsimp only
  split
  · rw [if_pos hva, if_neg hne]
    rfl
  · rw [if_pos hva, if_neg hne]
    rfl
  · simp [msuAccess, *] at hacc

variable {z : BitVec 5} {t1 t0 : Target} (ha : c.l.toNat % 32 = 0)
include ha

theorem exec_msu_of_sst (hi : c.i = .sst z t1 t0) : exec (.msuCommandPerformed f) s =
    .next (msuPort (leaveSq s f c) c 0 (((s.field f).zreg z).tag.toNat * 65536 + ((s.field f).zreg z).mask.toNat)
      (zImage ((s.field f).zreg z))) := by
  have hva : ¬c.l.toNat % 2 ^ 48 % 32 ≠ 0 := by omega
  rw [exec_msuCommandPerformed]
  unfold msuPerform
  rw [hel]
  simp only [hi, if_neg hva]

theorem exec_msu_of_sld (hi : c.i = .sld z t1 t0) : exec (.msuCommandPerformed f) s =
    .next (msuPort (betweenPlaces s f c) c (2 * lenOf (s.field f).zlen) 0 []) := by
  have hva : ¬c.l.toNat % 2 ^ 48 % 32 ≠ 0 := by omega
  rw [exec_msuCommandPerformed]
  unfold msuPerform
  rw [hel]
  simp only [hi, if_neg hva, betweenPlaces]

end

/-! ### The second place of SLD (R136, R141) -/

/-- Register z of field f has been loaded by the k-th SLD between its places. -/
def loaded (s : State) (f k : Nat) (z : BitVec 5) (v : ZReg) : State :=
  s.setField f { (s.field f).setZ z v with slds := ((s.field f).setZ z v).slds.eraseIdx k }

theorem loaded_zregs (s : State) (f k : Nat) (z : BitVec 5) (v : ZReg) :
    ((loaded s f k z v).field f).zregs = ((s.field f).setZ z v).zregs := by rw [loaded, State.setField_same]

/-- SLD takes its second place once its last part has been read. -/
theorem exec_sldSecondPlace {s : State} {f k : Nat} {c : Cmd} {z : BitVec 5} {t1 t0 : Target} {a : Access} {ps : List Part}
    (hk : (s.field f).slds[k]? = some c) (hi : c.i = .sld z t1 t0)
    (hfind : (s.slot c.x).accs.find? (fun b => b.id == c.id) = some a) (hparts : a.parts = some ps)
    (hdone : ∀ p ∈ ps, p.done = true) :
    exec (.sldSecondPlace f k) s =
      .next (finishAccess (loaded s f k z (zFromImage c.zlen (c.r.setWidth 16) (ps.flatMap Part.bytes))) c.x c.id
        [zToken c.zlen (c.r.setWidth 16)]) := by
  have hall : ps.all (fun p => p.done) = true := List.all_eq_true.mpr hdone
  change Host.Outcome.next (sldSecond s f k) = _
  unfold sldSecond
  simp only [hk, hfind, hi, hparts, hall, Bool.not_true, Bool.false_eq_true, if_false]
  rfl

section
variable {s : State} {f : Nat} {c : Cmd} (hel : eligible s f [] (cmdQueue s f 10) = some c)
include hel

/-! ### Each command that writes a register (R133, R140, R142, R143) -/

/-- SLEN writes ZLEN alone. -/
theorem performs_slen {l : BitVec 3} {t1 t0 : Target} (hi : c.i = .slen l t1 t0) :
    ∃ t, exec (.msuCommandPerformed f) s = .next t ∧ (t.field f).zlen = l ∧ (t.field f).zregs = (s.field f).zregs ∧
      CmdDone s t f 10 c [dataOut (BitVec.ofNat 64 (l.toNat * 2 ^ 16))] := by
  have he : msuEffect (s.field f) c = .ok ({ s.field f with zlen := l }, zToken l 0) := by rw [msuEffect, hi]
  have htok : zToken l 0 = dataOut (BitVec.ofNat 64 (l.toNat * 2 ^ 16)) := by
    rw [zToken_eq, BitVec.ofNat_eq_ofNat, BitVec.toNat_zero, Nat.add_zero]
  exact ⟨_, exec_msu_of_effect hel (by rw [hi]; rfl) he, zPerformed_zlen _ _ _ _ _, zPerformed_zregs _ _ _ _ _,
    htok ▸ cmdDone_zPerformed _ _ _ _ _⟩

section
variable {zd za zb : BitVec 5} {t0 : Target} {i : Instr} {apart : Bool} {op : Bool → Bool → Bool}
  (hrow : (i, apart, op) ∈ twoSource zd za zb t0) (hi : c.i = i)
include hrow hi

theorem performs_twoSource (htag : ((s.field f).zreg za).tag = ((s.field f).zreg zb).tag)
    (hmask : MasksFit apart ((s.field f).zreg za).mask ((s.field f).zreg zb).mask) :
    ZWritten s f c zd ((s.field f).zreg za).tag
      (if apart then ((s.field f).zreg za).mask ||| ((s.field f).zreg zb).mask else ((s.field f).zreg za).mask)
      fun i v => ∀ k, v.testBit k = op ((lane s f za i).testBit k) ((lane s f zb i).testBit k) := by
  obtain ⟨hreg, word, hword, heffect⟩ := msuEffect_of_twoSource hrow
  have he := (heffect (s.field f) c hi).trans (combine2_of_fits _ zd za zb apart word htag hmask)
  exact zWritten_of_zWrite hel (hi ▸ hreg) he fun i hlane k => by
    rw [zip3_getElem _ _ _ _ hlane]
    exact hword _ _ k

theorem faults_twoSource_tags (htag : ((s.field f).zreg za).tag ≠ ((s.field f).zreg zb).tag) :
    exec (.msuCommandPerformed f) s = .next (cmdFault s f 10 c codeStreamLen 0 0
      (lenDetail ((s.field f).zreg za).tag ((s.field f).zreg zb).tag)) := by
  obtain ⟨hreg, word, _, heffect⟩ := msuEffect_of_twoSource hrow
  exact exec_msu_of_fault hel (hi ▸ hreg) ((heffect _ c hi).trans (combine2_of_tags _ zd za zb apart word htag))

theorem faults_twoSource_masks (htag : ((s.field f).zreg za).tag = ((s.field f).zreg zb).tag)
    (hmask : ¬MasksFit apart ((s.field f).zreg za).mask ((s.field f).zreg zb).mask) :
    exec (.msuCommandPerformed f) s = .next (cmdFault s f 10 c codeCorrelated 0 0
      (maskDetail ((s.field f).zreg za).mask ((s.field f).zreg zb).mask)) := by
  obtain ⟨hreg, word, _, heffect⟩ := msuEffect_of_twoSource hrow
  exact exec_msu_of_fault hel (hi ▸ hreg) ((heffect _ c hi).trans (combine2_of_masks _ zd za zb apart word htag hmask))

end

/-- SMUX writes its select register: each bit of one operand or of the other. -/
theorem performs_smux {zd za zb : BitVec 5} {t0 : Target} (hi : c.i = .smux zd za zb t0)
    (ha : ((s.field f).zreg zd).tag = ((s.field f).zreg za).tag) (hb : ((s.field f).zreg zd).tag = ((s.field f).zreg zb).tag)
    (hm : ((s.field f).zreg zd).mask &&& (((s.field f).zreg za).mask ||| ((s.field f).zreg zb).mask) = 0) :
    ZWritten s f c zd ((s.field f).zreg zd).tag
      (((s.field f).zreg zd).mask ||| ((s.field f).zreg za).mask ||| ((s.field f).zreg zb).mask) fun i v =>
        ∀ k, k < lenOf ((s.field f).zreg zd).tag → v.testBit k =
          if (lane s f zd i).testBit k then (lane s f za i).testBit k else (lane s f zb i).testBit k := by
  have he : msuEffect (s.field f) c = combineMux (s.field f) zd za zb := by rw [msuEffect, hi]
  exact zWritten_of_zWrite hel (by rw [hi]; rfl) (he.trans (combineMux_of_fits ha hb hm)) fun i hlane k hk => by
    rw [zip3_getElem _ _ _ _ hlane]
    exact testBit_picked _ _ _ _ hk

theorem performs_snot {zd za : BitVec 5} {t0 : Target} (hi : c.i = .snot zd za t0)
    (hlanes : ((s.field f).zreg za).lanes.length = 16) :
    ZWritten s f c zd ((s.field f).zreg za).tag ((s.field f).zreg za).mask fun i v =>
      ∀ k, k < lenOf ((s.field f).zreg za).tag → v.testBit k = !(lane s f za i).testBit k := by
  have he : msuEffect (s.field f) c = copyZ (s.field f) zd za true := by rw [msuEffect, hi]
  exact zWritten_of_zWrite hel (by rw [hi]; rfl) he fun i hlane k hk => by
    rw [if_pos rfl, map_lanes_getElem _ hlanes hlane]
    exact testBit_flipped _ _ hk

theorem performs_smov {zd za : BitVec 5} {t0 : Target} (hi : c.i = .smov zd za t0) :
    ZWritten s f c zd ((s.field f).zreg za).tag ((s.field f).zreg za).mask fun i v => v = lane s f za i := by
  have he : msuEffect (s.field f) c = copyZ (s.field f) zd za false := by rw [msuEffect, hi]
  exact zWritten_of_zWrite hel (by rw [hi]; rfl) he fun i _ => rfl

/-- SREGEN writes, in each lane, a fresh stream of the lane's count. -/
theorem performs_sregen {zd zs : BitVec 5} {g : BitVec 4} {t0 : Target} (hi : c.i = .sregen zd zs g t0)
    (hlanes : ((s.field f).zreg zs).lanes.length = 16) :
    ZWritten s f c zd ((s.field f).zreg zs).tag (1#16 <<< g.toNat) fun i v => ∀ k, k < lenOf ((s.field f).zreg zs).tag →
      v.testBit k = decide (genPerm g.toNat ((s.field f).zreg zs).tag k <
        laneOnes ((s.field f).zreg zs).tag (lane s f zs i)) := by
  have he : msuEffect (s.field f) c = regenZ (s.field f) zd zs g := by rw [msuEffect, hi]
  rw [← oneHot_eq g.isLt]
  exact zWritten_of_zWrite hel (by rw [hi]; rfl) he fun i hlane k hk => by
    rw [map_lanes_getElem _ hlanes hlane]
    exact testBit_genLane _ _ _ hk

/-! ### SGEN (R140) -/

theorem performs_sgen {zd : BitVec 5} {t1 t0 : Target} (hi : c.i = .sgen zd t1 t0)
    (h : c.r.toNat / 16 % 4 = 0 ∨ ((s.field f).zreg zd).tag = (s.field f).zlen) :
    ZWritten s f c zd (s.field f).zlen
      (if c.r.toNat / 16 % 4 = 0 then 1#16 <<< (c.r.toNat % 16)
        else ((s.field f).zreg zd).mask ||| 1#16 <<< (c.r.toNat % 16)) fun i v =>
      if i / 4 = c.r.toNat / 16 % 4 then ∀ k, k < lenOf (s.field f).zlen → v.testBit k =
        decide (genPerm (c.r.toNat % 16) (s.field f).zlen k <
          c.l.toNat / 2 ^ (16 * (i % 4)) % 2 ^ 16 * lenOf (s.field f).zlen / 65536)
      else v = if c.r.toNat / 16 % 4 = 0 then 0 else lane s f zd i := by
  have hok : ¬(c.r.toNat / 16 % 4 ≠ 0 ∧ ((s.field f).zreg zd).tag ≠ (s.field f).zlen) := by
    rintro ⟨hq, ht⟩
    exact h.elim hq ht
  have he : msuEffect (s.field f) c =
      zWrite (s.field f) zd (generated (s.field f).zlen ((s.field f).zreg zd) c.l c.r) := by
    rw [msuEffect, hi]
    exact if_neg hok
  rw [← generated_mask (s.field f).zlen ((s.field f).zreg zd) c.l c.r]
  exact zWritten_of_zWrite hel (by rw [hi]; rfl) he fun i hlane => by
    rw [generated_lane _ _ _ _ hlane]
    split
    · exact fun k hk => testBit_genLane _ _ _ hk
    · rfl

/-- A later group on a register of another length. -/
theorem faults_sgen {zd : BitVec 5} {t1 t0 : Target} (hi : c.i = .sgen zd t1 t0) (hq : c.r.toNat / 16 % 4 ≠ 0)
    (htag : ((s.field f).zreg zd).tag ≠ (s.field f).zlen) : exec (.msuCommandPerformed f) s =
      .next (cmdFault s f 10 c codeStreamLen 0 0 (lenDetail ((s.field f).zreg zd).tag (s.field f).zlen)) := by
  refine exec_msu_of_fault hel (by rw [hi]; rfl) ?_
  rw [msuEffect, hi]
  exact if_pos ⟨hq, htag⟩

/-! ### The accesses of SST and SLD (R136, R141) -/

/-- SST issues the store of its register's image. -/
theorem performs_sst {z : BitVec 5} {t1 t0 : Target} (hi : c.i = .sst z t1 t0) (ha : c.l.toNat % 32 = 0)
    (hlanes : ((s.field f).zreg z).lanes.length = 16) (hbound : ∀ i, lane s f z i < 2 ^ lenOf ((s.field f).zreg z).tag) :
    ∃ t a, exec (.msuCommandPerformed f) s = .next t ∧ (∀ d ∈ cmdQueue t f 10, d.id ≠ c.id) ∧
      (t.field f).zregs = (s.field f).zregs ∧ (∀ b, t.byte b = s.byte b) ∧ MsuAccess s t c a ∧
      a.block.length = 2 * lenOf ((s.field f).zreg z).tag ∧
      (∀ i, i < 16 → leNat ((a.block.drop (i * (lenOf ((s.field f).zreg z).tag / 8))).take
        (lenOf ((s.field f).zreg z).tag / 8)) = lane s f z i) ∧
      a.p = BitVec.ofNat 64 (((s.field f).zreg z).tag.toNat * 2 ^ 16 + ((s.field f).zreg z).mask.toNat) := by
  refine ⟨_, _, exec_msu_of_sst hel ha hi, leaveSq_queue s f c, ?_, ((held_leaveSq s f c).trans (Held.setSlot _ _ _)).byte,
    msuAccess_msuPort rfl _ _ _, zImage_length hlanes, fun i hlane => zImage_lane hlanes hlane (hbound i), ?_⟩
  · rw [msuPort_eq, State.setSlot_field, leaveSq_field]
  · rw [issued, if_neg (zImage_ne_nil hlanes)]
    rfl

/-- SLD asks for as many bytes as the length names, and awaits its second place. -/
theorem performs_sld {z : BitVec 5} {t1 t0 : Target} (hi : c.i = .sld z t1 t0) (ha : c.l.toNat % 32 = 0) :
    ∃ t a, exec (.msuCommandPerformed f) s = .next t ∧ (∀ d ∈ cmdQueue t f 10, d.id ≠ c.id) ∧
      (t.field f).zregs = (s.field f).zregs ∧ (∀ b, t.byte b = s.byte b) ∧
      (t.field f).slds = (s.field f).slds ++ [{ c with zlen := (s.field f).zlen, started := true }] ∧
      MsuAccess s t c a ∧ a.block = [] ∧ a.p = BitVec.ofNat 64 (2 * lenOf (s.field f).zlen) := by
  have hheld : Held s (betweenPlaces s f c) := (held_leaveSq s f c).trans (Held.setField _ _ _)
  refine ⟨_, _, exec_msu_of_sld hel ha hi, ?_, ?_, (hheld.trans (Held.setSlot _ _ _)).byte, ?_,
    msuAccess_msuPort rfl _ _ _, rfl, rfl⟩
  · have hqueue : cmdQueue (betweenPlaces s f c) f 10 = cmdQueue (leaveSq s f c) f 10 := by
      rw [cmdQueue, betweenPlaces_field]
      rfl
    exact hqueue ▸ leaveSq_queue s f c
  · rw [msuPort_eq, State.setSlot_field, betweenPlaces_field, leaveSq_field]
  · rw [msuPort_eq, State.setSlot_field, betweenPlaces_field, leaveSq_field]

end

/-- SLD at its second place writes its register from the bytes read, and its access is gone. -/
theorem performs_sldSecond {s : State} {f k : Nat} {c : Cmd} {z : BitVec 5} {t1 t0 : Target} {a : Access} {ps : List Part}
    (hk : (s.field f).slds[k]? = some c) (hi : c.i = .sld z t1 t0)
    (hfind : (s.slot c.x).accs.find? (fun b => b.id == c.id) = some a) (hparts : a.parts = some ps)
    (hdone : ∀ p ∈ ps, p.done = true) :
    ∃ t, exec (.sldSecondPlace f k) s = .next t ∧ ((t.field f).zreg z).tag = c.zlen ∧
      ((t.field f).zreg z).mask = c.r.setWidth 16 ∧
      (∀ i, i < 16 → lane t f z i =
        leNat (((ps.flatMap Part.bytes).drop (i * (lenOf c.zlen / 8))).take (lenOf c.zlen / 8))) ∧
      (∀ y, y ≠ z → (t.field f).zreg y = (s.field f).zreg y) ∧ (∀ b, t.byte b = s.byte b) ∧
      ∀ b ∈ (t.slot c.x).accs, b.id ≠ c.id := by
  let v : ZReg := zFromImage c.zlen (c.r.setWidth 16) (ps.flatMap Part.bytes)
  let t : State := finishAccess (loaded s f k z v) c.x c.id [zToken c.zlen (c.r.setWidth 16)]
  have hregs : ∀ y, (t.field f).zreg y = if y = z then v else (s.field f).zreg y := fun y => by
    rw [zreg_congr ((finishAccess_zregs _ _ _ _ _).trans (loaded_zregs s f k z v)), FieldSt.zreg_setZ]
  have hz : (t.field f).zreg z = v := (hregs z).trans (if_pos rfl)
  refine ⟨t, exec_sldSecondPlace hk hi hfind hparts hdone, by rw [hz]; rfl, by rw [hz]; rfl, fun i hlane => ?_,
    fun y hy => (hregs y).trans (if_neg hy), ((Held.setField _ _ _).trans (Held.finishAccess _ _ _ _)).byte, fun b hb => ?_⟩
  · rw [lane, hz]
    exact zFromImage_lane _ _ _ hlane
  · have hleft : b ∈ ((loaded s f k z v).slot c.x).accs.filter fun a => a.id ≠ c.id := finishAccess_accs _ _ _ _ ▸ hb
    simpa using (List.mem_filter.mp hleft).2

end Sys2Proof.Machine

open Sys2Proof Sys2Proof.Machine Sys2Proof.Claims

/-- Settles O51: the oldest eligible command is performed whole: each command writes one register, bit by bit, or raises its
fault, or issues its access; and SLD's second place is one write. -/
theorem streamCommandsAct : Obligations.StreamCommandsAct := by
  unfold Obligations.StreamCommandsAct
  refine ⟨fun s f c hel _ => ?_, fun s f k c z t1 t0 a ps => performs_sldSecond⟩
  intro reg bit
  refine ⟨fun l t1 t0 => performs_slen hel, fun zd za zb t0 i apart op hrow hi => ?_,
    fun zd za zb t0 hi => performs_smux hel hi, fun zd za t0 => performs_snot hel, fun zd za t0 => performs_smov hel,
    fun zd t1 t0 hi => ?_, fun zd zs g t0 hi _ => performs_sregen hel hi, fun z t1 t0 hi => ?_, fun z t1 t0 hi => ?_⟩
  · exact ⟨performs_twoSource hel hrow hi, faults_twoSource_tags hel hrow hi, faults_twoSource_masks hel hrow hi⟩
  · exact fun _ => ⟨performs_sgen hel hi, faults_sgen hel hi⟩
  · exact ⟨performs_sst hel hi, exec_msu_of_misaligned hel (by rw [hi]; rfl)⟩
  · exact ⟨performs_sld hel hi, exec_msu_of_misaligned hel (by rw [hi]; rfl)⟩

end

section

namespace Sys2Proof.Machine

/-! ### What a request leaves where nothing is stored wrongly (R204, R209, R213, R214) -/

/-- No bit that is stored has flipped, DRAM holds nothing else beneath the second-level cache, and no word of a tile store is in
error. -/
structure Sound (s : State) : Prop where
  flips : s.flips = []
  under : s.under = []
  soft : s.soft = []

/-- The errors of what is stored are the same, and so are the values of the partition registers, by which an address names its
place (R198). -/
structure SamePlaces (s t : State) : Prop where
  flips : t.flips = s.flips
  under : t.under = s.under
  soft : t.soft = s.soft
  active : ∀ q, (t.quarter q).active = (s.quarter q).active

/-- What is stored is the same too, with its poison. -/
structure SameStores (s t : State) : Prop extends SamePlaces s t where
  mem : t.mem = s.mem
  poison : t.poison = s.poison

namespace SamePlaces

variable {s t u : State}

@[refl] theorem refl (s : State) : SamePlaces s s := ⟨rfl, rfl, rfl, fun _ => rfl⟩

@[trans] theorem trans (h : SamePlaces s t) (k : SamePlaces t u) : SamePlaces s u :=
  ⟨k.flips.trans h.flips, k.under.trans h.under, k.soft.trans h.soft, fun q => (k.active q).trans (h.active q)⟩

theorem ite {p : Prop} [Decidable p] (ht : SamePlaces s t) (hu : SamePlaces s u) : SamePlaces s (if p then t else u) := by
  split <;> assumption

theorem fold {α : Type} (f : State → α → State) (hf : ∀ s a, SamePlaces s (f s a)) (as : List α) (s : State) :
    SamePlaces s (foldState f s as) :=
  foldState_ind (SamePlaces s) f (fun t a h => h.trans (hf t a)) as s (refl s)

theorem sound (h : SamePlaces s t) (hs : Sound s) : Sound t :=
  ⟨h.flips.trans hs.flips, h.under.trans hs.under, h.soft.trans hs.soft⟩

theorem partOf (h : SamePlaces s t) (q : Nat) : partOf t q = partOf s q := by
  rw [Machine.partOf, h.active, Machine.partOf]

theorem leadOf (h : SamePlaces s t) (q : Nat) : leadOf t q = leadOf s q := by
  simp only [Machine.leadOf, partQuarters, samePart, h.partOf]

/-- An address names the same place. -/
theorem locOf (h : SamePlaces s t) (a : Nat) : locOf t a = locOf s a := by
  simp only [Machine.locOf, stackOf, h.leadOf, h.active]

end SamePlaces

namespace SameStores

variable {s t u : State}

@[refl] theorem refl (s : State) : SameStores s s := ⟨SamePlaces.refl s, rfl, rfl⟩

@[trans] theorem trans (h : SameStores s t) (k : SameStores t u) : SameStores s u :=
  ⟨h.toSamePlaces.trans k.toSamePlaces, k.mem.trans h.mem, k.poison.trans h.poison⟩

theorem ite {p : Prop} [Decidable p] (ht : SameStores s t) (hu : SameStores s u) : SameStores s (if p then t else u) := by
  split <;> assumption

theorem fold {α : Type} (f : State → α → State) (hf : ∀ s a, SameStores s (f s a)) (as : List α) (s : State) :
    SameStores s (foldState f s as) :=
  foldState_ind (SameStores s) f (fun t a h => h.trans (hf t a)) as s (refl s)

/-- A fold of what leaves a sound machine's stores as they are. -/
theorem fold_sound {α : Type} (f : State → α → State) (hf : ∀ s a, Sound s → SameStores s (f s a)) (as : List α) (s : State)
    (hs : Sound s) : SameStores s (foldState f s as) :=
  foldState_ind (SameStores s) f (fun t a h => h.trans (hf t a (h.sound hs))) as s (refl s)

theorem bytes (h : SameStores s t) (a n : Nat) : t.bytes a n = s.bytes a n := by rw [State.bytes, h.mem, State.bytes]

section
variable (s)

theorem setDie (n : Nat) (v : DieSt) : SameStores s (s.setDie n v) := ⟨⟨rfl, rfl, rfl, fun _ => rfl⟩, rfl, rfl⟩
theorem by_ (k : BitVec 32) : SameStores s (s.by k) := ⟨⟨rfl, rfl, rfl, fun _ => rfl⟩, rfl, rfl⟩
theorem late (b : Bool) : SameStores s { s with late := b } := ⟨⟨rfl, rfl, rfl, fun _ => rfl⟩, rfl, rfl⟩
theorem markAt (p : Point) (k : Nat) : SameStores s (markAt s p k) := by refine ⟨⟨?_, ?_, ?_, fun _ => ?_⟩, ?_, ?_⟩ <;> simp

theorem pmcCount (d e n : Nat) : SameStores s (pmcCount s d e n) := setDie _ _ _
theorem crossFlits (a b n : Nat) : SameStores s (crossFlits s a b n) := fold _ (fun _ _ => pmcCount _ _ _ _) _ _
theorem countFlits (h u d : Nat) : SameStores s (countFlits s h u d) := (crossFlits _ _ _ _).trans (crossFlits _ _ _ _)

theorem storeTouch (a n : Nat) (w : Bool) : SameStores s (storeTouch s a n w) :=
  (countFlits _ _ _ _).trans (fold _ (fun _ _ => markAt _ _ _) _ _)

end

section
variable (hs : Sound s)
include hs

/-- A read of a tile store without an error corrects nothing. -/
theorem storeRead (a n : Nat) : SameStores s (storeRead s a n .clean).1 := by
  have h := storeTouch s a n false
  have hsoft : softScrub (Machine.storeTouch s a n false) a n = Machine.storeTouch s a n false := if_pos (h.sound hs).soft
  rw [Machine.storeRead, hsoft]
  exact h

theorem fetchSector (a : Nat) : SameStores s (fetchSector s a) := by
  have hdec : ∀ g k, decodeGranule s g k = s := fun _ _ => if_pos hs.flips
  rw [Machine.fetchSector, hdec, settleFlag, if_pos hs.flips]

theorem uncover (k : Nat) : Machine.uncover s k = s := by
  rw [Machine.uncover, hs.under]
  rfl

theorem encodeGranule (g : Nat × Nat) (w k : Nat → Bool) : SameStores s (encodeGranule s g w k) := by
  rw [Machine.encodeGranule, if_pos (by rw [hs.flips]; rfl)]

/-- A line that leaves the second-level cache takes no byte with it. -/
theorem l2WriteBack (l : L2Line) : SameStores s (l2WriteBack s l) := by
  have herase : ∀ ks : List Nat, ks.foldl SMap.erase ([] : SMap (List Byte × Bool)) = [] := fun ks => by
    induction ks with
    | nil => rfl
    | cons k ks ih => exact ih
  unfold Machine.l2WriteBack
  extract_lets sec mine u keep v
  have hu : SameStores s u := fold_sound _ (fun t k ht => by rw [uncover ht]) _ s hs
  have hv : SameStores s v := hu.trans (fold_sound _ (fun t g ht => encodeGranule ht g _ _) _ u (hu.sound hs))
  have hsound := hv.sound hs
  refine ⟨⟨hv.flips, ?_, hv.soft, hv.active⟩, hv.mem, hv.poison⟩
  rw [hsound.under, herase, hs.under]

theorem l2Line (b : Nat) (v d : List Nat) (e c : Bool) : SameStores s (l2Line s b v d e c) := by
  unfold Machine.l2Line
  dsimp only
  split
  · exact setDie _ _ _
  · exact (fold_sound _ (fun _ l ht => l2WriteBack ht l) _ s hs).trans (setDie _ _ _)

omit hs in
theorem l2Count (s : State) (a : Nat) (h : Bool) : SameStores s (l2Count s a h) := by
  unfold Machine.l2Count
  dsimp only
  generalize windowOf _ _ = w
  cases w <;> cases h
  · exact pmcCount _ _ _ _
  · exact refl s
  · exact (setDie _ _ _).trans (pmcCount _ _ _ _)
  · exact setDie _ _ _

theorem l2Request (a : Nat) (ls : List (Nat × List Nat)) (w e : Bool) : SameStores s (l2Request s a ls w e) := by
  unfold Machine.l2Request
  refine ite (refl s) ?_
  have h : ∀ b k u d c, SameStores s
      (Machine.l2Count (Machine.countFlits (Machine.markAt { s with late := b } (.home k) s.src) k u d) a c) :=
    fun b _ _ _ _ => (((late s b).trans (markAt _ _ _)).trans (countFlits _ _ _ _)).trans (l2Count _ _ _)
  have hf : ∀ {t}, SameStores s t → ∀ as, SameStores s (foldState Machine.fetchSector t as) := fun ht as =>
    ht.trans (fold_sound _ (fun _ b hu => fetchSector hu b) as _ (ht.sound hs))
  exact (hf (h _ _ _ _ _) _).trans (fold_sound _ (fun _ l hu => l2Line hu _ _ _ _ _) _ _ ((hf (h _ _ _ _ _) _).sound hs))

theorem l2Read (a n : Nat) (w e : Bool) : SameStores s (l2Read s a n w e) :=
  fold_sound _ (fun t _ ht => ite (l2Request ht _ _ _ _) (refl t)) _ s hs

/-- Reaching bytes at their home changes none. -/
theorem homeTouch (a n : Nat) (w : Bool) : SameStores s (homeTouch s a n w).1 := by
  unfold Machine.homeTouch
  split
  · exact l2Read hs _ _ _ _
  · split
    · exact storeTouch _ _ _ _
    · exact storeRead hs _ _

end

end SameStores

end Sys2Proof.Machine

end

section

namespace Sys2Proof.Machine

/-! ### Addresses and the places they name (R198, R202, R203) -/

theorem isDram_iff {a : Nat} : isDram a = true ↔ a < dramEnd := decide_eq_true_iff

theorem dramEnd_eq : dramEnd = 786432 * pageSize := rfl

/-- DRAM ends with a page. -/
theorem isDram_of_page {p r : Nat} (hp : p * pageSize < dramEnd) (hr : r < pageSize) : isDram (p * pageSize + r) = true := by
  have hlast : (p + 1) * pageSize ≤ dramEnd := by
    rw [dramEnd_eq] at hp ⊢
    exact Nat.mul_le_mul_right _ (Nat.lt_of_mul_lt_mul_right hp)
  exact isDram_iff.mpr (lt_of_lt_of_le (Nat.add_lt_add_left hr _) (Nat.succ_mul p pageSize ▸ hlast))

theorem isDram_add {a j : Nat} (ha : isDram a = true) (h : a % pageSize + j < pageSize) : isDram (a + j) = true := by
  have hd := isDram_of_page (lt_of_le_of_lt (Nat.div_mul_le_self a pageSize) (isDram_iff.mp ha)) h
  rwa [← Nat.add_assoc, Nat.div_add_mod'] at hd

/-- A page is stored as a whole: the bytes of its addresses lie in one page of a stack, at the same offsets. -/
theorem exists_page_of_locOf (s : State) (p : Nat) : ∃ k, ∀ r, r < pageSize → locOf s (p * pageSize + r) = k * pageSize + r := by
  by_cases hp : p * pageSize < dramEnd
  · have hdram : ∀ r, r < pageSize → isDram (p * pageSize + r) = true := fun r => isDram_of_page hp
    have hblock : ∀ r, r < pageSize → (p * pageSize + r) / blockSize = p / 196608 := fun r hr => by
      simp only [blockSize, pageSize] at hr ⊢; omega
    generalize hilv : (s.quarter (leadOf s (p / 196608))).active.ilv.toNat = ilv
    generalize hq : (if ilv % 4 = 0 then p / 196608 else if ilv % 4 = 1 then p / 196608 / 2 * 2 else 0) = q
    have hle : q ≤ p / 196608 := by rw [← hq]; split <;> [skip; split] <;> omega
    have hpage : ∀ r, r < pageSize → (p * pageSize + r - q * blockSize) / pageSize = p - 196608 * q := fun r hr => by
      simp only [blockSize, pageSize] at hr ⊢; omega
    have hoff : ∀ r, r < pageSize → (p * pageSize + r - q * blockSize) % pageSize = r := fun r hr => by
      simp only [blockSize, pageSize] at hr ⊢; omega
    refine ⟨(locOf s (p * pageSize + 0)) / pageSize, fun r hr => ?_⟩
    have h0 : 0 < pageSize := by decide
    simp only [locOf, hdram r hr, hdram 0 h0, if_true, stackOf, hblock r hr, hblock 0 h0, hilv, hq, hpage r hr, hpage 0 h0, hoff r hr,
      hoff 0 h0]
    simp only [stackSize, pageSize]
    omega
  · refine ⟨p, fun r _ => if_neg ?_⟩
    simp only [isDram, decide_eq_true_eq]
    omega

/-- Within a page the bytes of an address range lie side by side at its place. -/
theorem locOf_add (s : State) {a j : Nat} (h : a % pageSize + j < pageSize) : locOf s (a + j) = locOf s a + j := by
  obtain ⟨k, hk⟩ := exists_page_of_locOf s (a / pageSize)
  have ha := hk (a % pageSize) (by omega)
  have hj := hk (a % pageSize + j) h
  rw [← Nat.add_assoc, Nat.div_add_mod'] at hj
  rw [Nat.div_add_mod'] at ha
  omega

/-- A place has the offset in its page that its address has. -/
theorem locOf_mod (s : State) (a : Nat) : locOf s a % pageSize = a % pageSize := by
  obtain ⟨k, hk⟩ := exists_page_of_locOf s (a / pageSize)
  have ha := hk (a % pageSize) (Nat.mod_lt _ (by decide))
  rw [Nat.div_add_mod'] at ha
  rw [ha, Nat.mul_add_mod_self_right, Nat.mod_mod]

/-- An address and the first byte of its sector. -/
theorem sectorBase_add (a : Nat) : sectorBase a + a % pageSize % 48 = a := by
  simp only [sectorBase, ppnOf, pageSize]
  omega

/-- The sector that holds a place is the place of the sector that holds its address. -/
theorem sectorOf_locOf (s : State) (a : Nat) : sectorOf (locOf s a) = locOf s (sectorBase a) := by
  have hpage : sectorBase a % pageSize + a % pageSize % 48 < pageSize := by simp only [sectorBase, ppnOf, pageSize]; omega
  have hplace : locOf s a = locOf s (sectorBase a) + a % pageSize % 48 := by rw [← locOf_add s hpage, sectorBase_add]
  have hmod := locOf_mod s a
  simp only [sectorOf, pageSize] at hmod hplace ⊢
  omega

/-- Every sector that a byte of a range within a page lies in is one of the range's. -/
theorem sectorBase_mem_sectorsOf {a n i : Nat} (hi : i < n) (hpage : a % pageSize + i < pageSize) :
    sectorBase (a + i) ∈ sectorsOf a n := by
  have hstep : sectorBase (a + i) = sectorBase a + 48 * ((a % pageSize % 48 + i) / 48) := by
    simp only [sectorBase, ppnOf, pageSize] at hpage ⊢
    omega
  have hsplit := sectorBase_add (a + i)
  unfold sectorsOf
  rw [if_neg (by omega)]
  refine List.mem_filter.mpr ⟨List.mem_map.mpr ⟨(a % pageSize % 48 + i) / 48, List.mem_range.mpr (by omega), hstep.symm⟩, ?_⟩
  rw [Bool.and_eq_true, decide_eq_true_eq, decide_eq_true_eq]
  have hoff : sectorBase (a + i) % pageSize = (a + i) % pageSize / 48 * 48 := by simp only [sectorBase, ppnOf, pageSize]; omega
  have hlt : (a + i) % pageSize < 2097152 := Nat.mod_lt _ (by decide)
  exact ⟨by omega, by omega⟩

end Sys2Proof.Machine

end

section

namespace Sys2Proof.Machine

/-! ### Poison (R213, R214) -/

/-- Where no copy of a flag has flipped, a sector is poisoned as it is marked. -/
theorem sectorPoisoned_of_noFlips {s : State} (h : s.flips = []) (p : Nat) : sectorPoisoned s p = s.poison.contains p := by
  have hoff : ∀ l : List Nat, (l.filter fun b => ([] : List Flip).contains (.flag b)).length = 0 := fun l => by simp
  have hlen : 0 < (flagCopies (SMap.get s.tags 0 (p / pageSize)) ((p - (granuleOf s p).1) / 48)).length := by
    unfold flagCopies
    split <;> [skip; split] <;> simp
  unfold sectorPoisoned
  dsimp only
  rw [h, show SMap.get ([] : SMap (List Flip)) [] (granuleOf s p).1 = [] from rfl, hoff]
  cases s.poison.contains p
  · exact decide_eq_false (by simp only [Bool.false_eq_true, if_false]; omega)
  · exact decide_eq_true (by simp only [if_true]; omega)

/-- A range is poisoned as its sectors are marked, wherever they are held. -/
theorem poisoned_of_noFlips {s : State} (h : s.flips = []) (a n : Nat) : s.poisoned a n =
    (isDram a && !s.poison.isEmpty && ((List.range (n / 48 + 2)).map fun i => sectorOf (locOf s a + 48 * i)).any fun p =>
      decide (p < locOf s a + n) && s.poison.contains p) := by
  have hsec : ∀ (c : Prop) [Decidable c] (p : Nat), (if c then s.poison.contains p else sectorPoisoned s p) = s.poison.contains p :=
    fun c _ p => by rw [sectorPoisoned_of_noFlips h, ite_self]
  simp only [State.poisoned, hsec, h, List.isEmpty_nil, Bool.and_true]

/-- What leaves the stores as they are leaves every range as poisoned as it was. -/
theorem SameStores.poisoned {s t : State} (h : SameStores s t) (hs : Sound s) (a n : Nat) : t.poisoned a n = s.poisoned a n := by
  rw [poisoned_of_noFlips hs.flips, poisoned_of_noFlips (h.sound hs).flips, h.poison, h.locOf]

/-- A byte whose sector is marked is poisoned. -/
theorem poisoned_of_mem {s : State} (h : s.flips = []) {a : Nat} (hd : isDram a = true) (hm : locOf s (sectorBase a) ∈ s.poison) :
    s.poisoned a 1 = true := by
  rw [← sectorOf_locOf] at hm
  have hsome : s.poison.isEmpty = false := by
    rw [List.isEmpty_eq_false_iff]
    exact List.ne_nil_of_mem hm
  rw [poisoned_of_noFlips h, hd, hsome, Bool.not_false, Bool.and_true, Bool.true_and, List.any_eq_true]
  refine ⟨sectorOf (locOf s a), List.mem_map.mpr ⟨0, by simp, rfl⟩, ?_⟩
  simp only [List.contains_iff_mem.mpr hm, Bool.and_true, decide_eq_true_eq]
  simp only [sectorOf, pageSize]
  omega

/-! ### A write at the home of a sound machine (R209, R214) -/

/-- What a write makes ready is marked in the second-level cache alone. -/
theorem SameStores.homeReady {s : State} (hs : Sound s) (a n : Nat) : SameStores s (homeReady s a n) := by
  have hprep : prepareWrite s a n = s := if_pos hs.flips
  have hsoft : softWrite s a n = s := if_pos hs.soft
  rw [Machine.homeReady, hprep, ite_self, hsoft]
  exact SameStores.ite (SameStores.setDie _ _ _) (SameStores.refl s)

namespace SamePlaces

variable (s : State)

theorem setBytes (a : Nat) (bs : List Byte) : SamePlaces s (s.setBytes a bs) := ⟨rfl, rfl, rfl, fun _ => rfl⟩
theorem setPoison (n : Nat) (p : Bool) : SamePlaces s (s.setPoison n p) := by cases p <;> exact ⟨rfl, rfl, rfl, fun _ => rfl⟩

theorem raiseCint (q b : Nat) : SamePlaces s (raiseCint s q b) := by
  refine ⟨rfl, rfl, rfl, fun r => ?_⟩
  by_cases hr : r = q
  · rw [hr, Machine.raiseCint, State.setQuarter_same]
  · rw [Machine.raiseCint, State.setQuarter_other _ _ hr]

theorem noteKick (a n : Nat) : SamePlaces s (noteKick s a n) :=
  fold _ (fun t _ => ite (raiseCint t _ _) (refl t)) _ _

theorem breakReservations (a n : Nat) : SamePlaces s (breakReservations s a n) := ⟨rfl, rfl, rfl, fun _ => rfl⟩

variable {s}

theorem homeWrite (hs : Sound s) (a : Nat) (bs : List Byte) (p : Bool) : SamePlaces s (homeWrite s a bs p) := by
  unfold Machine.homeWrite
  refine trans (trans ?_ (breakReservations _ _ _)) (noteKick _ _ _)
  have h := (SameStores.homeReady hs a bs.length).toSamePlaces.trans (setBytes _ (Machine.locOf (Machine.homeReady s a bs.length) a) bs)
  exact ite (h.trans (fold _ (fun t _ => ite (setPoison t _ _) (ite (setPoison t _ _) (refl t))) _ _)) h

end SamePlaces

section
variable {s : State} (hs : Sound s) (a : Nat) (bs : List Byte) (p : Bool)
include hs

/-- The bytes written read back. -/
theorem homeWrite_bytes : (homeWrite s a bs p).bytes (locOf s a) bs.length = bs := by
  rw [State.bytes, homeWrite_mem_clean s a bs p hs.flips hs.soft, Memory.read_write]

/-- Every other byte is as it was. -/
theorem homeWrite_byte_other {b : Nat} (hb : b < locOf s a ∨ locOf s a + bs.length ≤ b) : (homeWrite s a bs p).byte b = s.byte b := by
  rw [State.byte, homeWrite_mem_clean s a bs p hs.flips hs.soft, Memory.get_write, if_neg (by omega), State.byte]

end

/-- Marking sectors poisoned marks each of them. -/
theorem mem_poison_markAll : ∀ (bs : List Nat) (s : State) {x : Nat},
    x ∈ s.poison ∨ x ∈ bs.map (locOf s) → x ∈ (foldState (fun s b => s.setPoison (locOf s b) true) s bs).poison
  | [], _, _, h => by simpa [foldState] using h
  | b :: bs, s, x, h => by
    have hloc : locOf (s.setPoison (locOf s b) true) = locOf s := funext (SamePlaces.setPoison s _ _).locOf
    refine mem_poison_markAll bs _ ?_
    rw [hloc]
    simp only [State.setPoison, if_true, List.contains_iff_mem, List.map_cons, List.mem_cons] at h ⊢
    split <;> grind

/-- Poisoned data poisons every byte that it is written to. -/
theorem homeWrite_poisoned {s : State} (hs : Sound s) {a i : Nat} {bs : List Byte} (hi : i < bs.length)
    (hpage : a % pageSize + i < pageSize) (hd : isDram a = true) : (homeWrite s a bs true).poisoned (a + i) 1 = true := by
  have hplaces := SamePlaces.homeWrite hs a bs true
  refine poisoned_of_mem (hplaces.sound hs).flips (isDram_add hd hpage) ?_
  rw [hplaces.locOf]
  have hkick : ∀ (t : State) n, (noteKick t a n).poison = t.poison := fun t n =>
    foldState_ind (fun u => u.poison = t.poison) _ (fun u q hu => by dsimp only; split <;> exact hu) _ t rfl
  unfold homeWrite
  simp only [hd, if_true]
  rw [hkick]
  refine mem_poison_markAll _ _ (.inr (List.mem_map.mpr ⟨_, sectorBase_mem_sectorsOf hi hpage, ?_⟩))
  exact ((SameStores.homeReady hs a bs.length).toSamePlaces.trans (SamePlaces.setBytes _ _ _)).locOf _

end Sys2Proof.Machine

end

section

namespace Sys2Proof.Machine

open Claims

/-! ### Numbers of bytes, and the update of an atomic (R4, R236, R237) -/

theorem leNat_leBytes_mod : ∀ n v : Nat, leNat (leBytes n v) = v % 2 ^ (8 * n)
  | 0, v => by simp [leBytes, leNat, Nat.mod_one]
  | n + 1, v => by
    have hpow : 2 ^ (8 * (n + 1)) = 256 * 2 ^ (8 * n) := by rw [Nat.mul_succ, Nat.pow_add]; omega
    rw [leBytes, leNat, leNat_leBytes_mod n, hpow, Nat.mod_mul, BitVec.toNat_ofNat]

theorem leNat_lt : ∀ bs : List Byte, leNat bs < 2 ^ (8 * bs.length)
  | [] => by simp [leNat]
  | b :: bs => by
    have hpow : 2 ^ (8 * (b :: bs).length) = 256 * 2 ^ (8 * bs.length) := by
      rw [List.length_cons, Nat.mul_succ, Nat.pow_add]; omega
    have hb := b.isLt
    have ih := leNat_lt bs
    rw [leNat, hpow]
    omega

theorem wordAt_lt (s : State) (a n : Nat) : wordAt s a n < 2 ^ (8 * n) := by
  have h := leNat_lt (s.bytes a n)
  rwa [State.bytes, Memory.read_length] at h

/-- The lesser or greater of two readings, as a pattern, is the pattern of it. -/
theorem trunc_toInt {w : Nat} (x : BitVec w) : trunc w x.toInt = x.toNat := by
  rw [trunc_eq, BitVec.ofInt_toInt]

/-- A reduction of two w-bit patterns, modulo 2^w, is the one on bit vectors. -/
theorem redApply_eq {w : Nat} (hw : 0 < w) (op : RedOp) (old v c : BitVec w) :
    some (redApply op w old.toNat v.toNat % 2 ^ w) = (atomicValue w (.red op) old v c).map BitVec.toNat := by
  have hsigned : ∀ x : BitVec w, signedOf w x.toNat = x.toInt := fun x => by
    rw [signedOf_eq_toInt hw, BitVec.ofNat_toNat, BitVec.setWidth_eq]
  have hmod : ∀ x : BitVec w, x.toNat % 2 ^ w = x.toNat := fun x => Nat.mod_eq_of_lt x.isLt
  cases op <;> refine congrArg some ?_
  case add => exact (Nat.mod_mod _ _).trans (BitVec.toNat_add old v).symm
  case fadd => rfl
  case min =>
    simp only [redApply, hsigned, apply_ite (trunc w), trunc_toInt, BitVec.sle_eq_decide, decide_eq_true_eq]
    split <;> exact hmod _
  case max =>
    simp only [redApply, hsigned, apply_ite (trunc w), trunc_toInt, BitVec.sle_eq_decide, decide_eq_true_eq]
    split <;> exact hmod _
  case minU =>
    have hmin : redApply .minU w old.toNat v.toNat = if old.toNat ≤ v.toNat then old.toNat else v.toNat := Nat.min_def
    simp only [hmin, BitVec.ule_eq_decide, decide_eq_true_eq]
    split <;> exact hmod _
  case maxU =>
    have hmax : redApply .maxU w old.toNat v.toNat = if old.toNat ≤ v.toNat then v.toNat else old.toNat := Nat.max_def
    simp only [hmax, BitVec.ule_eq_decide, decide_eq_true_eq]
    split <;> exact hmod _
  case and => exact hmod (old &&& v)
  case or => exact hmod (old ||| v)

/-- An atomic update of w-bit patterns, modulo 2^w, is the one on bit vectors; CAS writes where both do. -/
theorem amoNew_eq {w : Nat} (hw : 0 < w) (o : AmoOp) (old v c : BitVec w) :
    (amoNew o w old.toNat v.toNat c.toNat).map (· % 2 ^ w) = (atomicValue w o old v c).map BitVec.toNat := by
  have hmod : ∀ x : BitVec w, x.toNat % 2 ^ w = x.toNat := fun x => Nat.mod_eq_of_lt x.isLt
  cases o
  case red op => exact redApply_eq hw op old v c
  case xor => exact congrArg some (hmod (old ^^^ v))
  case swap => exact congrArg some (hmod v)
  case cas =>
    have heq : old.toNat = c.toNat % 2 ^ w ↔ old = c := by rw [hmod, BitVec.toNat_inj]
    simp only [amoNew, atomicValue, heq]
    split
    · exact congrArg some (hmod v)
    · rfl

/-! ### Accesses of peers (R301) -/

/-- A range is cut where its page ends. -/
theorem cutAt_pageSize (a fuel off n : Nat) : cutAt pageSize a (fuel + 1) off n =
    if n = 0 then []
    else
      let k := min n (pageSize - (a + off) % pageSize)
      (off, k) :: cutAt pageSize a fuel (off + k) (n - k) := by
  have hpage : (a + off) % pageSize < pageSize := Nat.mod_lt _ (by decide)
  have hstop : min (a + off - (a + off) % pageSize + ((a + off) % pageSize / pageSize + 1) * pageSize)
      (a + off - (a + off) % pageSize + pageSize) - (a + off) = pageSize - (a + off) % pageSize := by
    have hle := Nat.mod_le (a + off) pageSize
    rw [Nat.div_eq_of_lt hpage, Nat.zero_add, Nat.one_mul, min_self]
    omega
  have hmin : ∀ x y, Nat.min x y = min x y := fun _ _ => rfl
  simp only [cutAt, hmin, hstop]
  split
  · rfl
  · rw [if_neg (by omega)]

/-- The pieces of a range cut at the ends of its pages lie in it, each in one page. -/
theorem mem_cutAt_pageSize (a : Nat) {c : Nat × Nat} : ∀ fuel off n, c ∈ cutAt pageSize a fuel off n →
    off ≤ c.1 ∧ 0 < c.2 ∧ c.1 + c.2 ≤ off + n ∧ (a + c.1) % pageSize + c.2 ≤ pageSize
  | 0, _, _, h => by cases h
  | fuel + 1, off, n, h => by
    have hpage : (a + off) % pageSize < pageSize := Nat.mod_lt _ (by decide)
    rw [cutAt_pageSize] at h
    split at h
    · cases h
    · rcases List.mem_cons.mp h with rfl | h
      · dsimp only
        omega
      · obtain ⟨hlo, hpos, hhi, hin⟩ := mem_cutAt_pageSize a fuel _ _ h
        exact ⟨by omega, hpos, by omega, hin⟩

/-- The pieces of a range of addresses: each lies in the range and in one page. -/
theorem mem_pagePieces {a n : Nat} {c : Nat × Nat} (h : c ∈ pagePieces a n) :
    a ≤ c.1 ∧ 0 < c.2 ∧ c.1 + c.2 ≤ a + n ∧ c.1 % pageSize + c.2 ≤ pageSize := by
  obtain ⟨b, hb, rfl⟩ := List.mem_map.mp h
  obtain ⟨-, hpos, hhi, hin⟩ := mem_cutAt_pageSize a _ _ _ hb
  exact ⟨Nat.le_add_right _ _, hpos, by dsimp only; omega, hin⟩

/-- A range within one page is its only piece. -/
theorem pagePieces_of_onePage {a n : Nat} (hn : 0 < n) (h : a / pageSize = (a + n - 1) / pageSize) : pagePieces a n = [(a, n)] := by
  have hall : min n (pageSize - (a + 0) % pageSize) = n := min_eq_left (by simp only [pageSize] at h ⊢; omega)
  have hrest : ∀ fuel off, cutAt pageSize a fuel off 0 = [] := fun fuel off => by cases fuel <;> rfl
  rw [pagePieces, cutAt_pageSize, if_neg (Nat.pos_iff_ne_zero.mp hn), hall]
  dsimp only
  rw [Nat.sub_self, hrest]
  rfl

/-- One piece of a peer's write: its home is reached, and takes its bytes. -/
def pieceWritten (a : Nat) (bs : List Byte) (psn : Bool) (s : State) (c : Nat × Nat) : State :=
  homeWrite (homeTouch s c.1 c.2 true).1 c.1 ((bs.drop (c.1 - a)).take c.2) psn

/-- A word with its update, or as it is where there is none. -/
def updated (s : State) (a n : Nat) : Option Nat → State
  | none => s
  | some w => homeWrite s a (leBytes n w) false

/-- An atomic of a peer stops at a word that cannot be read. -/
theorem inboundPerform_atomic_of_bad {s u : State} {a : Nat} {d : Bool} (h : homeTouch s a (wordBytes d) (isDram a) = (u, true))
    (o : InOp) (v c : DWord) : inboundPerform s (.atomic a o d v c) = u := by
  simp only [inboundPerform, h]

/-- A word that can be read takes the update of a peer's atomic. -/
theorem inboundPerform_atomic_of_read {s u : State} {a : Nat} {d : Bool} (h : homeTouch s a (wordBytes d) (isDram a) = (u, false))
    (o : InOp) (v c : DWord) : inboundPerform s (.atomic a o d v c) =
      updated u a (wordBytes d) (amoNew (InOp.amo o) (8 * wordBytes d) (leNat (u.home a (wordBytes d)))
        (v.toNat % 2 ^ (8 * wordBytes d)) (c.toNat % 2 ^ (8 * wordBytes d))) := by
  simp only [inboundPerform, h]
  split <;> rename_i he <;> rw [he] <;> rfl

theorem inboundPerform_write (s : State) (a n v : Nat) (psn : Bool) :
    inboundPerform s (.write a n v psn) = foldState (pieceWritten a (leBytes n v) psn) s (pagePieces a n) := rfl

theorem SameStores.wordAt {s t : State} (h : SameStores s t) (a n : Nat) : wordAt t a n = wordAt s a n := by
  rw [Claims.wordAt, h.bytes, Claims.wordAt]

/-- What is stored over stores that are the same is stored over either. -/
theorem SameStores.stored {s u t : State} (h : SameStores s u) {a n v : Nat} (k : Claims.Stored u t (Machine.locOf u a) n v) :
    Claims.Stored s t (Machine.locOf s a) n v := by
  obtain ⟨hword, hbytes⟩ := k
  rw [h.locOf] at hword hbytes
  exact ⟨hword, fun b hb => (hbytes b hb).trans (congrArg (Memory.get · b) h.mem)⟩

section
variable {s : State} (hs : Sound s)
include hs

theorem samePlaces_pieceWritten (a : Nat) (bs : List Byte) (psn : Bool) (c : Nat × Nat) : SamePlaces s (pieceWritten a bs psn s c) :=
  have h := SameStores.homeTouch hs c.1 c.2 true
  h.toSamePlaces.trans (SamePlaces.homeWrite (h.sound hs) _ _ _)

/-- A piece changes only the bytes that its addresses name. -/
theorem pieceWritten_byte_other {a n : Nat} (bs : List Byte) (psn : Bool) {c : Nat × Nat} (hc : c ∈ pagePieces a n) {b : Nat}
    (hb : ∀ i, i < n → b ≠ locOf s (a + i)) : (pieceWritten a bs psn s c).byte b = s.byte b := by
  obtain ⟨hlo, hpos, hhi, hpage⟩ := mem_pagePieces hc
  have h := SameStores.homeTouch hs c.1 c.2 true
  have hlen : ((bs.drop (c.1 - a)).take c.2).length ≤ c.2 := List.length_take_le _ _
  rw [pieceWritten, homeWrite_byte_other (h.sound hs), State.byte, h.mem, State.byte]
  rw [h.locOf]
  by_contra hin
  have hplace := locOf_add s (a := c.1) (j := b - locOf s c.1) (by omega)
  refine hb (c.1 + (b - locOf s c.1) - a) (by omega) ?_
  rw [show a + (c.1 + (b - locOf s c.1) - a) = c.1 + (b - locOf s c.1) by omega, hplace]
  omega

/-- A peer's write changes only the bytes that its addresses name. -/
theorem piecesWritten_byte_other {a n : Nat} (bs : List Byte) (psn : Bool) {b : Nat} : ∀ (cs : List (Nat × Nat)),
    (∀ c ∈ cs, c ∈ pagePieces a n) → (∀ i, i < n → b ≠ locOf s (a + i)) →
      (foldState (pieceWritten a bs psn) s cs).byte b = s.byte b := by
  intro cs
  induction cs generalizing s with
  | nil => exact fun _ _ => rfl
  | cons c cs ih =>
    intro hcs hb
    have hplaces := samePlaces_pieceWritten hs a bs psn c
    have hrest : ∀ i, i < n → b ≠ locOf (pieceWritten a bs psn s c) (a + i) := fun i hi => by
      rw [hplaces.locOf]
      exact hb i hi
    rw [foldState, ih (hplaces.sound hs) (fun d hd => hcs d (List.mem_cons_of_mem _ hd)) hrest,
      pieceWritten_byte_other hs bs psn (hcs c List.mem_cons_self) hb]

/-- The bytes of a value written at a home are stored there. -/
theorem stored_homeWrite (a n v : Nat) (psn : Bool) : Claims.Stored s (homeWrite s a (leBytes n v) psn) (locOf s a) n v := by
  have hlen := leBytes_length n v
  refine ⟨?_, fun b hb => homeWrite_byte_other hs a _ psn (by rw [hlen]; exact hb)⟩
  have h := homeWrite_bytes hs a (leBytes n v) psn
  rw [hlen] at h
  rw [wordAt, h, leNat_leBytes_mod]

/-- A peer's write within one page is stored at its place, and poisons it where its data is poisoned. -/
theorem stored_write_onePage {a n : Nat} (v : Nat) (psn : Bool) (hn : 0 < n) (h : a / pageSize = (a + n - 1) / pageSize) :
    Claims.Stored s (inboundPerform s (.write a n v psn)) (locOf s a) n v ∧
      (psn = true → isDram a = true → ∀ i, i < n → (inboundPerform s (.write a n v psn)).poisoned (a + i) 1 = true) := by
  have ht := SameStores.homeTouch hs a n true
  have hall : ((leBytes n v).drop (a - a)).take n = leBytes n v := by
    rw [Nat.sub_self, List.drop_zero, List.take_of_length_le (leBytes_length n v).le]
  have hperform : inboundPerform s (.write a n v psn) = homeWrite (homeTouch s a n true).1 a (leBytes n v) psn := by
    simp only [inboundPerform_write, pagePieces_of_onePage hn h, foldState, pieceWritten, hall]
  rw [hperform]
  refine ⟨?_, fun hp hd i hi => ?_⟩
  · exact ht.stored (stored_homeWrite (ht.sound hs) a n v psn)
  · rw [hp]
    refine homeWrite_poisoned (ht.sound hs) (by rw [leBytes_length]; exact hi) ?_ hd
    simp only [pageSize] at h ⊢
    omega

/-- A peer's atomic finds its word poisoned or not, and reads it as it is stored. -/
theorem homeTouch_atomic (a n : Nat) : (homeTouch s a n (isDram a)).2 = s.poisoned a n := by
  by_cases hd : isDram a = true
  · have h := SameStores.l2Read hs a n true false
    rw [hd, homeTouch, if_pos hd]
    exact h.poisoned hs a n
  · have hclean : s.poisoned a n = false := by rw [State.poisoned, Bool.eq_false_iff.mpr hd, Bool.false_and, Bool.false_and]
    rw [Bool.eq_false_iff.mpr hd, homeTouch, if_neg hd, hclean]
    have hsoft := (SameStores.storeRead hs a n).sound hs
    change (softBad (storeRead s a n .clean).1 a n || false) = false
    rw [softBad, softWords, hsoft.soft]
    simp

/-- An atomic of a peer on a poisoned word writes nothing. -/
theorem atomic_mem_of_poisoned {a : Nat} (o : InOp) (d : Bool) (v c : DWord) (hp : s.poisoned a (wordBytes d) = true) :
    (inboundPerform s (.atomic a o d v c)).mem = s.mem := by
  have ht := SameStores.homeTouch hs a (wordBytes d) (isDram a)
  rw [inboundPerform_atomic_of_bad (Prod.ext rfl ((homeTouch_atomic hs a (wordBytes d)).trans hp))]
  exact ht.mem

/-- A word that an update leaves unwritten, or writes, holds the update's value, modulo its width. -/
theorem stored_updated {a n : Nat} {x : BitVec (8 * n)} {w : Option Nat} {y : Option (BitVec (8 * n))}
    (hx : x.toNat = wordAt s (locOf s a) n) (hw : w.map (· % 2 ^ (8 * n)) = y.map BitVec.toNat) :
    Claims.Stored s (updated s a n w) (locOf s a) n (y.getD x).toNat := by
  rcases w with _ | w <;> rcases y with _ | y <;> simp only [Option.map_none, Option.map_some, reduceCtorEq, Option.some.injEq] at hw
  · exact ⟨by rw [Option.getD_none, hx, Nat.mod_eq_of_lt (wordAt_lt s _ n)]; rfl, fun _ _ => rfl⟩
  · obtain ⟨hword, hbytes⟩ := stored_homeWrite hs a n w false
    exact ⟨by rw [Option.getD_some, ← hw, Nat.mod_mod]; exact hword, hbytes⟩

/-- An atomic of a peer on a clean word stores the word's update, or leaves it where there is none. -/
theorem stored_atomic {a : Nat} (o : InOp) (d : Bool) (v c : DWord) (hp : s.poisoned a (wordBytes d) = false) :
    Claims.Stored s (inboundPerform s (.atomic a o d v c)) (locOf s a) (wordBytes d)
      ((atomicValue (8 * wordBytes d) (InOp.amo o) (BitVec.ofNat _ (wordAt s (locOf s a) (wordBytes d))) (BitVec.ofNat _ v.toNat)
        (BitVec.ofNat _ c.toNat)).getD (BitVec.ofNat _ (wordAt s (locOf s a) (wordBytes d)))).toNat := by
  obtain ⟨u, hu⟩ : ∃ u, homeTouch s a (wordBytes d) (isDram a) = (u, false) :=
    ⟨_, Prod.ext rfl ((homeTouch_atomic hs a (wordBytes d)).trans hp)⟩
  have ht := SameStores.homeTouch hs a (wordBytes d) (isDram a)
  have hpos : 0 < 8 * wordBytes d := by cases d <;> decide
  rw [hu] at ht
  rw [inboundPerform_atomic_of_read hu]
  generalize wordBytes d = n at *
  have hhome : leNat (u.home a n) = wordAt s (locOf s a) n := by rw [State.home, ht.locOf, ht.bytes, wordAt]
  rw [hhome]
  have hword : wordAt u (locOf u a) n = wordAt s (locOf s a) n := hhome
  have hold : (BitVec.ofNat (8 * n) (wordAt s (locOf s a) n)).toNat = wordAt s (locOf s a) n := by
    rw [BitVec.toNat_ofNat, Nat.mod_eq_of_lt (wordAt_lt s _ n)]
  have hnew := amoNew_eq hpos (InOp.amo o) (BitVec.ofNat _ (wordAt s (locOf s a) n)) (BitVec.ofNat _ v.toNat) (BitVec.ofNat _ c.toNat)
  rw [hold, BitVec.toNat_ofNat, BitVec.toNat_ofNat] at hnew
  exact ht.stored (stored_updated (ht.sound hs) (hold.trans hword.symm) hnew)

end

end Sys2Proof.Machine

end

section

namespace Sys2Proof.Machine

open Claims

/-! ### An access of a peer at a port (R301, R383) -/

/-- An access of a peer at an open port, to pages that are not being converted, is performed at its home (R301). -/
theorem exec_inboundRemoteAccess {s : State} {d k : Nat} {a : Inbound} (hd : d < 8) (hk : k < 2) (hen : (port s d k).en = true)
    (hup : (port s d k).up = true) (hok : inboundOk s d a = true)
    (hfree : ∀ i, i < (Inbound.span a).2 → pageBusy s ((Inbound.span a).1 + i) = false) :
    exec (.inboundRemoteAccess d k a) s = .next (inboundPerform (s.by (portSource (2 * d + k))) a) := by
  have hopen : d < 8 ∧ k < 2 ∧ (uePort s d k).en = true ∧ (uePort s d k).up = true := ⟨hd, hk, hen, hup⟩
  have hidle : ((pagePieces (Inbound.span a).1 (Inbound.span a).2).any fun c => pageBusy s c.1) = false := by
    refine List.any_eq_false.mpr fun c hc => ?_
    obtain ⟨hlo, hpos, hhi, -⟩ := mem_pagePieces hc
    have h := hfree (c.1 - (Inbound.span a).1) (by omega)
    rw [Nat.add_sub_cancel' hlo] at h
    rw [h]
    exact Bool.false_ne_true
  change execInboundRemoteAccess d k a s = _
  simp only [execInboundRemoteAccess, if_pos hopen, hok, hidle, Bool.not_true, Bool.or_false, Bool.false_eq_true, if_false]

/-- A peer's read leaves what is stored as it is. -/
theorem inboundPerform_read {s : State} (hs : Sound s) (a n : Nat) : SameStores s (inboundPerform s (.read a n)) :=
  SameStores.fold_sound _ (fun _ _ ht => SameStores.homeTouch ht _ _ _) _ s hs

/-- An access of a peer that is performed names a byte. -/
theorem span_pos_of_inboundOk {s : State} {d : Nat} {a : Inbound} (h : inboundOk s d a = true) : 0 < (Inbound.span a).2 := by
  unfold inboundOk at h
  simp only [Bool.and_eq_true, decide_eq_true_eq] at h
  exact h.1.1

/-- Poisoned data of a peer is written to DRAM alone (R230). -/
theorem isDram_of_inboundOk {s : State} {d a n v : Nat} (h : inboundOk s d (.write a n v true) = true)
    (hpage : a / pageSize = (a + n - 1) / pageSize) : isDram a = true := by
  have hpieces := pagePieces_of_onePage (span_pos_of_inboundOk h) hpage
  unfold inboundOk at h
  simp only [Bool.and_eq_true, Bool.not_true, Bool.false_or] at h
  have hall := List.all_eq_true.mp h.2 (a, n)
  exact hall (hpieces ▸ List.mem_singleton_self _)

/-! ### Reports of peers (R230, R300) -/

/-- The token of a load with a value of n bytes (R227). -/
theorem signExt_eq_extended (sg : Bool) {n : Nat} (hn : 0 < n) (v : Nat) :
    dataOf (if sg then signExt (8 * n) 64 v else v) = extended sg n v := by
  cases sg
  · rfl
  · rw [if_pos rfl, signExt, signedOf_eq_toInt (by omega), trunc_eq, ofInt_toInt_signExtend, dataOf, BitVec.ofNat_toNat,
      BitVec.setWidth_eq]
    rfl

/-- Bits of a number below 2^n that are set: none is where it is 0. -/
theorem filter_bitOf_eq_nil {n v : Nat} (hv : v < 2 ^ n) : (List.range n).filter (bitOf v) = [] ↔ v = 0 := by
  have hbit : ∀ i, bitOf v i = v.testBit i := fun i => (Nat.testBit_eq_decide_div_mod_eq).symm
  simp only [List.filter_eq_nil_iff, List.mem_range, hbit, Bool.not_eq_true]
  refine ⟨fun h => Nat.eq_of_testBit_eq fun i => ?_, fun h i _ => by rw [h, Nat.zero_testBit]⟩
  rw [Nat.zero_testBit]
  by_cases hi : i < n
  · exact h i hi
  · exact Nat.testBit_lt_two_pow (lt_of_lt_of_le hv (Nat.pow_le_pow_right (by decide) (Nat.le_of_not_lt hi)))

/-- Tokens that leave a slot take no remote access with them. -/
theorem emitAll_remotes (s : State) (x : Nat) (tok : Token) (cyc ccyc du : Nat) (r : Bool) (gs : List Target) :
    (emitAll s x tok cyc ccyc du r gs).remotes = s.remotes :=
  foldState_ind (fun t => t.remotes = s.remotes) _ (fun t g h => Eq.trans
    ((Fires.emitTo (gs := [g]) List.mem_cons_self tok cyc ccyc du r).frame (emitTo_nextId t x tok cyc ccyc du r g)).remotes h) gs s rfl

theorem noteProgress_remotes (s : State) (t : Nat) : (noteProgress s t).remotes = s.remotes := by
  unfold noteProgress
  dsimp only
  split <;> rfl

theorem addStray_remotes (s : State) (t k : Nat) : (addStray s t k).remotes = s.remotes := by
  unfold addStray
  split <;> rfl

theorem emitOut_remotes (s : State) (x : Nat) : (emitOut s x).remotes = s.remotes := by
  unfold emitOut
  dsimp only
  split
  · rfl
  · split
    · rfl
    · split
      · exact addStray_remotes _ _ _
      · split
        · rfl
        · split
          · rfl
          · split
            · exact emitAll_remotes _ _ _ _ _ _ _ _
            · rfl

theorem finishAccess_remotes (s : State) (x id : Nat) (toks : List Token) : (finishAccess s x id toks).remotes = s.remotes :=
  (emitOut_remotes _ _).trans (noteProgress_remotes _ _)

/-- An access is performed once it is finished, where nothing else about its slot has changed. -/
theorem performed_finishAccess {s u : State} {x : Nat} (hsame : SameOutlet s u x) (hslot : u.slot x = s.slot x) (id : Nat)
    (toks : List Token) : Performed s (finishAccess u x id toks) x id toks := by
  refine ⟨fun a ha => ?_, ?_⟩
  · rw [finishAccess_accs] at ha
    simpa using (List.mem_filter.mp ha).2
  · refine SameOutlet.answered ((hsame.trans (SameOutlet.setSlot u x ?_)).trans (SameOutlet.noteProgress _ x (tileOf x))) ?_ id toks
    · rfl
    · rw [noteProgress_slot, State.setSlot_same, hslot]

theorem sameOutlet_dropRemote (s : State) (k x : Nat) : SameOutlet s (dropRemote s k) x :=
  ⟨⟨fun _ => rfl, fun _ => rfl, fun _ => rfl, fun _ => rfl, rfl⟩, fun _ => rfl, rfl, rfl⟩

section
variable {s : State} {r : RemoteAcc} {a : Access} {p : Part} (hacc : (s.slot r.x).accs.find? (fun b => b.id == r.acc) = some a)
  (hparts : a.parts = some [p]) (hpart : r.part = 0)
include hacc hparts hpart

/-- A remote access that fails withholds on REMOTE-FAIL with the error. -/
theorem remoteFail_eq (hwh : (s.slot r.x).wh = none) (err : Nat) :
    remoteFail s r err = accessFault (dropRemote s r.id) r.x a 0x16 9 p.va (BitVec.ofNat 64 err) := by
  have hva : ((a.parts.bind fun ps => ps[r.part]?).map Part.va).getD a.va.toNat = p.va := by rw [hparts, hpart]; rfl
  simp only [remoteFail, hacc, hwh, hva, Option.isSome_none, Bool.false_eq_true, if_false]
  rfl

omit hacc in
/-- The report on a remote load finishes it with the token of the value brought, poisoned where a byte of it is. -/
theorem remoteDone_load {n : Nat} {sg ev : Bool} (hop : memOp a.i = some (.ld n sg ev)) (hlen : p.len = n) (hn : 0 < n) (v : Nat)
    {bad : List Nat} (hbad : p.et = false ∨ bad = []) : remoteDone s r (.ld n sg ev) a p v bad =
      finishAccess (dropRemote s r.id) r.x a.id
        [{ kind := .data, data := extended sg n (v % 2 ^ (8 * n)), psn := decide (bad ≠ []) }] := by
  have hdone : ∀ bad' : List Nat, partDone (dropRemote s r.id) r.x a r.part (leBytes p.len v) bad' =
      finishAccess (dropRemote s r.id) r.x a.id
        [{ kind := .data, data := extended sg n (v % 2 ^ (8 * n)), psn := decide (bad' ≠ []) }] := fun bad' => by
    simp only [partDone, hparts, hop, hpart, List.getElem?_cons_zero, setAt, List.all_cons, List.all_nil, accessTokens,
      List.flatMap_cons, List.flatMap_nil, List.append_nil, List.any_cons, List.any_nil, Bool.or_false, leNat_leBytes_mod, hlen,
      signExt_eq_extended sg hn, dataTok, ne_eq, reduceCtorEq, not_false_eq_true, decide_true, Bool.and_true, if_true]
  unfold remoteDone
  dsimp only
  by_cases hb : bad = []
  · rw [if_pos (by simp [hb]), hdone, hb]
  · have het : p.et = false := hbad.resolve_right hb
    rw [if_neg (by simp [hb, MemOp.isLoad]), if_neg (by simp [het]), if_pos rfl, hdone]
    simp only [ne_eq, List.map_eq_nil_iff]

end

section
variable {s : State} {r : RemoteAcc} (hfind : s.remotes.find? (fun b => b.id == r.id) = some r) (hsent : r.carried = true)
  (hport : portUp s r.req.port = true)
include hfind hsent hport

/-- A report of an error fails the access (R300). -/
theorem exec_remoteResponse_error {err : Nat} (herr : err ≠ 0) (w : Report) :
    exec (.remoteResponse r.id err w) s = .next (remoteFail s r err) := by
  change execRemoteResponse r.id err w s = _
  simp only [execRemoteResponse, hfind, hsent, hport, Bool.not_true, Bool.or_false, Bool.false_eq_true, if_false, if_pos herr]

/-- A report without an error goes to the part of the access that it answers (R300). -/
theorem exec_remoteResponse {a : Access} {p : Part} {o : MemOp} (hacc : (s.slot r.x).accs.find? (fun b => b.id == r.acc) = some a)
    (hop : memOp a.i = some o) (hparts : a.parts = some [p]) (hpart : r.part = 0) (w : Report) :
    exec (.remoteResponse r.id 0 w) s = .next (remoteDone s r o a p w.value ((List.range p.len).filter (bitOf w.bad))) := by
  change execRemoteResponse r.id 0 w s = _
  simp only [execRemoteResponse, hfind, hsent, hport, Bool.not_true, Bool.or_false, Bool.false_eq_true, if_false, ne_eq,
    not_true_eq_false, hacc, hop, hparts, hpart, Option.bind_some, List.getElem?_cons_zero]

end

/-- The one remote access whose time is up fails without an error of the transport. -/
theorem exec_remoteTimeout {s : State} {r : RemoteAcc} (hmem : r ∈ s.remotes) (hdue : r.deadline ≤ s.now)
    (hwh : (s.slot r.x).wh = none) (hothers : ∀ b ∈ s.remotes, b ≠ r → s.now < b.deadline) :
    exec .remoteTimeout s = .next (remoteFail s r 0) := by
  have hfind : s.remotes.find? (fun b => decide (b.deadline ≤ s.now) && (s.slot b.x).wh.isNone) = some r := by
    rcases h : s.remotes.find? (fun b => decide (b.deadline ≤ s.now) && (s.slot b.x).wh.isNone) with _ | b
    · have hnot := List.find?_eq_none.mp h r hmem
      simp [hdue, hwh] at hnot
    · have hb := List.find?_some h
      rw [Bool.and_eq_true, decide_eq_true_eq] at hb
      by_cases hbr : b = r
      · exact h.trans (congrArg some hbr)
      · exact absurd (hothers b (List.mem_of_find?_eq_some h) hbr) (Nat.not_lt.mpr hb.1)
  change execRemoteTimeout s = _
  rw [execRemoteTimeout, hfind]

/-! ### The walk of a slot's oldest access (R170, R178, R226) -/

/-- Translating an access changes no slot and no link. -/
theorem Stands.translateAccess (s : State) (x : Nat) (o : MemOp) (a : Access) : Stands s (translateAccess s x o a).1 := by
  have hruns : ∀ c, Stands s (accessRuns s x o a c).1 := fun c => Stands.translateRuns _ _ _ _ _ _ _
  have h := hruns false
  unfold Machine.translateAccess
  dsimp only
  split <;> rename_i he <;> rw [he] at h
  · exact h
  · exact h
  · split
    · exact h
    · split
      · exact h
      · split
        · exact h
        · exact hruns true

/-- What a walk brings access a of slot x: its parts, a fault on which the slot withholds, or nothing yet. -/
def walked (x : Nat) (o : MemOp) (a : Access) : State × AccXl → State
  | (s, .wait) => s
  | (s, .fault c acc va) =>
    match o with
    | .pref _ _ => finishAccess s x a.id []
    | _ => if (s.slot x).wh.isSome then s else accessFault s x a c acc va 0
  | (s, .ok ps) => setAccess s x { a with parts := some ps }

/-- A slot that withholds on no access walks for its oldest one not yet translated. -/
theorem walkSlot_eq {s : State} {x : Nat} {a : Access} {o : MemOp} (hheld : ∀ b ∈ (s.slot x).accs, b.held = false)
    (hfind : (s.slot x).accs.find? (fun b => b.parts.isNone) = some a) (hop : memOp a.i = some o) (hret : o ≠ .retain)
    (hunpin : o ≠ .unpin) : walkSlot s x = walked x o a (translateAccess (s.by (slotSource x)) x o a) := by
  have hnone : ¬(s.slot x).accs.any (·.held) = true := by
    rw [Bool.not_eq_true]
    exact List.any_eq_false.mpr fun b hb => by simp [hheld b hb]
  unfold walkSlot
  dsimp only
  rw [State.by_slot, if_neg hnone, hfind]
  dsimp only
  rw [hop]
  dsimp only
  split
  · exact absurd rfl hret
  · exact absurd rfl hunpin
  · rfl

theorem walked_fault {x : Nat} {o : MemOp} (hpref : ∀ l ev, o ≠ .pref l ev) (a : Access) {u : State} (hwh : (u.slot x).wh = none)
    (c acc va : Nat) : walked x o a (u, .fault c acc va) = accessFault u x a c acc va 0 := by
  rw [walked, hwh]
  · rfl
  · exact hpref

/-- The walk of a slot's oldest access does what it brings, over a state that the translation has left the slots of (R170, R226). -/
theorem exec_translationWalk {s : State} {x : Nat} {a : Access} {o : MemOp} (hheld : ∀ b ∈ (s.slot x).accs, b.held = false)
    (hfind : (s.slot x).accs.find? (fun b => b.parts.isNone) = some a) (hop : memOp a.i = some o) (hret : o ≠ .retain)
    (hunpin : o ≠ .unpin) {u : State} {w : AccXl} (h : translateAccess (s.by (slotSource x)) x o a = (u, w)) :
    exec (.translationWalk x) s = .next (walked x o a (u, w)) ∧ Stands s u := by
  have hstands := (Stands.by_ s (slotSource x)).trans (Stands.translateAccess (s.by (slotSource x)) x o a)
  rw [h] at hstands
  refine ⟨?_, hstands⟩
  change execTranslationWalk x s = _
  rw [execTranslationWalk, walkSlot_eq hheld hfind hop hret hunpin, h]

/-- The access that takes its parts stands in its slot with them. -/
theorem mem_accs_walked {s u : State} {x : Nat} {a : Access} (hstands : Stands s u) (hmem : a ∈ (s.slot x).accs) (o : MemOp)
    (ps : List Part) : { a with parts := some ps } ∈ ((walked x o a (u, .ok ps)).slot x).accs := by
  have hslot : u.slot x = s.slot x := congrArg (SMap.get · SlotSt.reset x) hstands.slots
  rw [walked, setAccess, State.setSlot_same, hslot]
  exact List.mem_map.mpr ⟨a, hmem, if_pos rfl⟩

/-- The report on a remote load performs it, and changes no byte. -/
theorem performed_remoteResponse {s : State} {r : RemoteAcc} {a : Access} {p : Part} {n : Nat} {sg ev : Bool}
    (hfind : s.remotes.find? (fun b => b.id == r.id) = some r) (hacc : (s.slot r.x).accs.find? (fun b => b.id == r.acc) = some a)
    (hop : memOp a.i = some (.ld n sg ev)) (hparts : a.parts = some [p]) (hpart : r.part = 0) (hlen : p.len = n) (hn : 0 < n)
    (hsent : r.carried = true) (hport : portUp s r.req.port = true) (v : Nat) {bad : Nat} (het : p.et = false ∨ bad = 0)
    (hbad : bad < 2 ^ n) :
    ∃ t, exec (.remoteResponse r.id 0 ⟨v, bad⟩) s = .next t ∧ (∀ b ∈ t.remotes, b.id ≠ r.id) ∧ (∀ b, t.byte b = s.byte b) ∧
      Performed s t r.x a.id [{ kind := .data, data := extended sg n (v % 2 ^ (8 * n)), psn := decide (bad ≠ 0) }] := by
  have hnil : (List.range p.len).filter (bitOf bad) = [] ↔ bad = 0 := filter_bitOf_eq_nil (hlen ▸ hbad)
  have hdone := remoteDone_load (s := s) hparts hpart hop hlen hn v (het.imp_right hnil.mpr)
  simp only [ne_eq, hnil] at hdone
  refine ⟨_, (exec_remoteResponse hfind hsent hport hacc hop hparts hpart _).trans (congrArg Host.Outcome.next hdone), fun b hb => ?_,
    (Held.finishAccess _ _ _ _).byte, performed_finishAccess (sameOutlet_dropRemote s r.id r.x) rfl a.id _⟩
  rw [finishAccess_remotes] at hb
  simpa using (List.mem_filter.mp hb).2

end Sys2Proof.Machine

open Sys2Proof Sys2Proof.Machine Sys2Proof.Claims

/-- Settles O49: a walk changes no slot before it brings the access its parts or the slot its fault; a report finishes the one
access that it answers; and where nothing is stored wrongly, reaching a home for a peer changes no byte, so that only what the
peer writes differs. -/
theorem walksAndPeersAct : Obligations.WalksAndPeersAct := by
  unfold Obligations.WalksAndPeersAct
  refine ⟨fun s u x a o hwh hheld hfind hop hret hunpin => ⟨fun ps h => ?_, fun c acc va h hpref => ?_⟩,
    fun s r a p n sg ev v hfind hacc hop hparts hpart hlen hn =>
      ⟨fun hsent hport bad het hbad => performed_remoteResponse hfind hacc hop hparts hpart hlen hn hsent hport v het hbad,
        fun hsent hport err w herr hwh => ?_, fun hdue hwh hothers => ?_⟩,
    fun s d k a hd hk hen hup hok hfree hwritten hsoft => ?_⟩
  · obtain ⟨hexec, hstands⟩ := exec_translationWalk hheld hfind hop hret hunpin h
    exact ⟨_, _, hexec, mem_accs_walked hstands (List.mem_of_find?_eq_some hfind) o ps, rfl, hstands.links⟩
  · obtain ⟨hexec, hstands⟩ := exec_translationWalk hheld hfind hop hret hunpin h
    rw [hexec, walked_fault hpref a ((congrArg (fun m => (SMap.get m SlotSt.reset x).wh) hstands.slots).trans hwh)]
  · rw [exec_remoteResponse_error hfind hsent hport herr, remoteFail_eq hacc hparts hpart hwh]
    rfl
  · rw [exec_remoteTimeout (List.mem_of_find?_eq_some hfind) hdue hwh hothers, remoteFail_eq hacc hparts hpart hwh]
    rfl
  · have hsame := SameStores.by_ s (portSource (2 * d + k))
    have hsound := hsame.sound ⟨hwritten.1, hwritten.2, hsoft⟩
    refine ⟨_, exec_inboundRemoteAccess hd hk hen hup hok hfree, ?_⟩
    generalize s.by (portSource (2 * d + k)) = u at hsame hsound
    cases a with
    | read pa n => exact (hsame.trans (inboundPerform_read hsound pa n)).mem
    | write pa n v psn =>
      refine ⟨fun b hb => ?_, fun hpage => ?_⟩
      · have hother : ∀ i, i < n → b ≠ locOf u (pa + i) := fun i hi => by rw [hsame.locOf]; exact hb i hi
        rw [inboundPerform_write, piecesWritten_byte_other hsound _ psn _ (fun _ => id) hother]
        exact congrArg (Memory.get · b) hsame.mem
      · obtain ⟨hstored, hpoisons⟩ := stored_write_onePage hsound v psn (span_pos_of_inboundOk hok) hpage
        exact ⟨hsame.stored hstored, fun hpsn => hpoisons hpsn (isDram_of_inboundOk (hpsn ▸ hok) hpage)⟩
    | atomic pa o w v c =>
      have hpoisoned := hsame.poisoned ⟨hwritten.1, hwritten.2, hsoft⟩ pa (wordBytes w)
      refine ⟨fun hp => (atomic_mem_of_poisoned hsound o w v c (hpoisoned.trans hp)).trans hsame.mem, fun hp => ?_⟩
      have hstored := hsame.stored (stored_atomic hsound o w v c (hpoisoned.trans hp))
      rwa [hsame.locOf, hsame.wordAt] at hstored

end

section

namespace Sys2Proof.Machine

/-! ### The memory's canonical form from state to state (R201)

Of what an operation does only the list of memory matters here, so each operation is followed in the order of its body. -/

/-- Memory in canonical form stays in it. -/
def Canon (s t : State) : Prop := Memory.wf s.mem = true → Memory.wf t.mem = true

theorem Held.canon {s t : State} (h : Held s t) : Canon s t := h.wf
theorem Stored.canon {s t : State} (h : Stored s t) : Canon s t := h.wf
theorem Kept.canon {s t : State} (h : Kept s t) : Canon s t := h.wf

namespace Canon

@[refl] theorem refl (s : State) : Canon s s := id

@[trans] theorem trans {s t u : State} (h : Canon s t) (k : Canon t u) : Canon s u := k ∘ h

theorem of_mem {s t : State} (h : t.mem = s.mem) : Canon s t := fun w => h ▸ w

theorem ite {s t u : State} {p : Prop} [Decidable p] (ht : Canon s t) (hu : Canon s u) : Canon s (if p then t else u) := by
  split <;> assumption

theorem fold {α : Type} (f : State → α → State) (hf : ∀ s a, Canon s (f s a)) (as : List α) (s : State) :
    Canon s (foldState f s as) :=
  foldState_ind (Canon s) f (fun t a h => h.trans (hf t a)) as s (refl s)

/-- An operation that answers a state beside something else. -/
theorem fst_of_eq {α : Type} {s : State} {p q : State × α} (h : Canon s p.1) (e : p = q) : Canon s q.1 := e ▸ h

section
variable (s : State)

theorem setTile (n : Nat) (v : TileSt) : Canon s (s.setTile n v) := refl s
theorem setSlot (n : Nat) (v : SlotSt) : Canon s (s.setSlot n v) := refl s
theorem setLink (n : Nat) (v : Link) : Canon s (s.setLink n v) := refl s
theorem setField (n : Nat) (v : FieldSt) : Canon s (s.setField n v) := refl s
theorem setDie (n : Nat) (v : DieSt) : Canon s (s.setDie n v) := refl s
theorem setCore (n : Nat) (v : CoreSt) : Canon s (s.setCore n v) := refl s
theorem setWalk (n : Nat) (v : WalkSt) : Canon s (s.setWalk n v) := refl s
theorem setChan (f k : Nat) (v : ChanSt) : Canon s (s.setChan f k v) := refl s
theorem setLq (q n : Nat) (l : LqSt) : Canon s (s.setLq q n l) := refl s
theorem modGraph (g : Nat) (f : GraphSt → GraphSt) : Canon s (s.modGraph g f) := refl s
theorem modNode (g n : Nat) (f : Node → Node) : Canon s (s.modNode g n f) := refl s
theorem modSection (g n : Nat) (f : Section → Section) : Canon s (s.modSection g n f) := refl s
theorem modQuarter (q : Nat) (f : QuarterSt → QuarterSt) : Canon s (modQuarter s q f) := refl s
theorem modDie (d : Nat) (f : DieSt → DieSt) : Canon s (modDie s d f) := refl s
theorem mapRecs (q : Nat) (f : FRec → FRec) : Canon s (mapRecs s q f) := refl s
theorem queueCompl (q : Nat) (c : Compl) : Canon s (queueCompl s q c) := refl s
theorem wantPass (q : Nat) : Canon s (wantPass s q) := refl s
theorem raiseCint (q b : Nat) : Canon s (raiseCint s q b) := refl s
theorem by_ (v : BitVec 32) : Canon s (s.by v) := refl s
theorem task (j : Nat) : Canon s (s.task j) := refl s
theorem due (i : Instr) : Canon s (s.due i) := refl s
theorem setBytes (a : Nat) (bs : List Byte) : Canon s (s.setBytes a bs) := (Stored.setBytes s a bs).canon
theorem markAt (p : Point) (k : Nat) : Canon s (markAt s p k) := (Held.markAt s p k).canon
theorem markStamp (k : Nat) : Canon s (markStamp s k) := (Held.markStamp s k).canon

end

end Canon

end Sys2Proof.Machine

end

section

namespace Sys2Proof.Machine

/-! ### What every reading of the sequencer and the arbiter leaves (R36, R91, R196, R396 to R399, R413)

A reading changes the machine by `seqReadAt` alone, so that any relation which holds across that, and across nothing and one thing
after another, holds across the reading. -/

/-- A relation of states that reads at the home keep to. -/
structure Reads (R : State → State → Prop) : Prop where
  refl : ∀ s, R s s
  trans : ∀ {s t u}, R s t → R t u → R s u
  read : ∀ s f va n, R s (seqReadAt s f va n).1

/-- A reading computation keeps to a relation. -/
def Rd.Keeps (R : State → State → Prop) {α : Type} (m : Rd α) : Prop := ∀ s, R s (runRd m s).2

namespace Reads

section
variable {R : State → State → Prop} (hR : Reads R)
include hR

theorem pure {α : Type} (a : α) : Rd.Keeps R (pure a) := fun s => hR.refl s
theorem stop {α : Type} (e : LoadErr) : Rd.Keeps R (stop e : Rd α) := fun s => hR.refl s
theorem get : Rd.Keeps R (get : Rd State) := fun s => hR.refl s

theorem bind {α β : Type} {m : Rd α} {k : α → Rd β} (hm : Rd.Keeps R m) (hk : ∀ a, Rd.Keeps R (k a)) : Rd.Keeps R (m >>= k) := by
  intro s
  have h := hm s
  have hrun : runRd (m >>= k) s = (ExceptT.bindCont k (runRd m s).1 : StateM State (Except LoadErr β)) (runRd m s).2 := rfl
  rw [hrun]
  generalize runRd m s = p at h ⊢
  obtain ⟨a | a, u⟩ := p
  · exact h
  · exact hR.trans h (hk a u)

omit hR in
theorem ite {α : Type} {p : Prop} [Decidable p] {m k : Rd α} (hm : Rd.Keeps R m) (hk : Rd.Keeps R k) :
    Rd.Keeps R (if p then m else k) := by
  split <;> assumption

theorem check (c : Bool) (e : LoadErr) : Rd.Keeps R (check c e) := ite (hR.pure _) (hR.stop _)

theorem seqRead (f va n : Nat) : Rd.Keeps R (seqRead f va n) := by
  intro s
  have h := hR.read s f va n
  unfold runRd Machine.seqRead ExceptT.run ExceptT.mk
  dsimp only
  split <;> rename_i he <;> rw [he] at h <;> exact h

theorem mapM {α β : Type} {k : α → Rd β} (hk : ∀ a, Rd.Keeps R (k a)) : ∀ as : List α, Rd.Keeps R (as.mapM k)
  | [] => by rw [List.mapM_nil]; exact hR.pure _
  | a :: as => by
    rw [List.mapM_cons]
    exact hR.bind (hk a) fun _ => hR.bind (mapM hk as) fun _ => hR.pure _

omit hR in
theorem orElseRd {α : Type} {m : Rd α} (d : α) (hm : Rd.Keeps R m) : Rd.Keeps R (orElseRd m d) := by
  intro s
  have h := hm s
  unfold runRd Machine.orElseRd ExceptT.mk at *
  change R s (match m.run s with
    | (Except.error .wait, s) => (Except.error LoadErr.wait, s)
    | (.error (.read va), s) => (.error (.read va), s)
    | (.error _, s) => (.ok d, s)
    | (.ok a, s) => (.ok a, s)).2
  generalize m.run s = p at h ⊢
  obtain ⟨e | a, u⟩ := p
  · cases e <;> exact h
  · exact h

/-! Kernel graph records, section maps and configurations. -/

theorem readKg (f b i : Nat) : Rd.Keeps R (readKg f b i) := hR.seqRead _ _ _

theorem readMap (f img len off leaf : Nat) : Rd.Keeps R (readMap f img len off leaf) := by
  unfold Machine.readMap
  refine hR.bind (hR.check _ _) fun _ => hR.bind (hR.seqRead _ _ _) fun _ => hR.bind (hR.check _ _) fun _ =>
    hR.bind (hR.seqRead _ _ _) fun _ => ?_
  dsimp only
  split
  · exact hR.stop _
  · exact hR.bind (hR.check _ _) fun _ => hR.pure _

theorem readConfig (f img len off t : Nat) : Rd.Keeps R (readConfig f img len off t) :=
  hR.bind (hR.check _ _) fun _ => hR.bind (hR.seqRead _ _ _) fun _ => hR.bind (hR.check _ _) fun _ =>
    hR.bind (hR.seqRead _ _ _) fun _ => hR.bind (hR.check _ _) fun _ => hR.bind (hR.check _ _) fun _ => hR.pure _

theorem loadTile (f img len passes : Nat) (faces eps : Nat → List Nat) (e : Nat × Nat) :
    Rd.Keeps R (loadTile f img len passes faces eps e) := by
  unfold Machine.loadTile
  refine hR.bind (hR.readConfig _ _ _ _ _) fun _ => hR.bind hR.get fun _ => ?_
  split
  · exact hR.stop _
  · exact hR.pure _

theorem peekLeaf (g : GraphSt) (r : List Byte) (m : Nat) (c : Bool) : Rd.Keeps R (peekLeaf g r m c) := by
  unfold Machine.peekLeaf
  refine hR.bind hR.get fun s => hR.bind (hR.readMap _ _ _ _ _) fun _ => ?_
  split
  · exact hR.pure _
  · refine hR.mapM (fun _ => ?_) _
    split
    · exact hR.bind (hR.readConfig _ _ _ _ _) fun _ => hR.pure _
    · exact hR.pure _

theorem leavesUnder (g : GraphSt) (c : Bool) : ∀ (fuel : Nat) (todo : List (Nat × Nat)), Rd.Keeps R (leavesUnder g c fuel todo)
  | 0, _ => hR.pure _
  | _ + 1, [] => hR.pure _
  | fuel + 1, (idx, mult) :: todo => by
    unfold Machine.leavesUnder
    refine hR.bind hR.get fun s => hR.bind (orElseRd _ (hR.readKg _ _ _)) fun r => ?_
    refine ite (leavesUnder g c fuel todo) (ite ?_ (ite (leavesUnder g c fuel todo) (leavesUnder g c fuel _)))
    have hrest : ∀ own, Rd.Keeps R (Machine.leavesUnder g c fuel todo >>= fun rest => Pure.pure (own ++ rest)) := fun _ =>
      hR.bind (leavesUnder g c fuel todo) fun _ => hR.pure _
    split
    · exact hR.bind (hR.pure _) hrest
    · exact hR.bind (orElseRd _ (hR.peekLeaf _ _ _ _)) hrest

theorem reaches (g : GraphSt) (h : Nat) : ∀ (fuel : Nat) (todo : List Nat), Rd.Keeps R (reaches g h fuel todo)
  | 0, _ => hR.pure _
  | _ + 1, [] => hR.pure _
  | fuel + 1, idx :: todo => by
    unfold Machine.reaches
    exact ite (hR.pure _) (hR.bind hR.get fun s => hR.bind (orElseRd _ (hR.readKg _ _ _)) fun r => reaches g h fuel _)

theorem childWith (g : GraphSt) (h : Nat) (p : Node) : ∀ (j : Nat) (cs : List Nat), Rd.Keeps R (childWith g h p j cs)
  | _, [] => hR.pure _
  | j, _ :: cs => hR.bind (hR.reaches _ _ _ _) fun _ => ite (hR.pure _) (childWith g h p (j + 1) cs)

theorem surrounding (g : GraphSt) : ∀ (fuel : Nat) (n : Node), Rd.Keeps R (surrounding g fuel n)
  | 0, _ => hR.pure _
  | fuel + 1, n => by
    unfold Machine.surrounding
    dsimp only
    split
    · exact hR.pure _
    · exact hR.bind (surrounding g fuel _) fun _ => hR.bind (hR.mapM (fun _ => hR.childWith _ _ _ _ _) _) fun _ => hR.pure _

theorem readSection (g : GraphSt) (n : Node) : Rd.Keeps R (readSection g n) := by
  unfold Machine.readSection
  refine hR.bind hR.get fun s => hR.bind (hR.readMap _ _ _ _ _) fun m => ?_
  split
  · exact hR.stop _
  · refine hR.bind (hR.check _ _) fun _ => hR.bind (hR.surrounding _ _ _) fun p => hR.bind (hR.check _ _) fun _ =>
      hR.bind (hR.leavesUnder _ _ _ _) fun _ => hR.bind (hR.leavesUnder _ _ _ _) fun _ => hR.bind (hR.check _ _) fun _ =>
      hR.bind (hR.mapM (fun _ => hR.loadTile _ _ _ _ _ _ _) _) fun _ => hR.bind hR.get fun _ => ?_
    split
    · exact hR.stop _
    · exact hR.pure _

theorem iterIn (g : GraphSt) (h : Nat) : ∀ ps : List (List Byte × Nat), Rd.Keeps R (iterIn g h ps)
  | [] => hR.pure _
  | _ :: ps => hR.bind (hR.reaches _ _ _ _) fun _ => ite (hR.pure _) (iterIn g h ps)

theorem readHandler (g : GraphSt) (leaf : Node) (h : Nat) : Rd.Keeps R (readHandler g leaf h) :=
  hR.bind hR.get fun _ => hR.bind (hR.readKg _ _ _) fun _ => hR.bind (hR.check _ _) fun _ => hR.bind (hR.iterIn _ _ _) fun _ =>
    hR.pure _

theorem handlerRecord (g : GraphSt) (t h : Nat) : Rd.Keeps R (handlerRecord g t h) :=
  hR.bind hR.get fun _ => hR.bind (hR.readKg _ _ _) fun _ => ite (hR.pure _)
    (hR.bind (hR.leavesUnder _ _ _ _) fun _ => hR.bind (hR.check _ _) fun _ => hR.pure _)

/-! Images, at admission. -/

theorem readDir (f img : Nat) : Rd.Keeps R (readDir f img) :=
  hR.bind (hR.bind (hR.seqRead _ _ _) fun _ => hR.bind (hR.check _ _) fun _ => hR.pure _) fun _ =>
    hR.bind (hR.seqRead _ _ _) fun _ => hR.bind (hR.check _ _) fun _ => hR.pure _

theorem readCrc (f img : Nat) (e : Option DirEnt) : Rd.Keeps R (readCrc f img e) := by
  cases e with
  | none => exact hR.pure _
  | some e => exact hR.bind (hR.seqRead _ _ _) fun _ => hR.bind (hR.check _ _) fun _ => hR.pure _

theorem checkNotes : ∀ (fuel : Nat) (b : List Byte), Rd.Keeps R (checkNotes fuel b)
  | 0, _ => hR.pure _
  | fuel + 1, _ => ite (hR.pure _) (hR.bind (hR.check _ _) fun _ => hR.bind (hR.check _ _) fun _ => checkNotes fuel _)

theorem allIdem (f base : Nat) : ∀ fuel o stopAt : Nat, Rd.Keeps R (allIdem f base fuel o stopAt)
  | 0, _, _ => hR.pure _
  | fuel + 1, _, stopAt =>
    ite (hR.pure _) (hR.bind (hR.seqRead _ _ _) fun _ => hR.bind (allIdem f base fuel _ stopAt) fun _ => hR.pure _)

theorem regionTable (go len : Nat) (b : List Byte) : Rd.Keeps R (regionTable go len b) :=
  hR.bind (hR.check _ _) fun _ => hR.bind (hR.check _ _) fun _ => hR.pure _

theorem checkAdmission (lead : Nat) (rcd : List Byte) : Rd.Keeps R (checkAdmission lead rcd) := by
  unfold Machine.checkAdmission
  refine hR.bind hR.get fun s => hR.bind (hR.check _ _) fun _ => hR.bind (hR.readDir _ _) fun d => ?_
  dsimp only
  split
  · exact hR.stop _
  · refine hR.bind (hR.readCrc _ _ _) fun regs => hR.bind (hR.readCrc _ _ _) fun notes => hR.bind (hR.readCrc _ _ _) fun routes =>
      hR.bind (hR.checkNotes _ _) fun _ => ?_
    split
    · exact hR.bind (hR.pure _) fun _ => hR.bind (hR.check _ _) fun _ => hR.bind (hR.regionTable _ _ _) fun _ =>
        hR.bind (hR.seqRead _ _ _) fun _ => hR.bind (hR.check _ _) fun _ => hR.pure _
    · exact hR.bind (hR.allIdem _ _ _ _ _) fun _ => hR.bind (hR.check _ _) fun _ => hR.bind (hR.regionTable _ _ _) fun _ =>
        hR.bind (hR.seqRead _ _ _) fun _ => hR.bind (hR.check _ _) fun _ => hR.pure _

end

end Reads

end Sys2Proof.Machine

end

section

namespace Sys2Proof.Machine

namespace Canon

/-! ### Reads of the sequencer and of SPAWN (R36, R236, R324) -/

theorem translateRuns (f : Nat) (l : Option (Nat × Nat)) (va : Nat) (n : Need) (c : Bool) (rs : List (Nat × Nat)) (s : State) :
    Canon s (translateRuns s f l va n c rs).1 := (Stored.translateRuns _ _ _ _ _ _ _).canon

theorem engRead (s : State) (f t va n : Nat) (need : Need) (z : Bool) : Canon s (engRead s f t va n need z).1 :=
  (Stored.engRead _ _ _ _ _ _ _).canon

theorem seqReadAt (s : State) (f va n : Nat) : Canon s (seqReadAt s f va n).1 := by
  unfold Machine.seqReadAt
  dsimp only
  have h := (by_ s (seqSource f)).trans (translateRuns f none va Need.read false (cutAt 0x10000 va (n + 1) 0 n) _)
  split <;> rename_i he <;> rw [he] at h
  · exact h
  · exact h
  · exact ((by_ s _).trans (translateRuns _ _ _ _ _ _ _)).trans (Stored.engRuns _ _ _ _ _).canon

/-- Every reading of the sequencer keeps the form. -/
theorem reads : Reads Canon := ⟨refl, trans, seqReadAt⟩

/-- Unfolded as a function: where it is applied, comparing it with its body makes the kernel evaluate the read. -/
theorem readStored (s : State) (f t va : Nat) : Canon s (readStored s f t va).1 := by
  have hread : Machine.readStored = Machine.readStored := rfl
  conv at hread => rhs; delta Machine.readStored
  rw [congrFun (congrFun (congrFun (congrFun hread s) f) t) va]
  have h := engRead s f t va 128 Need.stored false
  generalize Machine.engRead s f t va 128 Need.stored false = x at h ⊢
  obtain ⟨u, e⟩ := x
  cases e with
  | ok a =>
    have k := engRead u f t (va + 128) 128 Need.stored false
    dsimp only
    generalize Machine.engRead u f t (va + 128) 128 Need.stored false = y at k ⊢
    obtain ⟨v, e⟩ := y
    split
    · cases e <;> exact h.trans k
    · exact h
  | wait => exact h
  | fault c a b d => exact h

/-- Of a read that waits only the misses and what it asked for stay. -/
theorem stillAsks (f : Nat) (s u : State) : Canon s (stillAsks f s u) := by
  refine trans (t := { s with awaits := u.awaits, sent := u.sent }) (refl s) (fold _ (fun v e => ?_) _ _)
  exact trans (fold _ (fun w m => ((Stored.sliceAsk w f e.1).trans (Stored.noteMiss _ _ _)).canon) _ _) (setField _ _ _)

/-! ### Records and ends -/

theorem raiseFault (s : State) (t : Nat) (r : FRec) : Canon s (raiseFault s t r) := (Held.raiseFault _ _ _).canon
theorem postRec (s : State) (q : Nat) (r : FRec) : Canon s (postRec s q r) := (Held.postRec _ _ _).canon
theorem killGraph (s : State) (g n : Nat) : Canon s (killGraph s g n) := (Held.killGraph _ _ _).canon
theorem endGraph (s : State) (g : GraphSt) (n : Nat) (r : Option Token) (a : DWord) : Canon s (endGraph s g n r a) :=
  (Held.endGraph _ _ _ _ _).canon
theorem firingFault (s : State) (x c a u : Nat) (va d : DWord) : Canon s (firingFault s x c a u va d) :=
  (Held.firingFault _ _ _ _ _ _ _).canon

theorem refuse (s : State) (g : GraphSt) (e : LoadErr) : Canon s (refuse s g e) := by
  cases e with
  | wait => exact refl s
  | status n => exact killGraph _ _ _
  | read _ | graph _ | tile _ _ _ _ _ | unsupported _ => exact (postRec _ _ _).trans (killGraph _ _ _)

theorem abandonWithheld (s : State) (g : GraphSt) : Canon s (abandonWithheld s g) := refl s

theorem haltGraph (s : State) (g : GraphSt) (tok : Token) : Canon s (haltGraph s g tok) :=
  ((abandonWithheld _ _).trans (modGraph _ _ _)).trans (endGraph _ _ _ _ _)

/-! ### Firings of ports and engines (R221, R225, R234, R239, R252) -/

/-- What an instruction's next state is held to. -/
def Next (s : State) : Out → Prop
  | .next t => Canon s t
  | _ => True

theorem next_of {s : State} {o : Out} (h : ∀ t, o = .next t → Canon s t) : Next s o := by
  cases o with
  | next t => exact h t rfl
  | _ => trivial

theorem next_ite {s : State} {a b : Out} {p : Prop} [Decidable p] (ha : Next s a) (hb : Next s b) : Next s (if p then a else b) := by
  split <;> assumption

theorem Next.after {s u : State} {o : Out} (h : Canon s u) (k : Next u o) : Next s o := by
  cases o with
  | next t => exact h.trans k
  | _ => trivial

theorem fired (s : State) (x : Nat) (ps : List Pos) : Canon s (noteFiring (consumeAll s x ps) x) :=
  ((Held.consumeAll _ _ _).trans (Held.noteFiring _ _)).canon

theorem addAccess (s : State) (x : Nat) (a : Access) (i : Instr) (l : Bool) : Canon s (addAccess s x a i l) :=
  (Held.addAccess _ _ _ _ _).canon

theorem memFire {s : State} {i : Instr} {check : List (Pos × Token) → Option Nat} {go : State → List (Pos × Token) → State}
    (hg : ∀ u r, Canon u (go u r)) : Next s (memFire s i check go) := by
  unfold Machine.memFire
  refine next_ite (refl s) ?_
  dsimp only
  split
  · exact refl s
  · exact firingFault _ _ _ _ _ _ _
  · exact ((((Held.consume _ _ _).trans (Held.noteFiring _ _)).trans (Held.nextId _ _)).trans
      ((Held.queueOut _ _ _).trans (Held.emitOut _ _))).canon
  · exact fired _ _ _
  · split
    · exact firingFault _ _ _ _ _ _ _
    · exact (fired _ _ _).trans (hg _ _)

theorem cmdFire {s : State} {i : Instr} {n : Nat} {rm m : Bool} {check : List (Pos × Token) → Option (Nat × DWord × DWord)}
    {go : State → List (Pos × Token) → State} (hg : ∀ u r, Canon u (go u r)) : Next s (cmdFire s i n rm m check go) := by
  unfold Machine.cmdFire
  refine next_ite (refl s) ?_
  split
  · exact refl s
  · exact firingFault _ _ _ _ _ _ _
  · exact ite (refl s) (Held.forwardMarker _ _ _ _ _).canon
  · exact fired _ _ _
  · split
    · exact firingFault _ _ _ _ _ _ _
    · exact ite (refl s) ((fired _ _ _).trans (hg _ _))

theorem fireAccess (s : State) (i : Instr) (l : Bool) (check : List (Pos × Token) → Option Nat) : Next s (fireAccess s i l check) :=
  next_of fun _ h => (Held.fireAccess _ _ _ _ _ h).canon

theorem fireCmd (s : State) (i : Instr) (q : List Nat) (l : Bool) : Next s (fireCmd s i q l) :=
  next_of fun _ h => (Held.fireCmd _ _ _ _ _ h).canon

theorem fireAtomic (s : State) (i : Instr) (n : Nat) : Next s (fireAtomic s i n) := fireAccess _ _ _ _

theorem fireAction (s : State) (i : Instr) (check : List (Pos × Token) → Option Nat) : Next s (fireAction s i check) :=
  memFire fun _ _ => addAccess _ _ _ _ _

theorem arriveStep (s : State) (x id k rank : Nat) : Canon s (arriveStep s x id k rank) := by
  unfold Machine.arriveStep
  split
  · exact refl s
  · exact modGraph _ _ _

theorem execStep (k : BitVec 6) (t1 t0 : Target) (s : State) : Next s (execStep k t1 t0 s) := by
  unfold Machine.execStep
  exact memFire fun _ _ => (addAccess _ _ _ _ _).trans (arriveStep _ _ _ _ _)

theorem fireAcquire (s : State) (i : Instr) (g : Nat) (b : Bool) : Next s (fireAcquire s i g b) := by
  unfold Machine.fireAcquire
  refine next_ite (refl s) (memFire fun u r => ?_)
  dsimp only
  split
  · exact addAccess _ _ _ _ _
  · exact (addAccess _ _ _ _ _).trans (modGraph _ _ _)

theorem burstBegin (s : State) (x : Nat) : Canon s (burstBegin s x) := ite (refl s) (refl s)
theorem burstEnd (s : State) (x : Nat) : Canon s (burstEnd s x) := refl s

theorem stbFault (s : State) (x c : Nat) (va : DWord) : Canon s (stbFault s x c va) :=
  (burstEnd _ _).trans (firingFault _ _ _ _ _ _ _)

theorem consume (s : State) (x : Nat) (k : Pos) : Canon s (consume s x k) := (Held.consume _ _ _).canon
theorem noteFiring (s : State) (x : Nat) : Canon s (noteFiring s x) := (Held.noteFiring _ _).canon

theorem stbBeat (s : State) (x : Nat) (i : Instr) (l p r : Token) : Canon s (stbBeat s x i l p r) := by
  unfold Machine.stbBeat
  have hbeat := (consume s x .r).trans (burstBegin _ x)
  exact ite (hbeat.trans ((setSlot _ _ _).trans (noteFiring _ _)))
    (hbeat.trans (((burstEnd _ _).trans (fired _ _ _)).trans (addAccess _ _ _ _ _)))

theorem stbStep (s : State) (x : Nat) (i : Instr) : Canon s (stbStep s x i) := by
  unfold Machine.stbStep
  split
  · exact refl s
  · exact stbFault _ _ _ _
  · exact ((((Held.consume _ _ _).trans (Held.noteFiring _ _)).trans (Held.nextId _ _)).trans
      ((Held.queueOut _ _ _).trans (Held.emitOut _ _))).canon
  · exact fired _ _ _
  · dsimp only
    split
    · exact stbFault _ _ _ _
    · exact ite (stbFault _ _ _ _) (stbBeat _ _ _ _ _ _)

theorem forwardMarker (s : State) (x : Nat) (i : Instr) (k : Pos) (tok : Token) : Canon s (forwardMarker s x i k tok) :=
  (Held.forwardMarker _ _ _ _ _).canon

theorem gathBeat (s : State) (x : Nat) (i : Instr) (l r : Token) : Canon s (gathBeat s x i l r) := by
  unfold Machine.gathBeat
  have hbeat := (consume s x .l).trans (burstBegin _ x)
  exact ite (hbeat.trans ((setSlot _ _ _).trans (noteFiring _ _)))
    (hbeat.trans ((((burstEnd _ _).trans (consume _ _ _)).trans (noteFiring _ _)).trans
      ((Held.openAs _ _ _ _ _).trans (Held.toBus _ _)).canon))

theorem gathStep (s : State) (x : Nat) (i : Instr) : Canon s (gathStep s x i) := by
  unfold Machine.gathStep
  split
  · split
    · exact refl s
    · exact firingFault _ _ _ _ _ _ _
    · exact forwardMarker _ _ _ _ _
    · exact fired _ _ _
    · exact gathBeat _ _ _ _ _
  · split
    · exact ite (gathBeat _ _ _ _ _) ((burstEnd _ _).trans (firingFault _ _ _ _ _ _ _))
    · exact refl s

theorem execMxGath (t1 t0 : Target) (s : State) : Next s (execMxGath t1 t0 s) := ite (gathStep _ _ _) (refl s)

/-! ### Graph and fault commands (R324, R360 to R365) -/

theorem emitNow (s : State) (i : Instr) (tok : Token) : Canon s (emitNow s i tok) :=
  ((Held.openCmd _ _ _ _).trans (Held.finishCmd _ _ _ _)).canon

theorem sysWrite (s : State) (t : Nat) (v : DWord) (r : SysReg) : Canon s (sysWrite s t v r) := by
  cases r with
  | chst => exact ite (refl s) (refl s)
  | _ => exact refl s

theorem execSysWr (r : SysReg) (t1 t0 : Target) (s : State) : Next s (execSysWr r t1 t0 s) := by
  unfold Machine.execSysWr
  exact cmdFire fun _ _ => (sysWrite _ _ _ _).trans (emitNow _ _ _)

theorem execSysWrA (d : Bool) (p : Pred) (t1 t0 : Target) (s : State) : Next s (execSysWrA d p t1 t0 s) := by
  unfold Machine.execSysWrA
  exact cmdFire fun _ _ => (emitNow _ _ _).trans (due _ _)

theorem completeFiring (s : State) (t : Nat) : Canon s (completeFiring s t) := (Held.completeFiring _ _).canon

theorem execHalt (g : Bool) (s : State) : Next s (execHalt g s) := by
  refine cmdFire fun u r => ?_
  dsimp only
  split
  · split
    · exact refl u
    · exact ite (refl u) (haltGraph _ _ _)
  · exact (completeFiring _ _).trans (setTile _ _ _)

theorem sendCmd (i : Instr) (q : List Nat) (l : Bool) (s : State) (r : List (Pos × Token)) : Canon s (sendCmd i q l s r) :=
  (Held.sendCmd _ _ _ _ _).canon

/-- The reading is a variable in the proof: with its own body, the kernel would run it. -/
theorem execCtnOpen (t1 t0 : Target) (s : State) : Next s (execCtnOpen t1 t0 s) := by
  unfold Machine.execCtnOpen
  have hread := reads.handlerRecord
  unfold Rd.Keeps at hread
  obtain ⟨run, hrun⟩ : ∃ run, run = @runRd Bool := ⟨_, rfl⟩
  rw [← hrun] at hread ⊢
  refine next_ite (refl s) ?_
  split
  · exact refl s
  · rename_i r g _ _
    dsimp only
    have h := (task s (((s.tile (tileOf s.foc)).owner.map (·.2)).getD 0)).trans
      (hread g (tileOf s.foc) ((tokenAt r .l).data.toNat % 65536) _)
    split <;> rename_i he <;> rw [he] at h
    · exact (task s _).trans (stillAsks _ _ _)
    · exact h.trans (refuse _ _ _)
    · exact Next.after h (cmdFire (sendCmd _ _ _))
  · exact cmdFire (sendCmd _ _ _)

theorem lqPush (s : State) (q n : Nat) (r : List Byte) (p : BitVec 96) : Canon s (lqPush s q n r p) := (Stored.lqPush _ _ _ _ _).canon

theorem spawnGo (s : State) (i : Instr) (n : Nat) (r : List (Pos × Token)) : Canon s (spawnGo s i n r) := by
  unfold Machine.spawnGo
  have hread := readStored
  obtain ⟨read, he⟩ : ∃ read, read = Machine.readStored := ⟨_, rfl⟩
  rw [← he] at hread ⊢
  refine trans ((by_ s (slotSource s.foc)).trans (task _ (((s.tile (tileOf s.foc)).owner.map (·.2)).getD 0))) ?_
  dsimp only
  split
  · exact refl _
  · refine ite (firingFault _ _ _ _ _ _ _) (ite (firingFault _ _ _ _ _ _ _) ?_)
    have h := hread ((s.by (slotSource s.foc)).task (((s.tile (tileOf s.foc)).owner.map (·.2)).getD 0)) (fieldOf s.foc)
      (tileOf s.foc) (tokenAt r .l).data.toNat
    split <;> rename_i he <;> rw [he] at h
    · exact stillAsks _ _ _
    · exact h.trans (firingFault _ _ _ _ _ _ _)
    · exact ite (refl _) (h.trans ((fired _ _ _).trans ((markStamp _ _).trans ((lqPush _ _ _ _ _).trans (emitNow _ _ _)))))

theorem execSpawn (n : BitVec 6) (t1 t0 : Target) (s : State) : Next s (execSpawn n t1 t0 s) := by
  refine next_ite (refl s) ?_
  dsimp only [Next]
  split
  · exact refl s
  · exact firingFault _ _ _ _ _ _ _
  · exact forwardMarker _ _ _ _ _
  · exact fired _ _ _
  · exact spawnGo _ _ _ _

end Canon

end Sys2Proof.Machine

end

section

namespace Sys2Proof.Machine

namespace Canon

/-! ### Guards, step groups and remote accesses (R222, R226, R240, R300) -/

theorem finishAccess (s : State) (x id : Nat) (toks : List Token) : Canon s (finishAccess s x id toks) :=
  (Held.finishAccess _ _ _ _).canon

theorem grantOne (g n : Nat) (s : State) (r : GuardReq) : Canon s (grantOne g n s r) :=
  (((modGraph _ _ _).trans (by_ _ _)).trans (Stored.acquireCache _ _ _).canon).trans (finishAccess _ _ _ _)

theorem execGuardGrant (g n : Nat) (s : State) : Next s (execGuardGrant g n s) := by
  unfold Machine.execGuardGrant
  split
  · exact refl s
  · exact fold _ (grantOne _ _) _ _

theorem execStepSwap (g n : Nat) (s : State) : Next s (execStepSwap g n s) := by
  unfold Machine.execStepSwap
  split
  · exact refl s
  · exact next_ite (refl s) (((fold _ (fun _ _ => (Stored.swapRegion _ _ _).canon) _ _).trans (modGraph _ _ _)).trans
      (fold _ (fun _ _ => finishAccess _ _ _ _) _ _))

theorem dropRemote (s : State) (k : Nat) : Canon s (dropRemote s k) := refl s

theorem accessFault (s : State) (x : Nat) (a : Access) (c acc va : Nat) (d : DWord) : Canon s (accessFault s x a c acc va d) :=
  (Held.accessFault _ _ _ _ _ _ _).canon

theorem partDone (s : State) (x : Nat) (a : Access) (k : Nat) (bs : List Byte) (ps : List Nat) : Canon s (partDone s x a k bs ps) :=
  (Held.partDone _ _ _ _ _ _).canon

theorem remoteFail (s : State) (r : RemoteAcc) (e : Nat) : Canon s (remoteFail s r e) := by
  unfold Machine.remoteFail
  split
  · exact dropRemote _ _
  · exact ite (refl s) ((dropRemote _ _).trans (accessFault _ _ _ _ _ _ _))

theorem countZeros (s : State) (f k : Nat) : Canon s (countZeros s f k) := (Stored.countZeros _ _ _).canon

theorem remoteDone (s : State) (r : RemoteAcc) (o : MemOp) (a : Access) (p : Part) (v : Nat) (bad : List Nat) :
    Canon s (remoteDone s r o a p v bad) := by
  have hdrop := dropRemote s r.id
  exact ite (hdrop.trans (partDone _ _ _ _ _ _)) (ite ((hdrop.trans (countZeros _ _ _)).trans (partDone _ _ _ _ _ _))
    (ite (hdrop.trans (partDone _ _ _ _ _ _)) (ite (refl s) (hdrop.trans (accessFault _ _ _ _ _ _ _)))))

theorem execRemoteResponse (k e : Nat) (v : Report) (s : State) : Next s (execRemoteResponse k e v s) := by
  unfold Machine.execRemoteResponse
  dsimp only [Next]
  split
  · exact refl s
  · refine ite (refl s) (ite (remoteFail _ _ _) ?_)
    split
    · exact dropRemote _ _
    · split
      · exact remoteDone _ _ _ _ _ _ _
      · exact dropRemote _ _

theorem execRemoteTimeout (s : State) : Next s (execRemoteTimeout s) := by
  unfold Machine.execRemoteTimeout
  dsimp only [Next]
  split
  · exact refl s
  · exact remoteFail _ _ _

theorem homeTouch (s : State) (a n : Nat) (w : Bool) : Canon s (homeTouch s a n w).1 := (Stored.homeTouch _ _ _ _).canon
theorem homeWrite (s : State) (a : Nat) (bs : List Byte) (b : Bool) : Canon s (homeWrite s a bs b) := (Stored.homeWrite _ _ _ _).canon

theorem inboundPerform (s : State) (a : Inbound) : Canon s (inboundPerform s a) := by
  cases a with
  | read pa n => exact fold _ (fun _ _ => homeTouch _ _ _ _) _ _
  | write pa n v b => exact fold _ (fun _ _ => (homeTouch _ _ _ _).trans (homeWrite _ _ _ _)) _ _
  | atomic pa o d v w =>
    unfold Machine.inboundPerform
    dsimp only
    have h := homeTouch s pa (wordBytes d) (isDram pa)
    split <;> rename_i he <;> rw [he] at h
    · exact h
    · split
      · exact h
      · exact h.trans (homeWrite _ _ _ _)

theorem execInboundRemoteAccess (d k : Nat) (a : Inbound) (s : State) : Next s (execInboundRemoteAccess d k a s) :=
  ite (ite (refl s) ((by_ _ _).trans (inboundPerform _ _))) (refl s)

/-! ### Containing regions and the command bus (R253, R360, R361) -/

theorem performedAll (s : State) (f : Nat) (c : Cmd) (toks : List Token) : Canon s (performedAll s f c toks) :=
  (Held.performedAll _ _ _ _).canon
theorem performedIn (s : State) (f q : Nat) (c : Cmd) (toks : List Token) : Canon s (performedIn s f q c toks) :=
  (Held.performedIn _ _ _ _ _).canon
theorem cmdFault (s : State) (f q : Nat) (c : Cmd) (code acc va : Nat) (d : DWord) : Canon s (cmdFault s f q c code acc va d) :=
  (Held.cmdFault _ _ _ _ _ _ _ _).canon
theorem modCmd (s : State) (f id : Nat) (g : Cmd → Cmd) : Canon s (modCmd s f id g) := refl s
theorem arriveQueues (s : State) (f k : Nat) : Canon s (arriveQueues s f k) := (Held.arriveQueues _ _ _).canon

theorem closeRegion (s : State) (f : Nat) : Canon s (closeRegion s f) := refl s

theorem openPerform (s : State) (f : Nat) (c : Cmd) : Canon s (openPerform s f c) :=
  ite (refl s) (ite (cmdFault _ _ _ _ _ _ _ _) (ite (refl s) ((setField _ _ _).trans (performedAll _ _ _ _))))

theorem closePerform (s : State) (f : Nat) (c : Cmd) : Canon s (closePerform s f c) :=
  ite (refl s) ((ite (closeRegion _ _) (refl s)).trans (performedAll _ _ _ _))

theorem arriveAt (s : State) (f k : Nat) : Canon s (arriveAt s f k) := by
  unfold Machine.arriveAt
  split
  · exact refl s
  · refine ite (refl s) (ite (arriveQueues _ _ _) (ite (ite (refl s) (modCmd _ _ _ _)) (ite (refl s) ?_)))
    split
    · exact openPerform _ _ _
    · exact closePerform _ _ _
    · exact performedAll _ _ _ _
    · exact ite (performedAll _ _ _ _) (refl s)
    · exact refl s

/-! ### Commands of the engines (R256 to R266) -/

/-- What a command's state is held to. -/
def Res (s : State) : CmdRes → Prop
  | .wait => True
  | .fault t _ _ _ _ => Canon s t
  | .more t => Canon s t
  | .ok t _ => Canon s t

theorem res_ite {s : State} {a b : CmdRes} {p : Prop} [Decidable p] (ha : Res s a) (hb : Res s b) : Res s (if p then a else b) := by
  split <;> assumption

theorem Res.after {s u : State} {r : CmdRes} (h : Canon s u) (k : Res u r) : Res s r := by
  cases r with
  | wait => trivial
  | fault | more | ok => exact h.trans k

theorem applyRes {s : State} (f q : Nat) (c : Cmd) (b : Bool) {r : CmdRes} (h : Res s r) : Canon s (applyRes s f q c b r) := by
  cases r with
  | wait => exact refl s
  | more t => exact h
  | fault t code acc va d => exact ite (refl s) (trans h (cmdFault _ _ _ _ _ _ _ _))
  | ok t toks => exact ite (trans h (performedAll _ _ _ _)) (trans h (performedIn _ _ _ _ _))

theorem storeRead (s : State) (a n : Nat) (e : Ecc) : Canon s (storeRead s a n e).1 := (Stored.storeRead _ _ _ _).canon
theorem storeTouch (s : State) (a n : Nat) (w : Bool) : Canon s (storeTouch s a n w) := (Stored.storeTouch _ _ _ _).canon
theorem pmcCount (s : State) (d e n : Nat) : Canon s (pmcCount s d e n) := refl s
theorem bucketAdd (s : State) (d k i : Nat) : Canon s (bucketAdd s d k i) := (Held.bucketAdd _ _ _ _).canon

theorem storeWrite (s : State) (a n : Nat) (bs : List Byte) (b : Bool) :
    Canon s (Machine.homeWrite (Machine.storeTouch s a n true) a bs b) := (storeTouch _ _ _ _).trans (homeWrite _ _ _ _)

theorem mxCfgIn (s : State) (f m : Nat) (c : Cmd) : Res s (mxCfgIn s f m c) := by
  unfold Machine.mxCfgIn
  split
  · exact refl s
  · exact setField _ _ _

theorem mxZeroIn (s : State) (f m : Nat) (c : Cmd) : Res s (mxZeroIn s f m c) := res_ite (refl s) (setBytes _ _ _)

theorem mxBbAll (s : State) (f : Nat) (ms : List Nat) (c : Cmd) : Res s (mxBbAll s f ms c) := by
  unfold Machine.mxBbAll
  refine res_ite (refl s) ?_
  split
  · exact refl s
  · exact res_ite (refl s) (res_ite (fold _ (fun _ _ => storeRead _ _ _ _) _ _)
      (trans (fold _ (fun _ _ => storeRead _ _ _ _) _ _) (fold _ (fun _ _ => setField _ _ _) _ _)))

theorem mmaMismatch (s : State) (f : Nat) (ms : List Nat) : Canon s (mmaMismatch s f ms).1 :=
  fold _ (fun _ _ => (bucketAdd _ _ _ _).trans (setField _ _ _)) _ _

theorem meFlags (s : State) (f m : Nat) (fl : Flags) : Canon s (meFlags s f m fl) := refl s
theorem accRowWrite (s : State) (f m r : Nat) (vs : List Nat) : Canon s (accRowWrite s f m r vs) := setBytes _ _ _

theorem mmaIn (s : State) (f m r : Nat) (l : OpLatch) (p : Panel) : Canon s (mmaIn s f m r l p) :=
  fold _ (fun _ _ => (accRowWrite _ _ _ _ _).trans (meFlags _ _ _ _)) _ _

theorem mxMmaAll (s : State) (f : Nat) (ms : List Nat) (c : Cmd) : Res s (mxMmaAll s f ms c) := by
  unfold Machine.mxMmaAll
  dsimp only
  split
  · trivial
  · split
    · exact refl s
    · have h := mmaMismatch s f ms
      split <;> rename_i he <;> rw [he] at h
      · exact h
      · refine (h.trans (fold _ (fun u m => ?_) _ _)).trans ((setField _ _ _).trans (pmcCount _ _ _ _))
        split
        · exact refl u
        · exact (mmaIn _ _ _ _ _ _).trans (setField _ _ _)

theorem postTransfer (s : State) (f h n : Nat) : Canon s (postTransfer s f h n) := (Held.postTransfer _ _ _ _).canon

theorem mxEpiIn (s : State) (f m : Nat) (b : Bool) (c : Cmd) : Res s (mxEpiIn s f m b c) := by
  unfold Machine.mxEpiIn
  exact res_ite (refl s) (res_ite (refl s) (res_ite trivial (res_ite (refl s) (res_ite
    (res_ite (refl s) (((meFlags _ _ _ _).trans (storeWrite _ _ _ _ _)).trans (postTransfer _ _ _ _))) (meFlags _ _ _ _)))))

end Canon

end Sys2Proof.Machine

end

section

namespace Sys2Proof.Machine

namespace Canon

/-! ### Gathers, copies, channels and graph walks (R261, R265, R267 to R276) -/

/-- One read of a gather's rows, with the poison met so far. -/
def gatherRead (at_ : Nat × Nat → Nat) (n : Nat) (acc : State × Bool) : Option (Nat × Nat) → State × Bool
  | none => acc
  | some q => ((Machine.storeRead acc.1 (at_ q) n .clean).1, acc.2 || (Machine.storeRead acc.1 (at_ q) n .clean).2)

theorem gatherReads (at_ : Nat × Nat → Nat) (n : Nat) :
    ∀ (ps : List (Option (Nat × Nat))) (acc : State × Bool), Canon acc.1 (ps.foldl (gatherRead at_ n) acc).1
  | [], acc => refl acc.1
  | none :: ps, acc => gatherReads at_ n ps acc
  | some q :: ps, acc => (storeRead acc.1 (at_ q) n .clean).trans (gatherReads at_ n ps (gatherRead at_ n acc (some q)))

theorem mxGathIn (s : State) (f : Nat) (c : Cmd) : Res s (mxGathIn s f c) := by
  unfold Machine.mxGathIn
  refine res_ite (refl s) (res_ite (refl s) (res_ite trivial ?_))
  dsimp only
  split
  · exact refl s
  · refine res_ite (refl s) (res_ite ?_ (trans ?_ (setField _ _ _)))
    all_goals exact gatherReads (fun p => tileStore (64 * f + p.1) + p.2) (runBytes (bitsOf c.r.toNat 48 4)) _ (s, false)

theorem cpyRows (b n : Nat) (got : SMap (List Byte)) (s : State) : Canon s (cpyRows b n got s) :=
  fold _ (fun _ _ => setBytes _ _ _) _ _

/-- Reads of a tile store, as a variable: with its own body the kernel would run a read where it compares two states. -/
theorem storeReads : ∃ load, load = Machine.storeRead ∧ ∀ s a n e, Canon s (load s a n e).1 := ⟨_, rfl, storeRead⟩

theorem cpyPart (s : State) (f m : Nat) (d : Bool) (c : Cmd) (p : Nat × Nat) : Res s (cpyPart s f m d c p) := by
  unfold Machine.cpyPart
  obtain ⟨load, hl, hload⟩ := storeReads
  rw [← hl]
  dsimp only
  split
  · have h := hload s (cpyStore f c + p.1) p.2 .clean
    split <;> rename_i he <;> rw [he] at h
    · exact h
    · exact Res.after h (res_ite (cpyRows _ _ _ _) (modCmd _ _ _ _))
  · exact Res.after (storeWrite _ _ _ _ _) (res_ite (refl _) (modCmd _ _ _ _))

theorem mxCpyIn (s : State) (f m k : Nat) (d : Bool) (c : Cmd) : Res s (mxCpyIn s f m k d c) := by
  unfold Machine.mxCpyIn
  split
  · exact refl s
  · split
    · trivial
    · exact cpyPart _ _ _ _ _ _

theorem chanFault (s : State) (f k : Nat) (c : Cmd) (code acc va : Nat) (b : BitVec 3) (d : DWord) :
    Canon s (chanFault s f k c code acc va b d) :=
  ite (refl s) (((setChan _ _ _ _).trans (cmdFault _ _ _ _ _ _ _ _)).trans (setField _ _ _))

theorem chanStop (s : State) (f k : Nat) (c : Cmd) (b : BitVec 3) : Canon s (chanStop s f k c b) :=
  (setChan _ _ _ _).trans (performedAll _ _ _ _)

theorem cpyHeadStart (s : State) (f k : Nat) (c : Cmd) : Canon s (cpyHeadStart s f k c) :=
  ite (cmdFault _ _ _ _ _ _ _ _) ((setChan _ _ _ _).trans (ite (chanFault _ _ _ _ _ _ _ _ _) (modCmd _ _ _ _)))

/-- Reads of the engines, as a variable: with its own body the kernel would run a read where it compares two states. -/
theorem engReads : ∃ read, read = Machine.engRead ∧ ∀ s f t va n need z, Canon s (read s f t va n need z).1 := ⟨_, rfl, engRead⟩

theorem xferBytes (f t : Nat) (w : Nat → Nat) (es : List Nat) :
    ∀ (s : State) (acc : List Byte), Canon s (xferBytes s f t w es acc).1 := by
  induction es with
  | nil => exact fun s _ => refl s
  | cons e es ih =>
    intro s acc
    unfold Machine.xferBytes
    obtain ⟨read, hr, hread⟩ := engReads
    rw [← hr]
    dsimp only
    split
    · split <;> rename_i he
      · exact (fst_of_eq (hread _ _ _ _ _ _ _) he).trans (ih _ _)
      · have h := fst_of_eq (hread _ _ _ _ _ _ _) he
        exact h
    · exact ih _ _

theorem bufWrite (s : State) (a : Nat) (bs : List Byte) : Canon s (Machine.carryOut.bufWrite s a bs) :=
  ite (refl s) (storeWrite _ _ _ _ _)

theorem l2Write (s : State) (a : Nat) (ls : List Nat) (bs : List Byte) :
    Canon s (Machine.homeWrite (l2Touch s a ls true false) a bs false) :=
  (Stored.l2Touch _ _ _ _ _).canon.trans (homeWrite _ _ _ _)

theorem translations :
    ∃ look, look = Machine.translate ∧ ∀ s f l va n b, Canon s (look s f l va n b).1 :=
  ⟨_, rfl, fun s f l va n b => (Stored.translate s f l va n b).canon⟩

theorem asks : ∃ ask, ask = Machine.askRemote ∧ ∀ s l p va r, Canon s (ask s l p va r).1 :=
  ⟨_, rfl, fun s l p va r => (Stored.askRemote s l p va r).canon⟩

theorem disown (s : State) (f va w0 : Nat) : Canon s (Machine.carryOut.disown s f va w0).1 := by
  unfold Machine.carryOut.disown
  obtain ⟨look, hl, hlook⟩ := translations
  obtain ⟨ask, ha, hask⟩ := asks
  rw [← hl, ← ha]
  have h := hlook s f none va Need.record true
  generalize look s f none va Need.record true = x at h ⊢
  obtain ⟨u, e⟩ := x
  cases e with
  | wait => exact h
  | fault => exact h
  | ok pte =>
    refine trans (t := u) h ?_
    dsimp only
    clear h
    split
    · split
      · exact refl _
      · split
        · dsimp only
          exact storeWrite _ _ _ _ _
        · dsimp only
          exact l2Write _ _ _ _
    · split
      · exact refl _
      · split <;> rename_i hr
        all_goals
          have k := fst_of_eq (hask _ _ _ _ _) hr
          exact k

theorem noteProgress (s : State) (t : Nat) : Canon s (noteProgress s t) := (Held.noteProgress _ _).canon

theorem carryOut (s : State) (f k : Nat) (c : Cmd) (va : Nat) (bs : List Byte) : Canon s (carryOut s f k c va bs) := by
  unfold Machine.carryOut
  refine ite (chanFault _ _ _ _ _ _ _ _ _) (ite (chanFault _ _ _ _ _ _ _ _ _) (ite (chanFault _ _ _ _ _ _ _ _ _)
    (ite (chanFault _ _ _ _ _ _ _ _ _) (ite (setChan _ _ _ _) (ite (chanFault _ _ _ _ _ _ _ _ _) ?_)))))
  dsimp only
  have h := xferBytes f (tileOf c.x) (recWord bs) (List.range (bitsOf (recWord bs 4) 16 16 * bitsOf (recWord bs 4) 0 16)) s []
  split <;> rename_i he <;> rw [he] at h
  · exact (stillAsks _ _ _).trans (setChan _ _ _ _)
  · exact (h.trans (bufWrite _ _ _)).trans (chanFault _ _ _ _ _ _ _ _ _)
  · rename_i t _ _ _ _
    have hd := h.trans (disown t f va (recWord bs 0))
    split <;> rename_i hr <;> rw [hr] at hd
    · exact (stillAsks _ _ _).trans (setChan _ _ _ _)
    · exact (hd.trans (bufWrite _ _ _)).trans (chanFault _ _ _ _ _ _ _ _ _)
    · exact ((hd.trans (bufWrite _ _ _)).trans (postTransfer _ _ _ _)).trans
        (ite ((setChan _ _ _ _).trans (chanStop _ _ _ _ _)) ((setChan _ _ _ _).trans (noteProgress _ _)))

theorem engCheck (s : State) (f t va n : Nat) (need : Need) (b : Bool) : Canon s (engCheck s f t va n need b).1 :=
  (Stored.engCheck _ _ _ _ _ _ _).canon

theorem engChecks : ∃ look, look = Machine.engCheck ∧ ∀ s f t va n need b, Canon s (look s f t va n need b).1 := ⟨_, rfl, engCheck⟩

theorem copyRecordStep (s : State) (f k : Nat) : Canon s (copyRecordStep s f k) := by
  unfold Machine.copyRecordStep
  split
  · exact refl s
  · rename_i c _
    obtain ⟨read, hr, hread⟩ := engReads
    obtain ⟨look, hl, hlook⟩ := engChecks
    rw [← hr, ← hl]
    refine ite (refl s) (trans (task s c.id) ?_)
    dsimp only
    split
    · exact carryOut _ _ _ _ _ _
    · have h := hread (s.task c.id) f (tileOf c.x) ((s.field f).chan k).rcd.toNat 64 Need.engine true
      split <;> rename_i he <;> rw [he] at h
      · exact stillAsks _ _ _
      · exact h.trans (chanFault _ _ _ _ _ _ _ _ _)
      · rename_i u _
        refine ite (h.trans (chanStop _ _ _ _ _)) ?_
        have hc := h.trans (hlook u f (tileOf c.x) ((s.field f).chan k).rcd.toNat 64 Need.record true)
        split <;> rename_i hr <;> rw [hr] at hc
        · exact hc.trans (chanFault _ _ _ _ _ _ _ _ _)
        · exact hc.trans (carryOut _ _ _ _ _ _)
        · exact stillAsks _ _ _

theorem walkRead (s : State) (f t b n i : Nat) : Canon s (walkRead s f t b n i).1 := by
  unfold Machine.walkRead
  obtain ⟨read, hr, hread⟩ := engReads
  rw [← hr]
  have h := hread s f t ((b + n * i) % 2 ^ 64) n Need.engine false
  split <;> rename_i he <;> rw [he] at h <;> exact h

theorem walkReads : ∃ read, read = Machine.walkRead ∧ ∀ s f t b n i, Canon s (read s f t b n i).1 := ⟨_, rfl, walkRead⟩

theorem walkHops (f t seed : Nat) (d : WalkDesc) (hops : Nat) :
    ∀ (step v : Nat) (s : State), Canon s (walkHops s f t seed d hops step v).1 := by
  obtain ⟨read, hr, hread⟩ := walkReads
  delta Machine.walkHops Machine.walkHops._f
  rw [← hr]
  clear hr
  obtain ⟨offs, nbrs, nv, ow⟩ := d
  induction hops with
  | zero => exact fun _ _ _ => refl _
  | succ hops ih =>
    intro step v s
    dsimp only
    have h := hread s f t offs (if ow then 8 else 4) v
    split <;> rename_i he <;> rw [he] at h
    · exact h
    rename_i s₁ lo
    have k := h.trans (hread s₁ f t offs (if ow then 8 else 4) (v + 1))
    split <;> rename_i hk <;> rw [hk] at k
    · exact k
    rename_i s₂ hi
    split
    · exact k
    split
    · exact k
    have l := k.trans (hread s₂ f t nbrs 4 (lo + walkMix seed step % (hi - lo)))
    split <;> rename_i hl <;> rw [hl] at l
    · exact l
    split
    · exact l
    split <;> rename_i hm
    all_goals
      have m := fst_of_eq (l.trans (ih _ _ _)) hm
      exact m

theorem walkRun (s : State) (f k : Nat) (c : Cmd) : Canon s (walkRun s f k c).1 := by
  unfold Machine.walkRun
  obtain ⟨read, hr, hread⟩ := engReads
  rw [← hr]
  dsimp only
  split
  · exact refl s
  · have h := hread s f (tileOf c.x) (bitsOf (s.walk k).cfg.toNat 6 42 * 64) 64 Need.engine false
    split <;> rename_i he <;> rw [he] at h
    · rename_i u bs
      split
      · exact h
      · split
        · exact h
        · have l := h.trans (walkHops f (tileOf c.x) c.r.toNat
            (recWord bs 0, recWord bs 1, bitsOf (recWord bs 2) 0 32, bitOf (recWord bs 2) 32) (bitsOf c.p.toNat 16 8) 0 c.l.toNat u)
          split <;> rename_i hl <;> rw [hl] at l <;> exact l
    · exact h

theorem wlkPerform (s : State) (f : Nat) (b : Bool) (c : Cmd) : Canon s (wlkPerform s f b c) := by
  unfold Machine.wlkPerform
  split
  · exact refl s
  · rename_i k _
    have h := (task s c.id).trans (walkRun _ f k c)
    split <;> rename_i he <;> rw [he] at h
    · exact (task _ _).trans (stillAsks _ _ _)
    · exact ite (refl s) (((h.trans (setWalk _ _ _)).trans (modCmd _ _ _ _)).trans (cmdFault _ _ _ _ _ _ _ _))
    · exact h
    · exact (h.trans (setWalk _ _ _)).trans (performedAll _ _ _ _)

theorem wlkStart (s : State) (f : Nat) (c : Cmd) : Canon s (wlkStart s f c) := by
  unfold Machine.wlkStart
  split
  · exact ite (refl s) (cmdFault _ _ _ _ _ _ _ _)
  · exact ite (refl s) (((setWalk _ _ _).trans (modCmd _ _ _ _)).trans (pmcCount _ _ _ _))

theorem wlkCfgIn (s : State) (f : Nat) (c : Cmd) : Res s (wlkCfgIn s f c) := by
  unfold Machine.wlkCfgIn
  split
  · exact refl s
  · exact res_ite (refl s) (res_ite trivial (setWalk _ _ _))

theorem enginePerform (s : State) (f q k : Nat) : Canon s (enginePerform s f q k) := by
  unfold Machine.enginePerform
  refine trans (by_ s (engineSource f q)) ?_
  generalize s.by (engineSource f q) = s
  dsimp only
  split
  · exact ite (refl s) (applyRes _ _ _ _ (mxCpyIn _ _ _ _ _ _))
  · split
    · exact refl s
    · refine ite (refl s) (ite ?_ (ite (refl s) ?_))
      · split
        · exact ite (wlkPerform _ _ _ _) (ite (wlkStart _ _ _) (refl s))
        · exact ite (applyRes _ _ _ _ (wlkCfgIn _ _ _)) (refl s)
      · split
        · exact applyRes _ _ _ _ (mxCfgIn _ _ _ _)
        · exact applyRes _ _ _ _ (mxZeroIn _ _ _ _)
        · exact ite (applyRes _ _ _ _ (mxBbAll _ _ _ _)) (refl s)
        · exact ite (applyRes _ _ _ _ (mxMmaAll _ _ _ _)) (refl s)
        · exact applyRes _ _ _ _ (mxEpiIn _ _ _ _ _)
        · exact applyRes _ _ _ _ (mxGathIn _ _ _)
        · exact ite (refl s) (cpyHeadStart _ _ _ _)
        · exact refl s

/-! ### The MSU (R131 to R143) -/

theorem finishCmd (s : State) (x id : Nat) (toks : List Token) : Canon s (finishCmd s x id toks) := (Held.finishCmd _ _ _ _).canon
theorem leaveSq (s : State) (f : Nat) (c : Cmd) : Canon s (leaveSq s f c) := refl s
theorem msuPort (s : State) (c : Cmd) (n k : Nat) (bs : List Byte) : Canon s (msuPort s c n k bs) := refl s

theorem msuPerform (s : State) (f : Nat) : Canon s (msuPerform s f) := by
  unfold Machine.msuPerform
  split
  · exact refl s
  · dsimp only
    split
    · exact ite (cmdFault _ _ _ _ _ _ _ _) (((leaveSq _ _ _).trans (setField _ _ _)).trans (msuPort _ _ _ _ _))
    · exact ite (cmdFault _ _ _ _ _ _ _ _) ((leaveSq _ _ _).trans (msuPort _ _ _ _ _))
    · split
      · exact cmdFault _ _ _ _ _ _ _ _
      · exact ((setField _ _ _).trans (leaveSq _ _ _)).trans (finishCmd _ _ _ _)

theorem sldSecond (s : State) (f k : Nat) : Canon s (sldSecond s f k) := by
  unfold Machine.sldSecond
  split
  · exact refl s
  · split
    · split
      · exact refl s
      · exact ite (refl s) ((setField _ _ _).trans (finishAccess _ _ _ _))
    · exact setField _ _ _

end Canon

end Sys2Proof.Machine

end

section

namespace Sys2Proof.Machine

namespace Canon

/-! ### Accesses and buffers -/

theorem walkSlot (s : State) (x : Nat) : Canon s (walkSlot s x) := (Stored.walkSlot _ _).canon
theorem performPart (s : State) (x k : Nat) (e : Ecc) : Canon s (performPart s x k e) := (Stored.performPart _ _ _ _).canon
theorem bufferEdge (s : State) (f : Nat) : Canon s (bufferEdge s f) := (Held.bufferEdge _ _).canon

/-! ### Nodes of a kernel graph (R32 to R36, R398) -/

theorem permit (s : State) (g : Nat) (p : Option Nat) (k i j : Nat) : Canon s (permit s g p k i j) := refl s
theorem finishNode (s : State) (g n : Nat) (r : Option Token) : Canon s (finishNode s g n r) := modNode _ _ _ _
theorem dropNode (s : State) (g n : Nat) : Canon s (dropNode s g n) := modGraph _ _ _
theorem pipeIssue (s : State) (g n : Nat) (r : List Byte) (a b : List Nat) : Canon s (pipeIssue s g n r a b) :=
  (modNode _ _ _ _).trans (fold _ (fun _ _ => permit _ _ _ _ _ _) _ _)
theorem condPoison (s : State) (a : GraphSt) (nd : Node) : Canon s (condPoison s a nd) := postRec _ _ _

theorem condChoose (s : State) (a : GraphSt) (nd : Node) (p : Token) : Canon s (condChoose s a nd p) := by
  unfold Machine.condChoose
  refine trans (modNode s a.id nd.id fun b => { b with st := .cond p }) (ite (condPoison _ _ _) (ite (finishNode _ _ _ _) (ite ?_ (permit _ _ _ _ _ _))))
  split
  · exact finishNode _ _ _ _
  · exact (dropNode _ _ _).trans (finishNode _ _ _ _)

theorem startNode (s : State) (a : GraphSt) (nd : Node) (r : List Byte) : Canon s (startNode s a nd r) := by
  unfold Machine.startNode
  dsimp only
  split
  · exact (modNode _ _ _ _).trans (permit _ _ _ _ _ _)
  · exact (modNode _ _ _ _).trans (ite (finishNode _ _ _ _) (pipeIssue _ _ _ _ _ _))
  · exact (modNode _ _ _ _).trans (fold _ (fun _ _ => permit _ _ _ _ _ _) _ _)
  · split
    · exact refuse _ _ _
    · exact (modNode _ _ _ _).trans (condChoose _ _ _ _)
  · exact modNode _ _ _ _
  · exact (modNode _ _ _ _).trans (finishNode _ _ _ _)
  · exact ite ((modNode _ _ _ _).trans (finishNode _ _ _ _)) (modNode _ _ _ _)

theorem parentActs (s : State) (a : GraphSt) (nd : Node) : Canon s (parentActs s a nd) := by
  unfold Machine.parentActs
  refine trans (dropNode s a.id nd.id) ?_
  dsimp only
  split
  · exact endGraph _ _ _ _ _
  · split
    · exact refl _
    · split
      · exact ite ((modNode _ _ _ _).trans (permit _ _ _ _ _ _)) (ite (finishNode _ _ _ _) ((modNode _ _ _ _).trans (permit _ _ _ _ _ _)))
      · exact ite (finishNode _ _ _ _) (pipeIssue _ _ _ _ _ _)
      · exact ite (finishNode _ _ _ _) (modNode _ _ _ _)
      · exact finishNode _ _ _ _
      · split
        · exact (dropNode _ _ _).trans (modGraph _ _ _)
        · exact ((dropNode _ _ _).trans (modSection _ _ _ _)).trans (modGraph _ _ _)
      · exact refl _

/-- The sequencer's reads, as a variable: with their own body the kernel would run a read where it compares two states. -/
theorem runs (α : Type) : ∃ run, run = @runRd α ∧ ∀ {m}, Rd.Keeps Canon m → ∀ s, Canon s (run m s).2 := ⟨_, rfl, fun h => h⟩

/-- Unfolded as a function: where it is applied, comparing it with its body makes the kernel run the reading. -/
theorem readNode (s : State) (a : GraphSt) (nd : Node) : Canon s (readNode s a nd) := by
  have hnode : Machine.readNode = Machine.readNode := rfl
  conv at hnode => rhs; delta Machine.readNode
  obtain ⟨run, hr, hrun⟩ := runs (List Byte)
  rw [hnode, ← hr]
  refine trans (task s nd.id) ?_
  have h := hrun (reads.readKg (graphHome (s.task nd.id) a) (recGraph a.rcd) nd.idx) (s.task nd.id)
  dsimp only
  generalize run (Machine.readKg (graphHome (s.task nd.id) a) (recGraph a.rcd) nd.idx) (s.task nd.id) = p at h ⊢
  obtain ⟨e | r, u⟩ := p
  · cases e with
    | wait => exact stillAsks _ _ _
    | _ => exact h.trans (refuse _ _ _)
  · exact h.trans (ite (startNode _ _ _ _) (refuse _ _ _))

theorem startHandler (s : State) (a : GraphSt) (nd : Node) : Canon s (startHandler s a nd) := by
  unfold Machine.startHandler
  split
  · exact refl s
  · rename_i h hs _
    obtain ⟨run, hr, hrun⟩ := runs (List Byte × Nat)
    rw [← hr]
    refine ite (refl s) (trans (task s nd.id) ?_)
    have k := hrun (reads.readHandler a nd h.idx) (s.task nd.id)
    dsimp only
    split <;> rename_i he <;> rw [he] at k
    · exact stillAsks _ _ _
    · exact k.trans (refuse _ _ _)
    · exact k.trans (of_mem rfl)

theorem execNodeDone (g n : Nat) (s : State) : Next s (execNodeDone g n s) := by
  unfold Machine.execNodeDone
  dsimp only [Next]
  split
  · exact refl s
  · refine ite (refl s) ?_
    split
    · exact refl s
    · refine ite (parentActs _ _ _) ?_
      split
      · exact readNode _ _ _
      · exact ite (startHandler _ _ _) (refl s)
      · exact refl s

theorem execSpawnNodePush (g n : Nat) (s : State) : Next s (execSpawnNodePush g n s) := by
  unfold Machine.execSpawnNodePush
  have hread := readStored
  obtain ⟨read, hr⟩ : ∃ read, read = Machine.readStored := ⟨_, rfl⟩
  rw [← hr] at hread ⊢
  dsimp only [Next]
  split
  · exact refl s
  · rename_i a _
    split
    · exact refl s
    · rename_i nd _
      refine ite (refl s) (trans ((by_ s (seqSource (graphHome s a))).trans (task _ n)) ?_)
      have h := hread ((s.by (seqSource (graphHome s a))).task n) (graphHome s a) (64 * graphHome s a) (kgArg nd.rcd)
      split <;> rename_i he <;> rw [he] at h
      · exact stillAsks _ _ _
      · exact h.trans (postRec _ _ _)
      · exact ite (h.trans (killGraph _ _ _)) (ite (refl _) (h.trans (((markStamp _ _).trans (lqPush _ _ _ _ _)).trans (finishNode _ _ _ _))))

/-! ### Sections (R36 to R39, R50) -/

theorem commitTile (g : GraphSt) (n : Node) (s : State) (a : TileLoad) : Canon s (commitTile g n s a) := refl s

theorem commitSection (s : State) (g : GraphSt) (n : Node) (p : SecLoad) : Canon s (commitSection s g n p) :=
  (fold _ (commitTile _ _) _ _).trans (modSection _ _ _ _)

theorem execSectionLoad (g n : Nat) (s : State) : Next s (execSectionLoad g n s) := by
  unfold Machine.execSectionLoad
  obtain ⟨run, hr, hrun⟩ := runs SecLoad
  rw [← hr]
  dsimp only [Next]
  split
  · exact refl s
  · rename_i a _
    split
    · exact refl s
    · rename_i nd _
      split
      · exact refl s
      · refine ite (refl s) (trans (task s n) ?_)
        have h := hrun (reads.readSection a nd) (s.task n)
        split <;> rename_i he <;> rw [he] at h
        · exact h.trans (commitSection _ _ _ _)
        · exact stillAsks _ _ _
        · exact h.trans (refuse _ _ _)

theorem pushLink (s : State) (l : Nat) (e : Entry) (b : Bool) : Canon s (pushLink s l e b) := refl s

theorem execEntryTokenDelivery (g n ep : Nat) (s : State) : Next s (execEntryTokenDelivery g n ep s) := by
  unfold Machine.execEntryTokenDelivery
  dsimp only [Next]
  split
  · exact refl s
  · split
    · exact refl s
    · exact ite (refl s) ((pushLink _ _ _ _).trans (modSection _ _ _ _))

theorem leaveTiles (s : State) (ts : List Nat) : Canon s (leaveTiles s ts).1 := refl s
theorem dropPanels (s : State) (ts : List Nat) : Canon s (dropPanels s ts) := refl s
theorem closeRegions (s : State) (ts : List Nat) : Canon s (closeRegions s ts) := fold _ (fun s _ => ite (closeRegion _ _) (refl s)) _ _
theorem voidWatchdog (s : State) (a : GraphSt) (n : Nat) : Canon s (voidWatchdog s a n) := mapRecs _ _ _
theorem releaseHolds (s : State) (g t : Nat) : Canon s (releaseHolds s g t) := (Stored.releaseHolds _ _ _).canon

theorem endSection (s : State) (a : GraphSt) (n : Nat) (c : Section) : Canon s (endSection s a n c) :=
  (((((fold _ (fun _ _ => releaseHolds _ _ _) _ _).trans (closeRegions _ _)).trans (dropPanels _ _)).trans (leaveTiles _ _)).trans
    (modGraph _ _ _)).trans (voidWatchdog _ _ _)

theorem execSectionDone (g n : Nat) (s : State) : Next s (execSectionDone g n s) := by
  unfold Machine.execSectionDone
  dsimp only [Next]
  split
  · exact refl s
  · split
    · exact refl s
    · split
      · exact refl s
      · refine ite (refl s) (ite ?_ (ite (refl s) (((by_ _ _).trans (endSection _ _ _ _)).trans (finishNode _ _ _ _))))
        split
        · exact refl s
        · exact ((((closeRegions _ _).trans (dropPanels _ _)).trans (leaveTiles _ _)).trans (voidWatchdog _ _ _)).trans (finishNode _ _ _ _)

theorem execWatchdog (g n : Nat) (s : State) : Next s (execWatchdog g n s) := by
  unfold Machine.execWatchdog
  dsimp only [Next]
  split
  · exact refl s
  · split
    · exact refl s
    · exact ite (refl s) ((postRec _ _ _).trans (modSection _ _ _ _))

theorem drain (s : State) (a : GraphSt) (k : Nat) : Canon s (drain s a k) := (mapRecs _ _ _).trans (endGraph _ _ _ _ _)

theorem execTlimExpiry (g n : Nat) (s : State) : Next s (execTlimExpiry g n s) := by
  unfold Machine.execTlimExpiry
  dsimp only [Next]
  split
  · exact refl s
  · split
    · exact refl s
    · split
      · exact refl s
      · exact ite (refl s) (drain _ _ _)

/-! ### Deliveries and checks of a slot (R97, R161 to R165, R354) -/

theorem startDeferred (s : State) (x : Nat) : Canon s (startDeferred s x) := refl s

theorem execDeferredStart (x : Nat) (s : State) : Next s (execDeferredStart x s) := ite (refl s) (refl s)

theorem heldFault (s : State) (x : Nat) (r : Result) (c : Nat) (d : DWord) : Canon s (heldFault s x r c d) := by
  unfold Machine.heldFault
  dsimp only
  split
  · exact refl s
  · exact (setSlot _ _ _).trans (raiseFault _ _ _)

theorem deliverResult (s : State) (x : Nat) : Canon s (deliverResult s x) := (Held.deliverResult _ _).canon
theorem emitOut (s : State) (x : Nat) : Canon s (emitOut s x) := (Held.emitOut _ _).canon

theorem execOverrunCapture (x : Nat) (s : State) : Next s (execOverrunCapture x s) := by
  unfold Machine.execOverrunCapture
  dsimp only [Next]
  split
  · exact refl s
  · exact ite (refl s) (ite (((setTile _ _ _).trans (setSlot _ _ _)).trans (heldFault _ _ _ _ _)) ((setTile _ _ _).trans (deliverResult _ _)))

theorem execResultDelivery (x : Nat) (s : State) : Next s (execResultDelivery x s) := by
  unfold Machine.execResultDelivery
  dsimp only [Next]
  split
  · exact emitOut _ _
  · refine ite (refl s) ?_
    split
    · exact deliverResult _ _
    · exact deliverResult _ _
    · exact ite (refl s) (heldFault _ _ _ _ _)
    · exact emitOut _ _
    · exact refl s

theorem execCheckerMismatch (x : Nat) (b : Bool) (s : State) : Next s (execCheckerMismatch x b s) :=
  ite (ite (setSlot _ _ _) (refl s)) (ite (setField _ _ _) (refl s))

end Canon

end Sys2Proof.Machine

end

section

namespace Sys2Proof.Machine

namespace Canon

/-! ### A graph's memory at its end (R184, R196, R209) -/

theorem performRcbs (s : State) (f : Nat) (sel : RcbEntry → Bool) : Canon s (performRcbs s f sel) := (Stored.performRcbs _ _ _).canon

theorem writeBackRect (s : State) (fs : List Nat) : Canon s (writeBackRect s fs) :=
  fold _ (fun _ _ => (performRcbs _ _ _).trans (Stored.writeBackAll _ _ _ _).canon) _ _

theorem touchStores (s : State) (fs : List Nat) (b : Bool) : Canon s (touchStores s fs b) :=
  fold _ (fun _ _ => fold _ (fun _ _ => storeTouch _ _ _ _) _ _) _ _

theorem writeArea (s : State) (g : GraphSt) (k : Nat) : Canon s (writeArea s g k) := by
  refine (by_ _ _).trans (fold _ (fun s p => ite ?_ (refl s)) _ _)
  exact (ite (Stored.l2Read _ _ _ _ _).canon (storeTouch _ _ _ _)).trans (homeWrite _ _ _ _)

theorem saved (s : State) (vs : List Saved) : Canon s { s with saved := vs } := refl s

theorem saveArea (s : State) (g : GraphSt) (k : Nat) : Canon s (saveArea s g k) := by
  unfold Machine.saveArea
  split
  · exact refl s
  · exact (((by_ _ _).trans (touchStores _ _ _)).trans (saved _ _)).trans (writeArea _ _ _)

theorem finishGraph (s : State) (g : GraphSt) (c : Compl) : Canon s (finishGraph s g c) :=
  (ite (saveArea _ _ _) (refl s)).trans (ite (Held.killDiscards _ _).canon (Held.clearGraph _ _).canon)

/-! ### A graph resumed from its saved area (R183, R184, R196) -/

theorem restoreLine (f : Nat) (s : State) (e : Nat × CLine) : Canon s (restoreLine f s e) := by
  unfold Machine.restoreLine
  dsimp only
  split
  · exact (performRcbs _ _ _).trans ((Stored.writeBackLine _ _ _ _ _).trans (Stored.ensureLine _ _ _)).canon
  · exact ((performRcbs _ _ _).trans ((Stored.writeBackLine _ _ _ _ _).trans (Stored.ensureLine _ _ _)).canon).trans (setField _ _ _)

theorem retestConds (s : State) (g : Nat) : Canon s (retestConds s g) := by
  unfold Machine.retestConds
  split
  · exact refl s
  · refine fold _ (fun u nd => ?_) _ _
    split
    · exact ite (condPoison _ _ _) (refl u)
    · exact refl u

theorem recheckTile (g : GraphSt) (t : Nat) (s : State) : Canon s (recheckTile g t s) :=
  ite (refl s) ((setTile _ _ _).trans (modGraph _ _ _))

theorem emitSkip (s : State) (x : Nat) (i : Instr) (toks : List Token) : Canon s (emitSkip s x i toks) :=
  ite (refl s) (((Held.nextId _ _).trans (Held.queueOut _ _ _)).trans (Held.emitOut _ _)).canon

theorem completeTrap (s : State) (x : Nat) (i : Instr) : Canon s (completeTrap s x i) := (fired _ _ _).trans (emitSkip _ _ _ _)

theorem resumeTraps (m : Moves) (old : SMap SlotSt) (s : State) : Canon s (resumeTraps m old s) := by
  refine fold _ (fun u e => ?_) _ _
  dsimp only
  split
  · exact refl u
  · refine ite ?_ (refl u)
    split
    · exact completeTrap _ _ _
    · exact refl u

/-- Bytes laid over the rest of a memory, one cell after another. -/
theorem wf_puts (place : Nat → Nat) :
    ∀ (cs : List Host.Cell) (m : List Host.Cell), Memory.wf m = true →
      Memory.wf (cs.foldl (fun a c => Memory.put a (place c.1) c.2) m) = true
  | [], _, h => h
  | c :: cs, m, h => wf_puts place cs _ (Memory.wf_put m (place c.1) c.2 h)

/-- Tables replaced, and bytes laid over what is left of memory. -/
theorem relaid (s : State) (place : Nat → Nat) (cs : List Host.Cell) (q : Host.Cell → Bool) (tiles : SMap TileSt) (slots : SMap SlotSt)
    (links : SMap Link) :
    Canon s { s with
      tiles := tiles, slots := slots, links := links
      mem := cs.foldl (fun a c => Memory.put a (place c.1) c.2) (s.mem.filter q) } :=
  fun h => wf_puts place cs _ (Memory.wf_filter q s.mem h)

theorem restoreArea (s : State) (g : GraphSt) (v : Saved) : Canon s (restoreArea s g v) := by
  unfold Machine.restoreArea
  exact (((((((by_ _ _).trans (touchStores _ _ _)).trans (relaid _ _ _ _ _ _ _)).trans
    (fold _ (fun _ _ => (setField _ _ _).trans (fold _ (restoreLine _) _ _)) _ _)).trans (modGraph _ _ _)).trans
    (fold _ (fun _ _ => recheckTile _ _ _) _ _)).trans (retestConds _ _)).trans (resumeTraps _ _ _)

end Canon

end Sys2Proof.Machine

end

section

namespace Sys2Proof.Machine

namespace Canon

/-! ### The arbiter's pass (R183, R196, R318 to R322, R326) -/

theorem heads : ∃ head, head = Machine.lqHead ∧ ∀ s q l, Canon s (head s q l).1 := ⟨_, rfl, fun s q l => (Stored.lqHead s q l).canon⟩

theorem queueCands (b q : Nat) : ∀ (ls : List (Nat × LqSt)) (s : State), Canon s (queueCands b q s ls).1
  | [], s => refl s
  | (n, l) :: ls, s => by
    unfold Machine.queueCands
    obtain ⟨head, hh, hhead⟩ := heads
    rw [← hh]
    split
    · exact (hhead s q l).trans (queueCands b q ls _)
    · exact queueCands b q ls s

theorem quarterCands (b : Nat) : ∀ (qs : List Nat) (s : State), Canon s (quarterCands b s qs).1
  | [], s => refl s
  | q :: qs, s => by
    unfold Machine.quarterCands
    exact (queueCands b q _ s).trans (quarterCands b qs _)

theorem candidates (s : State) (q : Nat) : Canon s (candidates s q).1 := (by_ _ _).trans (quarterCands _ _ _)

theorem modWait (s : State) (c : Cand) (f : Nat → Bool → Nat × Bool) : Canon s (modWait s c f) := ite (modQuarter _ _ _) (setLq _ _ _ _)

theorem markBlocking (s : State) (cs : List Cand) : Canon s (markBlocking s cs) :=
  fold _ (fun s _ => ite (modWait _ _ _) (refl s)) _ _

theorem bypass (b : Nat) (s : State) (c : Cand) : Canon s (bypass b s c) := modWait _ _ _

theorem takeCand (s : State) (c : Cand) : Canon s (takeCand s c) :=
  ite (modQuarter _ _ _) (ite (Stored.lqPop _ _ _ _).canon (refl s))

theorem postSoon (s : State) (q n : Nat) (r : FRec) : Canon s (postSoon s q n r) := (Held.postSoon _ _ _ _).canon

theorem removeCand (s : State) (q : Nat) (c : Cand) (e : LoadErr) : Canon s (removeCand s q c e) := by
  cases e with
  | read _ | unsupported _ => exact ((postSoon _ _ _ _).trans (takeCand _ _)).trans (queueCompl _ _ _)
  | wait | status _ | graph _ | tile _ _ _ _ _ => exact (takeCand _ _).trans (queueCompl _ _ _)

theorem zeroRanks (q : Nat) (s : State) (e : BitVec 128) : Canon s (zeroRanks q s e) :=
  fold _ (fun _ _ => fold _ (fun _ _ => setBytes _ _ _) _ _) _ _

theorem admitField (g : Nat) (a : Admission) (s : State) (e : Nat × Nat) : Canon s (admitField g a s e) := refl s

theorem filtered (s : State) (q : Host.Cell → Bool) : Canon s { s with mem := s.mem.filter q } := fun h => Memory.wf_filter q s.mem h

theorem graphs (s : State) (gs : List GraphSt) (n : Nat) : Canon s { s with graphs := gs, nextId := n } := refl s

theorem placeCand (s : State) (q : Nat) (c : Cand) (a : Admission) (o : Nat × Nat) : Canon s (placeCand s q c a o) := by
  unfold Machine.placeCand
  dsimp only
  split
  · exact (((((takeCand _ _).trans (graphs _ _ _)).trans (fold _ (admitField _ _) _ _)).trans (filtered _ _)).trans
      (fold _ (zeroRanks _) _ _)).trans (restoreArea _ _ _)
  · exact (((((takeCand _ _).trans (graphs _ _ _)).trans (fold _ (admitField _ _) _ _)).trans (filtered _ _)).trans
      (fold _ (zeroRanks _) _ _)).trans (permit _ _ _ _ _ _)

theorem releaseRect (s : State) (g : GraphSt) : Canon s (releaseRect s g) :=
  (((fold _ (fun _ _ => setField _ _ _) _ _).trans (graphs _ _ _)).trans (markAt _ _ _)).trans (wantPass _ _)

theorem preempt (s : State) (g : GraphSt) : Canon s (preempt s g) := (Held.killDiscards _ _).canon.trans (modQuarter _ _ _)

/-- What a walk through the candidates is held to. -/
def Passed (s : State) : Except State State → Prop
  | .ok t => Canon s t
  | .error t => Canon s t

theorem Passed.after {s u : State} {r : Except State State} (h : Canon s u) (k : Passed u r) : Passed s r := by
  cases r with
  | ok | error => exact h.trans k

theorem Passed.of_eq {s t : State} {r : Except State State} (e : r = .ok t) (k : Passed s r) : Canon s t := by
  rw [e] at k
  exact k

theorem passed_ite {s : State} {a b : Except State State} {p : Prop} [Decidable p] (ha : Passed s a) (hb : Passed s b) :
    Passed s (if p then a else b) := by
  split <;> assumption

theorem passWalk (q b : Nat) : ∀ (cs above : List Cand) (s : State), Passed s (passWalk q b s above cs)
  | [], _, s => refl s
  | c :: cs, above, s => by
    unfold Machine.passWalk
    obtain ⟨run, hr, hrun⟩ := runs Admission
    rw [← hr]
    have h := (task s c.stamp.toNat).trans (hrun (reads.checkAdmission q c.rcd) (s.task c.stamp.toNat))
    generalize run (Machine.checkAdmission q c.rcd) (s.task c.stamp.toNat) = x at h ⊢
    obtain ⟨e | a, u⟩ := x
    · cases e with
      | wait => exact h
      | _ => exact Passed.after (h.trans (removeCand _ _ _ _)) (passWalk q b cs _ _)
    · refine Passed.after h ?_
      dsimp only
      split
      · exact ((placeCand _ _ _ _ _).trans (fold _ (bypass _) _ _)).trans (wantPass _ _)
      · refine passed_ite (passWalk q b cs _ _) (passed_ite ?_ (refl _))
        split
        · exact refl _
        · exact ((fold _ preempt _ _).trans (fold _ (bypass _) _ _)).trans (modQuarter _ _ _)

theorem endPlacing (s : State) (q : Nat) (p : Placing) : Canon s (endPlacing s q p) :=
  (((modQuarter _ _ _).trans (fold _ releaseRect _ _)).trans (placeCand _ _ _ _ _)).trans (wantPass _ _)

theorem execArbiterPass (q : Nat) (s : State) : Next s (execArbiterPass q s) := by
  unfold Machine.execArbiterPass
  dsimp only [Next]
  split
  · exact ite (refl s) ((markAt _ _ _).trans (endPlacing _ _ _))
  · exact refl s
  · refine ite (refl s) ?_
    split <;> rename_i he
    · exact Passed.of_eq he (Passed.after ((((markAt _ _ _).trans (modQuarter _ _ _)).trans (candidates _ _)).trans
        (markBlocking _ _)) (passWalk _ _ _ _ _))
    · exact stillAsks _ _ _

/-! ### Completions (R194, R196, R322, R328, R329) -/

theorem settleGraph (s : State) (g : GraphSt) : Canon s (settleGraph s g) :=
  (fold _ (fun s _ => ite (closeRegion _ _) (refl s)) _ _).trans (fold _ (fun _ _ => releaseHolds _ _ _) _ _)

theorem settleCaches (s : State) (g : GraphSt) (c : Compl) : Canon s (settleCaches s g c) := ite (writeBackRect _ _) (settleGraph _ _)

theorem writeEntry (s : State) (q a : Nat) (bs : List Byte) : Canon s (writeEntry s q a bs) := (Stored.writeEntry _ _ _ _).canon

theorem postCompl (s : State) (q : Nat) (c : Compl) : Canon s (postCompl s q c) :=
  (((((ite (refl s) (markStamp _ _)).trans (markAt _ _ _)).trans (by_ _ _)).trans (writeEntry _ _ _ _)).trans (modQuarter _ _ _)).trans
    (raiseCint _ _ _)

theorem postOne (s : State) (q : Nat) (c : Compl) : Canon s (postOne s q c) := by
  unfold Machine.postOne
  dsimp only
  split
  · exact (modQuarter _ _ _).trans (postCompl _ _ _)
  · exact ite (settleCaches _ _ _) (((((modQuarter _ _ _).trans (by_ _ _)).trans (finishGraph _ _ _)).trans (postCompl _ _ _)).trans
      (releaseRect _ _))

theorem stampCompl (s : State) (q : Nat) (c : Compl) : Canon s (stampCompl s q c) := (markStamp _ _).trans (modQuarter _ _ _)

theorem execCompletionPost (q : Nat) (s : State) : Next s (execCompletionPost q s) := by
  unfold Machine.execCompletionPost
  dsimp only [Next]
  split
  · exact stampCompl _ _ _
  · exact refl s
  · exact ite (postOne _ _ _) (refl s)

theorem postFreed (l q : Nat) : ∀ (n : Nat) (s : State), Canon s (postFreed l q n s)
  | 0, s => refl s
  | n + 1, s => by
    unfold Machine.postFreed
    split
    · exact refl s
    · exact ite (refl s) ((postOne _ _ _).trans (postFreed l q n _))

theorem freeHeld (s : State) (q : Nat) : Canon s (freeHeld s q) := (modQuarter _ _ _).trans (postFreed _ _ _ _)

end Canon

end Sys2Proof.Machine

end

section

namespace Sys2Proof.Machine

namespace Canon

/-! ### Xpyraro instructions (R317, R330, R370 to R385) -/

/-- What the effect of an Xpyraro instruction is held to. -/
def Gives (s : State) : XRes → Prop
  | .wait t => Canon s t
  | .trap t _ _ => Canon s t
  | .val t _ => Canon s t

theorem gives_of_kept {s : State} {r : XRes} (h : Kept.Gives s r) : Gives s r := by
  cases r with
  | wait | trap | val => exact Kept.canon h

theorem gives_ite {s : State} {a b : XRes} {p : Prop} [Decidable p] (ha : Gives s a) (hb : Gives s b) : Gives s (if p then a else b) := by
  split <;> assumption

theorem Gives.after {s u : State} {r : XRes} (h : Canon s u) (k : Gives u r) : Gives s r := by
  cases r with
  | wait | trap | val => exact h.trans k

theorem takeTrap (s : State) (c n : Nat) (v : DWord) : Canon s (takeTrap s c n v) := refl s

theorem xRun {s : State} {i : Instr} {rd : BitVec 5} {ok : Bool} {r : XRes} (h : Gives s r) : Next s (xRun s i rd ok r) := by
  refine ite (refl s) (ite (takeTrap _ _ _ _) ?_)
  cases r with
  | wait t => exact h
  | trap t n a => exact trans h (takeTrap _ _ _ _)
  | val t v => exact trans h (setCore _ _ _)

/-- A read of the core's, its value carried on. -/
theorem xRead (s : State) (a n : Nat) (k : State → List Byte → XRes) (hk : ∀ u bs, Gives u (k u bs)) : Gives s (xRead s a n k) := by
  unfold Machine.xRead
  have h := Kept.coreLoad s s.core a n .clean
  generalize coreLoad s s.core a n .clean = r at h ⊢
  cases r with
  | wait t => exact Kept.canon h
  | trap t c => exact Kept.canon h
  | ok t v => exact Gives.after (Kept.canon h) (hk _ _)

theorem xPush (s : State) (q n : Nat) (b : Bool) (r : List Byte) : Gives s (xPush s q n b r) := gives_of_kept (Kept.xPush _ _ _ _ _)

theorem xLaunch (s : State) (a b : DWord) : Gives s (xLaunch s a b) := by
  refine gives_ite (refl s) ?_
  dsimp only
  split
  · exact refl s
  · exact gives_ite (refl s) (gives_ite (refl s) (xRead _ _ _ _ fun _ _ => gives_ite (xRead _ _ _ _ fun _ _ => xPush _ _ _ _ _)
      (xPush _ _ _ _ _)))

theorem readOwn (s : State) (q a n : Nat) : Canon s (readOwn s q a n).1 := (Stored.readOwn _ _ _ _).canon

theorem xScan (s : State) (a : DWord) : Gives s (xScan s a) := by
  unfold Machine.xScan
  exact gives_ite (refl s) (gives_ite (refl s) (gives_ite (readOwn _ _ _ _) (readOwn _ _ _ _)))

theorem xPriority (s : State) (a b : DWord) : Gives s (xPriority s a b) := by
  unfold Machine.xPriority
  split
  · exact refl s
  · exact gives_ite (refl s) (gives_ite (refl s) ((setLq _ _ _ _).trans (wantPass _ _)))

theorem xStatus (s : State) (a : DWord) : Gives s (xStatus s a) := by
  unfold Machine.xStatus
  split <;> exact refl s

theorem repost (s : State) (q : Nat) : Canon s (repost s q) := (Held.repost _ _).canon
theorem homePut (s : State) (a : Nat) (bs : List Byte) : Canon s (homePut s a bs) := (Stored.homePut _ _ _).canon

theorem xPop (s : State) (a : DWord) : Gives s (xPop s a) := by
  unfold Machine.xPop
  dsimp only
  split
  · exact refl s
  · exact gives_ite (refl s) (gives_ite (refl s) (gives_ite (refl s)
      ((((markAt _ _ _).trans (homePut _ _ _)).trans (modQuarter _ _ _)).trans (repost _ _))))

theorem retireRec (s : State) (q k : Nat) : Canon s (retireRec s q k) := modQuarter _ _ _
theorem resolveSource (s : State) (r : FRec) (b : Bool) : Canon s (resolveSource s r b) := refl s
theorem markResolve (s : State) (r : FRec) : Canon s (markResolve s r) := markAt _ _ _
theorem noteRetry (s : State) (q : Nat) (r : FRec) : Canon s (noteRetry s q r) := modQuarter _ _ _

theorem xResolve (s : State) (a b : DWord) : Gives s (xResolve s a b) := by
  refine gives_ite (refl s) ?_
  dsimp only
  split
  · exact refl s
  · exact gives_ite (refl s) (gives_ite ((retireRec _ _ _).trans (killGraph _ _ _))
      ((((retireRec _ _ _).trans (noteRetry _ _ _)).trans (markResolve _ _)).trans (resolveSource _ _ _)))

theorem xJournal (s : State) (a : DWord) : Gives s (xJournal s a) :=
  gives_ite (refl s) (gives_ite (refl s) (gives_ite (refl s) (xRead _ _ _ _ fun _ _ => (writeEntry _ _ _ _).trans (modQuarter _ _ _))))

theorem xBeat (s : State) (a : DWord) : Canon s (xBeat s a) :=
  ite (refl s) ((modQuarter _ _ _).trans (ite (freeHeld _ _) (refl _)))

theorem xTakeOver (s : State) : Gives s (xTakeOver s) := gives_ite (modQuarter _ _ _) (refl s)

theorem markCheck (s : State) (q : Nat) : Canon s (markCheck s q) := (markAt _ _ _).trans (markAt _ _ _)

theorem xQuiesce (s : State) (a : DWord) : Gives s (xQuiesce s a) := by
  unfold Machine.xQuiesce
  split
  · exact refl s
  · exact gives_ite (refl s) (gives_ite (fold _ markCheck _ _) (trans (fold _ markCheck _ _) (fold _ (fun _ _ => modQuarter _ _ _) _ _)))

theorem xStageIl (s : State) (a b : DWord) : Gives s (xStageIl s a b) := gives_ite (refl s) (modQuarter _ _ _)
theorem xStageBnd (s : State) (a b : DWord) : Gives s (xStageBnd s a b) := gives_ite (refl s) (modQuarter _ _ _)

theorem emptyTranslations (s : State) (qs : List Nat) : Canon s (emptyTranslations s qs) :=
  (fold _ (fun s _ => ite (setField _ _ _) (refl s)) _ _).trans (fold _ (fun s _ => ite (setTile _ _ _) (refl s)) _ _)

theorem xShoot (s : State) (a : DWord) : Gives s (xShoot s a) := gives_ite (refl s) (gives_ite (refl s) (emptyTranslations _ _))

theorem moveCompl (s : State) (qs : List Nat) : Canon s (moveCompl s qs) := fold _ (fun _ _ => modQuarter _ _ _) _ _
theorem commitQuarter (s : State) (q : Nat) : Canon s (commitQuarter s q) := modQuarter _ _ _

theorem commitQuarters (s : State) (qs : List Nat) : Canon s (commitQuarters s qs) :=
  ((fold _ (fun _ _ => (Stored.l2WriteBack _ _).canon) _ _).trans (fold _ commitQuarter _ _)).trans
    (fold _ (fun s _ => ite (setDie _ _ _) (refl s)) _ _)

theorem xCommit (s : State) (a : DWord) : Gives s (xCommit s a) := by
  unfold Machine.xCommit
  split
  · exact refl s
  · exact gives_ite (refl s) (gives_ite (refl s) (gives_ite (refl s)
      ((((commitQuarters _ _).trans (emptyTranslations _ _)).trans (moveCompl _ _)).trans (fold _ (fun _ _ => modQuarter _ _ _) _ _))))

theorem xReadLong (k : State → List Byte → XRes) (hk : ∀ u bs, Gives u (k u bs)) :
    ∀ (fuel n a : Nat) (acc : List Byte) (s : State), Gives s (xReadLong s a fuel n acc k)
  | 0, _, _, _, _ => hk _ _
  | _ + 1, 0, _, _, _ => hk _ _
  | fuel + 1, _ + 1, _, _, _ => xRead _ _ _ _ fun _ _ => xReadLong k hk fuel _ _ _ _

theorem xVerify (s : State) (a : DWord) : Gives s (xVerify s a) := by
  unfold Machine.xVerify
  exact xRead _ _ _ _ fun u _ => gives_ite (refl u) (xRead _ _ _ _ fun _ _ => xReadLong _ (fun v _ => by exact refl v) _ _ _ _ _)

/-! ### Cores, register space and the module (R20, R296, R341 to R343, R372, R383 to R389) -/

theorem execControlCoreAccess (c : Nat) (e : Ecc) (s : State) : Next s (execControlCoreAccess c e s) := by
  refine ite (refl s) ?_
  split
  · exact ite (Kept.coreAccess _ _ _ _ _).canon (refl s)
  · exact refl s

theorem imemTrap (s : State) (c : Nat) : Canon s (imemTrap s c) := (Kept.imemTrap _ _).canon

theorem execControlCoreInstruction (c : Nat) (e : Ecc) (s : State) : Next s (execControlCoreInstruction c e s) := by
  refine ite (refl s) (ite (setCore _ _ _) ?_)
  split
  · exact takeTrap _ _ _ _
  · exact imemTrap _ _
  · exact ite (imemTrap _ _) (takeTrap _ _ _ _)
  · exact ite (imemTrap _ _) (Kept.coreWord _ _ _ _ _).canon

theorem tags (s : State) (m : SMap Nat) : Canon s { s with tags := m } := refl s

theorem execRelayoutComplete (d : Nat) (s : State) : Next s (execRelayoutComplete d s) :=
  ite (refl s) ((((fold _ (fun _ _ => (Stored.eccOutcome _ _ _).canon) _ _).trans
    (fold _ (fun _ _ => (Stored.encodeGranule _ _ _ _).canon) _ _)).trans (tags _ _)).trans (modDie _ _ _))

theorem bootNote (s : State) (a b : Nat) : Canon s (bootNote s a b) := refl s

theorem sendFlits (s : State) : Canon s (sendFlits s) := fold _ (fun _ _ => setDie _ _ _) _ _

theorem bringUp (s : State) (a : BringUp) : Canon s (bringUp s a) := by
  cases a with
  | reset => exact fun _ => Memory.wf_nil
  | fuse => exact ite (refl s) (refl s)
  | firmware => exact ite (refl s) (ite (bootNote _ _ _) ((bootNote _ _ _).trans (setCore _ _ _)))
  | ghl => exact ite (bootNote _ _ _) (refl s)
  | stack => exact ite (bootNote _ _ _) (refl s)
  | sync => exact ite (ite ((bootNote _ _ _).trans (sendFlits _)) (bootNote _ _ _)) (refl s)
  | release =>
    exact ite (((bootNote _ _ _).trans (setCore _ _ _)).trans (ite (modQuarter _ _ _) (refl _))) (refl s)
  | ports => exact ite (bootNote _ _ _) (refl s)
  | running => exact ite ((bootNote _ _ _).trans (setCore _ _ _)) (refl s)

theorem execUeLinkTraining (d k : Nat) (n : BitVec 8) (s : State) : Next s (execUeLinkTraining d k n s) := ite (setDie _ _ _) (refl s)

theorem execVoltageClassChange (f : Nat) (c : VClass) (s : State) : Next s (execVoltageClassChange f c s) := ite (refl s) (setField _ _ _)

theorem execLeakTick (d k : Nat) (s : State) : Next s (execLeakTick d k s) := by
  unfold Machine.execLeakTick
  refine ite (refl s) ?_
  dsimp only
  split
  · exact (modDie _ _ _).trans (modDie _ _ _)
  · exact (modDie _ _ _).trans (modDie _ _ _)
  · exact (modDie _ _ _).trans (fold _ (fun s _ => ite (setField _ _ _) (refl s)) _ _)

theorem execGhlFlitRetry (d k : Nat) (s : State) : Next s (execGhlFlitRetry d k s) := ite (bucketAdd _ _ _ _) (refl s)

theorem execUncorrectableCodeword (d k : Nat) (s : State) : Next s (execUncorrectableCodeword d k s) := ite (setDie _ _ _) (refl s)

theorem execGcycSyncFlit (s : State) : Next s (execGcycSyncFlit s) := by
  unfold Machine.execGcycSyncFlit
  dsimp only [Next]
  split
  · exact refl s
  · exact setDie _ _ _

theorem execHeartbeatLapse (s : State) : Next s (execHeartbeatLapse s) := by
  unfold Machine.execHeartbeatLapse
  dsimp only [Next]
  split
  · exact refl s
  · exact (Kept.lapse _ _).canon

end Canon

end Sys2Proof.Machine

end

section

namespace Sys2Proof.Machine

namespace Canon

/-! ### The whole table of instructions -/

theorem execStb (t1 t0 : Target) (s : State) : Next s (execStb t1 t0 s) := ite (stbStep _ _ _) (refl s)

theorem execCtnClose (t1 t0 : Target) (s : State) : Next s (execCtnClose t1 t0 s) := by
  unfold Machine.execCtnClose
  exact cmdFire (sendCmd _ _ _)

theorem execTrap (p : Pred) (i : BitVec 9) (t0 : Target) (s : State) : Next s (execTrap p i t0 s) := by
  unfold Machine.execTrap
  exact cmdFire fun u _ => refl u

theorem execTrapV (p : Pred) (t1 t0 : Target) (s : State) : Next s (execTrapV p t1 t0 s) := by
  unfold Machine.execTrapV
  exact cmdFire fun u _ => refl u

theorem execSysRd (r : SysReg) (t1 t0 : Target) (s : State) : Next s (execSysRd r t1 t0 s) := by
  unfold Machine.execSysRd
  exact cmdFire fun _ _ => emitNow _ _ _

theorem execSysRdA (d : Bool) (p : Pred) (t1 t0 : Target) (s : State) : Next s (execSysRdA d p t1 t0 s) := by
  unfold Machine.execSysRdA
  exact cmdFire fun _ _ => emitNow _ _ _

theorem execBufWait (d : Bool) (m : BitVec 2) (t1 t0 : Target) (s : State) : Next s (execBufWait d m t1 t0 s) :=
  next_ite (refl s) (fireCmd _ _ _ _)

/-- Every instruction keeps the form of the state it is carried out in. -/
theorem exec (i : Instr) (s : State) : Next s (exec i s) := by
  by_cases hi : Claims.isElement i = true
  · exact next_of fun t h => (Fires.of_exec hi h).held.canon
  cases i
  case ctnOpen => exact execCtnOpen _ _ _
  case ctnClose => exact execCtnClose _ _ _
  case trap => exact execTrap _ _ _ _
  case trapV => exact execTrapV _ _ _ _
  case halt => exact execHalt _ _
  case sysRd => exact execSysRd _ _ _ _
  case sysRdA => exact execSysRdA _ _ _ _ _
  case sysWr => exact execSysWr _ _ _ _
  case sysWrA => exact execSysWrA _ _ _ _ _
  case ld | st | pref | retain | unpin | flush => exact fireAccess _ _ _ noCheck
  case ldb | pld | pst => exact fireAccess _ _ _ _
  case redAdd | redFadd | redMin | redMax | redAnd | redOr => exact fireAccess _ _ _ _
  case amoAdd | amoFadd | amoMin | amoMax | amoAnd | amoOr | amoXor | amoSwap | amoCas => exact fireAtomic _ _ _
  case stb => exact execStb _ _ _
  case step => exact execStep _ _ _ _
  case acqX | acqS => exact fireAcquire _ _ _ _
  case rel => exact fireAction _ _ _
  case fenceF | fenceD | fenceP | fenceS => exact fireAction _ _ noCheck
  case mxGath => exact execMxGath _ _ _
  case mxCfg | mxBb | mxMma | mxZero | mxEpi | mxCpy => exact fireCmd _ _ _ _
  case cpyHead | cpyStat | wlkCfg | wlkGo | qfence | bufRel | bufStat => exact fireCmd _ _ _ _
  case slen | sld | sst | sgen | sand | sor | sxor | snot | smux | smin | smax | scnt | scntA | scvt | sregen | smov =>
    exact fireCmd _ _ _ _
  case bufWait => exact execBufWait _ _ _ _ _
  case spawn => exact execSpawn _ _ _ _
  case xlnch => exact xRun (xLaunch _ _ _)
  case xkscan => exact xRun (xScan _ _)
  case xqpri => exact xRun (xPriority _ _ _)
  case xqstat => exact xRun (xStatus _ _)
  case xfltPop => exact xRun (xPop _ _)
  case xfltRes => exact xRun (xResolve _ _ _)
  case xjnlW => exact xRun (xJournal _ _)
  case xhbt => exact xRun (r := .val _ _) (xBeat _ _)
  case xtake => exact xRun (xTakeOver _)
  case xpartQsc => exact xRun (xQuiesce _ _)
  case xpartIl => exact xRun (xStageIl _ _ _)
  case xpartBnd => exact xRun (xStageBnd _ _ _)
  case xpartSd => exact xRun (xShoot _ _)
  case xpartCommit => exact xRun (xCommit _ _)
  case xsigVer => exact xRun (xVerify _ _)
  case xrdCnt => exact xRun (r := .val s _) (refl s)
  case controlCoreAccess => exact execControlCoreAccess _ _ _
  case controlCoreInstruction => exact execControlCoreInstruction _ _ _
  case registerWrite => exact (Kept.regStore _ _ _ _).canon
  case lqcWrite => exact (Kept.lqcPut _ _ _ _).canon
  case crpWrite | jnpWrite => exact (Kept.regPut _ _ _).canon
  case retwControlWrite => exact (Kept.retwControlPut _ _ _ _).canon
  case laycGo => exact (Kept.laycStart _ _ _).canon
  case relayoutComplete => exact execRelayoutComplete _ _
  case moduleReset => exact bringUp _ _
  case ueLinkTraining => exact execUeLinkTraining _ _ _ _
  case voltageClassChange => exact execVoltageClassChange _ _ _
  case arbiterPass => exact execArbiterPass _ _
  case spawnNodePush => exact execSpawnNodePush _ _ _
  case nodeDone => exact execNodeDone _ _ _
  case sectionLoad => exact execSectionLoad _ _ _
  case entryTokenDelivery => exact execEntryTokenDelivery _ _ _ _
  case sectionDone => exact execSectionDone _ _ _
  case deferredStart => exact execDeferredStart _ _
  case overrunCapture => exact execOverrunCapture _ _
  case resultDelivery => exact execResultDelivery _ _
  case checkerMismatch => exact execCheckerMismatch _ _ _
  case translationWalk => exact walkSlot _ _
  case memoryAccessPerformed => exact performPart _ _ _ _
  case leakTick => exact execLeakTick _ _ _
  case guardGrant => exact execGuardGrant _ _ _
  case stepSwap => exact execStepSwap _ _ _
  case engineCommandPerformed => exact enginePerform _ _ _ _
  case msuCommandPerformed => exact msuPerform _ _
  case sldSecondPlace => exact sldSecond _ _ _
  case copyRecord => exact (by_ _ _).trans (copyRecordStep _ _ _)
  case watchdog => exact execWatchdog _ _ _
  case tlimExpiry => exact execTlimExpiry _ _ _
  case completionPost => exact execCompletionPost _ _
  case remoteResponse => exact execRemoteResponse _ _ _ _
  case inboundRemoteAccess => exact execInboundRemoteAccess _ _ _ _
  case ghlFlitRetry => exact execGhlFlitRetry _ _ _
  case uncorrectableCodeword => exact execUncorrectableCodeword _ _ _
  case nop => exact refl s
  case gcycSyncFlit => exact execGcycSyncFlit _
  case heartbeatLapse => exact execHeartbeatLapse _
  case remoteTimeout => exact execRemoteTimeout _
  case cvtN d _ _ => cases d <;> exact absurd rfl hi
  all_goals exact absurd rfl hi

end Canon

end Sys2Proof.Machine

end

section

namespace Sys2Proof.Machine

namespace Canon

/-! ### Firing turns, and counters through their full latches (R44, R47, R148, R159) -/

/-- What an attempt to fire is held to. -/
def Tried (s : State) (o : Option State) : Prop := ∀ t, o = some t → Canon s t

theorem tried_none (s : State) : Tried s none := fun _ h => nomatch h

theorem tried_some {s t : State} (h : Canon s t) : Tried s (some t) := fun _ e => Option.some.inj e ▸ h

theorem tried_ite {s : State} {a b : Option State} {p : Prop} [Decidable p] (ha : Tried s a) (hb : Tried s b) : Tried s (if p then a else b) := by
  split <;> assumption

theorem Tried.after {s u : State} {o : Option State} (h : Canon s u) (k : Tried u o) : Tried s o := fun t e => h.trans (k t e)

theorem Tried.getD {s : State} {o : Option State} (h : Tried s o) : Canon s (o.getD s) := by
  cases o with
  | none => exact refl s
  | some t => exact h t rfl

theorem focus (s : State) (x : Nat) : Canon s { s with foc := x } := refl s

theorem fireOnce (s : State) (x : Nat) : Tried s (fireOnce s x) := by
  unfold Machine.fireOnce
  refine Tried.after (focus s x) ?_
  dsimp only
  split
  · rename_i t ht
    obtain ⟨i, -, hexec⟩ := Option.map_eq_some_iff.mp ht
    have h := exec i { s with foc := x }
    rw [hexec] at h
    exact tried_ite (tried_none _) (tried_some (trans h (ite (setSlot _ _ _) (refl t))))
  · exact tried_none _

theorem rawFire (s : State) (x : Nat) : Tried s (rawFire s x) := by
  unfold Machine.rawFire
  split
  · rename_i t ht
    exact ht ▸ fireOnce s x
  · exact tried_ite (Tried.after (startDeferred s x) (fireOnce _ _)) (tried_none s)

theorem popHeads (s : State) (ls : List Nat) : Canon s (popHeads s ls) := fold _ (fun _ _ => setLink _ _ _) _ _
theorem pushHeads (old s : State) (ls : List Nat) : Canon s (pushHeads old s ls) := fold _ (fun _ _ => setLink _ _ _) _ _

theorem fireThrough (s : State) (x : Nat) : Tried s (fireThrough s x) := by
  refine tried_ite (fun t e => ?_) (tried_none s)
  obtain ⟨u, hu, rfl⟩ := Option.map_eq_some_iff.mp e
  exact ((popHeads _ _).trans (rawFire _ _ u hu)).trans (pushHeads _ _ _)

theorem fireTurn (x : Nat) (s : State) : Canon s (fireTurn x s) := by
  unfold Machine.fireTurn
  refine trans (focus s x) (ite (refl _) ?_)
  split
  · rename_i t ht
    exact ite (rawFire _ _ t ht) (refl _)
  · exact (fireThrough _ _).getD

/-! ### The other turns, and the edge between cycles (R47 to R53, R181, R182, R331, R358) -/

theorem runAhead (s : State) (a : Ahead) : Canon s (runAhead s a) := (Stored.runAhead _ _).canon

theorem predictTurn (x : Nat) (vs : List Word) (s : State) : Canon s (predictTurn x vs s) := by
  unfold Machine.predictTurn
  split
  · exact ite (runAhead _ _) (refl s)
  · exact refl s

theorem focusCore (s : State) (c : Nat) : Canon s { s with core := c } := refl s

theorem coreTurn (c : Nat) (w d : Ecc) (s : State) : Next s (coreTurn c w d s) :=
  Next.after (((focusCore _ _).trans (by_ _ _)).trans (markStamp _ _)) (exec _ _)

theorem freeSlot (s : State) (x : Nat) : Canon s (freeSlot s x) := refl s
theorem forgetRemotes (s : State) (x k : Nat) : Canon s (forgetRemotes s x k) := refl s
theorem forgetPage (s : State) (q va : Nat) : Canon s (forgetPage s q va) := refl s
theorem forgetLatch (s : State) (x : Nat) : Canon s (forgetLatch s x) := refl s
theorem setAccess (s : State) (x : Nat) (a : Access) : Canon s (setAccess s x a) := refl s

theorem skipFiring (s : State) (x c : Nat) : Canon s (skipFiring s x c) := by
  unfold Machine.skipFiring
  split
  · exact refl s
  · exact ite (setSlot _ _ _) (ite ((fired _ _ _).trans (emitSkip _ _ _ _)) (ite (fired _ _ _) ((fired _ _ _).trans (emitSkip _ _ _ _))))

theorem resolveFiring (s : State) (x c : Nat) (b : Bool) : Canon s (resolveFiring s x c b) := by
  unfold Machine.resolveFiring
  dsimp only
  split
  · exact freeSlot _ _
  · exact (freeSlot _ _).trans (ite (completeTrap _ _ _) (ite (skipFiring _ _ _) (refl _)))

theorem resolveAccess (s : State) (x k : Nat) (b : Bool) : Canon s (resolveAccess s x k b) := by
  unfold Machine.resolveAccess
  refine trans ((freeSlot s x).trans (forgetRemotes _ x k)) ?_
  dsimp only
  split
  · exact refl _
  · exact ite ((setField _ _ _).trans (finishAccess _ _ _ _)) ((forgetLatch _ _).trans (setAccess _ _ _))

theorem resumeChan (s : State) (f q : Nat) (b : Bool) : Canon s (resumeChan s f q b) := ite (ite (setChan _ _ _ _) (refl s)) (refl s)

theorem resolveCommand (s : State) (f q k : Nat) (b : Bool) : Canon s (resolveCommand s f q k b) := by
  unfold Machine.resolveCommand
  split
  · exact refl s
  · exact ((freeSlot _ _).trans (resumeChan _ _ _ _)).trans (ite (performedAll _ _ _ _) (modCmd _ _ _ _))

theorem resolveHeld (s : State) (x c : Nat) (b : Bool) : Canon s (resolveHeld s x c b) := by
  unfold Machine.resolveHeld
  refine trans (freeSlot s x) ?_
  dsimp only
  split
  · exact refl _
  · exact ite (deliverResult _ _) (ite (setSlot _ _ _) (setSlot _ _ _))

theorem resolveCond (s : State) (g n : Nat) (b : Bool) : Canon s (resolveCond s g n b) := by
  unfold Machine.resolveCond
  split
  · exact refl s
  · split
    · exact refl s
    · split
      · exact ite (finishNode _ _ _ _) (condChoose _ _ _ _)
      · exact refl s

theorem resolveWatchdog (s : State) (g n : Nat) : Canon s (resolveWatchdog s g n) := modSection _ _ _ _

theorem retryOrSkip (s : State) (r : FRec) (b : Bool) : Canon s (retryOrSkip s r b) := by
  unfold Machine.retryOrSkip
  dsimp only
  split
  · exact ite (forgetPage _ _ _) (refl _)
  · exact (ite (forgetPage _ _ _) (refl _)).trans (resolveFiring _ _ _ _)
  · exact (ite (forgetPage _ _ _) (refl _)).trans (resolveAccess _ _ _ _)
  · exact (ite (forgetPage _ _ _) (refl _)).trans (resolveCommand _ _ _ _ _)
  · exact (ite (forgetPage _ _ _) (refl _)).trans (resolveHeld _ _ _ _)
  · exact (ite (forgetPage _ _ _) (refl _)).trans (resolveCond _ _ _ _)
  · exact (ite (forgetPage _ _ _) (refl _)).trans (ite (finishNode _ _ _ _) (refl _))
  · exact (ite (forgetPage _ _ _) (refl _)).trans (resolveWatchdog _ _ _)

theorem settleResolution (s : State) (a : Resolution) : Canon s (settleResolution s a) := ite (retryOrSkip _ _ _) (setCore _ _ _)

theorem resolves (s : State) (rs : List Resolution) : Canon s { s with resolves := rs } := refl s

theorem resolveEdge (s : State) : Canon s (resolveEdge s) := (resolves _ _).trans (fold _ settleResolution _ _)

theorem fieldEdge (s : State) (f : Nat) : Canon s (fieldEdge s f) := (setField _ _ _).trans (bufferEdge _ _)

theorem voidDrained (s : State) (g : GraphSt) : Canon s (voidDrained s g) := mapRecs _ _ _

theorem graphEdge (s : State) (g : GraphSt) : Canon s (graphEdge s g) := by
  unfold Machine.graphEdge
  refine trans ?_ (fold _ (fun u n => ?_) _ _)
  · exact (Held.containErrs _ _).canon.trans (ite (ite (abandonWithheld _ _) (voidDrained _ _)) (refl _))
  · split
    · exact refl u
    · exact ite (modSection _ _ _ _) (refl u)

theorem dieEdge (s : State) (d : Nat) : Canon s (dieEdge s d) := setDie _ _ _

theorem nextCycle (s : State) : Canon s { s with now := s.now + 1, order := [], late := false } := refl s
theorem planned (s : State) (ts : List Turn) : Canon s { s with agenda := ts } := refl s

theorem advance (s : State) : Canon s (advance s) := by
  unfold Machine.advance
  exact ((((((((resolveEdge _).trans (fold _ (fun u o => (Stored.walksEdge u o).canon) _ _)).trans
    (fold _ (fun u t => (Held.tileEdge u t).canon) _ _)).trans (fold _ fieldEdge _ _)).trans
    (fold _ (fun u _ => graphEdge u _) _ _)).trans (nextCycle _)).trans (fold _ dieEdge _ _)).trans
    (Held.postPending _).canon).trans (planned _ _)

theorem clockTurn (s : State) : Canon s (clockTurn s) := ite (refl s) (advance s)

theorem turnOf (due : Bool) (s : State) (a : Turn) : Next s (turnOf due s a) := by
  cases a with
  | fire x => exact fireTurn x s
  | core c w d => exact coreTurn c w d s
  | clock => exact clockTurn s
  | arrive f k => exact arriveAt s f k
  | upset n b => exact (Stored.upsetBit s n b).canon
  | upsetWord pa h => exact (Stored.upsetStore s pa h).canon
  | predict x vs => exact predictTurn x vs s
  | corrected f => exact ite (Stored.bucketOfField s f .corrected).canon (refl s)
  | event i => exact next_ite (exec i s) (refl s)

theorem late (s : State) (b : Bool) : Canon s { s with late := b } := refl s

theorem takeTurn (due : Bool) (s : State) (a : Turn) : Next s (takeTurn due s a) := by
  unfold Machine.takeTurn
  have h := turnOf due s a
  generalize Machine.turnOf due s a = o at h ⊢
  cases o with
  | next u => exact ite (ite (trans h (late _ _)) (refl s)) h
  | _ => trivial

theorem step (s : State) : Next s (step s) := by
  unfold Machine.step
  split
  · exact Next.after (refl s) (takeTurn _ _ _)
  · exact Next.after (refl s) (takeTurn _ _ _)

end Canon

end Sys2Proof.Machine

end

section
open Sys2Proof Sys2Proof.Machine Sys2Proof.Claims

/-- Settles O58: every operation writes memory byte by byte or leaves some bytes out, and both keep the canonical form. -/
theorem canonicalKept : Obligations.CanonicalKept := by
  unfold Obligations.CanonicalKept
  intro s t h hstep
  have hnext := Canon.step s
  rw [hstep] at hnext
  exact hnext h

end

section

namespace Sys2Proof.Machine

open Claims

/-! ### What the firing of a port leaves alone (R44, R46, R225, R226) -/

theorem consume_aside (s : State) (x : Nat) (k : Pos) : (consume s x k).fields = s.fields ∧ (consume s x k).pending = s.pending ∧
    (consume s x k).foc = s.foc := by
  unfold consume
  dsimp only
  split
  · exact ⟨rfl, rfl, rfl⟩
  · split
    · exact ⟨rfl, rfl, rfl⟩
    · split <;> exact ⟨rfl, rfl, rfl⟩

theorem consumeAll_aside (x : Nat) : ∀ (ps : List Pos) (s : State),
    (consumeAll s x ps).fields = s.fields ∧ (consumeAll s x ps).pending = s.pending ∧ (consumeAll s x ps).foc = s.foc
  | [], _ => ⟨rfl, rfl, rfl⟩
  | k :: ps, s => by
    obtain ⟨hfields, hpending, hfoc⟩ := consumeAll_aside x ps (consume s x k)
    obtain ⟨hfields', hpending', hfoc'⟩ := consume_aside s x k
    exact ⟨hfields.trans hfields', hpending.trans hpending', hfoc.trans hfoc'⟩

theorem noteProgress_aside (s : State) (n : Nat) :
    (noteProgress s n).fields = s.fields ∧ (noteProgress s n).pending = s.pending ∧ (noteProgress s n).foc = s.foc := by
  unfold noteProgress
  dsimp only
  split <;> exact ⟨rfl, rfl, rfl⟩

theorem noteFiring_aside (s : State) (x : Nat) :
    (noteFiring s x).fields = s.fields ∧ (noteFiring s x).pending = s.pending ∧ (noteFiring s x).foc = s.foc := by
  have hprogress := noteProgress_aside (s.setTile (tileOf x) { s.tile (tileOf x) with begun := true }) (tileOf x)
  simpa [noteFiring, pmcCount] using hprogress

theorem begunFiring_aside (s : State) (x : Nat) (ps : List Pos) :
    (begunFiring s x ps).fields = s.fields ∧ (begunFiring s x ps).pending = s.pending ∧ (begunFiring s x ps).foc = s.foc := by
  obtain ⟨hfields, hpending, hfoc⟩ := consumeAll_aside x ps s
  obtain ⟨hfields', hpending', hfoc'⟩ := noteFiring_aside (consumeAll s x ps) x
  exact ⟨hfields'.trans hfields, hpending'.trans hpending, hfoc'.trans hfoc⟩

/-- A firing that has consumed keeps to the frame. -/
theorem firingFrame_begunFiring (s : State) (x : Nat) (ps : List Pos) : FiringFrame s (begunFiring s x ps) x := by
  have hfires := fires_begunFiring s x ps []
  have held := hfires.held
  have hframe := hfires.frame (begunFiring_nextId s x ps)
  obtain ⟨hfields, hpending, -⟩ := begunFiring_aside s x ps
  have hfield : ∀ f, (begunFiring s x ps).field f = s.field f := fun f => congrArg (SMap.get · FieldSt.reset f) hfields
  refine {
    fabric := {
      bytes := held.byte, poison := held.poison, flips := held.flips, under := held.under, soft := held.soft, tags := held.tags
      quarters := hframe.quarters, cores := held.cores, remotes := hframe.remotes, walks := hframe.walks, saved := held.saved
      bootst := held.bootst, keys := held.keys, now := held.now, turns := held.turns, agenda := held.agenda
      order := hframe.order, late := hframe.late
      pending := hpending
      sent := hframe.sent, resolves := held.resolves, job := held.job, awaits := held.awaits }
    tiles := hframe.tiles
    own := ?_
    slots := hframe.slots
    fields := fun f => by rw [hfield]
    buses := fun f _ => by rw [hfield]
    dies := hframe.dies }
  exact congrArg (fun v : TileSt => { v with begun := false, outCnt := [] }) (begunFiring_tile s x ps)

/-- The access in its slot, and its place in the emission order, change that slot alone. -/
theorem firingFrame_addAccess {s t : State} {x : Nat} (h : FiringFrame s t x) (a : Access) (i : Instr) (lock : Bool) :
    FiringFrame s (addAccess t x a i lock) x :=
  { fabric := { h.fabric with }
    tiles := h.tiles
    own := h.own
    slots := fun y hy => by
      rw [← h.slots y hy]
      exact (State.setSlot_other _ _ hy).trans (State.setSlot_other _ _ hy)
    fields := h.fields
    buses := h.buses
    dies := h.dies }

theorem firingFrame_modGraph {s t : State} {x : Nat} (h : FiringFrame s t x) (g : Nat) (f : GraphSt → GraphSt) :
    FiringFrame s (t.modGraph g f) x :=
  { fabric := { h.fabric with }, tiles := h.tiles, own := h.own, slots := h.slots, fields := h.fields, buses := h.buses, dies := h.dies }

/-! ### A port slot fires on DATA (R124, R225) -/

/-- Each latch read offers the token read from it. -/
theorem headAt_of_readAll {s : State} {x : Nat} {k : Pos} : ∀ {ps : List Pos} {r : List (Pos × Token)},
    readAll s x ps = some r → k ∈ ps → ∃ e, headAt s x k = some e ∧ (k, e.tok) ∈ r
  | [], _, _, hk => absurd hk List.not_mem_nil
  | q :: ps, r, h, hk => by
    unfold readAll at h
    split at h
    case h_1 e r' he hr =>
      cases h
      rcases List.mem_cons.mp hk with rfl | hk
      · exact ⟨e, he, List.mem_cons_self⟩
      · obtain ⟨e', he', hmem⟩ := headAt_of_readAll hr hk
        exact ⟨e', he', List.mem_cons_of_mem _ hmem⟩
    case h_2 => cases h

/-- With DATA on every latch read, a predicate that passes and no poisoned address, a port fires. -/
theorem memPlan_go {s : State} {i : Instr} {r : List (Pos × Token)} (hl : .l ∈ latchesRead i) (h : SeesData s i r)
    (hpsn : takesAddress i = true → (tokenAt r .l).psn = false) : memPlan s s.foc i = .go r := by
  obtain ⟨hread, hdata, hpass⟩ := h
  obtain ⟨e, he, hmem⟩ := headAt_of_readAll hread hl
  have hkind : e.tok.kind = .data := hdata _ hmem
  have hmarker : ((r.filter fun a => decide (a.1 ≠ .l)).find? fun a => decide (a.2.kind = .eot) || decide (a.2.kind = .ord)) = none :=
    List.find?_eq_none.mpr fun a ha => by simp [hdata a (List.mem_filter.mp ha).1]
  have heos : (r.any fun a => decide (a.2.kind = .eos)) = false := by
    rw [List.any_eq_false]
    exact fun a ha => by simp [hdata a ha]
  obtain ⟨hclean, hsup⟩ := not_suppressed_of_passes hpass
  have haddr : ¬ ((tokenAt r .l).psn = true ∧ takesAddress i = true) := fun ⟨hp, ht⟩ =>
    Bool.false_ne_true ((hpsn ht).symm.trans hp)
  simp only [memPlan, he, hkind, hread, hmarker, heos, hsup, if_neg hclean, if_neg haddr, ne_eq, not_true_eq_false, if_false,
    Bool.false_eq_true]

/-- A port on which nothing is wrong consumes what it reads and does its work. -/
theorem memFire_go {s : State} {i : Instr} {r : List (Pos × Token)} {check : List (Pos × Token) → Option Nat}
    {go : State → List (Pos × Token) → State} (hready : portReady s s.foc = true) (hplan : memPlan s s.foc i = .go r)
    (hread : readAll s s.foc (latchesRead i) = some r)
    (hcheck : check r = none) : memFire s i check go = .next (go (begunFiring s s.foc (latchesRead i)) r) := by
  unfold memFire
  simp only [hready, hplan, hcheck, readAll_latches hread, begunFiring, Bool.not_true, Bool.false_eq_true, if_false]

/-! ### A rank arrives in its step group (R218, R221, R246) -/

/-- Two states whose graphs agree in what keep leaves of them have the same graph under a name, so far as keep leaves it. -/
theorem exists_graph?_of_map {s t : State} {k : Nat} {g : GraphSt} {keep : GraphSt → GraphSt} (hid : ∀ a, (keep a).id = a.id)
    (h : t.graphs.map keep = s.graphs.map keep) (hg : s.graph? k = some g) : ∃ g', t.graph? k = some g' ∧ keep g' = keep g := by
  have hkeys : ((fun a : GraphSt => a.id == k) ∘ keep) = fun a => a.id == k := funext fun a => congrArg (· == k) (hid a)
  have hfind : ∀ u : State, (u.graph? k).map keep = (u.graphs.map keep).find? fun a => a.id == k := fun u => by
    rw [List.find?_map, hkeys]
    rfl
  have hmap : (t.graph? k).map keep = some (keep g) := by rw [hfind, h, ← hfind, hg, Option.map_some]
  exact Option.map_eq_some_iff.mp hmap

/-- STEP finds no fault in a group with a region, a rank within it, and plane words that lie where they may. -/
theorem stepCheck_none {s : State} {sg rank : Nat} {g : GraphSt} {e : BitVec 128} {es : List (BitVec 128)}
    (hg : ownGraph s = some g) (hregs : groupRegions s g sg = e :: es) (hrank : rank ≤ regNmem e)
    (hplace : ∀ b ∈ e :: es, ∀ k ∈ planePieces s g.lead b, planePlace s k = true) : stepCheck s s.foc sg rank = none := by
  have hslot : slotGraph s s.foc = some g := hg
  have hall : ((e :: es).all fun b => (planePieces s g.lead b).all (planePlace s)) = true :=
    List.all_eq_true.mpr fun b hb => List.all_eq_true.mpr (hplace b hb)
  simp only [stepCheck, hslot, hregs, hall, decide_eq_false (Nat.not_lt.mpr hrank), Bool.not_true, Bool.or_self, Bool.false_eq_true,
    if_false]

/-- A group in which a has arrived: it counts for the next step where its rank has arrived already (R221). -/
def Group.withArrival (gr : Group) (a : Arrival) : Group :=
  if gr.arrived.any fun b => b.rank == a.rank then { gr with next := gr.next ++ [a] } else { gr with arrived := gr.arrived ++ [a] }

theorem Group.withArrival_stepn (gr : Group) (a : Arrival) : (Group.withArrival gr a).stepn = gr.stepn := by
  unfold Group.withArrival
  split <;> rfl

theorem Group.withArrival_again {gr : Group} {a : Arrival} (h : ∃ b ∈ gr.arrived, b.rank = a.rank) :
    Group.withArrival gr a = { gr with next := gr.next ++ [a] } := by
  unfold Group.withArrival
  rw [if_pos (by simpa using h)]

theorem Group.withArrival_first {gr : Group} {a : Arrival} (h : ∀ b ∈ gr.arrived, b.rank ≠ a.rank) :
    Group.withArrival gr a = { gr with arrived := gr.arrived ++ [a] } := by
  unfold Group.withArrival
  rw [if_neg (by simpa using h)]

/-- A graph in whose step group a has arrived. -/
def arrivedGraph (sg : Nat) (a : Arrival) (g : GraphSt) : GraphSt :=
  { g with groups := SMap.put g.groups Group.reset sg (Group.withArrival (SMap.get g.groups Group.reset sg) a) }

theorem arriveStep_eq {s : State} {x id sg rank : Nat} {g : GraphSt} (h : slotGraph s x = some g) :
    arriveStep s x id sg rank = s.modGraph g.id (arrivedGraph sg { rank := rank, x := x, id := id, cyc := s.now }) := by
  unfold arriveStep
  rw [h]
  rfl

/-- A change of one graph's groups leaves the rest of the graphs. -/
theorem groupless_modGraph (s : State) (k sg : Nat) (a : Arrival) :
    (s.modGraph k (arrivedGraph sg a)).graphs.map (fun g => { outside g with groups := [] }) =
      s.graphs.map fun g => { outside g with groups := [] } := by
  rw [State.modGraph, List.map_map]
  refine List.map_congr_left fun g _ => ?_
  dsimp only [Function.comp_apply]
  split <;> rfl

theorem groupless_of_outside {s t : State} (h : t.graphs.map outside = s.graphs.map outside) :
    t.graphs.map (fun g => { outside g with groups := [] }) = s.graphs.map fun g => { outside g with groups := [] } := by
  have hmap := congrArg (List.map fun g : GraphSt => { g with groups := [] }) h
  rwa [List.map_map, List.map_map] at hmap

/-- Slot s.foc has consumed from the latches ps and done nothing else: what its further work starts from. -/
structure Consumed (s u : State) (ps : List Pos) : Prop where
  frame : FiringFrame s u s.foc
  takes : Takes s u s.foc ps
  graphs : u.graphs.map outside = s.graphs.map outside
  owner : ∀ n, (u.tile n).owner = (s.tile n).owner
  foc : u.foc = s.foc
  now : u.now = s.now

theorem consumed_begunFiring (s : State) {ps : List Pos} (h : ps.Nodup) : Consumed s (begunFiring s s.foc ps) ps where
  frame := firingFrame_begunFiring s s.foc ps
  takes := begunFiring_q s s.foc h
  graphs := ((fires_begunFiring s s.foc ps []).frame (begunFiring_nextId s s.foc ps)).graphs
  owner := (begunFiring_wiring s s.foc ps).owner
  foc := (begunFiring_aside s s.foc ps).2.2
  now := (fires_begunFiring s s.foc ps []).held.now

/-- The access stands in its slot, and the slot has consumed what it had. -/
theorem consumed_addAccess {s u : State} {ps : List Pos} (h : Consumed s u ps) (a : Access) (i : Instr) (lock : Bool) :
    Consumed s (addAccess u u.foc a i lock) ps where
  frame := h.foc ▸ firingFrame_addAccess (h.foc.symm ▸ h.frame) a i lock
  takes := h.takes
  graphs := h.graphs
  owner := h.owner
  foc := h.foc
  now := h.now

/-- The slot's graph stands as it did, but for its nodes. -/
theorem Consumed.slotGraph {s u : State} {ps : List Pos} {g : GraphSt} (h : Consumed s u ps) (hg : ownGraph s = some g) :
    ∃ g', slotGraph u u.foc = some g' ∧ u.graph? g.id = some g' ∧ outside g' = outside g := by
  obtain ⟨o, howner, hgraph⟩ := Option.bind_eq_some_iff.mp hg
  obtain ⟨g', hgraph', houtside⟩ := exists_graph?_of_map (keep := outside) (fun _ => rfl) h.graphs hgraph
  refine ⟨g', ?_, ?_, houtside⟩
  · rw [Machine.slotGraph, h.foc, h.owner, howner]
    exact hgraph'
  · rw [State.graph?_id hgraph]
    exact hgraph'

/-- Where the slot has consumed, its rank arrives in the group as it was before the firing. -/
theorem Consumed.arriveStep {s u : State} {ps : List Pos} {g : GraphSt} {id sg rank : Nat} (h : Consumed s u ps)
    (hg : ownGraph s = some g) :
    let a : Arrival := { rank := rank, x := s.foc, id := id, cyc := s.now }
    let t := u.modGraph g.id (arrivedGraph sg a)
    arriveStep u u.foc id sg rank = t ∧ ∃ g', t.graph? g.id = some g' ∧
      SMap.get g'.groups Group.reset sg = Group.withArrival (SMap.get g.groups Group.reset sg) a := by
  intro a t
  obtain ⟨g1, hslot, hgraph, houtside⟩ := h.slotGraph hg
  have hid : g1.id = g.id := (congrArg GraphSt.id houtside :)
  have hgroups : g1.groups = g.groups := (congrArg GraphSt.groups houtside :)
  refine ⟨?_, arrivedGraph sg a g1, graph?_modGraph_same hgraph (fun _ => rfl), ?_⟩
  · rw [arriveStep_eq hslot, hid, h.now, h.foc]
  · rw [← hgroups]
    exact SMap.get_put_same _ _ _ _

/-- What a STEP does once it has consumed: it waits in its slot without parts, and its rank arrives (R246). -/
def stepGo (sg : BitVec 6) (t1 t0 : Target) (t : State) (r : List (Pos × Token)) : State :=
  let a := mkAccess t t.foc (.step sg t1 t0) r (some [])
  arriveStep (addAccess t t.foc a (.step sg t1 t0) false) t.foc a.id sg.toNat ((tokenAt r .l).data.toNat % 256)

/-- A STEP with no fault fires (R225, R246). -/
theorem exec_step_go {s : State} {sg : BitVec 6} {t1 t0 : Target} {r : List (Pos × Token)} (hready : portReady s s.foc = true)
    (hsees : SeesData s (.step sg t1 t0) r) (hcheck : stepCheck s s.foc sg.toNat ((tokenAt r .l).data.toNat % 256) = none) :
    exec (.step sg t1 t0) s = .next (stepGo sg t1 t0 (begunFiring s s.foc [.l]) r) :=
  memFire_go (i := .step sg t1 t0) (check := fun r => stepCheck s s.foc sg.toNat ((tokenAt r .l).data.toNat % 256))
    (go := stepGo sg t1 t0) hready (memPlan_go List.mem_cons_self hsees fun h => by cases h) hsees.read hcheck

end Sys2Proof.Machine

end

section

open Sys2Proof Sys2Proof.Machine Sys2Proof.Claims

/-- Settles O16: the slot consumes, and its rank arrives in the group as it was before the firing. -/
theorem stepArrives : Obligations.StepArrives := by
  unfold Obligations.StepArrives
  intro s sg t1 t0 r g e es hready hsees hg hregs hrank hplace
  have hexec := exec_step_go hready hsees (stepCheck_none hg hregs hrank hplace)
  have hbegun := consumed_begunFiring s (List.nodup_singleton Pos.l)
  have hnext := begunFiring_nextId s s.foc [.l]
  generalize begunFiring s s.foc [.l] = u at hexec hbegun hnext
  have hadded := consumed_addAccess hbegun (mkAccess u u.foc (.step sg t1 t0) r (some [])) (.step sg t1 t0) false
  obtain ⟨harrive, g', hgraph, hgroup⟩ :=
    hadded.arriveStep (id := s.nextId) (sg := sg.toNat) (rank := (tokenAt r .l).data.toNat % 256) hg
  refine ⟨_, g', hexec.trans (congrArg _ (Eq.trans ?_ harrive)), hadded.takes, hgraph, firingFrame_modGraph hadded.frame _ _,
    ?_, ?_, fun h => ?_, fun h => ?_⟩
  · rw [← hnext]
    rfl
  · rw [groupless_modGraph]
    exact groupless_of_outside hadded.graphs
  · rw [hgroup, Group.withArrival_stepn]
  · rw [hgroup, Group.withArrival_again h]
    exact ⟨rfl, rfl⟩
  · rw [hgroup, Group.withArrival_first h]
    exact ⟨rfl, rfl⟩

end

section

namespace Sys2Proof.Machine

open Claims

/-! ### What an access that is finished leaves (R226)

Its tokens leave, its section has progressed: no cache, no register of a quarter and nothing of a die but its event counters
changes, and of the graphs the nodes and the count of strays alone. -/

/-- A graph but for its nodes and its count of strays. -/
def ruled (g : GraphSt) : GraphSt := { g with nodes := [], stray := 0 }

/-- The dies but for their event counters, the quarters, and the graphs but for their nodes and strays are as they were. -/
structure Leaves (s t : State) : Prop where
  dies : ∀ d, { t.die d with pmc := [] } = { s.die d with pmc := [] }
  quarters : t.quarters = s.quarters
  graphs : t.graphs.map ruled = s.graphs.map ruled

namespace Leaves

@[refl] theorem refl (s : State) : Leaves s s := ⟨fun _ => rfl, rfl, rfl⟩

@[trans] theorem trans {s t u : State} (h : Leaves s t) (k : Leaves t u) : Leaves s u :=
  ⟨fun d => (k.dies d).trans (h.dies d), k.quarters.trans h.quarters, k.graphs.trans h.graphs⟩

theorem ite {s t u : State} {p : Prop} [Decidable p] (ht : Leaves s t) (hu : Leaves s u) : Leaves s (if p then t else u) := by
  split <;> assumption

theorem of_outside {s t : State} (hd : ∀ d, { t.die d with pmc := [] } = { s.die d with pmc := [] }) (hq : t.quarters = s.quarters)
    (hg : t.graphs.map outside = s.graphs.map outside) : Leaves s t := by
  have hmap := congrArg (List.map fun g : GraphSt => { g with stray := 0 }) hg
  rw [List.map_map, List.map_map] at hmap
  exact ⟨hd, hq, hmap⟩

variable (s : State)

theorem setSlot (x : Nat) (v : SlotSt) : Leaves s (s.setSlot x v) := ⟨fun _ => rfl, rfl, rfl⟩

theorem noteProgress (t : Nat) : Leaves s (noteProgress s t) := by
  unfold Machine.noteProgress
  dsimp only
  split
  · exact of_outside (fun _ => rfl) rfl (outside_modSection _ _ _ _)
  · exact refl s

theorem addStray (t k : Nat) : Leaves s (addStray s t k) := by
  unfold Machine.addStray
  split
  · exact refl s
  · refine ⟨fun _ => rfl, rfl, ?_⟩
    rw [State.modGraph, List.map_map]
    refine List.map_congr_left fun a _ => ?_
    dsimp only [Function.comp_apply]
    split <;> rfl

theorem emitTo (x : Nat) (tok : Token) (cyc ccyc du : Nat) (r : Bool) (g : Target) : Leaves s (emitTo s x tok cyc ccyc du r g) :=
  have hframe := (Fires.emitTo (gs := [g]) List.mem_cons_self tok cyc ccyc du r).frame (emitTo_nextId s x tok cyc ccyc du r g)
  of_outside hframe.dies hframe.quarters hframe.graphs

theorem emitAll (x : Nat) (tok : Token) (cyc ccyc du : Nat) (r : Bool) (gs : List Target) :
    Leaves s (emitAll s x tok cyc ccyc du r gs) :=
  foldState_ind (Leaves s) _ (fun t g h => h.trans (emitTo t x tok cyc ccyc du r g)) gs s (refl s)

theorem emitOut (x : Nat) : Leaves s (emitOut s x) := by
  unfold Machine.emitOut
  dsimp only
  split
  · exact refl s
  · refine ite (refl s) (ite ((setSlot s x _).trans (addStray _ _ _)) (ite (refl s) ?_))
    split
    · exact setSlot s x _
    · exact ite ((setSlot s x _).trans (emitAll _ _ _ _ _ _ _ _)) (refl s)

theorem finishAccess (x id : Nat) (toks : List Token) : Leaves s (finishAccess s x id toks) := by
  unfold Machine.finishAccess
  exact (((setSlot s x _).trans (noteProgress _ _)).trans (setSlot _ x _)).trans (emitOut _ x)

end Leaves

theorem finishAccess_cache (s : State) (x id : Nat) (toks : List Token) (f : Nat) :
    ((finishAccess s x id toks).field f).cache = (s.field f).cache ∧ ((finishAccess s x id toks).field f).rcb = (s.field f).rcb := by
  have hfield := ((Emitting.noteProgress (s.setSlot x { s.slot x with
    accs := (s.slot x).accs.filter fun a => a.id ≠ id, cmds := (s.slot x).cmds.filter fun c => c ≠ id }) (tileOf x)).trans
      (Emitting.readyOut _ x id toks)).field f
  exact ⟨(congrArg FieldSt.cache hfield :), (congrArg FieldSt.rcb hfield :)⟩

end Sys2Proof.Machine

end

section

namespace Sys2Proof.Machine

/-! ### The memories stand apart from the tiles and the partitions (R204 to R214)

With `Stands` this says that the memories below a port leave what decides where its tokens go. -/

/-- The tiles and the registers that say where an address lies are as they were. -/
structure Below (s t : State) : Prop where
  tiles : t.tiles = s.tiles
  active : ∀ q, (t.quarter q).active = (s.quarter q).active

/-- Those, and the lines of the second-level caches with the windows of their ways. -/
structure Beneath (s t : State) : Prop extends Below s t where
  l2 : ∀ d, (t.die d).l2 = (s.die d).l2
  retw : ∀ d, (t.die d).retw = (s.die d).retw

namespace Beneath

@[refl] theorem refl (s : State) : Beneath s s := ⟨⟨rfl, fun _ => rfl⟩, fun _ => rfl, fun _ => rfl⟩

@[trans] theorem trans {s t u : State} (h : Beneath s t) (k : Beneath t u) : Beneath s u :=
  ⟨⟨k.tiles.trans h.tiles, fun q => (k.active q).trans (h.active q)⟩, fun d => (k.l2 d).trans (h.l2 d),
    fun d => (k.retw d).trans (h.retw d)⟩

theorem fold {α : Type} (f : State → α → State) (hf : ∀ s a, Beneath s (f s a)) (as : List α) (s : State) :
    Beneath s (foldState f s as) :=
  foldState_ind (Beneath s) f (fun t a h => h.trans (hf t a)) as s (refl s)

theorem ite {s t u : State} {p : Prop} [Decidable p] (ht : Beneath s t) (hu : Beneath s u) : Beneath s (if p then t else u) := by
  split <;> assumption

variable (s : State)

theorem setBytes (a : Nat) (bs : List Byte) : Beneath s (s.setBytes a bs) := ⟨⟨rfl, fun _ => rfl⟩, fun _ => rfl, fun _ => rfl⟩
theorem setPoison (n : Nat) (p : Bool) : Beneath s (s.setPoison n p) := by
  cases p <;> exact ⟨⟨rfl, fun _ => rfl⟩, fun _ => rfl, fun _ => rfl⟩
theorem flips (m : SMap (List Flip)) : Beneath s { s with flips := m } := ⟨⟨rfl, fun _ => rfl⟩, fun _ => rfl, fun _ => rfl⟩
theorem under (m : SMap (List Byte × Bool)) : Beneath s { s with under := m } := ⟨⟨rfl, fun _ => rfl⟩, fun _ => rfl, fun _ => rfl⟩
theorem underLate (m : SMap (List Byte × Bool)) (b : Bool) : Beneath s { s with under := m, late := b } :=
  ⟨⟨rfl, fun _ => rfl⟩, fun _ => rfl, fun _ => rfl⟩
theorem soft (m : SMap Bool) : Beneath s { s with soft := m } := ⟨⟨rfl, fun _ => rfl⟩, fun _ => rfl, fun _ => rfl⟩
theorem late (b : Bool) : Beneath s { s with late := b } := ⟨⟨rfl, fun _ => rfl⟩, fun _ => rfl, fun _ => rfl⟩
theorem nextId (n : Nat) : Beneath s { s with nextId := n } := ⟨⟨rfl, fun _ => rfl⟩, fun _ => rfl, fun _ => rfl⟩
theorem pending (l : List (Nat × Nat × FRec)) : Beneath s { s with pending := l } := ⟨⟨rfl, fun _ => rfl⟩, fun _ => rfl, fun _ => rfl⟩
theorem source (k : Nat) : Beneath s { s with src := k } := ⟨⟨rfl, fun _ => rfl⟩, fun _ => rfl, fun _ => rfl⟩
theorem by_ (k : BitVec 32) : Beneath s (s.by k) := source s k.toNat
theorem setField (n : Nat) (v : FieldSt) : Beneath s (s.setField n v) := ⟨⟨rfl, fun _ => rfl⟩, fun _ => rfl, fun _ => rfl⟩

theorem markAt (p : Point) (k : Nat) : Beneath s (markAt s p k) := by refine ⟨⟨?_, ?_⟩, ?_, ?_⟩ <;> simp
theorem markStamp (k : Nat) : Beneath s (markStamp s k) := by refine ⟨⟨?_, ?_⟩, ?_, ?_⟩ <;> simp

variable {s} in
/-- A die that keeps its second-level cache. -/
theorem setDie {n : Nat} {v : DieSt} (hl : v.l2 = (s.die n).l2) (hw : v.retw = (s.die n).retw) : Beneath s (s.setDie n v) := by
  have hdie : ∀ d, (s.setDie n v).die d = if d = n then v else s.die d := fun d => by
    split
    · subst d; exact State.setDie_same s n v
    · exact State.setDie_other s v ‹_›
  refine ⟨⟨rfl, fun _ => rfl⟩, fun d => ?_, fun d => ?_⟩ <;> rw [hdie] <;> split <;> simp_all

variable {s} in
/-- A quarter that keeps its partition. -/
theorem setQuarter {n : Nat} {v : QuarterSt} (h : v.active = (s.quarter n).active) : Beneath s (s.setQuarter n v) := by
  refine ⟨⟨rfl, fun q => ?_⟩, fun _ => rfl, fun _ => rfl⟩
  by_cases hq : q = n
  · rw [hq, State.setQuarter_same, h]
  · rw [State.setQuarter_other _ _ hq]

theorem pmcCount (d e n : Nat) : Beneath s (pmcCount s d e n) := setDie rfl rfl
theorem crossFlits (a b n : Nat) : Beneath s (crossFlits s a b n) := fold _ (fun _ _ => pmcCount _ _ _ _) _ _
theorem countFlits (h u d : Nat) : Beneath s (countFlits s h u d) := (crossFlits _ _ _ _).trans (crossFlits _ _ _ _)
theorem raiseCint (q b : Nat) : Beneath s (raiseCint s q b) := setQuarter rfl

/-! ### Records (R330, R331, R341) -/

theorem enterFbuf (q : Nat) (r : FRec) : Beneath s (enterFbuf s q r) :=
  ite ((raiseCint _ _ _).trans (raiseCint _ _ _)) (raiseCint _ _ _)

theorem postRec (q : Nat) (r : FRec) : Beneath s (postRec s q r) := by
  unfold Machine.postRec
  have h := ((nextId s (s.nextId + 1)).trans (markAt _ (.faults q) 2)).trans (markStamp _ (stampSource (postedRec s q r).stamp))
  dsimp only
  generalize Machine.markStamp _ _ = u at h ⊢
  have hq : ∀ v : QuarterSt, v.active = (s.quarter q).active → Beneath s (u.setQuarter q v) := fun v hv =>
    h.trans (setQuarter (hv.trans (h.active q).symm))
  split
  · refine (hq _ ?_).trans (enterFbuf _ _ _)
    rfl
  · refine ite (hq _ ?_) ((hq _ ?_).trans (enterFbuf _ _ _)) <;> rfl

theorem predFail (d k i n : Nat) : Beneath s (predFail s d k i n) := by
  unfold Machine.predFail Machine.postSoon
  exact ite (pending _ _) (postRec _ _ _)

theorem bucketAdd (d k i : Nat) : Beneath s (bucketAdd s d k i) := by
  unfold Machine.bucketAdd
  dsimp only
  have hfill : ∀ (m n : SMap Nat) (w : FieldSt), Beneath s (if k = 0 then s.setDie d { s.die d with dramFill := m }
      else if k = 1 then s.setDie d { s.die d with ghlFill := n } else s.setField (320 * d + i) w) := fun m n w => by
    refine ite (setDie ?_ ?_) (ite (setDie ?_ ?_) (setField _ _ _)) <;> rfl
  have h := fun m n w => (hfill m n w).trans (pmcCount _ d 8 1)
  exact ite ((h _ _ _).trans (predFail _ _ _ _ _)) (h _ _ _)

/-! ### What is stored, and its errors (R204, R213, R214) -/

theorem noteKick (a n : Nat) : Beneath s (noteKick s a n) := fold _ (fun s _ => ite (raiseCint _ _ _) (refl s)) _ _

theorem breakReservations (a n : Nat) : Beneath s (breakReservations s a n) := ⟨⟨rfl, fun _ => rfl⟩, fun _ => rfl, fun _ => rfl⟩

theorem softScrub (a n : Nat) : Beneath s (softScrub s a n) :=
  ite (refl s) (fold _ (fun s _ => ite (refl s) ((soft s _).trans (bucketAdd _ _ _ _))) _ _)

theorem softWrite (a n : Nat) : Beneath s (softWrite s a n) := ite (refl s) ((softScrub _ _ _).trans (soft _ _))

theorem keepUnder (k : Nat) : Beneath s (keepUnder s k) := ite (refl s) (under _ _)

theorem uncover (k : Nat) : Beneath s (uncover s k) := by
  unfold Machine.uncover
  split
  · exact refl s
  · exact ((under _ _).trans (setBytes _ _ _)).trans (setPoison _ _ _)

theorem beneath (g : Nat × Nat) (k : Nat → Bool) {act : State → State} (h : ∀ u, Beneath u (act u)) : Beneath s (beneath s g k act) :=
  ((fold _ (fun _ _ => uncover _ _) _ _).trans (h _)).trans
    (fold _ (fun _ _ => ite (refl _) (((keepUnder _ _).trans (setBytes _ _ _)).trans (setPoison _ _ _))) _ _)

theorem flipData (g : Nat) (e : Flip) : Beneath s (flipData g s e) := by
  unfold Machine.flipData
  split
  · exact setBytes _ _ _
  · exact refl s

theorem scrubGranule (g : Nat × Nat) : Beneath s (scrubGranule s g) := by
  unfold Machine.scrubGranule
  dsimp only
  have h : ∀ m as, Beneath s (foldState (Machine.flipData g.1) { s with flips := m } as) :=
    fun m as => (flips s m).trans (fold _ (fun _ _ => flipData _ _ _) as _)
  exact ite (refl s) (ite ((h _ _).trans (fold _ (fun _ _ => setPoison _ _ _) _ _)) ((h _ _).trans (bucketAdd _ _ _ _)))

theorem decodeGranule (g : Nat × Nat) (k : Nat → Bool) : Beneath s (decodeGranule s g k) :=
  ite (refl s) (beneath s g k fun _ => scrubGranule _ _)

theorem encodeGranule (g : Nat × Nat) (w k : Nat → Bool) : Beneath s (encodeGranule s g w k) :=
  ite (refl s) (beneath s g _ fun u => ((ite (refl u) (scrubGranule _ _)).trans (flips _ _)).trans
    (fold _ (fun _ _ => setPoison _ _ _) _ _))

theorem settleFlag (n : Nat) : Beneath s (settleFlag s n) := ite (refl s) (ite (refl s) ((flips _ _).trans (setPoison _ _ _)))

theorem fetchSector (a : Nat) : Beneath s (fetchSector s a) := (decodeGranule _ _ _).trans (settleFlag _ _)

theorem prepareWrite (a n : Nat) : Beneath s (prepareWrite s a n) := ite (refl s) (fold _ (fun _ _ => encodeGranule _ _ _ _) _ _)

theorem l2WriteBack (l : L2Line) : Beneath s (l2WriteBack s l) := by
  unfold Machine.l2WriteBack
  exact (fold _ (fun _ _ => uncover _ _) _ _).trans ((fold _ (fun _ _ => encodeGranule _ _ _ _) _ _).trans (underLate _ _ _))

end Beneath

namespace Below

@[refl] theorem refl (s : State) : Below s s := ⟨rfl, fun _ => rfl⟩

@[trans] theorem trans {s t u : State} (h : Below s t) (k : Below t u) : Below s u :=
  ⟨k.tiles.trans h.tiles, fun q => (k.active q).trans (h.active q)⟩

theorem fold {α : Type} (f : State → α → State) (hf : ∀ s a, Below s (f s a)) (as : List α) (s : State) :
    Below s (foldState f s as) :=
  foldState_ind (Below s) f (fun t a h => h.trans (hf t a)) as s (refl s)

theorem ite {s t u : State} {p : Prop} [Decidable p] (ht : Below s t) (hu : Below s u) : Below s (if p then t else u) := by
  split <;> assumption

variable (s : State)

theorem setDie (n : Nat) (v : DieSt) : Below s (s.setDie n v) := ⟨rfl, fun _ => rfl⟩
theorem modGraph (g : Nat) (f : GraphSt → GraphSt) : Below s (s.modGraph g f) := ⟨rfl, fun _ => rfl⟩

theorem homeReady (a n : Nat) : Below s (homeReady s a n) :=
  ite ((ite (refl s) (Beneath.prepareWrite _ _ _).toBelow).trans (setDie _ _ _)) (Beneath.softWrite _ _ _).toBelow

theorem homeWrite (a : Nat) (bs : List Byte) (p : Bool) : Below s (homeWrite s a bs p) := by
  unfold Machine.homeWrite
  refine trans (trans ?_ (Beneath.breakReservations _ _ _).toBelow) (Beneath.noteKick _ _ _).toBelow
  have h := (homeReady s a bs.length).trans
    (Beneath.setBytes _ (locOf (Machine.homeReady s a bs.length) a) bs).toBelow
  exact ite (h.trans (fold _ (fun t _ =>
    ite (Beneath.setPoison _ _ _).toBelow (ite (Beneath.setPoison _ _ _).toBelow (refl t))) _ _)) h

theorem l2Line (b : Nat) (v d : List Nat) (e c : Bool) : Below s (l2Line s b v d e c) := by
  unfold Machine.l2Line
  dsimp only
  split
  · exact setDie _ _ _
  · exact (fold _ (fun _ _ => (Beneath.l2WriteBack _ _).toBelow) _ _).trans (setDie _ _ _)

theorem l2Count (a : Nat) (h : Bool) : Below s (l2Count s a h) := by
  unfold Machine.l2Count
  dsimp only
  generalize windowOf _ _ = w
  cases w <;> cases h
  · exact setDie _ _ _
  · exact refl s
  · exact (setDie _ _ _).trans (setDie _ _ _)
  · exact setDie _ _ _

theorem l2Request (a : Nat) (ls : List (Nat × List Nat)) (w e : Bool) : Below s (l2Request s a ls w e) := by
  refine ite (refl s) ?_
  have h : ∀ b k u d, Beneath s (countFlits (markAt { s with late := b } (.home k) s.src) k u d) := fun b _ _ _ =>
    ((Beneath.late s b).trans (Beneath.markAt _ _ _)).trans (Beneath.countFlits _ _ _ _)
  exact (((h _ _ _ _).toBelow.trans (l2Count _ _ _)).trans (fold _ (fun _ _ => (Beneath.fetchSector _ _).toBelow) _ _)).trans
    (fold _ (fun _ _ => l2Line _ _ _ _ _ _) _ _)

theorem l2Touch (a : Nat) (l : List Nat) (w e : Bool) : Below s (l2Touch s a l w e) := l2Request _ _ _ _ _

theorem l2Drop (a : Nat) : Below s (l2Drop s a) :=
  ite (refl s) ((fold _ (fun _ _ => (Beneath.l2WriteBack _ _).toBelow) _ _).trans (setDie _ _ _))

theorem asCache {f : Nat} {go : State → State} (h : ∀ u, Below u (go u)) : Below s (asCache s f go) :=
  ((Beneath.source s _).toBelow.trans (h _)).trans (Beneath.source _ _).toBelow

theorem writeBackSector (b k : Nat) (bs : List (Nat × CByte)) : Below s (writeBackSector s b k bs) :=
  ite (homeWrite _ _ _ _) (fold _ (fun _ _ => homeWrite _ _ _ _) _ _)

theorem writeBackLine (f g : Nat) (sel : Nat → Bool) (d : Bool) : Below s (writeBackLine s f g sel d) := by
  unfold Machine.writeBackLine
  dsimp only
  split
  · exact refl s
  · refine ite (refl s) ?_
    exact ((asCache s fun _ => l2Touch _ _ _ _ _).trans (fold _ (fun _ _ => writeBackSector _ _ _ _) _ _)).trans
      (Beneath.setField _ _ _).toBelow

theorem writeBackAll (f : Nat) (sel : Nat → Bool) (d : Bool) : Below s (writeBackAll s f sel d) :=
  fold _ (fun _ _ => writeBackLine _ _ _ _ _) _ _

theorem acquireCache (f g : Nat) : Below s (acquireCache s f g) :=
  ((Beneath.markAt _ _ _).toBelow.trans (writeBackAll _ _ _ _)).trans (Beneath.setField _ _ _).toBelow

variable {s}

/-- An address lies where it lay. -/
theorem locOf {t : State} (h : Below s t) (a : Nat) : locOf t a = locOf s a := by
  have hpart : ∀ q, partOf t q = partOf s q := fun q => by rw [partOf, h.active, partOf]
  have hlead : ∀ q, leadOf t q = leadOf s q := fun q => by simp only [leadOf, partQuarters, samePart, hpart]
  simp only [Machine.locOf, stackOf, hlead, h.active]

theorem homeDie {t : State} (h : Below s t) (a : Nat) : homeDie t a = homeDie s a := by
  have hpart : ∀ q, partOf t q = partOf s q := fun q => by rw [partOf, h.active, partOf]
  have hlead : ∀ q, leadOf t q = leadOf s q := fun q => by simp only [leadOf, partQuarters, samePart, hpart]
  simp only [Machine.homeDie, stackOf, hlead, h.active]

end Below

/-- Where the tiles stand, and the graphs, the slots and the links with them, tokens of any slot go where they went. -/
theorem Below.sameOutlet {s t : State} (h : Below s t) (k : Stands s t) (x : Nat) : SameOutlet s t x := by
  have htile : ∀ u, t.tile u = s.tile u := fun u => congrArg (SMap.get · TileSt.reset u) h.tiles
  have hgraph : ∀ g, t.graph? g = s.graph? g := fun g => congrArg (List.find? fun a : GraphSt => a.id == g) k.graphs
  refine ⟨⟨fun u => by rw [htile], fun u => by rw [htile], fun u => by rw [htile], fun u => ?_, k.now⟩,
    fun l => congrArg (SMap.get · Link.empty l) k.links, congrArg (fun m => (SMap.get m SlotSt.reset x).wh) k.slots, by rw [htile]⟩
  simp only [fixedSection, ownerSection, htile, hgraph]

end Sys2Proof.Machine

end

section

namespace Sys2Proof.Machine

open Claims

/-! ### A request for a guard is granted (R239, R240) -/

/-- The guard once request r holds it. -/
def grantedTo (r : GuardReq) (gu : Guard) : Guard :=
  { gu with
    excl := if r.shared then gu.excl else some (tileOf r.x)
    shared := if r.shared then gu.shared ++ [tileOf r.x] else gu.shared
    queue := gu.queue.filter fun q => q.id ≠ r.id }

/-- The graph once request r holds its guard n. -/
def grantedGraph (n : Nat) (r : GuardReq) (a : GraphSt) : GraphSt :=
  { a with guards := SMap.put a.guards Guard.free n (grantedTo r (SMap.get a.guards Guard.free n)) }

/-- The hold stands, and the field's cache has acted. -/
def grantActed (gid n : Nat) (s : State) (r : GuardReq) : State :=
  acquireCache ((s.modGraph gid (grantedGraph n r)).by (slotSource r.x)) (fieldOfTile (tileOf r.x)) n

theorem grantOne_eq (gid n : Nat) (s : State) (r : GuardReq) :
    grantOne gid n s r = finishAccess (grantActed gid n s r) r.x r.id [ord] := rfl

theorem Stands.acquireCache (s : State) (f g : Nat) : Stands s (acquireCache s f g) :=
  ((Stands.markAt _ _ _).trans (Stands.writeBackAll _ _ _ _)).trans (Stands.setField _ _ _)

/-- A change of a graph that keeps its name and its nodes leaves the way of every token. -/
theorem sameOutlet_modGraph (s : State) (g x : Nat) {f : GraphSt → GraphSt} (hid : ∀ a, (f a).id = a.id)
    (hnodes : ∀ a, (f a).nodes = a.nodes) : SameOutlet s (s.modGraph g f) x := by
  refine ⟨⟨fun _ => rfl, fun _ => rfl, fun _ => rfl, fun u => ?_, rfl⟩, fun _ => rfl, rfl, rfl⟩
  have hnode : ∀ a n, (if a.id = g then f a else a).node? n = a.node? n := fun a n => by
    split
    · rw [GraphSt.node?, hnodes, GraphSt.node?]
    · rfl
  have howner : ownerSection (s.modGraph g f) u = ownerSection s u := by
    unfold ownerSection
    rw [State.modGraph_tile]
    rcases (s.tile u).owner with _ | ⟨k, n⟩
    · rfl
    · dsimp only
      rw [State.graph?_modGraph s g k hid]
      rcases s.graph? k with _ | a
      · rfl
      · simp only [Option.map_some, hnode]
  rw [fixedSection, howner, fixedSection]

section
variable (gid n : Nat) (s : State) (r : GuardReq)

/-- What the cache does is as if the hold had been taken alone. -/
theorem stands_grantActed : Stands (s.modGraph gid (grantedGraph n r)) (grantActed gid n s r) :=
  (Stands.by_ _ _).trans (Stands.acquireCache _ _ _)

theorem below_grantActed : Below (s.modGraph gid (grantedGraph n r)) (grantActed gid n s r) :=
  (Beneath.by_ _ _).toBelow.trans (Below.acquireCache _ _ _)

theorem grantActed_slot (y : Nat) : (grantActed gid n s r).slot y = s.slot y :=
  congrArg (SMap.get · SlotSt.reset y) (stands_grantActed gid n s r).slots

theorem sameOutlet_grantActed (x : Nat) : SameOutlet s (grantActed gid n s r) x :=
  (sameOutlet_modGraph s gid x (f := grantedGraph n r) (fun _ => rfl) fun _ => rfl).trans
    ((below_grantActed gid n s r).sameOutlet (stands_grantActed gid n s r) x)

/-- With the tokens of its request its access is performed. -/
theorem performed_grantOne : Performed s (grantOne gid n s r) r.x r.id [ord] := by
  rw [grantOne_eq]
  exact performed_finishAccess (sameOutlet_grantActed gid n s r r.x) (grantActed_slot gid n s r r.x) r.id [ord]

variable {gid s} in
/-- The guard is granted as it stood. -/
theorem graph?_grantOne {a : GraphSt} (h : s.graph? gid = some a) : ∃ b, (grantOne gid n s r).graph? gid = some b ∧
    SMap.get b.guards Guard.free n = grantedTo r (SMap.get a.guards Guard.free n) := by
  have hacted : (grantActed gid n s r).graph? gid = some (grantedGraph n r a) := by
    rw [State.graph?, (stands_grantActed gid n s r).graphs]
    exact graph?_modGraph_same h fun _ => rfl
  obtain ⟨b, hb, hruled⟩ := exists_graph?_of_map (keep := ruled) (fun _ => rfl) (Leaves.finishAccess _ r.x r.id [ord]).graphs hacted
  refine ⟨b, hb, ?_⟩
  rw [show b.guards = (grantedGraph n r a).guards from (congrArg GraphSt.guards hruled :)]
  exact SMap.get_put_same _ _ _ _

/-- No slot takes an access, and the slot of the request gives up its own. -/
theorem grantOne_accs (y : Nat) : ((grantOne gid n s r).slot y).accs =
    if y = r.x then (s.slot y).accs.filter fun a => a.id ≠ r.id else (s.slot y).accs := by
  rw [grantOne_eq]
  split
  · subst y
    rw [finishAccess_accs, grantActed_slot]
  · unfold finishAccess
    rw [(Emitting.readyOut _ _ _ _).accs, (Emitting.noteProgress _ _).accs, State.setSlot_other _ _ ‹_›, grantActed_slot]

end

/-- Requests granted one after another: each leaves the queue, and its access is gone. -/
theorem grants_shared (gid n : Nat) : ∀ (rs : List GuardReq) {s : State} {a : GraphSt}, s.graph? gid = some a →
    (∀ r ∈ rs, r.shared = true) → ∃ b, (foldState (grantOne gid n) s rs).graph? gid = some b ∧
      (SMap.get b.guards Guard.free n).excl = (SMap.get a.guards Guard.free n).excl ∧
      (SMap.get b.guards Guard.free n).shared = (SMap.get a.guards Guard.free n).shared ++ rs.map (fun r => tileOf r.x) ∧
      (SMap.get b.guards Guard.free n).queue =
        (SMap.get a.guards Guard.free n).queue.filter (fun q => decide (q.id ∉ rs.map GuardReq.id))
  | [], s, a, h, _ => ⟨a, h, rfl, by simp, by simp⟩
  | r :: rs, s, a, h, hs => by
    obtain ⟨b, hb, hguard⟩ := graph?_grantOne n r h
    obtain ⟨c, hc, hexcl, hshared, hqueue⟩ := grants_shared gid n rs hb fun q hq => hs q (List.mem_cons_of_mem _ hq)
    have hr := hs r List.mem_cons_self
    refine ⟨c, hc, ?_, ?_, ?_⟩
    · rw [hexcl, hguard, grantedTo, if_pos hr]
    · rw [hshared, hguard, grantedTo]
      simp [hr]
    · rw [hqueue, hguard, grantedTo, List.filter_filter]
      refine List.filter_congr fun q _ => ?_
      by_cases hq : q.id = r.id <;> simp [hq]

/-- No access of a request granted is left in its slot. -/
theorem grants_accs (gid n : Nat) : ∀ (rs : List GuardReq) (s : State),
    (∀ y, ∀ c ∈ ((foldState (grantOne gid n) s rs).slot y).accs, c ∈ (s.slot y).accs) ∧
      ∀ r ∈ rs, ∀ c ∈ ((foldState (grantOne gid n) s rs).slot r.x).accs, c.id ≠ r.id
  | [], s => ⟨fun _ _ h => h, fun _ h => absurd h List.not_mem_nil⟩
  | r :: rs, s => by
    obtain ⟨hsub, hgone⟩ := grants_accs gid n rs (grantOne gid n s r)
    refine ⟨fun y c hc => ?_, fun q hq c hc => ?_⟩
    · have h := hsub y c hc
      rw [grantOne_accs] at h
      split at h
      · exact List.mem_of_mem_filter h
      · exact h
    · rcases List.mem_cons.mp hq with rfl | hq
      · have h := hsub _ c hc
        rw [grantOne_accs, if_pos rfl] at h
        simpa using (List.mem_filter.mp h).2
      · exact hgone q hq c hc

/-! ### The requests that are granted now (R239) -/

theorem grantable_exclusive {now : Nat} {gu : Guard} {r : GuardReq} {rs : List GuardReq} (hqueue : gu.queue = r :: rs)
    (hcyc : r.cyc < now) (hshared : r.shared = false) (hexcl : gu.excl = none) (hnone : gu.shared = []) : grantable now gu = [r] := by
  simp [grantable, hqueue, hcyc, hshared, hexcl, hnone]

/-- A run of shared requests of earlier cycles that none of them continues is granted together. -/
theorem grantable_shared {now : Nat} {gu : Guard} {rs rest : List GuardReq} (hqueue : gu.queue = rs ++ rest) (hne : rs ≠ [])
    (hrun : ∀ r ∈ rs, r.shared = true ∧ r.cyc < now) (hstop : ∀ r, rest.head? = some r → r.shared = false ∨ now ≤ r.cyc)
    (hexcl : gu.excl = none) : grantable now gu = rs := by
  obtain ⟨r, rs, rfl⟩ := List.exists_cons_of_ne_nil hne
  have hold : ∀ q ∈ r :: rs, decide (q.cyc < now) = true := fun q hq => decide_eq_true (hrun q hq).2
  have htaken : ((r :: rs) ++ rest).takeWhile (fun q => decide (q.cyc < now)) = r :: (rs ++ rest.takeWhile fun q => decide (q.cyc < now)) := by
    rw [List.takeWhile_append_of_pos hold, List.cons_append]
  have hrest : (rest.takeWhile fun q => decide (q.cyc < now)).takeWhile (fun q => q.shared) = [] := by
    rcases rest with _ | ⟨q, rest⟩
    · rfl
    · rcases hstop q rfl with hq | hq
      · rw [List.takeWhile_cons]
        split
        · rw [List.takeWhile_cons, hq]
          rfl
        · rfl
      · rw [List.takeWhile_cons, if_neg (by simpa using hq)]
        rfl
  have hshare : ∀ q ∈ rs, q.shared = true := fun q hq => (hrun q (List.mem_cons_of_mem _ hq)).1
  rw [grantable, hqueue, htaken]
  dsimp only
  rw [if_pos (hrun r List.mem_cons_self).1, hexcl, List.takeWhile_append_of_pos hshare, hrest, List.append_nil]
  rfl

/-- Requests put in the order of their slots are the same requests. -/
theorem insertPlaces_perm (rs : List GuardReq) : (rs.foldr insertPlace []).Perm rs := by
  have hinsert : ∀ (r : GuardReq) (as : List GuardReq), (insertPlace r as).Perm (r :: as) := fun r as => by
    induction as with
    | nil => exact List.Perm.refl _
    | cons a as ih =>
      rw [insertPlace]
      split
      · exact List.Perm.refl _
      · exact (ih.cons a).trans (List.Perm.swap r a as)
  induction rs with
  | nil => exact List.Perm.refl _
  | cons r rs ih => exact (hinsert r _).trans (ih.cons r)

/-- A guard grants what it may, in the order of the slots. -/
theorem exec_guardGrant {s : State} {gid : Nat} {a : GraphSt} (n : Nat) (h : s.graph? gid = some a) : exec (.guardGrant gid n) s =
    .next (foldState (grantOne gid n) s ((grantable s.now (SMap.get a.guards Guard.free n)).foldr insertPlace [])) := by
  change execGuardGrant gid n s = _
  rw [execGuardGrant, h]

/-- Of a queue whose requests are all apart, what is granted leaves the rest. -/
theorem filter_ungranted {rs rest gs : List GuardReq} (hgs : gs.Perm rs) (hnodup : ((rs ++ rest).map GuardReq.id).Nodup) :
    (rs ++ rest).filter (fun q => decide (q.id ∉ gs.map GuardReq.id)) = rest := by
  have hmem : ∀ k, k ∈ gs.map GuardReq.id ↔ k ∈ rs.map GuardReq.id := fun k => (hgs.map _).mem_iff
  rw [List.map_append, List.nodup_append] at hnodup
  obtain ⟨-, -, hapart⟩ := hnodup
  have hout : rs.filter (fun q => decide (q.id ∉ gs.map GuardReq.id)) = [] :=
    List.filter_eq_nil_iff.mpr fun q hq => by simpa [hmem] using ⟨q, hq, rfl⟩
  have hkeep : rest.filter (fun q => decide (q.id ∉ gs.map GuardReq.id)) = rest :=
    List.filter_eq_self.mpr fun q hq => decide_eq_true fun hin =>
      hapart _ ((hmem _).mp hin) _ (List.mem_map_of_mem hq) rfl
  rw [List.filter_append, hout, hkeep, List.nil_append]

/-- A run of shared requests takes the hold together, and leaves the rest of the queue. -/
theorem guardGrant_shared {s : State} {a : GraphSt} {n : Nat} {rs rest : List GuardReq} (ha : s.graph? a.id = some a) (hne : rs ≠ [])
    (hqueue : (SMap.get a.guards Guard.free n).queue = rs ++ rest) (hrun : ∀ r ∈ rs, r.shared = true ∧ r.cyc < s.now)
    (hstop : ∀ r, rest.head? = some r → r.shared = false ∨ s.now ≤ r.cyc) (hnodup : ((rs ++ rest).map GuardReq.id).Nodup)
    (hexcl : (SMap.get a.guards Guard.free n).excl = none) :
    ∃ t b, exec (.guardGrant a.id n) s = .next t ∧ t.graph? a.id = some b ∧
      (SMap.get b.guards Guard.free n).excl = none ∧ (SMap.get b.guards Guard.free n).queue = rest ∧
      (∀ u, u ∈ (SMap.get b.guards Guard.free n).shared ↔
        u ∈ (SMap.get a.guards Guard.free n).shared ∨ ∃ r ∈ rs, tileOf r.x = u) ∧
      ∀ r ∈ rs, ∀ c ∈ (t.slot r.x).accs, c.id ≠ r.id := by
  have hperm := insertPlaces_perm rs
  have hexec := exec_guardGrant n ha
  rw [grantable_shared hqueue hne hrun hstop hexcl] at hexec
  obtain ⟨b, hb, hexcl', hshared', hqueue'⟩ :=
    grants_shared a.id n (rs.foldr insertPlace []) ha fun r hr => (hrun r (hperm.mem_iff.mp hr)).1
  refine ⟨_, b, hexec, hb, hexcl'.trans hexcl, ?_, fun u => ?_, fun r hr => ?_⟩
  · rw [hqueue', hqueue, filter_ungranted hperm hnodup]
  · simp only [hshared', List.mem_append, List.mem_map, hperm.mem_iff]
  · exact (grants_accs a.id n _ s).2 r (hperm.mem_iff.mpr hr)

end Sys2Proof.Machine

end

section

namespace Sys2Proof.Machine

open Claims

/-! ### A step group swaps (R221, R222) -/

theorem Stands.swapWord (c : Bool) (n : Nat) (s : State) (a : Nat) : Stands s (swapWord c n s a) := by
  unfold Machine.swapWord
  exact (Stands.ite (Stands.homeWrite _ _ _ _) (Stands.ite (Stands.homeWrite _ _ _ _) (Stands.refl s))).trans (Stands.setBytes _ _ _)

theorem Stands.swapRegion (s : State) (l : Nat) (e : BitVec 128) : Stands s (swapRegion s l e) :=
  Stands.fold _ (fun t _ => Stands.fold _ (fun u a => Stands.swapWord _ _ u a) _ t) _ s

/-- Arrivals that move up keep their number. -/
theorem promote_length : ∀ as arr rest : List Arrival,
    ((promote as arr rest).1 ++ (promote as arr rest).2).length = as.length + arr.length + rest.length
  | [], arr, rest => by simp [promote]
  | a :: as, arr, rest => by
    rw [promote]
    split
    · rw [promote_length]; simp only [List.length_append, List.length_cons, List.length_nil]; omega
    · rw [promote_length]; simp only [List.length_append, List.length_cons, List.length_nil]; omega

/-- No rank moves up twice. -/
theorem promote_nodup : ∀ as arr rest : List Arrival, (arr.map Arrival.rank).Nodup →
    ((promote as arr rest).1.map Arrival.rank).Nodup
  | [], arr, rest, h => h
  | a :: as, arr, rest, h => by
    rw [promote]
    split
    · exact promote_nodup as arr _ h
    · rename_i hnew
      refine promote_nodup as _ rest ?_
      rw [List.map_append, List.nodup_append]
      refine ⟨h, List.nodup_singleton _, fun x hx y hy hxy => hnew ?_⟩
      obtain ⟨b, hb, rfl⟩ := List.mem_map.mp hx
      simp only [List.map_cons, List.map_nil, List.mem_singleton] at hy
      exact List.any_eq_true.mpr ⟨b, hb, by simpa using hxy.trans hy⟩

/-- The group after a swap: the arrivals of the next step have moved up. -/
def swapped (gr : Group) : Group :=
  { stepn := gr.stepn + 1, arrived := (promote gr.next [] []).1, next := (promote gr.next [] []).2 }

/-- The graph after group n has swapped. -/
def swappedGraph (n : Nat) (gr : Group) (a : GraphSt) : GraphSt :=
  { a with groups := SMap.put a.groups Group.reset n (swapped gr) }

theorem exec_stepSwap {s : State} {gid n : Nat} {a : GraphSt} (h : s.graph? gid = some a) (hready : swapReady s a n = true) :
    exec (.stepSwap gid n) s = .next (foldState
      (fun t r => finishAccess t r.x r.id [dataTok (dataOf ((SMap.get a.groups Group.reset n).stepn + 1).toNat) false])
      ((foldState (fun t e => swapRegion t a.lead e) s (groupRegions s a n)).modGraph gid
        (swappedGraph n (SMap.get a.groups Group.reset n))) (SMap.get a.groups Group.reset n).arrived) := by
  change execStepSwap gid n s = _
  simp only [execStepSwap, h, hready, Bool.not_true, Bool.false_eq_true, if_false]
  rfl

/-- A group that is ready swaps. -/
theorem stepSwap_swaps {s : State} {gid n : Nat} {a : GraphSt} (h : s.graph? gid = some a) (hready : swapReady s a n = true) :
    ∃ t b, exec (.stepSwap gid n) s = .next t ∧ t.graph? gid = some b ∧
      SMap.get b.groups Group.reset n = swapped (SMap.get a.groups Group.reset n) := by
  have hexec := exec_stepSwap h hready
  have hstands := Stands.fold (fun t e => swapRegion t a.lead e) (fun t e => Stands.swapRegion t a.lead e) (groupRegions s a n) s
  generalize foldState (fun t e => swapRegion t a.lead e) s (groupRegions s a n) = u at hexec hstands
  have hu : u.graph? gid = some a := by rw [State.graph?, hstands.graphs]; exact h
  have hleaves := foldState_ind (Leaves (u.modGraph gid (swappedGraph n (SMap.get a.groups Group.reset n)))) _
    (fun t r ht => ht.trans (Leaves.finishAccess t r.x r.id
      [dataTok (dataOf ((SMap.get a.groups Group.reset n).stepn + 1).toNat) false]))
    (SMap.get a.groups Group.reset n).arrived _ (Leaves.refl _)
  obtain ⟨b, hb, hruled⟩ := exists_graph?_of_map (keep := ruled) (fun _ => rfl) hleaves.graphs (graph?_modGraph_same hu fun _ => rfl)
  refine ⟨_, b, hexec, hb, ?_⟩
  rw [show b.groups = (swappedGraph n (SMap.get a.groups Group.reset n) a).groups from (congrArg GraphSt.groups hruled :)]
  exact SMap.get_put_same _ _ _ _

/-! ### Plane words (R219 to R221) -/

/-- A plane word: n bytes at a multiple of their number, in the first 128 KiB of a tile store. -/
structure PlaneWord (a n : Nat) : Prop where
  store : tileBase ≤ a ∧ a < tileEnd
  within : (a - tileBase) % 0x80000 + n ≤ 0x20000
  aligned : (a - tileBase) % n = 0
  size : n = 4 ∨ n = 8

namespace PlaneWord

variable {a n : Nat} (h : PlaneWord a n)
include h

theorem size_pos : 0 < n := by have h := h.size; omega

/-- RK and WR of a word stand behind the words and their next values. -/
theorem rankPlace_bounds : a + 0x20000 + n ≤ rankPlace a ∧ a + n ≤ rankPlace a := by
  obtain ⟨hlo, -⟩ := h.store
  have hin := h.within
  simp only [rankPlace, tileOfPa, tileStore, tileBase] at hlo hin ⊢
  omega

/-- A plane word stands where its address says. -/
theorem locOf_eq (s : State) : locOf s a = a := by
  refine if_neg ?_
  obtain ⟨hlo, -⟩ := h.store
  rw [isDram_iff]
  simp only [dramEnd, tileBase] at hlo ⊢
  omega

end PlaneWord

section
variable (s : State) (a : Nat) (bs : List Byte)

theorem byte_setBytes (b : Nat) :
    (s.setBytes a bs).byte b = if a ≤ b ∧ b < a + bs.length then (bs[b - a]?).getD 0 else s.byte b :=
  Memory.get_write bs s.mem a b

theorem bytes_congr {s t : State} {a : Nat} : ∀ {n : Nat}, (∀ i, i < n → t.byte (a + i) = s.byte (a + i)) → t.bytes a n = s.bytes a n := by
  have hread : ∀ (n a : Nat), (∀ i, i < n → t.byte (a + i) = s.byte (a + i)) → Memory.read t.mem a n = Memory.read s.mem a n := by
    intro n
    induction n with
    | zero => exact fun _ _ => rfl
    | succ n ih =>
      intro a h
      have hfirst := h 0 (Nat.succ_pos n)
      rw [Nat.add_zero] at hfirst
      have hrest := ih (a + 1) fun i hi => by
        rw [Nat.add_right_comm, Nat.add_assoc]
        exact h (i + 1) (Nat.succ_lt_succ hi)
      rw [Memory.read, Memory.read, hrest]
      exact congrArg (· :: _) hfirst
  exact fun {n} h => hread n a h

/-- A write leaves every range that it does not reach. -/
theorem bytes_setBytes_other {b n : Nat} (h : b + n ≤ a ∨ a + bs.length ≤ b) : (s.setBytes a bs).bytes b n = s.bytes b n :=
  bytes_congr fun i hi => by rw [byte_setBytes, if_neg (by omega)]

theorem bytes_setBytes_same : (s.setBytes a bs).bytes a bs.length = bs := Memory.read_write bs s.mem a

theorem wordAt_setBytes_same (n v : Nat) : wordAt (s.setBytes a (leBytes n v)) a n = v % 2 ^ (8 * n) := by
  have h := bytes_setBytes_same s a (leBytes n v)
  rw [leBytes_length] at h
  rw [wordAt, h, leNat_leBytes_mod]

end

theorem bitOf_zero (b : Byte) : bitOf b.toNat 0 = b.getLsbD 0 := by
  rw [bitOf, BitVec.getLsbD, Nat.testBit_eq_decide_div_mod_eq]

/-- A plane word that takes a next value of rank k: WR is set. -/
def planePut (s : State) (a n v k : Nat) : State :=
  (s.setBytes (a + 0x20000) (leBytes n v)).setBytes (rankPlace a) [BitVec.ofNat 8 k, 1]

theorem settle_unwritten {s : State} {a : Nat} (h : (s.byte (rankPlace a + 1)).getLsbD 0 = false) (n rule k v : Nat) :
    settle s a n rule k v = some (planePut s a n v k) := by
  rw [settle, bitOf_zero, h]
  rfl

theorem settle_written {s : State} {a : Nat} (h : (s.byte (rankPlace a + 1)).getLsbD 0 = true) (n rule k v : Nat) :
    settle s a n rule k v =
      (planeRule rule (8 * n) (s.byte (rankPlace a)).toNat k (wordAt s (a + 0x20000) n) v).map fun r => planePut s a n r.1 r.2 := by
  rw [settle, bitOf_zero, h]
  rfl

namespace PlaneWord

variable {a n : Nat} (h : PlaneWord a n)
include h

/-- A plane word that takes a value keeps its current one. -/
theorem planePut_spec (s : State) (v k : Nat) (hk : k < 256) : ((planePut s a n v k).byte (rankPlace a + 1)).getLsbD 0 = true ∧
    ((planePut s a n v k).byte (rankPlace a)).toNat = k ∧
    (∀ b, (planePut s a n v k).byte (a + b) = s.byte (a + b) ∨ n ≤ b) ∧
    wordAt (planePut s a n v k) (a + 0x20000) n = v % 2 ^ (8 * n) := by
  obtain ⟨hnext, hword⟩ := h.rankPlace_bounds
  have hsize := h.size
  have hlen := leBytes_length n v
  refine ⟨?_, ?_, fun b => ?_, ?_⟩
  · rw [planePut, byte_setBytes, if_pos (by simp)]
    simp
  · rw [planePut, byte_setBytes, if_pos (by simp)]
    simpa using hk
  · refine (Nat.lt_or_ge b n).imp_left fun hb => ?_
    rw [planePut, byte_setBytes, if_neg (by omega), byte_setBytes, if_neg (by omega)]
  · rw [planePut, wordAt, bytes_setBytes_other _ _ _ (by omega)]
    exact wordAt_setBytes_same s (a + 0x20000) n v

end PlaneWord

/-- A PST of rank k and value v settles a plane word: its next value is word, of rank rank, and its current one stands. -/
def Settles (s : State) (a n rule k v word rank : Nat) : Prop :=
  ∃ t, settle s a n rule k v = some t ∧ (t.byte (rankPlace a + 1)).getLsbD 0 = true ∧ (t.byte (rankPlace a)).toNat = rank ∧
    (∀ b, t.byte (a + b) = s.byte (a + b) ∨ n ≤ b) ∧ wordAt t (a + 0x20000) n = word

/-- The first write of a step takes the value. -/
theorem settles_first {s : State} {a n k v : Nat} (h : PlaneWord a n) (hwritten : (s.byte (rankPlace a + 1)).getLsbD 0 = false)
    (rule : Nat) (hk : k < 256) (hv : v < 2 ^ (8 * n)) : Settles s a n rule k v v k := by
  obtain ⟨hwr, hrk, hkeep, hword⟩ := h.planePut_spec s v k hk
  exact ⟨_, settle_unwritten hwritten n rule k v, hwr, hrk, hkeep, hword.trans (Nat.mod_eq_of_lt hv)⟩

/-- A later write takes what the rule says of the values and the ranks. -/
theorem settles_again {s : State} {a n rule k v w rk : Nat} (h : PlaneWord a n)
    (hwritten : (s.byte (rankPlace a + 1)).getLsbD 0 = true)
    (hrule : planeRule rule (8 * n) (s.byte (rankPlace a)).toNat k (wordAt s (a + 0x20000) n) v = some (w, rk)) (hrk : rk < 256) :
    Settles s a n rule k v (w % 2 ^ (8 * n)) rk := by
  obtain ⟨hwr, hrk, hkeep, hword⟩ := h.planePut_spec s w rk hrk
  exact ⟨_, by rw [settle_written hwritten, hrule]; rfl, hwr, hrk, hkeep, hword⟩

/-- A reduction of numbers of w bits is the one of the patterns that they are. -/
theorem redApply_ofNat {w old v : Nat} (hw : 0 < w) (hold : old < 2 ^ w) (hv : v < 2 ^ w) (op : RedOp) :
    some (redApply op w old v % 2 ^ w) = (atomicValue w (.red op) (BitVec.ofNat w old) (BitVec.ofNat w v) 0).map BitVec.toNat := by
  have h := redApply_eq hw op (BitVec.ofNat w old) (BitVec.ofNat w v) 0
  rwa [BitVec.toNat_ofNat, BitVec.toNat_ofNat, Nat.mod_eq_of_lt hold, Nat.mod_eq_of_lt hv] at h

/-- The greater of two by one order of the comparison is the greater by the other. -/
theorem ite_le_comm {α : Type} [LinearOrder α] {x y : α} {m n : Nat} (h : x = y → m = n) :
    (if x ≤ y then n else m) = if y ≤ x then m else n := by
  rcases lt_trichotomy x y with hlt | heq | hgt
  · rw [if_pos hlt.le, if_neg hlt.not_ge]
  · rw [if_pos heq.le, if_pos heq.ge, h heq]
  · rw [if_neg hgt.not_ge, if_pos hgt.le]

theorem toNat_ite {w m n : Nat} {x y : BitVec w} (hx : x.toNat = m) (hy : y.toNat = n) (c : Prop) [Decidable c] :
    (if c then x else y).toNat = if c then m else n := by rw [apply_ite BitVec.toNat, hx, hy]

section
variable {w old v : Nat} (hw : 0 < w) (hold : old < 2 ^ w) (hv : v < 2 ^ w)
include hw hold hv

/-- The lesser of two numbers of w bits, signed or unsigned, is one of them. -/
theorem redApply_lesser : redApply .min w old v % 2 ^ w = (if (BitVec.ofNat w old).sle (BitVec.ofNat w v) then old else v) ∧
    redApply .minU w old v % 2 ^ w = if (BitVec.ofNat w old).ule (BitVec.ofNat w v) then old else v := by
  have hold' : (BitVec.ofNat w old).toNat = old := (BitVec.toNat_ofNat _ _).trans (Nat.mod_eq_of_lt hold)
  have hv' : (BitVec.ofNat w v).toNat = v := (BitVec.toNat_ofNat _ _).trans (Nat.mod_eq_of_lt hv)
  exact ⟨(Option.some.inj (redApply_ofNat hw hold hv .min)).trans (toNat_ite hold' hv' _),
    (Option.some.inj (redApply_ofNat hw hold hv .minU)).trans (toNat_ite hold' hv' _)⟩

/-- The greater of two numbers of w bits, signed or unsigned, is one of them. -/
theorem redApply_greater : redApply .max w old v % 2 ^ w = (if (BitVec.ofNat w v).sle (BitVec.ofNat w old) then old else v) ∧
    redApply .maxU w old v % 2 ^ w = if (BitVec.ofNat w v).ule (BitVec.ofNat w old) then old else v := by
  have hold' : (BitVec.ofNat w old).toNat = old := (BitVec.toNat_ofNat _ _).trans (Nat.mod_eq_of_lt hold)
  have hv' : (BitVec.ofNat w v).toNat = v := (BitVec.toNat_ofNat _ _).trans (Nat.mod_eq_of_lt hv)
  refine ⟨((Option.some.inj (redApply_ofNat hw hold hv .max)).trans (toNat_ite hv' hold' _)).trans ?_,
    ((Option.some.inj (redApply_ofNat hw hold hv .maxU)).trans (toNat_ite hv' hold' _)).trans ?_⟩
  · simp only [BitVec.sle_eq_decide, decide_eq_true_eq]
    exact ite_le_comm fun he => by rw [← hold', ← hv', BitVec.eq_of_toInt_eq he]
  · simp only [BitVec.ule_eq_decide, decide_eq_true_eq, hold', hv']
    exact ite_le_comm id

end

/-- A later write by every rule: by rank, the sum, the lesser and the greater; under FAULT it does not settle (R220). -/
theorem settles_by_rule {s : State} {a n rule k v : Nat} (h : PlaneWord a n) (hwritten : (s.byte (rankPlace a + 1)).getLsbD 0 = true)
    (hk : k < 256) (hv : v < 2 ^ (8 * n)) :
    let rk := (s.byte (rankPlace a)).toNat
    let old := wordAt s (a + 0x20000) n
    let pick (le : BitVec (8 * n) → BitVec (8 * n) → Bool) : Nat := if le (BitVec.ofNat _ old) (BitVec.ofNat _ v) then old else v
    (rule = 0 → Settles s a n rule k v (if rk ≤ k then v else old) (if rk ≤ k then k else rk)) ∧
      (rule = 1 → Settles s a n rule k v ((old + v) % 2 ^ (8 * n)) rk) ∧
      (rule = 2 → Settles s a n rule k v (pick fun a b => a.sle b) rk) ∧
      (rule = 3 → Settles s a n rule k v (pick fun a b => a.ule b) rk) ∧
      (rule = 4 → Settles s a n rule k v (pick fun a b => b.sle a) rk) ∧
      (rule = 5 → Settles s a n rule k v (pick fun a b => b.ule a) rk) ∧ (rule = 6 → settle s a n rule k v = none) := by
  intro rk old pick
  have hrk : rk < 256 := (s.byte (rankPlace a)).isLt
  have hold : old < 2 ^ (8 * n) := wordAt_lt s _ n
  have hw : 0 < 8 * n := Nat.mul_pos (by decide) h.size_pos
  obtain ⟨hmin, hminU⟩ := redApply_lesser hw hold hv
  obtain ⟨hmax, hmaxU⟩ := redApply_greater hw hold hv
  have again : ∀ {w r word}, planeRule rule (8 * n) rk k old v = some (w, r) → r < 256 → w % 2 ^ (8 * n) = word →
      Settles s a n rule k v word r := fun h0 hr hw => hw ▸ settles_again h hwritten h0 hr
  refine ⟨?_, ?_, ?_, ?_, ?_, ?_, ?_⟩ <;> rintro rfl
  · by_cases hle : rk ≤ k
    · rw [if_pos hle, if_pos hle]
      exact again (congrArg some (if_pos hle)) hk (Nat.mod_eq_of_lt hv)
    · rw [if_neg hle, if_neg hle]
      exact again (congrArg some (if_neg hle)) hrk (Nat.mod_eq_of_lt hold)
  · exact again rfl hrk (Nat.mod_mod _ _)
  · exact again rfl hrk hmin
  · exact again rfl hrk hminU
  · exact again rfl hrk hmax
  · exact again rfl hrk hmaxU
  · exact settle_written hwritten n 6 k v

/-! ### A plane word's change at a swap (R221) -/

/-- A write at its home of a plane word is a write of its bytes. -/
theorem PlaneWord.homeWrite_byte {a n : Nat} (h : PlaneWord a n) (s : State) (bs : List Byte) (b : Nat) :
    (homeWrite s a bs false).byte b = (s.setBytes a bs).byte b := by
  have hdram : isDram a = false := by
    obtain ⟨hlo, -⟩ := h.store
    rw [Bool.eq_false_iff, ne_eq, isDram_iff]
    simp only [dramEnd, tileBase] at hlo ⊢
    omega
  have hready : homeReady s a bs.length = softWrite s a bs.length := if_neg (by rw [hdram]; exact Bool.false_ne_true)
  rw [State.byte, homeWrite_mem, h.locOf_eq, hready, softWrite_mem]
  rfl

/-- A written word becomes current, an unwritten one is kept or cleared; the step has ended for it. -/
theorem PlaneWord.swapWord_spec {a n : Nat} (h : PlaneWord a n) (s : State) (clear : Bool) :
    ((s.byte (rankPlace a + 1)).getLsbD 0 = true → wordAt (swapWord clear n s a) a n = wordAt s (a + 0x20000) n) ∧
      ((s.byte (rankPlace a + 1)).getLsbD 0 = false → wordAt (swapWord clear n s a) a n = if clear then 0 else wordAt s a n) ∧
      (swapWord clear n s a).byte (rankPlace a) = 0 ∧ (swapWord clear n s a).byte (rankPlace a + 1) = 0 := by
  obtain ⟨hnext, hword⟩ := h.rankPlace_bounds
  have hend : ∀ u : State, wordAt (u.setBytes (rankPlace a) [0, 0]) a n = wordAt u a n := fun u => by
    rw [wordAt, bytes_setBytes_other _ _ _ (.inl hword), wordAt]
  have hput : ∀ bs : List Byte, bs.length = n → wordAt (homeWrite s a bs false) a n = leNat bs := fun bs hbs => by
    have hbytes : (homeWrite s a bs false).bytes a n = (s.setBytes a bs).bytes a n :=
      bytes_congr fun i _ => h.homeWrite_byte s bs (a + i)
    rw [wordAt, hbytes, ← hbs, bytes_setBytes_same]
  refine ⟨fun hw => ?_, fun hw => ?_, ?_, ?_⟩
  · rw [swapWord, bitOf_zero, hw, hend]
    exact hput _ (Memory.read_length _ _ _)
  · rw [swapWord, bitOf_zero, hw, hend]
    cases clear
    · rfl
    · exact (hput _ (leBytes_length n 0)).trans ((leNat_leBytes_mod n 0).trans (Nat.zero_mod _))
  · rw [swapWord, byte_setBytes, if_pos (by simp)]
    simp
  · rw [swapWord, byte_setBytes, if_pos (by simp)]
    simp

end Sys2Proof.Machine

end

section

namespace Sys2Proof.Machine

open Claims

/-! ### Requests and writes at homes where DRAM stands as it was written (R209, R214) -/

/-- What is stored, its errors and the fields are as they were. -/
structure Asked (s t : State) : Prop where
  mem : t.mem = s.mem
  poison : t.poison = s.poison
  flips : t.flips = s.flips
  under : t.under = s.under
  fields : t.fields = s.fields

namespace Asked

@[refl] theorem refl (s : State) : Asked s s := ⟨rfl, rfl, rfl, rfl, rfl⟩

@[trans] theorem trans {s t u : State} (h : Asked s t) (k : Asked t u) : Asked s u :=
  ⟨k.mem.trans h.mem, k.poison.trans h.poison, k.flips.trans h.flips, k.under.trans h.under, k.fields.trans h.fields⟩

theorem ite {s t u : State} {p : Prop} [Decidable p] (ht : Asked s t) (hu : Asked s u) : Asked s (if p then t else u) := by
  split <;> assumption

theorem asWritten {s t : State} (h : Asked s t) (hs : AsWritten s) : AsWritten t :=
  ⟨h.flips.trans hs.1, h.under.trans hs.2⟩

theorem fold {α : Type} (f : State → α → State) (hf : ∀ s a, AsWritten s → Asked s (f s a)) (as : List α) {s : State}
    (hs : AsWritten s) : Asked s (foldState f s as) :=
  foldState_ind (Asked s) f (fun t a h => h.trans (hf t a (h.asWritten hs))) as s (refl s)

theorem field {s t : State} (h : Asked s t) (f : Nat) : t.field f = s.field f := congrArg (SMap.get · FieldSt.reset f) h.fields

theorem byte {s t : State} (h : Asked s t) (a : Nat) : t.byte a = s.byte a := congrArg (Memory.get · a) h.mem

section
variable (s : State)

theorem setDie (n : Nat) (v : DieSt) : Asked s (s.setDie n v) := ⟨rfl, rfl, rfl, rfl, rfl⟩
theorem setSlot (n : Nat) (v : SlotSt) : Asked s (s.setSlot n v) := ⟨rfl, rfl, rfl, rfl, rfl⟩
theorem modGraph (g : Nat) (f : GraphSt → GraphSt) : Asked s (s.modGraph g f) := ⟨rfl, rfl, rfl, rfl, rfl⟩
theorem source (k : Nat) : Asked s { s with src := k } := ⟨rfl, rfl, rfl, rfl, rfl⟩
theorem by_ (k : BitVec 32) : Asked s (s.by k) := source s k.toNat
theorem late (b : Bool) : Asked s { s with late := b } := ⟨rfl, rfl, rfl, rfl, rfl⟩
theorem markAt (p : Point) (k : Nat) : Asked s (markAt s p k) := by constructor <;> simp

theorem pmcCount (d e n : Nat) : Asked s (pmcCount s d e n) := setDie _ _ _

theorem countFlits (h u d : Nat) : Asked s (countFlits s h u d) := by
  have hcross : ∀ (t : State) a b n, Asked t (crossFlits t a b n) := fun t a b n =>
    foldState_ind (Asked t) _ (fun _ _ h => h.trans (pmcCount _ _ _ _)) _ t (refl t)
  exact (hcross _ _ _ _).trans (hcross _ _ _ _)

theorem l2Count (a : Nat) (h : Bool) : Asked s (l2Count s a h) := by
  unfold Machine.l2Count
  dsimp only
  generalize windowOf _ _ = w
  cases w <;> cases h
  · exact setDie _ _ _
  · exact refl s
  · exact (setDie _ _ _).trans (setDie _ _ _)
  · exact setDie _ _ _

end

section
variable {s : State} (hs : AsWritten s)
include hs

theorem fetchSector_eq (a : Nat) : fetchSector s a = s := by
  have hdec : ∀ g k, decodeGranule s g k = s := fun _ _ => if_pos hs.1
  rw [fetchSector, hdec, settleFlag, if_pos hs.1]

/-- A line that leaves the second-level cache takes no byte with it. -/
theorem l2WriteBack (l : L2Line) : Asked s (l2WriteBack s l) := by
  have hunder : ∀ t : State, AsWritten t → ∀ k, uncover t k = t := fun t ht k => by rw [uncover, ht.2]; rfl
  have hencode : ∀ t : State, AsWritten t → ∀ g w k, encodeGranule t g w k = t := fun t ht g w k => if_pos (by rw [ht.1]; rfl)
  have herase : ∀ ks : List Nat, ks.foldl SMap.erase ([] : SMap (List Byte × Bool)) = [] := fun ks => by
    induction ks with
    | nil => rfl
    | cons k ks ih => exact ih
  unfold Machine.l2WriteBack
  extract_lets sec mine u keep v
  have hu : Asked s u := fold _ (fun t k ht => by rw [hunder t ht]) _ hs
  have hv : Asked s v := hu.trans (fold _ (fun t g ht => by rw [hencode t ht]) _ (hu.asWritten hs))
  refine ⟨hv.mem, hv.poison, hv.flips, ?_, hv.fields⟩
  rw [hv.under, hs.2, herase]

theorem l2Line (b : Nat) (v d : List Nat) (e c : Bool) : Asked s (l2Line s b v d e c) := by
  unfold Machine.l2Line
  dsimp only
  split
  · exact setDie _ _ _
  · exact (fold _ (fun _ l ht => l2WriteBack ht l) _ hs).trans (setDie _ _ _)

/-- A request at a home changes nothing that is stored. -/
theorem l2Request (a : Nat) (ls : List (Nat × List Nat)) (w e : Bool) : Asked s (l2Request s a ls w e) := by
  unfold Machine.l2Request
  refine ite (refl s) ?_
  have h : ∀ b k u d c, Asked s
      (Machine.l2Count (Machine.countFlits (Machine.markAt { s with late := b } (.home k) s.src) k u d) a c) :=
    fun b _ _ _ _ => (((late s b).trans (markAt _ _ _)).trans (countFlits _ _ _ _)).trans (l2Count _ _ _)
  have hf : ∀ {t}, Asked s t → ∀ as, Asked s (foldState Machine.fetchSector t as) := fun ht as =>
    ht.trans (fold _ (fun u b hu => by rw [fetchSector_eq hu]) as (ht.asWritten hs))
  exact (hf (h _ _ _ _ _) _).trans (fold _ (fun _ l hu => l2Line hu _ _ _ _ _) _ ((hf (h _ _ _ _ _) _).asWritten hs))

theorem l2Touch (a : Nat) (l : List Nat) (w e : Bool) : Asked s (l2Touch s a l w e) := l2Request hs _ _ _ _

theorem asCache {f : Nat} {go : State → State} (h : ∀ u, AsWritten u → Asked u (go u)) : Asked s (asCache s f go) :=
  have hsrc := source s (cacheSource f).toNat
  (hsrc.trans (h _ (hsrc.asWritten hs))).trans (source _ _)

end

end Asked

/-- Reading where no bit has flipped writes nothing: DRAM is made ready for a write in the second-level cache alone. -/
theorem homeReady_dram {s : State} (hs : AsWritten s) {a : Nat} (ha : isDram a = true) (n : Nat) : Asked s (homeReady s a n) := by
  have hprep : prepareWrite s a n = s := if_pos hs.1
  rw [homeReady, if_pos ha, hprep, ite_self]
  exact Asked.setDie _ _ _

/-- A write at a home in DRAM writes its bytes, marks poison, and changes no field. -/
theorem homeWrite_dram {s : State} (hs : AsWritten s) {a : Nat} (ha : isDram a = true) (bs : List Byte) (p : Bool) :
    (homeWrite s a bs p).mem = Memory.write s.mem (locOf s a) bs ∧ (homeWrite s a bs p).flips = s.flips ∧
      (homeWrite s a bs p).under = s.under ∧ (homeWrite s a bs p).fields = s.fields := by
  have hready := homeReady_dram hs ha bs.length
  refine ⟨?_, ?_⟩
  · rw [homeWrite_mem, hready.mem, (Below.homeReady s a bs.length).locOf]
  · have hkick : ∀ (t : State) n, (noteKick t a n).flips = t.flips ∧ (noteKick t a n).under = t.under ∧
        (noteKick t a n).fields = t.fields := fun t n =>
      foldState_ind (fun u => u.flips = t.flips ∧ u.under = t.under ∧ u.fields = t.fields) _
        (fun u q hu => by dsimp only; split <;> exact hu) _ t ⟨rfl, rfl, rfl⟩
    have hpoison : ∀ (t : State) (bs' : List Nat), let u := foldState (fun s b => if p then s.setPoison (locOf s b) true
        else if a ≤ b ∧ b + sectorLen b ≤ a + bs.length then s.setPoison (locOf s b) false else s) t bs'
        u.flips = t.flips ∧ u.under = t.under ∧ u.fields = t.fields := fun t bs' =>
      foldState_ind (fun u => u.flips = t.flips ∧ u.under = t.under ∧ u.fields = t.fields) _
        (fun u b hu => by split <;> [skip; split] <;> exact hu) _ t ⟨rfl, rfl, rfl⟩
    unfold homeWrite
    simp only [ha, if_true]
    obtain ⟨hflips, hunder, hfields⟩ := hpoison ((homeReady s a bs.length).setHome a bs) (sectorsOf a bs.length)
    obtain ⟨hflips', hunder', hfields'⟩ := hkick (breakReservations (foldState (fun s b => if p then s.setPoison (locOf s b) true
        else if a ≤ b ∧ b + sectorLen b ≤ a + bs.length then s.setPoison (locOf s b) false else s)
          ((homeReady s a bs.length).setHome a bs) (sectorsOf a bs.length)) a bs.length) bs.length
    exact ⟨(hflips'.trans hflips).trans hready.flips, (hunder'.trans hunder).trans hready.under,
      (hfields'.trans hfields).trans hready.fields⟩

end Sys2Proof.Machine

end

section

namespace Sys2Proof.Machine

open Claims

/-! ### What is written at homes (R206, R214) -/

/-- At the home of every byte that W names stands a value that W gives a byte of that home, and every other byte is as it was; where an
address lies and what is stored wrongly is as it was too. -/
structure Homed (s t : State) (W : Nat → Byte → Prop) : Prop where
  below : Below s t
  flips : t.flips = s.flips
  under : t.under = s.under
  bytes : ∀ a, (∃ b v, W b v ∧ locOf s b = a ∧ t.byte a = v) ∨ (t.byte a = s.byte a ∧ ∀ b v, W b v → locOf s b ≠ a)

namespace Homed

variable {s t u : State} {W V : Nat → Byte → Prop}

theorem of_asked (hb : Below s t) (ha : Asked s t) : Homed s t fun _ _ => False :=
  ⟨hb, ha.flips, ha.under, fun a => .inr ⟨ha.byte a, fun _ _ h => h.elim⟩⟩

theorem asWritten (h : Homed s t W) (hs : AsWritten s) : AsWritten t := ⟨h.flips.trans hs.1, h.under.trans hs.2⟩

theorem congr (h : Homed s t W) (hW : ∀ b v, W b v ↔ V b v) : Homed s t V := by
  have hWV : W = V := funext fun b => funext fun v => propext (hW b v)
  exact hWV ▸ h

theorem trans (h : Homed s t W) (k : Homed t u V) : Homed s u fun b v => W b v ∨ V b v where
  below := h.below.trans k.below
  flips := k.flips.trans h.flips
  under := k.under.trans h.under
  bytes a := by
    rcases k.bytes a with ⟨b, v, hV, hloc, hbyte⟩ | ⟨hsame, hnone⟩
    · exact .inl ⟨b, v, .inr hV, (h.below.locOf b).symm.trans hloc, hbyte⟩
    · rcases h.bytes a with ⟨b, v, hW, hloc, hbyte⟩ | ⟨hsame', hnone'⟩
      · exact .inl ⟨b, v, .inl hW, hloc, hsame.trans hbyte⟩
      · refine .inr ⟨hsame.trans hsame', fun b v hWV => hWV.elim (hnone' b v) fun hV hloc => ?_⟩
        exact hnone b v hV ((h.below.locOf b).trans hloc)

theorem setField (h : Homed s t W) (n : Nat) (v : FieldSt) : Homed s (t.setField n v) W :=
  ⟨h.below.trans (Beneath.setField _ _ _).toBelow, h.flips, h.under, h.bytes⟩

end Homed

/-- The fields are as they were too. -/
structure Written (s t : State) (W : Nat → Byte → Prop) : Prop extends Homed s t W where
  fields : t.fields = s.fields

namespace Written

variable {s t u : State} {W V : Nat → Byte → Prop}

theorem of_asked (hb : Below s t) (ha : Asked s t) : Written s t fun _ _ => False := ⟨Homed.of_asked hb ha, ha.fields⟩

theorem congr (h : Written s t W) (hW : ∀ b v, W b v ↔ V b v) : Written s t V := ⟨h.toHomed.congr hW, h.fields⟩

theorem trans (h : Written s t W) (k : Written t u V) : Written s u fun b v => W b v ∨ V b v :=
  ⟨h.toHomed.trans k.toHomed, k.fields.trans h.fields⟩

theorem field (h : Written s t W) (f : Nat) : t.field f = s.field f := congrArg (SMap.get · FieldSt.reset f) h.fields

/-- Steps one after another, where each starts from what is stored as it was written. -/
theorem fold {α : Type} {f : State → α → State} {N : α → Nat → Byte → Prop} : ∀ (as : List α) {s : State}, AsWritten s →
    (∀ a ∈ as, ∀ s, AsWritten s → Written s (f s a) (N a)) → Written s (foldState f s as) fun b v => ∃ a ∈ as, N a b v
  | [], s, hs, _ => (of_asked (Below.refl s) (Asked.refl s)).congr fun b v => by simp
  | a :: as, s, hs, hf => by
    have hfirst := hf a List.mem_cons_self s hs
    have hrest := fold as (hfirst.asWritten hs) fun b hb => hf b (List.mem_cons_of_mem _ hb)
    exact (hfirst.trans hrest).congr fun b v => by simp

end Written

/-- A write at a home in DRAM, within a page. -/
theorem written_homeWrite {s : State} (hs : AsWritten s) {a : Nat} (ha : isDram a = true) {bs : List Byte}
    (hpage : a % pageSize + bs.length ≤ pageSize) (p : Bool) :
    Written s (homeWrite s a bs p) fun b v => ∃ i, bs[i]? = some v ∧ b = a + i := by
  obtain ⟨hmem, hflips, hunder, hfields⟩ := homeWrite_dram hs ha bs p
  refine ⟨⟨Below.homeWrite s a bs p, hflips, hunder, fun c => ?_⟩, hfields⟩
  have hplace : ∀ i v, bs[i]? = some v → locOf s (a + i) = locOf s a + i := fun i v hi => by
    have hlt := (List.getElem?_eq_some_iff.mp hi).1
    exact locOf_add s (by omega)
  have hbyte : (homeWrite s a bs p).byte c =
      if locOf s a ≤ c ∧ c < locOf s a + bs.length then (bs[c - locOf s a]?).getD 0 else s.byte c := by
    rw [State.byte, hmem, Memory.get_write, State.byte]
  by_cases hin : locOf s a ≤ c ∧ c < locOf s a + bs.length
  · have hget : bs[c - locOf s a]? = some (bs[c - locOf s a]'(by omega)) := List.getElem?_eq_getElem _
    refine .inl ⟨a + (c - locOf s a), _, ⟨_, hget, rfl⟩, (hplace _ _ hget).trans (by omega), ?_⟩
    rw [hbyte, if_pos hin, hget]
    rfl
  · refine .inr ⟨by rw [hbyte, if_neg hin], ?_⟩
    rintro b v ⟨i, hi, rfl⟩ hloc
    have hlt := (List.getElem?_eq_some_iff.mp hi).1
    exact hin (by rw [← hloc, hplace i v hi]; omega)

end Sys2Proof.Machine

/-! ### Rising tables (R205) -/

namespace Sys2Proof.Machine.SMap

variable {α : Type}

/-- A rising table whose keys lie below a bound has no more entries than there are keys. -/
theorem length_le_of_sortedFrom : ∀ {b c : Nat} {m : SMap α}, sortedFrom b m = true → (∀ e ∈ m, e.1 < c) → m ≠ [] →
    b + m.length ≤ c
  | b, c, [(k, v)], hm, hlt, _ => by
    have hk := hlt (k, v) List.mem_cons_self
    simp only [sortedFrom, Bool.and_true, decide_eq_true_eq] at hm
    simp only [List.length_singleton] at hk ⊢
    omega
  | b, c, (k, v) :: e :: m, hm, hlt, _ => by
    simp only [sortedFrom, Bool.and_eq_true, decide_eq_true_eq] at hm
    have ih := length_le_of_sortedFrom (b := k + 1) (m := e :: m) (by simpa [sortedFrom] using hm.2)
      (fun d hd => hlt d (List.mem_cons_of_mem _ hd)) (List.cons_ne_nil _ _)
    simp only [List.length_cons] at ih ⊢
    omega

/-- A rising table that has as many entries as there are keys has each of them in its place. -/
theorem key_of_full : ∀ {b : Nat} {m : SMap α}, sortedFrom b m = true → (∀ e ∈ m, e.1 < b + m.length) →
    ∀ {i : Nat} {e : Nat × α}, m[i]? = some e → e.1 = b + i
  | b, (k, v) :: m, hm, hlt, i, e, hi => by
    simp only [sortedFrom, Bool.and_eq_true, decide_eq_true_eq] at hm
    have hrest : ∀ d ∈ m, d.1 < b + (m.length + 1) := fun d hd => hlt d (List.mem_cons_of_mem _ hd)
    have hkey : k = b := by
      rcases m with _ | ⟨d, m⟩
      · have hk := hlt (k, v) List.mem_cons_self
        simp only [List.length_singleton] at hk
        omega
      · have hlen := length_le_of_sortedFrom hm.2 hrest (List.cons_ne_nil _ _)
        omega
    subst hkey
    rcases i with _ | i
    · cases hi
      rfl
    · have ih := key_of_full hm.2 (fun d hd => by have h := hrest d hd; omega) (i := i) (by simpa using hi)
      omega

theorem sortedFrom_of_le {b c : Nat} : ∀ {m : SMap α}, sortedFrom b m = true → (∀ e ∈ m, c ≤ e.1) → sortedFrom c m = true
  | [], _, _ => rfl
  | (k, v) :: m, hm, hle => by
    simp only [sortedFrom, Bool.and_eq_true, decide_eq_true_eq] at hm ⊢
    exact ⟨hle (k, v) List.mem_cons_self, hm.2⟩

/-- In a rising table an entry is what its key finds. -/
theorem find_of_mem : ∀ {b : Nat} {m : SMap α}, sortedFrom b m = true → ∀ {e : Nat × α}, e ∈ m → find m e.1 = some e.2
  | b, (k, v) :: m, hm, e, he => by
    simp only [sortedFrom, Bool.and_eq_true, decide_eq_true_eq] at hm
    rcases List.mem_cons.mp he with rfl | he
    · exact if_pos rfl
    · have hfind := find_of_mem hm.2 he
      have hne : e.1 ≠ k := fun hk => by
        rw [find_below m hm.2 (by omega)] at hfind
        cases hfind
      exact (if_neg hne).trans hfind

/-- In a rising table an entry stays where it passes. -/
theorem find_filter (p : Nat × α → Bool) : ∀ {b : Nat} {m : SMap α}, sortedFrom b m = true → ∀ k,
    find (m.filter p) k = (find m k).filter fun v => p (k, v)
  | b, [], _, k => rfl
  | b, (j, w) :: m, hm, k => by
    simp only [sortedFrom, Bool.and_eq_true, decide_eq_true_eq] at hm
    have ih := find_filter p hm.2 k
    rw [find_cons]
    by_cases hp : p (j, w) = true
    · rw [List.filter_cons_of_pos hp, find_cons]
      by_cases hk : k = j
      · subst hk
        rw [if_pos rfl, if_pos rfl, Option.filter_some, if_pos hp]
      · rw [if_neg hk, if_neg hk, ih]
    · rw [List.filter_cons_of_neg hp, ih]
      by_cases hk : k = j
      · subst hk
        rw [if_pos rfl, find_below m hm.2 (Nat.lt_succ_self _), Option.filter_some, if_neg hp]
        rfl
      · rw [if_neg hk]

theorem find_map (f : α → α) : ∀ (m : SMap α) (k : Nat), find (m.map fun e => (e.1, f e.2)) k = (find m k).map f
  | [], _ => rfl
  | (j, w) :: m, k => by
    rw [List.map_cons, find_cons, find_cons, find_map f m k]
    split <;> rfl

end Sys2Proof.Machine.SMap

end

section

namespace Sys2Proof.Machine

open Claims

/-! ### Lines and their numbers (R202, R205) -/

theorem lineInPage_lt (a : Nat) : lineInPage a < 10923 := by
  simp only [lineInPage, pageSize]
  omega

/-- A line's number names its page and its place in it. -/
theorem lineNo_inj {a b : Nat} (h : lineNo a = lineNo b) : ppnOf a = ppnOf b ∧ lineInPage a = lineInPage b := by
  have ha := lineInPage_lt a
  have hb := lineInPage_lt b
  simp only [lineNo] at h
  omega

theorem lineBase_of_lineNo {a b : Nat} (h : lineNo a = lineNo b) : lineBase a = lineBase b := by
  obtain ⟨hpage, hline⟩ := lineNo_inj h
  rw [lineBase, lineBase, hpage, hline]

theorem lineNo_of_lineBase {a b : Nat} (h : lineBase a = lineBase b) : lineNo a = lineNo b := by
  have hpage : ∀ c, lineBase c / pageSize = ppnOf c := fun c => by
    have hlt : lineInPage c * 192 < pageSize := lt_of_le_of_lt (Nat.mul_le_mul_right 192 (Nat.le_of_lt_succ (lineInPage_lt c))) (by decide)
    rw [lineBase, Nat.add_comm, Nat.add_mul_div_right _ _ (by decide), Nat.div_eq_of_lt hlt, Nat.zero_add]
  have hppn : ppnOf a = ppnOf b := by rw [← hpage, h, hpage]
  have hline : lineInPage a * 192 = lineInPage b * 192 := by
    rw [lineBase, lineBase, hppn] at h
    exact Nat.add_left_cancel h
  rw [lineNo, lineNo, hppn, Nat.eq_of_mul_eq_mul_right (by decide) hline]

/-- An address lies in its line, at an offset of its sector. -/
theorem lineBase_add (a : Nat) : lineBase a ≤ a ∧ a - lineBase a < lineLen a ∧ (a - lineBase a) / 48 = sectorInLine a := by
  have hmin : ∀ x y, Nat.min x y = min x y := fun _ _ => rfl
  simp only [lineBase, lineLen, lineInPage, ppnOf, sectorInLine, pageSize, hmin]
  omega

/-- A line lies within a page. -/
theorem lineBase_page {b : Nat} (hb : lineBase b = b) : b % pageSize + lineLen b ≤ pageSize := by
  have hmin : ∀ x y, Nat.min x y = min x y := fun _ _ => rfl
  simp only [lineBase, lineLen, lineInPage, ppnOf, pageSize, hmin] at hb ⊢
  omega

/-- Adding an offset of its line to a base stays in the page. -/
theorem page_of_offset {b o : Nat} (hb : lineBase b = b) (ho : o < lineLen b) :
    (b + o) % pageSize = b % pageSize + o ∧ (b + o) / pageSize = b / pageSize := by
  have hpage := lineBase_page hb
  have hlt : b % pageSize + o < pageSize := by omega
  constructor <;> simp only [pageSize] at hlt ⊢ <;> omega

/-- A byte of a line has the line's base. -/
theorem lineBase_of_offset {b o : Nat} (hb : lineBase b = b) (ho : o < lineLen b) : lineBase (b + o) = b := by
  obtain ⟨hmod, hdiv⟩ := page_of_offset hb ho
  have hmin : ∀ x y, Nat.min x y = min x y := fun _ _ => rfl
  have hlen : o < 192 := by simp only [lineLen, hmin] at ho; omega
  have hwhole : b % pageSize / 192 * 192 = b % pageSize := by
    simp only [lineBase, lineInPage, ppnOf] at hb
    have := Nat.div_add_mod' b pageSize
    omega
  have hline : (b % pageSize + o) / 192 = b % pageSize / 192 := by omega
  rw [lineBase, lineInPage, ppnOf, hmod, hdiv, hline, hwhole, Nat.div_add_mod']

/-- A sector of a line starts a multiple of 48 bytes behind its base. -/
theorem sectorLen_of_offset {b k : Nat} (hb : lineBase b = b) (hk : 48 * k < lineLen b) :
    sectorLen (b + 48 * k) = min 48 (pageSize - (b % pageSize + 48 * k)) := by
  obtain ⟨hmod, -⟩ := page_of_offset hb hk
  have hwhole : b % pageSize / 192 * 192 = b % pageSize := by
    simp only [lineBase, lineInPage, ppnOf] at hb
    have := Nat.div_add_mod' b pageSize
    omega
  have hsec : (b % pageSize + 48 * k) / 48 * 48 = b % pageSize + 48 * k := by omega
  rw [sectorLen, hmod, hsec]

/-- The offsets of a line that lie in its sector k. -/
theorem offset_in_sector {b o k : Nat} (hb : lineBase b = b) (ho : o < lineLen b) (hk : o / 48 = k) :
    48 * k ≤ o ∧ o < 48 * k + sectorLen (b + 48 * k) := by
  have hpage := lineBase_page hb
  rw [sectorLen_of_offset hb (by omega)]
  constructor
  · omega
  · rw [Nat.lt_iff_add_one_le]
    omega

theorem sector_page {b k : Nat} (hb : lineBase b = b) (hk : 48 * k < lineLen b) :
    (b + 48 * k) % pageSize + sectorLen (b + 48 * k) ≤ pageSize := by
  have hpage := lineBase_page hb
  rw [sectorLen_of_offset hb hk, (page_of_offset hb hk).1]
  omega
/-- A line of the cache at its number, its bytes in their order and of DRAM alone (R205). -/
structure LineInPlace (g : Nat) (l : CLine) : Prop where
  number : lineNo l.base = g
  base : lineBase l.base = l.base
  rising : SMap.sortedFrom 0 l.bytes = true
  bytes : ∀ e ∈ l.bytes, e.1 < lineLen l.base ∧ isDram (l.base + e.1) = true

theorem linesInPlace_iff (fs : FieldSt) : LinesInPlace fs ↔ ∀ g l, SMap.find fs.cache g = some l → LineInPlace g l :=
  ⟨fun h g l hl => ⟨(h g l hl).1, (h g l hl).2.1, (h g l hl).2.2.1, (h g l hl).2.2.2⟩,
    fun h g l hl => ⟨(h g l hl).number, (h g l hl).base, (h g l hl).rising, (h g l hl).bytes⟩⟩

/-! ### Dirty bytes go home (R206, R214) -/

/-- A byte of a line that is written back: dirty, in no tentative sector, and selected. -/
def goesHome (l : CLine) (sel : Nat → Bool) (e : Nat × CByte) : Bool := e.2.drt && !l.tnt.contains (e.1 / 48) && sel (l.base + e.1)

/-- A line without the bytes that have gone home. -/
def cleaned (sel : Nat → Bool) (l : CLine) : CLine := { l with bytes := l.bytes.filter fun e => !goesHome l sel e }

/-- The bytes of the line at number g that go home: their addresses and values. -/
def GoesHome (fs : FieldSt) (sel : Nat → Bool) (g b : Nat) (v : Byte) : Prop :=
  ∃ l, SMap.find fs.cache g = some l ∧ ∃ e ∈ l.bytes, goesHome l sel e = true ∧ b = l.base + e.1 ∧ v = e.2.v

/-- The bytes of a sector go home at once, or one by one. -/
theorem written_writeBackSector {s : State} (hs : AsWritten s) {g : Nat} {l : CLine} (hl : LineInPlace g l) (k : Nat)
    {bs : SMap CByte} (hbs : ∀ e ∈ bs, e ∈ l.bytes) (hrise : SMap.sortedFrom 0 bs = true) :
    Written s (writeBackSector s l.base k bs) fun b v => ∃ e ∈ bs, e.1 / 48 = k ∧ b = l.base + e.1 ∧ v = e.2.v := by
  have hmem : ∀ {e}, e ∈ bs.filter (fun e => decide (e.1 / 48 = k)) ↔ e ∈ bs ∧ e.1 / 48 = k := fun {e} => by simp
  have hoff : ∀ e ∈ bs, e.1 < lineLen l.base ∧ isDram (l.base + e.1) = true := fun e he => hl.bytes e (hbs e he)
  have hpage := lineBase_page hl.base
  unfold writeBackSector
  dsimp only
  split
  case isTrue hwhole =>
    obtain ⟨hne, hlen⟩ := hwhole
    have hsorted : SMap.sortedFrom (48 * k) (bs.filter fun e => decide (e.1 / 48 = k)) = true := by
      refine SMap.sortedFrom_of_le (SMap.sortedFrom_filter _ 0 bs hrise) fun e he => ?_
      have hsec := (hmem.mp he).2
      omega
    have hfull : ∀ e ∈ bs.filter (fun e => decide (e.1 / 48 = k)),
        e.1 < 48 * k + (bs.filter fun e => decide (e.1 / 48 = k)).length := fun e he => by
      obtain ⟨hin, hsec⟩ := hmem.mp he
      rw [hlen]
      exact (offset_in_sector hl.base (hoff e hin).1 hsec).2
    obtain ⟨e0, he0⟩ := List.exists_mem_of_ne_nil _ hne
    obtain ⟨hin0, hsec0⟩ := hmem.mp he0
    have hstart : 48 * k < lineLen l.base := by
      have := (hoff e0 hin0).1
      omega
    have hdram : isDram (l.base + 48 * k) = true := by
      have h0 := isDram_iff.mp (hoff e0 hin0).2
      exact isDram_iff.mpr (by omega)
    have hlast : (l.base + 48 * k) % pageSize + ((bs.filter fun e => decide (e.1 / 48 = k)).map fun e => e.2.v).length ≤ pageSize := by
      rw [List.length_map, hlen]
      exact sector_page hl.base hstart
    refine (written_homeWrite hs hdram hlast false).congr fun b v => ?_
    · simp only [List.getElem?_map, Option.map_eq_some_iff]
      constructor
      · rintro ⟨i, ⟨e, hi, rfl⟩, rfl⟩
        obtain ⟨hin, hsec⟩ := hmem.mp (List.mem_of_getElem? hi)
        have hkey := SMap.key_of_full hsorted hfull hi
        exact ⟨e, hin, hsec, by omega, rfl⟩
      · rintro ⟨e, hin, hsec, rfl, rfl⟩
        obtain ⟨i, hi⟩ := List.mem_iff_getElem?.mp (hmem.mpr ⟨hin, hsec⟩)
        have hkey := SMap.key_of_full hsorted hfull hi
        exact ⟨i, ⟨e, hi, rfl⟩, by omega⟩
  case isFalse =>
    refine (Written.fold (N := fun (e : Nat × CByte) b v => b = l.base + e.1 ∧ v = e.2.v) _ hs fun e he t ht => ?_).congr fun b v => ?_
    · obtain ⟨hlt, hdram⟩ := hoff e (hmem.mp he).1
      refine (written_homeWrite ht hdram (bs := [e.2.v]) ?_ false).congr fun b v => ?_
      · rw [List.length_singleton]
        have hoffset : (l.base + e.1) % pageSize = l.base % pageSize + e.1 := by
          simp only [pageSize] at hpage ⊢
          omega
        omega
      · constructor
        · rintro ⟨i, hi, rfl⟩
          rcases i with _ | i
          · exact ⟨rfl, by simpa using hi.symm⟩
          · cases hi
        · rintro ⟨rfl, rfl⟩
          exact ⟨0, rfl, rfl⟩
    · simp only [hmem, and_assoc]

/-- A line without dirty bytes that go home is clean. -/
theorem cleaned_of_nil {sel : Nat → Bool} {l : CLine} (h : l.bytes.filter (goesHome l sel) = []) : cleaned sel l = l := by
  have hall : l.bytes.filter (fun e => !goesHome l sel e) = l.bytes :=
    List.filter_eq_self.mpr fun e he => by simpa using List.filter_eq_nil_iff.mp h e he
  rw [cleaned, hall]

/-- What the home has of bytes of a line, once the line's sectors have been asked for. -/
def sectorsWritten (s : State) (f base : Nat) (bs : SMap CByte) : State :=
  let secs := (bs.map fun e => e.1 / 48).dedup
  foldState (fun s k => writeBackSector s base k bs) (asCache s f fun s => l2Touch s base secs true false) secs

theorem writeBackLine_eq {s : State} {f g : Nat} {l : CLine} (hfind : SMap.find (s.field f).cache g = some l) (sel : Nat → Bool) :
    writeBackLine s f g sel true = if l.bytes.filter (goesHome l sel) = [] then s
      else
        let t := sectorsWritten s f l.base (l.bytes.filter (goesHome l sel))
        t.setField f { t.field f with cache := SMap.insert (t.field f).cache g (cleaned sel l) } := by
  simp only [writeBackLine, hfind]
  rfl

theorem written_sectorsWritten {s : State} (hs : AsWritten s) (f : Nat) {g : Nat} {l : CLine} (hl : LineInPlace g l) {bs : SMap CByte}
    (hbs : ∀ e ∈ bs, e ∈ l.bytes) (hrise : SMap.sortedFrom 0 bs = true) :
    Written s (sectorsWritten s f l.base bs) fun b v => ∃ e ∈ bs, b = l.base + e.1 ∧ v = e.2.v := by
  have hasked : ∀ secs, Asked s (asCache s f fun s => l2Touch s l.base secs true false) := fun secs =>
    Asked.asCache hs fun u hu => Asked.l2Touch hu _ _ _ _
  have hbelow : ∀ secs, Below s (asCache s f fun s => l2Touch s l.base secs true false) := fun secs =>
    Below.asCache s fun u => Below.l2Touch u _ _ _ _
  refine ((Written.of_asked (hbelow _) (hasked _)).trans (Written.fold _ ((hasked _).asWritten hs) fun k _ t ht =>
    written_writeBackSector ht hl k hbs hrise)).congr fun b v => ?_
  simp only [false_or, List.mem_dedup, List.mem_map]
  constructor
  · rintro ⟨k, -, e, he, -, hb, hv⟩
    exact ⟨e, he, hb, hv⟩
  · rintro ⟨e, he, hb, hv⟩
    exact ⟨e.1 / 48, ⟨e, he, rfl⟩, e, he, rfl, hb, hv⟩

/-! ### Several lines go home -/

/-- From s to t the lines of field f at the numbers that done names have given their bytes home and have dropped them. -/
structure Emptied (s t : State) (f : Nat) (sel : Nat → Bool) (done : List Nat) : Prop extends
    Homed s t (fun b v => ∃ g ∈ done, GoesHome (s.field f) sel g b v) where
  lines : ∀ g, SMap.find (t.field f).cache g =
    if g ∈ done then (SMap.find (s.field f).cache g).map (cleaned sel) else SMap.find (s.field f).cache g

theorem emptied_writeBackLine {s : State} (hs : AsWritten s) {f : Nat} (hplace : ∀ g l, SMap.find (s.field f).cache g = some l →
    LineInPlace g l) (sel : Nat → Bool) (g : Nat) : Emptied s (writeBackLine s f g sel true) f sel [g] := by
  rcases hfind : SMap.find (s.field f).cache g with _ | l
  · have hsame : writeBackLine s f g sel true = s := by simp only [writeBackLine, hfind]
    rw [hsame]
    refine ⟨(Homed.of_asked (Below.refl s) (Asked.refl s)).congr fun b v => ?_, fun k => ?_⟩
    · simp [GoesHome, hfind]
    · split
      · rename_i hk
        rw [List.mem_singleton.mp hk, hfind]
        rfl
      · rfl
  · have hl := hplace g l hfind
    have hwhat : ∀ b v, (∃ e ∈ l.bytes.filter (goesHome l sel), b = l.base + e.1 ∧ v = e.2.v) ↔
        ∃ k ∈ [g], GoesHome (s.field f) sel k b v := fun b v => by
      simp [GoesHome, hfind, and_assoc]
    have hwritten := written_sectorsWritten hs f hl (fun e he => (List.mem_filter.mp he).1)
      (SMap.sortedFrom_filter (goesHome l sel) 0 l.bytes hl.rising)
    rw [writeBackLine_eq hfind]
    split
    · rename_i hnil
      refine ⟨(Homed.of_asked (Below.refl s) (Asked.refl s)).congr fun b v => ?_, fun k => ?_⟩
      · rw [← hwhat, hnil]
        simp
      · split
        · rename_i hk
          rw [List.mem_singleton.mp hk, hfind, Option.map_some, cleaned_of_nil hnil]
        · rfl
    · refine ⟨(hwritten.toHomed.setField _ _).congr hwhat, fun k => ?_⟩
      rw [State.setField_same, hwritten.field]
      split
      · rename_i hk
        rw [List.mem_singleton.mp hk, hfind, SMap.find_insert_same, Option.map_some]
      · rename_i hk
        rw [SMap.find_insert_other _ _ (fun h => hk (List.mem_singleton.mpr h))]

/-- A line that has dropped bytes is in place, and what is left of it goes home where it did. -/
theorem LineInPlace.cleaned {g : Nat} {l : CLine} (h : LineInPlace g l) (sel : Nat → Bool) : LineInPlace g (cleaned sel l) :=
  ⟨h.number, h.base, SMap.sortedFrom_filter _ 0 l.bytes h.rising, fun e he => h.bytes e (List.mem_filter.mp he).1⟩

theorem cleaned_cleaned (sel : Nat → Bool) (l : CLine) : cleaned sel (cleaned sel l) = cleaned sel l := by
  simp [cleaned, goesHome, List.filter_filter]

namespace Emptied

variable {s t u : State} {f : Nat} {sel : Nat → Bool} {as bs : List Nat}

theorem inPlace (h : Emptied s t f sel as) (hplace : ∀ g l, SMap.find (s.field f).cache g = some l → LineInPlace g l) :
    ∀ g l, SMap.find (t.field f).cache g = some l → LineInPlace g l := fun g l hl => by
  rw [h.lines] at hl
  split at hl
  · obtain ⟨m, hm, rfl⟩ := Option.map_eq_some_iff.mp hl
    exact (hplace g m hm).cleaned sel
  · exact hplace g l hl

/-- What goes home after some lines have gone home would have gone home before. -/
theorem goesHome_of (h : Emptied s t f sel as) {g b : Nat} {v : Byte} (hg : GoesHome (t.field f) sel g b v) :
    GoesHome (s.field f) sel g b v := by
  obtain ⟨l, hl, e, he, hgoes, hb, hv⟩ := hg
  rw [h.lines] at hl
  split at hl
  · obtain ⟨m, hm, rfl⟩ := Option.map_eq_some_iff.mp hl
    exact ⟨m, hm, e, (List.mem_filter.mp he).1, hgoes, hb, hv⟩
  · exact ⟨l, hl, e, he, hgoes, hb, hv⟩

theorem goesHome_other (h : Emptied s t f sel as) {g b : Nat} {v : Byte} (hg : g ∉ as) :
    GoesHome (t.field f) sel g b v ↔ GoesHome (s.field f) sel g b v := by
  rw [GoesHome, h.lines, if_neg hg, GoesHome]

theorem trans (h : Emptied s t f sel as) (k : Emptied t u f sel bs) : Emptied s u f sel (as ++ bs) := by
  refine ⟨(h.toHomed.trans k.toHomed).congr fun b v => ?_, fun g => ?_⟩
  · constructor
    · rintro (⟨g, hg, hgoes⟩ | ⟨g, hg, hgoes⟩)
      · exact ⟨g, List.mem_append_left _ hg, hgoes⟩
      · exact ⟨g, List.mem_append_right _ hg, h.goesHome_of hgoes⟩
    · rintro ⟨g, hg, hgoes⟩
      by_cases ha : g ∈ as
      · exact .inl ⟨g, ha, hgoes⟩
      · exact .inr ⟨g, (List.mem_append.mp hg).resolve_left ha, (h.goesHome_other ha).mpr hgoes⟩
  · rw [k.lines, h.lines]
    by_cases ha : g ∈ as <;> by_cases hb : g ∈ bs <;> simp [ha, hb, Function.comp_def, cleaned_cleaned]

end Emptied

/-- Every line at a number of a list gives its dirty bytes home and drops them. -/
theorem emptied_writeBacks {f : Nat} (sel : Nat → Bool) : ∀ (es : SMap CLine) {s : State}, AsWritten s →
    (∀ g l, SMap.find (s.field f).cache g = some l → LineInPlace g l) →
    Emptied s (foldState (fun s e => writeBackLine s f e.1 sel true) s es) f sel (es.map Prod.fst)
  | [], s, _, _ =>
    ⟨(Homed.of_asked (Below.refl s) (Asked.refl s)).congr fun b v => by simp, fun g => (if_neg List.not_mem_nil).symm⟩
  | e :: es, s, hs, hplace => by
    have hfirst := emptied_writeBackLine hs hplace sel e.1
    exact hfirst.trans (emptied_writeBacks sel es (hfirst.asWritten hs) (hfirst.inPlace hplace))

/-! ### The cache has acted for a range of its bytes (R240, R249) -/

/-- A byte of the cache, by its line and its offset. -/
theorem cachedByte_eq (fs : FieldSt) (b : Nat) :
    cachedByte fs b = (SMap.find fs.cache (lineNo b)).bind fun l => SMap.find l.bytes (b - lineBase b) := by
  unfold cachedByte
  rcases SMap.find fs.cache (lineNo b) with _ | l <;> rfl

/-- What goes home is dirty in the cache, selected, and in no tentative sector. -/
theorem goesHome_iff {fs : FieldSt} (hplace : ∀ g l, SMap.find fs.cache g = some l → LineInPlace g l) (sel : Nat → Bool) {b : Nat}
    {v : Byte} : (∃ g, GoesHome fs sel g b v) ↔
      isDram b = true ∧ ∃ c, cachedByte fs b = some c ∧ c.v = v ∧ c.drt = true ∧ sel b = true ∧ tentative fs b = false := by
  constructor
  · rintro ⟨g, l, hl, e, he, hgoes, rfl, rfl⟩
    obtain ⟨hnumber, hbase, hrise, hbytes⟩ := hplace g l hl
    obtain ⟨hlt, hdram⟩ := hbytes e he
    have hline : lineBase (l.base + e.1) = l.base := lineBase_of_offset hbase hlt
    have hno : lineNo (l.base + e.1) = g := hnumber ▸ lineNo_of_lineBase (hline.trans hbase.symm)
    have hoff : l.base + e.1 - lineBase (l.base + e.1) = e.1 := by rw [hline]; omega
    have hsec := (lineBase_add (l.base + e.1)).2.2
    rw [hoff] at hsec
    simp only [goesHome, Bool.and_eq_true, Bool.not_eq_true'] at hgoes
    obtain ⟨⟨hdrt, htnt⟩, hsel⟩ := hgoes
    refine ⟨hdram, e.2, ?_, rfl, hdrt, hsel, ?_⟩
    · rw [cachedByte_eq, hno, hl, Option.bind_some, hoff, SMap.find_of_mem hrise he]
    · rw [tentative, hno, hl, ← hsec]
      exact htnt
  · rintro ⟨hdram, c, hc, rfl, hdrt, hsel, htnt⟩
    rw [cachedByte_eq] at hc
    obtain ⟨l, hl, hfind⟩ := Option.bind_eq_some_iff.mp hc
    have hin := hplace _ l hl
    have hbase : l.base = lineBase b := hin.base.symm.trans (lineBase_of_lineNo hin.number)
    obtain ⟨hle, -, hsec⟩ := lineBase_add b
    refine ⟨lineNo b, l, hl, (b - lineBase b, c), SMap.mem_of_find _ hfind, ?_, ?_, rfl⟩
    · rw [tentative, hl] at htnt
      have haddr : l.base + (b - lineBase b) = b := by rw [hbase]; omega
      have hfree : l.tnt.contains (sectorInLine b) = false := htnt
      simp only [goesHome, hsec, haddr, hdrt, hsel, hfree, Bool.not_false, Bool.and_self]
    · simp only [hbase]
      omega

/-- Tentative sectors apart, a line without the bytes that sel names. -/
def emptied (sel : Nat → Bool) (l : CLine) : CLine :=
  { l with bytes := l.bytes.filter fun e => l.tnt.contains (e.1 / 48) || !sel (l.base + e.1) }

theorem find_clearVal (s : State) (f : Nat) (sel : Nat → Bool) (g : Nat) :
    SMap.find ((clearVal s f sel).field f).cache g = (SMap.find (s.field f).cache g).map (emptied sel) := by
  rw [clearVal, State.setField_same]
  exact SMap.find_map (emptied sel) (s.field f).cache g

/-- A byte of a line in place is kept where it is tentative or not selected. -/
theorem find_emptied {b : Nat} {l : CLine} (hl : LineInPlace (lineNo b) l) (sel : Nat → Bool) :
    SMap.find (emptied sel l).bytes (b - lineBase b) =
      (SMap.find l.bytes (b - lineBase b)).filter fun _ => l.tnt.contains (sectorInLine b) || !sel b := by
  obtain ⟨hle, -, hsec⟩ := lineBase_add b
  have hbase : l.base = lineBase b := hl.base.symm.trans (lineBase_of_lineNo hl.number)
  have haddr : l.base + (b - lineBase b) = b := by rw [hbase]; omega
  rw [emptied, SMap.find_filter _ hl.rising]
  simp only [hsec, haddr]

theorem emptied_cleaned (sel : Nat → Bool) (l : CLine) : (emptied sel (cleaned sel l)).bytes = (emptied sel l).bytes := by
  simp only [emptied, cleaned, List.filter_filter]
  refine List.filter_congr fun e _ => ?_
  dsimp only [goesHome]
  generalize l.tnt.contains (e.1 / 48) = held, sel (l.base + e.1) = named, e.2.drt = dirty
  revert held named dirty
  decide

/-- The cache of a field gives the dirty bytes that sel names home and keeps none of their bytes: what it does for a range of bytes
within the lines of a list. -/
theorem writtenBack_clearVal {s : State} (hs : AsWritten s) {f : Nat} (hplace : LinesInPlace (s.field f)) {sel : Nat → Bool}
    {es : SMap CLine} (hcover : ∀ g b v, GoesHome (s.field f) sel g b v → g ∈ es.map Prod.fst) :
    WrittenBack s (clearVal (foldState (fun s e => writeBackLine s f e.1 sel true) s es) f sel) f sel fun b _ => sel b := by
  rw [linesInPlace_iff] at hplace
  have hback := emptied_writeBacks sel es hs hplace
  generalize foldState (fun s e => writeBackLine s f e.1 sel true) s es = u at hback
  refine ⟨fun b _ => ?_, fun b c hdram hc hdrt hsel htnt halone => ?_, fun a hnone => ?_⟩
  · rw [cachedByte_eq, find_clearVal, hback.lines, cachedByte_eq]
    rcases hfind : SMap.find (s.field f).cache (lineNo b) with _ | l
    · simp
    · have hl := hplace _ l hfind
      have htnt : tentative (s.field f) b = l.tnt.contains (sectorInLine b) := by rw [tentative, hfind]
      rw [htnt]
      split
      · exact (congrArg (SMap.find · (b - lineBase b)) (emptied_cleaned sel l)).trans (find_emptied hl sel)
      · exact find_emptied hl sel
  · obtain ⟨g, hgoes⟩ := (goesHome_iff hplace sel).mpr ⟨hdram, c, hc, rfl, hdrt, hsel, htnt⟩
    rcases hback.bytes (locOf s b) with ⟨d, v, ⟨k, -, hk⟩, hloc, hbyte⟩ | ⟨-, hnone⟩
    · obtain ⟨hd, c', hc', hv, -⟩ := (goesHome_iff hplace sel).mp ⟨k, hk⟩
      have heq := halone d hd hloc
      rw [heq, hc] at hc'
      cases hc'
      exact hbyte.trans hv.symm
    · exact absurd rfl (hnone b c.v ⟨g, hcover g b c.v hgoes, hgoes⟩)
  · rcases hback.bytes a with ⟨d, v, ⟨k, -, hk⟩, hloc, -⟩ | ⟨hsame, -⟩
    · obtain ⟨hd, c, -, -, -, hsel, -⟩ := (goesHome_iff hplace sel).mp ⟨k, hk⟩
      exact absurd hloc (hnone d hd hsel)
    · exact hsame

/-- A state before with the same bytes, places and field; a state behind with the same bytes and cache. -/
theorem writtenBack_congr {s s' t t' : State} {f : Nat} {sel : Nat → Bool} {drop : Nat → CByte → Bool}
    (h : WrittenBack s' t' f sel drop) (hfield : s'.field f = s.field f) (hloc : ∀ a, locOf s' a = locOf s a)
    (hbyte : ∀ a, s'.byte a = s.byte a) (hcache : (t.field f).cache = (t'.field f).cache) (hbyte' : ∀ a, t.byte a = t'.byte a) :
    WrittenBack s t f sel drop := by
  obtain ⟨hkept, hhome, hrest⟩ := h
  simp only [hfield, hloc, hbyte] at hkept hhome hrest
  refine ⟨fun b hb => ?_, fun b c hb hc hdrt hsel htnt halone => ?_, fun a ha => ?_⟩
  · rw [cachedByte, hcache]
    exact hkept b hb
  · rw [hbyte']
    exact hhome b c hb hc hdrt hsel htnt halone
  · rw [hbyte']
    exact hrest a ha

/-- What a granted request takes from the cache of its tile's field (R240). -/
theorem writtenBack_acquireCache {s : State} (hs : AsWritten s) {f : Nat} (hplace : LinesInPlace (s.field f)) (n : Nat) :
    WrittenBack s (acquireCache s f n) f (fun b => inPieces (guardPieces s f n) b) fun b _ => inPieces (guardPieces s f n) b := by
  have hmark := Asked.markAt s (.cache f) 0
  have hfield := hmark.field f
  have hback := writtenBack_clearVal (hmark.asWritten hs) (f := f) (hfield.symm ▸ hplace) (sel := inPieces (guardPieces s f n))
    (es := ((markAt s (.cache f) 0).field f).cache) fun g b v ⟨l, hl, _⟩ => List.mem_map.mpr ⟨_, SMap.mem_of_find _ hl, rfl⟩
  exact writtenBack_congr hback hfield (Beneath.markAt s (.cache f) 0).toBelow.locOf hmark.byte rfl fun _ => rfl

end Sys2Proof.Machine

end

section

namespace Sys2Proof.Machine

open Claims

/-! ### Where the regions bound to a guard lie, whatever the graphs are and whoever is at work (R187, R240)

Each part of the reading is compared by itself: comparing the whole reading makes the kernel evaluate it. -/

section
variable (s : State) (gs : List GraphSt) (k : Nat)

theorem readEntry_of_graphs (a : Nat) : readEntry { s with graphs := gs, src := k } a = readEntry s a := rfl
theorem inPart_of_graphs (l a : Nat) : inPart { s with graphs := gs, src := k } l a = inPart s l a := rfl
theorem inPartDram_of_graphs (l a : Nat) : inPartDram { s with graphs := gs, src := k } l a = inPartDram s l a := rfl
theorem leadOf_of_graphs (q : Nat) : leadOf { s with graphs := gs, src := k } q = leadOf s q := rfl
theorem field_of_graphs (f : Nat) : State.field { s with graphs := gs, src := k } f = s.field f := rfl
theorem sliceOwner_of_graphs (l v : Nat) : sliceOwner { s with graphs := gs, src := k } l v = sliceOwner s l v := rfl

theorem mappings_of_graphs (l : Nat) : mappings { s with graphs := gs, src := k } l = mappings s l := by
  funext va
  simp only [mappings, tablePte, readEntry_of_graphs, inPart_of_graphs, inPartDram_of_graphs, leadOf_of_graphs, sliceOwner_of_graphs,
    field_of_graphs]
  rfl

theorem rangePieces_of_graphs (l v n : Nat) : rangePieces { s with graphs := gs, src := k } l v n = rangePieces s l v n := by
  unfold rangePieces
  rw [mappings_of_graphs]

theorem regionPieces_of_graphs (f : Nat) (sel : BitVec 128 → Bool) :
    regionPieces { s with graphs := gs, src := k } f sel = regionPieces s f sel := by
  unfold regionPieces
  rw [field_of_graphs]
  refine congrArg (List.flatMap · _) (funext fun e => ?_)
  rw [leadOf_of_graphs]
  exact rangePieces_of_graphs s gs k _ _ _

theorem guardPieces_of_graphs (f n : Nat) : guardPieces { s with graphs := gs, src := k } f n = guardPieces s f n :=
  regionPieces_of_graphs s gs k f _

end

/-- A state that differs from s in its graphs and in who is at work. -/
theorem writtenBack_acquireCache_of_asked {s u : State} (hs : AsWritten s) {f : Nat} (hplace : LinesInPlace (s.field f)) (n : Nat)
    (hasked : Asked s u) (hbelow : Below s u) (hpieces : guardPieces u f n = guardPieces s f n) :
    WrittenBack s (acquireCache u f n) f (fun b => inPieces (guardPieces s f n) b) fun b _ => inPieces (guardPieces s f n) b := by
  have hback := writtenBack_acquireCache (hasked.asWritten hs) (f := f) (hasked.field f ▸ hplace) n
  rw [hpieces] at hback
  exact writtenBack_congr hback (hasked.field f) hbelow.locOf hasked.byte rfl fun _ => rfl

theorem writtenBack_grantActed {s : State} (hs : AsWritten s) (gid n : Nat) (r : GuardReq) (hplace : LinesInPlace (s.field (fieldOf r.x))) :
    WrittenBack s (grantActed gid n s r) (fieldOf r.x) (fun b => inPieces (guardPieces s (fieldOf r.x) n) b)
      fun b _ => inPieces (guardPieces s (fieldOf r.x) n) b := by
  have hasked := (Asked.modGraph s gid (grantedGraph n r)).trans (Asked.by_ _ (slotSource r.x))
  have hbelow := (Below.modGraph s gid (grantedGraph n r)).trans (Beneath.by_ _ (slotSource r.x)).toBelow
  exact writtenBack_acquireCache_of_asked hs hplace n hasked hbelow (guardPieces_of_graphs s _ _ _ n)

/-- The exclusive request at the head of a free guard takes the hold, and the field's cache gives up the guard's bytes. -/
theorem guardGrant_exclusive {s : State} {a : GraphSt} {n : Nat} {r : GuardReq} {rs : List GuardReq} (ha : s.graph? a.id = some a)
    (hqueue : (SMap.get a.guards Guard.free n).queue = r :: rs) (hcyc : r.cyc < s.now) (hshared : r.shared = false)
    (hexcl : (SMap.get a.guards Guard.free n).excl = none) (hnone : (SMap.get a.guards Guard.free n).shared = []) :
    ∃ t b, exec (.guardGrant a.id n) s = .next t ∧ t.graph? a.id = some b ∧
      (SMap.get b.guards Guard.free n).excl = some (tileOf r.x) ∧ (SMap.get b.guards Guard.free n).shared = [] ∧
      (SMap.get b.guards Guard.free n).queue = rs.filter (fun u => u.id ≠ r.id) ∧ Performed s t r.x r.id [ord] ∧
      (AsWritten s → LinesInPlace (s.field (fieldOf r.x)) → WrittenBack s t (fieldOf r.x)
        (fun b => inPieces (guardPieces s (fieldOf r.x) n) b) fun b _ => inPieces (guardPieces s (fieldOf r.x) n) b) := by
  have hexec := exec_guardGrant n ha
  rw [grantable_exclusive hqueue hcyc hshared hexcl hnone] at hexec
  obtain ⟨b, hb, hguard⟩ := graph?_grantOne n r ha
  refine ⟨grantOne a.id n s r, b, hexec, hb, ?_, ?_, ?_, performed_grantOne a.id n s r, fun hs hplace => ?_⟩
  · rw [hguard, grantedTo, hshared]
    rfl
  · rw [hguard, grantedTo, hshared]
    exact hnone
  · rw [hguard, grantedTo, hqueue]
    simp
  · rw [grantOne_eq]
    exact writtenBack_congr (writtenBack_grantActed hs a.id n r hplace) rfl (fun _ => rfl) (fun _ => rfl)
      (finishAccess_cache _ _ _ _ _).1 (Held.finishAccess _ _ _ _).byte

end Sys2Proof.Machine

end

section

open Sys2Proof Sys2Proof.Machine Sys2Proof.Claims

/-- Settles O48: a request granted alone changes the guard, and then the field's cache and the slot; a swap changes the group behind
the plane words; a plane word and its rank lie apart, so that each write is read back. -/
theorem guardsAndPlanesAct : Obligations.GuardsAndPlanesAct := by
  unfold Obligations.GuardsAndPlanesAct
  refine ⟨fun s a n r rs ha hqueue hcyc hshared hexcl hnone => guardGrant_exclusive ha hqueue hcyc hshared hexcl hnone,
    fun s a n rs rest ha hne hqueue hrun hstop hnodup hexcl => guardGrant_shared ha hne hqueue hrun hstop hnodup hexcl,
    fun s a n ha hready => ?_, fun s pa n rule k v hlo hhi hin hal hn hk hv => ?_, fun s clear pa n hlo hhi hin hal hn => ?_⟩
  · obtain ⟨t, b, hexec, hb, hgroup⟩ := stepSwap_swaps ha hready
    refine ⟨t, b, hexec, hb, ?_⟩
    rw [hgroup]
    exact ⟨rfl, promote_length _ [] [], promote_nodup _ [] [] List.nodup_nil⟩
  · have hword : PlaneWord pa n := ⟨⟨hlo, hhi⟩, hin, hal, hn⟩
    exact ⟨fun hwritten => settles_first hword hwritten rule hk hv, fun hwritten => settles_by_rule hword hwritten hk hv⟩
  · exact PlaneWord.swapWord_spec ⟨⟨hlo, hhi⟩, hin, hal, hn⟩ s clear

end

section

namespace Sys2Proof.Machine

open Claims

/-! ### An access of one part at DRAM is performed (R226, R227) -/

theorem mayPerform_by (s : State) (k : BitVec 32) (x : Nat) (b : Access) (ob : MemOp) (q : Part) :
    mayPerform (s.by k) x b ob q = mayPerform s x b ob q := rfl

theorem pageBusy_by (s : State) (k : BitVec 32) (pa : Nat) : pageBusy (s.by k) pa = pageBusy s pa := rfl

/-- A part once it has been performed, with the bytes that it brought and the places of the bad ones. -/
def donePart (p : Part) (bytes : List Byte) (bad : List Nat) : Part := { p with done := true, bytes := bytes, bad := bad }

theorem partDone_single {s : State} {x : Nat} {a : Access} {o : MemOp} {p : Part} (hop : memOp a.i = some o) (hparts : a.parts = some [p])
    (hsld : o ≠ .sld) (bytes : List Byte) (bad : List Nat) :
    partDone s x a 0 bytes bad = finishAccess s x a.id (accessTokens o a [donePart p bytes bad]) := by
  simp only [partDone, hparts, hop, List.getElem?_cons_zero, setAt, List.all_cons, List.all_nil, Bool.and_true, decide_eq_true hsld,
    if_true]
  rfl

/-- A part that its port performs is the whole of its access. -/
theorem actOnPart_ok {u t : State} {x : Nat} {a : Access} {o : MemOp} {p : Part} {bytes : List Byte} {bad : List Nat}
    (hop : memOp a.i = some o) (hparts : a.parts = some [p])
    (hremote : p.remote = false) (hmay : mayPerform u x a o p = true) (hsld : o ≠ .sld)
    (hdone : performHere u x o a p .clean = .ok t bytes bad) :
    actOnPart u x o a 0 p .clean = .ok (finishAccess t x a.id (accessTokens o a [donePart p bytes bad])) bytes bad := by
  unfold actOnPart
  simp only [hmay, hremote, hdone, Bool.not_true, Bool.false_eq_true, if_false, partDone_single hop hparts hsld]

theorem performPart_ok {s t : State} {x : Nat} {a : Access} {o : MemOp} {p : Part} {bytes : List Byte} {bad : List Nat}
    (h : InDram s x a o p) (hsst : o ≠ .sst) (hsld : o ≠ .sld)
    (hdone : performHere (s.by (slotSource x)) x o a p .clean = .ok t bytes bad) :
    performPart s x 0 .clean = finishAccess t x a.id (accessTokens o a [donePart p bytes bad]) := by
  obtain ⟨-, -, hpos, hremote, -⟩ := h.whole
  have hslot := State.by_slot s (slotSource x) x
  have hmay := (mayPerform_by s (slotSource x) x a o p).trans h.free
  have hpart : (a.parts.bind fun ps => ps[0]?) = some p := by rw [h.part]; rfl
  unfold performPart
  dsimp only
  generalize s.by (slotSource x) = u at hslot hmay hdone ⊢
  have hnext : (pendingParts (u.slot x))[0]? = some (a, 0) := hslot ▸ h.next
  have hact := actOnPart_ok h.op h.part hremote hmay hsld hdone
  simp only [hnext, h.op, hpart, if_neg (Nat.pos_iff_ne_zero.mp hpos), if_neg hsst, hact]

/-- A part that its port performs is done, and with it the access: its tokens leave. -/
theorem exec_performed {s t : State} {x : Nat} {a : Access} {o : MemOp} {p : Part} {bytes : List Byte} {bad : List Nat}
    (h : InDram s x a o p) (hsst : o ≠ .sst) (hsld : o ≠ .sld)
    (hdone : performHere (s.by (slotSource x)) x o a p .clean = .ok t bytes bad) : exec (.memoryAccessPerformed x 0 .clean) s =
      .next (finishAccess t x a.id (accessTokens o a [donePart p bytes bad])) :=
  congrArg Host.Outcome.next (performPart_ok h hsst hsld hdone)

/-- Whatever else is stored, an access finished where its outlet stands is performed. -/
theorem performed_of_stands {s t : State} (hs : Stands s t) (hb : Below s t) (x id : Nat) (toks : List Token) :
    Performed s (finishAccess t x id toks) x id toks :=
  performed_finishAccess (hb.sameOutlet hs x) (congrArg (SMap.get · SlotSt.reset x) hs.slots) id toks

/-- What is stored, who asks for it and where its tokens go are as they were: only caches, their counters and the order of the cycle
differ. -/
structure Unwritten (s t : State) : Prop where
  stands : Stands s t
  below : Below s t
  mem : t.mem = s.mem
  poison : t.poison = s.poison
  flips : t.flips = s.flips
  under : t.under = s.under

namespace Unwritten

@[refl] theorem refl (s : State) : Unwritten s s := ⟨Stands.refl s, Below.refl s, rfl, rfl, rfl, rfl⟩

@[trans] theorem trans {s t u : State} (h : Unwritten s t) (k : Unwritten t u) : Unwritten s u :=
  ⟨h.stands.trans k.stands, h.below.trans k.below, k.mem.trans h.mem, k.poison.trans h.poison, k.flips.trans h.flips,
    k.under.trans h.under⟩

theorem asWritten {s t : State} (h : Unwritten s t) (hs : AsWritten s) : AsWritten t := ⟨h.flips.trans hs.1, h.under.trans hs.2⟩

theorem byte {s t : State} (h : Unwritten s t) (a : Nat) : t.byte a = s.byte a := congrArg (Memory.get · a) h.mem

theorem poisoned {s t : State} (h : Unwritten s t) (hs : AsWritten s) (a n : Nat) : t.poisoned a n = s.poisoned a n := by
  rw [poisoned_of_noFlips hs.1, poisoned_of_noFlips (h.asWritten hs).1, h.poison, h.below.locOf]

/-- An access finished from there is performed. -/
theorem performed {s t : State} (h : Unwritten s t) (x id : Nat) (toks : List Token) :
    Performed s (finishAccess t x id toks) x id toks :=
  performed_of_stands h.stands h.below x id toks

theorem of_asked {s t : State} (hs : Stands s t) (hb : Below s t) (h : Asked s t) : Unwritten s t :=
  ⟨hs, hb, h.mem, h.poison, h.flips, h.under⟩

section
variable (s : State)

theorem by_ (k : BitVec 32) : Unwritten s (s.by k) := of_asked (Stands.by_ _ _) (Beneath.by_ _ _).toBelow (Asked.by_ _ _)
theorem setField (n : Nat) (v : FieldSt) : Unwritten s (s.setField n v) :=
  ⟨Stands.setField _ _ _, (Beneath.setField _ _ _).toBelow, rfl, rfl, rfl, rfl⟩
theorem markAt (p : Point) (k : Nat) : Unwritten s (markAt s p k) :=
  of_asked (Stands.markAt _ _ _) (Beneath.markAt _ _ _).toBelow (Asked.markAt _ _ _)
theorem pmcCount (d e n : Nat) : Unwritten s (pmcCount s d e n) :=
  of_asked (Stands.pmcCount _ _ _ _) (Beneath.pmcCount _ _ _ _).toBelow (Asked.pmcCount _ _ _ _)
theorem late (b : Bool) : Unwritten s { s with late := b } := of_asked (Stands.late _ _) (Beneath.late _ _).toBelow (Asked.late _ _)

variable {s} in
theorem asCache (hs : AsWritten s) {f : Nat} {go : State → State} (hstands : ∀ u, Stands u (go u)) (hbelow : ∀ u, Below u (go u))
    (hasked : ∀ u, AsWritten u → Asked u (go u)) : Unwritten s (asCache s f go) :=
  of_asked (Stands.asCache s hstands) (Below.asCache s hbelow) (Asked.asCache hs hasked)

end

end Unwritten

end Sys2Proof.Machine

end

section

namespace Sys2Proof.Machine

open Claims

/-! ### Lines of the field's cache come and bytes are read in (R205, R206) -/

/-- In the cache the place of a byte is apart from that of any other. -/
theorem cachedByte_of_insert {fs gs : FieldSt} {b g : Nat} {l : CLine} (h : gs.cache = SMap.insert fs.cache g l) :
    cachedByte gs b = if lineNo b = g then SMap.find l.bytes (b - lineBase b) else cachedByte fs b := by
  rw [cachedByte_eq, h, cachedByte_eq]
  split
  · rename_i hg
    rw [hg, SMap.find_insert_same, Option.bind_some]
  · rw [SMap.find_insert_other _ _ ‹_›]

/-- The burst that a byte lies in: four lines of its page (R206). -/
def burstOf (b : Nat) : Nat × Nat := (ppnOf b, lineInPage b / 4)

/-- Two lines of a burst that lie in one set of the cache are one. -/
theorem lineNo_of_set {a b : Nat} (hburst : burstOf b = burstOf a) (hset : lineNo b % 1024 = lineNo a % 1024) : lineNo b = lineNo a := by
  obtain ⟨hpage, hline⟩ := Prod.mk.inj hburst
  simp only [lineNo, hpage] at hset ⊢
  omega

/-- A line that comes into a set leaves the other sets. -/
theorem filter_insert {α : Type} {p : Nat × α → Bool} (n : Nat) (x : α) (hp : ∀ y, p (n, y) = false) : ∀ m : SMap α,
    (SMap.insert m n x).filter p = m.filter p
  | [] => List.filter_cons_of_neg (by simp [hp])
  | (k, v) :: m => by
    rw [SMap.insert]
    split
    · exact List.filter_cons_of_neg (by simp [hp])
    · split
      · subst k
        rw [List.filter_cons_of_neg (by simp [hp]), List.filter_cons_of_neg (by simp [hp])]
      · rw [List.filter_cons, List.filter_cons, filter_insert n x hp m]

/-- A line that comes in leaves the other lines of its burst their room. -/
theorem room_insert {s t : State} {f a b : Nat} {l : CLine} (h : (t.field f).cache = SMap.insert (s.field f).cache (lineNo a) l)
    (hburst : burstOf b = burstOf a) (hb : Room s f b) : Room t f b := by
  by_cases hline : lineNo b = lineNo a
  · refine .inl ?_
    rw [h, hline, SMap.find_insert_same]
    exact Option.some_ne_none l
  · rw [Room, h, SMap.find_insert_other _ _ hline, filter_insert]
    · exact hb
    · exact fun y => decide_eq_false fun hset => hline (lineNo_of_set hburst hset.symm)

/-- What a read of byte b brings into the cache of field f: what the cache has stays; else the home's byte, unless it is poisoned or a
reduction of it waits (R206, R230, R235). -/
def filledByte (s : State) (f b : Nat) : Option CByte :=
  match cachedByte (s.field f) b with
  | some c => some c
  | none => if s.poisoned b 1 || (s.field f).rcb.any (rcbOverlaps b 1) then none else some { v := s.byte (locOf s b), drt := false }

theorem filledByte_some {s : State} {f b : Nat} {c : CByte} (h : cachedByte (s.field f) b = some c) : filledByte s f b = some c := by
  rw [filledByte, h]

/-- From s to t the cache of field f has read bytes of a burst in: of each byte it has what it had, or what a read brings. -/
structure Fills (s t : State) (f : Nat) (k : Nat × Nat) : Prop where
  unwritten : Unwritten s t
  rcb : (t.field f).rcb = (s.field f).rcb
  bytes : ∀ b, cachedByte (t.field f) b = cachedByte (s.field f) b ∨ cachedByte (t.field f) b = filledByte s f b
  room : ∀ b, burstOf b = k → Room s f b → Room t f b

namespace Fills

variable {s t u : State} {f : Nat} {k : Nat × Nat}

theorem refl (s : State) (f : Nat) (k : Nat × Nat) : Fills s s f k := ⟨Unwritten.refl s, rfl, fun _ => .inl rfl, fun _ _ h => h⟩

/-- A read brings what it would have brought before others. -/
theorem filledByte_eq (hs : AsWritten s) (h : Fills s t f k) (b : Nat) : filledByte t f b = filledByte s f b := by
  have hnone : cachedByte (t.field f) b = none → cachedByte (s.field f) b = none → filledByte t f b = filledByte s f b := fun ht hs' => by
    rw [filledByte, filledByte, ht, hs', h.unwritten.poisoned hs, h.rcb, h.unwritten.byte, h.unwritten.below.locOf]
  rcases hc : cachedByte (s.field f) b with _ | c
  · rcases ht : cachedByte (t.field f) b with _ | c
    · exact hnone ht hc
    · rw [filledByte_some ht, ← ht]
      refine (h.bytes b).resolve_left ?_
      rw [ht, hc]
      simp
  · have ht : cachedByte (t.field f) b = some c := by
      rcases h.bytes b with hb | hb
      · exact hb.trans hc
      · exact hb.trans (filledByte_some hc)
    rw [filledByte_some ht, filledByte_some hc]

theorem trans (hs : AsWritten s) (h : Fills s t f k) (g : Fills t u f k) : Fills s u f k where
  unwritten := h.unwritten.trans g.unwritten
  rcb := g.rcb.trans h.rcb
  room b hk hb := g.room b hk (h.room b hk hb)
  bytes b := by
    rcases g.bytes b with hb | hb
    · rw [hb]
      exact h.bytes b
    · exact .inr (hb.trans (h.filledByte_eq hs b))

/-- Once read in, a byte stays read in. -/
theorem stays (hs : AsWritten s) (h : Fills s t f k) (g : Fills t u f k) {b : Nat} (hb : cachedByte (t.field f) b = filledByte s f b) :
    cachedByte (u.field f) b = filledByte s f b := by
  rcases g.bytes b with hu | hu
  · exact hu.trans hb
  · exact hu.trans (h.filledByte_eq hs b)

theorem of_unwritten (h : Unwritten s t) (hfield : t.field f = s.field f) : Fills s t f k :=
  ⟨h, by rw [hfield], fun b => .inl (by rw [hfield]), fun b _ hb => by rw [Room, hfield]; exact hb⟩

end Fills

/-- A line with room in its set comes in without a byte, where it is not there. -/
theorem ensureLine_spec {s : State} {f a : Nat} (hroom : Room s f a) : ∃ l,
    SMap.find ((ensureLine s f a).field f).cache (lineNo a) = some l ∧
    (∀ b, cachedByte ((ensureLine s f a).field f) b = cachedByte (s.field f) b) ∧
    Fills s (ensureLine s f a) f (burstOf a) ∧ Beneath s (ensureLine s f a) := by
  rcases hfind : SMap.find (s.field f).cache (lineNo a) with _ | l
  · have hset : makeRoom s f (lineNo a) = s := by
      have hless := hroom.resolve_left (fun h => h hfind)
      unfold makeRoom
      exact if_pos hless
    have heq : ensureLine s f a = s.setField f { s.field f with
        cache := SMap.insert (s.field f).cache (lineNo a) { base := lineBase a, bytes := [], tnt := [] } } := by
      unfold ensureLine
      rw [hfind]
      dsimp only
      rw [hset]
    have hbytes : ∀ b, cachedByte ((ensureLine s f a).field f) b = cachedByte (s.field f) b := fun b => by
      rw [heq, State.setField_same, cachedByte_of_insert rfl]
      split
      · rename_i hb
        rw [cachedByte_eq, hb, hfind]
        rfl
      · rfl
    refine ⟨{ base := lineBase a, bytes := [], tnt := [] }, ?_, hbytes, ⟨?_, ?_, fun b => .inl (hbytes b), fun b hburst hb => ?_⟩, ?_⟩
    · rw [heq, State.setField_same, SMap.find_insert_same]
    · exact heq ▸ Unwritten.setField _ _ _
    · rw [heq, State.setField_same]
    · rw [heq]
      exact room_insert (congrArg FieldSt.cache (State.setField_same s f _)) hburst hb
    · exact heq ▸ Beneath.setField _ _ _
  · have heq : ensureLine s f a = s := by
      unfold ensureLine
      rw [hfind]
    rw [heq]
    exact ⟨l, hfind, fun _ => rfl, Fills.refl s f _, Beneath.refl s⟩

end Sys2Proof.Machine

end

section

namespace Sys2Proof.Machine

open Claims

/-- One byte read into the bytes of its line. -/
def readIn (s : State) (f : Nat) (m : SMap CByte) (b : Nat) : SMap CByte :=
  if s.poisoned b 1 || (SMap.find m (b - lineBase b)).isSome || (s.field f).rcb.any (rcbOverlaps b 1) then m
  else SMap.insert m (b - lineBase b) { v := s.byte (locOf s b), drt := false }

/-- What reading byte b in makes of the byte that the line has. -/
def readOver (s : State) (f b : Nat) : Option CByte → Option CByte
  | some c => some c
  | none => if s.poisoned b 1 || (s.field f).rcb.any (rcbOverlaps b 1) then none else some { v := s.byte (locOf s b), drt := false }

theorem filledByte_eq_readOver (s : State) (f b : Nat) : filledByte s f b = readOver s f b (cachedByte (s.field f) b) := by
  rcases h : cachedByte (s.field f) b with _ | c
  · rw [filledByte, h]
    rfl
  · rw [filledByte_some h]
    rfl

theorem find_readIn_same (s : State) (f : Nat) (m : SMap CByte) (b : Nat) :
    SMap.find (readIn s f m b) (b - lineBase b) = readOver s f b (SMap.find m (b - lineBase b)) := by
  unfold readIn
  rcases h : SMap.find m (b - lineBase b) with _ | c
  · cases hp : s.poisoned b 1 || (s.field f).rcb.any (rcbOverlaps b 1)
    · obtain ⟨hpoison, hrcb⟩ := Bool.or_eq_false_iff.mp hp
      rw [hpoison, hrcb, if_neg (by simp), SMap.find_insert_same, readOver, hpoison, hrcb]
      rfl
    · rw [if_pos (by simpa using hp), h, readOver, hp]
      rfl
  · rw [if_pos (by simp), h]
    rfl

theorem find_readIn_other (s : State) (f : Nat) (m : SMap CByte) {b k : Nat} (h : k ≠ b - lineBase b) :
    SMap.find (readIn s f m b) k = SMap.find m k := by
  unfold readIn
  split
  · rfl
  · exact SMap.find_insert_other m _ h

/-- A byte within its line, by the line's number and its offset. -/
theorem eq_of_line {a b : Nat} (h : lineNo b = lineNo a) (ho : b - lineBase b = a - lineBase a) : b = a := by
  have hbase := lineBase_of_lineNo h
  have ha := (lineBase_add a).1
  have hb := (lineBase_add b).1
  omega

/-- Bytes of a line read in one after another. -/
theorem find_readIns (s : State) (f : Nat) (m : SMap CByte) (a : Nat) {b : Nat} (hb : lineNo b = lineNo a) :
    ∀ n, (∀ i, i < n → lineNo (a + i) = lineNo a) →
      SMap.find ((List.range n).foldl (fun m i => readIn s f m (a + i)) m) (b - lineBase b) =
        if a ≤ b ∧ b < a + n then readOver s f b (SMap.find m (b - lineBase b)) else SMap.find m (b - lineBase b)
  | 0, _ => (if_neg (by omega)).symm
  | n + 1, hline => by
    have ih := find_readIns s f m a hb n fun i hi => hline i (Nat.lt_succ_of_lt hi)
    rw [List.range_succ, List.foldl_append, List.foldl_cons, List.foldl_nil]
    by_cases hlast : b = a + n
    · rw [if_neg (by omega)] at ih
      rw [hlast] at ih ⊢
      rw [find_readIn_same, ih, if_pos (by omega)]
    · have hoff : b - lineBase b ≠ a + n - lineBase (a + n) := fun ho =>
        hlast (eq_of_line (hb.trans (hline n (Nat.lt_succ_self n)).symm) ho)
      rw [find_readIn_other s f _ hoff, ih]
      exact if_congr (by omega) rfl rfl

theorem fillLine_eq {s : State} {f a n : Nat} {l : CLine} (h : SMap.find ((ensureLine s f a).field f).cache (lineNo a) = some l) :
    fillLine s f a n = (ensureLine s f a).setField f { (ensureLine s f a).field f with
      cache := SMap.insert ((ensureLine s f a).field f).cache (lineNo a) { l with
        bytes := (List.range n).foldl (fun m i => readIn (ensureLine s f a) f m (a + i)) l.bytes } } := by
  simp only [fillLine, h]
  rfl

/-- A part of a line with room is read in. -/
theorem fillLine_spec {s : State} (hs : AsWritten s) {f a n : Nat} (hroom : Room s f a) (hline : ∀ i, i < n → lineNo (a + i) = lineNo a) :
    Fills s (fillLine s f a n) f (burstOf a) ∧
      (∀ b, a ≤ b → b < a + n → cachedByte ((fillLine s f a n).field f) b = filledByte s f b) ∧ Beneath s (fillLine s f a n) := by
  obtain ⟨l, hl, -, hfills, hbeneath⟩ := ensureLine_spec hroom
  have heq := fillLine_eq (n := n) hl
  generalize ensureLine s f a = t at hl hfills hbeneath heq
  have hcached : ∀ b, cachedByte ((fillLine s f a n).field f) b =
      if a ≤ b ∧ b < a + n then filledByte s f b else cachedByte (t.field f) b := fun b => by
    rw [heq, State.setField_same, cachedByte_of_insert rfl]
    by_cases hb : lineNo b = lineNo a
    · have hfind : cachedByte (t.field f) b = SMap.find l.bytes (b - lineBase b) := by rw [cachedByte_eq, hb, hl, Option.bind_some]
      rw [if_pos hb, find_readIns t f l.bytes a hb n hline, ← hfind, ← filledByte_eq_readOver, hfills.filledByte_eq hs]
    · rw [if_neg hb, if_neg]
      rintro ⟨hlo, hhi⟩
      have hin := hline (b - a) (by omega)
      rw [Nat.add_sub_cancel' hlo] at hin
      exact hb hin
  refine ⟨⟨?_, ?_, fun b => ?_, fun b hburst hb => ?_⟩, fun b hlo hhi => (hcached b).trans (if_pos ⟨hlo, hhi⟩),
    heq ▸ hbeneath.trans (Beneath.setField _ _ _)⟩
  · rw [heq]
    exact hfills.unwritten.trans (Unwritten.setField _ _ _)
  · rw [heq, State.setField_same]
    exact hfills.rcb
  · rw [hcached]
    split
    · exact .inr rfl
    · exact hfills.bytes b
  · rw [heq]
    exact room_insert (congrArg FieldSt.cache (State.setField_same t f _)) hburst (hfills.room b hburst hb)

end Sys2Proof.Machine

end

section

namespace Sys2Proof.Machine

open Claims

/-! ### Lines, sectors and bursts by the offset in the page (R202, R203, R206) -/

section
variable {q r : Nat} (hr : r < pageSize)
include hr

theorem ppnOf_offset : ppnOf (q * pageSize + r) = q := by
  rw [ppnOf, Nat.add_comm, Nat.add_mul_div_right _ _ (by decide), Nat.div_eq_of_lt hr, Nat.zero_add]

theorem mod_offset : (q * pageSize + r) % pageSize = r := by rw [Nat.mul_add_mod_self_right, Nat.mod_eq_of_lt hr]

theorem lineInPage_offset : lineInPage (q * pageSize + r) = r / 192 := by rw [lineInPage, mod_offset hr]

theorem lineBase_offset : lineBase (q * pageSize + r) = q * pageSize + r / 192 * 192 := by
  rw [lineBase, ppnOf_offset hr, lineInPage_offset hr]

theorem lineLen_offset : lineLen (q * pageSize + r) = min 192 (pageSize - r / 192 * 192) := by
  rw [lineLen, lineInPage_offset hr]

theorem lineNo_offset : lineNo (q * pageSize + r) = 10923 * q + r / 192 := by rw [lineNo, ppnOf_offset hr, lineInPage_offset hr]

theorem burstOf_offset : burstOf (q * pageSize + r) = (q, r / 192 / 4) := by rw [burstOf, ppnOf_offset hr, lineInPage_offset hr]

theorem sectorBase_offset : sectorBase (q * pageSize + r) = q * pageSize + r / 48 * 48 := by
  rw [sectorBase, ppnOf_offset hr, mod_offset hr]

theorem sectorLen_offset : sectorLen (q * pageSize + r) = min 48 (pageSize - r / 48 * 48) := by
  rw [sectorLen, mod_offset hr]

theorem sectorInLine_offset : sectorInLine (q * pageSize + r) = r % 192 / 48 := by rw [sectorInLine, mod_offset hr]

end

/-- An address by its page and its offset. -/
theorem exists_offset (a : Nat) : ∃ q r, r < pageSize ∧ a = q * pageSize + r :=
  ⟨a / pageSize, a % pageSize, Nat.mod_lt _ (by decide), (Nat.div_add_mod' a pageSize).symm⟩

/-- The part of a range at offset r that lies in line k of its page: where it starts and ends. -/
def cutLo (r k : Nat) : Nat := max (192 * k) r
def cutHi (r n k : Nat) : Nat := min (192 * k + min 192 (pageSize - 192 * k)) (r + n)

/-- A range in a page is cut into the parts of its lines. -/
theorem lineCuts_offset {q r n : Nat} (hr : r < pageSize) (hn : r + n ≤ pageSize) : lineCuts (q * pageSize + r) n =
    (List.range 4).filterMap fun i =>
      if cutLo r (r / 192 + i) < cutHi r n (r / 192 + i) then
        some (q * pageSize + cutLo r (r / 192 + i), cutHi r n (r / 192 + i) - cutLo r (r / 192 + i)) else none := by
  refine List.filterMap_congr fun i _ => ?_
  have hmin : ∀ x y, Nat.min x y = min x y := fun _ _ => rfl
  have hmax : ∀ x y, Nat.max x y = max x y := fun _ _ => rfl
  have hstart : lineBase (q * pageSize + r) + 192 * i = q * pageSize + 192 * (r / 192 + i) := by rw [lineBase_offset hr]; omega
  dsimp only
  rw [hstart, hmin, hmax]
  by_cases hin : 192 * (r / 192 + i) < pageSize
  · rw [lineLen_offset hin, Nat.mul_div_cancel_left _ (by decide)]
    simp only [cutLo, cutHi]
    generalize q * pageSize = Q
    refine if_congr (by omega) ?_ rfl
    congr 2 <;> omega
  · rw [if_neg (by omega), if_neg (by simp only [cutLo, cutHi]; omega)]

theorem mem_lineCuts {q r n : Nat} (hr : r < pageSize) (hn : r + n ≤ pageSize) {c : Nat × Nat} :
    c ∈ lineCuts (q * pageSize + r) n ↔ ∃ i < 4, cutLo r (r / 192 + i) < cutHi r n (r / 192 + i) ∧
      c = (q * pageSize + cutLo r (r / 192 + i), cutHi r n (r / 192 + i) - cutLo r (r / 192 + i)) := by
  rw [lineCuts_offset hr hn, List.mem_filterMap]
  refine exists_congr fun i => ?_
  rw [List.mem_range]
  refine and_congr_right fun _ => ?_
  split
  · rename_i hlt
    simp only [Option.some.injEq, hlt, true_and]
    exact eq_comm
  · rename_i hlt
    simp [hlt]

/-- Every part lies in the range and in one line. -/
theorem lineCuts_part {q r n : Nat} (hr : r < pageSize) (hn : r + n ≤ pageSize) {c : Nat × Nat}
    (hc : c ∈ lineCuts (q * pageSize + r) n) : 0 < c.2 ∧ q * pageSize + r ≤ c.1 ∧ c.1 + c.2 ≤ q * pageSize + r + n ∧
      ∀ i, i < c.2 → lineNo (c.1 + i) = lineNo c.1 := by
  obtain ⟨j, -, hlt, rfl⟩ := (mem_lineCuts hr hn).mp hc
  simp only [cutLo, cutHi] at hlt ⊢
  refine ⟨by omega, by omega, by omega, fun i hi => ?_⟩
  rw [Nat.add_assoc, lineNo_offset (by omega), lineNo_offset (by omega)]
  omega

/-- The parts hold the whole of a range of at most four lines. -/
theorem lineCuts_cover {q r n : Nat} (hr : r < pageSize) (hn : r + n ≤ pageSize) (hlen : r % 192 + n ≤ 768) {b : Nat}
    (hlo : q * pageSize + r ≤ b) (hhi : b < q * pageSize + r + n) : ∃ c ∈ lineCuts (q * pageSize + r) n, c.1 ≤ b ∧ b < c.1 + c.2 := by
  obtain ⟨o, rfl⟩ : ∃ o, b = q * pageSize + r + o := ⟨b - (q * pageSize + r), by omega⟩
  have hline : 192 * ((r + o) / 192) ≤ r + o ∧ r + o < 192 * ((r + o) / 192) + 192 := by omega
  have hin : r + o < pageSize := by omega
  obtain ⟨i, hi⟩ : ∃ i, (r + o) / 192 = r / 192 + i := ⟨(r + o) / 192 - r / 192, by omega⟩
  rw [hi] at hline
  refine ⟨_, (mem_lineCuts hr hn).mpr ⟨i, by omega, ?_, rfl⟩, ?_⟩
  · simp only [cutLo, cutHi]
    omega
  · simp only [cutLo, cutHi]
    generalize q * pageSize = Q at hlo hhi ⊢
    omega

/-- The parts lie in different lines. -/
theorem lineCuts_nodup {q r n : Nat} (hr : r < pageSize) (hn : r + n ≤ pageSize) :
    ((lineCuts (q * pageSize + r) n).map fun c => lineBase c.1).Nodup := by
  rw [lineCuts_offset hr hn, List.map_filterMap]
  refine List.Nodup.filterMap (fun i j b hi hj => ?_) List.nodup_range
  have hbase : ∀ i, b ∈ Option.map (fun c => lineBase c.1) (if cutLo r (r / 192 + i) < cutHi r n (r / 192 + i) then
      some (q * pageSize + cutLo r (r / 192 + i), cutHi r n (r / 192 + i) - cutLo r (r / 192 + i)) else none) →
      b = q * pageSize + 192 * (r / 192 + i) := fun i hi => by
    split at hi
    · rename_i hlt
      obtain rfl : lineBase (q * pageSize + cutLo r (r / 192 + i)) = b := by simpa using hi
      simp only [cutLo, cutHi] at hlt ⊢
      rw [lineBase_offset (by omega)]
      generalize q * pageSize = Q
      omega
    · simp at hi
  have := (hbase i hi).symm.trans (hbase j hj)
  omega

end Sys2Proof.Machine

end

section

namespace Sys2Proof.Machine

open Claims

/-- What an access of grain `gran` at an address brings in: a part of its burst, of at most four lines, around it. -/
structure Grain (gran a q r n : Nat) : Prop where
  unit : granUnit gran a = (q * pageSize + r, n)
  page : r < pageSize
  ends : r + n ≤ pageSize
  lines : r % 192 + n ≤ 768
  around : q * pageSize + r ≤ a ∧ a < q * pageSize + r + n
  burst : ∀ o, r ≤ o → o < r + n → burstOf (q * pageSize + o) = burstOf a

theorem exists_grain {gran : Nat} (hgran : gran ≤ 2) (a : Nat) : ∃ q r n, Grain gran a q r n := by
  obtain ⟨q, o, ho, rfl⟩ := exists_offset a
  have hmin : ∀ x y, Nat.min x y = min x y := fun _ _ => rfl
  have hburst : ∀ o', o' < pageSize → o' / 768 = o / 768 → burstOf (q * pageSize + o') = burstOf (q * pageSize + o) := fun o' ho' h => by
    rw [burstOf_offset ho', burstOf_offset ho, Nat.div_div_eq_div_mul, Nat.div_div_eq_div_mul, h]
  obtain rfl | rfl | rfl : gran = 0 ∨ gran = 1 ∨ gran = 2 := by omega
  · refine ⟨q, o / 48 * 48, min 48 (pageSize - o / 48 * 48), ?_, ?_, ?_, ?_, ?_, fun o' hlo hhi => hburst o' ?_ ?_⟩
    · rw [granUnit, if_pos rfl, sectorBase_offset ho, sectorLen_offset ho]
    all_goals
      generalize q * pageSize = Q
      simp only [pageSize] at *
      omega
  · refine ⟨q, o / 192 * 192, min 192 (pageSize - o / 192 * 192), ?_, ?_, ?_, ?_, ?_, fun o' hlo hhi => hburst o' ?_ ?_⟩
    · rw [granUnit, if_neg (by decide), if_pos rfl, lineBase_offset ho, lineLen_offset ho]
    all_goals
      generalize q * pageSize = Q
      simp only [pageSize] at *
      omega
  · refine ⟨q, o / 768 * 768, min 768 (pageSize - o / 768 * 768), ?_, ?_, ?_, ?_, ?_, fun o' hlo hhi => hburst o' ?_ ?_⟩
    · rw [granUnit, if_neg (by decide), if_neg (by decide), ppnOf_offset ho, lineInPage_offset ho]
      dsimp only
      rw [hmin, show o / 192 / 4 * 4 * 192 = o / 768 * 768 by omega]
    all_goals
      generalize q * pageSize = Q
      simp only [pageSize] at *
      omega

namespace Grain

variable {gran a q r n : Nat} (h : Grain gran a q r n)
include h

theorem burst_eq {b : Nat} (hlo : q * pageSize + r ≤ b) (hhi : b < q * pageSize + r + n) : burstOf b = burstOf a := by
  obtain ⟨o, ho, hin, rfl⟩ : ∃ o, r ≤ o ∧ o < r + n ∧ b = q * pageSize + o := ⟨b - q * pageSize, by omega, by omega, by omega⟩
  exact h.burst o ho hin

/-- The cuts of the unit: each is a part of it in one line. -/
theorem cut {c : Nat × Nat} (hc : c ∈ unitCuts gran a) : (0 < c.2 ∧ q * pageSize + r ≤ c.1 ∧ c.1 + c.2 ≤ q * pageSize + r + n) ∧
    ∀ i, i < c.2 → lineNo (c.1 + i) = lineNo c.1 := by
  rw [unitCuts, h.unit] at hc
  obtain ⟨hpos, hlo, hhi, hline⟩ := lineCuts_part h.page h.ends hc
  exact ⟨⟨hpos, hlo, hhi⟩, hline⟩

theorem cover {b : Nat} (hlo : q * pageSize + r ≤ b) (hhi : b < q * pageSize + r + n) :
    ∃ c ∈ unitCuts gran a, c.1 ≤ b ∧ b < c.1 + c.2 := by
  rw [unitCuts, h.unit]
  exact lineCuts_cover h.page h.ends h.lines hlo hhi

theorem nodup : ((unitCuts gran a).map fun c => lineBase c.1).Nodup := by
  rw [unitCuts, h.unit]
  exact lineCuts_nodup h.page h.ends

end Grain

/-- Parts of lines of one burst are read in one after another. -/
theorem fills_cuts {f : Nat} {k : Nat × Nat} : ∀ (cs : List (Nat × Nat)) {s : State}, AsWritten s →
    (∀ c ∈ cs, burstOf c.1 = k ∧ Room s f c.1 ∧ ∀ i, i < c.2 → lineNo (c.1 + i) = lineNo c.1) →
    Fills s (foldState (fun s c => fillLine s f c.1 c.2) s cs) f k ∧
      (∀ c ∈ cs, ∀ b, c.1 ≤ b → b < c.1 + c.2 →
        cachedByte ((foldState (fun s c => fillLine s f c.1 c.2) s cs).field f) b = filledByte s f b) ∧
      Beneath s (foldState (fun s c => fillLine s f c.1 c.2) s cs)
  | [], s, _, _ => ⟨Fills.refl s f k, fun c hc => absurd hc List.not_mem_nil, Beneath.refl s⟩
  | c :: cs, s, hs, hcs => by
    obtain ⟨hk, hroom, hline⟩ := hcs c List.mem_cons_self
    obtain ⟨hfill, hbytes, hbeneath⟩ := fillLine_spec hs hroom hline
    rw [hk] at hfill
    obtain ⟨hrest, hothers, hkept⟩ := fills_cuts cs (hfill.unwritten.asWritten hs) fun d hd =>
      have ⟨hkd, hroomd, hlined⟩ := hcs d (List.mem_cons_of_mem c hd)
      ⟨hkd, hfill.room d.1 hkd hroomd, hlined⟩
    refine ⟨hfill.trans hs hrest, fun d hd b hlo hhi => ?_, hbeneath.trans hkept⟩
    rcases List.mem_cons.mp hd with rfl | hd
    · exact hfill.stays hs hrest (hbytes b hlo hhi)
    · exact (hothers d hd b hlo hhi).trans (hfill.filledByte_eq hs b)

/-- A fetch asks the home's cache alone before it reads the bytes in. -/
theorem unwritten_asked {s : State} (hs : AsWritten s) (f gran a : Nat) (evf : Bool) :
    Unwritten s (asCache s f fun s => l2Unit s gran a evf) ∧ (asCache s f fun s => l2Unit s gran a evf).fields = s.fields :=
  ⟨Unwritten.asCache hs (fun u => Stands.l2Request u _ _ _ _) (fun u => Below.l2Request u _ _ _ _) fun _ hu => Asked.l2Request hu _ _ _ _,
    (Asked.asCache hs fun _ hu => Asked.l2Request hu _ _ _ _).fields⟩

/-- A fetch of a unit with room brings its bytes into the field's cache. -/
theorem fetchUnit_spec {s : State} (hs : AsWritten s) {f gran a q r n : Nat} (h : Grain gran a q r n)
    (hroom : ∀ b, q * pageSize + r ≤ b → b < q * pageSize + r + n → Room s f b) (evf : Bool) :
    Fills s (fetchUnit s f gran a evf) f (burstOf a) ∧ (∀ b, q * pageSize + r ≤ b → b < q * pageSize + r + n →
      cachedByte ((fetchUnit s f gran a evf).field f) b = filledByte s f b) ∧
      Beneath (asCache s f fun s => l2Unit s gran a evf) (fetchUnit s f gran a evf) := by
  obtain ⟨hask, hfields⟩ := unwritten_asked hs f gran a evf
  have hfield := congrArg (SMap.get · FieldSt.reset f) hfields
  have hfirst : Fills s (asCache s f fun s => l2Unit s gran a evf) f (burstOf a) := Fills.of_unwritten hask hfield
  obtain ⟨hfill, hbytes, hkept⟩ := fills_cuts (unitCuts gran a) (hask.asWritten hs) fun c hc => by
    obtain ⟨⟨hpos, hlo, hhi⟩, hline⟩ := h.cut hc
    have hburst := h.burst_eq hlo (by omega)
    exact ⟨hburst, hfirst.room c.1 hburst (hroom c.1 hlo (by omega)), hline⟩
  refine ⟨hfirst.trans hs hfill, fun b hlo hhi => ?_, hkept⟩
  obtain ⟨c, hc, hclo, hchi⟩ := h.cover hlo hhi
  exact (hbytes c hc b hclo hchi).trans (hfirst.filledByte_eq hs b)

end Sys2Proof.Machine

end

section

namespace Sys2Proof.Machine

open Claims

/-! ### Lines of the home's second-level cache (R209 to R211) -/

/-- The lines of set n of the second-level cache of die d. -/
def l2Lines (s : State) (d n : Nat) : List L2Line := SMap.get (s.die d).l2 [] n

theorem l2Has_eq (s : State) (b : Nat) (secs : List Nat) : l2Has s b secs =
    (l2Lines s (homeDie s b) (lineNo b % 65536)).any fun l => l.base == b && secs.all fun k => l.valid.contains k := rfl

theorem Beneath.lines {s t : State} (h : Beneath s t) (d n : Nat) : l2Lines t d n = l2Lines s d n :=
  congrArg (SMap.get · [] n) (h.l2 d)

theorem Beneath.l2Has {s t : State} (h : Beneath s t) (b : Nat) (secs : List Nat) : l2Has t b secs = l2Has s b secs := by
  rw [l2Has_eq, l2Has_eq, h.toBelow.homeDie, h.lines]

theorem l2Lines_setDie {s : State} {d d' n n' : Nat} {v : DieSt} {ls : List L2Line} (hv : v.l2 = SMap.put (s.die d).l2 [] n ls) :
    l2Lines (s.setDie d v) d' n' = if d' = d ∧ n' = n then ls else l2Lines s d' n' := by
  have hdie : (s.setDie d v).die d' = if d' = d then v else s.die d' := SMap.get_put _ _ _ _ _
  rw [l2Lines, hdie]
  by_cases hd : d' = d
  · subst hd
    rw [if_pos rfl, hv, SMap.get_put]
    simp only [true_and]
    rfl
  · rw [if_neg hd, if_neg (fun h => hd h.1)]
    rfl

theorem l2Place_spec (die : DieSt) (lines : List L2Line) (b : Nat) (v d : List Nat) (e : Bool) :
    (l2Place die lines b v d e).1.l2 = die.l2 ∧ ∃ l ∈ (l2Place die lines b v d e).2, l.base = lineBase b ∧ l.valid = v := by
  unfold l2Place
  dsimp only
  generalize (e && (windowOf die b).isNone) = last
  split
  · refine ⟨rfl, _, List.mem_cons_self, ?_, ?_⟩ <;> rfl
  · refine ⟨by split <;> rfl, ?_⟩
    cases last
    · refine ⟨_, List.mem_cons_self, ?_, ?_⟩ <;> rfl
    · refine ⟨_, List.mem_append_right _ (List.mem_singleton_self _), ?_, ?_⟩ <;> rfl

/-- A line asked for stands in its set, with the sectors asked for; the other sets are as they were. -/
theorem l2Line_lines (s : State) {b : Nat} (hb : lineBase b = b) (v d : List Nat) (e c : Bool) : ∃ ls : List L2Line,
    (∃ l ∈ ls, l.base = b ∧ ∀ k ∈ v, k ∈ l.valid) ∧
      ∀ d' n, l2Lines (l2Line s b v d e c) d' n = if d' = homeDie s b ∧ n = lineNo b % 65536 then ls else l2Lines s d' n := by
  unfold l2Line
  dsimp only
  split
  · rename_i l hl
    have hlb : l.base = b := by simpa using List.find?_some hl
    have hvalid : ∀ k ∈ v, k ∈ (l.valid ++ v).dedup := fun k hk => List.mem_dedup.mpr (List.mem_append_right _ hk)
    refine ⟨_, ?_, fun d' n => l2Lines_setDie rfl⟩
    split
    · exact ⟨_, List.mem_cons_self, hlb, hvalid⟩
    · refine ⟨_, List.mem_map.mpr ⟨l, List.mem_of_find?_eq_some hl, if_pos hlb⟩, hlb, hvalid⟩
  · generalize (SMap.get (s.die (homeDie s b)).l2 [] (lineNo b % 65536)).filter _ = out
    have hw : Beneath s (foldState l2WriteBack s out) := Beneath.fold _ (fun _ _ => Beneath.l2WriteBack _ _) _ _
    generalize foldState l2WriteBack s out = w at hw
    have hplace := l2Place_spec (w.die (homeDie s b)) (SMap.get (s.die (homeDie s b)).l2 [] (lineNo b % 65536)) b v d e
    generalize l2Place (w.die (homeDie s b)) _ b v d e = r at hplace ⊢
    obtain ⟨hl2, l, hl, hlb, hvalid⟩ := hplace
    refine ⟨r.2, ⟨l, hl, hlb.trans hb, fun k hk => hvalid ▸ hk⟩, fun d' n => ?_⟩
    rw [l2Lines_setDie (ls := r.2) (n := lineNo b % 65536) (by rw [hl2]), hw.lines]

/-- Of two lines of a page, neither has its place where the other has. -/
theorem lineNo_mod_ne {a b : Nat} (ha : lineBase a = a) (hb : lineBase b = b) (hpage : ppnOf a = ppnOf b) (hne : a ≠ b) :
    lineNo a % 65536 ≠ lineNo b % 65536 := fun h => by
  have hla := lineInPage_lt a
  have hlb := lineInPage_lt b
  refine hne (ha ▸ hb ▸ ?_)
  simp only [lineNo, lineBase, hpage] at h ⊢
  omega

/-- Different lines of a page asked for one after another all stand there. -/
theorem l2Has_fold {go : State → Nat × List Nat → State} {dirty : Nat → List Nat} {e : Bool} {use : Nat × List Nat → Bool}
    (hgo : ∀ s l, go s l = l2Line s l.1 l.2 (dirty l.1) e (use l)) {q : Nat} : ∀ (fs : List (Nat × List Nat)) (s : State),
      (∀ l ∈ fs, lineBase l.1 = l.1 ∧ ppnOf l.1 = q) → (fs.map Prod.fst).Nodup →
        (∀ b secs, lineBase b = b → ppnOf b = q → b ∉ fs.map Prod.fst → l2Has (foldState go s fs) b secs = l2Has s b secs) ∧
        ∀ l ∈ fs, ∀ secs : List Nat, (∀ k ∈ secs, k ∈ l.2) → l2Has (foldState go s fs) l.1 secs = true
  | [], _, _, _ => ⟨fun _ _ _ _ _ => rfl, fun l hl => absurd hl List.not_mem_nil⟩
  | l :: fs, s, hbase, hnodup => by
    obtain ⟨hlb, hlq⟩ := hbase l List.mem_cons_self
    rw [List.map_cons, List.nodup_cons] at hnodup
    obtain ⟨hnew, hnodup⟩ := hnodup
    have hbelow : Below s (go s l) := hgo s l ▸ Below.l2Line _ _ _ _ _ _
    obtain ⟨ls, ⟨l', hl', hl'b, hvalid⟩, hlines⟩ := l2Line_lines s hlb l.2 (dirty l.1) e (use l)
    rw [← hgo] at hlines
    obtain ⟨hkeep, hin⟩ := l2Has_fold hgo fs (go s l) (fun m hm => hbase m (List.mem_cons_of_mem l hm)) hnodup
    refine ⟨fun b secs hb hq hout => ?_, fun m hm secs hsecs => ?_⟩
    · rw [List.map_cons, List.mem_cons, not_or] at hout
      refine (hkeep b secs hb hq hout.2).trans ?_
      rw [l2Has_eq, l2Has_eq, hbelow.homeDie, hlines, if_neg]
      exact fun h => lineNo_mod_ne hb hlb (hq.trans hlq.symm) hout.1 h.2
    · rcases List.mem_cons.mp hm with rfl | hm
      · refine (hkeep _ secs hlb hlq hnew).trans ?_
        rw [l2Has_eq, hbelow.homeDie, hlines, if_pos ⟨rfl, rfl⟩, List.any_eq_true]
        refine ⟨l', hl', ?_⟩
        rw [hl'b, beq_self_eq_true, Bool.true_and, List.all_eq_true]
        exact fun k hk => List.contains_iff_mem.mpr (hvalid k (hsecs k hk))
      · exact hin m hm secs hsecs

end Sys2Proof.Machine

end

section

namespace Sys2Proof.Machine

open Claims

theorem lineBase_idem (b : Nat) : lineBase (lineBase b) = lineBase b ∧ ppnOf (lineBase b) = ppnOf b := by
  obtain ⟨q, r, hr, rfl⟩ := exists_offset b
  have hin : r / 192 * 192 < pageSize := by omega
  rw [lineBase_offset hr, lineBase_offset hin, ppnOf_offset hin, ppnOf_offset hr]
  omega

/-- The sector of a byte is among those of a part of its page that the byte lies in. -/
theorem sectorInLine_mem {a n b : Nat} (hpage : a % pageSize + n ≤ pageSize) (hlo : a ≤ b) (hhi : b < a + n) :
    sectorInLine b ∈ (sectorsOf a n).map sectorInLine := by
  obtain ⟨i, rfl⟩ := Nat.exists_eq_add_of_le hlo
  refine List.mem_map.mpr ⟨_, sectorBase_mem_sectorsOf (i := i) (by omega) (by omega), ?_⟩
  obtain ⟨q, r, hr, heq⟩ := exists_offset (a + i)
  have hin : r / 48 * 48 < pageSize := by omega
  rw [heq, sectorBase_offset hr, sectorInLine_offset hin, sectorInLine_offset hr]
  omega

theorem mem_lineSectors (b : Nat) : sectorInLine b ∈ lineSectors (lineBase b) := by
  obtain ⟨hidem, -⟩ := lineBase_idem b
  obtain ⟨hlo, hlt, -⟩ := lineBase_add b
  have hlen : lineLen (lineBase b) = lineLen b := by
    obtain ⟨q, r, hr, rfl⟩ := exists_offset b
    have hin : r / 192 * 192 < pageSize := by omega
    rw [lineBase_offset hr, lineLen_offset hin, lineLen_offset hr, Nat.mul_div_cancel _ (by decide)]
  exact sectorInLine_mem (lineBase_page hidem) hlo (by omega)

theorem mem_burstLines {a b : Nat} (h : a ∈ burstLines b) : lineBase a = a ∧ ppnOf a = ppnOf b := by
  simp only [burstLines, List.mem_filter, List.mem_map, List.mem_range, decide_eq_true_eq] at h
  obtain ⟨⟨⟨i, hi, rfl⟩, hin⟩, -⟩ := h
  have hr : (lineInPage b / 4 * 4 + i) * 192 < pageSize := by
    rw [Nat.succ_mul] at hin
    omega
  rw [lineBase_offset hr, ppnOf_offset hr, Nat.mul_div_cancel _ (by decide)]
  exact ⟨rfl, rfl⟩

/-- The lines of an answer are lines of the page asked for, each once, and what was asked for is in them. -/
theorem l2Fetches_spec (tag : Nat) {ls : List (Nat × List Nat)} {q : Nat} (hbase : ∀ l ∈ ls, lineBase l.1 = l.1 ∧ ppnOf l.1 = q)
    (hnodup : (ls.map Prod.fst).Nodup) : (∀ l ∈ l2Fetches tag ls, lineBase l.1 = l.1 ∧ ppnOf l.1 = q) ∧
      ((l2Fetches tag ls).map Prod.fst).Nodup ∧
      ∀ b, ∀ l ∈ ls, l.1 = lineBase b → sectorInLine b ∈ l.2 → ∃ m ∈ l2Fetches tag ls, m.1 = lineBase b ∧ sectorInLine b ∈ m.2 := by
  unfold l2Fetches
  by_cases h0 : tag = 0
  · rw [if_pos h0]
    exact ⟨hbase, hnodup, fun b l hl hb hk => ⟨l, hl, hb, hk⟩⟩
  rw [if_neg h0]
  by_cases h1 : tag = 1
  · rw [if_pos h1, List.map_map]
    refine ⟨fun m hm => ?_, hnodup, fun b l hl hb _ => ⟨_, List.mem_map_of_mem hl, hb, hb ▸ mem_lineSectors b⟩⟩
    obtain ⟨l, hl, rfl⟩ := List.mem_map.mp hm
    exact hbase l hl
  · rw [if_neg h1, List.map_map]
    refine ⟨fun m hm => ?_, ?_, fun b l hl hb _ => ?_⟩
    · obtain ⟨c, hc, rfl⟩ := List.mem_map.mp hm
      obtain ⟨l, hl, hcl⟩ := List.mem_flatMap.mp (List.mem_dedup.mp hc)
      obtain ⟨hlb, hlq⟩ := hbase l hl
      rcases List.mem_cons.mp hcl with rfl | hcl
      · exact ⟨hlb, hlq⟩
      · obtain ⟨hcb, hcq⟩ := mem_burstLines hcl
        exact ⟨hcb, hcq.trans hlq⟩
    · exact (List.map_id _).symm ▸ List.nodup_dedup _
    · refine ⟨_, List.mem_map_of_mem (List.mem_dedup.mpr (List.mem_flatMap.mpr ⟨l, hl, List.mem_cons_self⟩)), hb, ?_⟩
      exact hb ▸ mem_lineSectors b

/-- What a request at a home asks for stands in its cache. -/
theorem l2Holds_request (s : State) {pa : Nat} (hpa : isDram pa = true) {ls : List (Nat × List Nat)} {q : Nat}
    (hbase : ∀ l ∈ ls, lineBase l.1 = l.1 ∧ ppnOf l.1 = q) (hnodup : (ls.map Prod.fst).Nodup) (wr evf : Bool) {b : Nat}
    {l : Nat × List Nat} (hl : l ∈ ls) (hb : l.1 = lineBase b) (hk : sectorInLine b ∈ l.2) :
    l2Holds (l2Request s pa ls wr evf) b = true := by
  have hfs : ∀ (hit : Bool) (tag : Nat) {go : State → Nat × List Nat → State} {dirty : Nat → List Nat} {use : Nat × List Nat → Bool},
      (∀ t l, go t l = l2Line t l.1 l.2 (dirty l.1) evf (use l)) →
        ∀ t, l2Holds (foldState go t (if hit then ls else l2Fetches tag ls)) b = true := by
    intro hit tag go dirty use hgo t
    have heq : (if hit then ls else l2Fetches tag ls) = l2Fetches (if hit then 0 else tag) ls := by cases hit <;> rfl
    obtain ⟨hfbase, hfnodup, hfetch⟩ := l2Fetches_spec (if hit then 0 else tag) hbase hnodup
    obtain ⟨m, hm, hmb, hmk⟩ := hfetch b l hl hb hk
    rw [heq, l2Holds, ← hmb]
    exact (l2Has_fold hgo _ t hfbase hfnodup).2 m hm _ fun k hk => List.mem_singleton.mp hk ▸ hmk
  unfold l2Request
  rw [if_neg (by rw [hpa]; exact Bool.false_ne_true)]
  extract_lets n s₁ s₂ dirty hit fs missing
  exact hfs hit (pageTag s₂ pa) (dirty := dirty) (use := fun l => ls.any fun m => m.1 == l.1) (fun _ _ => rfl) _

/-- A unit asked for at its home stands in its cache. -/
theorem l2Holds_unit (s : State) {gran a q r n : Nat} (h : Grain gran a q r n) (ha : isDram a = true) (evf : Bool) {b : Nat}
    (hlo : q * pageSize + r ≤ b) (hhi : b < q * pageSize + r + n) : l2Holds (l2Unit s gran a evf) b = true := by
  obtain ⟨c, hc, hclo, hchi⟩ := h.cover hlo hhi
  have hpage : ∀ c ∈ unitCuts gran a, ppnOf c.1 = q ∧ c.1 % pageSize + c.2 ≤ pageSize := fun c hc => by
    obtain ⟨⟨hpos, hclo, hchi⟩, -⟩ := h.cut hc
    have hends := h.ends
    obtain ⟨o, ho⟩ : ∃ o, c.1 = q * pageSize + o := ⟨c.1 - q * pageSize, by omega⟩
    rw [ho] at hclo hchi ⊢
    have hin : o < pageSize := by omega
    rw [ppnOf_offset hin, mod_offset hin]
    exact ⟨rfl, by omega⟩
  obtain ⟨-, hline⟩ := h.cut hc
  have hb : lineBase b = lineBase c.1 := by
    have := hline (b - c.1) (by omega)
    rw [Nat.add_sub_cancel' hclo] at this
    exact lineBase_of_lineNo this
  refine l2Holds_request s ha (q := q) (fun l hl => ?_) ?_ false evf (List.mem_map_of_mem hc) hb.symm
    (sectorInLine_mem (hpage c hc).2 hclo hchi)
  · obtain ⟨d, hd, rfl⟩ := List.mem_map.mp hl
    obtain ⟨hidem, hppn⟩ := lineBase_idem d.1
    exact ⟨hidem, hppn.trans (hpage d hd).1⟩
  · rw [List.map_map]
    exact h.nodup

end Sys2Proof.Machine

end

section

namespace Sys2Proof.Machine

open Claims

/-! ### What a load brings (R206, R227, R230) -/

/-- Where no update of the combining buffer is meant, none is performed. -/
theorem performRcbs_none {s : State} {f : Nat} {sel : RcbEntry → Bool} (h : (s.field f).rcb.any sel = false) :
    performRcbs s f sel = s.setField f (s.field f) := by
  have hnone : ∀ e ∈ (s.field f).rcb, sel e = false := fun e he => Bool.eq_false_iff.mpr (List.any_eq_false.mp h e he)
  have hkept : (s.field f).rcb.filter (fun e => !sel e) = (s.field f).rcb :=
    List.filter_eq_self.mpr fun e he => by rw [hnone e he]; rfl
  have hdone : (s.field f).rcb.filter sel = [] := List.filter_eq_nil_iff.mpr fun e he => by rw [hnone e he]; exact Bool.false_ne_true
  have hasCache : ∀ t : State, asCache t f (fun t => foldState performRcb t []) = t := fun t => by cases t; rfl
  unfold performRcbs
  dsimp only
  rw [hkept, hdone, hasCache]

theorem room_of_lineNo {s : State} {f a b : Nat} (h : lineNo b = lineNo a) (hr : Room s f a) : Room s f b := by rwa [Room, h]

theorem burstOf_of_lineNo {a b : Nat} (h : lineNo b = lineNo a) : burstOf b = burstOf a := by
  obtain ⟨hpage, hline⟩ := lineNo_inj h
  rw [burstOf, burstOf, hpage, hline]

/-- A range that lies in one line, by its offset in the page. -/
theorem exists_range {a n : Nat} (hn : 0 < n) (hline : lineBase (a + n - 1) = lineBase a) :
    ∃ q r, r + n ≤ pageSize ∧ a = q * pageSize + r ∧ (r + n - 1) / 192 = r / 192 := by
  obtain ⟨q, r, hr, rfl⟩ := exists_offset a
  obtain ⟨hpage, hin⟩ := lineNo_inj (lineNo_of_lineBase hline)
  rw [ppnOf_offset hr] at hpage
  rw [lineInPage_offset hr] at hin
  have hlt : r + n - 1 < pageSize := by
    simp only [ppnOf, pageSize] at hpage hr ⊢
    omega
  rw [Nat.add_assoc, Nat.add_sub_assoc (by omega), lineInPage_offset hlt] at hin
  exact ⟨q, r, by omega, rfl, hin⟩

theorem lineNo_of_range {a n b : Nat} (hn : 0 < n) (hline : lineBase (a + n - 1) = lineBase a) (hlo : a ≤ b) (hhi : b < a + n) :
    lineNo b = lineNo a := by
  obtain ⟨q, r, hpage, rfl, hin⟩ := exists_range hn hline
  obtain ⟨o, rfl⟩ := Nat.exists_eq_add_of_le hlo
  rw [Nat.add_assoc, lineNo_offset (by omega), lineNo_offset (by omega)]
  omega

/-- The sectors of a range in one line lie in that line. -/
theorem lineNo_of_sector {a n b c : Nat} (hn : 0 < n) (hline : lineBase (a + n - 1) = lineBase a) (hb : b ∈ sectorsOf a n)
    (hlo : sectorBase b ≤ c) (hhi : c < sectorBase b + sectorLen b) : lineNo c = lineNo a := by
  obtain ⟨q, r, hpage, rfl, hin⟩ := exists_range hn hline
  have hr : r < pageSize := by omega
  simp only [sectorsOf, if_neg (Nat.pos_iff_ne_zero.mp hn), List.mem_filter, List.mem_map, Bool.and_eq_true, decide_eq_true_eq,
    sectorBase_offset hr] at hb
  obtain ⟨⟨i, -, rfl⟩, hlt, -⟩ := hb
  have ho : r / 48 * 48 + 48 * i < pageSize := by omega
  rw [Nat.add_assoc (q * pageSize), sectorBase_offset ho] at hlo hhi
  rw [sectorLen_offset ho] at hhi
  obtain ⟨o, rfl⟩ := Nat.exists_eq_add_of_le (Nat.le_trans (Nat.le_add_right _ _) hlo)
  have hoo : o < pageSize := by omega
  rw [lineNo_offset hoo, lineNo_offset hr]
  omega

theorem sectorsOf_single {a n : Nat} (hn : 0 < n) (hpage : a % pageSize + n ≤ pageSize) (hend : a + n ≤ sectorBase a + sectorLen a) :
    sectorsOf a n = [sectorBase a] := by
  obtain ⟨q, r, hr, rfl⟩ := exists_offset a
  rw [mod_offset hr] at hpage
  rw [sectorBase_offset hr, sectorLen_offset hr] at hend
  have hends : r + n ≤ r / 48 * 48 + 48 := by omega
  have hlist : List.range (n / 48 + 2) = 0 :: (List.range (n / 48 + 1)).map Nat.succ := List.range_succ_eq_map
  rw [sectorsOf, if_neg (by omega)]
  dsimp only
  rw [hlist, List.map_cons, List.filter_cons_of_pos, List.map_map, List.filter_eq_nil_iff.mpr]
  · rw [Nat.mul_zero, Nat.add_zero]
  · intro b hb
    obtain ⟨i, -, rfl⟩ := List.mem_map.mp hb
    simp only [Function.comp, Bool.and_eq_true, decide_eq_true_eq, sectorBase_offset hr]
    omega
  · have hin : r / 48 * 48 < pageSize := by omega
    simp only [Nat.mul_zero, Nat.add_zero, Bool.and_eq_true, decide_eq_true_eq, sectorBase_offset hr, mod_offset hin]
    simp only [pageSize] at hr
    omega

end Sys2Proof.Machine

end

section

namespace Sys2Proof.Machine

open Claims

theorem asCache_l2Holds (s : State) (f : Nat) (go : State → State) (b : Nat) :
    l2Holds (asCache s f go) b = l2Holds (go (s.by (cacheSource f))) b := (Beneath.source _ _).l2Has _ _

/-- After a fetch the home's cache has the sectors of the unit. -/
theorem fetchUnit_held {s : State} (hs : AsWritten s) {f gran a q r n : Nat} (h : Grain gran a q r n) (ha : isDram a = true)
    (hroom : ∀ b, q * pageSize + r ≤ b → b < q * pageSize + r + n → Room s f b) (evf : Bool) {b : Nat} (hlo : q * pageSize + r ≤ b)
    (hhi : b < q * pageSize + r + n) : l2Holds (fetchUnit s f gran a evf) b = true := by
  obtain ⟨-, -, hkept⟩ := fetchUnit_spec hs h hroom evf
  exact (hkept.l2Has _ _).trans ((asCache_l2Holds _ _ _ _).trans (l2Holds_unit _ h ha evf hlo hhi))

/-- A sector's first byte names the sector's unit. -/
theorem Grain.sectorBase {a q r n : Nat} (h : Grain 0 a q r n) : Grain 0 (sectorBase a) q r n ∧ sectorBase a = q * pageSize + r ∧
    sectorLen a = n ∧ sectorLen (Machine.sectorBase a) = n := by
  obtain ⟨hbase, hlen⟩ := Prod.mk.inj (show (Machine.sectorBase a, sectorLen a) = _ from h.unit)
  have hidem : Machine.sectorBase (Machine.sectorBase a) = Machine.sectorBase a ∧ sectorLen (Machine.sectorBase a) = sectorLen a := by
    obtain ⟨p, o, ho, rfl⟩ := exists_offset a
    have hin : o / 48 * 48 < pageSize := by omega
    rw [sectorBase_offset ho, sectorBase_offset hin, sectorLen_offset ho, sectorLen_offset hin, Nat.mul_div_cancel _ (by decide)]
    exact ⟨rfl, rfl⟩
  refine ⟨⟨?_, h.page, h.ends, h.lines, ?_, fun o ho hin => ?_⟩, hbase, hlen, hidem.2.trans hlen⟩
  · show (Machine.sectorBase (Machine.sectorBase a), sectorLen (Machine.sectorBase a)) = _
    rw [hidem.1, hidem.2, hbase, hlen]
  · have := h.around
    omega
  · rw [h.burst o ho hin, hbase, ← h.burst r (Nat.le_refl r) (by have := h.around; omega)]

/-- One sector after another comes in. -/
theorem fills_fold {f : Nat} {k : Nat × Nat} {R : State → Prop} {go : State → Nat → State}
    (hR : ∀ {s t}, R s → Fills s t f k → R t) : ∀ (bs : List Nat) {s : State}, AsWritten s → R s →
      (∀ b ∈ bs, ∀ t, AsWritten t → R t → Fills t (go t b) f k) → Fills s (foldState go s bs) f k
  | [], s, _, _, _ => Fills.refl s f k
  | b :: bs, s, hs, hr, hgo => by
    have hfirst := hgo b List.mem_cons_self s hs hr
    exact hfirst.trans hs (fills_fold hR bs (hfirst.unwritten.asWritten hs) (hR hr hfirst) fun c hc => hgo c (List.mem_cons_of_mem b hc))

section
variable {s : State} (hs : AsWritten s) {f gran a n q r m : Nat} (h : Grain gran a q r m) (hn : 0 < n)
  (hline : lineBase (a + n - 1) = lineBase a)
  (hroom : ∀ b, q * pageSize + r ≤ b → b < q * pageSize + r + m → Room s f b) (evf : Bool)
include hs h hn hline hroom

/-- A miss reads bytes of the burst in, or leaves them. -/
theorem fills_fetchMissing : Fills s (fetchMissing s f a n gran evf .clean) f (burstOf a) := by
  unfold fetchMissing
  dsimp only
  split
  · have hroomA : Room s f a := hroom a h.around.1 h.around.2
    refine fills_fold (R := fun t => Room t f a) (fun hr ht => ht.room a rfl hr) _ hs hroomA fun b hb t ht hr => ?_
    obtain ⟨q', r', m', hb'⟩ := exists_grain (gran := 0) (by decide) b
    have hin : ∀ c, q' * pageSize + r' ≤ c → c < q' * pageSize + r' + m' → lineNo c = lineNo a := fun c hlo hhi => by
      obtain ⟨hbase, hlen⟩ := Prod.mk.inj hb'.unit
      rw [← hbase] at hlo hhi
      rw [← hlen] at hhi
      exact lineNo_of_sector hn hline hb hlo hhi
    have hburst : burstOf b = burstOf a := burstOf_of_lineNo (hin b hb'.around.1 hb'.around.2)
    split
    · have hfetch := (fetchUnit_spec ht hb' (fun c hlo hhi => room_of_lineNo (hin c hlo hhi) hr) evf).1
      rw [hburst] at hfetch
      subst gran
      exact hfetch
    · exact Fills.refl t f _
  · exact (fetchUnit_spec hs h hroom evf).1

/-- A miss of a range within the unit reads the whole unit in, by way of the home's cache. -/
theorem fetchMissing_unit (ha : isDram a = true) (hmiss : cacheHolds (s.field f) a n = false) (hin : a + n ≤ q * pageSize + r + m) :
    ∀ b, q * pageSize + r ≤ b → b < q * pageSize + r + m →
      cachedByte ((fetchMissing s f a n gran evf .clean).field f) b = filledByte s f b ∧
        l2Holds (fetchMissing s f a n gran evf .clean) b = true := by
  suffices hunit : ∃ b, fetchMissing s f a n gran evf .clean = fetchUnit s f gran b evf ∧ Grain gran b q r m ∧ b ≤ a by
    obtain ⟨b, heq, hgrain, hle⟩ := hunit
    have hb : isDram b = true := isDram_iff.mpr (lt_of_le_of_lt hle (isDram_iff.mp ha))
    rw [heq]
    exact fun c hlo hhi => ⟨(fetchUnit_spec hs hgrain hroom evf).2.1 c hlo hhi, fetchUnit_held hs hgrain hb hroom evf hlo hhi⟩
  unfold fetchMissing
  dsimp only
  split
  · subst gran
    obtain ⟨hgrain, hbase, hlen, hlen'⟩ := h.sectorBase
    have haround := h.around
    have hpage : a % pageSize + n ≤ pageSize := by
      obtain ⟨p, o, hends, rfl, -⟩ := exists_range hn hline
      rwa [mod_offset (by omega)]
    have hlo : Nat.max (sectorBase a) a = a := Nat.max_eq_right (by omega)
    have hhi : Nat.min (sectorBase a + sectorLen (sectorBase a)) (a + n) = a + n := Nat.min_eq_right (by omega)
    refine ⟨sectorBase a, ?_, hgrain, by omega⟩
    rw [sectorsOf_single hn hpage (by omega)]
    have hlacks : (!cacheHolds (s.field f) (Nat.max (sectorBase a) a)
        (Nat.min (sectorBase a + sectorLen (sectorBase a)) (a + n) - Nat.max (sectorBase a) a)) = true := by
      rw [hlo, hhi, Nat.add_sub_cancel_left, hmiss]
      rfl
    rw [foldState, foldState]
    exact if_pos hlacks
  · exact ⟨a, rfl, h, Nat.le_refl a⟩

end

end Sys2Proof.Machine

end

section

namespace Sys2Proof.Machine

open Claims

/-- A byte that a load finds poisoned: the cache has it not, and its sector at the home is. -/
def badAt (s : State) (f b : Nat) : Bool := (cachedByte (s.field f) b).isNone && s.poisoned b 1

/-- The byte that a load brings: the cache's, or the home's; of a poisoned sector of an ET page, zero (R230). -/
def loadedByte (s : State) (f : Nat) (et : Bool) (b : Nat) : Byte :=
  match cachedByte (s.field f) b with
  | some c => c.v
  | none => if et && badAt s f b then 0 else s.byte (locOf s b)

section
variable {s t : State} {f : Nat} {k : Nat × Nat} (h : Fills s t f k)
include h

/-- What a read brings in is good, and the home's. -/
theorem Fills.cases (b : Nat) : cachedByte (t.field f) b = cachedByte (s.field f) b ∨
    cachedByte (s.field f) b = none ∧ s.poisoned b 1 = false ∧
      cachedByte (t.field f) b = some { v := s.byte (locOf s b), drt := false } := by
  rcases h.bytes b with hb | hb
  · exact .inl hb
  · rcases hc : cachedByte (s.field f) b with _ | c
    · rw [filledByte, hc] at hb
      dsimp only at hb
      split at hb
      · exact .inl hb
      · rename_i hgood
        exact .inr ⟨rfl, Bool.eq_false_iff.mpr fun hp => hgood (by rw [hp, Bool.true_or]), hb⟩
    · exact .inl (hb.trans (filledByte_some hc))

variable (hs : AsWritten s)
include hs

theorem Fills.badAt (b : Nat) : badAt t f b = badAt s f b := by
  rw [Machine.badAt, Machine.badAt, h.unwritten.poisoned hs]
  rcases h.cases b with hb | ⟨-, hgood, -⟩
  · rw [hb]
  · rw [hgood, Bool.and_false, Bool.and_false]

theorem Fills.loadedByte (et : Bool) (b : Nat) : loadedByte t f et b = loadedByte s f et b := by
  rw [Machine.loadedByte, Machine.loadedByte, h.badAt hs, h.unwritten.byte, h.unwritten.below.locOf]
  rcases h.cases b with hb | ⟨hnone, hgood, hb⟩
  · rw [hb]
  · rw [hb, hnone, Machine.badAt, hgood, Bool.and_false, Bool.and_false]
    rfl

end

/-- The state in which a load reads its bytes: what it lacks has been fetched. -/
def fetchedFor (s : State) (f a n gran : Nat) (evf : Bool) : State :=
  let s := performRcbs s f (rcbOverlaps a n)
  if cacheHolds (s.field f) a n then s else pmcCount (fetchMissing s f a n gran evf .clean) (dieOfField f) 2 1

/-- The places of the bad bytes of a range. -/
def badPlaces (s : State) (f a n : Nat) : List Nat := (List.range n).filter fun i => badAt s f (a + i)

theorem countZeros_spec (s : State) (f k : Nat) : Unwritten s (countZeros s f k) ∧ Beneath s (countZeros s f k) ∧
    ((countZeros s f k).field f).cache = (s.field f).cache ∧ ((countZeros s f k).field f).rcb = (s.field f).rcb := by
  refine ⟨Unwritten.setField s _ _, Beneath.setField s _ _, ?_⟩
  rw [countZeros, State.setField_same]
  exact ⟨rfl, rfl⟩

theorem cacheLoad_eq (s : State) (f a n gran : Nat) (et evf : Bool) : ∃ k,
    cacheLoad s f a n gran et evf .clean =
      (if badPlaces (fetchedFor s f a n gran evf) f a n ≠ [] ∧ et = true then countZeros (fetchedFor s f a n gran evf) f k
        else fetchedFor s f a n gran evf,
       (List.range n).map fun i => loadedByte (fetchedFor s f a n gran evf) f et (a + i),
       if et then [] else badPlaces (fetchedFor s f a n gran evf) f a n) := by
  unfold cacheLoad
  extract_lets u v fs bad bytes k
  have hv : fetchedFor s f a n gran evf = v := rfl
  clear_value v
  have hbad : bad = badPlaces v f a n := rfl
  have hbytes : bytes = (List.range n).map fun i => loadedByte v f et (a + i) := by
    refine List.map_congr_left fun i hi => ?_
    have hmem : bad.contains i = badAt v f (a + i) := by
      rw [Bool.eq_iff_iff, List.contains_iff_mem, List.mem_filter]
      exact and_iff_right hi
    rw [hmem]
    rfl
  have hk : k = 0 ↔ badPlaces v f a n = [] := by
    rw [← hbad, List.length_eq_zero_iff, List.dedup_eq_nil, List.map_eq_nil_iff]
  refine ⟨k, ?_⟩
  rw [hv, hbytes, hbad]
  by_cases hnone : badPlaces v f a n = []
  · rw [if_pos (hk.mpr hnone), if_neg (fun h => h.1 hnone), hnone, ite_self]
  · rw [if_neg (fun h => hnone (hk.mp h))]
    cases et
    · rw [if_neg Bool.false_ne_true, if_neg (fun h => Bool.false_ne_true h.2), if_neg Bool.false_ne_true]
    · rw [if_pos rfl, if_pos rfl, if_pos (And.intro hnone rfl)]

section
variable {s : State} (hs : AsWritten s) {f gran a n q r m : Nat} (h : Grain gran a q r m) (hn : 0 < n)
  (hline : lineBase (a + n - 1) = lineBase a) (hroom : ∀ b, q * pageSize + r ≤ b → b < q * pageSize + r + m → Room s f b)
  (hupd : (s.field f).rcb.any (rcbOverlaps a n) = false) (evf : Bool)
include hs h hn hline hroom hupd

/-- Before a load reads its bytes, what it lacks has come in. -/
theorem fetchedFor_spec : Fills s (fetchedFor s f a n gran evf) f (burstOf a) ∧
    (cacheHolds (s.field f) a n = true → ((fetchedFor s f a n gran evf).field f).cache = (s.field f).cache) ∧
    (isDram a = true → cacheHolds (s.field f) a n = false → a + n ≤ q * pageSize + r + m → ∀ b, q * pageSize + r ≤ b →
      b < q * pageSize + r + m → cachedByte ((fetchedFor s f a n gran evf).field f) b = filledByte s f b ∧
        l2Holds (fetchedFor s f a n gran evf) b = true) := by
  have hsame : ((s.setField f (s.field f)).field f) = s.field f := State.setField_same _ _ _
  have hfirst : Fills s (s.setField f (s.field f)) f (burstOf a) := Fills.of_unwritten (Unwritten.setField _ _ _) hsame
  unfold fetchedFor
  dsimp only
  rw [performRcbs_none hupd]
  generalize s.setField f (s.field f) = u at hsame hfirst
  have hu := hfirst.unwritten.asWritten hs
  have hroomU : ∀ b, q * pageSize + r ≤ b → b < q * pageSize + r + m → Room u f b := fun b hlo hhi =>
    hfirst.room b (h.burst_eq hlo hhi) (hroom b hlo hhi)
  rw [hsame]
  cases hhit : cacheHolds (s.field f) a n
  · have hmiss := hsame ▸ hhit
    have hfetch := fills_fetchMissing hu h hn hline hroomU evf
    have hunit := fetchMissing_unit hu h hn hline hroomU evf
    have hcount := Unwritten.pmcCount (fetchMissing u f a n gran evf .clean) (dieOfField f) 2 1
    have hkept := Beneath.pmcCount (fetchMissing u f a n gran evf .clean) (dieOfField f) 2 1
    have hfield : (pmcCount (fetchMissing u f a n gran evf .clean) (dieOfField f) 2 1).field f =
        (fetchMissing u f a n gran evf .clean).field f := (Asked.pmcCount _ _ _ _).field f
    rw [if_neg Bool.false_ne_true]
    generalize fetchMissing u f a n gran evf .clean = v at *
    generalize pmcCount v (dieOfField f) 2 1 = w at *
    refine ⟨(hfirst.trans hs hfetch).trans hs (Fills.of_unwritten hcount hfield), fun h => absurd h Bool.false_ne_true,
      fun ha _ hin b hlo hhi => ?_⟩
    obtain ⟨hb, hheld⟩ := hunit ha hmiss hin b hlo hhi
    rw [hfield, hb, hfirst.filledByte_eq hs]
    exact ⟨rfl, (hkept.l2Has _ _).trans hheld⟩
  · rw [if_pos rfl]
    exact ⟨hfirst, fun _ => congrArg FieldSt.cache hsame, fun _ h => absurd h Bool.true_eq_false.mp⟩

end

end Sys2Proof.Machine

end

section

namespace Sys2Proof.Machine

open Claims

/-- What is stored and cached is as it was, and lies where it lay. -/
structure Finished (s t : State) : Prop where
  mem : t.mem = s.mem
  poison : t.poison = s.poison
  flips : t.flips = s.flips
  locOf : ∀ a, locOf t a = locOf s a
  cache : ∀ f, (t.field f).cache = (s.field f).cache
  rcb : ∀ f, (t.field f).rcb = (s.field f).rcb
  l2Has : ∀ b secs, l2Has t b secs = l2Has s b secs
  reserved : ∀ b, l2Reserved t b = l2Reserved s b

/-- Whether a way is reserved is for the windows of its die to say. -/
theorem wayReserved_congr {d e : DieSt} (h : d.retw = e.retw) (w : Nat) : wayReserved d w = wayReserved e w := by
  simp only [wayReserved, windowWays, windowTop, h]

theorem l2Reserved_eq (s : State) (b : Nat) : l2Reserved s b = (isDram b && (l2Lines s (homeDie s b) (lineNo b % 65536)).any fun l =>
    l.base == lineBase b && wayReserved (s.die (homeDie s b)) l.way) := rfl

theorem Beneath.l2Reserved {s t : State} (h : Beneath s t) (b : Nat) : l2Reserved t b = l2Reserved s b := by
  simp only [l2Reserved_eq, h.toBelow.homeDie, h.lines, wayReserved_congr (h.retw _)]

namespace Finished

variable {s t u : State}

@[trans] theorem trans (h : Finished s t) (k : Finished t u) : Finished s u :=
  ⟨k.mem.trans h.mem, k.poison.trans h.poison, k.flips.trans h.flips, fun a => (k.locOf a).trans (h.locOf a),
    fun f => (k.cache f).trans (h.cache f), fun f => (k.rcb f).trans (h.rcb f), fun b secs => (k.l2Has b secs).trans (h.l2Has b secs),
    fun b => (k.reserved b).trans (h.reserved b)⟩

theorem of_asked (hb : Beneath s t) (ha : Asked s t) : Finished s t :=
  ⟨ha.mem, ha.poison, ha.flips, hb.toBelow.locOf, fun f => congrArg FieldSt.cache (ha.field f), fun f => congrArg FieldSt.rcb (ha.field f),
    hb.l2Has, hb.l2Reserved⟩

theorem byte (h : Finished s t) (a : Nat) : t.byte a = s.byte a := congrArg (Memory.get · a) h.mem

theorem cachedByte (h : Finished s t) (f b : Nat) : cachedByte (t.field f) b = cachedByte (s.field f) b := by
  rw [Machine.cachedByte, h.cache, Machine.cachedByte]

theorem poisoned (h : Finished s t) (hs : s.flips = []) (a n : Nat) : t.poisoned a n = s.poisoned a n := by
  rw [poisoned_of_noFlips hs, poisoned_of_noFlips (h.flips.trans hs), h.poison, h.locOf]

/-- An access finished leaves them. -/
theorem finishAccess (s : State) (x id : Nat) (toks : List Token) : Finished s (finishAccess s x id toks) := by
  have hheld := Held.finishAccess s x id toks
  have hleaves := Leaves.finishAccess s x id toks
  have hcache := finishAccess_cache s x id toks
  generalize Machine.finishAccess s x id toks = t at *
  have hquarter : ∀ q, t.quarter q = s.quarter q := fun q => by rw [State.quarter, hleaves.quarters, State.quarter]
  have hpart : ∀ q, partOf t q = partOf s q := fun q => by rw [partOf, hquarter, partOf]
  have hlead : ∀ q, leadOf t q = leadOf s q := fun q => by simp only [leadOf, partQuarters, samePart, hpart]
  have hl2 : ∀ d, (t.die d).l2 = (s.die d).l2 := fun d => by simpa using congrArg DieSt.l2 (hleaves.dies d)
  have hlines : ∀ d n, l2Lines t d n = l2Lines s d n := fun d n => congrArg (SMap.get · [] n) (hl2 d)
  have hretw : ∀ d, (t.die d).retw = (s.die d).retw := fun d => by simpa using congrArg DieSt.retw (hleaves.dies d)
  have hhome : ∀ b, homeDie t b = homeDie s b := fun b => by simp only [homeDie, stackOf, hlead, hquarter]
  refine ⟨hheld.mem, hheld.poison, hheld.flips, fun a => ?_, fun f => (hcache f).1, fun f => (hcache f).2, fun b secs => ?_, fun b => ?_⟩
  · simp only [Machine.locOf, stackOf, hlead, hquarter]
  · rw [l2Has_eq, l2Has_eq, hhome, hlines]
  · simp only [l2Reserved_eq, hhome, hlines, wayReserved_congr (hretw _)]

/-- So does one that its port has marked. -/
theorem port (s : State) (x id : Nat) (toks : List Token) : Finished s (Machine.finishAccess (markPort s x) x id toks) :=
  (of_asked (Beneath.markAt _ _ _) (Asked.markAt _ _ _)).trans (finishAccess _ _ _ _)

end Finished

/-! ### The tokens of a load (R227, R228, R230) -/

theorem accessTokens_ld (a : Access) (p : Part) {n : Nat} (hn : 0 < n) (sg ev : Bool) (bytes : List Byte) (bad : List Nat) :
    accessTokens (.ld n sg ev) a [donePart p bytes bad] =
      [{ kind := .data, data := extended sg n (leNat bytes), psn := decide (bad ≠ []) }] := by
  have hbytes : [donePart p bytes bad].flatMap (·.bytes) = bytes := List.append_nil bytes
  have hbad : ([donePart p bytes bad].any fun p => decide (p.bad ≠ [])) = decide (bad ≠ []) := Bool.or_false _
  simp only [accessTokens, hbytes, hbad, signExt_eq_extended sg hn]
  rfl

theorem accessTokens_ldb (a : Access) (p : Part) (eos ev : Bool) {bytes : List Byte} (hlen : bytes.length = a.data.toNat % 8192)
    {bad : List Nat} {isBad : Nat → Bool} (hbad : ∀ q : Nat → Bool, bad.any q = (List.range bytes.length).any fun i => isBad i && q i) :
    accessTokens (.ldb eos ev) a [donePart p bytes bad] = beatTokens a bytes isBad eos := by
  have hbytes : [donePart p bytes bad].flatMap (·.bytes) = bytes := List.append_nil bytes
  have hany : ∀ k, ([donePart p bytes bad].any fun p => p.bad.any fun b => decide (b / 8 = k)) =
      (List.range bytes.length).any fun i => isBad i && decide (i / 8 = k) := fun k => (Bool.or_false _).trans (hbad _)
  simp only [accessTokens, hbytes, hany, MemOp.len, ← hlen]
  rfl

theorem badPlaces_any (s : State) (f a n : Nat) (et : Bool) (q : Nat → Bool) :
    (if et then [] else badPlaces s f a n).any q = (List.range n).any fun i => (!et && badAt s f (a + i)) && q i := by
  cases et
  · rw [if_neg Bool.false_ne_true, badPlaces, List.any_filter]
    simp only [Bool.not_false, Bool.true_and]
  · rw [if_pos rfl, List.any_nil]
    exact (List.any_eq_false.mpr fun i _ => Bool.false_ne_true).symm

theorem badPlaces_ne_nil (s : State) (f a n : Nat) (et : Bool) :
    decide ((if et then [] else badPlaces s f a n) ≠ []) = (!et && (List.range n).any fun i => badAt s f (a + i)) := by
  cases et
  · rw [if_neg Bool.false_ne_true, Bool.not_false, Bool.true_and, Bool.eq_iff_iff, decide_eq_true_eq, List.any_eq_true, badPlaces, ne_eq,
      List.filter_eq_nil_iff]
    push Not
    rfl
  · rfl

/-- What a load of one part performs. -/
theorem performHere_load {u : State} {x : Nat} {o : MemOp} {a : Access} {p : Part} {evf : Bool}
    (ho : (∃ n sg, o = .ld n sg evf) ∨ ∃ eos, o = .ldb eos evf) (hdram : isDram p.pa = true) (hbusy : pageBusy u p.pa = false)
    (hoff : p.off = 0) {r : State × List Byte × List Nat} (hr : cacheLoad u (fieldOf x) p.pa p.len p.gran p.et evf .clean = r) :
    performHere u x o a p .clean = .ok (markPort r.1 x) r.2.1 r.2.2 := by
  have hbucket : ∀ f, bucketOfField u f .clean = u := fun _ => rfl
  have hload : loadCached u x p evf .clean = r := by
    unfold loadCached
    dsimp only
    rw [hbucket, ite_self, hr, hoff]
    simp only [Nat.zero_add, List.map_id']
  unfold performHere
  dsimp only
  rw [hbusy, if_neg Bool.false_ne_true]
  rcases ho with ⟨n, sg, rfl⟩ | ⟨eos, rfl⟩ <;> simp only [hdram, if_true, hload]

/-- A load in one line: what it answers, and what it brings in (R206, R230). -/
theorem cacheLoad_spec {s : State} (hs : AsWritten s) {f gran a n q r m : Nat} (h : Grain gran a q r m) (hn : 0 < n)
    (hline : lineBase (a + n - 1) = lineBase a) (hroom : ∀ b, q * pageSize + r ≤ b → b < q * pageSize + r + m → Room s f b)
    (hupd : (s.field f).rcb.any (rcbOverlaps a n) = false) (et evf : Bool) : ∃ v, cacheLoad s f a n gran et evf .clean =
      (v, (List.range n).map fun i => loadedByte s f et (a + i), if et then [] else badPlaces s f a n) ∧ Unwritten s v ∧
      (cacheHolds (s.field f) a n = true → (v.field f).cache = (s.field f).cache) ∧
      (isDram a = true → cacheHolds (s.field f) a n = false → a + n ≤ q * pageSize + r + m → ∀ b, q * pageSize + r ≤ b →
        b < q * pageSize + r + m → cachedByte (v.field f) b = filledByte s f b ∧ l2Holds v b = true) := by
  obtain ⟨k, heq⟩ := cacheLoad_eq s f a n gran et evf
  obtain ⟨hfills, hhit, hmiss⟩ := fetchedFor_spec hs h hn hline hroom hupd evf
  rw [heq]
  generalize fetchedFor s f a n gran evf = w at *
  have hbad : badPlaces w f a n = badPlaces s f a n := List.filter_congr fun i _ => hfills.badAt hs (a + i)
  have hbytes : (List.range n).map (fun i => loadedByte w f et (a + i)) = (List.range n).map fun i => loadedByte s f et (a + i) :=
    List.map_congr_left fun i _ => hfills.loadedByte hs et (a + i)
  refine ⟨_, by rw [hbytes, hbad], ?_⟩
  split
  · obtain ⟨hcount, hkept, hcache, -⟩ := countZeros_spec w f k
    refine ⟨hfills.unwritten.trans hcount, fun hh => hcache.trans (hhit hh), fun ha hm hin b hlo hhi => ?_⟩
    obtain ⟨hb, hheld⟩ := hmiss ha hm hin b hlo hhi
    rw [cachedByte, hcache]
    exact ⟨hb, (hkept.l2Has _ _).trans hheld⟩
  · exact ⟨hfills.unwritten, hhit, hmiss⟩

end Sys2Proof.Machine

end

section

namespace Sys2Proof.Machine

open Claims

/-- What a fetch of a unit leaves in the caches: the home's has the sector of the access, the field's has the unit. -/
def Filled (s t : State) (f : Nat) (p : Part) : Prop :=
  l2Has t (lineBase p.pa) [sectorInLine p.pa] = true ∧
    ∀ b, (granUnit p.gran p.pa).1 ≤ b → b < (granUnit p.gran p.pa).1 + (granUnit p.gran p.pa).2 →
      cachedByte (t.field f) b = filledByte s f b

/-- What does not depend on who asks: a part is performed in the name of its slot. -/
structure Begun (s u : State) : Prop where
  unwritten : Unwritten s u
  field : ∀ f, u.field f = s.field f
  busy : ∀ a, pageBusy u a = pageBusy s a
  meets : ∀ x a n, meetsTentative u x a n = meetsTentative s x a n
  region : ∀ x, inRegion u x = inRegion s x

theorem begun_by (s : State) (k : BitVec 32) : Begun s (s.by k) :=
  ⟨Unwritten.by_ s k, fun _ => rfl, fun _ => rfl, fun _ _ _ => rfl, fun _ => rfl⟩

/-- A part that its port performs is done, and with it the access. -/
theorem exec_begun {s : State} {x : Nat} {a : Access} {o : MemOp} {p : Part} (h : InDram s x a o p) (hsst : o ≠ .sst) (hsld : o ≠ .sld) :
    ∃ u, Begun s u ∧ ∀ t bytes bad, performHere u x o a p .clean = .ok t bytes bad →
      exec (.memoryAccessPerformed x 0 .clean) s = .next (finishAccess t x a.id (accessTokens o a [donePart p bytes bad])) :=
  ⟨_, begun_by s (slotSource x), fun _ _ _ hdone => exec_performed h hsst hsld hdone⟩

section
variable {s u : State} (h : Begun s u) {f b : Nat}
include h

theorem Begun.asWritten (hs : AsWritten s) : AsWritten u := h.unwritten.asWritten hs

theorem Begun.room (hb : Room s f b) : Room u f b := by rwa [Room, h.field]

theorem Begun.badAt (hs : AsWritten s) : badAt u f b = badAt s f b := by
  rw [Machine.badAt, Machine.badAt, h.field, h.unwritten.poisoned hs]

theorem Begun.loadedByte (hs : AsWritten s) (et : Bool) : loadedByte u f et b = loadedByte s f et b := by
  rw [Machine.loadedByte, Machine.loadedByte, h.field, h.badAt hs, h.unwritten.byte, h.unwritten.below.locOf]

theorem Begun.badPlaces (hs : AsWritten s) (n : Nat) : badPlaces u f b n = badPlaces s f b n := List.filter_congr fun _ _ => h.badAt hs

theorem Begun.filledByte (hs : AsWritten s) : filledByte u f b = filledByte s f b := by
  rw [Machine.filledByte, Machine.filledByte, h.field, h.unwritten.poisoned hs, h.unwritten.byte, h.unwritten.below.locOf]

end

section
variable {s : State} {x : Nat} {a : Access} {p : Part} {o : MemOp} (h : InDram s x a o p)
include h

/-- A load of one part at DRAM (R206, R227, R228, R230). -/
theorem exec_load {evf : Bool} (ho : (∃ n sg, o = .ld n sg evf) ∨ ∃ eos, o = .ldb eos evf)
    (hroom : ∀ b, (granUnit p.gran p.pa).1 ≤ b → b < (granUnit p.gran p.pa).1 + (granUnit p.gran p.pa).2 → Room s (fieldOf x) b) :
    ∃ t, exec (.memoryAccessPerformed x 0 .clean) s = .next t ∧ t.mem = s.mem ∧ t.poison = s.poison ∧
      Performed s t x a.id (accessTokens o a [donePart p ((List.range p.len).map fun i => loadedByte s (fieldOf x) p.et (p.pa + i))
        (if p.et then [] else badPlaces s (fieldOf x) p.pa p.len)]) ∧
      (cacheHolds (s.field (fieldOf x)) p.pa p.len = true → (t.field (fieldOf x)).cache = (s.field (fieldOf x)).cache) ∧
      (cacheHolds (s.field (fieldOf x)) p.pa p.len = false → p.pa + p.len ≤ (granUnit p.gran p.pa).1 + (granUnit p.gran p.pa).2 →
        Filled s t (fieldOf x) p) := by
  obtain ⟨hoff, -, hpos, -, hgran⟩ := h.whole
  obtain ⟨hdram, hbusy, hline⟩ := h.place
  obtain ⟨q, r, m, hgrain⟩ := exists_grain hgran p.pa
  have hsst : o ≠ .sst := by rcases ho with ⟨n, sg, rfl⟩ | ⟨eos, rfl⟩ <;> exact MemOp.noConfusion
  have hsld : o ≠ .sld := by rcases ho with ⟨n, sg, rfl⟩ | ⟨eos, rfl⟩ <;> exact MemOp.noConfusion
  obtain ⟨u, hu, hexec⟩ := exec_begun h hsst hsld
  rw [hgrain.unit] at hroom ⊢
  obtain ⟨v, hload, hunwritten, hhit, hmiss⟩ := cacheLoad_spec (hu.asWritten h.sound) hgrain hpos hline
    (fun b hlo hhi => hu.room (hroom b hlo hhi)) (by rw [hu.field]; exact h.noUpdate) p.et evf
  rw [hu.badPlaces h.sound, List.map_congr_left fun i _ => hu.loadedByte h.sound p.et] at hload
  have hdone := performHere_load (a := a) ho hdram ((hu.busy p.pa).trans hbusy) hoff hload
  have hkept := hu.unwritten.trans hunwritten
  have hall := hkept.trans (Unwritten.markAt v (.cache (fieldOf x)) (1 + 8 * jOfTile (tileOf x) + portOfSlot x))
  have hfin := Finished.port v x
  rw [hu.field] at hhit hmiss
  refine ⟨_, hexec (markPort v x) _ _ hdone, (hfin _ _).mem.trans hkept.mem, (hfin _ _).poison.trans hkept.poison,
    hall.performed _ _ _, fun hh => ((hfin _ _).cache _).trans (hhit hh), fun hm hin => ?_⟩
  have hunit := hmiss hdram hm hin
  refine ⟨((hfin _ _).l2Has _ _).trans (hunit p.pa hgrain.around.1 hgrain.around.2).2, ?_⟩
  rw [hgrain.unit]
  intro b hlo hhi
  rw [(hfin _ _).cachedByte, ← hu.filledByte h.sound]
  exact (hunit b hlo hhi).1

end

end Sys2Proof.Machine

end

section

namespace Sys2Proof.Machine

open Claims

section
variable {s : State} {x : Nat} {a : Access} {p : Part} (bytes : List Byte)

/-- The tokens of a load of one value. -/
theorem loadTokens_ld {n : Nat} {sg ev : Bool} (h : InDram s x a (.ld n sg ev) p) (f : Nat) :
    accessTokens (.ld n sg ev) a [donePart p bytes (if p.et then [] else badPlaces s f p.pa p.len)] =
      [{ kind := .data, data := extended sg n (leNat bytes), psn := !p.et && (List.range n).any fun i => badAt s f (p.pa + i) }] := by
  obtain ⟨-, hlen, hpos, -, -⟩ := h.whole
  replace hlen : p.len = n := hlen
  rw [hlen] at hpos ⊢
  rw [accessTokens_ld a p hpos, badPlaces_ne_nil]

/-- The tokens of a block load. -/
theorem loadTokens_ldb {eos ev : Bool} (h : InDram s x a (.ldb eos ev) p) (f : Nat) (hbytes : bytes.length = p.len) :
    accessTokens (.ldb eos ev) a [donePart p bytes (if p.et then [] else badPlaces s f p.pa p.len)] =
      beatTokens a bytes (fun i => !p.et && badAt s f (p.pa + i)) eos := by
  obtain ⟨-, hlen, -, -, -⟩ := h.whole
  refine accessTokens_ldb a p eos ev (hbytes.trans hlen) fun q => ?_
  rw [hbytes]
  exact badPlaces_any _ _ _ _ _ _

end

end Sys2Proof.Machine

end

section

namespace Sys2Proof.Machine

open Claims

/-! ### Stores into the field's cache (R207, R233) -/

theorem cachePut_spec {s : State} {f a : Nat} (v : Byte) (h : SMap.find (s.field f).cache (lineNo a) ≠ none) :
    Unwritten s (cachePut s f a v false) ∧ SMap.find ((cachePut s f a v false).field f).cache (lineNo a) ≠ none ∧
      ∀ b, cachedByte ((cachePut s f a v false).field f) b = if b = a then some { v := v, drt := true } else cachedByte (s.field f) b := by
  obtain ⟨l, hl⟩ := Option.ne_none_iff_exists'.mp h
  obtain ⟨l', hbytes, heq⟩ : ∃ l' : CLine, l'.bytes = SMap.insert l.bytes (a - lineBase a) { v := v, drt := true } ∧
      cachePut s f a v false = s.setField f { s.field f with cache := SMap.insert (s.field f).cache (lineNo a) l' } := by
    simp only [cachePut, hl]
    exact ⟨_, rfl, rfl⟩
  rw [heq, State.setField_same]
  refine ⟨Unwritten.setField _ _ _, ?_, fun b => ?_⟩
  · rw [SMap.find_insert_same]
    exact Option.some_ne_none l'
  · rw [cachedByte_of_insert rfl, hbytes]
    by_cases hb : b = a
    · rw [if_pos hb, hb, if_pos rfl, SMap.find_insert_same]
    · rw [if_neg hb]
      split
      · rename_i hline
        rw [SMap.find_insert_other _ _ fun ho => hb (eq_of_line hline ho), cachedByte_eq, hline, hl, Option.bind_some]
      · rfl

/-- The bytes of a store written to a line that is there, one after another. -/
theorem cachePuts_spec {f a n : Nat} (hline : ∀ i, i < n → lineNo (a + i) = lineNo a) : ∀ (bs : List Byte) (k : Nat) {s : State},
    k + bs.length ≤ n → SMap.find (s.field f).cache (lineNo a) ≠ none →
    Unwritten s (foldState (fun s e => cachePut s f (a + e.2) e.1 false) s (bs.zipIdx k)) ∧
      ∀ b, cachedByte ((foldState (fun s e => cachePut s f (a + e.2) e.1 false) s (bs.zipIdx k)).field f) b =
        if a + k ≤ b ∧ b < a + k + bs.length then some { v := (bs[b - (a + k)]?).getD 0, drt := true } else cachedByte (s.field f) b
  | [], k, s, _, _ => ⟨Unwritten.refl s, fun b => (if_neg (by rw [List.length_nil]; omega)).symm⟩
  | v :: bs, k, s, hn, h => by
    rw [List.length_cons] at hn
    have hk := hline k (by omega)
    obtain ⟨hput, hfind, hbyte⟩ := cachePut_spec (f := f) v (hk ▸ h)
    obtain ⟨hrest, hbytes⟩ := cachePuts_spec hline bs (k + 1) (by omega) (hk ▸ hfind)
    rw [List.zipIdx_cons, foldState]
    refine ⟨hput.trans hrest, fun b => ?_⟩
    rw [hbytes, hbyte, List.length_cons]
    by_cases hfirst : b = a + k
    · rw [if_neg (by omega), if_pos hfirst, if_pos (by omega), hfirst, Nat.sub_self]
      rfl
    · rw [if_neg hfirst]
      by_cases hin : a + (k + 1) ≤ b ∧ b < a + (k + 1) + bs.length
      · rw [if_pos hin, if_pos (by omega), show b - (a + k) = b - (a + (k + 1)) + 1 by omega, List.getElem?_cons_succ]
      · rw [if_neg hin, if_neg (by omega)]

/-- A store in one line with room leaves its bytes in the cache, dirty, and changes no other. -/
theorem cacheStore_clean {s : State} {f a : Nat} {bs : List Byte} (hupd : (s.field f).rcb.any (rcbOverlaps a bs.length) = false)
    (hpos : 0 < bs.length) (hline : lineBase (a + bs.length - 1) = lineBase a) (hroom : Room s f a) :
    Unwritten s (cacheStore s f a bs false false) ∧ ∀ b, cachedByte ((cacheStore s f a bs false false).field f) b =
      if a ≤ b ∧ b < a + bs.length then some { v := (bs[b - a]?).getD 0, drt := true } else cachedByte (s.field f) b := by
  have hsame : ((s.setField f (s.field f)).field f) = s.field f := State.setField_same _ _ _
  have heq : cacheStore s f a bs false false = foldState (fun s e => cachePut s f (a + e.2) e.1 false)
      (ensureLine (s.setField f (s.field f)) f a) bs.zipIdx := by
    simp only [cacheStore, performRcbs_none hupd, Bool.false_eq_true, if_false, Bool.false_and]
  have hfirst : Fills s (s.setField f (s.field f)) f (burstOf a) := Fills.of_unwritten (Unwritten.setField _ _ _) hsame
  obtain ⟨l, hl, hbytes, hfills, -⟩ := ensureLine_spec (hfirst.room a rfl hroom)
  obtain ⟨hputs, hcached⟩ := cachePuts_spec (f := f) (n := bs.length)
    (fun i hi => lineNo_of_range hpos hline (Nat.le_add_right a i) (Nat.add_lt_add_left hi a)) bs 0 (by omega)
    (by rw [hl]; exact Option.some_ne_none l)
  rw [heq]
  refine ⟨(hfirst.unwritten.trans hfills.unwritten).trans hputs, fun b => (hcached b).trans ?_⟩
  rw [hbytes, hsame]
  rfl

end Sys2Proof.Machine

end

section

namespace Sys2Proof.Machine

open Claims

/-! ### Poisoned data goes home (R214, R234) -/

/-- A map without an entry at a key has nothing there. -/
theorem SMap.find_eq_none {α : Type} {k : Nat} : ∀ {m : SMap α}, (∀ e ∈ m, e.1 ≠ k) → SMap.find m k = none
  | [], _ => rfl
  | e :: m, h => by
    rw [SMap.find, if_neg (h e List.mem_cons_self).symm]
    exact find_eq_none fun d hd => h d (List.mem_cons_of_mem e hd)

/-- The bytes of a line but for a range. -/
def without (a n : Nat) (l : CLine) : CLine :=
  { l with bytes := l.bytes.filter fun b => !(decide (a ≤ lineBase a + b.1) && decide (lineBase a + b.1 < a + n)) }

/-- A cache that gave up a range of a line has none of its bytes. -/
theorem cachedByte_without {fs gs : FieldSt} {a n b : Nat} {l : CLine} (h : gs.cache = SMap.insert fs.cache (lineNo a) (without a n l))
    (hline : lineNo b = lineNo a) (hlo : a ≤ b) (hhi : b < a + n) : cachedByte gs b = none := by
  rw [cachedByte_of_insert h, if_pos hline]
  refine SMap.find_eq_none fun e he hoff => ?_
  obtain ⟨-, hout⟩ := List.mem_filter.mp he
  have hbase := lineBase_of_lineNo hline
  have hle := (lineBase_add b).1
  rw [hoff, ← hbase, Nat.add_sub_cancel' hle] at hout
  simp [hlo, hhi] at hout

theorem stored_of_mem {s t : State} {a : Nat} {bs : List Byte} (h : t.mem = Memory.write s.mem a bs) :
    Claims.Stored s t a bs.length (leNat bs) := by
  refine ⟨?_, fun b hb => ?_⟩
  · rw [wordAt, State.bytes, h, Memory.read_write, Nat.mod_eq_of_lt (leNat_lt bs)]
  · rw [State.byte, h, Memory.get_write, if_neg (by omega), State.byte]

/-- Poisoned data poisons every byte that it is written to. -/
theorem homeWrite_dram_poisoned {s : State} (hs : AsWritten s) {a i : Nat} {bs : List Byte} (hi : i < bs.length)
    (hpage : a % pageSize + i < pageSize) (hd : isDram a = true) : (homeWrite s a bs true).poisoned (a + i) 1 = true := by
  have hflips := (homeWrite_dram hs hd bs true).2.1.trans hs.1
  refine poisoned_of_mem hflips (isDram_add hd hpage) ?_
  rw [(Below.homeWrite s a bs true).locOf]
  have hkick : ∀ (t : State) n, (noteKick t a n).poison = t.poison := fun t n =>
    foldState_ind (fun u => u.poison = t.poison) _ (fun u q hu => by dsimp only; split <;> exact hu) _ t rfl
  unfold homeWrite
  simp only [hd, if_true]
  rw [hkick]
  refine mem_poison_markAll _ _ (.inr (List.mem_map.mpr ⟨_, sectorBase_mem_sectorsOf hi hpage, ?_⟩))
  exact ((Below.homeReady s a bs.length).trans (Beneath.setBytes _ _ _).toBelow).locOf _

/-- A store of poisoned data in one line of DRAM: its bytes reach the home, which marks their sectors, and leave the cache. -/
theorem cacheStore_poisoned {s : State} (hs : AsWritten s) {f a : Nat} {bs : List Byte}
    (hupd : (s.field f).rcb.any (rcbOverlaps a bs.length) = false) (hpos : 0 < bs.length) (hd : isDram a = true)
    (hline : lineBase (a + bs.length - 1) = lineBase a) (tentative : Bool) : ∃ t, cacheStore s f a bs true tentative = t ∧
      Stands s t ∧ Below s t ∧ t.flips = [] ∧ t.mem = Memory.write s.mem (locOf s a) bs ∧
      ∀ i, i < bs.length → cachedByte (t.field f) (a + i) = none ∧ t.poisoned (a + i) 1 = true := by
  have hrange : ∀ i, i < bs.length → lineNo (a + i) = lineNo a ∧ a % pageSize + i < pageSize := fun i hi => by
    obtain ⟨q, r, hends, rfl, -⟩ := exists_range hpos hline
    rw [mod_offset (by omega)]
    exact ⟨lineNo_of_range hpos hline (Nat.le_add_right _ i) (Nat.add_lt_add_left hi _), by omega⟩
  have hu : Unwritten s (asCache (performRcbs s f (rcbOverlaps a bs.length)) f fun u =>
      l2Touch u a ((sectorsOf a bs.length).map sectorInLine) true false) := by
    have hfirst : Unwritten s (s.setField f (s.field f)) := Unwritten.setField _ _ _
    rw [performRcbs_none hupd]
    exact hfirst.trans (Unwritten.asCache (hfirst.asWritten hs) (fun v => Stands.l2Touch v _ _ _ _) (fun v => Below.l2Touch v _ _ _ _)
      fun _ hv => Asked.l2Touch hv _ _ _ _)
  unfold cacheStore
  dsimp only
  rw [if_pos rfl]
  generalize asCache (performRcbs s f (rcbOverlaps a bs.length)) f _ = u at hu ⊢
  have hasu := hu.asWritten hs
  obtain ⟨hmem, hflips, -⟩ := homeWrite_dram hasu hd bs true
  have hpoison := fun i hi => homeWrite_dram_poisoned hasu (bs := bs) hi (hrange i hi).2 hd
  have hstands := hu.stands.trans (Stands.homeWrite u a bs true)
  have hbelow := hu.below.trans (Below.homeWrite u a bs true)
  rw [hu.mem, hu.below.locOf] at hmem
  replace hflips := hflips.trans hasu.1
  generalize homeWrite u a bs true = v at *
  split
  · rename_i hnone
    refine ⟨v, rfl, hstands, hbelow, hflips, hmem, fun i hi => ⟨?_, hpoison i hi⟩⟩
    rw [cachedByte_eq, (hrange i hi).1, hnone]
    rfl
  · rename_i l hl
    have hset := Unwritten.setField v f { v.field f with cache := SMap.insert (v.field f).cache (lineNo a) (without a bs.length l) }
    refine ⟨_, rfl, hstands.trans hset.stands, hbelow.trans hset.below, hset.flips.trans hflips, hset.mem.trans hmem, fun i hi => ⟨?_, ?_⟩⟩
    · rw [State.setField_same]
      exact cachedByte_without rfl (hrange i hi).1 (Nat.le_add_right a i) (Nat.add_lt_add_left hi a)
    · exact (hpoison i hi)

end Sys2Proof.Machine

end

section

namespace Sys2Proof.Machine

open Claims

section
variable {s : State} {x : Nat} {a : Access} {p : Part} {o : MemOp} (h : InDram s x a o p) (ho : (∃ n, o = .st n) ∨ o = .stb)
include h ho

theorem storeBytes_length : (storeBytes o a).length = p.len := by
  obtain ⟨-, hlen, -, -, -⟩ := h.whole
  rw [hlen]
  rcases ho with ⟨n, rfl⟩ | rfl
  · exact leBytes_length n _
  · rfl

/-- What a store of one part performs. -/
theorem exec_storePart (hregion : inRegion s x = false) (hmeets : meetsTentative s x p.pa p.len = false) : ∃ u, Begun s u ∧
    exec (.memoryAccessPerformed x 0 .clean) s =
      .next (finishAccess (markPort (cacheStore u (fieldOf x) p.pa (storeBytes o a) a.psn false) x) x a.id [ord]) := by
  obtain ⟨hoff, -, -, -, -⟩ := h.whole
  obtain ⟨hdram, hbusy, -⟩ := h.place
  have hsst : o ≠ .sst := by rcases ho with ⟨n, rfl⟩ | rfl <;> exact MemOp.noConfusion
  have hsld : o ≠ .sld := by rcases ho with ⟨n, rfl⟩ | rfl <;> exact MemOp.noConfusion
  obtain ⟨u, hu, hexec⟩ := exec_begun h hsst hsld
  have hbytes : ((storeBytes o a).drop p.off).take p.len = storeBytes o a := by
    rw [hoff, List.drop_zero, List.take_of_length_le (Nat.le_of_eq (storeBytes_length h ho))]
  have hdone : performHere u x o a p .clean = .ok (markPort (cacheStore u (fieldOf x) p.pa (storeBytes o a) a.psn false) x) [] [] := by
    unfold performHere
    dsimp only
    rw [(hu.busy p.pa).trans hbusy, if_neg Bool.false_ne_true]
    rcases ho with ⟨n, rfl⟩ | rfl <;>
      simp only [hdram, if_true, hu.meets, hmeets, Bool.false_eq_true, if_false, hbytes, hu.region, hregion, reduceCtorEq]
  refine ⟨u, hu, ?_⟩
  rw [hexec _ _ _ hdone]
  rcases ho with ⟨n, rfl⟩ | rfl <;> rfl

/-- A store of one part at DRAM writes the field's cache alone (R207, R233). -/
theorem exec_store_clean (hregion : inRegion s x = false) (hmeets : meetsTentative s x p.pa p.len = false) (hpsn : a.psn = false)
    (hroom : Room s (fieldOf x) p.pa) : ∃ t, exec (.memoryAccessPerformed x 0 .clean) s = .next t ∧ t.mem = s.mem ∧
      (∀ b, cachedByte (t.field (fieldOf x)) b = if p.pa ≤ b ∧ b < p.pa + p.len
        then some { v := ((storeBytes o a)[b - p.pa]?).getD 0, drt := true } else cachedByte (s.field (fieldOf x)) b) ∧
      Performed s t x a.id [ord] := by
  obtain ⟨u, hu, hexec⟩ := exec_storePart h ho hregion hmeets
  have hlen := storeBytes_length h ho
  obtain ⟨-, -, hpos, -, -⟩ := h.whole
  obtain ⟨-, -, hline⟩ := h.place
  rw [← hlen] at hpos hline
  obtain ⟨hstore, hcached⟩ := cacheStore_clean (s := u) (f := fieldOf x) (by rw [hu.field, hlen]; exact h.noUpdate) hpos hline
    (hu.room hroom)
  rw [hpsn] at hexec
  generalize cacheStore u (fieldOf x) p.pa (storeBytes o a) false false = v at *
  have hall := hu.unwritten.trans hstore
  have hfin := Finished.port v x a.id [ord]
  refine ⟨_, hexec, hfin.mem.trans hall.mem, fun b => ?_, (hall.trans (Unwritten.markAt _ _ _)).performed _ _ _⟩
  rw [hfin.cachedByte, hcached, hu.field, hlen]

/-- A store of poisoned data goes home (R214, R234). -/
theorem exec_store_poisoned (hregion : inRegion s x = false) (hmeets : meetsTentative s x p.pa p.len = false) (hpsn : a.psn = true) :
    ∃ t, exec (.memoryAccessPerformed x 0 .clean) s = .next t ∧ Claims.Stored s t (locOf s p.pa) p.len (leNat (storeBytes o a)) ∧
      (∀ i, i < p.len → cachedByte (t.field (fieldOf x)) (p.pa + i) = none ∧ t.poisoned (p.pa + i) 1 = true) ∧
      Performed s t x a.id [ord] := by
  obtain ⟨u, hu, hexec⟩ := exec_storePart h ho hregion hmeets
  have hlen := storeBytes_length h ho
  obtain ⟨-, -, hpos, -, -⟩ := h.whole
  obtain ⟨hdram, -, hline⟩ := h.place
  rw [← hlen] at hpos hline
  obtain ⟨v, hv, hstands, hbelow, hflips, hmem, hbytes⟩ := cacheStore_poisoned (hu.asWritten h.sound) (f := fieldOf x)
    (by rw [hu.field, hlen]; exact h.noUpdate) hpos hdram hline false
  rw [hpsn, hv] at hexec
  rw [hu.unwritten.mem, hu.unwritten.below.locOf] at hmem
  have hfin := Finished.port v x a.id [ord]
  refine ⟨_, hexec, ?_, fun i hi => ?_, ?_⟩
  · rw [← hlen]
    exact stored_of_mem (hfin.mem.trans hmem)
  · rw [hfin.cachedByte, hfin.poisoned hflips]
    exact hbytes i (hlen.symm ▸ hi)
  · exact performed_of_stands ((hu.unwritten.stands.trans hstands).trans (Stands.markAt _ _ _))
      ((hu.unwritten.below.trans hbelow).trans (Beneath.markAt _ _ _).toBelow) _ _ _

end

end Sys2Proof.Machine

end

section

namespace Sys2Proof.Machine

open Claims

/-! ### A word that an atomic or a reduction claims (R235 to R237) -/

/-- The bytes of field f's cache and its combining buffer are as they were, and what is stored. -/
structure SameBytes (s t : State) (f : Nat) : Prop where
  unwritten : Unwritten s t
  bytes : ∀ b, cachedByte (t.field f) b = cachedByte (s.field f) b
  rcb : (t.field f).rcb = (s.field f).rcb

namespace SameBytes

variable {s t u : State} {f : Nat}

@[trans] theorem trans (h : SameBytes s t f) (k : SameBytes t u f) : SameBytes s u f :=
  ⟨h.unwritten.trans k.unwritten, fun b => (k.bytes b).trans (h.bytes b), k.rcb.trans h.rcb⟩

theorem of_field (h : Unwritten s t) (hf : t.field f = s.field f) : SameBytes s t f := ⟨h, fun b => by rw [hf], by rw [hf]⟩

theorem refl (s : State) (f : Nat) : SameBytes s s f := of_field (Unwritten.refl s) rfl

theorem of_begun (h : Begun s t) : SameBytes s t f := of_field h.unwritten (h.field f)

theorem markPort (s : State) (x f : Nat) : SameBytes s (markPort s x) f :=
  of_field (Unwritten.markAt _ _ _) ((Asked.markAt _ _ _).field f)

/-- A second-level access changes neither. -/
theorem l2Touch (hs : AsWritten s) (f a : Nat) (secs : List Nat) (wr evf : Bool) : SameBytes s (l2Touch s a secs wr evf) f :=
  have hasked := Asked.l2Touch hs a secs wr evf
  of_field (Unwritten.of_asked (Stands.l2Touch _ _ _ _ _) (Below.l2Touch _ _ _ _ _) hasked) (hasked.field f)

theorem performRcbs {sel : RcbEntry → Bool} (h : (s.field f).rcb.any sel = false) : SameBytes s (performRcbs s f sel) f := by
  rw [performRcbs_none h]
  exact of_field (Unwritten.setField _ _ _) (State.setField_same _ _ _)

theorem cachedByte_commitTentative (fs : FieldSt) (b : Nat) : cachedByte (commitTentative fs) b = cachedByte fs b := by
  have hfind := SMap.find_map (fun l : CLine => { l with tnt := [] }) fs.cache (lineNo b)
  rw [cachedByte_eq, commitTentative, hfind, cachedByte_eq]
  cases SMap.find fs.cache (lineNo b) <;> rfl

/-- A section that commits early keeps its bytes. -/
theorem commitIfOwner (s : State) (x : Nat) : SameBytes s (commitIfOwner s x) (fieldOf x) := by
  unfold Machine.commitIfOwner earlyCommit
  split
  · dsimp only
    split
    · exact of_field (Unwritten.late _ _) rfl
    · refine ⟨Unwritten.setField _ _ _, fun b => ?_, ?_⟩
      · rw [State.setField_same]
        exact cachedByte_commitTentative _ _
      · rw [State.setField_same]
        rfl
  · exact refl s _

end SameBytes

/-- No byte of a range is dirty in field f's cache. -/
def NoneDirty (s : State) (f a n : Nat) : Prop := ∀ i c, i < n → cachedByte (s.field f) (a + i) = some c → c.drt = false

theorem SameBytes.noneDirty {s t : State} {f a n : Nat} (h : SameBytes s t f) (hclean : NoneDirty s f a n) : NoneDirty t f a n :=
  fun i c hi hc => hclean i c hi ((h.bytes (a + i)).symm.trans hc)

/-- A word claimed clean leaves the cache. -/
theorem claimWord_spec {s : State} {f a n : Nat} (hpos : 0 < n) (hline : lineBase (a + n - 1) = lineBase a) (hclean : NoneDirty s f a n) :
    Unwritten s (claimWord s f a n) ∧ ((claimWord s f a n).field f).rcb = (s.field f).rcb ∧
      ∀ i, i < n → cachedByte ((claimWord s f a n).field f) (a + i) = none := by
  unfold claimWord
  extract_lets dirty u fs
  have hdirty : dirty = false := List.any_eq_false.mpr fun i hi => by
    split
    · rename_i c hc
      rw [hclean i c (List.mem_range.mp hi) hc]
      exact Bool.false_ne_true
    · exact Bool.false_ne_true
  have hu : u = s := if_neg (by rw [hdirty]; exact Bool.false_ne_true)
  have hfs : fs = s.field f := congrArg (State.field · f) hu
  clear_value u fs
  subst hu hfs
  have hrange : ∀ i, i < n → lineNo (a + i) = lineNo a := fun i hi =>
    lineNo_of_range hpos hline (Nat.le_add_right a i) (Nat.add_lt_add_left hi a)
  split
  · rename_i hnone
    refine ⟨Unwritten.refl u, rfl, fun i hi => ?_⟩
    rw [cachedByte_eq, hrange i hi, hnone]
    rfl
  · rename_i l hl
    refine ⟨Unwritten.setField _ _ _, by rw [State.setField_same], fun i hi => ?_⟩
    rw [State.setField_same]
    exact cachedByte_without (l := l) rfl (hrange i hi) (Nat.le_add_right a i) (Nat.add_lt_add_left hi a)

/-- So does it where the updates that overlap it have been performed. -/
theorem claimed_spec {s : State} {f a n : Nat} (hpos : 0 < n) (hline : lineBase (a + n - 1) = lineBase a) (hclean : NoneDirty s f a n)
    {sel : RcbEntry → Bool} (hsel : (s.field f).rcb.any sel = false) : Unwritten s (performRcbs (claimWord s f a n) f sel) ∧
      ((performRcbs (claimWord s f a n) f sel).field f).rcb = (s.field f).rcb ∧
      ∀ i, i < n → cachedByte ((performRcbs (claimWord s f a n) f sel).field f) (a + i) = none := by
  obtain ⟨hclaim, hrcb, hnone⟩ := claimWord_spec hpos hline hclean
  have hdone := SameBytes.performRcbs (s := claimWord s f a n) (f := f) (sel := sel) (by rw [hrcb]; exact hsel)
  exact ⟨hclaim.trans hdone.unwritten, hdone.rcb.trans hrcb, fun i hi => (hdone.bytes _).trans (hnone i hi)⟩

end Sys2Proof.Machine

end

section

namespace Sys2Proof.Machine

open Claims

section
variable {s : State} {x n : Nat} {p : Part} (hpos : 0 < n)
  (hline : lineBase (p.pa + n - 1) = lineBase p.pa) (hclean : NoneDirty s (fieldOf x) p.pa n)
  (hupd : (s.field (fieldOf x)).rcb.any (rcbOverlaps p.pa n) = false)
include hpos hline hclean hupd

/-- A reduction on a clean word of DRAM waits in the combining buffer (R235, R237). -/
theorem acceptRed_spec (hn : n = 4 ∨ n = 8) (op : RedOp) (v : DWord) (psn : Bool)
    (hroom : (s.field (fieldOf x)).rcb.length < 64) : ∃ u, acceptRed (commitIfOwner s x) (fieldOf x) p.pa op (decide (n = 8)) v psn = u ∧
      Unwritten s u ∧ (∀ i, i < n → cachedByte (u.field (fieldOf x)) (p.pa + i) = none) ∧
      (u.field (fieldOf x)).rcb = (s.field (fieldOf x)).rcb ++
        [{ pa := p.pa, op := op, dword := decide (n = 8), value := BitVec.ofNat 64 (v.toNat % 2 ^ (8 * n)), psn := psn }] := by
  have hcommit := SameBytes.commitIfOwner s x
  have hsize : (if decide (n = 8) = true then 8 else 4) = n := by rcases hn with rfl | rfl <;> rfl
  have hnone : ∀ (q : RcbEntry → Bool), ((commitIfOwner s x).field (fieldOf x)).rcb.any (fun e => rcbOverlaps p.pa n e && q e) = false :=
    fun q => List.any_eq_false.mpr fun e he => by
      rw [hcommit.rcb] at he
      rw [Bool.eq_false_iff.mpr (List.any_eq_false.mp hupd e he), Bool.false_and]
      exact Bool.false_ne_true
  unfold acceptRed
  dsimp only
  rw [hsize]
  obtain ⟨hclaim, hrcb, hgone⟩ := claimed_spec hpos hline (hcommit.noneDirty hclean)
    (hnone fun e => !(e.pa == p.pa && decide (e.op = op) && e.dword == decide (n = 8)))
  rw [hcommit.rcb] at hrcb
  generalize performRcbs (claimWord (commitIfOwner s x) (fieldOf x) p.pa n) (fieldOf x) _ = u at hclaim hrcb hgone ⊢
  have hother : ((u.field (fieldOf x)).rcb.any fun e => e.pa == p.pa) = false := by
    refine List.any_eq_false.mpr fun e he heq => List.any_eq_false.mp hupd e (hrcb ▸ he) ?_
    rw [rcbOverlaps, beq_iff_eq.mp heq, Bool.and_eq_true, decide_eq_true_eq, decide_eq_true_eq]
    split <;> omega
  have hset : ∀ (v : FieldSt), v.cache = (u.field (fieldOf x)).cache → Unwritten s (u.setField (fieldOf x) v) ∧
      (∀ i, i < n → cachedByte ((u.setField (fieldOf x) v).field (fieldOf x)) (p.pa + i) = none) ∧
      ((u.setField (fieldOf x) v).field (fieldOf x)).rcb = v.rcb := fun v hv =>
    ⟨(hcommit.unwritten.trans hclaim).trans (Unwritten.setField _ _ _),
      fun i hi => by rw [State.setField_same, cachedByte, hv]; exact hgone i hi, by rw [State.setField_same]⟩
  rw [hother, if_neg Bool.false_ne_true]
  split
  · rename_i e rest hrest
    rw [if_pos (by rw [hrcb]; exact hroom), hrcb]
    exact ⟨_, rfl, hset _ rfl⟩
  · rename_i hempty
    rw [← hrcb, hempty]
    exact ⟨_, rfl, hset _ rfl⟩

variable (hs : AsWritten s) (hd : isDram p.pa = true)
include hs hd

/-- An atomic on a clean word of DRAM: the cache gives the word up, the home has its update (R236). -/
theorem performAmo_spec (hgood : s.poisoned p.pa n = false) (o : AmoOp) (a : Access) : ∃ u, Unwritten s u ∧
    (∀ i, i < n → cachedByte (u.field (fieldOf x)) (p.pa + i) = none) ∧
    performAmo s x o n a p .clean = .ok (updated u p.pa n (amoNew o (8 * n) (wordAt s (locOf s p.pa) n)
      (a.data.toNat % 2 ^ (8 * n)) a.p.toNat)) (u.home p.pa n) [] := by
  have hcommit := SameBytes.commitIfOwner s x
  obtain ⟨hclaim, -, hnone⟩ := claimed_spec hpos hline (hcommit.noneDirty hclean) (by rw [hcommit.rcb]; exact hupd)
  have hamo : amoClaim (commitIfOwner s x) (fieldOf x) p.pa n =
      performRcbs (claimWord (commitIfOwner s x) (fieldOf x) p.pa n) (fieldOf x) (rcbOverlaps p.pa n) := if_pos hd
  rw [← hamo] at hclaim hnone
  have hu := hcommit.unwritten.trans hclaim
  have htouch := SameBytes.l2Touch (hu.asWritten hs) (fieldOf x) p.pa [sectorInLine p.pa] true false
  have hread : amoRead (amoClaim (commitIfOwner s x) (fieldOf x) p.pa n) p n true .clean =
      (l2Touch (amoClaim (commitIfOwner s x) (fieldOf x) p.pa n) p.pa [sectorInLine p.pa] true false, false) := by
    refine (if_pos hd).trans (Prod.ext rfl ?_)
    exact (htouch.unwritten.poisoned (hu.asWritten hs) _ _).trans ((hu.poisoned hs _ _).trans hgood)
  have hheld : wordHeld (s.field (fieldOf x)) p.pa n = false := by
    rw [wordHeld, hupd, Bool.false_or]
    refine List.any_eq_false.mpr fun i hi => ?_
    rcases hc : cachedByte (s.field (fieldOf x)) (p.pa + i) with _ | c
    · exact Bool.false_ne_true
    · rw [Option.map_some, hclean i c (List.mem_range.mp hi) hc]
      exact Bool.false_ne_true
  have hword : leNat ((l2Touch (amoClaim (commitIfOwner s x) (fieldOf x) p.pa n) p.pa [sectorInLine p.pa] true false).home p.pa n) =
      wordAt s (locOf s p.pa) n := by
    rw [State.home, (hu.trans htouch.unwritten).below.locOf, State.bytes, (hu.trans htouch.unwritten).mem]
    rfl
  refine ⟨_, hu.trans htouch.unwritten, fun i hi => (htouch.bytes _).trans (hnone i hi), ?_⟩
  unfold performAmo
  dsimp only
  rw [hread]
  dsimp only
  rw [hd, hheld, Bool.and_false, if_neg Bool.false_ne_true, hword]
  cases amoNew o (8 * n) (wordAt s (locOf s p.pa) n) (a.data.toNat % 2 ^ (8 * n)) a.p.toNat <;> rfl

end

end Sys2Proof.Machine

end

section

namespace Sys2Proof.Machine

open Claims

/-- An atomic update of numbers, modulo the word's size, is the one on words; of the third operand CAS compares as many bits. -/
theorem amoNew_ofNat (o : AmoOp) {w old : Nat} (hw : 0 < w) (hold : old < 2 ^ w) (v c : Nat) :
    (amoNew o w old (v % 2 ^ w) c).map (· % 2 ^ w) =
      (atomicValue w o (BitVec.ofNat w old) (BitVec.ofNat w v) (BitVec.ofNat w c)).map BitVec.toNat := by
  have hmod : amoNew o w old (v % 2 ^ w) (c % 2 ^ w) = amoNew o w old (v % 2 ^ w) c := by
    cases o <;> simp only [amoNew, Nat.mod_mod]
  have h := amoNew_eq hw o (BitVec.ofNat w old) (BitVec.ofNat w v) (BitVec.ofNat w c)
  rwa [BitVec.toNat_ofNat, BitVec.toNat_ofNat, BitVec.toNat_ofNat, Nat.mod_eq_of_lt hold, hmod] at h

/-- A word of DRAM left, or written with its update. -/
theorem updated_spec {s : State} (hs : AsWritten s) {a n : Nat} (hd : isDram a = true) {x : BitVec (8 * n)} {w : Option Nat}
    {y : Option (BitVec (8 * n))} (hx : x.toNat = wordAt s (locOf s a) n) (hw : w.map (· % 2 ^ (8 * n)) = y.map BitVec.toNat) :
    ∃ t, updated s a n w = t ∧ Claims.Stored s t (locOf s a) n (y.getD x).toNat ∧ Stands s t ∧ Below s t ∧
      ∀ f, t.field f = s.field f := by
  rcases w with _ | w <;> rcases y with _ | y <;> simp only [Option.map_none, Option.map_some, reduceCtorEq, Option.some.injEq] at hw
  · refine ⟨s, rfl, ⟨?_, fun _ _ => rfl⟩, Stands.refl s, Below.refl s, fun _ => rfl⟩
    rw [Option.getD_none, hx, Nat.mod_eq_of_lt (wordAt_lt s _ n)]
  · obtain ⟨hmem, -, -, hfields⟩ := homeWrite_dram hs hd (leBytes n w) false
    have hstored := stored_of_mem hmem
    rw [leBytes_length, leNat_leBytes_mod, hw] at hstored
    exact ⟨_, rfl, hstored, Stands.homeWrite s a _ _, Below.homeWrite s a _ _, fun f => congrArg (SMap.get · FieldSt.reset f) hfields⟩

theorem stored_trans {s t u : State} {a n v : Nat} (hmem : t.mem = s.mem) (h : Claims.Stored t u a n v) : Claims.Stored s u a n v :=
  ⟨h.1, fun b hb => (h.2 b hb).trans (congrArg (Memory.get · b) hmem)⟩

theorem Finished.stored {s t u : State} {a n v : Nat} (h : Finished t u) (k : Claims.Stored s t a n v) : Claims.Stored s u a n v := by
  obtain ⟨hword, hbytes⟩ := k
  refine ⟨?_, fun b hb => (h.byte b).trans (hbytes b hb)⟩
  rwa [wordAt, State.bytes, h.mem]

/-- An atomic on a clean word of DRAM: it answers the word as it was, and stores its update. -/
theorem performAmo_stored {s : State} {x n : Nat} {p : Part} (hpos : 0 < n) (hline : lineBase (p.pa + n - 1) = lineBase p.pa)
    (hclean : NoneDirty s (fieldOf x) p.pa n) (hupd : (s.field (fieldOf x)).rcb.any (rcbOverlaps p.pa n) = false) (hs : AsWritten s)
    (hd : isDram p.pa = true) (hgood : s.poisoned p.pa n = false) (o : AmoOp) (a : Access) : ∃ t bytes,
    performAmo s x o n a p .clean = .ok t bytes [] ∧ leNat bytes = wordAt s (locOf s p.pa) n ∧
      Claims.Stored s t (locOf s p.pa) n ((atomicValue (8 * n) o (BitVec.ofNat _ (wordAt s (locOf s p.pa) n))
        (BitVec.ofNat _ a.data.toNat) (BitVec.ofNat _ a.p.toNat)).getD (BitVec.ofNat _ (wordAt s (locOf s p.pa) n))).toNat ∧
      Stands s t ∧ Below s t ∧ ∀ i, i < n → cachedByte (t.field (fieldOf x)) (p.pa + i) = none := by
  obtain ⟨v, hv, hnone, hamo⟩ := performAmo_spec hpos hline hclean hupd hs hd hgood o a
  have hword : wordAt v (locOf v p.pa) n = wordAt s (locOf s p.pa) n := by
    rw [wordAt, State.bytes, hv.mem, hv.below.locOf]
    rfl
  have hold : (BitVec.ofNat (8 * n) (wordAt s (locOf s p.pa) n)).toNat = wordAt s (locOf s p.pa) n := by
    rw [BitVec.toNat_ofNat, Nat.mod_eq_of_lt (wordAt_lt s _ n)]
  have hnew := amoNew_ofNat o (w := 8 * n) (by omega) (wordAt_lt s (locOf s p.pa) n) a.data.toNat a.p.toNat
  obtain ⟨t, ht, hstored, hstands, hbelow, hfield⟩ := updated_spec (hv.asWritten hs) hd (hold.trans hword.symm) hnew
  rw [hv.below.locOf] at hstored
  rw [ht] at hamo
  exact ⟨t, v.home p.pa n, hamo, hword, stored_trans hv.mem hstored, hv.stands.trans hstands, hv.below.trans hbelow,
    fun i hi => by rw [hfield]; exact hnone i hi⟩

/-- An atomic of one part at a clean word of DRAM (R236, R237). -/
theorem exec_amo {s : State} {x : Nat} {a : Access} {p : Part} {o : AmoOp} {n : Nat} (h : InDram s x a (.amo o n) p)
    (hmeets : meetsTentative s x p.pa n = false) (hclean : NoneDirty s (fieldOf x) p.pa n) (hgood : s.poisoned p.pa n = false) :
    ∃ t, exec (.memoryAccessPerformed x 0 .clean) s = .next t ∧
      Claims.Stored s t (locOf s p.pa) n ((atomicValue (8 * n) o (BitVec.ofNat _ (wordAt s (locOf s p.pa) n))
        (BitVec.ofNat _ a.data.toNat) (BitVec.ofNat _ a.p.toNat)).getD (BitVec.ofNat _ (wordAt s (locOf s p.pa) n))).toNat ∧
      (∀ i, i < n → cachedByte (t.field (fieldOf x)) (p.pa + i) = none) ∧
      Performed s t x a.id [{ kind := .data, data := BitVec.ofNat 64 (wordAt s (locOf s p.pa) n), psn := false }] := by
  obtain ⟨-, hlen, hpos, -, -⟩ := h.whole
  obtain ⟨hd, hbusy, hline⟩ := h.place
  have hupd := h.noUpdate
  replace hlen : p.len = n := hlen
  rw [hlen] at hpos hline hupd
  obtain ⟨u, hu, hexec⟩ := exec_begun h MemOp.noConfusion MemOp.noConfusion
  have hmark := (SameBytes.of_begun (f := fieldOf x) hu).trans (SameBytes.markPort u x _)
  have hdone : performHere u x (.amo o n) a p .clean = performAmo (markPort u x) x o n a p .clean := by
    unfold performHere
    dsimp only
    rw [(hu.busy p.pa).trans hbusy, if_neg Bool.false_ne_true]
    simp only [hd, hu.meets, hmeets, Bool.and_false, Bool.false_eq_true, if_false, if_true]
  generalize markPort u x = m at hmark hdone
  have hplace : locOf m p.pa = locOf s p.pa := hmark.unwritten.below.locOf _
  have hword : wordAt m (locOf s p.pa) n = wordAt s (locOf s p.pa) n := by
    rw [wordAt, State.bytes, hmark.unwritten.mem]
    rfl
  obtain ⟨t, bytes, hamo, hbytes, hstored, hstands, hbelow, hnone⟩ := performAmo_stored hpos hline (hmark.noneDirty hclean)
    (by rw [hmark.rcb]; exact hupd) (hmark.unwritten.asWritten h.sound) hd ((hmark.unwritten.poisoned h.sound _ _).trans hgood) o a
  rw [hplace, hword] at hbytes hstored
  have htoks : accessTokens (.amo o n) a [donePart p bytes []] =
      [{ kind := .data, data := BitVec.ofNat 64 (wordAt s (locOf s p.pa) n), psn := false }] := by
    rw [← hbytes]
    exact congrArg (fun bs => [dataTok (dataOf (leNat bs)) false]) (List.append_nil _)
  have hnext := hexec _ _ _ (hdone.trans hamo)
  rw [htoks] at hnext
  have hfin := Finished.finishAccess t x a.id
  exact ⟨_, hnext, (hfin _).stored (stored_trans hmark.unwritten.mem hstored), fun i hi => ((hfin _).cachedByte _ _).trans (hnone i hi),
    performed_of_stands (hmark.unwritten.stands.trans hstands) (hmark.unwritten.below.trans hbelow) _ _ _⟩

/-- A reduction of one part at a clean word of DRAM (R235, R237). -/
theorem exec_red {s : State} {x : Nat} {a : Access} {p : Part} {o : RedOp} {n : Nat} (h : InDram s x a (.red o n) p)
    (hn : n = 4 ∨ n = 8) (hmeets : meetsTentative s x p.pa n = false) (hclean : NoneDirty s (fieldOf x) p.pa n)
    (hroom : (s.field (fieldOf x)).rcb.length < 64) : ∃ t, exec (.memoryAccessPerformed x 0 .clean) s = .next t ∧ t.mem = s.mem ∧
      (t.field (fieldOf x)).rcb = (s.field (fieldOf x)).rcb ++
        [{ pa := p.pa, op := o, dword := decide (n = 8), value := BitVec.ofNat 64 (a.data.toNat % 2 ^ (8 * n)), psn := a.psn }] ∧
      (∀ i, i < n → cachedByte (t.field (fieldOf x)) (p.pa + i) = none) ∧ Performed s t x a.id [ord] := by
  obtain ⟨-, hlen, hpos, -, -⟩ := h.whole
  obtain ⟨hd, hbusy, hline⟩ := h.place
  have hupd := h.noUpdate
  replace hlen : p.len = n := hlen
  rw [hlen] at hpos hline hupd
  obtain ⟨u, hu, hexec⟩ := exec_begun h MemOp.noConfusion MemOp.noConfusion
  have hsame := SameBytes.of_begun (f := fieldOf x) hu
  obtain ⟨v, hacc, hv, hnone, hrcb⟩ := acceptRed_spec (s := u) hpos hline (hsame.noneDirty hclean) (by rw [hsame.rcb]; exact hupd) hn o
    (BitVec.ofNat 64 (a.data.toNat % 2 ^ (8 * n))) a.psn (by rw [hsame.rcb]; exact hroom)
  have hvalue : (BitVec.ofNat 64 (a.data.toNat % 2 ^ (8 * n))).toNat % 2 ^ (8 * n) = a.data.toNat % 2 ^ (8 * n) := by
    rw [BitVec.toNat_ofNat]
    rcases hn with rfl | rfl <;> omega
  have hdone : performHere u x (.red o n) a p .clean = .ok (markPort v x) [] [] := by
    unfold performHere
    dsimp only
    rw [(hu.busy p.pa).trans hbusy, if_neg Bool.false_ne_true]
    simp only [hd, hu.meets, hmeets, Bool.false_eq_true, if_false, if_true, hacc]
  have hall := hu.unwritten.trans hv
  have hfin := Finished.port v x a.id
  refine ⟨_, hexec _ _ _ hdone, (hfin _).mem.trans hall.mem, ?_, fun i hi => ((hfin _).cachedByte _ _).trans (hnone i hi),
    (hall.trans (Unwritten.markAt _ _ _)).performed _ _ _⟩
  rw [(hfin _).rcb, hrcb, hsame.rcb, hvalue]

end Sys2Proof.Machine

end

section

namespace Sys2Proof.Machine

open Claims

/-! ### Prefetches (R248) -/

/-- A prefetch reads the unit in where the cache lacks a byte of it. -/
theorem prefetch_spec {s : State} (hs : AsWritten s) {f q r m : Nat} {p : Part} (h : Grain p.gran p.pa q r m) (hd : isDram p.pa = true)
    (hroom : ∀ b, q * pageSize + r ≤ b → b < q * pageSize + r + m → Room s f b) (ev : Bool) : ∃ t, prefetch s f p ev .clean = t ∧
    Unwritten s t ∧ (cacheHolds (s.field f) (q * pageSize + r) m = true → t.field f = s.field f) ∧
    (cacheHolds (s.field f) (q * pageSize + r) m = false → ∀ b, q * pageSize + r ≤ b → b < q * pageSize + r + m →
      cachedByte (t.field f) b = filledByte s f b ∧ l2Holds t b = true) := by
  have heq : prefetch s f p ev .clean = if cacheHolds (s.field f) (q * pageSize + r) m then s
      else pmcCount (fetchUnit s f p.gran p.pa ev) (dieOfField f) 2 1 := by
    unfold prefetch
    rw [h.unit]
    rfl
  rw [heq]
  cases hhit : cacheHolds (s.field f) (q * pageSize + r) m
  · obtain ⟨hfills, hbytes, -⟩ := fetchUnit_spec hs h hroom ev
    have hheld := fun b => fetchUnit_held hs h hd hroom ev (b := b)
    rw [if_neg Bool.false_ne_true]
    generalize fetchUnit s f p.gran p.pa ev = v at *
    have hcount := Finished.of_asked (Beneath.pmcCount v (dieOfField f) 2 1) (Asked.pmcCount _ _ _ _)
    exact ⟨_, rfl, hfills.unwritten.trans (Unwritten.pmcCount _ _ _ _), fun hh => absurd hh Bool.false_ne_true,
      fun _ b hlo hhi => ⟨(hcount.cachedByte f b).trans (hbytes b hlo hhi), (hcount.l2Has _ _).trans (hheld b hlo hhi)⟩⟩
  · exact ⟨s, if_pos rfl, Unwritten.refl s, fun _ => rfl, fun hh => absurd hh Bool.true_eq_false.mp⟩

section
variable {s : State} {x : Nat} {a : Access} {p : Part} {ev : Bool}

/-- PREF fetches as a load does. -/
theorem exec_pref (h : InDram s x a (.pref false ev) p)
    (hroom : ∀ b, (granUnit p.gran p.pa).1 ≤ b → b < (granUnit p.gran p.pa).1 + (granUnit p.gran p.pa).2 → Room s (fieldOf x) b) :
    ∃ t, exec (.memoryAccessPerformed x 0 .clean) s = .next t ∧ t.mem = s.mem ∧ t.poison = s.poison ∧ Performed s t x a.id [] ∧
      (cacheHolds (s.field (fieldOf x)) (granUnit p.gran p.pa).1 (granUnit p.gran p.pa).2 = true →
        (t.field (fieldOf x)).cache = (s.field (fieldOf x)).cache) ∧
      (cacheHolds (s.field (fieldOf x)) (granUnit p.gran p.pa).1 (granUnit p.gran p.pa).2 = false → Filled s t (fieldOf x) p) := by
  obtain ⟨-, -, -, -, hgran⟩ := h.whole
  obtain ⟨hdram, hbusy, -⟩ := h.place
  obtain ⟨q, r, m, hgrain⟩ := exists_grain hgran p.pa
  obtain ⟨u, hu, hexec⟩ := exec_begun h MemOp.noConfusion MemOp.noConfusion
  rw [hgrain.unit] at hroom ⊢
  obtain ⟨v, hv, hunwritten, hhit, hmiss⟩ := prefetch_spec (hu.asWritten h.sound) hgrain hdram
    (fun b hlo hhi => hu.room (hroom b hlo hhi)) ev
  have hdone : performHere u x (.pref false ev) a p .clean = .ok (markPort v x) [] [] := by
    unfold performHere
    dsimp only
    rw [(hu.busy p.pa).trans hbusy, if_neg Bool.false_ne_true]
    simp only [hdram, Bool.not_true, Bool.false_eq_true, if_false, hv]
  rw [hu.field] at hhit hmiss
  have hall := hu.unwritten.trans hunwritten
  have hfin := Finished.port v x a.id []
  refine ⟨_, hexec _ _ _ hdone, hfin.mem.trans hall.mem, hfin.poison.trans hall.poison,
    (hall.trans (Unwritten.markAt _ _ _)).performed _ _ _, fun hh => (hfin.cache _).trans (congrArg FieldSt.cache (hhit hh)), fun hh => ?_⟩
  have hunit := hmiss hh
  refine ⟨(hfin.l2Has _ _).trans (hunit p.pa hgrain.around.1 hgrain.around.2).2, ?_⟩
  rw [hgrain.unit]
  intro b hlo hhi
  refine (hfin.cachedByte _ _).trans ?_
  rw [← hu.filledByte h.sound]
  exact (hunit b hlo hhi).1

/-- PREF.L2 fetches into the home's cache alone. -/
theorem exec_prefL2 (h : InDram s x a (.pref true ev) p) : ∃ t, exec (.memoryAccessPerformed x 0 .clean) s = .next t ∧ t.mem = s.mem ∧
    t.poison = s.poison ∧ Performed s t x a.id [] ∧ (t.field (fieldOf x)).cache = (s.field (fieldOf x)).cache ∧
      ∀ b, (granUnit p.gran p.pa).1 ≤ b → b < (granUnit p.gran p.pa).1 + (granUnit p.gran p.pa).2 → l2Holds t b = true := by
  obtain ⟨-, -, -, -, hgran⟩ := h.whole
  obtain ⟨hdram, hbusy, -⟩ := h.place
  obtain ⟨q, r, m, hgrain⟩ := exists_grain hgran p.pa
  obtain ⟨u, hu, hexec⟩ := exec_begun h MemOp.noConfusion MemOp.noConfusion
  have hdone : performHere u x (.pref true ev) a p .clean = .ok (l2Unit (eccOutcome u p.pa .clean) p.gran p.pa ev) [] [] := by
    unfold performHere
    dsimp only
    rw [(hu.busy p.pa).trans hbusy, if_neg Bool.false_ne_true]
    simp only [hdram, Bool.not_true, Bool.false_eq_true, if_false, if_true]
  have hclean : eccOutcome u p.pa .clean = u := rfl
  rw [hclean] at hdone
  have hnext : exec (.memoryAccessPerformed x 0 .clean) s = .next (finishAccess (l2Unit u p.gran p.pa ev) x a.id []) := hexec _ _ _ hdone
  have hunit := fun b => l2Holds_unit u hgrain hdram ev (b := b)
  have hasked : Asked u (l2Unit u p.gran p.pa ev) := Asked.l2Request (hu.asWritten h.sound) _ _ _ _
  have hall := hu.unwritten.trans (Unwritten.of_asked (Stands.l2Request u _ _ _ _) (Below.l2Request u _ _ _ _) hasked)
  have hfin := Finished.finishAccess (l2Unit u p.gran p.pa ev) x a.id []
  refine ⟨_, hnext, hfin.mem.trans hall.mem, hfin.poison.trans hall.poison, hall.performed _ _ _, ?_, fun b hlo hhi => ?_⟩
  · rw [hfin.cache, hasked.field, hu.field]
  · rw [hgrain.unit] at hlo hhi
    exact (hfin.l2Has _ _).trans (hunit b hlo hhi)

end

end Sys2Proof.Machine

end

section

namespace Sys2Proof.Machine

open Claims

/-! ### FLUSH (R249) -/

/-- A page of DRAM has one home. -/
theorem homeDie_page (s : State) {q r : Nat} (hd : q * pageSize < dramEnd) (hr : r < pageSize) :
    homeDie s (q * pageSize + r) = homeDie s (q * pageSize) := by
  have hdram : isDram (q * pageSize + r) = true ∧ isDram (q * pageSize) = true := ⟨isDram_of_page hd hr, isDram_iff.mpr hd⟩
  have hblock : (q * pageSize + r) / blockSize = q * pageSize / blockSize := by
    simp only [blockSize, pageSize] at hr ⊢
    omega
  simp only [homeDie, hdram, if_true, stackOf, hblock]
  generalize (s.quarter (leadOf s (q * pageSize / blockSize))).active.ilv.toNat = ilv
  generalize hk : (if ilv % 4 = 0 then q * pageSize / blockSize else if ilv % 4 = 1 then q * pageSize / blockSize / 2 * 2 else 0) = k
  have hle : k ≤ q * pageSize / blockSize := by
    rw [← hk]
    generalize q * pageSize / blockSize = b
    split <;> [skip; split] <;> omega
  have hpage : (q * pageSize + r - k * blockSize) / pageSize = (q * pageSize - k * blockSize) / pageSize := by
    simp only [blockSize, pageSize] at hr hle ⊢
    omega
  rw [hpage]

theorem homeDie_lineBase (s : State) {a : Nat} (ha : isDram a = true) : homeDie s (lineBase a) = homeDie s a := by
  obtain ⟨q, r, hr, rfl⟩ := exists_offset a
  have hd : q * pageSize < dramEnd := lt_of_le_of_lt (Nat.le_add_right _ r) (isDram_iff.mp ha)
  rw [lineBase_offset hr, homeDie_page s hd hr, homeDie_page s hd (by omega)]

theorem Stands.l2Drop (s : State) (a : Nat) : Stands s (l2Drop s a) :=
  Stands.ite (Stands.refl s) ((Stands.fold _ (fun _ _ => Stands.l2WriteBack _ _) _ _).trans (Stands.setDie _ _ _))

theorem Asked.l2Drop {s : State} (hs : AsWritten s) (a : Nat) : Asked s (l2Drop s a) := by
  unfold Machine.l2Drop
  exact Asked.ite (Asked.refl s) ((Asked.fold _ (fun _ l ht => Asked.l2WriteBack ht l) _ hs).trans (Asked.setDie _ _ _))

/-- A line dropped is gone from its set; the other sets are as they were. -/
theorem l2Drop_lines (s : State) {a : Nat} (ha : isDram a = true) (d n : Nat) : l2Lines (l2Drop s a) d n =
    if d = homeDie s a ∧ n = lineNo a % 65536 then (l2Lines s d n).filter fun l => l.base ≠ lineBase a else l2Lines s d n := by
  unfold l2Drop
  dsimp only
  rw [ha, if_neg (by decide)]
  generalize (SMap.get (s.die (homeDie s a)).l2 [] (lineNo a % 65536)).filter _ = out
  have hw : Beneath s (foldState l2WriteBack s out) := Beneath.fold _ (fun _ _ => Beneath.l2WriteBack _ _) _ _
  generalize foldState l2WriteBack s out = w at hw ⊢
  rw [l2Lines_setDie (ls := (l2Lines w (homeDie s a) (lineNo a % 65536)).filter fun l => l.base ≠ lineBase a) rfl, hw.lines]
  split
  · rename_i hdn
    obtain ⟨rfl, rfl⟩ := hdn
    rfl
  · exact hw.lines d n

theorem l2Has_l2Drop (s : State) {a : Nat} (ha : isDram a = true) (secs : List Nat) : l2Has (l2Drop s a) (lineBase a) secs = false := by
  have hno : lineNo (lineBase a) = lineNo a := lineNo_of_lineBase (lineBase_idem a).1
  rw [l2Has_eq, (Below.l2Drop s a).homeDie, homeDie_lineBase s ha, hno, l2Drop_lines s ha, if_pos ⟨rfl, rfl⟩]
  refine List.any_eq_false.mpr fun l hl => ?_
  have hne : l.base ≠ lineBase a := of_decide_eq_true (List.mem_filter.mp hl).2
  rw [beq_eq_false_iff_ne.mpr hne, Bool.false_and]
  exact Bool.false_ne_true

/-- Whether a byte lies in the line of an address. -/
def inLineOf (a b : Nat) : Bool := decide (lineBase b = lineBase a)

/-- A line that is flushed goes home and leaves the field's cache, and where FLUSH.DRAM asks for it the home's too. -/
theorem flushLine_spec {s : State} (hs : AsWritten s) {f a : Nat} (ha : isDram a = true) (hplace : LinesInPlace (s.field f)) (d : Bool) :
    ∃ t, flushLine s f a d = t ∧ Stands s t ∧ Below s t ∧ WrittenBack s t f (inLineOf a) (fun b _ => inLineOf a b) ∧
      (d = true → ∀ b, lineBase b = lineBase a → l2Holds t b = false) := by
  have hmark := Asked.markAt s (.cache f) 0
  have hfield := hmark.field f
  have hbelow := (Beneath.markAt s (.cache f) 0).toBelow
  have hstands := Stands.markAt s (.cache f) 0
  have hasm := hmark.asWritten hs
  have hplaceM : LinesInPlace ((markAt s (.cache f) 0).field f) := hfield ▸ hplace
  have hcover : ∀ g b v, GoesHome ((markAt s (.cache f) 0).field f) (inLineOf a) g b v →
      g ∈ ([(lineNo a, ⟨0, [], []⟩)] : SMap CLine).map Prod.fst := by
    rintro g b v ⟨l, hl, e, he, hgoes, -⟩
    obtain ⟨hnumber, hbase, -, hin⟩ := (linesInPlace_iff _).mp hplaceM g l hl
    simp only [goesHome, Bool.and_eq_true, inLineOf, decide_eq_true_eq, lineBase_of_offset hbase (hin e he).1] at hgoes
    rw [List.map_singleton, List.mem_singleton, ← hnumber]
    exact lineNo_of_lineBase (hbase.trans hgoes.2)
  have hback := writtenBack_clearVal hasm hplaceM hcover
  have hempty := emptied_writeBackLine hasm ((linesInPlace_iff _).mp hplaceM) (inLineOf a) (lineNo a)
  have hstandsW := hstands.trans (Stands.writeBackLine (markAt s (.cache f) 0) f (lineNo a) (inLineOf a) true)
  rw [foldState, foldState] at hback
  dsimp only at hback
  replace hback := writtenBack_congr hback hfield hbelow.locOf hmark.byte rfl fun _ => rfl
  have hbelowW := hbelow.trans hempty.below
  have hasW := hempty.asWritten hasm
  have heq : flushLine s f a d = if d then l2Drop (asCache (clearVal (writeBackLine (markAt s (.cache f) 0) f (lineNo a) (inLineOf a)
      true) f (inLineOf a)) f fun s => markAt s (.home (homeDie s a)) s.src) a
    else clearVal (writeBackLine (markAt s (.cache f) 0) f (lineNo a) (inLineOf a) true) f (inLineOf a) := rfl
  rw [heq]
  generalize writeBackLine (markAt s (.cache f) 0) f (lineNo a) (inLineOf a) true = w at *
  have hclear : Unwritten w (clearVal w f (inLineOf a)) := Unwritten.setField _ _ _
  generalize clearVal w f (inLineOf a) = c at *
  have hstandsC := hstandsW.trans hclear.stands
  have hbelowC := hbelowW.trans hclear.below
  cases d
  · exact ⟨c, rfl, hstandsC, hbelowC, hback, fun h => absurd h Bool.false_ne_true⟩
  · have hask : Unwritten c (asCache c f fun s => markAt s (.home (homeDie s a)) s.src) := Unwritten.asCache (hclear.asWritten hasW)
      (fun _ => Stands.markAt _ _ _) (fun _ => (Beneath.markAt _ _ _).toBelow) fun _ _ => Asked.markAt _ _ _
    have hfields : (asCache c f fun s => markAt s (.home (homeDie s a)) s.src).field f = c.field f :=
      (Asked.asCache (hclear.asWritten hasW) fun _ _ => Asked.markAt _ _ _).field f
    generalize (asCache c f fun s => markAt s (.home (homeDie s a)) s.src) = v at *
    have hdrop := Asked.l2Drop (hask.asWritten (hclear.asWritten hasW)) a
    refine ⟨_, if_pos rfl, (hstandsC.trans hask.stands).trans (Stands.l2Drop v a), (hbelowC.trans hask.below).trans (Below.l2Drop v a),
      writtenBack_congr hback rfl (fun _ => rfl) (fun _ => rfl) (by rw [hdrop.field, hfields]) fun b => (hdrop.byte b).trans (hask.byte b),
      fun _ b hb => ?_⟩
    rw [l2Holds, hb]
    exact l2Has_l2Drop v ha _

/-- FLUSH and FLUSH.DRAM of a line of DRAM. -/
theorem exec_flush {s : State} {x : Nat} {a : Access} {p : Part} {d : Bool} (h : InDram s x a (.flush d) p)
    (hregion : inRegion s x = false) (hplace : LinesInPlace (s.field (fieldOf x))) :
    ∃ t, exec (.memoryAccessPerformed x 0 .clean) s = .next t ∧ Performed s t x a.id [ord] ∧
      WrittenBack s t (fieldOf x) (inLineOf p.pa) (fun b _ => inLineOf p.pa b) ∧
      (d = true → ∀ b, lineBase b = lineBase p.pa → l2Holds t b = false) := by
  obtain ⟨hdram, hbusy, -⟩ := h.place
  obtain ⟨u, hu, hexec⟩ := exec_begun h MemOp.noConfusion MemOp.noConfusion
  obtain ⟨v, hv, hstands, hbelow, hback, hgone⟩ := flushLine_spec (hu.asWritten h.sound) hdram (hu.field (fieldOf x) ▸ hplace) d
  have hdone : performHere u x (.flush d) a p .clean = .ok v [] [] := by
    have hcommit : commitIfOwner u x = u := if_neg (by rw [hu.region, hregion]; exact Bool.false_ne_true)
    unfold performHere
    dsimp only
    rw [(hu.busy p.pa).trans hbusy, if_neg Bool.false_ne_true, hcommit, hdram, if_pos rfl, hv]
  have hfin := Finished.finishAccess v x a.id [ord]
  exact ⟨_, hexec _ _ _ hdone, performed_of_stands (hu.unwritten.stands.trans hstands) (hu.unwritten.below.trans hbelow) _ _ _,
    writtenBack_congr hback (hu.field _) hu.unwritten.below.locOf hu.unwritten.byte (hfin.cache _) hfin.byte,
    fun hd b hb => (hfin.l2Has _ _).trans (hgone hd b hb)⟩

end Sys2Proof.Machine

end

section

namespace Sys2Proof.Machine

open Claims

/-! ### RETAIN and UNPIN (R248) -/

/-- The lines that a command names are bases of lines. -/
theorem lineBase_of_named (x : Nat) (c : Bool) : ∀ (ps : List (Nat × Nat)) {s : State} {bs : List Nat},
    (namedLines s x c ps).2 = .lines bs → ∀ b ∈ bs, lineBase b = b
  | [], s, bs, h, b, hb => by
    cases h
    exact absurd hb List.not_mem_nil
  | (va, n) :: ps, s, bs, h, b, hb => by
    unfold namedLines at h
    dsimp only at h
    split at h
    · cases h
    · split at h
      · exact lineBase_of_named x c ps h b hb
      · cases h
    · split at h
      · exact lineBase_of_named x c ps h b hb
      · split at h
        · rename_i hrest
          cases h
          rcases List.mem_append.mp (List.mem_dedup.mp hb) with hb | hb
          · obtain ⟨k, -, rfl⟩ := List.mem_map.mp hb
            exact (lineBase_idem _).1
          · exact lineBase_of_named x c ps (congrArg Prod.snd hrest) b hb
        · rename_i hrest
          exact (hrest _ _ (Prod.ext rfl h)).elim

/-- The action on the lines named: neither a page of theirs is being converted nor one's translation is missing. -/
theorem exec_onLines {s : State} {x : Nat} {a : Access} {o : MemOp} {act : State → List Nat → State × Nat} {bs : List Nat}
    (hnext : (pendingParts (s.slot x))[0]? = some (a, 0)) (hop : memOp a.i = some o) (hparts : a.parts = some [actionPart])
    (hact : ∀ u, performAction u x o a = actOnLines u x a act)
    (hlines : (namedLines (s.by (slotSource x)) x false (namedParts a.va.toNat (a.data.toNat % 2 ^ 32))).2 = .lines bs)
    (hfree : ∀ b ∈ bs, pageBusy s b = false) :
    let r := act (namedLines (s.by (slotSource x)) x true (namedParts a.va.toNat (a.data.toNat % 2 ^ 32))).1 bs
    exec (.memoryAccessPerformed x 0 .clean) s = .next (finishAccess r.1 x a.id [dataTok (dataOf r.2) false]) := by
  refine congrArg Host.Outcome.next ?_
  have hslot := State.by_slot s (slotSource x) x
  have hbusy : ∀ b, pageBusy (s.by (slotSource x)) b = pageBusy s b := pageBusy_by s (slotSource x)
  have hpart : (a.parts.bind fun ps => ps[0]?) = some actionPart := by rw [hparts]; rfl
  unfold performPart
  dsimp only
  generalize s.by (slotSource x) = u at hslot hbusy hlines ⊢
  have hnextU : (pendingParts (u.slot x))[0]? = some (a, 0) := hslot ▸ hnext
  have hidle : bs.any (pageBusy u) = false := List.any_eq_false.mpr fun b hb => by
    rw [hbusy, hfree b hb]
    exact Bool.false_ne_true
  have hacted : performAction u x o a = .ok (act (namedLines u x true (namedParts a.va.toNat (a.data.toNat % 2 ^ 32))).1 bs).1
      [dataTok (dataOf (act (namedLines u x true (namedParts a.va.toNat (a.data.toNat % 2 ^ 32))).1 bs).2) false] := by
    rw [hact, actOnLines]
    dsimp only
    generalize namedLines u x false _ = r at hlines
    obtain ⟨v, r⟩ := r
    obtain rfl : r = .lines bs := hlines
    simp only [hidle, Bool.false_eq_true, if_false]
  have hlen : actionPart.len = 0 := rfl
  simp only [hnextU, hop, hpart, hlen, if_true, hacted]

theorem l2Drop_retw (s : State) (a d : Nat) : ((l2Drop s a).die d).retw = (s.die d).retw := by
  unfold l2Drop
  dsimp only
  split
  · rfl
  · generalize (SMap.get (s.die (homeDie s a)).l2 [] (lineNo a % 65536)).filter _ = out
    have hw : Beneath s (foldState l2WriteBack s out) := Beneath.fold _ (fun _ _ => Beneath.l2WriteBack _ _) _ _
    generalize foldState l2WriteBack s out = w at hw ⊢
    rw [← hw.retw, State.die, State.setDie, SMap.get_put]
    split
    · rename_i hd
      rw [hd]
    · rfl

/-- Lines that are dropped are reserved no longer, and no other line becomes so. -/
theorem l2Reserved_l2Drop {s : State} {a b : Nat} (h : l2Reserved s b = false ∨ b = a) : l2Reserved (l2Drop s a) b = false := by
  by_cases ha : isDram a = true
  · refine Bool.eq_false_iff.mpr fun hheld => ?_
    rw [l2Reserved_eq, (Below.l2Drop s a).homeDie, l2Drop_lines s ha, Bool.and_eq_true, List.any_eq_true] at hheld
    obtain ⟨hd, l, hl, hmatch⟩ := hheld
    rw [Bool.and_eq_true, beq_iff_eq, wayReserved_congr (l2Drop_retw s a _)] at hmatch
    obtain ⟨hbase, hway⟩ := hmatch
    have hin : l ∈ l2Lines s (homeDie s b) (lineNo b % 65536) ∧ b ≠ a := by
      split at hl
      · obtain ⟨hin, hne⟩ := List.mem_filter.mp hl
        exact ⟨hin, fun hba => of_decide_eq_true hne (hbase.trans (congrArg lineBase hba))⟩
      · rename_i hother
        exact ⟨hl, fun hba => hother (hba ▸ ⟨rfl, rfl⟩)⟩
    refine absurd (h.resolve_right hin.2) (Bool.not_eq_false _ ▸ ?_)
    rw [l2Reserved_eq, hd, Bool.true_and, List.any_eq_true]
    exact ⟨l, hin.1, by rw [hbase, beq_self_eq_true, Bool.true_and, hway]⟩
  · have hsame : l2Drop s a = s := if_pos (by rw [Bool.eq_false_iff.mpr ha]; rfl)
    rw [hsame]
    rcases h with h | rfl
    · exact h
    · rw [l2Reserved_eq, Bool.eq_false_iff.mpr ha, Bool.false_and]

/-- RETAIN asks for every line whole. -/
theorem retainLines_spec (s : State) (bs : List Nat) : Stands s (retainLines s bs).1 ∧ Below s (retainLines s bs).1 ∧
    (retainLines s bs).2 = (bs.filter (l2Reserved (retainLines s bs).1)).length :=
  ⟨Stands.fold _ (fun _ _ => Stands.l2Touch _ _ _ _ _) _ _, Below.fold _ (fun _ _ => Below.l2Touch _ _ _ _ _) _ _, rfl⟩

theorem heldWhole_retain (s : State) {b : Nat} (hb : lineBase b = b) (hd : isDram b = true) : heldWhole (retainLines s [b]).1 b := by
  intro i hi
  have hin : lineBase (b + i) = b := lineBase_of_offset hb hi
  refine l2Holds_request s hd (ls := [(lineBase b, lineSectors b)]) (q := ppnOf b) (fun l hl => ?_) (List.nodup_singleton (lineBase b))
    false false (List.mem_singleton_self _) (hb.trans hin.symm) ?_
  · rw [List.mem_singleton.mp hl]
    exact ⟨(lineBase_idem b).1, (lineBase_idem b).2⟩
  · have := mem_lineSectors (b + i)
    rwa [hin] at this

theorem l2Reserved_drops {b : Nat} : ∀ (as : List Nat) {s : State}, l2Reserved s b = false ∨ b ∈ as →
    l2Reserved (foldState (fun s b => l2Drop (markAt s (.home (homeDie s b)) s.src) b) s as) b = false
  | [], s, h => h.resolve_right List.not_mem_nil
  | a :: as, s, h => by
    have hmark := (Beneath.markAt s (.home (homeDie s a)) s.src).l2Reserved b
    refine l2Reserved_drops as ?_
    rcases h with h | h
    · exact .inl (l2Reserved_l2Drop (.inl (hmark.trans h)))
    · rcases List.mem_cons.mp h with rfl | h
      · exact .inl (l2Reserved_l2Drop (.inr rfl))
      · exact .inr h

/-- UNPIN drops the reserved lines: none of those named stays reserved. -/
theorem unpinLines_spec (s : State) (bs : List Nat) : Stands s (unpinLines s bs).1 ∧ Below s (unpinLines s bs).1 ∧
    (unpinLines s bs).2 = (bs.filter (l2Reserved s)).length ∧ ∀ b ∈ bs, l2Reserved (unpinLines s bs).1 b = false := by
  refine ⟨Stands.fold _ (fun _ _ => (Stands.markAt _ _ _).trans (Stands.l2Drop _ _)) _ _,
    Below.fold _ (fun _ _ => (Beneath.markAt _ _ _).toBelow.trans (Below.l2Drop _ _)) _ _, rfl, fun b hb => ?_⟩
  refine l2Reserved_drops _ ?_
  cases h : l2Reserved s b
  · exact .inl rfl
  · exact .inr (List.mem_filter.mpr ⟨hb, h⟩)

section
variable {s v : State} {x : Nat} {a : Access} {bs : List Nat} (hnext : (pendingParts (s.slot x))[0]? = some (a, 0))
  (hparts : a.parts = some [actionPart])
  (hlines : (namedLines (s.by (slotSource x)) x false (namedParts a.va.toNat (a.data.toNat % 2 ^ 32))).2 = .lines bs)
  (hfree : ∀ b ∈ bs, pageBusy s b = false)
  (hv : (namedLines (s.by (slotSource x)) x true (namedParts a.va.toNat (a.data.toNat % 2 ^ 32))).1 = v)
include hnext hparts hlines hfree hv

/-- RETAIN answers how many lines it names stand in reserved ways, and holds a line named alone whole. -/
theorem exec_retain (hop : memOp a.i = some .retain) : ∃ t, exec (.memoryAccessPerformed x 0 .clean) s = .next t ∧
    Performed v t x a.id [{ kind := .data, data := BitVec.ofNat 64 (bs.filter (l2Reserved t)).length, psn := false }] ∧
    ∀ b, bs = [b] → isDram b = true → heldWhole t b := by
  have hexec := exec_onLines hnext hop hparts (act := retainLines) (fun _ => rfl) hlines hfree
  have hbase := lineBase_of_named x false _ hlines
  rw [hv] at hexec
  obtain ⟨hstands, hbelow, hcount⟩ := retainLines_spec v bs
  have hfin := Finished.finishAccess (retainLines v bs).1 x a.id [dataTok (dataOf (retainLines v bs).2) false]
  refine ⟨_, hexec, ?_, fun b hb hd i hi => ?_⟩
  · rw [funext hfin.reserved, ← hcount]
    exact performed_of_stands hstands hbelow _ _ _
  · rw [l2Holds, hfin.l2Has]
    subst hb
    exact heldWhole_retain v (hbase b (List.mem_singleton_self b)) hd i hi

/-- UNPIN answers how many did, and leaves none. -/
theorem exec_unpin (hop : memOp a.i = some .unpin) : ∃ t, exec (.memoryAccessPerformed x 0 .clean) s = .next t ∧
    Performed v t x a.id [{ kind := .data, data := BitVec.ofNat 64 (bs.filter (l2Reserved v)).length, psn := false }] ∧
    ∀ b ∈ bs, l2Reserved t b = false := by
  have hexec := exec_onLines hnext hop hparts (act := unpinLines) (fun _ => rfl) hlines hfree
  rw [hv] at hexec
  obtain ⟨hstands, hbelow, hcount, hgone⟩ := unpinLines_spec v bs
  have hfin := Finished.finishAccess (unpinLines v bs).1 x a.id [dataTok (dataOf (unpinLines v bs).2) false]
  refine ⟨_, hexec, ?_, fun b hb => (hfin.reserved b).trans (hgone b hb)⟩
  rw [← hcount]
  exact performed_of_stands hstands hbelow _ _ _

end

end Sys2Proof.Machine

end

section

open Sys2Proof Sys2Proof.Machine Sys2Proof.Claims

/-- Settles O47: every access of one part is performed in one call, which either changes nothing that is stored (a load, a prefetch, a
store of clean data, a reduction), or writes at one home (poisoned data, an atomic), or takes a line home (FLUSH); RETAIN and UNPIN act
on the sets of the second-level caches alone. -/
theorem dramAccesses : Obligations.DramAccesses := by
  intro s x a p
  refine ⟨fun o h ho hroom => ?_, fun o h ho hregion hmeets => ⟨fun hpsn hroom => ?_, fun hpsn => ?_⟩,
    fun o n h _ hmeets hclean hgood => exec_amo h hmeets hclean hgood,
    fun o n h hn hmeets hclean hroom => exec_red h hn hmeets hclean hroom,
    fun ev h hroom => exec_pref h hroom, fun ev h => exec_prefL2 h, fun d h hregion hplace => exec_flush h hregion hplace,
    fun o bs hnext hop hparts ho hlines hfree => ?_⟩
  · obtain ⟨evf, ho'⟩ : ∃ evf, (∃ n sg, o = .ld n sg evf) ∨ ∃ eos, o = .ldb eos evf := by
      rcases ho with ⟨n, sg, ev, rfl⟩ | ⟨eos, ev, rfl⟩
      · exact ⟨ev, .inl ⟨n, sg, rfl⟩⟩
      · exact ⟨ev, .inr ⟨eos, rfl⟩⟩
    obtain ⟨t, hexec, hmem, hpoison, hperf, hhit, hmiss⟩ := exec_load h ho' hroom
    refine ⟨t, hexec, hmem, hpoison, fun n sg ev hld => ?_, fun eos ev hldb => ?_, hhit, hmiss⟩
    · subst hld
      rw [loadTokens_ld _ h] at hperf
      exact hperf
    · subst hldb
      rw [loadTokens_ldb _ h] at hperf
      · exact hperf
      · rw [List.length_map, List.length_range]
  · obtain ⟨t, hexec, hmem, hcached, hperf⟩ := exec_store_clean h ho hregion hmeets hpsn hroom
    exact ⟨t, hexec, hmem, fun b _ => hcached b, hperf⟩
  · exact exec_store_poisoned h ho hregion hmeets hpsn
  · rcases ho with rfl | rfl
    · obtain ⟨t, hexec, hperf⟩ := exec_retain hnext hparts hlines hfree rfl hop
      exact ⟨t, hexec, fun _ => hperf, fun h => MemOp.noConfusion h⟩
    · obtain ⟨t, hexec, hperf⟩ := exec_unpin hnext hparts hlines hfree rfl hop
      exact ⟨t, hexec, fun h => MemOp.noConfusion h, fun _ => hperf⟩

end
